-- ==== Sys2Proof/Word.lean ====
section
/-! DEFINITION. The plainest data types of the model: bytes, byte strings and sparse tables. Everything that computes
on them (field extraction, byte order, reading and writing a table) stands in Sys2Proof/Machine/Data.lean. -/

namespace Sys2Proof

/-- One byte (R10: every memory, register, descriptor, frame and tag is little-endian). -/
abbrev Byte := BitVec 8

/-- A byte string, lowest byte first (R10). -/
abbrev Bytes := List Byte

/-- A sparse table by index, in ONE canonical form: keys strictly rising, no entry equal to what an unlisted key reads
as. Memory, register files and every numbered unit of the block are held so. -/
abbrev Table (α : Type) := List (Nat × α)

/-- A complex sample: its I and Q rails. -/
abbrev IQ := Int × Int

/-- The low 40 bits of the tick counter, as a tag carries them (R9). -/
abbrev Air := BitVec 40

/-- An internal address (R28: 40 bits). -/
abbrev Addr := BitVec 40

end Sys2Proof
end

