-- ==== Sys2Proof/Syntax.lean ====
section
/-! DEFINITION. The commands of the block (one constructor of Instr per row of spec/opcode_table.json) and the types of
their operands. No row of the table gives its operands bits, so an operand has the type of the thing it names. -/

set_option genSizeOf false

namespace Sys2Proof

/-! ## Numbers of the block's units -/

abbrev Tile := Fin 4
abbrev Group := Fin 4
abbrev Cox := Fin 4
abbrev Carrier := Fin 4
abbrev Path := Fin 64
abbrev Quad := Fin 16
abbrev Syn := Fin 8
abbrev Obs := Fin 8
abbrev Bus := Fin 8
abbrev RailBit := Fin 8
/-- Sequencer k: 0-3 TSQ0-TSQ3, 4 the ASQ (R29). -/
abbrev Seq := Fin 5
abbrev Vc := Fin 16
abbrev Cap := Fin 16
abbrev Lane := Fin 32
abbrev DmaCh := Fin 32
/-- Fault-manager unit numbers (R521). -/
abbrev FUnit := Fin 32
/-- Link port index p (R399): 0 native upstream, 1 native downstream, 2 + e Ethernet port e. -/
abbrev LPort := Fin 34
abbrev VChan := Fin 4
abbrev Slot := Fin 256
abbrev Event := Fin 128
abbrev MsixVec := Fin 128
abbrev Die := Fin 7
abbrev CalEntry := Fin 1024
abbrev Entry := Fin 8192
/-- STOP function codes of R344, 1-21. -/
abbrev FnCode := Fin 32
/-- Sequencer register number (R294). -/
abbrev GReg := BitVec 5
abbrev Imm16 := BitVec 16
/-- Vector-core instruction fields (R352-R355). -/
abbrev VField := BitVec 5
abbrev VfField := BitVec 10
abbrev SField := BitVec 4
/-- Offset within window A (R584). -/
abbrev RegOff := BitVec 20

inductive Dir where
  /-- transmit, downlink (DIR 0) -/
  | tx
  /-- receive, uplink (DIR 1) -/
  | rx
  deriving DecidableEq, Repr

/-- The two regions of a beam bank (R226). -/
inductive Region where
  | baseband
  | engine
  deriving DecidableEq, Repr

inductive Bank where
  | A
  | B
  deriving DecidableEq, Repr

/-- The two rails of a complex sample. -/
inductive Rail where
  | I
  | Q
  deriving DecidableEq, Repr

/-- Item ports (R339, in the order of their numbers), then link ingress, which takes items from the link alone. -/
inductive Port where
  | bf | fft | wola | cfr | dpd | flt | sic | fe | lo | pwr | cap | lnk
  deriving DecidableEq, Repr

/-- Who makes a request (R27, R32). -/
inductive Initiator where
  | host
  | mgmt
  | link
  | seq (k : Seq)
  | vc (n : Vc)
  | dma (c : DmaCh)
  | spi
  deriving DecidableEq, Repr

/-- The two issue queues (R307). -/
inductive IssueQ where
  | hiq
  | miq
  deriving DecidableEq, Repr

/-- A machine of the power controller: the device's, or a tile's REED machine (R536). -/
inductive PMach where
  | device
  | tile (t : Tile)
  deriving DecidableEq, Repr

/-- The routes of update messages (R569). -/
inductive Route where
  | pcie
  | spi
  | link
  deriving DecidableEq, Repr

/-- The walks of the scrubber (R500-R502). -/
inductive ScrubWalk where
  | classD
  | classC
  | privileged
  deriving DecidableEq, Repr

/-- A coefficient record of a pipeline-local store (R138, R345). -/
inductive RecId where
  | dpd (p : Path) (set : Fin 16) (b : Bank)
  | corr (p : Path) (b : Bank)
  | rxiq (p : Path) (b : Bank)
  | sic (p : Path) (b : Bank)
  | fir (t : Tile) (d : Dir) (c : Carrier) (b : Bank)
  | cfr (t : Tile) (b : Bank)
  deriving DecidableEq, Repr

/-- A cross-fade: which current record it changes (R123, R129, R195, R214). -/
inductive FadeId where
  | model (p : Path)
  | corr (p : Path)
  | fir (t : Tile) (d : Dir) (c : Carrier)
  | sic (p : Path)
  deriving DecidableEq, Repr

/-- The tag word's fields (R37). `chk` is the TAGCHK that arrived. -/
structure Tag where
  air     : Air := 0
  epoch   : BitVec 8 := 0
  stream  : BitVec 8 := 0
  carrier : BitVec 2 := 0
  kind    : BitVec 6 := 0
  beamref : BitVec 13 := 0
  bank    : BitVec 1 := 0
  dpdset  : BitVec 4 := 0
  symbol  : BitVec 4 := 0
  mu      : BitVec 3 := 0
  rsvd    : BitVec 7 := 0
  length  : BitVec 16 := 0
  damaged : Bool := false
  warmup  : Bool := false
  late    : Bool := false
  last    : Bool := false
  source  : BitVec 4 := 0
  chk     : BitVec 8 := 0
  deriving DecidableEq, Repr

/-- A tagged item: tag word and payload, and the tile that a push by management firmware names (R307). -/
structure Item where
  tag  : Tag
  body : Bytes
  tile : BitVec 2 := 0
  deriving DecidableEq, Repr

/-- The flags a derived block carries (R53). -/
structure BlockFlags where
  damaged : Bool
  warmup  : Bool
  late    : Bool
  deriving DecidableEq, Repr

/-- The two bits ahead of a block's payload (R379). -/
abbrev SyncHeader := BitVec 2

/-- 66-bit blocks as a lane receives them: the 58 payload bits ahead of them, the oldest lowest, and the sync header and
payload bits of each (R379). -/
structure LineRun where
  before : BitVec 58
  blocks : List (SyncHeader × BitVec 64)
  deriving DecidableEq, Repr

/-- Which layer block leaves the combiner, and whether data it came from failed a check on its way (R174, R182). -/
structure UlName where
  air     : Air
  carrier : Carrier
  sectid  : BitVec 12
  layer   : BitVec 6
  startRb : BitVec 11
  numRb   : BitVec 7
  damaged : Bool
  deriving DecidableEq, Repr

/-- A layer block as it leaves the combiner (R173, R174): 24 rails for each of its RBs, each a Q9.15 value. -/
structure UlBlock where
  air     : Air
  carrier : Carrier
  symbol  : BitVec 4
  epoch   : BitVec 8
  sectid  : BitVec 12
  layer   : BitVec 6
  startRb : BitVec 11
  numRb   : BitVec 7
  comp    : Bool
  mantw   : BitVec 5
  ovl     : Bool
  flags   : BlockFlags
  rails   : List Int
  deriving DecidableEq, Repr

/-- What a full calibration found (R255, R261, R265). -/
structure CalResult where
  locked : Bool
  core   : BitVec 2
  divlog : BitVec 2
  band   : BitVec 6
  cap    : BitVec 8
  icp    : BitVec 4
  loop   : BitVec 4
  phofs  : BitVec 16
  tcal   : BitVec 8
  /-- the measured spread across the tiles exceeds 4 degrees (R265) -/
  spread : Bool
  deriving DecidableEq, Repr

/-- A Cypel frame as received on a port (R402, R403): link header, body, CRC-32. -/
structure Frame where
  hdr  : BitVec 64
  body : Bytes
  crc  : BitVec 32
  deriving DecidableEq, Repr

/-- A received Ethernet frame (R427, R428); `payload` follows the EtherType. -/
structure EthFrame where
  fcsGood : Bool
  dst     : BitVec 48
  src     : BitVec 48
  vlan    : Option (BitVec 16)
  etype   : BitVec 16
  payload : Bytes
  deriving DecidableEq, Repr

/-- How a received ALIGN word lies (R400, R407): the lane it came on and its distance in blocks from the
earliest lane's. -/
structure AlignSeen where
  lane : Lane
  skew : Nat
  deriving DecidableEq, Repr

/-- Where a PCIe request goes (R455, R458). -/
inductive HostWin where
  | winA | winB | winC
  | config
  | outside
  deriving DecidableEq, Repr

/-- A PCIe request (R457-R461). `enables` are the byte enables of a write, one per data byte (none: all set). -/
structure HostReq where
  win     : HostWin
  off     : BitVec 32
  write   : Bool
  posted  : Bool
  len     : Nat
  data    : Bytes
  enables : List Bool
  deriving DecidableEq, Repr

/-- An update session message (R570). -/
structure SessMsg where
  op     : BitVec 8
  tag    : BitVec 8
  zero   : BitVec 16
  offset : BitVec 32
  len    : BitVec 32
  crc    : BitVec 32
  client : BitVec 32
  data   : Bytes
  deriving DecidableEq, Repr

/-- Sample rails as a tap delivers them (R507). -/
abbrev Rails := List Int

/-- The commands of the block: one constructor per row of spec/opcode_table.json, in its order. Each docstring gives
the row's mnemonic and the rule that states its effect. -/
inductive Instr where
  /-- FD_DATA. -/
  | fdData (g : Tag) (body : Bytes)
  /-- TD_DATA. -/
  | tdData (g : Tag) (body : Bytes)
  /-- SECTION. -/
  | sectionItem (g : Tag) (body : Bytes)
  /-- UL_PARTIAL. -/
  | ulPartial (g : Tag) (body : Bytes)
  /-- BEAM_SEL_DECLARATION. -/
  | beamSelDeclaration (g : Tag) (body : Bytes)
  /-- SOUNDING_WINDOW. -/
  | soundingWindow (g : Tag) (body : Bytes)
  /-- BEAM_COMMIT. -/
  | beamCommit (g : Tag) (body : Bytes)
  /-- ENGINE_COMMIT. -/
  | engineCommit
  /-- FFT_CFG. -/
  | fftCfg (g : Tag) (body : Bytes)
  /-- WOLA. -/
  | wola (g : Tag) (body : Bytes)
  /-- CARRIER_ON. -/
  | carrierOn (t : Tile) (g : Tag) (body : Bytes)
  /-- CARRIER_OFF. -/
  | carrierOff (t : Tile) (g : Tag) (body : Bytes)
  /-- CARRIER_RETUNE. -/
  | carrierRetune (t : Tile) (g : Tag) (body : Bytes)
  /-- FLT_SWAP_TXFIR. -/
  | fltSwapTxfir (t : Tile) (g : Tag) (body : Bytes)
  /-- FLT_SWAP_RXFIR. -/
  | fltSwapRxfir (t : Tile) (g : Tag) (body : Bytes)
  /-- FLT_SWAP_RXIQ. -/
  | fltSwapRxiq (t : Tile) (g : Tag) (body : Bytes)
  /-- CFR_CFG. -/
  | cfrCfg (t : Tile) (g : Tag) (body : Bytes)
  /-- DPD_SWAP_MODEL. -/
  | dpdSwapModel (t : Tile) (g : Tag) (body : Bytes)
  /-- DPD_SWAP_CORR. -/
  | dpdSwapCorr (t : Tile) (g : Tag) (body : Bytes)
  /-- SIC_CTL_ON. -/
  | sicCtlOn (t : Tile) (g : Tag) (body : Bytes)
  /-- SIC_CTL_OFF. -/
  | sicCtlOff (t : Tile) (g : Tag) (body : Bytes)
  /-- SIC_CTL_SWAP. -/
  | sicCtlSwap (t : Tile) (g : Tag) (body : Bytes)
  /-- SIC_CTL_SNAP. -/
  | sicCtlSnap (t : Tile) (g : Tag) (body : Bytes)
  /-- GAIN_TX. -/
  | gainTx (t : Tile) (g : Tag) (body : Bytes)
  /-- GAIN_RX. -/
  | gainRx (t : Tile) (g : Tag) (body : Bytes)
  /-- LNA_STEP. -/
  | lnaStep (t : Tile) (g : Tag) (body : Bytes)
  /-- DC_FREEZE. -/
  | dcFreeze (t : Tile) (g : Tag) (body : Bytes)
  /-- DC_RELEASE. -/
  | dcRelease (t : Tile) (g : Tag) (body : Bytes)
  /-- FE_RXON. -/
  | feRxon (t : Tile) (g : Tag) (body : Bytes)
  /-- FE_RXOFF. -/
  | feRxoff (t : Tile) (g : Tag) (body : Bytes)
  /-- FE_LOOPBACK. -/
  | feLoopback (t : Tile) (g : Tag) (body : Bytes)
  /-- FE_LBREL. -/
  | feLbrel (t : Tile) (g : Tag) (body : Bytes)
  /-- FE_RXCAL. -/
  | feRxcal (t : Tile) (g : Tag) (body : Bytes)
  /-- FE_TUNE. -/
  | feTune (t : Tile) (g : Tag) (body : Bytes)
  /-- RFFE_GROUP. -/
  | rffeGroup (t : Tile) (g : Tag) (body : Bytes)
  /-- LO_PREP. -/
  | loPrep (t : Tile) (g : Tag) (body : Bytes)
  /-- LO_CAL. -/
  | loCal (t : Tile) (g : Tag) (body : Bytes)
  /-- LO_SWITCH. -/
  | loSwitch (t : Tile) (g : Tag) (body : Bytes)
  /-- PWR_CTL_ACTIVE. -/
  | pwrCtlActive (g : Tag) (body : Bytes)
  /-- PWR_CTL_REED. -/
  | pwrCtlReed (g : Tag) (body : Bytes)
  /-- PWR_CTL_SEDGE. -/
  | pwrCtlSedge (g : Tag) (body : Bytes)
  /-- PWR_CTL_FEN. -/
  | pwrCtlFen (g : Tag) (body : Bytes)
  /-- CAPTURE_START. -/
  | captureStart (g : Tag) (body : Bytes)
  /-- CAPTURE_STOP. -/
  | captureStop (g : Tag) (body : Bytes)
  /-- PLAYBACK_START. -/
  | playbackStart (g : Tag) (body : Bytes)
  /-- PLAYBACK_STOP. -/
  | playbackStop (g : Tag) (body : Bytes)
  /-- MARKER. -/
  | marker (p : Port) (t : Tile) (g : Tag) (body : Bytes)
  /-- STOP. -/
  | stop (p : Port) (t : Tile) (g : Tag) (body : Bytes)
  /-- STOP_RESUME. -/
  | stopResume (p : Port) (t : Tile) (g : Tag) (body : Bytes)
  /-- PATHTX_STOP. -/
  | pathtxStop (p : Port) (t : Tile) (g : Tag) (body : Bytes)
  /-- PATHRX_STOP. -/
  | pathrxStop (p : Port) (t : Tile) (g : Tag) (body : Bytes)
  /-- SQUASH_ITEM. -/
  | squashItem (p : Port) (t : Tile) (g : Tag) (body : Bytes)
  /-- COEF_PREDISTORTER. -/
  | coefPredistorter (t : Tile) (g : Tag) (body : Bytes)
  /-- COEF_TX_CORRECTOR. -/
  | coefTxCorrector (t : Tile) (g : Tag) (body : Bytes)
  /-- COEF_RX_CORRECTOR. -/
  | coefRxCorrector (t : Tile) (g : Tag) (body : Bytes)
  /-- COEF_CANCELLER. -/
  | coefCanceller (t : Tile) (g : Tag) (body : Bytes)
  /-- COEF_FIR. -/
  | coefFir (t : Tile) (g : Tag) (body : Bytes)
  /-- COEF_CFR_PULSE. -/
  | coefCfrPulse (t : Tile) (g : Tag) (body : Bytes)
  /-- SYNC_RESET. -/
  | syncReset (t : Tile) (g : Tag) (body : Bytes)
  /-- ITEM_APPLY. -/
  | itemApply (p : Port) (t : Tile)
  /-- LATE_ITEM_APPLY. -/
  | lateItemApply (p : Port) (t : Tile)
  /-- STOP_TIME_REACHED. -/
  | stopTimeReached (f : FnCode) (t : Tile)
  /-- QUIESCENCE. -/
  | quiescence (f : FnCode) (t : Tile)
  /-- PATH_POWER_DOWN. -/
  | pathPowerDown (p : Path) (rx : Bool)
  /-- MISSING_DATA_DEADLINE. -/
  | missingDataDeadline (c : Carrier) (airtime : Air)
  /-- SYNC_RESET_T0. -/
  | syncResetT0 (t : Tile)
  /-- CANCELLER_OFF_TAIL_END. -/
  | cancellerOffTailEnd (p : Path)
  /-- FADE_END. -/
  | fadeEnd (f : FadeId)
  /-- RECORD_LINE_FAILURE. -/
  | recordLineFailure (r : RecId)
  /-- RECORD_REBUILD. -/
  | recordRebuild (r : RecId)
  /-- DC_SERVO_STEP. -/
  | dcServoStep (p : Path) (rail : Rail)
  /-- UL_BLOCK_READY. -/
  | ulBlockReady (b : UlName)
  /-- HOLD_EXPIRY. -/
  | holdExpiry (ix : Nat)
  /-- SOUNDING_BLOCKS. -/
  | soundingBlocks (c : Carrier) (winid : BitVec 4) (damaged : Bool)
  /-- OBS_ENTRY_START. -/
  | obsEntryStart (n : Obs)
  /-- OBS_SNAPSHOT_START. -/
  | obsSnapshotStart (n : Obs)
  /-- OBS_SNAPSHOT_COMPLETE. -/
  | obsSnapshotComplete (n : Obs) (clip : Bool) (fb : Bytes)
  /-- OBS_POWER_RESULT. -/
  | obsPowerResult (n : Obs) (clip : Bool) (fb : Bytes)
  /-- SIC_SNAPSHOT_COMPLETE. -/
  | sicSnapshotComplete (t : Tile)
  /-- BEAM_TABLE_WRITE. -/
  | beamTableWrite (w : Initiator) (addr : Addr) (data : Bytes)
  /-- BUILD_COMPLETE. -/
  | buildComplete (d : Dir)
  /-- BUILD_OVERRUN. -/
  | buildOverrun (d : Dir)
  /-- BANK_LIVE. -/
  | bankLive (d : Dir) (r : Region)
  /-- BANK_RELEASE. -/
  | bankRelease (d : Dir) (r : Region)
  /-- ENTRY_LINE_FAILURE. -/
  | entryLineFailure (d : Dir) (b : Bank) (e : Entry)
  /-- ENTRY_REFETCH_COMPLETE. -/
  | entryRefetchComplete (d : Dir) (b : Bank) (e : Entry)
  /-- BEAM_ECQ_WRITE. -/
  | beamEcqWrite (w : Initiator) (v : BitVec 64)
  /-- BEAM_ALIGN_WRITE. -/
  | beamAlignWrite (w : Initiator) (d : Dir) (p : Path) (v : BitVec 32)
  /-- TX_READINESS_TEST. -/
  | txReadinessTest (t : Tile) (c : Carrier) (airtime : Air)
  /-- PREP_COMPLETE. -/
  | prepComplete (k : Syn)
  /-- CAL_COMPLETE. -/
  | calComplete (k : Syn) (found : CalResult)
  /-- CAL_YIELD. -/
  | calYield (k : Syn)
  /-- SWITCH_SPAN_START. -/
  | switchSpanStart (t : Tile)
  /-- LOCK_LOSS. -/
  | lockLoss (k : Syn)
  /-- RELOCK_FAILURE. -/
  | relockFailure (k : Syn)
  /-- REFCLK_LOSS. -/
  | refclkLoss
  /-- SYNCAL_COMMIT. -/
  | syncalCommit (w : Initiator) (k : Syn) (e : CalEntry) (v : BitVec 32)
  /-- FE_TXEN_ON. -/
  | feTxenOn (q : Quad) (airtime : Air) (gnt : BitVec 4)
  /-- FE_TXEN_OFF. -/
  | feTxenOff (q : Quad)
  /-- FE_RXEN_SWITCH. -/
  | feRxenSwitch (q : Quad) (gnt : BitVec 4)
  /-- RFFE_GROUP_START. -/
  | rffeGroupStart (b : Bus)
  /-- FE_RFFECMD. -/
  | feRffecmd (w : Initiator) (t : Tile) (v : BitVec 64)
  /-- RFFECMD_RUN. -/
  | rffecmdRun (t : Tile) (rd : BitVec 8) (parerr : Bool)
  /-- FE_MUTE_RELEASE. -/
  | feMuteRelease (w : Initiator) (t : Tile) (mask : BitVec 64)
  /-- MUTED_PATH_RESUME. -/
  | mutedPathResume (p : Path)
  /-- LIMITER_WINDOW. -/
  | limiterWindow (p : Path)
  /-- LIMITER_LEVEL_EXCHANGE. -/
  | limiterLevelExchange (t : Tile)
  /-- LIMITER_GAIN_RISE. -/
  | limiterGainRise (p : Path)
  /-- DUTY_WINDOW_START. -/
  | dutyWindowStart
  /-- DUTY_LIMIT_REACHED. -/
  | dutyLimitReached (p : Path)
  /-- RF_SAFE_N_FALL. -/
  | rfSafeNFall
  /-- RF_SAFE_N_RISE. -/
  | rfSafeNRise
  /-- RF_SAFE_RESUME. -/
  | rfSafeResume (q : Quad)
  /-- COX_REQUEST_RISE. -/
  | coxRequestRise (c : Cox) (pri : Bool)
  /-- COX_GRANT_WITHDRAWN. -/
  | coxGrantWithdrawn (c : Cox)
  /-- REGULATORY_READ_FAILURE. -/
  | regulatoryReadFailure
  /-- TEMPERATURE_UPDATE. -/
  | temperatureUpdate (d : Die) (temp : BitVec 12)
  /-- THERM_ALERT_N. -/
  | thermAlertN
  /-- ADD. -/
  | seqAdd (k : Seq) (gd : GReg) (ga : GReg) (gb : GReg)
  /-- SUB. -/
  | seqSub (k : Seq) (gd : GReg) (ga : GReg) (gb : GReg)
  /-- AND. -/
  | seqAnd (k : Seq) (gd : GReg) (ga : GReg) (gb : GReg)
  /-- OR. -/
  | seqOr (k : Seq) (gd : GReg) (ga : GReg) (gb : GReg)
  /-- XOR. -/
  | seqXor (k : Seq) (gd : GReg) (ga : GReg) (gb : GReg)
  /-- SLL. -/
  | seqSll (k : Seq) (gd : GReg) (ga : GReg) (gb : GReg)
  /-- SRL. -/
  | seqSrl (k : Seq) (gd : GReg) (ga : GReg) (gb : GReg)
  /-- SRA. -/
  | seqSra (k : Seq) (gd : GReg) (ga : GReg) (gb : GReg)
  /-- MUL. -/
  | seqMul (k : Seq) (gd : GReg) (ga : GReg) (gb : GReg)
  /-- SLT. -/
  | seqSlt (k : Seq) (gd : GReg) (ga : GReg) (gb : GReg)
  /-- SLTU. -/
  | seqSltu (k : Seq) (gd : GReg) (ga : GReg) (gb : GReg)
  /-- MIN. -/
  | seqMin (k : Seq) (gd : GReg) (ga : GReg) (gb : GReg)
  /-- MAX. -/
  | seqMax (k : Seq) (gd : GReg) (ga : GReg) (gb : GReg)
  /-- LEAD40. -/
  | seqLead40 (k : Seq) (gd : GReg) (ga : GReg) (gb : GReg)
  /-- ADD40. -/
  | seqAdd40 (k : Seq) (gd : GReg) (ga : GReg) (gb : GReg)
  /-- DIVU. -/
  | seqDivu (k : Seq) (gd : GReg) (ga : GReg) (gb : GReg)
  /-- ADDI. -/
  | seqAddi (k : Seq) (gd : GReg) (ga : GReg) (imm : Imm16)
  /-- ANDI. -/
  | seqAndi (k : Seq) (gd : GReg) (ga : GReg) (imm : Imm16)
  /-- ORI. -/
  | seqOri (k : Seq) (gd : GReg) (ga : GReg) (imm : Imm16)
  /-- XORI. -/
  | seqXori (k : Seq) (gd : GReg) (ga : GReg) (imm : Imm16)
  /-- SHI. -/
  | seqShi (k : Seq) (gd : GReg) (ga : GReg) (imm : Imm16)
  /-- SETW. -/
  | seqSetw (k : Seq) (gd : GReg) (ga : GReg) (imm : Imm16)
  /-- SHOR. -/
  | seqShor (k : Seq) (gd : GReg) (ga : GReg) (imm : Imm16)
  /-- EXT. -/
  | seqExt (k : Seq) (gd : GReg) (ga : GReg) (imm : Imm16)
  /-- INS. -/
  | seqIns (k : Seq) (gd : GReg) (ga : GReg) (imm : Imm16)
  /-- LD. -/
  | seqLd (k : Seq) (gd : GReg) (ga : GReg) (imm : Imm16)
  /-- LW. -/
  | seqLw (k : Seq) (gd : GReg) (ga : GReg) (imm : Imm16)
  /-- LH. -/
  | seqLh (k : Seq) (gd : GReg) (ga : GReg) (imm : Imm16)
  /-- LB. -/
  | seqLb (k : Seq) (gd : GReg) (ga : GReg) (imm : Imm16)
  /-- SD. -/
  | seqSd (k : Seq) (gd : GReg) (ga : GReg) (imm : Imm16)
  /-- SW. -/
  | seqSw (k : Seq) (gd : GReg) (ga : GReg) (imm : Imm16)
  /-- SH. -/
  | seqSh (k : Seq) (gd : GReg) (ga : GReg) (imm : Imm16)
  /-- SB. -/
  | seqSb (k : Seq) (gd : GReg) (ga : GReg) (imm : Imm16)
  /-- BR. -/
  | seqBr (k : Seq) (cond : BitVec 5) (off : BitVec 21)
  /-- BL. -/
  | seqBl (k : Seq) (gd : GReg) (off : BitVec 21)
  /-- JUMPR. -/
  | seqJumpr (k : Seq) (gd : GReg) (ga : GReg) (gb : GReg) (func : BitVec 11)
  /-- RBZ. -/
  | seqRbz (k : Seq) (gdhi : BitVec 4) (ga : GReg) (imm : Imm16)
  /-- RBNZ. -/
  | seqRbnz (k : Seq) (gdhi : BitVec 4) (ga : GReg) (imm : Imm16)
  /-- AT. -/
  | seqAt (k : Seq) (gd : GReg) (ga : GReg) (gb : GReg) (func : BitVec 11)
  /-- WAITT. -/
  | seqWaitt (k : Seq) (gd : GReg) (ga : GReg) (gb : GReg) (func : BitVec 11)
  /-- MFS. -/
  | seqMfs (k : Seq) (gd : GReg) (ga : GReg) (sel : Imm16)
  /-- MTS. -/
  | seqMts (k : Seq) (gd : GReg) (ga : GReg) (sel : Imm16)
  /-- EMIT. -/
  | seqEmit (k : Seq) (gs : GReg) (gt : GReg) (port : BitVec 8) (flags : BitVec 8)
  /-- EMIT_TRY. -/
  | seqEmitTry (k : Seq) (gs : GReg) (gt : GReg) (port : BitVec 8) (flags : BitVec 8)
  /-- BEAMSEL. -/
  | seqBeamsel (k : Seq) (gd : GReg) (ga : GReg) (gb : GReg) (func : BitVec 11)
  /-- COMMIT. -/
  | seqCommit (k : Seq) (gd : GReg) (ga : GReg) (gb : GReg) (func : BitVec 11)
  /-- PREP. -/
  | seqPrep (k : Seq) (gd : GReg) (ga : GReg) (gb : GReg) (func : BitVec 11)
  /-- HOP. -/
  | seqHop (k : Seq) (gd : GReg) (ga : GReg) (gb : GReg) (func : BitVec 11)
  /-- PWR. -/
  | seqPwr (k : Seq) (gd : GReg) (ga : GReg) (gb : GReg) (func : BitVec 11)
  /-- RECV. -/
  | seqRecv (k : Seq) (gd : GReg) (ga : GReg) (gb : GReg) (func : BitVec 11)
  /-- RECV_NB. -/
  | seqRecvNb (k : Seq) (gd : GReg) (ga : GReg) (gb : GReg) (func : BitVec 11)
  /-- EV_RAISE. -/
  | seqEvRaise (k : Seq) (gd : GReg) (ga : GReg) (gb : GReg) (func : BitVec 11)
  /-- EV_WAIT. -/
  | seqEvWait (k : Seq) (gd : GReg) (ga : GReg) (gb : GReg) (func : BitVec 11)
  /-- EV_WAIT_TIMEOUT. -/
  | seqEvWaitTimeout (k : Seq)
  /-- SEQ_STALL_END. -/
  | seqStallEnd (k : Seq)
  /-- CKPT. -/
  | seqCkpt (k : Seq) (gd : GReg) (ga : GReg) (imm : Imm16)
  /-- SQUASH. -/
  | seqSquash (k : Seq) (gd : GReg) (ga : GReg) (gb : GReg) (func : BitVec 11)
  /-- SQUASH_STALL_END. -/
  | seqSquashStallEnd (k : Seq)
  /-- SPECOFF. -/
  | seqSpecoff (k : Seq) (gd : GReg) (ga : GReg) (gb : GReg) (func : BitVec 11)
  /-- HALT. -/
  | seqHalt (k : Seq) (gd : GReg) (ga : GReg) (gb : GReg) (func : BitVec 11)
  /-- REFUSAL_FAULT. -/
  | refusalFault (k : Seq)
  /-- SEQ_RUN. -/
  | seqRun (w : Initiator) (k : Seq)
  /-- SEQ_STOP. -/
  | seqStop (w : Initiator) (k : Seq)
  /-- SEQ_RESTART. -/
  | seqRestart (w : Initiator) (k : Seq)
  /-- HIQ_PUSH. -/
  | hiqPush (w : Initiator) (v : BitVec 64)
  /-- MIQ_PUSH. -/
  | miqPush (w : Initiator) (v : BitVec 64)
  /-- ISSUE_QUEUE_ISSUE. -/
  | issueQueueIssue (q : IssueQ)
  /-- LOCKSTEP_MISMATCH. -/
  | lockstepMismatch (mgmt : Bool)
  /-- VNOP. -/
  | vNop (n : Vc) (dual : Bool) (vd : VField) (va : VField) (vb : VField) (vf : VfField)
  /-- VCMAC. -/
  | vCmac (n : Vc) (dual : Bool) (vd : VField) (va : VField) (vb : VField) (vf : VfField)
  /-- VADD. -/
  | vAdd (n : Vc) (dual : Bool) (vd : VField) (va : VField) (vb : VField) (vf : VfField)
  /-- VCONJ. -/
  | vConj (n : Vc) (dual : Bool) (vd : VField) (va : VField) (vb : VField) (vf : VfField)
  /-- VNORM. -/
  | vNorm (n : Vc) (dual : Bool) (vd : VField) (va : VField) (vb : VField) (vf : VfField)
  /-- VEXP. -/
  | vExp (n : Vc) (dual : Bool) (vd : VField) (va : VField) (vb : VField) (vf : VfField)
  /-- VRND. -/
  | vRnd (n : Vc) (dual : Bool) (vd : VField) (va : VField) (vb : VField) (vf : VfField)
  /-- VRSQ. -/
  | vRsq (n : Vc) (dual : Bool) (vd : VField) (va : VField) (vb : VField) (vf : VfField)
  /-- VSPLAT. -/
  | vSplat (n : Vc) (dual : Bool) (vd : VField) (va : VField) (vb : VField) (vf : VfField)
  /-- VHADD. -/
  | vHadd (n : Vc) (dual : Bool) (vd : VField) (va : VField) (vb : VField) (vf : VfField)
  /-- ACLR. -/
  | vAclr (n : Vc) (dual : Bool) (vd : VField) (va : VField) (vb : VField) (vf : VfField)
  /-- VMOVS. -/
  | vMovs (n : Vc) (dual : Bool) (vd : VField) (va : VField) (vb : VField) (vf : VfField)
  /-- VINS. -/
  | vIns (n : Vc) (dual : Bool) (vd : VField) (va : VField) (vb : VField) (vf : VfField)
  /-- AOVF. -/
  | vAovf (n : Vc) (dual : Bool) (vd : VField) (va : VField) (vb : VField) (vf : VfField)
  /-- SNOP. -/
  | sNop (n : Vc) (d : SField) (x : SField) (y : SField) (func : BitVec 13)
  /-- VC_ADD. -/
  | sAdd (n : Vc) (d : SField) (x : SField) (y : SField)
  /-- VC_SUB. -/
  | sSub (n : Vc) (d : SField) (x : SField) (y : SField)
  /-- VC_AND. -/
  | sAnd (n : Vc) (d : SField) (x : SField) (y : SField)
  /-- VC_OR. -/
  | sOr (n : Vc) (d : SField) (x : SField) (y : SField)
  /-- VC_XOR. -/
  | sXor (n : Vc) (d : SField) (x : SField) (y : SField)
  /-- VC_SLL. -/
  | sSll (n : Vc) (d : SField) (x : SField) (y : SField)
  /-- VC_SRL. -/
  | sSrl (n : Vc) (d : SField) (x : SField) (y : SField)
  /-- VC_SRA. -/
  | sSra (n : Vc) (d : SField) (x : SField) (y : SField)
  /-- VC_MUL. -/
  | sMul (n : Vc) (d : SField) (x : SField) (y : SField)
  /-- VC_SLT. -/
  | sSlt (n : Vc) (d : SField) (x : SField) (y : SField)
  /-- VC_SLTU. -/
  | sSltu (n : Vc) (d : SField) (x : SField) (y : SField)
  /-- VC_MIN. -/
  | sMin (n : Vc) (d : SField) (x : SField) (y : SField)
  /-- VC_MAX. -/
  | sMax (n : Vc) (d : SField) (x : SField) (y : SField)
  /-- SADDI. -/
  | sAddi (n : Vc) (d : SField) (x : SField) (imm : BitVec 17)
  /-- SLI. -/
  | sLi (n : Vc) (d : SField) (x : SField) (imm : BitVec 17)
  /-- SLIH. -/
  | sLih (n : Vc) (d : SField) (x : SField) (imm : BitVec 17)
  /-- MOV. -/
  | sMov (n : Vc) (d : SField) (x : SField) (y : SField) (func : BitVec 13)
  /-- AADDI. -/
  | sAaddi (n : Vc) (d : SField) (x : SField) (imm : BitVec 17)
  /-- VLD. -/
  | sVld (n : Vc) (t : VField) (ax : SField) (oy : SField) (disp : BitVec 12)
  /-- VST. -/
  | sVst (n : Vc) (t : VField) (ax : SField) (oy : SField) (disp : BitVec 12)
  /-- SLD. -/
  | sLd (n : Vc) (t : VField) (ax : SField) (oy : SField) (disp : BitVec 12)
  /-- SST. -/
  | sSt (n : Vc) (t : VField) (ax : SField) (oy : SField) (disp : BitVec 12)
  /-- REMOTE_LOAD_RESPONSE. -/
  | remoteLoadResponse (n : Vc)
  /-- B. -/
  | sB (n : Vc) (cond : BitVec 5) (off : BitVec 20)
  /-- VC_BL. -/
  | sBl (n : Vc) (cond : BitVec 5) (off : BitVec 20)
  /-- JR. -/
  | sJr (n : Vc) (d : SField) (x : SField) (y : SField) (func : BitVec 13)
  /-- LOOP. -/
  | sLoop (n : Vc) (word1 : Bool) (d : SField) (x : SField) (imm : BitVec 17)
  /-- MFSR. -/
  | sMfsr (n : Vc) (d : SField) (x : SField) (imm : BitVec 17)
  /-- SEV. -/
  | sSev (n : Vc) (d : SField) (x : SField) (y : SField) (func : BitVec 13)
  /-- SLEEP. -/
  | sSleep (n : Vc) (d : SField) (x : SField) (y : SField) (func : BitVec 13)
  /-- SLEEP_END. -/
  | sleepEnd (n : Vc)
  /-- FENCE. -/
  | sFence (n : Vc) (d : SField) (x : SField) (y : SField) (func : BitVec 13)
  /-- VC_HALT. -/
  | sHalt (n : Vc) (d : SField) (x : SField) (y : SField) (func : BitVec 13)
  /-- VC_RUN. -/
  | vcRun (w : Initiator) (n : Vc)
  /-- VC_STOP. -/
  | vcStop (w : Initiator) (n : Vc)
  /-- VC_RESTART. -/
  | vcRestart (w : Initiator) (n : Vc)
  /-- LANE_GROUP_ENABLE. -/
  | laneGroupEnable (w : Initiator) (g : Group) (v : BitVec 32)
  /-- LANE_GROUP_DISABLE. -/
  | laneGroupDisable (w : Initiator) (g : Group) (v : BitVec 32)
  /-- LANE_IDLE_REQUEST. -/
  | laneIdleRequest (w : Initiator) (l : Lane) (v : BitVec 32)
  /-- PLL_LOCK. -/
  | pllLock (g : Group)
  /-- IDLE_ENTRY. -/
  | idleEntry (l : Lane) (run : LineRun)
  /-- TRAIN. -/
  | train (l : Lane) (run : LineRun)
  /-- RETRAIN. -/
  | retrain (l : Lane) (run : LineRun)
  /-- SIGNAL_DETECT. -/
  | signalDetect (l : Lane)
  /-- FAST_EXIT_LOCK. -/
  | fastExitLock (l : Lane) (run : LineRun)
  /-- FAST_EXIT_FAIL. -/
  | fastExitFail (l : Lane)
  /-- TRAINING_END. -/
  | trainingEnd (l : Lane)
  /-- BLOCK_LOCK. -/
  | blockLock (l : Lane) (hdrs : List SyncHeader)
  /-- ACQUISITION_RETRY. -/
  | acquisitionRetry (l : Lane)
  /-- LOSS_OF_SIGNAL. -/
  | lossOfSignal (l : Lane)
  /-- LOSS_OF_LOCK. -/
  | lossOfLock (l : Lane) (range : Bool) (hdrs : List SyncHeader)
  /-- PORT_ALIGNING. -/
  | portAligning (p : LPort)
  /-- ALIGN_WORD. -/
  | alignWord (p : LPort) (w : BitVec 64) (seen : AlignSeen)
  /-- ALIGN_SEND. -/
  | alignSend (p : LPort)
  /-- LRESET_WORD. -/
  | lresetWord (p : LPort) (cut : Bool) (w : BitVec 64)
  /-- PORT_UP. -/
  | portUp (p : LPort)
  /-- CREDIT_WORD. -/
  | creditWord (p : LPort) (cut : Bool) (w : BitVec 64)
  /-- CREDIT_REFRESH. -/
  | creditRefresh (p : LPort)
  /-- ACK_WORD. -/
  | ackWord (p : LPort) (cut : Bool) (w : BitVec 64)
  /-- NAK_WORD. -/
  | nakWord (p : LPort) (cut : Bool) (w : BitVec 64)
  /-- ACK_TIMEOUT. -/
  | ackTimeout (p : LPort) (v : VChan)
  /-- CREDIT_TIMEOUT. -/
  | creditTimeout (p : LPort) (v : VChan)
  /-- VC2_WAIT_EXPIRY. -/
  | vc2WaitExpiry (p : LPort)
  /-- FRAME_SEND. -/
  | frameSend (p : LPort)
  /-- TAGGED_FRAME. -/
  | taggedFrame (p : LPort) (f : Frame)
  /-- MGMT_READ. -/
  | mgmtRead (p : LPort) (f : Frame)
  /-- MGMT_WRITE. -/
  | mgmtWrite (p : LPort) (f : Frame)
  /-- MGMT_UPDATE. -/
  | mgmtUpdate (p : LPort) (f : Frame)
  /-- MGMT_RSP. -/
  | mgmtRsp (p : LPort) (f : Frame)
  /-- EVENT_FRAME. -/
  | eventFrame (p : LPort) (f : Frame)
  /-- BULK. -/
  | bulk (p : LPort) (f : Frame)
  /-- LINKCTL. -/
  | linkctl (p : LPort) (f : Frame)
  /-- PTP_MESSAGE. -/
  | ptpMessage (p : LPort) (native : Bool) (dst : BitVec 48) (m : Bytes)
  /-- TSYNC_ANNOUNCE. -/
  | tsyncAnnounce (p : LPort) (f : Frame)
  /-- ETHERNET_FRAME. -/
  | ethernetFrame (p : LPort) (e : EthFrame)
  /-- PCS_LINK_CHANGE. -/
  | pcsLinkChange (p : LPort) (up : Bool)
  /-- TIME_STEP_WRITE. -/
  | timeStepWrite (w : Initiator) (v : BitVec 64)
  /-- TIME_REARM. -/
  | timeRearm (w : Initiator) (v : BitVec 32)
  /-- TIME_SRC_CHANGE. -/
  | timeSrcChange (w : Initiator) (v : BitVec 32)
  /-- TIME_RATE_WRITE. -/
  | timeRateWrite (w : Initiator) (v : BitVec 64)
  /-- STEERING_WORD_PERIODIC. -/
  | steeringWordPeriodic
  /-- SERVO_SAMPLE. -/
  | servoSample (theta : Int) (gen : BitVec 4) (spansStep : Bool) (rate : BitVec 40)
  /-- SOURCE_LOSS_TIMEOUT. -/
  | sourceLossTimeout
  /-- PTP_DESCRIPTOR. -/
  | ptpDescriptor (w : Initiator) (v : BitVec 32)
  /-- PTP_LAUNCH. -/
  | ptpLaunch (ix : Nat)
  /-- TSYNC_OUT_EDGE. -/
  | tsyncOutEdge
  /-- TSYNC_IN_EDGE. -/
  | tsyncInEdge
  /-- TSYNC_MISSING. -/
  | tsyncMissing
  /-- PPS_OUT_EDGE. -/
  | ppsOutEdge
  /-- PPS_IN_EDGE. -/
  | ppsInEdge
  /-- PPS_MISSING. -/
  | ppsMissing
  /-- SLOWCLK_TICK. -/
  | slowclkTick
  /-- HOST_REQUEST. -/
  | hostRequest (r : HostReq)
  /-- PCIE_PERST. -/
  | pciePerst
  /-- SLOT_CLAIM. -/
  | slotClaim (ix : Slot) (v : BitVec 64)
  /-- SLOT_HANDOVER. -/
  | slotHandover (ix : Slot) (v : BitVec 64)
  /-- SLOT_RELEASE. -/
  | slotRelease (ix : Slot) (v : BitVec 64)
  /-- DEVICE_SLOT_CLAIM. -/
  | deviceSlotClaim (w : Initiator) (ix : Slot) (v : BitVec 64)
  /-- DEVICE_SLOT_HANDOVER. -/
  | deviceSlotHandover (w : Initiator) (ix : Slot) (v : BitVec 64)
  /-- DEVICE_SLOT_RELEASE. -/
  | deviceSlotRelease (w : Initiator) (ix : Slot) (v : BitVec 64)
  /-- HEADER_REPOLL. -/
  | headerRepoll (ix : Slot)
  /-- LEASE_EXPIRY. -/
  | leaseExpiry (ix : Slot)
  /-- MEM_WINCBASE_WRITE. -/
  | memWincbaseWrite (w : Initiator) (v : BitVec 32)
  /-- MSIX_UNMASK. -/
  | msixUnmask (v : MsixVec)
  /-- SVC_WRITE. -/
  | svcWrite (b : Bytes)
  /-- SVC_READ. -/
  | svcRead (b : Bytes)
  /-- SVC_STATUS. -/
  | svcStatus
  /-- DMA_RING. -/
  | dmaRing (w : Initiator) (c : DmaCh) (v : BitVec 32)
  /-- DMA_ENABLE. -/
  | dmaEnable (w : Initiator) (c : DmaCh) (v : BitVec 32)
  /-- DMA_DISABLE. -/
  | dmaDisable (w : Initiator) (c : DmaCh) (v : BitVec 32)
  /-- DMA_RESUME. -/
  | dmaResume (w : Initiator) (c : DmaCh) (v : BitVec 32)
  /-- DMA_ABORT. -/
  | dmaAbort (w : Initiator) (c : DmaCh) (v : BitVec 32)
  /-- DMA_HEAD_WRITE. -/
  | dmaHeadWrite (w : Initiator) (c : DmaCh) (v : BitVec 64)
  /-- BURST_GRANT. -/
  | burstGrant (host : Bytes)
  /-- DESCRIPTOR_COMPLETE. -/
  | descriptorComplete (c : DmaCh)
  /-- WAITEV_SIGNAL. -/
  | waitevSignal (c : DmaCh) (e : Event)
  /-- WAITWORD_POLL. -/
  | waitwordPoll (c : DmaCh)
  /-- DMA_WAIT_TIMEOUT. -/
  | dmaWaitTimeout (c : DmaCh)
  /-- DMA_ERROR_HALT. -/
  | dmaErrorHalt (c : DmaCh)
  /-- SCRUB_STEP. -/
  | scrubStep (r : ScrubWalk)
  /-- PRIVILEGED_LAP_OVERDUE. -/
  | privilegedLapOverdue
  /-- NV_WORD_WRITE. -/
  | nvWordWrite (w : Initiator) (addr : Addr) (v : BitVec 64) (ok : Bool)
  /-- NV_ERASE. -/
  | nvErase (w : Initiator) (v : BitVec 64)
  /-- CAPTURE_RECORD. -/
  | captureRecord (e : Cap) (g : Tag) (unit : BitVec 6) (rails : Rails) (space : Bool)
  /-- PLAYBACK_RECORD. -/
  | playbackRecord (e : Cap)
  /-- EVENT_REPEAT_MESSAGE. -/
  | eventRepeatMessage (e : Event)
  /-- EV_PEND_CLEAR. -/
  | evPendClear (w : Initiator) (hi : Bool) (mask : BitVec 64) (hw : BitVec 64)
  /-- REQUEST_TIMEOUT. -/
  | requestTimeout (u : FUnit)
  /-- CLOCK_MONITOR_TRIP. -/
  | clockMonitorTrip (u : FUnit)
  /-- SELF_CHECK_ERROR. -/
  | selfCheckError (u : FUnit)
  /-- FENCE_REQUEST. -/
  | fenceRequest (w : Initiator) (v : BitVec 32)
  /-- FENCE_RELEASE. -/
  | fenceRelease (w : Initiator) (v : BitVec 32)
  /-- WATCHDOG_KICK. -/
  | watchdogKick (w : Initiator) (v : BitVec 32)
  /-- WATCHDOG_EXPIRY. -/
  | watchdogExpiry
  /-- PWR_REQ_ACTIVE. -/
  | pwrReqActive (w : Initiator) (v : BitVec 32)
  /-- PWR_REQ_FEN. -/
  | pwrReqFen (w : Initiator) (v : BitVec 32)
  /-- PWR_REQ_BOG. -/
  | pwrReqBog (w : Initiator) (v : BitVec 32)
  /-- PWR_REQ_PEAT. -/
  | pwrReqPeat (w : Initiator) (v : BitVec 32)
  /-- POWER_ENTRY_STEP. -/
  | powerEntryStep (m : PMach)
  /-- ENTRY_ROLLBACK. -/
  | entryRollback (m : PMach)
  /-- AUTO_REED_ENTRY. -/
  | autoReedEntry (t : Tile)
  /-- AUTO_REED_EXIT. -/
  | autoReedExit (t : Tile)
  /-- WAKE_TICK. -/
  | wakeTick
  /-- WAKE_N. -/
  | wakeN
  /-- EXIT_STEP_READY. -/
  | exitStepReady (m : PMach)
  /-- PS_GOOD_TIMEOUT. -/
  | psGoodTimeout (b : RailBit)
  /-- TRANSITION_OVERRUN. -/
  | transitionOverrun (m : PMach)
  /-- PS_GOOD_FALL. -/
  | psGoodFall (b : RailBit)
  /-- PS_EN_RAISE. -/
  | psEnRaise (good : BitVec 8)
  /-- AVS_STEP. -/
  | avsStep (up : Bool)
  /-- MODE_REQ_SERVICE. -/
  | modeReqService (w : Initiator)
  /-- MODE_REQ_MAINTENANCE. -/
  | modeReqMaintenance (w : Initiator)
  /-- MODE_REQ_TEST. -/
  | modeReqTest (w : Initiator)
  /-- MODE_REQ_WARMUP. -/
  | modeReqWarmup (w : Initiator)
  /-- MODE_REQ_TIMEOUT. -/
  | modeReqTimeout (w : Initiator)
  /-- SETTINGS_READ. -/
  | settingsRead
  /-- CALIBRATION_COMPLETE. -/
  | calibrationComplete
  /-- POWER_ON. -/
  | powerOn
  /-- RESET_PIN. -/
  | resetPin
  /-- SOFTWARE_RESET. -/
  | softwareReset (w : Initiator) (v : BitVec 32)
  /-- BOOT_WATCHDOG_EXPIRY. -/
  | bootWatchdogExpiry
  /-- SESSION_OPEN. -/
  | sessionOpen (r : Route) (m : SessMsg)
  /-- SESSION_WRITE. -/
  | sessionWrite (r : Route) (m : SessMsg)
  /-- SESSION_FINISH. -/
  | sessionFinish (r : Route) (m : SessMsg)
  /-- SESSION_ACTIVATE. -/
  | sessionActivate (r : Route) (m : SessMsg)
  /-- SESSION_CONFIRM. -/
  | sessionConfirm (r : Route) (m : SessMsg)
  /-- SESSION_ABORT. -/
  | sessionAbort (r : Route) (m : SessMsg)
  /-- SESSION_STATUS. -/
  | sessionStatus (r : Route) (m : SessMsg)
  /-- SESSION_READ. -/
  | sessionRead (r : Route) (m : SessMsg)
  /-- SESSION_FALLBACK. -/
  | sessionFallback (r : Route) (m : SessMsg)
  /-- SESSION_LOCK_EXPIRY. -/
  | sessionLockExpiry
  /-- TRIAL_WINDOW_EXPIRY. -/
  | trialWindowExpiry
  /-- COUNTER_READ_CLEAR. -/
  | counterReadClear (w : Initiator) (off : RegOff) (hw : Bool)
  /-- W1C_WRITE. -/
  | w1cWrite (w : Initiator) (off : RegOff) (v : BitVec 64) (hw : BitVec 64)
  /-- WIDE_REGISTER_COMMIT. -/
  | wideRegisterCommit (w : Initiator) (off : RegOff) (v : BitVec 64)
  /-- CONFIG_REGISTER_WRITE. -/
  | configRegisterWrite (w : Initiator) (off : RegOff) (wide : Bool) (v : BitVec 64)
  /-- REFCLK_RETURN. -/
  | refclkReturn
  /-- RESET_N_RELEASE. -/
  | resetNRelease (recoverN : Bool)
  /-- POWER_LOSS. -/
  | powerLoss
  /-- PCIE_PERST_N_RELEASE. -/
  | pciePerstNRelease
  /-- PCIE_ENDPOINT_READY. -/
  | pcieEndpointReady
  /-- REMOTE_STORE_RESPONSE. -/
  | remoteStoreResponse (n : Vc)
  /-- LOOPBACK_RELEASE_BY_TRAFFIC. -/
  | loopbackReleaseByTraffic (q : Quad)
  /-- LANE_IDLE_EXIT. -/
  | laneIdleExit (w : Initiator) (l : Lane) (v : BitVec 32)
  /-- TICK_COUNTER_WRAP. -/
  | tickCounterWrap
  deriving DecidableEq, Repr

end Sys2Proof
end

