-- ==== Sys2Proof/Decode.lean ====
section
/-! DEFINITION. Commands spelled by table bits, and the words of the sequencers' and the vector cores' programs. The table gives no row any
bits: its commands reach the block over its interfaces and are not encoded, so no word spells a command by the table. The words of
R322 and R371 are those that a program memory holds; a word that spells no instruction faults with cause 0x01 (R323, R350). -/

namespace Sys2Proof

/-- The command that the low `nbits` bits of `w` spell by the table: none, since no row of the table has bits. -/
def decodeTableWord (nbits w : Nat) : Option Instr :=
  let _ := (nbits, w)
  none

/-! ## Words of the sequencers (R322, R327, opcode map) -/

/-- Register-format op 0x00, by func (R327). -/
def seqAluWord (k : Seq) (gd ga gb : GReg) (func : Nat) : Option Instr :=
  match func with
  | 0x000 => some (.seqAdd k gd ga gb)
  | 0x001 => some (.seqSub k gd ga gb)
  | 0x002 => some (.seqAnd k gd ga gb)
  | 0x003 => some (.seqOr k gd ga gb)
  | 0x004 => some (.seqXor k gd ga gb)
  | 0x005 => some (.seqSll k gd ga gb)
  | 0x006 => some (.seqSrl k gd ga gb)
  | 0x007 => some (.seqSra k gd ga gb)
  | 0x008 => some (.seqMul k gd ga gb)
  | 0x009 => some (.seqSlt k gd ga gb)
  | 0x00A => some (.seqSltu k gd ga gb)
  | 0x00B => some (.seqMin k gd ga gb)
  | 0x00C => some (.seqMax k gd ga gb)
  | 0x00D => some (.seqLead40 k gd ga gb)
  | 0x00E => some (.seqAdd40 k gd ga gb)
  | 0x00F => some (.seqDivu k gd ga gb)
  | _ => none

/-- The instruction of a sequencer that a program word spells; none for an undefined op or func. -/
def seqWord (k : Seq) (w : BitVec 32) : Option Instr :=
  let gd : GReg := w.extractLsb' 21 5
  let ga : GReg := w.extractLsb' 16 5
  let gb : GReg := w.extractLsb' 11 5
  let func := w.extractLsb' 0 11
  let imm : Imm16 := w.extractLsb' 0 16
  let off := w.extractLsb' 0 21
  let port := w.extractLsb' 8 8
  let flags := w.extractLsb' 0 8
  match (w.extractLsb' 26 6).toNat with
  | 0x00 => seqAluWord k gd ga gb func.toNat
  | 0x01 => some (.seqAddi k gd ga imm)
  | 0x02 => some (.seqAndi k gd ga imm)
  | 0x03 => some (.seqOri k gd ga imm)
  | 0x04 => some (.seqXori k gd ga imm)
  | 0x05 => some (.seqShi k gd ga imm)
  | 0x06 => some (.seqSetw k gd ga imm)
  | 0x07 => some (.seqShor k gd ga imm)
  | 0x08 => some (.seqExt k gd ga imm)
  | 0x09 => some (.seqIns k gd ga imm)
  | 0x10 => some (.seqLd k gd ga imm)
  | 0x11 => some (.seqLw k gd ga imm)
  | 0x12 => some (.seqLh k gd ga imm)
  | 0x13 => some (.seqLb k gd ga imm)
  | 0x14 => some (.seqSd k gd ga imm)
  | 0x15 => some (.seqSw k gd ga imm)
  | 0x16 => some (.seqSh k gd ga imm)
  | 0x17 => some (.seqSb k gd ga imm)
  | 0x20 => some (.seqBr k gd off)
  | 0x21 => some (.seqBl k gd off)
  | 0x22 => some (.seqJumpr k gd ga gb func)
  | 0x23 => some (if w.getLsbD 21 then .seqRbnz k (w.extractLsb' 22 4) ga imm else .seqRbz k (w.extractLsb' 22 4) ga imm)
  | 0x28 => some (.seqAt k gd ga gb func)
  | 0x29 => some (.seqWaitt k gd ga gb func)
  | 0x2A => some (.seqMfs k gd ga imm)
  | 0x2B => some (.seqMts k gd ga imm)
  | 0x30 => some (if w.getLsbD 6 then .seqEmitTry k gd ga port flags else .seqEmit k gd ga port flags)
  | 0x31 => some (.seqBeamsel k gd ga gb func)
  | 0x32 => some (.seqCommit k gd ga gb func)
  | 0x34 => some (.seqPrep k gd ga gb func)
  | 0x35 => some (.seqHop k gd ga gb func)
  | 0x36 => some (.seqPwr k gd ga gb func)
  | 0x38 => some (if w.getLsbD 0 then .seqRecvNb k gd ga gb func else .seqRecv k gd ga gb func)
  | 0x39 => some (if w.getLsbD 0 then .seqEvWait k gd ga gb func else .seqEvRaise k gd ga gb func)
  | 0x3C => some (.seqCkpt k gd ga imm)
  | 0x3D => some (.seqSquash k gd ga gb func)
  | 0x3E => some (.seqSpecoff k gd ga gb func)
  | 0x3F => some (.seqHalt k gd ga gb func)
  | _ => none

/-! ## Words of the vector cores (R371-R373) -/

/-- A vector-slot word, by vop (R372); `dual` tells that it is word 0 of a bundle whose word 1 is an S word. -/
def vectorWord (n : Vc) (dual : Bool) (w : BitVec 32) : Option Instr :=
  let vd : VField := w.extractLsb' 20 5
  let va : VField := w.extractLsb' 15 5
  let vb : VField := w.extractLsb' 10 5
  let vf : VfField := w.extractLsb' 0 10
  match (w.extractLsb' 25 6).toNat with
  | 0x00 => some (.vNop n dual vd va vb vf)
  | 0x01 => some (.vCmac n dual vd va vb vf)
  | 0x02 => some (.vAdd n dual vd va vb vf)
  | 0x03 => some (.vConj n dual vd va vb vf)
  | 0x04 => some (.vNorm n dual vd va vb vf)
  | 0x05 => some (.vExp n dual vd va vb vf)
  | 0x06 => some (.vRnd n dual vd va vb vf)
  | 0x07 => some (.vRsq n dual vd va vb vf)
  | 0x08 => some (.vSplat n dual vd va vb vf)
  | 0x09 => some (.vHadd n dual vd va vb vf)
  | 0x0A => some (.vAclr n dual vd va vb vf)
  | 0x0B => some (.vMovs n dual vd va vb vf)
  | 0x0C => some (.vIns n dual vd va vb vf)
  | 0x0D => some (.vAovf n dual vd va vb vf)
  | _ => none

/-- Scalar op 0x01, by func (R373). -/
def scalarAluWord (n : Vc) (d x y : SField) (func : Nat) : Option Instr :=
  match func with
  | 0x000 => some (.sAdd n d x y)
  | 0x001 => some (.sSub n d x y)
  | 0x002 => some (.sAnd n d x y)
  | 0x003 => some (.sOr n d x y)
  | 0x004 => some (.sXor n d x y)
  | 0x005 => some (.sSll n d x y)
  | 0x006 => some (.sSrl n d x y)
  | 0x007 => some (.sSra n d x y)
  | 0x008 => some (.sMul n d x y)
  | 0x009 => some (.sSlt n d x y)
  | 0x00A => some (.sSltu n d x y)
  | 0x00B => some (.sMin n d x y)
  | 0x00C => some (.sMax n d x y)
  | _ => none

/-- A scalar-slot word, by sop (R373); `word1` tells that it is word 1 of its bundle. -/
def scalarWord (n : Vc) (word1 : Bool) (w : BitVec 32) : Option Instr :=
  let d : SField := w.extractLsb' 21 4
  let x : SField := w.extractLsb' 17 4
  let y : SField := w.extractLsb' 13 4
  let func := w.extractLsb' 0 13
  let imm := w.extractLsb' 0 17
  let t : VField := w.extractLsb' 20 5
  let ax : SField := w.extractLsb' 16 4
  let oy : SField := w.extractLsb' 12 4
  let disp := w.extractLsb' 0 12
  let cond := w.extractLsb' 20 5
  let off := w.extractLsb' 0 20
  match (w.extractLsb' 25 6).toNat with
  | 0x00 => some (.sNop n d x y func)
  | 0x01 => scalarAluWord n d x y func.toNat
  | 0x02 => some (.sAddi n d x imm)
  | 0x03 => some (.sLi n d x imm)
  | 0x04 => some (.sLih n d x imm)
  | 0x05 => some (.sMov n d x y func)
  | 0x06 => some (.sAaddi n d x imm)
  | 0x08 => some (.sVld n t ax oy disp)
  | 0x09 => some (.sVst n t ax oy disp)
  | 0x0A => some (.sLd n t ax oy disp)
  | 0x0B => some (.sSt n t ax oy disp)
  | 0x10 => some (.sB n cond off)
  | 0x11 => some (.sBl n cond off)
  | 0x12 => some (.sJr n d x y func)
  | 0x13 => some (.sLoop n word1 d x imm)
  | 0x14 => some (.sMfsr n d x imm)
  | 0x15 => some (.sSev n d x y func)
  | 0x16 => some (.sSleep n d x y func)
  | 0x17 => some (.sFence n d x y func)
  | 0x18 => some (.sHalt n d x y func)
  | _ => none

/-- The instruction that word `i` of the bundle (w0, w1) spells: bit 31 gives its class, and a V word before an S word issues with it
(R362). -/
def vcWord (n : Vc) (i : Bool) (w0 w1 : BitVec 32) : Option Instr :=
  let w := if i then w1 else w0
  if w.getLsbD 31 then vectorWord n (!i && !w1.getLsbD 31) w else scalarWord n i w

end Sys2Proof
end

