-- ==== Sys2Proof/Config.lean ====
section
/-! DEFINITION. What the part fixes and the spec does not give: the values an implementation chooses, and the free values.
None of them has a body: nothing can be proved of their values. -/

namespace Sys2Proof.Config

/-- The n-th free value drawn: a value the spec leaves open (log entry 2). -/
opaque freeWord : Nat → BitVec 512

/-- The part is a -M part (R2, R3, MODE_ID.VARIANT). -/
opaque variantM : Bool

/-- The part is of the -E grade (R2, R5, MODE_ID.EGRADE). -/
opaque gradeE : Bool

/-- MODE_ID.HWTYPE and MODE_ID.SILREV (R563). -/
opaque hwType : BitVec 32
opaque silRev : BitVec 8

/-- UPD_UNITID, the unit's identity hash (R567). -/
opaque unitId : BitVec 128

/-- The content of the mask ROM (R28). -/
opaque rom : Nat → Byte

/-- The constants of the half-band stages that stand in ROM alone (R206), by index of TILEn_HBROM. -/
opaque hbRom : Nat → BitVec 32

/-- By how much an output rail of a transform differs from the exactly rounded value, and a rail of a carrier oscillator from the
exact sine, within the bounds of R87 and R94. -/
opaque fftDev : Nat → Nat
opaque ncoDev : Nat → Nat

/-- How long a phase of a synthesiser's calibration that was taken up at a clock value lasts (R261, R268): a number that the model
brings within the phase's bound. -/
opaque calPhaseLen : Nat → Nat → Nat → Nat

/-- Parts of an LO's phase (R264), as numbers that the model brings into R264's bounds: φ_tile of a synthesiser at a frequency
word; φ_dev from a clock value on; the phase of a synthesiser tuned without PHSYNC at a clock value. -/
opaque loTile : Nat → Nat → Nat
opaque loDev : Nat → Nat
opaque loFree : Nat → Nat → Nat

/-- What the front dies deliver: the composite sample of a path's RXInn ball at a time in 1/16 tk of the clock, as int16 I and
int16 Q with both servo codes at zero, and whether a code of it reached an end of the ADC's range (R146, R147). -/
opaque rxSample : Nat → Nat → BitVec 32
opaque rxClip : Nat → Nat → Bool

/-- A parity error on a word that crosses between a front die and the core die at a clock value: of a path into the core and out
of it, and of an observation receiver (R16). -/
opaque rxParity : Nat → Nat → Bool
opaque txParity : Nat → Nat → Bool
opaque obsParity : Nat → Nat → Bool

/-- The fixed 2× stages whose coefficients the spec does not give, as functions of their inputs, newest first: the front
die's interpolation (R100), and the wide mode's interpolation and its decimation for the canceller's reference (R111, R192). -/
opaque dacUp : List IQ → IQ × IQ
opaque wideUp : List IQ → IQ × IQ
opaque wideDown : List IQ → IQ

/-- The bit errors that a lane's PRBS31 checker finds in a pattern from outside the device, in the span of 2,048 tk that ends at a
clock value (R391). -/
opaque prbsErrors : Nat → Nat → Nat

/-- Where a lane's scrambler, and the place of the next block in a port's stripe, stand at a clock value after words that fill the
stream: how many the lane clock makes room for is not the tick counter's to say (R378, R379, R400, R401). -/
opaque fillState : Nat → Nat → BitVec 58
opaque fillPos : Nat → Nat → Nat

/-- The verdict on an image's signature (R566: ECDSA P-384 over SHA-384, named by an outside standard). -/
opaque signatureGood : Bytes → Bool

/-- The verdict of the running firmware on a settings payload (R581). -/
opaque settingsGood : Bytes → Bool

/-- Settings content converted from one format to another by the trial firmware (R580), and the SHA-384 digest of a byte
string (R568: named by an outside standard). -/
opaque settingsConvert : Nat → Nat → Bytes → Bytes
opaque sha384 : Bytes → Bytes

/-- VRSQ's estimate for an operand (R360: a fixed function with an error bound only). -/
opaque vrsq : BitVec 512 → BitVec 512

end Sys2Proof.Config
end

