-- ==== Sys2Proof/Machine/Data.lean ====
section
/-! DEFINITION. Sparse tables, bit fields, byte order, sign extension, saturation and the checksums of the spec. -/

namespace Sys2Proof.Machine

/-! ## Sparse tables -/

/-- Reads key `k` of a sparse table; an unlisted key reads as `d k`. -/
def tget {α : Type} (d : Nat → α) : Table α → Nat → α
  | [], k => d k
  | (j, v) :: m, k => if j = k then v else tget d m k

/-- Removes the keys for which `p` holds (they read as their default again). -/
def tdrop {α : Type} (p : Nat → Bool) (m : Table α) : Table α := m.filter fun e => !p e.1

/-- Puts an entry before the first one with a greater key. -/
def tins {α : Type} (k : Nat) (v : α) : Table α → Table α
  | [] => [(k, v)]
  | (j, w) :: m => if k < j then (k, v) :: (j, w) :: m else (j, w) :: tins k v m

/-- Writes key `k`, keeping the canonical form: keys strictly rising, no entry equal to what an unlisted key reads as. -/
def tput {α : Type} [DecidableEq α] (d : Nat → α) (k : Nat) (v : α) (m : Table α) : Table α :=
  if v = d k then tdrop (· = k) m else tins k v (tdrop (· = k) m)

/-- Every key of the table lies above `lo`, keys rise strictly, and no entry equals its default. -/
def tabove {α : Type} [DecidableEq α] (d : Nat → α) (lo : Nat) : Table α → Bool
  | [] => true
  | (j, v) :: m => decide (lo < j) && decide (v ≠ d j) && tabove d j m

/-- The canonical form of a sparse table. -/
def tableWf {α : Type} [DecidableEq α] (d : Nat → α) : Table α → Bool
  | [] => true
  | (j, v) :: m => decide (v ≠ d j) && tabove d j m

/-- Inserts `k` into a strictly rising list of numbers. -/
def insSorted (k : Nat) : List Nat → List Nat
  | [] => [k]
  | j :: m => if k < j then k :: j :: m else if k = j then j :: m else j :: insSorted k m

/-! ## Numbers of the enumerated operands -/

def dirNum : Dir → Nat
  | .tx => 0
  | .rx => 1

def dirOf (n : Nat) : Dir := if n % 2 = 0 then .tx else .rx

def bankNum : Bank → Nat
  | .A => 0
  | .B => 1

def bankOf (n : Nat) : Bank := if n % 2 = 0 then .A else .B

def bankOther : Bank → Bank
  | .A => .B
  | .B => .A

def regionNum : Region → Nat
  | .baseband => 0
  | .engine => 1

def regionOf (n : Nat) : Region := if n % 2 = 0 then .baseband else .engine

/-- Emit port numbers (R339). -/
def portNum : Port → Nat
  | .bf => 0
  | .fft => 1
  | .wola => 2
  | .cfr => 3
  | .dpd => 4
  | .flt => 5
  | .sic => 6
  | .fe => 7
  | .lo => 8
  | .pwr => 9
  | .cap => 10
  | .lnk => 11

def portOf : Nat → Option Port
  | 0 => some .bf
  | 1 => some .fft
  | 2 => some .wola
  | 3 => some .cfr
  | 4 => some .dpd
  | 5 => some .flt
  | 6 => some .sic
  | 7 => some .fe
  | 8 => some .lo
  | 9 => some .pwr
  | 10 => some .cap
  | 11 => some .lnk
  | _ => none

/-! ## Bit fields -/

/-- Bits [lo + len - 1 : lo] of a number. -/
def nbits (v lo len : Nat) : Nat := v / 2 ^ lo % 2 ^ len

/-- Bits [lo + len - 1 : lo] of a word. -/
def fld {w : Nat} (v : BitVec w) (lo len : Nat) : Nat := nbits v.toNat lo len

/-- Bit `i` of a number. -/
def nbit (v i : Nat) : Bool := v / 2 ^ i % 2 = 1

/-- The word with bits [lo + len - 1 : lo] replaced by the low bits of `x`. -/
def setFld {w : Nat} (v : BitVec w) (lo len x : Nat) : BitVec w :=
  BitVec.ofNat w (v.toNat - fld v lo len * 2 ^ lo + x % 2 ^ len * 2 ^ lo)

/-- The word with bit `i` set to `b`. -/
def setBit {w : Nat} (v : BitVec w) (i : Nat) (b : Bool) : BitVec w := setFld v i 1 b.toNat

/-- A number as a signed field of `len` bits. -/
def sfield (x len : Nat) : Int := if x < 2 ^ (len - 1) then x else (x : Int) - 2 ^ len

/-- A signed field of a word. -/
def sfld {w : Nat} (v : BitVec w) (lo len : Nat) : Int := sfield (fld v lo len) len

/-- The bits set in a number below `n`, lowest first. -/
def bitsSet (v n : Nat) : List Nat := (List.range n).filter (nbit v)

/-- Number of bits set below `n`. -/
def popCount (v n : Nat) : Nat := (bitsSet v n).length

/-- Field of a register word: the new value where the mask has a one, the old one elsewhere. -/
def maskIn {w : Nat} (old new mask : BitVec w) : BitVec w := (old &&& ~~~mask) ||| (new &&& mask)

/-! ## Byte order (R10) -/

/-- The number a little-endian byte string stands for. -/
def leNat : Bytes → Nat
  | [] => 0
  | b :: bs => b.toNat + 256 * leNat bs

/-- `n` bytes of a number, lowest first. -/
def leBytes : Nat → Nat → Bytes
  | 0, _ => []
  | n + 1, v => BitVec.ofNat 8 v :: leBytes n (v / 256)

/-- Bits [lo + len - 1 : lo] of a payload, counted from byte 0 (R342). -/
def pbits (b : Bytes) (lo len : Nat) : Nat := nbits (leNat ((b.drop (lo / 8)).take (len / 8 + 2))) (lo % 8) len

/-- Bit `i` of a payload. -/
def pbit (b : Bytes) (i : Nat) : Bool := pbits b i 1 = 1

/-- `n` bytes starting at byte `o` (bytes past the end read as zero). -/
def slice (b : Bytes) (o n : Nat) : Bytes :=
  let x := (b.drop o).take n
  x ++ List.replicate (n - x.length) 0

/-- The bits of a byte string, bit 0 of the lowest byte first. -/
def bitList (b : Bytes) : List Bool := b.flatMap fun x => (List.range 8).map fun i => x.getLsbD i

/-! ## Checksums -/

/-- One bit into the CRC-8 register (R38: non-reflected, generator 0x07). -/
def crc8Bit (crc : BitVec 8) (m : Bool) : BitVec 8 :=
  let fb := crc.getLsbD 7 != m
  if fb then (crc <<< 1) ^^^ 0x07 else crc <<< 1

/-- The CRC-8 of R38 over a message given bit by bit. -/
def crc8 (m : List Bool) : BitVec 8 := m.foldl crc8Bit 0xFF

/-- One bit into the CRC-16 register (R494: generator 0x1021). -/
def crc16Bit (crc : BitVec 16) (m : Bool) : BitVec 16 :=
  let fb := crc.getLsbD 15 != m
  if fb then (crc <<< 1) ^^^ 0x1021 else crc <<< 1

/-- The CRC-16 of R494 over a 64-byte line. -/
def crc16 (line : Bytes) : BitVec 16 := (bitList line).foldl crc16Bit 0xFFFF

/-- One byte into a reflected CRC-32 register. -/
def crc32Byte (poly : BitVec 32) (crc : BitVec 32) (b : Byte) : BitVec 32 :=
  (List.range 8).foldl
    (fun c i => if c.getLsbD 0 != b.getLsbD i then (c >>> 1) ^^^ poly else c >>> 1) crc

/-- The CRC-32 of IEEE 802.3 (R405: reflected, initial value and final XOR all ones). -/
def crc32 (b : Bytes) : BitVec 32 := ~~~ (b.foldl (crc32Byte 0xEDB88320) 0xFFFFFFFF)

/-- The CRC-32C (Castagnoli) that R472 and R570 name. -/
def crc32c (b : Bytes) : BitVec 32 := ~~~ (b.foldl (crc32Byte 0x82F63B78) 0xFFFFFFFF)

/-! ## Arithmetic -/

/-- Clamp to a signed range of `n` bits. -/
def satN (n : Nat) (x : Int) : Int :=
  if x < -(2 ^ (n - 1) : Int) then -(2 ^ (n - 1) : Int)
  else if x > (2 ^ (n - 1) : Int) - 1 then (2 ^ (n - 1) : Int) - 1 else x

def sat16 (x : Int) : Int := satN 16 x
def sat24 (x : Int) : Int := satN 24 x

/-- Whether the clamp to `n` bits changes the value. -/
def clampsN (n : Nat) (x : Int) : Bool := satN n x ≠ x

/-- Division by a power of two rounded half up. -/
def roundShift (x : Int) (n : Nat) : Int := if n = 0 then x else (x + 2 ^ (n - 1)) / 2 ^ n

/-- Quotient rounded up. -/
def ceilDiv (a b : Nat) : Nat := (a + b - 1) / b

/-- A 16-bit two's-complement number as its value. -/
def int16 (x : Nat) : Int := sfield (x % 65536) 16

/-- The low `n` bits of a value in two's complement. -/
def toTwos (n : Nat) (x : Int) : Nat := (x % (2 ^ n : Int)).toNat

/-- A signed value as two little-endian bytes. -/
def le16 (x : Int) : Bytes := leBytes 2 (toTwos 16 x)

/-! ## Air time -/

/-- The signed 40-bit difference of an air time and a tick (R42). -/
def airDiff (a b : Air) : Int := (a - b).toInt

/-- The lead of an air time (R42). -/
def lead (a : Air) (now : BitVec 56) : Int := airDiff a (now.truncate 40)

/-- The full tick that a 40-bit air time stands for, seen from `now` (R42). -/
def fullTick (a : Air) (now : BitVec 56) : Int := (now.toNat : Int) + lead a now

/-- The duration of a symbol with normal prefix (R46). -/
def tsym (mu : Nat) : Nat := 280576 / 2 ^ mu

/-- Epoch `e` is older than `E` (R63). -/
def older (e E : BitVec 8) : Bool := let k := (E - e).toNat; decide (1 ≤ k ∧ k ≤ 127)

/-! ## The tag word -/

/-- Tag bits [119:0] in the layout of R37. -/
def tagLow (t : Tag) : BitVec 120 :=
  t.source ++ (BitVec.ofBool t.last ++ (BitVec.ofBool t.late ++ (BitVec.ofBool t.warmup ++ (BitVec.ofBool t.damaged ++
  (t.length ++ (t.rsvd ++ (t.mu ++ (t.symbol ++ (t.dpdset ++ (t.bank ++ (t.beamref ++ (t.kind ++ (t.carrier ++
  (t.stream ++ (t.epoch ++ t.air)))))))))))))))

/-- TAGCHK as every issuer computes it (R38). -/
def tagChk (t : Tag) : BitVec 8 := crc8 ((List.range 120).map fun i => (tagLow t).getLsbD i)

/-- The 128-bit tag word. -/
def tagWord (t : Tag) : BitVec 128 := t.chk ++ tagLow t

/-- The tag that a 128-bit word holds. -/
def tagOf (w : BitVec 128) : Tag where
  air     := w.extractLsb' 0 40
  epoch   := w.extractLsb' 40 8
  stream  := w.extractLsb' 48 8
  carrier := w.extractLsb' 56 2
  kind    := w.extractLsb' 58 6
  beamref := w.extractLsb' 64 13
  bank    := w.extractLsb' 77 1
  dpdset  := w.extractLsb' 78 4
  symbol  := w.extractLsb' 82 4
  mu      := w.extractLsb' 86 3
  rsvd    := w.extractLsb' 89 7
  length  := w.extractLsb' 96 16
  damaged := w.getLsbD 112
  warmup  := w.getLsbD 113
  late    := w.getLsbD 114
  last    := w.getLsbD 115
  source  := w.extractLsb' 116 4
  chk     := w.extractLsb' 120 8

/-- A tag with its check field computed anew: a stage that changes a tag field recomputes TAGCHK (R38). -/
def sealTag (t : Tag) : Tag := { t with chk := tagChk t }

/-- The 16 bytes of a tag word. -/
def tagBytes (t : Tag) : Bytes := leBytes 16 (tagWord t).toNat

/-- The tag in 16 bytes of memory. -/
def tagFromBytes (b : Bytes) : Tag := tagOf (BitVec.ofNat 128 (leNat b))

/-! ## Numbers of units (R7) -/

def tileOfPath (p : Nat) : Nat := p / 16
def quadOfPath (p : Nat) : Nat := p / 4
def tileOfQuad (q : Nat) : Nat := q / 4
/-- The paths of a quad. -/
def tilePaths (t : Nat) : List Nat := (List.range 16).map (16 * t + ·)
def quadPaths (q : Nat) : List Nat := [4 * q, 4 * q + 1, 4 * q + 2, 4 * q + 3]
/-- The paths of a tile that a path-in-tile mask names. -/
def tileMaskPaths (t mask : Nat) : List Nat := (bitsSet mask 16).map (16 * t + ·)

end Sys2Proof.Machine
end

