-- ==== Sys2Proof/Machine/Chain.lean ====
section
/-! DEFINITION. The arithmetic of the sample chains, as functions on lists of samples: transforms and windows (R84-R94,
R166, R173), the filter chains (R202-R214), crest-factor reduction (R97, R98, R188), the predistorter and the correctors
(R113-R117, R123, R128, R156), the limiter and the DAC code (R100, R285), and the canceller (R193). A filter works from
zero history on the list it is given; the callers hand it the samples its memory reaches. -/

namespace Sys2Proof.Machine
open Sys2Proof

/-! ## Samples -/

def iqMap (f : Int → Int) (x : IQ) : IQ := (f x.1, f x.2)
def iqAdd (x y : IQ) : IQ := (x.1 + y.1, x.2 + y.2)
def iqSub (x y : IQ) : IQ := (x.1 - y.1, x.2 - y.2)
def iqConj (x : IQ) : IQ := (x.1, -x.2)
def iqScale (c : Int) (x : IQ) : IQ := iqMap (· * c) x
def iqSum (l : List IQ) : IQ := l.foldl iqAdd (0, 0)
/-- |x|², exact. -/
def iqPower (x : IQ) : Nat := (x.1 * x.1 + x.2 * x.2).toNat
/-- Rails of a sample that a clamp to `n` bits changes. -/
def iqClips (n : Nat) (x : IQ) : Nat := (clampsN n x.1).toNat + (clampsN n x.2).toNat
/-- A sample clamped to `n` bits. -/
def iqSat (n : Nat) (x : IQ) : IQ := iqMap (satN n) x

/-- The complex product of two pairs of rails. -/
def cmul (x w : IQ) : IQ := (x.1 * w.1 - x.2 * w.2, x.1 * w.2 + x.2 * w.1)

/-- Rails clamped in a list of values of `n` bits. -/
def clipCount (n : Nat) (l : List IQ) : Nat := (l.map (iqClips n)).sum

/-- The last `n` entries of a list. -/
def lastN {α : Type} (n : Nat) (l : List α) : List α := l.drop (l.length - n)

/-- A sample of an int16 pair of a payload (R81, R103). -/
def iqAt (b : Bytes) (o : Nat) : IQ := (int16 (pbits b (8 * o) 16), int16 (pbits b (8 * o + 16) 16))
/-- `n` int16 samples from byte `o` on. -/
def iqList (b : Bytes) (o n : Nat) : List IQ := (List.range n).map fun i => iqAt b (o + 4 * i)
/-- Samples as int16 I then int16 Q, little-endian. -/
def iqBytes (l : List IQ) : Bytes := l.flatMap fun x => le16 x.1 ++ le16 x.2

/-! ## Sine and cosine

Fixed point with 60 fraction bits, from the power series; the error is below 2^-50 (log entry 40). -/

/-- The series of the cosine at an angle `x` of 60 fraction bits, 0 ≤ x ≤ π/2. -/
def cosSeries (x : Int) : Int :=
  ((List.range 18).foldl (fun (a : Int × Int) (k : Nat) =>
    let t := -(a.2 * (x * x / 2 ^ 60) / 2 ^ 60) / (((2 * k + 1) * (2 * k + 2) : Nat) : Int)
    (a.1 + t, t)) ((2 ^ 60 : Int), (2 ^ 60 : Int))).1

/-- cos(2π n / d), 60 fraction bits. -/
def cosTurn (n d : Nat) : Int :=
  let q := 4 * (n % d)
  let x := fun (r : Nat) => (1811004864519280710 * r / d : Nat)
  match q / d with
  | 0 => cosSeries (x (q % d))
  | 1 => -cosSeries (x (d - q % d))
  | 2 => -cosSeries (x (q % d))
  | _ => cosSeries (x (d - q % d))

/-- e^{j2π n / d}. -/
def cis (n d : Nat) : IQ := (cosTurn n d, cosTurn (4 * n + 3 * d) (4 * d))

/-! ## Rounding -/

/-- Division by 2^n, ties to the even neighbour (R87: convergent rounding). -/
def roundEven (x : Int) (n : Nat) : Int :=
  if n = 0 then x
  else
    let q := x / 2 ^ n
    let r := x % 2 ^ n
    if r < 2 ^ (n - 1) then q else if r > 2 ^ (n - 1) then q + 1 else q + q % 2

/-! ## Transforms (R86, R87, R166) -/

/-- Σ x[i] e^{±j2π k i / N} over a list of N samples, 60 fraction bits. -/
def dftSum (inverse : Bool) (xs : List IQ) (k : Nat) : IQ :=
  let n := xs.length
  (xs.foldl (fun (a : IQ × Nat) x =>
    let w := cis (k * a.2 % n) n
    (iqAdd a.1 (cmul x (if inverse then w else iqConj w)), a.2 + 1)) ((0, 0), 0)).1

/-- SCALE of a transform: 15 selects floor(log2 N / 2) (R87, R342). -/
def scaleOf (code nlog : Nat) : Nat := if code = 15 then nlog / 2 else code

/-- The deviation of a transform's output rail from the exactly rounded value: a free value of at most 3 LSB (R87). -/
def fftDev (key : Nat) : Int := ((Config.fftDev key % 7 : Nat) : Int) - 3

/-- One output of a transform before its clamp: scaled by 2^-SCALE and rounded, within the 3 LSB of R87. -/
def fftOut (scale key : Nat) (acc : IQ) : IQ :=
  (roundEven acc.1 (60 + scale) + fftDev (2 * key), roundEven acc.2 (60 + scale) + fftDev (2 * key + 1))

/-- The inverse FFT input bin of a resource element (R86). -/
def fftBin (n nrb rb i : Nat) : Nat := (((12 * rb + i : Int) - 6 * nrb) % (n : Int)).toNat

/-- The N inputs of an inverse FFT: resource elements, by subcarrier, at their bins, zero elsewhere (R86). -/
def ifftInput (n nrb : Nat) (res : Nat → IQ) : List IQ :=
  let at_ := (List.range (12 * nrb)).map fun s => (fftBin n nrb (s / 12) (s % 12), res s)
  (List.range n).map fun k => match at_.find? fun x => x.1 = k with
    | some x => x.2
    | none => (0, 0)

/-- The symbol x[0] … x[N − 1] of R87, before its clamp. -/
def ifft (scale key : Nat) (xs : List IQ) : List IQ :=
  (List.range xs.length).map fun i => fftOut scale (key + i) (dftSum true xs i)

/-- Bin k of R166 before its clamp: the window's transform rotated by the offset D, times `phase` (60 fraction bits), the
factor of PHCOMP. -/
def fftBinOut (scale key d : Nat) (phase : IQ) (xs : List IQ) (k : Nat) : IQ :=
  let n := xs.length
  let rot := cmul (cis (k * d % n) n) phase
  let x := cmul (dftSum false xs k) rot
  fftOut scale key (x.1 / 2 ^ 120, x.2 / 2 ^ 120)

/-! ## Gain and window (R89-R92) -/

/-- A rail after a digital gain, before its clamp (R89, R161). -/
def gainRaw (g : Nat) (z : IQ) : IQ := iqMap (fun x => (x * g + 0x2000) / 2 ^ 14) z

/-- Head weight h[k] of a window of W samples, 0x1_0000 = 1.0: raised cosine, or linear (R90). -/
def headWeight (linear : Bool) (w k : Nat) : Int :=
  if linear then ((65536 * (2 * k + 1) + w) / (2 * w) : Nat)
  else (65536 * ((2 ^ 60 : Int) - cosTurn (2 * k + 1) (4 * w)) + 2 ^ 60) / 2 ^ 61

/-- An overlap sample before its clamp (R90). -/
def overlapRaw (h : Int) (head tail : IQ) : IQ :=
  ((head.1 * h + tail.1 * (65536 - h) + 0x8000) / 2 ^ 16, (head.2 * h + tail.2 * (65536 - h) + 0x8000) / 2 ^ 16)

/-- A sample turned by e^{j2π n / d}, rounded half up. -/
def turned (n d : Nat) (x : IQ) : IQ := iqMap (fun r => roundShift r 60) (cmul x (cis n d))

/-! ## Beamforming and combining (R84, R173) -/

/-- One output of the beamformer or combiner before its clamp: values, weights and common exponents of the terms. -/
def weightedRaw (bfscale : Nat) (ls : List (IQ × IQ × Nat)) : IQ :=
  let acc := iqSum (ls.map fun l => iqScale (2 ^ (15 - l.2.2)) (cmul l.1 l.2.1))
  iqMap (fun r => roundShift r (15 + bfscale)) acc

/-! ## The filter chains (R202-R211) -/

/-- The last `n` entries up to each entry of a list, newest first. -/
def windowsFrom {α : Type} (n : Nat) : List α → List α → List (List α)
  | _, [] => []
  | past, x :: xs => let p := (x :: past).take n; p :: windowsFrom n p xs

/-- The sum of taps times a window of inputs, newest first, per rail. -/
def dot (h : List Int) (w : List IQ) : IQ :=
  ((List.zipWith (fun c (x : IQ) => c * x.1) h w).sum, (List.zipWith (fun c (x : IQ) => c * x.2) h w).sum)

/-- Filters a list with taps `h` from zero history. -/
def conv (h : List Int) (xs : List IQ) : List IQ := (windowsFrom h.length [] xs).map (dot h)

/-- The programmable FIR's taps over its span F: the record's T taps centred, or the single tap 1.0 (R210, R211). -/
def firTaps (f : Nat) (valid : Bool) (b : Bytes) : List Int :=
  let t := if valid then pbits b 1 7 else 1
  let c := fun (i : Nat) => if valid then sfield (pbits b (8 * (16 + 4 * (min i (t - 1 - i)))) 18) 18 else 65536
  let side := List.replicate ((f - t) / 2) 0
  side ++ (List.range t).map c ++ List.replicate (f - t - (f - t) / 2) 0

/-- The FIR's output y for one window of inputs, newest first, before its clamp to 18 bits (R211). -/
def firRaw (h : List Int) (w : List IQ) : IQ := iqMap (fun r => (r + 2 ^ 15) / 2 ^ 16) (dot h w)

/-- The distinct coefficients of half-band stage `j`, centre outwards (R206). Those of stages 1 and 2 stand in ROM alone;
the outermost follows from their sum of exactly 32,768 (R205). -/
def hbCoef (i : Nat) : Int :=
  let rom := fun (k : Nat) => sfield ((Config.hbRom k).toNat % 2 ^ 18) 18
  if i < 14 then rom i
  else if i = 14 then 32768 - ((List.range 14).map rom).sum
  else if i < 21 then rom i
  else if i = 21 then 32768 - ((List.range 6).map fun k => rom (15 + k)).sum
  else [39690, -8820, 2268, -405, 35, 38400, -6400, 768].getD (i - 22) 0

def hbStage : Nat → List Int
  | 1 => (List.range 15).map hbCoef
  | 2 => (List.range 7).map fun i => hbCoef (15 + i)
  | 3 => (List.range 5).map fun i => hbCoef (22 + i)
  | _ => (List.range 3).map fun i => hbCoef (27 + i)

/-- All L taps of a half-band stage: the centre 0.5, zeros at even offsets (R205). -/
def hbTaps (c : List Int) : List Int :=
  let side := (c.flatMap fun x => [x, 0]).dropLast
  side.reverse ++ [65536] ++ side

/-- An interpolating half-band stage before its clamp to 18 bits: a zero after each sample, filtered with 2h (R205). -/
def hbUpRaw (c : List Int) (xs : List IQ) : List IQ :=
  (conv (hbTaps c) (xs.flatMap fun x => [x, (0, 0)])).map (iqMap fun r => (r + 2 ^ 15) / 2 ^ 16)

/-- Every `m`-th entry of a list, from the `o`-th on. -/
def everyNth {α : Type} (m o : Nat) (l : List α) : List α :=
  ((List.zip (List.range l.length) l).filter fun x => x.1 % m = o).map Prod.snd

/-- A decimating half-band stage before its clamp to 18 bits: filtered with h, every second output kept (R205). -/
def hbDownRaw (c : List Int) (xs : List IQ) : List IQ :=
  (everyNth 2 0 (conv (hbTaps c) xs)).map (iqMap fun r => (r + 2 ^ 16) / 2 ^ 17)

/-- The registers of an integrator-comb stage for one rail: five integrators and five combs of 36 bits (R208). -/
structure CicRegs where
  integ : List (BitVec 36) := List.replicate 5 0
  comb  : List (BitVec 36) := List.replicate 5 0
  deriving DecidableEq, Repr

/-- A value through the integrators: each adds the one before it, modulo 2^36. -/
def integrate (x : BitVec 36) : List (BitVec 36) → List (BitVec 36) × BitVec 36
  | [] => ([], x)
  | r :: rs => let y := r + x; let (q, o) := integrate y rs; (y :: q, o)

/-- A value through the combs: each subtracts its value of one sample before, modulo 2^36. -/
def combs (x : BitVec 36) : List (BitVec 36) → List (BitVec 36) × BitVec 36
  | [] => ([], x)
  | r :: rs => let (q, o) := combs (x - r) rs; (x :: q, o)

/-- The interpolator (R208): the combs take the input, and the first integrator their output followed by M − 1 zeros. -/
def cicUpRail (m : Nat) : CicRegs → List Int → List Int
  | _, [] => []
  | s, x :: xs =>
    let (c, y) := combs (BitVec.ofInt 36 x) s.comb
    let (i, outs) := (y :: List.replicate (m - 1) 0).foldl (fun (a : List (BitVec 36) × List Int) v =>
      let (i, o) := integrate v a.1
      (i, a.2 ++ [o.toInt])) (s.integ, [])
    outs ++ cicUpRail m ⟨i, c⟩ xs

/-- The decimator (R208): the integrators take every input; the combs take every M-th of their outputs. -/
def cicDownRail (m : Nat) : CicRegs → Nat → List Int → List Int
  | _, _, [] => []
  | s, k, x :: xs =>
    let (i, o) := integrate (BitVec.ofInt 36 x) s.integ
    if k % m = 0 then
      let (c, y) := combs o s.comb
      y.toInt :: cicDownRail m ⟨i, c⟩ (k + 1) xs
    else cicDownRail m { s with integ := i } (k + 1) xs

/-- The integrator-comb stage before its clamp to 18 bits, scaled as R208 says. -/
def cicUpRaw (m : Nat) (xs : List IQ) : List IQ :=
  let sh := 4 * Nat.log2 m
  (List.zip (cicUpRail m {} (xs.map Prod.fst)) (cicUpRail m {} (xs.map Prod.snd))).map (iqMap fun r => roundShift r sh)
def cicDownRaw (m : Nat) (xs : List IQ) : List IQ :=
  let sh := 5 * Nat.log2 m
  (List.zip (cicDownRail m {} 0 (xs.map Prod.fst)) (cicDownRail m {} 0 (xs.map Prod.snd))).map (iqMap fun r => roundShift r sh)

/-- The split of a ratio: M and the number of half-band stages (R203). -/
def chainSplit (r ciclog : Nat) : Nat × Nat :=
  let m := max (r / 16) (min (2 ^ ciclog) r)
  (m, Nat.log2 (r / m))

/-- Delay of the filters alone, Df (R216). -/
def filterDelay (r ciclog f : Nat) : Nat :=
  let (m, nhb) := chainSplit r ciclog
  5 * (m - 1) + (f - 1) * r + (((List.range nhb).map fun j => ([58, 26, 18, 10].getD j 0) * r / 2 ^ (j + 1)).sum)

/-- The pipeline delay Dp (R216). -/
def pipeDelay (r ciclog : Nat) : Nat :=
  let (m, nhb) := chainSplit r ciclog
  16 + 8 * (nhb + if m > 1 then 1 else 0)

/-- What a stage gives: its clamped outputs, and the rails clamped in the last part of the run that a caller counts. -/
structure Run where
  out   : List IQ
  clips : Nat
  deriving DecidableEq, Repr

/-- Clamps a stage's outputs to `n` bits, counting among the last `m` of them. -/
def clampRun (n m : Nat) (raw : List IQ) : Run := ⟨raw.map (iqSat n), clipCount n (lastN m raw)⟩

/-- A further stage of a chain. -/
def Run.andThen (x : Run) (f : List IQ → Run) : Run := let y := f x.out; ⟨y.out, x.clips + y.clips⟩

/-- A faded rail before its clamp, and a faded sample, at weight `a` (R123). -/
def fadeRaw (a : Int) (old new : IQ) : IQ :=
  ((old.1 * (65536 - a) + new.1 * a + 0x8000) / 2 ^ 16, (old.2 * (65536 - a) + new.2 * a + 0x8000) / 2 ^ 16)

/-- A weight of a fade of 2^k samples, at its i-th sample (R123). -/
def fadeWeight (k i : Nat) : Nat := (i + 1) * 2 ^ (16 - k)

/-- The taps that form one output sample of the FIR: outgoing and incoming ones, and the incoming weight (R214). -/
structure FirSel where
  old : List Int
  new : List Int
  w   : Nat
  fading : Bool
  deriving DecidableEq, Repr

/-- One output sample of the FIR, and the rails it clamps: both records in full during a fade (R211, R214). -/
def firPoint (s : FirSel) (w : List IQ) : IQ × Nat :=
  let n := firRaw s.new w
  if !s.fading then (iqSat 18 n, iqClips 18 n)
  else
    let o := firRaw s.old w
    let y := fadeRaw s.w (iqSat 18 o) (iqSat 18 n)
    (iqSat 18 y, iqClips 18 o + iqClips 18 n + iqClips 18 y)

/-- The FIR over a list, `sels` telling the taps of each output sample. -/
def firRun (count : Nat) (sels : List FirSel) (xs : List IQ) : Run :=
  let ys := List.zipWith firPoint sels (windowsFrom 96 [] xs)
  ⟨ys.map Prod.fst, ((lastN count ys).map Prod.snd).sum⟩

/-- A transmit interpolation chain of ratio `r` (R202): FIR, half-band stages, integrator-comb stage, from zero history.
`count` tells how many carrier samples at the end are counted. -/
def chainUp (r ciclog count : Nat) (sels : List FirSel) (xs : List IQ) : Run :=
  let (m, nhb) := chainSplit r ciclog
  let x := firRun count sels xs
  let x := (List.range nhb).foldl (fun (x : Run) j => x.andThen fun l => clampRun 18 (count * 2 ^ (j + 1)) (hbUpRaw (hbStage (j + 1)) l)) x
  if m > 1 then x.andThen fun l => clampRun 18 (count * r) (cicUpRaw m l) else x

/-- A receive decimation chain of ratio `r` (R202): the same stages in the opposite order, the FIR's faded output clamped to
int16 (R211, R214). -/
def chainDown (r ciclog count : Nat) (sels : List FirSel) (xs : List IQ) : Run :=
  let (m, nhb) := chainSplit r ciclog
  let x : Run := if m > 1 then clampRun 18 (count * 2 ^ nhb) (cicDownRaw m xs) else ⟨xs, 0⟩
  let x := (List.range nhb).foldl (fun (x : Run) j =>
    x.andThen fun l => clampRun 18 (count * 2 ^ (nhb - 1 - j)) (hbDownRaw (hbStage (nhb - j)) l)) x
  (x.andThen (firRun count sels)).andThen (clampRun 16 count)

/-! ## The carrier NCO (R94, R95, R162) -/

/-- NCO phase of composite sample `k`, in 2^-48 of a turn (R94, R95). -/
def ncoPhase (freq : BitVec 48) (k : Nat) : BitVec 48 := freq * BitVec.ofNat 48 k

/-- The deviation of an oscillator's rail that the spurious bound leaves open: a free value below 2^-19, so that no product
stands above −110 dB of full scale (R94). -/
def ncoDev (key : Nat) : Int := ((Config.ncoDev key % 2 ^ 42 : Nat) : Int) - 2 ^ 41

/-- e^{j2π × FREQ × k / 2^48}, 60 fraction bits, within the spurious bound; exact at FREQ 0 (R94). `key` numbers the sample. -/
def ncoAt (freq : BitVec 48) (k key : Nat) : IQ :=
  let w := cis (ncoPhase freq k).toNat (2 ^ 48)
  if freq = 0 then w else (w.1 + ncoDev (2 * key), w.2 + ncoDev (2 * key + 1))

/-- The mixer's output before its clamp to 18 bits, rounded half up: up in transmit, down in receive (R94, R108, R162). -/
def mixRaw (up : Bool) (freq : BitVec 48) (k key : Nat) (x : IQ) : IQ :=
  let w := ncoAt freq k key
  iqMap (fun r => roundShift r 60) (cmul x (if up then w else iqConj w))

/-! ## Crest-factor reduction (R97, R98, R188) -/

/-- The threshold RMSREF × 10^(T/20), T = 6.5 + 0.1 × TGT dB, in 2^-16 LSB of Q1.15, rounded down. -/
def cfrThreshold (rmsref tgt : Nat) : Nat :=
  let x := rmsref * 2 ^ 16
  (List.range 36).foldl (fun r i =>
    let h := r + 2 ^ (35 - i)
    if h ^ 200 ≤ x ^ 200 * 10 ^ (65 + tgt) then h else r) 0

/-- Magnitude of a sample, rounded down. -/
def magnitude (x : IQ) : Nat := Nat.sqrt (iqPower x)

/-- Peaks of a pass: their index and sample, at most 8 in each span of 256, and those beyond (R98). `k0` is the composite
index of the first sample. The earliest peaks of a span are taken (log entry 40). -/
def cfrPeaks (thr : Nat) (k0 : Int) (xs : List IQ) : List (Nat × IQ) × List (Nat × IQ) :=
  let ms := xs.map magnitude
  let at_ := fun (i : Nat) => ms.getD i 0
  let tops := (List.zip (List.range xs.length) xs).filter fun x =>
    decide (thr < at_ x.1) && (x.1 = 0 || decide (at_ (x.1 - 1) < at_ x.1)) && decide (at_ (x.1 + 1) ≤ at_ x.1)
  tops.foldl (fun (a : List (Nat × IQ) × List (Nat × IQ)) x =>
    if (a.1.filter fun y => (k0 + y.1) / 256 = (k0 + x.1) / 256).length < 8 then (a.1 ++ [x], a.2) else (a.1, a.2 ++ [x])) ([], [])

/-- The pulse of a peak, scaled and turned so that its middle tap p[127] brings the peak down by `red` out of its magnitude;
nothing where that tap is zero (log entry 40). -/
def cfrPulse (pulse : List IQ) (peak : IQ) (mag red : Nat) : List IQ :=
  let mid := pulse.getD 127 (0, 0)
  if iqPower mid = 0 then []
  else
    let turn := cmul peak (iqConj mid)
    pulse.map fun p => iqMap (fun r => r * red / (mag * iqPower mid : Nat)) (cmul turn p)

/-- Subtracts a pulse whose peak tap p[127] falls on index `i`. -/
def cfrSubtract (xs : List IQ) (i : Nat) (pulse : List IQ) : List IQ :=
  (List.zip (List.range xs.length) xs).map fun x =>
    if i ≤ x.1 + 127 then iqSub x.2 (pulse.getD (x.1 + 127 - i) (0, 0)) else x.2

/-- Crest-factor reduction between two passes: its samples, the indices of the peaks it has counted as missed, and how much has
been taken off the peak at an index. -/
structure CfrRun where
  ys   : List IQ
  miss : List Nat
  used : Table Nat
  deriving DecidableEq, Repr

/-- One pass of peak cancellation (R98). In mode 2 a peak is brought down by at most CAP × threshold over all passes, and one that
needs more is counted once (R188). -/
def cfrPass (mode cap thr : Nat) (k0 : Int) (pulse : List IQ) (a : CfrRun) : CfrRun :=
  let (peaks, more) := cfrPeaks thr k0 a.ys
  let b := peaks.foldl (fun (b : CfrRun) p =>
    let mag := magnitude p.2
    let was := tget (fun _ => 0) b.used p.1
    let most := (cap + 1) * thr / 16 - was
    let short := mode = 2 && decide (most < mag - thr)
    let red := if short then most else mag - thr
    ⟨cfrSubtract b.ys p.1 (cfrPulse pulse p.2 mag red), if short && !b.miss.contains p.1 then b.miss ++ [p.1] else b.miss,
      tput (fun _ => 0) p.1 (was + red) b.used⟩) a
  { b with miss := b.miss ++ (more.map Prod.fst) }

/-- Crest-factor reduction before its clamp to int16, and the indices of the peaks it leaves (R97, R98): three passes on
samples of 16 more fraction bits. The input is int18 in Q3.15, so that mode 0 rounds nothing away. -/
def cfrRaw (mode cap thr : Nat) (k0 : Int) (pulse : List IQ) (xs : List IQ) : List IQ × List Nat :=
  if mode = 0 then (xs, [])
  else
    let y := (List.range 3).foldl (fun a _ => cfrPass mode cap thr k0 pulse a) (⟨xs.map (iqScale (2 ^ 16)), [], []⟩ : CfrRun)
    (y.ys.map (iqMap fun r => roundShift r 16), y.miss)

/-! ## The predistorter (R113-R117) -/

/-- TYPE, SDEL, EDEL, ORD, NBSLOT and ESRC of term descriptor `i` (R113). -/
def descType (b : Bytes) (i : Nat) : Nat := pbits b (128 + 16 * i) 2
def descSdel (b : Bytes) (i : Nat) : Nat := pbits b (128 + 16 * i + 2) 4
def descEdel (b : Bytes) (i : Nat) : Nat := pbits b (128 + 16 * i + 6) 4
def descOrd (b : Bytes) (i : Nat) : Nat := pbits b (128 + 16 * i + 10) 3
def descNb (b : Bytes) (i : Nat) : Nat := pbits b (128 + 16 * i + 13) 2
def descEsrc (b : Bytes) (i : Nat) : Bool := pbit b (128 + 16 * i + 15)
/-- Coefficient `i` of a predistorter record, Q2.15 (R118). -/
def dpdCoef (b : Bytes) (i : Nat) : IQ := (sfield (pbits b (8 * (144 + 8 * i)) 32) 32, sfield (pbits b (8 * (148 + 8 * i)) 32) 32)
/-- Path-in-tile of neighbour slot `j` (R118). -/
def dpdNb (b : Bytes) (j : Nat) : Nat := pbits b (8 + 4 * j) 4

/-- Integer square root rounded half up of 4 v: the envelope of R114 in Q2.16 for v = re² + im² in Q2.30. -/
def envelope (x : IQ) : Nat := (Nat.sqrt (16 * iqPower x) + 1) / 2

/-- Powers of the envelope, p[i] of R114 in Q4.16. -/
def envPow (env : Nat) : Nat → Nat
  | 0 => 0x10000
  | i + 1 => (envPow env i * env + 0x8000) / 2 ^ 16

/-- The product b × c of one term (R114): its signal and envelope samples are those of the path, or of the neighbour its
slot names. Signals are given newest first. -/
def dpdTerm (b : Bytes) (x : List IQ) (nb : Nat → List IQ) (i : Nat) : IQ :=
  let cross := descType b i = 2
  let sig := (if cross then nb (descNb b i) else x).getD (descSdel b i) (0, 0)
  let e := (if cross && descEsrc b i then nb (descNb b i) else x).getD (descEdel b i) (0, 0)
  let p : Int := envPow (envelope e) (descOrd b i)
  cmul (iqMap (fun r => (r * p + 0x1000) / 2 ^ 13) sig) (dpdCoef b i)

/-- The model's output before its clamp (R114): unused descriptors contribute nothing; with BYPASS, or VALID clear, the
input passes unchanged (R115). -/
def modelRaw (valid : Bool) (b : Bytes) (x : List IQ) (nb : Nat → List IQ) : IQ :=
  if !valid || pbit b 1 then x.headD (0, 0)
  else
    let s := pbits b 2 3
    iqMap (fun r => (r + 2 ^ (17 + s)) / 2 ^ (18 + s))
      (iqSum (((List.range 64).filter fun i => descType b i ≠ 0).map (dpdTerm b x nb)))

/-! ## Correctors (R128, R156) -/

/-- A corrector's output before its clamp: input, products of the eight taps with the conjugate inputs, and the leakage
term; with VALID clear the input passes unchanged. Inputs are given newest first. -/
def corrRaw (valid : Bool) (b : Bytes) (dc : IQ) (u : List IQ) : IQ :=
  let x := u.headD (0, 0)
  if !valid then x
  else
    let sum := iqSum ((List.range 8).map fun i => cmul (iqAt b (8 + 4 * i)) (iqConj (u.getD i (0, 0))))
    iqAdd (iqAdd x (iqMap (fun r => (r + 0x4000) / 2 ^ 15) sum)) dc

/-- The leakage term of a transmit corrector record (R128). -/
def corrDc (b : Bytes) : IQ := iqAt b 4

/-! ## Limiter and DAC (R100, R285) -/

/-- The limiter's output (R285). -/
def limited (g : Nat) (y : IQ) : IQ := iqMap (fun r => sat16 ((r * g + 0x4000) / 2 ^ 15)) y

/-- The DAC code of a rail: the upper 14 bits after rounding half up, clamped (R100). -/
def dacCode (r : Int) : Int := satN 14 ((r + 2) / 4)

/-! ## Receive stages (R150, R160, R193) -/

/-- One sample through the digital loop of a rail: the new estimate, in Q1.31, and the output before its clamp; a frozen
loop keeps its estimate and still subtracts it (R150, R152). -/
def dcLoop (frozen : Bool) (k : Nat) (d x : Int) : Int × Int :=
  let d' := if frozen then d else d + (x * 65536 - d) / 2 ^ k
  (d', x - (d' + 0x8000) / 2 ^ 16)

/-- A rail scaled by an unsigned factor with 0x4000 = 1.0, before its clamp (R160, R194). -/
def scaled14 (c : Nat) (x : Int) : Int := (x * c + 0x2000) / 2 ^ 14

/-- A fixed 2× stage whose coefficients the spec does not give, on its window of inputs: zeros give zeros. -/
def fixedStage {α : Type} (zero : α) (f : List IQ → α) (w : List IQ) : α := if w.all (· = (0, 0)) then zero else f w

/-- DEL, SH and tap `i` of source `s` of a canceller record (R190). -/
def sicDel (b : Bytes) (s : Nat) : Nat := pbits b (64 + 16 * s) 6
def sicSh (b : Bytes) (s : Nat) : Nat := pbits b (64 + 16 * s + 6) 4
def sicTap (b : Bytes) (s i : Nat) : IQ :=
  (sfield (pbits b (8 * (32 + 8 * (32 * s + i))) 32) 32, sfield (pbits b (8 * (36 + 8 * (32 * s + i))) 32) 32)

/-- The canceller's estimate before the factor g (R193): the references of the enabled sources, newest first; zero with VALID
clear. -/
def sicEst (valid : Bool) (b : Bytes) (refs : Nat → List IQ) : IQ :=
  if !valid then (0, 0)
  else
    let one := fun (s : Nat) => iqSum ((List.range 32).map fun i =>
      iqScale (2 ^ (15 - sicSh b s)) (cmul ((refs s).getD (sicDel b s + i) (0, 0)) (sicTap b s i)))
    iqMap (fun r => (r + 2 ^ 44) / 2 ^ 45) (iqSum (((List.range 8).filter fun s => pbit b (1 + s)).map one))

/-- The canceller's output before its clamp (R193). -/
def sicRaw (g : Nat) (e x : IQ) : IQ := iqSub x (iqMap (scaled14 g) e)

end Sys2Proof.Machine
end

