-- ==== Sys2Proof/Machine/RegMap.lean ====
section
/-! DEFINITION. Window A: the offset of every register (R584, R586), and for every plain read-write register its
writable bits, its reset value and the STOP function that must be quiescent for a write (R25). -/

namespace Sys2Proof.Machine

/-! ## Offsets (R584, R586) -/

def rModeCfg : Nat := 0x10
def rPwrWaketime : Nat := 0x1008
def rPwrWakecfg : Nat := 0x1010
/-- Counters PWR_REFCNT, PWR_ROLLCNT, PWR_REPLCNT. -/
def cPwr (i : Nat) : Nat := 0x1028 + 4 * i
def rTsWarn : Nat := 0x3020
def rTsTemp (d : Nat) : Nat := 0x3000 + 4 * d
def rEvWdog : Nat := 0x4014
def rEvRoute (e : Nat) : Nat := 0x4200 + 4 * e
def rEvCnt (e : Nat) : Nat := 0x4400 + 4 * e
def rTimeCfg : Nat := 0x6000
def rTimeServo : Nat := 0x6004
def rTimeStat : Nat := 0x6008
def rTimeRate : Nat := 0x6010
def rTimeTsync : Nat := 0x6028
def rTimeTsynclat : Nat := 0x6030
def rTimePpsin : Nat := 0x6038
def rTimePpsindly : Nat := 0x6040
def rTimeTod : Nat := 0x6048
def rTimeTxbase : Nat := 0x6050
def rTimeTxwptr : Nat := 0x6054
def rTimeTxrptr : Nat := 0x6058
def rTimeTsqwptr : Nat := 0x605C
def rTimeTsqrptr : Nat := 0x6060
/-- Counters TIME_REFUSECNT, TIME_PTPDROP, TIME_LAUNCHMISS, TIME_TSYNCERR. -/
def cTime (i : Nat) : Nat := 0x6070 + 4 * i
def rTimeTsq (i : Nat) : Nat := 0x6400 + 16 * i
def rUpdSlot : Nat := 0x8000
def rUpdTrial : Nat := 0x8008
def rUpdSecver : Nat := 0x800C
def rNvWearthr : Nat := 0x9008
def rMemCfg : Nat := 0xA000
def rMemScrub : Nat := 0xA004
def rMemWincbase : Nat := 0xA008
def rMemBeambase : Nat := 0xA010
def rMemDpdbase : Nat := 0xA014
def rMemRxiqbase : Nat := 0xA018
def rMemSicbase : Nat := 0xA01C
def rMemFltbase : Nat := 0xA020
def rMemHosterr : Nat := 0xA028
def rMemCeaddr : Nat := 0xA030
def rMemUeaddr : Nat := 0xA038
def rMemZeroaddr : Nat := 0xA040
def rMemLap (w : Nat) : Nat := 0xA048 + 4 * w
/-- Counters MEM_CECNT, MEM_UECNT, MEM_REPAIRCNT, MEM_DAMCNT, MEM_CAPREF. -/
def cMem (i : Nat) : Nat := 0xA060 + 4 * i
def rMemMirror (i : Nat) : Nat := 0xA080 + 8 * i
def rMemCapDrop (n : Nat) : Nat := 0xA180 + 4 * n
def rDmaCfg : Nat := 0xC000
def rDma (c off : Nat) : Nat := 0xC100 + 0x40 * c + off
def rSlotLease : Nat := 0x10000
/-- Counters SLOT_ERRCNT, SLOT_TORNCNT, SLOT_RECLAIMCNT. -/
def cSlot (i : Nat) : Nat := 0x10030 + 4 * i
def rLaneGcfg (g : Nat) : Nat := 0x14000 + 4 * g
def rLaneEthcfg (g : Nat) : Nat := 0x14010 + 4 * g
def rLanePortcfg : Nat := 0x14020
def rLaneEthmap : Nat := 0x14024
def rLaneMac : Nat := 0x14030
def rLaneEthpeer : Nat := 0x14038
/-- Port counters CRCERR, PROTERR, RETRYCNT, LRESETCNT, VC2GAP, VC2DROP, FWDDROP, ETHDROP. -/
def cPort (p i : Nat) : Nat := 0x14400 + 0x20 * p + 4 * i
def rLaneCtrl (l : Nat) : Nat := 0x15000 + 0x40 * l
/-- Lane counters HDRERR, PRBSERR, LOSCNT, LOLCNT, MAPERR. -/
def cLane (l i : Nat) : Nat := 0x15008 + 0x40 * l + 4 * i
def rSectroute : Nat := 0x18000
def rHiqerr : Nat := 0x1802C
def rMiqerr : Nat := 0x1803C
def rSeqEntry (k : Nat) : Nat := 0x18104 + 0x40 * k
/-- Counters SQUASHCNT, FALLBACK, LATEEMIT, EMITERR, SQDROP, SQSTALL. -/
def cSeq (k i : Nat) : Nat := 0x18110 + 0x40 * k + 4 * i
def rVcEntry (n : Nat) : Nat := 0x1A004 + 0x40 * n
def rVcCfg (n : Nat) : Nat := 0x1A008 + 0x40 * n
def rCoxCfg (c : Nat) : Nat := 0x1C000 + 0x10 * c
/-- Counters COXc_DENYCNT, COXc_WDCNT. -/
def cCox (c i : Nat) : Nat := 0x1C004 + 0x10 * c + 4 * i
def rSynCfg (k : Nat) : Nat := 0x1D004 + 0x20 * k
/-- Counters SYNk_REFCNT, YIELDCNT, LOLCNT. -/
def cSyn (k i : Nat) : Nat := 0x1D008 + 0x20 * k + 4 * i
def rBeamRegion : Nat := 0x40000
def rBeamAligncfg : Nat := 0x40010
def rBeamAligngen (d : Nat) : Nat := 0x40014 + 4 * d
def rSrsring : Nat := 0x40028
def rSrsbase : Nat := 0x4002C
def rSrswptr : Nat := 0x40030
def rSrsrptr : Nat := 0x40034
def rBeamUlcfg : Nat := 0x40038
/-- Counters TAGERR, LATECNT, FMTERR, SATCNT, MISSCNT, CONFLICTCNT, INVCNT, OVLDCNT, CFGERR, WRERR, ENGLATE, WALKLATE,
SRSDROP, ULMISS, SBFDMISS, DISCARD of the BEAM block. -/
def cBeam (i : Nat) : Nat := 0x40100 + 4 * i
def rBeamAlign (d p : Nat) : Nat := 0x40400 + 0x100 * d + 4 * p
def rObsSched (n i : Nat) : Nat := 0x50000 + 0x1000 * n + 4 * i
def rObsBase (n : Nat) : Nat := 0x50100 + 0x1000 * n
def rObsCtrl (n : Nat) : Nat := 0x50108 + 0x1000 * n
def rObsRing (n : Nat) : Nat := 0x5010C + 0x1000 * n
def rObsWptr (n : Nat) : Nat := 0x50110 + 0x1000 * n
def rObsRptr (n : Nat) : Nat := 0x50114 + 0x1000 * n
/-- Counters OBSn_SHORT, OBSn_DROP. -/
def cObs (n i : Nat) : Nat := 0x50118 + 0x1000 * n + 4 * i
def rObsMmrole (n : Nat) : Nat := 0x50120 + 0x1000 * n
def rTile (t off : Nat) : Nat := 0x60000 + 0x10000 * t + off
def rDpdcfg (t : Nat) : Nat := rTile t 0x000
def rRxdc (t : Nat) : Nat := rTile t 0x004
def rSiccfg (t : Nat) : Nat := rTile t 0x008
def rSicring (t : Nat) : Nat := rTile t 0x00C
def rSicwptr (t : Nat) : Nat := rTile t 0x010
def rSicrptr (t : Nat) : Nat := rTile t 0x014
def rLnaadv (t : Nat) : Nat := rTile t 0x024
def rPwrcfg (t : Nat) : Nat := rTile t 0x028
def rCaltone (t : Nat) : Nat := rTile t 0x030
def rFltcfg (t d c : Nat) : Nat := rTile t (0x040 + 0x10 * d + 4 * c)
def rLnacomp (t p s : Nat) : Nat := rTile t (0x200 + 16 * p + 4 * (s / 2))
def rSiclnag (t p s : Nat) : Nat := rTile t (0x300 + 16 * p + 4 * (s / 2))
def rTxtrim (t p : Nat) : Nat := rTile t (0x400 + 4 * p)
def rRxtrim (t p : Nat) : Nat := rTile t (0x440 + 4 * p)
/-- Counters TAGERR, BLANKCNT, LATECNT, CFGERR, SATCNT, CFRMISS, DPDCOEFERR, DPDREPL, CALPREEMPT, RXCLIP, RXDCSAT, SICERR,
SICREPL, SICDROP, FLTERR, FLTREPL, LIMCNT, LONRCNT, REEDCNT, DISCARD, CONFLICTCNT of a tile. -/
def cTile (t i : Nat) : Nat := rTile t (0x800 + 4 * i)
def rFe (t off : Nat) : Nat := 0xA0000 + 0x4000 * t + off
def rFeAdv (q : Nat) : Nat := rFe (q / 4) (4 * (q % 4))
def rFeLag (q : Nat) : Nat := rFe (q / 4) (0x10 + 4 * (q % 4))
def rMmcfg (t : Nat) : Nat := rFe t 0x20
def rRffecfg (t : Nat) : Nat := rFe t 0x28
def rRfferd (t : Nat) : Nat := rFe t 0x38
/-- Counters RFFEMISS, RFFEERR, TRXCONF, MMSKIP of FEn. -/
def cFe (t i : Nat) : Nat := rFe t (0x50 + 4 * i)
def rFeKr (p : Nat) : Nat := rFe (p / 16) (0x100 + 4 * (p % 16))
def rFeTunmap (p : Nat) : Nat := rFe (p / 16) (0x140 + 4 * (p % 16))
def rFeShut (p : Nat) : Nat := rFe (p / 16) (0x180 + 4 * (p % 16))
def rFeTuner (t i : Nat) : Nat := rFe t (0x200 + 4 * i)
def rFeFrame (t i : Nat) : Nat := rFe t (0x1000 + 8 * i)
/-- The staging register of OBSn_MMROLE: it has no address of its own (R585). -/
def rMmStage (n : Nat) : Nat := 0x100000 + 8 * n
/-- The MSI-X table (R471): address low, address high, data, vector control. -/
def rMsix (v i : Nat) : Nat := 0xFE000 + 16 * v + 4 * i

/-! ## Plain read-write registers -/

/-- A family of plain read-write words: `count` instances at `stride`, each an array of `acount` words at `astride`. -/
structure RwRow where
  base    : Nat
  stride  : Nat
  count   : Nat
  astride : Nat
  acount  : Nat
  /-- the bits a write sets -/
  mask    : BitVec 32
  reset   : BitVec 32
  /-- the register is 64 bits wide; this row is its low or high word (R585) -/
  wide    : Bool
  /-- STOP function that must be quiescent for a write, 0 for none (R25) -/
  stop    : Nat
  deriving DecidableEq, Repr

/-- One word of a single register. -/
def rw1 (off : Nat) (mask reset : BitVec 32) (stop : Nat := 0) : RwRow := ⟨off, 0, 1, 4, 1, mask, reset, false, stop⟩
/-- One word of `count` instances at `stride`. -/
def rwN (off stride count : Nat) (mask reset : BitVec 32) (stop : Nat := 0) : RwRow :=
  ⟨off, stride, count, 4, 1, mask, reset, false, stop⟩
/-- An array of `acount` words in each of `count` instances. -/
def rwA (off stride count acount : Nat) (mask reset : BitVec 32) (stop : Nat := 0) : RwRow :=
  ⟨off, stride, count, 4, acount, mask, reset, false, stop⟩
/-- A 64-bit register in each of `count` instances, its two words. -/
def rw2 (off stride count : Nat) (mlo mhi rlo rhi : BitVec 32) (stop : Nat := 0) : List RwRow :=
  [⟨off, stride, count, 4, 1, mlo, rlo, true, stop⟩, ⟨off + 4, stride, count, 4, 1, mhi, rhi, true, stop⟩]
/-- An array of 64-bit registers in each of `count` instances. -/
def rw2A (off stride count acount : Nat) (mlo mhi rlo rhi : BitVec 32) (stop : Nat := 0) : List RwRow :=
  [⟨off, stride, count, 8, acount, mlo, rlo, true, stop⟩, ⟨off + 4, stride, count, 8, acount, mhi, rhi, true, stop⟩]

/-- MODE to SLOT. -/
def rwRowsA : List RwRow :=
  [rw1 rModeCfg 0x00FFFF03 0x00753002] ++ rw2 rPwrWaketime 0 1 0xFFFFFFFF 0x00FFFFFF 0 0 ++
  [rw1 rPwrWakecfg 0x3 0x1, rw1 rTsWarn 0xFF 0x5F, rw1 rEvWdog 0 0xF00, rwA 0x4200 0 1 128 0x0003FFFF 0,
   rw1 rTimeCfg 0x00FFFFFF 0x00641808, rw1 rTimeServo 0x7F3FFFFF 0x38000F5C] ++
  rw2 rTimeTsync 0 1 0xFFFFFFF8 0x0001FFFF 0x003C0000 0 ++ [rw1 rTimePpsindly 0xFFFFFFFF 0] ++
  rw2 rTimeTod 0 1 0xFFFFFFFF 0x0000FFFF 0 0 ++
  [rw1 rTimeTxbase 0x007FFFE0 0, rw1 rTimeTxwptr 0x1F 0, rw1 rTimeTsqrptr 0x3F 0,
   rw1 rUpdSlot 0x1FF 0xFF, rw1 rUpdTrial 0xFFFF 0x258, rw1 rNvWearthr 0xFFFFFFFF 0x055D4A80,
   rw1 rMemCfg 0x1FFFF 0, rw1 rMemScrub 0xFFFFFFFF 0x0E100104, rw1 rMemWincbase 0xFFF 0,
   rw1 rMemBeambase 0x0FFFFFFF 0, rw1 rMemDpdbase 0x0FFFFFFF 0, rw1 rMemRxiqbase 0x0FFFFFFF 0,
   rw1 rMemSicbase 0x0FFFFFFF 0, rw1 rMemFltbase 0x0FFFFFFF 0] ++
  rw2A 0xA080 0 1 4 0x0FFFFFFF 0x0000FFFF 0 0 ++ [rw1 rDmaCfg 0x7 0x6, rwN 0xC100 0x40 32 0x6 0] ++
  [rw1 rSlotLease 0xFFFFF 0x2580]

/-- LANE to OBS. -/
def rwRowsB : List RwRow :=
  [rwA 0x14000 0 1 4 0x1FFF 0, rwA 0x14010 0 1 4 0xFFFF001F 0x88B50000 21, rw1 rLanePortcfg 0xFFFFFF1F 0x11801010 21,
   rw1 rLaneEthmap 0x01FFFFFF 0 21] ++ rw2 rLaneMac 0 1 0xFFFFFFFF 0x0FFFFFFF 0 0 21 ++
  rw2 rLaneEthpeer 0 1 0xFFFFFFFF 0x0000FFFF 0 0 21 ++ [rwN 0x15000 0x40 32 0x000FFF0F 0x000C4000] ++
  rw2 rSectroute 0 1 0xFFFFFFFF 0xFF 0x21084210 0x84 20 ++
  [rwN 0x18104 0x40 5 0x0007FFFC 0, rwN 0x1A004 0x40 16 0x0003FFFC 0, rwN 0x1A008 0x40 16 0x7 0x1,
   rwN 0x1C000 0x10 4 0xFFFFFFFF 0x40000000 16, rwN 0x1D004 0x20 8 0x3 0x1,
   rw1 rBeamRegion 0x3F3F 0x1818 4, rw1 rBeamAligncfg 0x7F 0x7F 4, rw1 rSrsring 0xFF 0x80 3, rw1 rSrsbase 0x1FFFFF 0 3,
   rw1 rSrsrptr 0xFFFFFFFF 0, rw1 rBeamUlcfg 0x001FFF03 0x000C0400 2,
   rwA 0x40400 0x100 2 64 0xFFFFFFFF 0x4000,
   rwA 0x50000 0x1000 8 64 0xFFFF7FFF 0x00012030 13] ++ rw2 0x50100 0x1000 8 0xFFFFFFFF 0x00FFFFFF 0 0 13 ++
  [rwN 0x50108 0x1000 8 0xF1FF 0x800A 13, rwN 0x5010C 0x1000 8 0x1FFFFF 0 13, rwN 0x50114 0x1000 8 0xFFFFFFFF 0]

/-- TILE, FE and the MSI-X table. -/
def rwRowsC : List RwRow :=
  [rwN 0x60000 0x10000 4 0xF 0x608 8, rwN 0x60004 0x10000 4 0xFF7F 0x1070 10, rwN 0x60008 0x10000 4 0xFFF1 0x9B00 15,
   rwN 0x6000C 0x10000 4 0x1FFFFF 0 15, rwN 0x60014 0x10000 4 0xFFFFFFFF 0, rwN 0x60024 0x10000 4 0xFFF 0 11,
   rwN 0x60028 0x10000 4 0xFF01 0x800] ++ rw2 0x60030 0x10000 4 0xFFFFFFFF 0xFFFFFFFF 0 0 12 ++
  [rwA 0x60040 0x10000 4 8 0x37F 0x1 9, rwA 0x60200 0x10000 4 64 0xFFFFFFFF 0x40004000 11,
   rwA 0x60300 0x10000 4 64 0xFFFFFFFF 0x40004000 15, rwA 0x60400 0x10000 4 32 0x1FF 0 9,
   rwA 0xA0000 0x4000 4 4 0x0FFF0FFF 0x01000100 16, rwA 0xA0010 0x4000 4 4 0x0FFF0FFF 0x02000000 16] ++
  rw2 0xA0020 0x4000 4 0xFFFFFFFF 0xFFFFFF07 0x40001C72 0x01004001 16 ++
  [rwN 0xA0028 0x4000 4 0x3 0 16, rwA 0xA0100 0x4000 4 16 0xFFFF 0x1000 16, rwA 0xA0140 0x4000 4 16 0x00FFFFFF 0 16,
   rwA 0xA0180 0x4000 4 16 0x0FFFFFFF 0 16, rwA 0xA0200 0x4000 4 64 0xFFFFFFFF 0] ++
  rw2A 0xA1000 0x4000 4 512 0xFFFFFFFF 0xFFFFFFFF 0 0 ++
  [⟨0xFE000, 16, 128, 4, 3, 0xFFFFFFFF, 0, false, 0⟩, ⟨0xFE00C, 16, 128, 4, 1, 0x1, 0x1, false, 0⟩]

def rwRows : List RwRow := rwRowsA ++ rwRowsB ++ rwRowsC

/-- The instance and array index by which a row covers an offset. -/
def RwRow.index (r : RwRow) (off : Nat) : Option (Nat × Nat) :=
  if off < r.base then none
  else
    let x := off - r.base
    let i := if r.count ≤ 1 then 0 else x / r.stride
    let y := x - i * r.stride
    if i < r.count ∧ y % r.astride = 0 ∧ y / r.astride < r.acount then some (i, y / r.astride) else none

/-- The row that covers an offset. -/
def rwRowOf (off : Nat) : Option RwRow := rwRows.find? fun r => (r.index off).isSome

/-- The reset value of the word at an offset: the spec's, 0 where it gives none (log entry 3). -/
def regReset (off : Nat) : BitVec 32 :=
  if off = rTsWarn && Config.gradeE then 0x64
  else
    match rwRowOf off with
    | some r => r.reset
    | none => 0

end Sys2Proof.Machine
end

