-- ==== Sys2Proof/Machine/State.lean ====
section
/-! DEFINITION. The state of the block: every piece of state the spec gives it, as plain data, the queue of waiting
commands, and the state after reset. A numbered unit of the block (a tile, a path, a channel, a record) is held in a sparse
table whose unlisted keys read as the unit's reset value, so a state lists only what has left its reset value. -/

set_option genSizeOf false

namespace Sys2Proof.Machine
open Sys2Proof

/-! ## Answers and outputs -/

/-- The answer to the last access or message of the last command (R32, R458, R472). -/
inductive Resp where
  | none
  /-- done, no data -/
  | done
  | data (b : Bytes)
  /-- an error response (R32, R33) -/
  | error
  /-- data delivered poisoned (R493) -/
  | poisoned (b : Bytes)
  /-- a status of the message's own protocol (R421, R472, R571), with the reply's data -/
  | status (n : Nat) (b : Bytes)
  /-- Unsupported Request, Completer Abort (R458), Configuration Request Retry Status (R456) -/
  | unsupported
  | abort
  | retry
  deriving DecidableEq, Repr

/-- What the block sent out during the last command. -/
inductive Out where
  /-- one MSI-X message (R471) -/
  | msix (v : Nat)
  /-- a write to the host's memory (R475) -/
  | hostWrite (addr : Nat) (data : Bytes) (noSnoop : Bool)
  /-- a frame leaves on a link port (R412) -/
  | frame (p : Nat) (hdr : BitVec 64) (body : Bytes)
  /-- the Ethernet frame that carries a Cypel frame on an Ethernet port (R428) -/
  | ether (p : Nat) (e : EthFrame)
  /-- a link control word leaves on a port (R401) -/
  | word (p : Nat) (w : BitVec 64)
  /-- a 66-bit block on a lane: its sync header, and its scrambled payload (R379) -/
  | line (l : Nat) (hdr : SyncHeader) (bits : BitVec 64)
  /-- as many TRAIN blocks more on a lane, one after another from now on (R387) -/
  | train (l n : Nat)
  /-- the PRBS31 pattern of R391 on a lane, for 2,048 tk -/
  | prbs (l : Nat)
  /-- an RFFE frame on a bus (R272) -/
  | rffe (b : Nat) (f : BitVec 64)
  /-- a PTP message sent natively (R442) or in Ethernet (R443) -/
  | ptp (p : Nat) (m : Bytes)
  /-- a block that leaves a stage: its tag and payload -/
  | block (port : Nat) (tag : Tag) (body : Bytes)
  /-- a pin goes high for a number of ticks: 0 TSYNC_OUT, 1 PPS_OUT (R448, R450) -/
  | pulse (pin tk : Nat)
  /-- a steering word (R437) -/
  | steer (w : BitVec 64)
  /-- the codes of a path's DAC, two to a composite sample, from a time at the path's TXOnn ball on, in 1/16 tk (R100, R101) -/
  | dac (p : Nat) (t : Int) (codes : List IQ)
  /-- a received PTP message passed to management firmware with its timestamp in X (R442) -/
  | ptpRx (p : Nat) (x : Nat) (m : Bytes)
  deriving DecidableEq, Repr

/-! ## Memory (R28-R31, R490-R499) -/

/-- What is wrong with a byte of class-C memory or a line of class-D memory (R492-R495). -/
inductive MemErr where
  | good
  /-- a single-bit error of class C, or a class-D line that a second copy repairs -/
  | correctable
  /-- a double-bit error of class C, or a class-D line that fails its check -/
  | failing
  deriving DecidableEq, Repr

structure MemSt where
  /-- bytes by internal address; an unlisted byte reads as zero (R498) -/
  cells : Table Byte := []
  /-- valid bits: by 64-byte line in SRAM, by 4 KiB page in DRAM, by 8-byte word in the non-volatile store (R498) -/
  valid : Table Bool := []
  /-- errors: by byte address in class C and the non-volatile store, by line address in class D; those of the copy that the ASQ's
  second half holds, by the byte address plus 2^40 (R318) -/
  bad : Table MemErr := []
  /-- corrections counted towards MEM_CFG.CETHR (R492) -/
  corrections : Nat := 0
  /-- next DRAM line, class-C line and privileged line of the scrubber (R500) -/
  scrubPos : Table Nat := []
  /-- the clock at which each walk's present lap began (R502) -/
  lapStart : Table Nat := []
  /-- event 109 has been raised for the present privileged lap (R502) -/
  lapLate : Bool := false
  /-- blocks whose wear counter has raised event 110 (R504) -/
  wearTold : Table Bool := []
  /-- words of a record being appended to a free slot of the regulatory region while a locked record is in force: the
  store controller checks the whole record before it programs any of it (R282) -/
  regStage : Table Byte := []
  deriving DecidableEq, Repr

/-! ## Events (R24, R515-R519) -/

structure EvRec where
  /-- occurrences since reset -/
  seen : Nat := 0
  /-- the routing the message in flight left with (R24, R519) -/
  flight : Option (BitVec 32) := none
  /-- repeat count (R24) -/
  rep : BitVec 8 := 0
  deriving DecidableEq, Repr

/-! ## Items, stages and STOP functions (R56, R68-R71, R588) -/

/-- A queued item: where it waits, from which tick it acts, and whether it came late (R46, R56). -/
structure QItem where
  port  : Port
  tile  : Nat
  item  : Item
  act   : Air
  late  : Bool
  /-- the address of the instruction that issued it (R338) -/
  pc    : BitVec 19
  deriving DecidableEq, Repr

/-- A STOP item that a function has received: its tag with the time the stop takes, and its payload (R68-R70). -/
structure StopReq where
  tag  : Tag
  body : Bytes
  deriving DecidableEq, Repr

/-- A STOP function of a domain (R68-R71, R589). -/
structure FnSt where
  /-- the stop time has been reached and no resume has acted: the function outputs nothing -/
  stopped : Bool
  /-- the QUIESCENT bit -/
  quiet : Bool
  /-- the function was stopped by reset, not by a STOP item (R589) -/
  byReset : Bool
  /-- the STOP items received and not yet answered with quiescence -/
  stops : List StopReq := []
  /-- the received resume item's AIRTIME -/
  resumeAt : Option Air := none
  /-- SOURCE, STREAM and EPOCH of the STOP that stopped it, and of the resume item -/
  stopTag : Tag := {}
  resumeTag : Tag := {}
  deriving DecidableEq, Repr

/-- A path STOP on its way (R106, R181). -/
structure PathStop where
  rx   : Bool
  mask : BitVec 64
  tag  : Tag
  deriving DecidableEq, Repr

/-- A squash in force at a stage (R64). -/
structure SquashRule where
  port   : Port
  tile   : Nat
  stream : BitVec 8
  from_  : Air
  epoch  : BitVec 8
  deriving DecidableEq, Repr

/-- An item on its way to a stage: its issuer's credit has not returned (R301). -/
structure NetItem where
  /-- 0-4 the sequencers, 5 the beam engine, 12 and 13 the issue queues -/
  issuer : Nat
  port   : Port
  tile   : Nat
  item   : Item
  /-- the address of the instruction that issued it (R338) -/
  pc     : BitVec 19
  deriving DecidableEq, Repr

/-! ## Sequencers (R294-R321) -/

inductive RunState where
  | stopped
  | running
  | stalled
  | waiting
  | faulted
  deriving DecidableEq, Repr

/-- What a stalled sequencer waits for. -/
inductive SeqStall where
  | none
  /-- AT, WAITT: an air time, and the greatest lead at which it ends (R331) -/
  | time (a : Air) (bound : Nat)
  /-- items to issue on ports, all of them (EMIT, BEAMSEL, COMMIT, PREP, HOP, PWR) -/
  | emit (items : List NetItem)
  /-- SQUASH with its from-time (R313, R316); `limit` tells that the 97th-squash bound holds it -/
  | squash (t : Air) (limit : Bool)
  /-- RECV into a register quad (R305) -/
  | recv (gd : Nat)
  /-- EV wait: the tick at which the timeout elapses; and the events of which occurrences were held back when it began, each with
  its occurrences by then (R310, R517) -/
  | event (until_ : Nat) (marks : List (Nat × Nat))
  deriving DecidableEq, Repr

/-- One entry of a speculation record: own stream j, the ports it went to, the greatest AIRTIME (R312). -/
structure SpecEntry where
  stream : Nat
  ports  : List Nat
  last   : Air
  deriving DecidableEq, Repr

/-- An entry of a section queue (R304, R305). -/
structure Section where
  record : BitVec 128
  tag    : BitVec 64
  /-- address of the beam list in the link buffers, 0 when BEAMMODE is 1 -/
  list   : Addr
  /-- bytes of the list -/
  bytes  : Nat
  /-- the record breaks R77 -/
  bad    : Bool
  deriving DecidableEq, Repr

structure SeqSt where
  state   : RunState := .stopped
  run     : Bool := false
  /-- byte offset in program memory; 0x80000 once the program has run past the end (R324) -/
  pc      : BitVec 20 := 0
  g       : Table (BitVec 64) := []
  /-- Z, N, C, V, QE, MF, NS, TO from bit 0 (R298) -/
  f       : BitVec 8 := 0
  leadMax : BitVec 24 := 0x780000
  slot    : Air := 0
  opened  : Bool := false
  ns      : Bool := false
  sqcnt   : Nat := 0
  resume  : BitVec 19 := 0
  epoch   : Table (BitVec 8) := []
  savedG  : Table (BitVec 64) := []
  savedF  : BitVec 4 := 0
  spec    : List SpecEntry := []
  queue   : List Section := []
  stall   : SeqStall := .none
  cause   : BitVec 8 := 0
  faultpc : BitVec 19 := 0
  /-- ticks of the last squashes, newest first (R316) -/
  squashes : List Nat := []
  /-- addresses of the instructions whose refused items have not yet faulted the sequencer (R338) -/
  refused : List (BitVec 19) := []
  deriving DecidableEq, Repr

/-- An issue queue (R307, R308). -/
structure IssueSt where
  pushes  : List (BitVec 64) := []
  lasterr : Nat := 0
  done    : BitVec 16 := 0
  deriving DecidableEq, Repr

/-! ## Link ports (R399-R432) -/

inductive PortState where
  | down
  | aligning
  | init
  | up
  deriving DecidableEq, Repr

/-- A frame waiting at an egress port, with the tick at which it became ready. -/
structure TxFrame where
  hdr   : BitVec 64
  body  : Bytes
  ready : Nat
  deriving DecidableEq, Repr

/-- One virtual channel of one port (R408-R417). -/
structure VcLink where
  /-- next SEQ to send -/
  txSeq   : BitVec 16 := 0
  /-- expected SEQ -/
  rxSeq   : BitVec 16 := 0
  /-- the partner's cumulative grant, and the tick at which it last grew -/
  grant   : BitVec 32 := 0
  grew    : Nat := 0
  /-- a CREDIT word has been received since the port entered INIT -/
  credit  : Bool := false
  /-- units used, modulo 2^32 -/
  used    : BitVec 32 := 0
  /-- own cumulative grant, and the units that a full stream buffer withholds (R408, R109) -/
  own     : BitVec 32 := 0
  held    : Nat := 0
  queue   : List TxFrame := []
  /-- sent and unacknowledged frames, oldest first -/
  unacked : List TxFrame := []
  /-- how many of them are to be sent again -/
  resend  : Nat := 0
  /-- go-backs in the present run -/
  goback  : Nat := 0
  /-- the tick from which the acknowledgement timeout counts -/
  ackFrom : Nat := 0
  /-- the last NAK sent: its SEQ and tick -/
  nak     : Option (BitVec 16 × Nat) := none
  deriving DecidableEq, Repr

structure PortLink where
  state    : PortState := .down
  pcs      : Bool := false
  /-- LRESET words sent since the port entered INIT (8 at least, R407), and whether one was received -/
  lresetTx : Nat := 0
  lresetRx : Bool := false
  /-- lanes on which ALIGN was seen in the present period, the periods in a row that succeeded, those that failed -/
  aligned  : List Nat := []
  periods  : Nat := 0
  failed   : Nat := 0
  /-- ALIGN count of the next ALIGN word (R401) -/
  alignCnt : BitVec 16 := 0
  /-- link control words waiting to be sent -/
  words    : List (BitVec 64) := []
  /-- the place of the next block in the stripe, and the clock at the last block (R400) -/
  pos      : Nat := 0
  posAt    : Nat := 0
  /-- the tick at which CREDIT words were last sent for every VC -/
  credSent : Nat := 0
  /-- weighted units sent by VC, and the frames of others each VC has waited behind, key 8 + VC (R412) -/
  round    : Table Nat := []
  /-- headers of the MGMT_REQ frames forwarded through the port and not yet answered (R416, R425) -/
  fwdReqs  : List Bytes := []
  /-- what the port sent in a near-end loop and has not yet received (R390) -/
  looped   : List Out := []
  deriving DecidableEq, Repr

/-! ## Modes and power (R536-R563) -/

/-- Operating modes in the order of their codes (R553). -/
inductive Mode where
  | recovery
  | boot
  | warmup
  | service
  | maintenance
  | test
  | dormant
  | timeout
  deriving DecidableEq, Repr

/-- Power states in the order of their codes (R536, R552). -/
inductive PState where
  | active
  | reed
  | sedge
  | fen
  | bog
  | peat
  deriving DecidableEq, Repr

/-- Who made a power request (R538). -/
inductive PReq where
  | seq (k : Nat)
  | mgmt
  | host
  deriving DecidableEq, Repr

/-- A transition of a power machine (R542-R549). -/
inductive PTrans where
  | none
  /-- entry to a state; `step` is the step that runs or waits -/
  | entry (target : PState) (step : Nat)
  /-- blocks restart after a refusal or an abort (R543); the tiles had been stopped -/
  | rollback (stopped : Bool)
  /-- exit from a state; `step` 1-4 of R549 -/
  | exit (step : Nat)
  deriving DecidableEq, Repr

structure PMachine where
  state   : PState := .active
  trans   : PTrans := .none
  /-- the clock at which the present transition, and its present step, began -/
  began   : Nat := 0
  stepAt  : Nat := 0
  /-- the pending request and its party (R545) -/
  pend    : Option (PState × PReq) := none
  /-- the entry aborts at its next abort point, or the exit follows it at once (R545): the wake source, 0 for an overrun -/
  abort   : Option Nat := none
  /-- tile: the state was entered automatically (R540) -/
  auto    : Bool := false
  /-- a refuser was stopped in WARMUP, TEST or RECOVERY: the exit follows with source FORCED (R544) -/
  forced  : Bool := false
  /-- event 118 has been raised for the present entry, or the present step of an exit (R534, R549) -/
  late    : Bool := false
  deriving DecidableEq, Repr

structure PowerSt where
  dev      : PMachine := {}
  tiles    : Table PMachine := []
  armed    : Bool := false
  wakeTick : BitVec 56 := 0
  refuser  : Nat := 0
  lastwake : BitVec 64 := 0
  /-- the synthesisers locked at entry (R266) -/
  lockedSyn : BitVec 8 := 0
  /-- the mode at entry (R551) -/
  modeAt   : Mode := .recovery
  /-- PS_EN and PS_GOOD levels (R537, R592), the ticks at which each PS_EN rose, rails whose fall has been reported -/
  psEn     : BitVec 8 := 0
  psGood   : BitVec 8 := 0
  psEnAt   : Table Nat := []
  /-- the tick of the last AVS change (R599) and PS_AVS.CODE -/
  avsAt    : Nat := 0
  avsCode  : BitVec 6 := 0x14
  /-- the clock at which the device's LO phase φ_dev last changed (R264) -/
  devPhase : Nat := 0
  deriving DecidableEq, Repr

structure ModeSt where
  mode     : Mode := .recovery
  warm     : Bool := false
  noreg    : Bool := false
  slot     : BitVec 1 := 0
  rstcause : BitVec 3 := 0
  bootcnt  : BitVec 2 := 0
  /-- WARMUP calibration has completed (R554) -/
  calDone  : Bool := false
  /-- the tick at which the mask ROM started the firmware (R556) -/
  bootAt   : Nat := 0
  /-- causes of R529 that persist: 0 reference, 1 supply, 2 thermal, 3 fence of unit 7 or 9, 4 unit 10 -/
  causes   : BitVec 5 := 0
  deriving DecidableEq, Repr

/-! ## PCIe and MSI-X (R455-R473) -/

structure PcieSt where
  /-- level of PCIE_PERST_N, and whether the endpoint is ready -/
  perstN : Bool := true
  ready  : Bool := false
  msixEn : Bool := false
  fmask  : Bool := false
  pba    : BitVec 128 := 0
  deriving DecidableEq, Repr

/-! ## Carriers and the slot grid (R73-R75, R93-R96, R341, R343) -/

/-- The FFT_CFG in effect for a carrier and direction, and the tick of symbol 0 of a slot from which its grid counts. -/
structure FftSt where
  cfg    : Option Bytes := none
  mu     : Nat := 0
  origin : Nat := 0
  deriving DecidableEq, Repr

/-- A carrier context of a tile, or the beamformer and FFT island's copy of it (R341). -/
structure CarSt where
  on      : Bool := false
  tdmode  : Bool := false
  phcomp  : Bool := false
  nrb     : Nat := 0
  rbglog  : Nat := 0
  lmax    : Nat := 0
  tdblk   : Nat := 0
  freq    : BitVec 48 := 0
  /-- the tick of the last ON, OFF or RETUNE: its boundary has a zero tail (R93), its chains start from zero (R163) -/
  since   : Nat := 0
  /-- the sample tick before which its chains' output carries WARMUP (R163, R218-R220) -/
  warmTo  : Nat := 0
  deriving DecidableEq, Repr

/-- The overlap window in effect for a carrier (R88, R90), and the one before it. -/
structure WolaSt where
  w     : Nat := 0
  shape : Bool := false
  deriving DecidableEq, Repr

/-- Crest-factor reduction of a tile (R97, R98). -/
structure CfrSt where
  mode   : Nat := 0
  tgt    : Nat := 0
  bank   : Bank := .A
  cap    : Nat := 0
  rmsref : BitVec 16 := 0
  deriving DecidableEq, Repr

/-- An accepted declaration (R78, R82): the symbol, the section record and the beam list; whether its data has been
judged complete or missing. -/
structure Decl where
  dir    : Dir
  car    : Nat
  air    : Air
  mu     : Nat
  tag    : Tag
  record : BitVec 128
  list   : Bytes
  judged : Bool := false
  deriving DecidableEq, Repr

/-- A beam list in the link buffers: the sequencer that may read it, its place, and the air time it lives to (R306). -/
structure ListRef where
  seq   : Nat
  addr  : Nat
  bytes : Nat
  until_ : Air
  deriving DecidableEq, Repr

/-- A symbol of a carrier that a tile has blanked and counted (R54). -/
structure Blanked where
  tile : Nat
  car  : Nat
  air  : Air
  /-- the paths of the tile that are blank; with none the symbol is only counted, and single quads are blank -/
  paths : BitVec 16
  /-- the tick from which they are blank: the start of the symbol, or a later one (R50, R66) -/
  from_ : Int
  /-- the end of the blank on a time-domain carrier, whose samples are not the symbol's: that of a span that R50 or R66 blanks,
  else none of them -/
  until_ : Int
  deriving DecidableEq, Repr

/-- A span over which a path's block of time-domain data holds samples (R104). -/
structure TdSpan where
  path : Nat
  car  : Nat
  air  : Air
  len  : Nat
  /-- the block's samples (R103) -/
  iq   : List IQ := []
  /-- the tag of the block -/
  tag  : Tag := {}
  deriving DecidableEq, Repr

/-! ## Coefficient records, selections and fades (R118-R138, R156, R190, R195, R211-R215) -/

/-- A working record of a pipeline-local store. -/
structure Rec where
  /-- the record's bytes; none stands for all zeros, as at reset (R121) -/
  bytes      : Bytes := []
  /-- a line check has failed, and the refetch runs (R138) -/
  rebuilding : Bool := false
  /-- LOST (R138); for a CFR pulse record, failed until a COEF replaces it (R490) -/
  lost       : Bool := false
  /-- a FIR record that FIRLEN no longer fits (R212) -/
  unfit      : Bool := false
  deriving DecidableEq, Repr

/-- A running cross-fade: the outgoing selection, its first sample's tick and its exponent (R123). -/
structure Fade where
  set   : Nat
  bank  : Bank
  start : Nat
  k     : Nat
  deriving DecidableEq, Repr

/-- A pending swap (R125). -/
structure PendSwap where
  set  : Nat
  bank : Bank
  k    : Nat
  tag  : Tag
  pc   : BitVec 19
  deriving DecidableEq, Repr

/-- A current selection with its fade and its pending swap. -/
structure SelSt where
  set  : Nat := 0
  bank : Bank := .A
  fade : Option Fade := none
  pend : Option PendSwap := none
  deriving DecidableEq, Repr

/-- A canceller snapshot that runs on a tile (R197). -/
structure SnapSt where
  path  : Nat
  air   : Air
  start : Nat
  log   : Nat
  deriving DecidableEq, Repr

/-- An observation receiver (R131-R136). -/
structure ObsSt where
  /-- the entry that runs: its index and the tick at which it started -/
  entry    : Option (Nat × Nat) := none
  /-- a snapshot runs: its first tick -/
  snap     : Option Nat := none
  /-- the entry's snapshot has been taken, cut or discarded -/
  took     : Bool := false
  /-- snapshot sequence count (R133) -/
  seqCnt   : BitVec 32 := 0
  /-- the tick from which the schedule runs: the resume item's AIRTIME (R136) -/
  runFrom  : Nat := 0
  deriving DecidableEq, Repr

/-- Coefficient stores and the blocks that use them (chapters 4 to 7). -/
structure LinSt where
  /-- working coefficient records by `recKey`, selections by `selKey` -/
  recs    : Table Rec := []
  sels    : Table SelSt := []
  /-- cancellers on (R187), and the ticks at which pending OFFs take effect, by path -/
  sicOn   : BitVec 64 := 0
  sicOff  : Table (Option Nat) := []
  /-- running canceller snapshots and their sequence counts, by tile (R197) -/
  snaps   : Table (List SnapSt) := []
  snapCnt : Table (BitVec 32) := []
  obs     : Table ObsSt := []
  /-- DPDSET and BANK of the last data block of a stream's carrier, and of its path in time-domain mode (R55), by `tagKey` -/
  lastTag : Table (Option (BitVec 5)) := []
  deriving DecidableEq, Repr

/-! ## Synthesisers (R250-R268) -/

inductive SynState where
  | off
  | tuning
  | calibrating
  | locked
  | failed
  deriving DecidableEq, Repr

/-- A tuning item taken up or waiting at a synthesiser (R255, R257). -/
structure Tune where
  cal   : Bool
  entry : Nat
  flo   : BitVec 40 := 0
  chan  : BitVec 6 := 0
  phsync : Bool := false
  deriving DecidableEq, Repr

structure SynSt where
  state   : SynState := .off
  /-- lock detector, and readiness for receive (R259); for transmit too unless the record forbids its LO (R256) -/
  ready   : Bool := false
  /-- current entry, whether one is held, and the frequency it was tuned to -/
  entry   : Nat := 0
  held    : Bool := false
  flo     : BitVec 40 := 0
  /-- the item that runs, the items that wait for it, and the running item of a relock -/
  work    : Option Tune := none
  waiting : List Tune := []
  relock  : Bool := false
  /-- the entry held before the running CAL began (R257, R261) -/
  before  : Option Nat := none
  /-- a SWITCH named it during its CAL: the CAL yields and the former entry is retuned -/
  mustYield : Bool := false
  calFail : Bool := false
  /-- words 0 to 2 staged for the calibration store (R587) -/
  staged  : BitVec 96 := 0
  /-- phase restart tick with PHSYNC (R264) -/
  phaseAt : Option Nat := none
  /-- the clock at which the tuning item was taken up (R264) -/
  tunedAt : Nat := 0
  /-- a frequency that a record in force forbade when it failed: not ready for transmit at it (R256) -/
  barred  : Option (BitVec 40) := none
  deriving DecidableEq, Repr

/-- A switch span that has begun: the AIRTIME at which it ends, and the selections its SWITCH names (R258). -/
structure SwSpan where
  end_ : Air
  tx   : Bool
  rx   : Bool
  deriving DecidableEq, Repr

/-- TXSYN, RXSYN (true: SYN B) and the switch spans that have begun (R258). -/
structure LoSel where
  tx    : Bool := false
  rx    : Bool := false
  spans : List SwSpan := []
  deriving DecidableEq, Repr

/-! ## Front end (R269-R293) -/

/-- A scheduled switch of a quad's receive enable (R270). -/
structure RxSwitch where
  quad : Nat
  on   : Bool
  dup  : Bool
  pri  : Bool
  at_  : Int
  tag  : Tag
  deriving DecidableEq, Repr

/-- An RFFE group on a bus: its span, its frames, and whether it has started (R275). -/
structure RffeGroup where
  start   : Nat
  stop    : Nat
  frames  : List (BitVec 64)
  tag     : Tag
  begun   : Bool
  /-- no tagged group: a safety sequence, or a command of FEn_RFFECMD (R276) -/
  safety  : Bool
  /-- frames sent -/
  sent    : Nat := 0
  deriving DecidableEq, Repr

/-- The limiter's factors of a path: its own and the device's, 0x8000 = 1.0, and the tick of the last change (R285). -/
structure LimSt where
  own  : BitVec 16 := 0x8000
  dev  : BitVec 16 := 0x8000
  at_  : Nat := 0
  deriving DecidableEq, Repr

/-- A power-mode result of a forward entry (R279). -/
structure FwdRes where
  tick  : Nat
  atten : Nat
  clip  : Bool
  power : BitVec 32
  deriving DecidableEq, Repr

/-- A symbol or block, by its air time, that is blank on a quad's paths from a tick on for a cause of their own (R262, R288, R290,
R291). -/
structure QuadBlank where
  quad  : Nat
  air   : Air
  from_ : Int
  deriving DecidableEq, Repr

/-- A span over which a quad's output is cut within a symbol: to zero, or down to zero over 64 composite samples first (R262,
R288, R291). -/
structure Cut where
  quad : Nat
  from_ : Int
  until_ : Int
  ramp : Bool
  deriving DecidableEq, Repr

structure FeSt where
  /-- FE_TXEN_Q, FE_RXEN_Q and FE_CPLREV_Q as driven -/
  txEn   : BitVec 16 := 0
  rxEn   : BitVec 16 := 0
  cplRev : BitVec 16 := 0
  /-- receive enables as FE_CTL items have scheduled them, with DUPLEX; the tick at which each last turned on -/
  rxWant : BitVec 16 := 0
  rxDup  : BitVec 16 := 0
  rxOnAt : Table Nat := []
  rxSched : List RxSwitch := []
  /-- quads in internal loopback, and in RX calibration coupling (R143, R158) -/
  loop   : BitVec 16 := 0
  rxcal  : BitVec 16 := 0
  groups : Table (List RffeGroup) := []
  /-- queued FEn_RFFECMD words, by tile (R276) -/
  cmds   : Table (List (BitVec 64)) := []
  /-- FEn_MUTE bits; paths still silent; ticks of the releases (R280) -/
  mute   : BitVec 64 := 0
  silent : BitVec 64 := 0
  muteRel : Table Nat := []
  /-- consecutive evaluations at or above MUTE, and the latest forward results, by path (R279, R280) -/
  muteRun : Table Nat := []
  fwd    : Table (Option FwdRes) := []
  lim    : Table LimSt := []
  /-- connector-referred sums of the tiles, in 2^-16 mW (R285) -/
  sums   : Table Nat := []
  /-- paths at their duty limit in the present window, and the window's start (R286) -/
  dutyOut : BitVec 64 := 0
  dutyAt : Nat := 0
  /-- enabled ticks by path in one window (R286) -/
  dutyRun : Table Nat := []
  /-- the number of that window (R286) -/
  dutyNum : Nat := 0
  /-- level of RF_SAFE_N, quads held by it, and the tick of the rising edge (R288) -/
  rfSafe : Bool := true
  safeHold : BitVec 16 := 0
  safeRise : Option Nat := none
  /-- COX_REQ and COX_PRI as driven (R289) -/
  coxReq : BitVec 4 := 0
  coxPri : BitVec 4 := 0
  quadBlanks : List QuadBlank := []
  cuts   : List Cut := []
  /-- quads whose present receive span a coexistence grant has refused or ended (R290, R291) -/
  rxDeny : BitVec 16 := 0
  /-- the record in force failed its check (R284); event 99 has been raised for the present lack of a record -/
  regBad : Bool := false
  regTold : Bool := false
  /-- TS: events 102 and 103 raised and not yet re-armed (R592) -/
  warnTold : Bool := false
  shutTold : Bool := false
  /-- ticks at which paths left transmit service (key p) and receive service (key 64 + p) -/
  outAt  : Table Nat := []
  /-- SOURCE of the STOP that took it out (R71) -/
  outBy  : Table (BitVec 4) := []
  deriving DecidableEq, Repr

/-! ## Beam tables (R224-R240) -/

inductive BankState where
  | free
  | committing
  | live
  | held
  deriving DecidableEq, Repr

/-- The build state of a direction: the out set and the alignment factors (R233). -/
structure BuildState where
  out   : BitVec 64 := 0
  align : Table (BitVec 32) := []
  deriving DecidableEq, Repr

/-- A commit that was accepted and is not yet live (R231, R233, R235). -/
structure BeamCommit where
  bank  : Bank
  air   : Air
  mu    : Nat
  tag   : Tag
  /-- the core that queued it, for an engine commit (R240) -/
  core  : Option Nat
  /-- the tick at which its build starts, how many entries it covers, and whether it covers the whole region -/
  began : Nat
  count : Nat
  all   : Bool
  built : Bool
  state : BuildState
  deriving DecidableEq, Repr

/-- A region of a direction: states and recorded build states of its two banks, its pending commit, and the air time
before which the HELD bank is read (R230, R233). -/
structure RegionSt where
  a     : BankState := .live
  b     : BankState := .free
  recA  : BuildState := {}
  recB  : BuildState := {}
  pend  : Option BeamCommit := none
  heldT : Air := 0
  deriving DecidableEq, Repr

/-- An outstanding entry of the engine commit queue (R239). -/
structure EcqItem where
  core : Nat
  item : Item
  deriving DecidableEq, Repr

structure BeamSt where
  /-- key 2 * direction + region -/
  regions : Table RegionSt := []
  /-- DIRTY bits, key 8192 * (2 * direction + bank) + entry -/
  dirty   : Table Bool := []
  /-- entries that failed their line check and are being refetched, keyed as DIRTY bits (R236) -/
  failing : List Nat := []
  ecq     : List EcqItem := []
  deriving DecidableEq, Repr

/-! ## The receive chain (R150-R160, R168-R178, R218-R221) -/

/-- The DC loop of a path at one LNA step: servo codes and estimates of the rails, unfrozen samples run, and the tick at
which they sufficed (R150-R154). -/
structure DcSt where
  codeI : Int := 0
  codeQ : Int := 0
  estI  : BitVec 32 := 0
  estQ  : BitVec 32 := 0
  run   : Nat := 0
  done  : Option Nat := none
  deriving DecidableEq, Repr

/-- A span of output samples that carry WARMUP, on the chains of a carrier of a tile (R220). -/
structure WarmSpan where
  tile : Nat
  dir  : Dir
  car  : Nat
  lo   : Int
  hi   : Int
  /-- the reset tick: inputs before it count as zeros (R219) -/
  t0   : Nat := 0
  deriving DecidableEq, Repr

/-- A SYNC_RESET whose reset tick lies ahead (R218). -/
structure SyncReset where
  tile : Nat
  t0   : Nat
  dirs : List Dir
  cars : Nat
  tag  : Tag
  deriving DecidableEq, Repr

/-- A declared sounding window (R168). -/
structure SrsWin where
  car  : Nat
  air  : Air
  tag  : Tag
  body : Bytes
  deriving DecidableEq, Repr

/-- An own layer block held for its partial, and the tick at which it left the combiner (R178). -/
structure HeldBlock where
  blk   : UlBlock
  since : Nat
  deriving DecidableEq, Repr

/-- What identifies a layer block: AIRTIME, CARRIER, SECTID, LAYER, START_RB, NUM_RB (R177). -/
structure UlKey where
  air   : Air
  car   : Nat
  sect  : Nat
  layer : Nat
  start : Nat
  num   : Nat
  deriving DecidableEq, Repr

structure RxSt where
  /-- key 8 * path + LNA step -/
  dc      : Table DcSt := []
  /-- LNA step of a path (R159) -/
  step    : Table Nat := []
  /-- paths that a DC_FREEZE item has frozen (R152) -/
  frozen  : BitVec 64 := 0
  /-- the tick of a path's last DC_FREEZE release (R152) -/
  relAt   : Table (Option Nat) := []
  /-- the tick of a rail's last servo step, key 2 * path + rail -/
  servoAt : Table (Option Nat) := []
  warm    : List WarmSpan := []
  syncs   : List SyncReset := []
  wins    : List SrsWin := []
  own     : List HeldBlock := []
  parts   : List Item := []
  /-- own blocks that have left -/
  sent    : List UlKey := []
  deriving DecidableEq, Repr

/-! ## Samples (R72, R145)

The sample chains hold no running registers here: a sample is computed from the settings in effect at its air time, the formed
symbols, the time-domain blocks and the received line (log entry 40). -/

/-- Everything the sample arithmetic depends on that can change while samples are in flight. -/
structure Settings where
  fns     : Table FnSt := []
  ffts    : Table FftSt := []
  cars    : Table CarSt := []
  islCars : Table CarSt := []
  wolas   : Table WolaSt := []
  cfrs    : Table CfrSt := []
  gains   : Table (BitVec 16) := []
  recs    : Table Rec := []
  sels    : Table SelSt := []
  sicOn   : BitVec 64 := 0
  step    : Table Nat := []
  lims    : Table LimSt := []
  /-- paths out of service, and quads whose transmit enable is on or that are in loopback -/
  txOut   : BitVec 64 := 0
  rxOut   : BitVec 64 := 0
  txEn    : BitVec 16 := 0
  loop    : BitVec 16 := 0
  /-- paths held silent after the limiter, and in receive (R280, R286, R288, R530, R541, R553) -/
  dark    : BitVec 64 := 0
  rxDark  : BitVec 64 := 0
  /-- no valid locked record is in force (R284) -/
  held    : Bool := true
  /-- synthesisers whose lock detector says ready (R259) -/
  synReady : BitVec 8 := 0
  /-- tiles whose receive synthesiser does not count as locked (R149) -/
  unlocked : BitVec 4 := 0xF
  deriving DecidableEq, Repr

/-- A transmit symbol that the beamformer and the inverse FFT have formed (R82-R88): its N samples on each path, and the
resource elements before and after beamforming. -/
structure TxSym where
  car    : Nat
  start  : Int
  /-- FFT size, carrier sample in ticks, and prefix length in samples -/
  n      : Nat
  tk     : Nat
  pre    : Nat
  tag    : Tag
  /-- x[0] to x[N − 1] by path, outputs of the beamformer by path, layer data by layer; the inverse transform has been made -/
  x      : Table (List IQ) := []
  done   : Bool := false
  /-- rails clamped by decompression and beamforming (R80, R84), and the blocks that delivered the data -/
  clips  : Nat := 0
  blocks : List Item := []
  beams  : Table (List IQ) := []
  layers : Table (List IQ) := []
  deriving DecidableEq, Repr

/-- The samples of a receive path after its DC loop (R150): the composite index of the newest, and the samples, newest
first; samples that no longer stand there, and those after the newest, are zero. -/
structure RxLine where
  last : Nat := 0
  iq   : List IQ := []
  deriving DecidableEq, Repr

/-- A block that a playback engine has put in place of a point's own samples (R506, R511). -/
structure PlayBlk where
  tap  : Nat
  unit : Nat
  car  : Nat
  start : Int
  /-- ticks of one sample -/
  tk   : Nat
  iq   : List IQ
  /-- the tag it was issued with, whose flags its derived blocks carry (R53) -/
  tag  : Tag := {}
  deriving DecidableEq, Repr

structure ChainSt where
  /-- settings with the tick from which they stood, newest first -/
  hist  : List (Nat × Settings) := []
  syms  : List TxSym := []
  lines : Table RxLine := []
  /-- the front die's samples, before the DC loop (tap 0x10) -/
  raws  : Table RxLine := []
  plays : List PlayBlk := []
  /-- carrier, path and air time of the next RX_TD block of a time-domain carrier, key 64 * carrier + path (R164) -/
  tdNext : Table (Option Int) := []
  deriving DecidableEq, Repr

/-! ## Time (R433-R454) -/

inductive Servo where
  | unlocked
  | locked
  | holdover
  deriving DecidableEq, Repr

/-- A PTP frame read from its descriptor and not yet sent (R443). -/
structure PtpWait where
  port    : Nat
  tsreq   : Bool
  onestep : Bool
  launch  : Option (BitVec 56)
  id      : Nat
  msg     : Bytes
  /-- a forwarded message: the clock at which it came in (R447) -/
  came    : Option Nat := none
  deriving DecidableEq, Repr

structure TimeSt where
  servo   : Servo := .unlocked
  stepgen : BitVec 4 := 0
  tsqovf  : Bool := false
  tsyncV  : Bool := false
  lossto  : BitVec 8 := 4
  rate    : BitVec 40 := 0
  /-- steering words sent, modulo 256, and the clock at the last one (R437) -/
  seq     : BitVec 8 := 0
  wordAt  : Nat := 0
  /-- samples gathered towards QUAL, and the clock at the last valid one (R439) -/
  samples : List Int := []
  validAt : Nat := 0
  /-- the announced X of the next TSYNC edge; the last edge as X, and the clock at it (R449) -/
  announced : Option Nat := none
  edge    : Option Nat := none
  edgeAt  : Nat := 0
  /-- the clock at the last PPS_IN edge (R451) -/
  ppsAt   : Nat := 0
  /-- a step with SRC 2 has taken its seconds from TIME_TOD (R451) -/
  todUsed : Bool := false
  waits   : List PtpWait := []
  /-- unread entries of the timestamp queue (R444) -/
  unread  : Nat := 0
  deriving DecidableEq, Repr

/-! ## Serial lanes (R376-R398) -/

/-- What a lane's transmitter does: idle, a burst or training since a tick of the clock, or data. -/
inductive LaneTx where
  | idle
  | burst (since : Nat)
  | training (since : Nat)
  | data
  deriving DecidableEq, Repr

structure LaneSt where
  tx       : LaneTx := .idle
  /-- the lane entered idle under R384, and no RETRAIN has arrived since (R385) -/
  fastOk   : Bool := false
  /-- idle is entered once data has begun; and the training under way answers, or follows, a RETRAIN (R389) -/
  idlePend : Bool := false
  retrain  : Bool := false
  /-- after a loss of signal that was not announced, a full training of the transmitter and a full acquisition of the receiver that
  have not been completed (R396) -/
  owesTx   : Bool := false
  owesRx   : Bool := false
  sigdet   : Bool := false
  cdrlock  : Bool := false
  blocklock : Bool := false
  expidle  : Bool := false
  los      : Bool := false
  lol      : Bool := false
  fastfail : Bool := false
  /-- full acquisition runs, and the clock at which its present span began (R387) -/
  acq      : Bool := false
  acqAt    : Nat := 0
  /-- the next signal needs full acquisition (R387) -/
  needFull : Bool := true
  /-- a fast exit runs since a tick of the clock (R385) -/
  fastRx   : Option Nat := none
  /-- the transmitter's scrambler: its last 58 bits, the oldest lowest, and the clock at its last block (R379) -/
  scr      : BitVec 58 := 0
  scrAt    : Nat := 0
  /-- sync headers, and invalid ones, in the present window of the block-lock machine (R382) -/
  shCnt    : Nat := 0
  shBad    : Nat := 0
  /-- lane-layer words sent in a near-end loop that the receiver has not yet taken (R390) -/
  looped   : List (BitVec 64) := []
  deriving DecidableEq, Repr

/-! ## Capture and playback (R505-R512) -/

inductive CapState where
  | idle
  | armed
  | running
  | done
  deriving DecidableEq, Repr

/-- A descriptor (R507). -/
structure CapDesc where
  base    : Nat := 0
  ring    : Bool := false
  sh      : Nat := 0
  blklog  : Nat := 0
  carrier : Nat := 0
  size    : Nat := 0
  mask    : BitVec 64 := 0
  prog    : Nat := 0
  deriving DecidableEq, Repr

/-- A block of an observation receiver that waits at an engine to be recorded: its tag, its path and its samples (R135). -/
structure ObsBlk where
  tag  : Tag
  path : Nat
  iq   : List IQ
  deriving DecidableEq, Repr

/-- A capture engine. -/
structure CapSt where
  state   : CapState := .idle
  play    : Bool := false
  records : BitVec 32 := 0
  tap     : BitVec 8 := 0
  desc    : CapDesc := {}
  /-- the start item's tag, and the first air time it takes -/
  tag     : Tag := {}
  from_   : Air := 0
  /-- the first record is to be flagged LATE (R50) -/
  late    : Bool := false
  /-- the stop item's tag, whose AIRTIME is the first air time it no longer takes -/
  stop    : Option Tag := none
  /-- offset of the next record in the buffer, bytes written so far, the air time of the present block period, and the lowest unit
  that has not yet passed in it (R508) -/
  pos     : Nat := 0
  total   : Nat := 0
  period  : Option Air := none
  unitAt  : Nat := 0
  /-- blocks of an observation receiver that wait to be recorded (R135) -/
  blocks  : List ObsBlk := []
  /-- playback: the first record's AIRTIME, the end of the last one issued, and the shift of the present pass (R511) -/
  first   : Option Air := none
  last    : Air := 0
  shift   : Air := 0
  deriving DecidableEq, Repr

/-! ## Slots (R462-R467) -/

inductive Owner where
  | free
  | host
  | device
  deriving DecidableEq, Repr

structure SlotSt where
  owner  : Owner := .free
  torn   : Bool := false
  pend   : Bool := false
  seq    : BitVec 16 := 0
  length : BitVec 15 := 0
  /-- the clock at the flag write that gave the host ownership, or at the hand-over that awaits its check -/
  since  : Nat := 0
  /-- re-polls made of the header -/
  polls  : Nat := 0
  /-- the device initiator that claimed the slot (R523) -/
  holder : Option Initiator := none
  deriving DecidableEq, Repr

/-! ## DMA (R474-R488) -/

inductive DmaState where
  | idle
  | running
  | waiting
  | endwait
  | halted
  | paused
  deriving DecidableEq, Repr

/-- What failed when a channel halted, and so what RESUME reissues. -/
inductive DmaAt where
  | copy
  /-- the read of a descriptor, or the descriptor itself -/
  | desc
  /-- the re-read of a tail's link word -/
  | link
  | wait
  deriving DecidableEq, Repr

structure DmaSt where
  state   : DmaState := .idle
  cause   : Nat := 0
  errHost : Bool := false
  at_     : DmaAt := .copy
  dbcnt   : BitVec 32 := 0
  seen    : BitVec 32 := 0
  /-- a RING came in IDLE while EN was clear -/
  rung    : Bool := false
  /-- the current descriptor's 32 bytes, and the bytes of LENGTH read and written -/
  desc    : Bytes := []
  read    : Nat := 0
  moved   : Nat := 0
  /-- of a wait: the clock at its beginning, the next poll, and the event's occurrences before it -/
  began   : Nat := 0
  pollAt  : Nat := 0
  evSeen  : Nat := 0
  deriving DecidableEq, Repr

/-- A burst in the split-engine ring buffer: its channel, its bytes and its writes (R487). -/
structure SplitBurst where
  chan   : Nat
  bytes  : Nat
  writes : List (Nat × Bytes)
  deriving DecidableEq, Repr

structure DmaArb where
  /-- slot of the schedule, and the channel granted last at each level (R479) -/
  slot  : Nat := 0
  last  : Table Nat := []
  /-- SPLIT: channels in the order of their doorbells, and the ring buffer (R487) -/
  order : List Nat := []
  buf   : List SplitBurst := []
  deriving DecidableEq, Repr

/-! ## Vector cores (R346-R375) -/

inductive VcState where
  | stopped
  | running
  | stalled
  | sleeping
  | faulted
  deriving DecidableEq, Repr

/-- What a vector-slot word writes. -/
inductive VWrite where
  | none
  | vec (r : Nat) (x : BitVec 512)
  /-- an accumulator: its 32 rails, lane by lane, and its OVF flags -/
  | acc (r : Nat) (rails : List Int) (ovf : BitVec 16)
  | scalar (r : Nat) (x : BitVec 64)
  deriving DecidableEq, Repr

/-- The result of a vector-slot word: its write and the sticky flags it sets. -/
structure VRes where
  write : VWrite := .none
  ovf   : Bool := false
  sat   : Bool := false
  dom   : Bool := false
  deriving DecidableEq, Repr

/-- A register that a word writes; s0 and o0 are none. -/
inductive VReg where
  | v (i : Nat)
  | acc (i : Nat)
  | a (i : Nat)
  | o (i : Nat)
  | s (i : Nat)
  deriving DecidableEq, Repr

/-- A level of LOOP: addresses of the body's first and last word, and the passes that remain (R365). -/
structure VLoop where
  first : Nat
  last  : Nat
  left  : Nat
  deriving DecidableEq, Repr

/-- A remote store without its response yet (R368, R369): the bundle that issued it, and whether it has TRY. -/
structure VStore where
  addr  : Nat
  data  : Bytes
  try_  : Bool
  pc    : BitVec 20
  deriving DecidableEq, Repr

/-- What a load writes: a vector register, or a scalar with its size and sign extension. -/
inductive VDest where
  | vec (r : Nat)
  | scalar (r : Nat) (size : Nat) (sx : Bool)
  deriving DecidableEq, Repr

/-- What a stalled bundle waits for. `ax` and `oy` are the registers of its post-modification. -/
inductive VStall where
  | none
  /-- a remote load's response -/
  | load (d : VDest) (addr n : Nat) (ax oy : Nat)
  /-- a remote store, while 16 are outstanding -/
  | store (x : VStore) (ax oy : Nat)
  /-- the response of a TRY store -/
  | tryStore (ax oy : Nat)
  | fence
  deriving DecidableEq, Repr

/-- Word 0 of a bundle that issues its words one by one, kept until the bundle is over: the registers and sticky flags before it,
the registers it writes, and the bytes its local store replaced (R350, R362). -/
structure VcWord0 where
  v      : Table (BitVec 512) := []
  acc    : Table (BitVec 48) := []
  ovf    : BitVec 128 := 0
  a      : Table (BitVec 40) := []
  o      : Table (BitVec 32) := []
  s      : Table (BitVec 64) := []
  f      : BitVec 4 := 0
  stOvf  : Bool := false
  stSat  : Bool := false
  stDom  : Bool := false
  writes : List VReg := []
  undo   : List (Nat × Byte) := []
  deriving DecidableEq, Repr

structure VcSt where
  state   : VcState := .stopped
  run     : Bool := false
  pc      : BitVec 20 := 0
  v       : Table (BitVec 512) := []
  /-- accumulator rails, key 32 * acc + 2 * lane + rail, and OVF flags, bit 16 * acc + lane -/
  acc     : Table (BitVec 48) := []
  ovf     : BitVec 128 := 0
  a       : Table (BitVec 40) := []
  o       : Table (BitVec 32) := []
  s       : Table (BitVec 64) := []
  /-- Z, N, C, V from bit 0 -/
  f       : BitVec 4 := 0
  /-- active loop levels, outermost first -/
  loops   : List VLoop := []
  /-- VCn_STAT.OVF, SAT, DOM; CAUSE and FAULTPC; VCn_EVCAUSE -/
  stOvf   : Bool := false
  stSat   : Bool := false
  stDom   : Bool := false
  cause   : BitVec 8 := 0
  faultpc : BitVec 18 := 0
  evcause : BitVec 4 := 0
  /-- the clock when RUN was last set -/
  runAt   : Nat := 0
  /-- the result of the V word of a dual-issued bundle, until its S word comes -/
  staged  : Option VRes := none
  /-- word 0 of another bundle that is not over -/
  word0   : Option VcWord0 := none
  stall   : VStall := .none
  /-- the clock at which a SLEEP ends -/
  sleepTo : Nat := 0
  stores  : List VStore := []
  deriving DecidableEq, Repr

/-! ## Update sessions (R564-R583) -/

inductive SessState where
  | none
  | receiving
  | verified
  deriving DecidableEq, Repr

structure SessSt where
  state   : SessState := .none
  /-- the lock's holder: its route and CLIENT word (R572) -/
  route   : Route := .pcie
  client  : BitVec 32 := 0
  /-- 0 IMAGE, 1 SETTINGS, 2 REGULATORY, and an export (R570) -/
  kind    : Nat := 0
  export_ : Bool := false
  /-- sessions opened since reset -/
  number  : Nat := 0
  /-- blocks held, by offset (R575) -/
  blocks  : Table Bytes := []
  /-- the clock at the holder's last message -/
  lastAt  : Nat := 0
  /-- the slot or settings area the session writes -/
  target  : Nat := 0
  /-- SETSTAT UNREADABLE (R581) -/
  unread  : Bool := false
  /-- a trial runs; the clock at the end of the reset that began it, and the window's seconds (R577) -/
  trial   : Bool := false
  trialAt : Nat := 0
  trialSecs : Nat := 0x258
  deriving DecidableEq, Repr

/-! ## The state -/

/-- Defaults of the STOP functions: every function but PATHTX and PATHRX is stopped by reset (R589). The key is
4 * code + tile. -/
def fnReset (key : Nat) : FnSt :=
  if key / 4 = 17 ∨ key / 4 = 18 then { stopped := false, quiet := false, byReset := false }
  else { stopped := true, quiet := true, byReset := true }

structure State where
  /-- commands waiting, first in first out -/
  pending : List Instr := []
  /-- how many free values the block has drawn (the model's own field) -/
  free    : Nat := 0
  /-- the answer and the outputs of the last command (the model's own fields) -/
  resp    : Resp := .none
  out     : List Out := []
  /-- the tick counter (R9) and TIME_WRAP (R433) -/
  now     : BitVec 56 := 0
  wrap    : BitVec 32 := 0
  /-- VDD_AON is up; RESET_N holds the logic in reset -/
  powered : Bool := true
  inReset : Bool := false
  /-- words of window A by offset (R584-R586) -/
  regs    : Table (BitVec 32) := []
  mem     : MemSt := {}
  events  : Table EvRec := []
  evPend  : BitVec 128 := 0
  /-- items queued at the stages, in AIRTIME order (R56) -/
  queue   : List QItem := []
  /-- items issued and not yet taken by a stage -/
  net     : List NetItem := []
  fns     : Table FnSt := []
  pathStops : List PathStop := []
  squashes  : List SquashRule := []
  /-- TILEn_PATHOUT by path -/
  txOut   : BitVec 64 := 0
  rxOut   : BitVec 64 := 0
  seqs    : Table SeqSt := []
  hiq     : IssueSt := {}
  miq     : IssueSt := {}
  ports   : Table PortLink := []
  vlinks  : Table VcLink := []
  /-- EV_FENCED (R535), EV_FAULTLOG (R535) -/
  fenced  : BitVec 32 := 0
  faultlog : BitVec 64 := 0
  mode    : ModeSt := {}
  power   : PowerSt := {}
  pcie    : PcieSt := {}
  /-- FFT_CFG in effect, key 4 * direction + carrier -/
  ffts    : Table FftSt := []
  /-- carriers of the tiles, key 8 * tile + 4 * direction + carrier; of the island, key 4 * direction + carrier -/
  cars    : Table CarSt := []
  islCars : Table CarSt := []
  wolas   : Table WolaSt := []
  cfrs    : Table CfrSt := []
  /-- digital gains, key 256 * direction + 4 * path + carrier, 0x4000 = 1.0 (R89, R161) -/
  gains   : Table (BitVec 16) := []
  /-- charged RE-layers, key 2^47 * direction + window number, of R76 and of sounding (R169) -/
  charges : Table Nat := []
  srsCharges : Table Nat := []
  decls   : List Decl := []
  blanked : List Blanked := []
  tdSpans : List TdSpan := []
  /-- paths whose DAC, and whose ADC, are powered down (R106, R181) -/
  dacOff  : BitVec 64 := 0
  adcOff  : BitVec 64 := 0
  /-- beam lists in the link buffers, and where the next one goes (R305, R306) -/
  lists   : List ListRef := []
  listPtr : Nat := 0
  /-- coefficient records, selections, cancellers and observation receivers -/
  lin     : LinSt := {}
  /-- synthesisers, calibration stores (key 1024 * k + entry), LO selections by tile -/
  syns    : Table SynSt := []
  synCal  : Table (BitVec 128) := []
  loSel   : Table LoSel := []
  fe      : FeSt := {}
  /-- beam-table banks, commits and the engine commit queue -/
  beam    : BeamSt := {}
  /-- ticks elapsed since power-on: what every timeout is measured by; a time step does not change it -/
  clock   : Nat := 0
  rx      : RxSt := {}
  time    : TimeSt := {}
  lanes   : Table LaneSt := []
  /-- groups whose lane PLL has locked, and the clock at which each was enabled (R378) -/
  pllLock : BitVec 4 := 0
  pllAt   : Table Nat := []
  /-- 1 + RATE of a group at its last enable, 0 before its first (R387) -/
  pllRate : Table Nat := []
  /-- capture engines -/
  caps    : Table CapSt := []
  slots   : Table SlotSt := []
  slotReady : BitVec 256 := 0
  dma     : Table DmaSt := []
  dmaArb  : DmaArb := {}
  /-- the clock at the last restart of the watchdog's period, and of the management pair (R527, R528) -/
  wdogAt  : Nat := 0
  mgmtRestart : Option Nat := none
  vcs     : Table VcSt := []
  sess    : SessSt := {}
  /-- status of the previous service-SPI transaction (R472) -/
  svc     : Nat := 0
  chain   : ChainSt := {}
  deriving DecidableEq, Repr

/-- The state right after reset: every field at the value its type gives it. -/
def State.reset : State := {}

/-! ## Stops -/

/-- Reasons to stop with a fault. Every condition that the spec describes ends in an answer, an event or a state, so nothing in
this block stops it. -/
inductive Fault where
  /-- raised by no meaning: kept for a command that no state of the block could take (safe) -/
  | impossible
  deriving DecidableEq, Repr

/-- Reasons to refuse a command. -/
inductive Refusal where
  /-- raised by the dispatch alone, for a command without a meaning (safe) -/
  | notModelled (mnemonic : String)
  deriving DecidableEq, Repr

end Sys2Proof.Machine
end

