-- ==== Sys2Proof/Machine/Ops.lean ====
section
/-! DEFINITION. The named operations over registers, counters, memory, link egress and events that every family shares. -/

namespace Sys2Proof.Machine
open Sys2Proof

/-! ## Registers and counters -/

/-- The word at an offset of window A. -/
def State.reg (s : State) (off : Nat) : BitVec 32 := tget regReset s.regs off

def State.setReg (s : State) (off : Nat) (v : BitVec 32) : State := { s with regs := tput regReset off v s.regs }

/-- A 64-bit register (two words, low first). -/
def State.reg64 (s : State) (off : Nat) : BitVec 64 := s.reg (off + 4) ++ s.reg off

def State.setReg64 (s : State) (off : Nat) (v : BitVec 64) : State :=
  (s.setReg off (v.truncate 32)).setReg (off + 4) ((v >>> 32).truncate 32)

/-- Adds `n` to a counter that holds at its maximum (R105). -/
def State.bumpBy (s : State) (off n : Nat) : State :=
  s.setReg off (BitVec.ofNat 32 (min ((s.reg off).toNat + n) 0xFFFFFFFF))

def State.bump (s : State) (off : Nat) : State := s.bumpBy off 1

/-! ## Units -/

def State.evOf (s : State) (e : Nat) : EvRec := tget (fun _ => {}) s.events e
def State.setEv (s : State) (e : Nat) (r : EvRec) : State := { s with events := tput (fun _ => {}) e r s.events }
def State.seqOf (s : State) (k : Nat) : SeqSt := tget (fun _ => {}) s.seqs k
def State.setSeq (s : State) (k : Nat) (q : SeqSt) : State := { s with seqs := tput (fun _ => {}) k q s.seqs }
def State.portOf (s : State) (p : Nat) : PortLink := tget (fun _ => {}) s.ports p
def State.setPort (s : State) (p : Nat) (x : PortLink) : State := { s with ports := tput (fun _ => {}) p x s.ports }
def State.vlOf (s : State) (p v : Nat) : VcLink := tget (fun _ => {}) s.vlinks (4 * p + v)
def State.setVl (s : State) (p v : Nat) (x : VcLink) : State :=
  { s with vlinks := tput (fun _ => {}) (4 * p + v) x s.vlinks }
/-- STOP function `f` of tile `t` (tile 0 for the codes of the central domain). -/
def State.fnOf (s : State) (f t : Nat) : FnSt := tget fnReset s.fns (4 * f + t)
def State.setFn (s : State) (f t : Nat) (x : FnSt) : State := { s with fns := tput fnReset (4 * f + t) x s.fns }
def State.tilePower (s : State) (t : Nat) : PMachine := tget (fun _ => {}) s.power.tiles t
def State.setTilePower (s : State) (t : Nat) (m : PMachine) : State :=
  { s with power := { s.power with tiles := tput (fun _ => {}) t m s.power.tiles } }

/-! ## The frame of every command -/

/-- The block is powered and out of reset. -/
def State.alive (s : State) : Bool := s.powered && !s.inReset

/-- A command that the running block acts on: the last answer and outputs are cleared, and a block without power or in
reset does nothing and answers nothing (R456, R556, R558). -/
def act (f : State → State) (s : State) : Host.Outcome State Fault Refusal :=
  let s := { s with resp := .none, out := [] }
  if s.alive then .next (f s) else .next s

/-- A command that changes the level of an input pin, which counts in every state of the block. -/
def actAlways (f : State → State) (s : State) : Host.Outcome State Fault Refusal := .next (f { s with resp := .none, out := [] })

/-- The unit is fenced (R521). -/
def State.isFenced (s : State) (u : Nat) : Bool := s.fenced.getLsbD u

def State.emitOut (s : State) (o : Out) : State := { s with out := s.out ++ [o] }

/-- An access is answered without data, or with an error response. -/
def State.done (s : State) : State := { s with resp := .done }
def State.error (s : State) : State := { s with resp := .error }

/-- Draws a free value (log entry 2). -/
def State.draw (s : State) : BitVec 512 × State := (Config.freeWord s.free, { s with free := s.free + 1 })

/-- A draw, where the state with the counter moved is what matters. -/
def State.drawn (s : State) : State := { s with free := s.free + 1 }

/-! ## Power states as the other blocks see them -/

def pstateNum : PState → Nat
  | .active => 0
  | .reed => 1
  | .sedge => 2
  | .fen => 3
  | .bog => 4
  | .peat => 5

def modeNum : Mode → Nat
  | .recovery => 0
  | .boot => 1
  | .warmup => 2
  | .service => 3
  | .maintenance => 4
  | .test => 5
  | .dormant => 6
  | .timeout => 7

/-- The device is in `p` or lower. -/
def State.atOrBelow (s : State) (p : PState) : Bool := pstateNum p ≤ pstateNum s.power.dev.state

/-- Entry step `n` of R542 has been done by a machine, and no exit has undone it. While a refused or aborted entry rolls
back, the tiles alone are still stopped (R543). -/
def PMachine.past (m : PMachine) (n : Nat) : Bool :=
  match m.trans with
  | .entry _ step => n < step
  | .rollback stopped => stopped && n = 3
  | _ => false

def State.entryPast (s : State) (n : Nat) : Bool := s.power.dev.past n

/-- The device is in `p` or lower, and no exit has brought the memories back (R549 step 3). -/
def State.memBelow (s : State) (p : PState) : Bool :=
  s.atOrBelow p && (match s.power.dev.trans with
    | .exit step => step < 4
    | _ => true)

/-- The tile's REED machine has stopped it (R541, R542 step 3). -/
def State.tileStopped (s : State) (t : Nat) : Bool := (s.tilePower t).state ≠ .active || (s.tilePower t).past 3

/-- The tile's datapath is clocked: neither its REED machine nor the device has stopped it (R541, R542 step 3). -/
def State.tileOn (s : State) (t : Nat) : Bool :=
  !s.tileStopped t && !s.atOrBelow .sedge && !s.entryPast 3 && !s.isFenced t

/-- Step 8 of an entry has stopped the sequencers: in FEN and below (R320, R542). -/
def State.seqsStopped (s : State) : Bool :=
  match s.power.dev.trans with
  | .entry target step => pstateNum .fen ≤ pstateNum target && decide (8 < step)
  | _ => false

/-- The sequencers run (R320). -/
def State.seqIslandOn (s : State) (k : Nat) : Bool :=
  !s.atOrBelow .fen && !s.seqsStopped && !s.isFenced 5 && !(k = 4 && s.isFenced 6)

/-- A vector core can run (R374). -/
def State.vcOn (s : State) (n : Nat) : Bool := !s.atOrBelow .sedge && !s.entryPast 4 && !s.isFenced (16 + n)

/-- The mode keeps RF off (R530, R553, R105). -/
def State.rfHeldOff (s : State) : Bool :=
  match s.mode.mode with
  | .recovery | .boot | .dormant | .timeout => true
  | .warmup => s.mode.calDone
  | _ => false

/-- Every receive sample is zero and every receive enable low: TIMEOUT, or a cause of R529 in BOOT or RECOVERY (R529, R530). -/
def State.rxHeldOff (s : State) : Bool :=
  match s.mode.mode with
  | .timeout => true
  | .boot | .recovery => s.mode.causes ≠ 0
  | _ => false

/-! ## Synthesisers and LO selections (R250-R254) -/

def State.synOf (s : State) (k : Nat) : SynSt := tget (fun _ => {}) s.syns k
def State.setSyn (s : State) (k : Nat) (x : SynSt) : State := { s with syns := tput (fun _ => {}) k x s.syns }
def State.loOf (s : State) (t : Nat) : LoSel := tget (fun _ => {}) s.loSel t
def State.setLo (s : State) (t : Nat) (x : LoSel) : State := { s with loSel := tput (fun _ => {}) t x s.loSel }
def State.calOf (s : State) (k e : Nat) : BitVec 128 := tget (fun _ => 0) s.synCal (1024 * k + e)
def State.setCal (s : State) (k e : Nat) (v : BitVec 128) : State :=
  { s with synCal := tput (fun _ => 0) (1024 * k + e) v s.synCal }

/-! ## The internal address map (R28-R31) -/

inductive MRegion where
  | dram
  | ctl
  | seqMem (k : Nat)
  | vcProg (n : Nat)
  | vcData (n : Nat)
  | beam (d : Dir) (b : Bank)
  | stream
  | linkBuf
  | nv
  | regs
  | rom
  deriving DecidableEq, Repr

/-- The range that holds an address: what it is, its start, and the address after its end. -/
def regionAt (a : Nat) : Option (MRegion × Nat × Nat) :=
  if a < 0x100000000 then some (.dram, 0, 0x100000000)
  else if a < 0x200000000 then some (.dram, 0x100000000, 0x200000000)
  else if a < 0x1000000000 then none
  else if a < 0x1000800000 then some (.ctl, 0x1000000000, 0x1000800000)
  else if a < 0x1001000000 then none
  else if a < 0x1001500000 then
    let k := (a - 0x1001000000) / 0x100000
    some (.seqMem k, 0x1001000000 + 0x100000 * k, 0x1001000000 + 0x100000 * (k + 1))
  else if a < 0x1002000000 then none
  else if a < 0x1006000000 then
    let n := (a - 0x1002000000) / 0x400000
    let b := 0x1002000000 + 0x400000 * n
    if a < b + 0x40000 then some (.vcProg n, b, b + 0x40000)
    else if a < b + 0x200000 then none
    else some (.vcData n, b + 0x200000, b + 0x400000)
  else if a < 0x1007000000 then
    let i := (a - 0x1006000000) / 0x400000
    let b := 0x1006000000 + 0x400000 * i
    if a < b + 0x220000 then some (.beam (if i < 2 then .tx else .rx) (bankOf i), b, b + 0x220000) else none
  else if a < 0x1008000000 then none
  else if a < 0x1009800000 then some (.stream, 0x1008000000, 0x1009800000)
  else if a < 0x100A000000 then none
  else if a < 0x100A800000 then some (.linkBuf, 0x100A000000, 0x100A800000)
  else if a < 0x2000000000 then none
  else if a < 0x2002000000 then some (.nv, 0x2000000000, 0x2002000000)
  else if a < 0x3000000000 then none
  else if a < 0x3000100000 then some (.regs, 0x3000000000, 0x3000100000)
  else if a < 0x3FFFF00000 then none
  else if a < 0x3FFFF40000 then some (.rom, 0x3FFFF00000, 0x3FFFF40000)
  else none

/-- Addresses of the units' memories (R29-R31). -/
def seqProg (k : Nat) : Nat := 0x1001000000 + 0x100000 * k
def seqData (k : Nat) : Nat := seqProg k + 0x80000
def vcProg (n : Nat) : Nat := 0x1002000000 + 0x400000 * n
def vcData (n : Nat) : Nat := vcProg n + 0x200000
def beamBase (d : Dir) (b : Bank) : Nat := 0x1006000000 + 0x400000 * (2 * dirNum d + bankNum b)
/-- Address of entry `e` of a bank (R31). -/
def beamEntry (d : Dir) (b : Bank) (e : Nat) : Nat := beamBase d b + 272 * e
def nvBase : Nat := 0x2000000000
def regBase : Nat := 0x3000000000
def slotAddr (i : Nat) : Nat := 0x1000000000 + 32768 * i

/-- The whole access lies in one mapped range (R32). -/
def accessRegion (a n : Nat) : Option MRegion :=
  match regionAt a with
  | some (r, _, hi) => if a + n ≤ hi then some r else none
  | none => none

/-- Class C and the non-volatile store: byte-wise check (R490, R491). -/
def byteChecked : MRegion → Bool
  | .ctl | .seqMem _ | .vcProg _ | .nv => true
  | _ => false

/-- The memory answers in the present power state (R33, R536). Neither rule names the non-volatile store and the mask ROM: they answer
where class C does, in SEDGE and above (DESIGN CHOICE, log entry 41). -/
def State.memPowered (s : State) (r : MRegion) : Bool :=
  match r with
  | .dram => !s.memBelow .sedge && !s.entryPast 11
  | .ctl | .seqMem _ | .vcProg _ => !s.memBelow .fen
  | .vcData _ | .beam _ _ | .stream | .linkBuf => !s.memBelow .sedge && !s.entryPast 10
  | .nv | .rom => !s.memBelow .fen
  | .regs => true

/-- The unit that holds the memory is fenced (R521, R523). -/
def State.memFenced (s : State) (r : MRegion) : Bool :=
  match r with
  | .dram | .ctl | .stream => s.isFenced 7
  | .seqMem k => s.isFenced 5 || (k = 4 && s.isFenced 6)
  | .vcProg n | .vcData n => s.isFenced (16 + n)
  | .beam _ _ => s.isFenced 4
  | .linkBuf => s.isFenced 8
  | .nv | .rom => s.isFenced 9
  | .regs => false

/-! ## Bytes, valid bits and errors (R490-R499) -/

/-- The byte stored at an address; a byte nothing has written reads as zero (R498). -/
def State.byteAt (s : State) (a : Nat) : Byte := tget (fun _ => 0) s.mem.cells a

def State.setByte (s : State) (a : Nat) (v : Byte) : State :=
  { s with mem := { s.mem with cells := tput (fun _ => 0) a v s.mem.cells } }

def State.bytesAt (s : State) (a : Nat) : Nat → Bytes
  | 0 => []
  | n + 1 => s.byteAt a :: s.bytesAt (a + 1) n

def State.setBytes (s : State) (a : Nat) : Bytes → State
  | [] => s
  | v :: vs => (s.setByte a v).setBytes (a + 1) vs

/-- Number of the valid bit that covers an address (R498). -/
def validKey (a : Nat) : Nat :=
  if a < 0x200000000 then a / 4096
  else if a < 0x2000000000 then a / 64 else a / 8

def State.isValid (s : State) (a : Nat) : Bool := tget (fun _ => false) s.mem.valid (validKey a)

def State.markValid (s : State) (a : Nat) : State :=
  { s with mem := { s.mem with valid := tput (fun _ => false) (validKey a) true s.mem.valid } }

/-- Number of the error entry that covers an address: the byte in class C, the line in class D. -/
def badKey (a : Nat) : Nat :=
  match regionAt a with
  | some (r, _, _) => if byteChecked r then a else a - a % 64
  | none => a

def State.errAt (s : State) (a : Nat) : MemErr := tget (fun _ => .good) s.mem.bad (badKey a)

def State.setErr (s : State) (a : Nat) (e : MemErr) : State :=
  { s with mem := { s.mem with bad := tput (fun _ => .good) (badKey a) e s.mem.bad } }

/-- The copy of a DRAM address in the other stack (R495). -/
def otherStack (a : Nat) : Nat := if a < 0x100000000 then a + 0x100000000 else a - 0x100000000

/-- A base register of a mirror area, in bytes (R223). -/
def State.areaBase (s : State) (r : Nat) : Nat := 4096 * fld (s.reg r) 0 28

/-- The address lies in a mirror region, in either stack (R496). -/
def State.mirrored (s : State) (a : Nat) : Bool :=
  let o := a % 0x100000000
  let has := fun (b n : Nat) => decide (b ≤ o ∧ o < b + n)
  a < 0x200000000 &&
  (has (s.areaBase rMemBeambase) 0x1000000 || has (s.areaBase rMemDpdbase) 0x240000 ||
   has (s.areaBase rMemRxiqbase) 0x40000 || has (s.areaBase rMemSicbase) 0x80000 || has (s.areaBase rMemFltbase) 0x4000 ||
   (List.range 4).any fun i =>
     let w := s.reg64 (rMemMirror i)
     has (4096 * fld w 0 28) (4096 * fld w 32 16))

/-! ## Link egress (R399, R403, R408-R412, R419, R430) -/

def State.portUp (s : State) (p : Nat) : Bool := (s.portOf p).state = .up

/-- A group's ROLE and ENABLE (R377). -/
def State.groupRole (s : State) (g : Nat) : Nat := fld (s.reg (rLaneGcfg g)) 0 2
def State.groupOn (s : State) (g : Nat) : Bool := (s.reg (rLaneGcfg g)).getLsbD 4

/-- A group's ENABLE has been set: its PLL starts, and after the first enable and after a change of rate its transmitters leave idle by
full training (R378, R387). -/
def State.startPll (s : State) (g : Nat) : State :=
  let rate := 1 + fld (s.reg (rLaneGcfg g)) 2 2
  let fresh := tget (fun _ => 0) s.pllRate g ≠ rate
  let lane := fun (s : State) (l : Nat) =>
    { s with lanes := tput (fun _ => {}) l { (tget (fun _ => {}) s.lanes l : LaneSt) with fastOk := false } s.lanes }
  let s := if fresh then (List.range 8).foldl (fun s i => lane s (8 * g + i)) s else s
  { s with pllLock := setBit s.pllLock g false, pllAt := tput (fun _ => 0) g s.clock s.pllAt
           pllRate := tput (fun _ => 0) g rate s.pllRate }

/-- A lane whose group has ENABLE and PRBS set sends and checks a PRBS31 pattern (R391). -/
def State.prbsOn (s : State) (l : Nat) : Bool := s.groupOn (l / 8) && (s.reg (rLaneGcfg (l / 8))).getLsbD 7

/-- Ethernet port `e` is enabled: its group is enabled with ROLE 3, and the group's MODE has such a port (R427). -/
def State.ethEnabled (s : State) (e : Nat) : Bool :=
  s.groupOn (e / 8) && s.groupRole (e / 8) = 3 &&
  (!(s.reg (rLaneEthcfg (e / 8))).getLsbD 0 || e % 8 = 0 || e % 8 = 4)

/-- The upstream side is Ethernet (R399). -/
def State.ethSide (s : State) : Bool := (List.range 4).any fun g => s.groupOn g && s.groupRole g = 3

/-- The upstream side is UP (R426). -/
def State.upstreamUp (s : State) : Bool :=
  if s.ethSide then (List.range 32).any fun e => s.portUp (2 + e) else s.portUp 0

/-- A link header without its SEQ (R403). -/
def linkHdr (type vc dir bcast dest src len : Nat) : BitVec 64 :=
  BitVec.ofNat 64 (type + 2 ^ 8 * vc + 2 ^ 10 * dir + 2 ^ 11 * bcast + 2 ^ 12 * dest + 2 ^ 16 * src + 2 ^ 24 * len)

/-- Puts a frame into the egress queue of its VC on a port (R412). -/
def State.egress (s : State) (p : Nat) (hdr : BitVec 64) (body : Bytes) : State :=
  let v := fld hdr 8 2
  let x := s.vlOf p v
  s.setVl p v { x with queue := x.queue ++ [⟨hdr, body, s.clock⟩] }

/-- The device's index d (R419). -/
def State.devIdx (s : State) : Nat := fld (s.reg rLanePortcfg) 0 4

/-- The port an up frame leaves on: TAGGED frames of a carrier by CARPORT, every other by MGMTPORT (R430). -/
def State.upPort (s : State) (car : Option Nat) : Nat :=
  if s.ethSide then
    match car with
    | some c => 2 + fld (s.reg rLaneEthmap) (5 * c) 5
    | none => 2 + fld (s.reg rLaneEthmap) 20 5
  else 0

/-- Sends an up frame, or discards it while its port is not UP or is no enabled port (R426, R430). -/
def State.sendUp (s : State) (car : Option Nat) (hdr : BitVec 64) (body : Bytes) : State :=
  let p := s.upPort car
  if s.portUp p && (p = 0 || s.ethEnabled (p - 2)) then s.egress p hdr body else s.bump (cPort p 6)

/-- Sends a frame the device originates upstream: DIR 1, SRC = d. -/
def State.sendOwn (s : State) (car : Option Nat) (type vc : Nat) (body : Bytes) : State :=
  s.sendUp car (linkHdr type vc 1 0 0 s.devIdx body.length) body

/-! ## Events (R24, R515-R519) -/

/-- The PCIe link carries messages (R456). -/
def State.pcieUp (s : State) : Bool := s.pcie.perstN && s.pcie.ready && !s.atOrBelow .bog && s.alive

/-- One message for MSI-X vector `v`, or its pending bit while it may not be sent (R471). -/
def State.msix (s : State) (v : Nat) : State :=
  if s.pcie.msixEn && !s.pcie.fmask && !(s.reg (rMsix v 3)).getLsbD 0 && s.pcieUp then s.emitOut (.msix v)
  else { s with pcie := { s.pcie with pba := s.pcie.pba ||| (1#128 <<< v) } }

/-- The program counter moves on, and the sequencer runs (R326). -/
def seqResume (q : SeqSt) : SeqSt := { q with state := .running, stall := .none, pc := q.pc + 4 }

/-- Ends the EV wait of sequencer `k`, if one runs: an event ended it, so TO is cleared (R310, R336). No occurrence
of event `e` that the wait's marks hold ends it: it came before the wait began (R517). A wait that a refusal abandons does not
complete (R338). -/
def State.wakeSeq (s : State) (e k : Nat) : State :=
  let q := s.seqOf k
  match q.stall with
  | .event _ marks =>
    if (e, (s.evOf e).seen) ∈ marks || q.refused ≠ [] then s else s.setSeq k (seqResume { q with f := setBit q.f 7 false })
  | _ => s

/-- Delivers one event message to the targets of the routing it left with (R517). -/
def State.deliver (s : State) (e : Nat) (route : BitVec 32) (rep : Nat) : State :=
  let s := if route.getLsbD 7 then s.msix (fld route 0 7) else s
  let s := if route.getLsbD 12 then
      s.sendOwn none 4 0 (leBytes 16 (e + 2 ^ 8 * rep + 2 ^ 16 * s.now.toNat))
    else s
  (bitsSet (fld route 13 5) 5).foldl (fun s k => s.wakeSeq e k) s

/-- One occurrence of event `e` (R24, R516). -/
def State.signal (s : State) (e : Nat) : State :=
  let s := { s with evPend := s.evPend ||| (1#128 <<< e) }
  let s := s.bump (rEvCnt e)
  let r := s.evOf e
  match r.flight with
  | some _ => s.setEv e { r with seen := r.seen + 1, rep := if r.rep = 255 then 255 else r.rep + 1 }
  | none =>
    let route := s.reg (rEvRoute e)
    (s.setEv e { r with seen := r.seen + 1, flight := some route }).deliver e route 0

def State.signalAll (s : State) (es : List Nat) : State := es.foldl State.signal s

/-- Level of IRQ_N[n]: low (true here) while an event routed to it has its pending bit set (R517, R518). -/
def State.irqLow (s : State) (n : Nat) : Bool :=
  s.alive && (List.range 128).any fun e => s.evPend.getLsbD e && (s.reg (rEvRoute e)).getLsbD (8 + n)

/-! ## Reading and writing memory (R32, R33, R491-R498) -/

inductive Access where
  | ok (b : Bytes)
  | error
  | poisoned (b : Bytes)
  deriving DecidableEq, Repr

/-- Latches an address register. -/
def State.latchAddr (s : State) (r a : Nat) : State := s.setReg64 r (BitVec.ofNat 64 a)

/-- The addresses whose check a read of `n` bytes at `a` runs: each byte in class C, each line in class D. -/
def checkedUnits (r : MRegion) (a n : Nat) : List Nat :=
  if byteChecked r then (List.range n).map (a + ·)
  else (List.range ((a + n + 63) / 64 - a / 64)).map fun i => 64 * (a / 64 + i)

/-- A corrected byte of class C is counted and its address latched; event 104 at the threshold (R492). -/
def State.corrected (s : State) (u : Nat) : State :=
  let s := (s.bump (cMem 0)).latchAddr rMemCeaddr u
  let thr := fld (s.reg rMemCfg) 0 16
  if thr = 0 then s
  else if s.mem.corrections + 1 ≥ thr then ({ s with mem := { s.mem with corrections := 0 } } : State).signal 104
  else { s with mem := { s.mem with corrections := s.mem.corrections + 1 } }

/-- A poisoned read at `a` is counted, its address latched, event 105 raised (R493). -/
def State.poisonRead (s : State) (a : Nat) : State := ((s.bump (cMem 1)).latchAddr rMemUeaddr a).signal 105

/-- Key of what is wrong with the byte at `a` in the copy that the ASQ's second half holds (R318). -/
def secondCopy (a : Nat) : Nat := a + 0x10000000000

/-- One byte that the ASQ's second half reads from its own copy: a correction is counted, or the half's read is poisoned
(R318, R319, R492). -/
def State.checkCopy (x : State × Bool) (u : Nat) : State × Bool :=
  match x.1.errAt (secondCopy u) with
  | .good => x
  | .correctable => (x.1.corrected u, x.2)
  | .failing => (x.1, true)

/-- A write covers a byte of class C: it is good again, in the ASQ's memories in both copies (R318, R493). -/
def State.mendByte (s : State) (r : MRegion) (u : Nat) : State :=
  (if r = .seqMem 4 then s.setErr (secondCopy u) .good else s).setErr u .good

/-- One checked unit of a read: counts a correction, repairs a mirrored line, or marks the read poisoned. -/
def State.checkUnit (r : MRegion) (x : State × Bool) (u : Nat) : State × Bool :=
  let (s, bad) := x
  match s.errAt u with
  | .good => (s, bad)
  | .correctable =>
    if byteChecked r then (s.corrected u, bad) else (s, bad)
  | .failing =>
    if r = .dram && s.mirrored u && s.errAt (otherStack u) ≠ .failing then
      let s := s.setErr u .good
      let s := s.setBytes u (s.bytesAt (otherStack u) 64)
      ((s.bump (cMem 2)).signal 106, bad)
    else (s, true)

/-- A read of `n` bytes by any initiator, outside window A. -/
def State.memRead (s : State) (a n : Nat) : Access × State :=
  match accessRegion a n with
  | none => (.error, s)
  | some r =>
    if r = .regs || !s.memPowered r || s.memFenced r then (.error, s)
    else if r = .rom then (.ok ((List.range n).map fun i => Config.rom (a + i - 0x3FFFF00000)), s)
    else
      let s := if (s.reg rMemCfg).getLsbD 16 && !((List.range n).all fun i => s.isValid (a + i)) then
          (s.latchAddr rMemZeroaddr a).signal 108 else s
      let (s, bad) := (checkedUnits r a n).foldl (State.checkUnit r) (s, false)
      if bad then (.poisoned (s.bytesAt a n), s.poisonRead a)
      else (.ok (s.bytesAt a n), s)

/-- Whether a write covers the whole unit `u` of class D. -/
def coversLine (a n u : Nat) : Bool := decide (a ≤ u ∧ u + 64 ≤ a + n)

/-- A write of bytes by any initiator whose own rules have let it through: repairs or refuses a failing line, fills,
sets the valid bit and clears the errors it covers (R491, R497, R498). `none` is an error response. -/
def State.memWrite (s : State) (a : Nat) (b : Bytes) : Option State :=
  match accessRegion a b.length with
  | none => none
  | some r =>
    if r = .regs || r = .rom || !s.memPowered r || s.memFenced r then none
    else
      let us := checkedUnits r a b.length
      let stuck := fun u => !byteChecked r && s.errAt u = .failing && !coversLine a b.length u &&
        !(r = .dram && s.mirrored u && s.errAt (otherStack u) ≠ .failing)
      if us.any stuck then none
      else
        let s := us.foldl (fun s u =>
          if byteChecked r then s.mendByte r u
          else if s.errAt u = .failing then (State.checkUnit r (if coversLine a b.length u then s.setErr u .good else s, false) u).1
          else s) s
        let s := (List.range b.length).foldl (fun s i => s.markValid (a + i)) s
        some (s.setBytes a b)

/-- A vector core, and the event that a cause of its own raises (R351). -/
def State.vcOf (s : State) (n : Nat) : VcSt := tget (fun _ => {}) s.vcs n
def State.setVc (s : State) (n : Nat) (x : VcSt) : State := { s with vcs := tput (fun _ => {}) n x s.vcs }

/-- Sets a bit of VCn_EVCAUSE, which raises the core's event (R351). -/
def State.vcCause (s : State) (n bit : Nat) : State :=
  let x := s.vcOf n
  (s.setVc n { x with evcause := setBit x.evcause bit true }).signal (32 + n)

/-- A write the device itself makes into memory (masters, rings, counters); one that cannot be made is lost. -/
def State.putBytes (s : State) (a : Nat) (b : Bytes) : State := (s.memWrite a b).getD s

end Sys2Proof.Machine
end

