-- ==== Sys2Proof/Machine/Grid.lean ====
section
/-! DEFINITION. Carriers, FFT configurations and the slot grid: where symbols and slots begin (R73-R75, R343). -/

namespace Sys2Proof.Machine
open Sys2Proof

def State.fftOf (s : State) (d : Dir) (c : Nat) : FftSt := tget (fun _ => {}) s.ffts (4 * dirNum d + c)
def State.setFft (s : State) (d : Dir) (c : Nat) (x : FftSt) : State :=
  { s with ffts := tput (fun _ => {}) (4 * dirNum d + c) x s.ffts }
def State.carOf (s : State) (t : Nat) (d : Dir) (c : Nat) : CarSt := tget (fun _ => {}) s.cars (8 * t + 4 * dirNum d + c)
def State.setCar (s : State) (t : Nat) (d : Dir) (c : Nat) (x : CarSt) : State :=
  { s with cars := tput (fun _ => {}) (8 * t + 4 * dirNum d + c) x s.cars }
def State.islCar (s : State) (d : Dir) (c : Nat) : CarSt := tget (fun _ => {}) s.islCars (4 * dirNum d + c)
def State.setIslCar (s : State) (d : Dir) (c : Nat) (x : CarSt) : State :=
  { s with islCars := tput (fun _ => {}) (4 * dirNum d + c) x s.islCars }
def State.wolaOf (s : State) (c : Nat) : WolaSt := tget (fun _ => {}) s.wolas c
def State.cfrOf (s : State) (t : Nat) : CfrSt := tget (fun _ => {}) s.cfrs t
/-- Digital gain of a path and carrier (R89, R161); 0x4000 until a GAIN item sets it (log entry 4). -/
def gainKey (d : Dir) (p c : Nat) : Nat := 256 * dirNum d + 4 * p + c
def State.gainOf (s : State) (d : Dir) (p c : Nat) : BitVec 16 := tget (fun _ => 0x4000) s.gains (gainKey d p c)
def State.setGain (s : State) (d : Dir) (p c : Nat) (g : BitVec 16) : State :=
  { s with gains := tput (fun _ => 0x4000) (gainKey d p c) g s.gains }

/-! ## FFT_CFG payload (R342) -/

def fftDir (b : Bytes) : Dir := dirOf (pbits b 0 1)
def fftN (b : Bytes) : Nat := 2 ^ pbits b 1 4
def fftPrefix (b : Bytes) : Nat := pbits b 5 2
def fftScale (b : Bytes) : Nat := pbits b 7 4
def fftD (b : Bytes) : Nat := pbits b 11 13
def fftP (b : Bytes) (i : Nat) : Nat := pbits b (64 + 16 * i) 13

/-- Interpolation ratio R (R73); 0 for a combination the table does not list. -/
def ratioR (n mu : Nat) : Nat :=
  if 131072 % (n * 2 ^ mu) = 0 ∧ 131072 / (n * 2 ^ mu) ≤ 64 then 131072 / (n * 2 ^ mu) else 0

/-- Spans of programmable symbols 0 to 13 (R75). -/
def progSpans (b : Bytes) (mu : Nat) : List Nat :=
  (List.range 14).map fun i => (fftN b + fftP b i) * (2 * ratioR (fftN b) mu)

/-- The smallest n for which the first n spans fill a slot (R75). -/
def progCount (b : Bytes) (mu : Nat) : Option Nat :=
  (List.range 14).findSome? fun i =>
    if ((progSpans b mu).take (i + 1)).sum = 3932160 / 2 ^ mu then some (i + 1) else none

/-- R73 and R75: the combination is listed, and a programmable prefix fills a slot. -/
def fftAccepted (b : Bytes) (mu : Nat) : Bool :=
  ratioR (fftN b) mu ≠ 0 &&
  (fftPrefix b ≠ 2 || match progCount b mu with
    | some n => (List.range n).all fun i => fftP b i ≤ fftN b / 4
    | none => false)

/-- Symbols in a slot (R75). -/
def symsPerSlot (b : Bytes) (mu : Nat) : Nat :=
  match fftPrefix b with
  | 1 => 12
  | 2 => (progCount b mu).getD 14
  | _ => 14

/-- Spans of the symbols of one period of the grid: a half-subframe (a slot at numerology 0) with normal prefix, a slot
otherwise. The longer symbol of a half-subframe comes first in it (R75). -/
def gridSpans (b : Bytes) (mu : Nat) : List Nat :=
  match fftPrefix b with
  | 1 => List.replicate 12 (327680 / 2 ^ mu)
  | 2 => (progSpans b mu).take ((progCount b mu).getD 14)
  | _ =>
    let half := (tsym mu + 2048) :: List.replicate (7 * 2 ^ mu - 1) (tsym mu)
    if mu = 0 then half ++ half else half

/-- Walks a period: the number of the symbol that holds tick `r` of it, its start and its span. -/
def walkSpans : List Nat → Nat → Nat → Nat → Nat × Nat × Nat
  | [], i, start, _ => (i, start, 0)
  | x :: xs, i, start, r => if r < start + x then (i, start, x) else walkSpans xs (i + 1) (start + x) r

structure SymPos where
  /-- symbol number in its slot -/
  sym   : Nat
  start : Int
  span  : Nat
  deriving DecidableEq, Repr

/-- The symbol that holds full tick `t` on the grid of an FFT configuration. -/
def FftSt.symbolAt (x : FftSt) (t : Int) : Option SymPos :=
  match x.cfg with
  | none => none
  | some b =>
    let spans := gridSpans b x.mu
    let period := spans.sum
    if period = 0 then none
    else
      let r := (t - x.origin) % (period : Int)
      let (i, start, span) := walkSpans spans 0 0 r.toNat
      some ⟨i % symsPerSlot b x.mu, t - r + start, span⟩

/-- Full tick `t` is the start of a symbol. -/
def FftSt.isSymStart (x : FftSt) (t : Int) : Bool :=
  match x.symbolAt t with
  | some p => p.start = t
  | none => false

/-- Full tick `t` is the start of a slot. -/
def FftSt.isSlotStart (x : FftSt) (t : Int) : Bool :=
  match x.symbolAt t with
  | some p => p.start = t && p.sym = 0
  | none => false

/-- The first symbol start at or after `t`; `t` itself where there is no grid. -/
def FftSt.nextSym (x : FftSt) (t : Int) : Int :=
  match x.symbolAt t with
  | some p => if p.start = t then t else p.start + p.span
  | none => t

/-- The first slot start at or after `t`, within the symbols of one slot. -/
def FftSt.nextSlot (x : FftSt) (t : Int) : Int :=
  (List.range 15).foldl (fun a _ => if x.isSlotStart a then a else x.nextSym (a + 1)) (x.nextSym t)

/-- The starts of the symbols that a span of ticks touches, at most `n`. -/
def FftSt.symsIn (x : FftSt) (lo hi : Int) : Nat → List Int
  | 0 => []
  | n + 1 =>
    match x.symbolAt lo with
    | none => []
    | some p => if lo < hi then p.start :: FftSt.symsIn x (p.start + p.span) hi n else []

/-- Ticks of one carrier sample (R73). -/
def FftSt.tk (x : FftSt) : Nat :=
  match x.cfg with
  | some b => 2 * ratioR (fftN b) x.mu
  | none => 0

/-- Prefix length, in samples, of a symbol of the given span (R75). -/
def prefixOf (b : Bytes) (mu span : Nat) : Nat := span / (2 * ratioR (fftN b) mu) - fftN b

/-- Prefix length of the symbol that holds full tick `t`. -/
def FftSt.prefixAt (x : FftSt) (t : Int) : Nat :=
  match x.cfg, x.symbolAt t with
  | some b, some p => prefixOf b x.mu p.span
  | _, _ => 0

/-! ## What is in effect at a tick -/

/-- The settings that stood at a past tick; none for the present and the future. -/
def State.histAt (s : State) (t : Int) : Option Settings :=
  if (s.now.toNat : Int) ≤ t then none
  else some (match s.chain.hist.find? fun x => decide ((x.1 : Int) ≤ t) with
    | some x => x.2
    | none => {})

/-- The clock at a past tick, as long as the counter has not been stepped since. -/
def State.clockAt (s : State) (t : Int) : Nat := ((s.clock : Int) - ((s.now.toNat : Int) - t)).toNat

/-- A grid after an FFT_CFG that acts at tick `t`: one for a carrier that is on waits for the start of a slot (R343). -/
def FftSt.after (x : FftSt) (on : Bool) (b : Bytes) (mu : Nat) (t : Int) : FftSt where
  cfg := some b
  mu := mu
  origin := (if on && x.cfg.isSome && !x.isSlotStart t then x.nextSlot t else t).toNat

/-- The FFT_CFG in effect for a carrier at tick `t`: the queued ones that act by then included. -/
def State.fftAt (s : State) (d : Dir) (c : Nat) (t : Int) : FftSt :=
  match s.histAt t with
  | some h => tget (fun _ => {}) h.ffts (4 * dirNum d + c)
  | none =>
    (s.queue.filter fun x => x.port = .fft && x.item.tag.kind = 0x13 && decide (fftDir x.item.body = d) &&
        x.item.tag.carrier.toNat = c).foldl (fun f x =>
      let g := f.after (s.islCar d c).on x.item.body x.item.tag.mu.toNat (fullTick x.act s.now)
      if (g.origin : Int) ≤ t then g else f) (s.fftOf d c)

/-- The symbol of a carrier that holds tick `t`, on the grid in effect there. -/
def State.symAt (s : State) (d : Dir) (c : Nat) (t : Int) : Option SymPos := (s.fftAt d c t).symbolAt t

/-- Tsym of R46 for a carrier and numerology: the span of the symbol that holds the air time, the normal figure where the
carrier has no such grid. -/
def State.tsymOf (s : State) (d : Dir) (c mu : Nat) (a : Air) : Nat :=
  let x := s.fftAt d c (fullTick a s.now)
  match x.symbolAt (fullTick a s.now) with
  | some p => if x.mu = mu then p.span else tsym mu
  | none => tsym mu

/-- The overlap window in effect for a transmit carrier at tick `t`: queued WOLA items that act by then included (R88). -/
def State.wolaAt (s : State) (c : Nat) (t : Int) : WolaSt :=
  match s.histAt t with
  | some h => tget (fun _ => {}) h.wolas c
  | none =>
    (s.queue.filter fun x => x.port = .wola && x.item.tag.kind = 0x14 && x.item.tag.carrier.toNat = c &&
        decide (fullTick x.act s.now ≤ t)).foldl (fun _ x => ⟨pbits x.item.body 0 9, pbit x.item.body 9⟩) (s.wolaOf c)

/-- The tail of the symbol that starts at tick `t`, in samples: W of the window in effect for it, at most the prefix of the
next symbol (R88). -/
def State.tailOf (s : State) (c : Nat) (t : Int) : Nat :=
  match s.symAt .tx c t with
  | some p => min (s.wolaAt c t).w ((s.fftAt .tx c (t + p.span)).prefixAt (t + p.span))
  | none => 0

/-! ## Carriers in effect (R93, R341, R343) -/

def carDir (b : Bytes) : Dir := dirOf (pbits b 0 1)
def carAction (b : Bytes) : Nat := pbits b 1 2

/-- A carrier context as a CARRIER item sets it at tick `t`; `warm` is the length of its WARMUP span. -/
def carSet (b : Bytes) (t warm : Nat) : CarSt where
  on     := true
  tdmode := pbit b 3
  phcomp := pbit b 4
  nrb    := pbits b 5 11
  rbglog := pbits b 16 3
  lmax   := pbits b 19 6
  tdblk  := pbits b 25 13
  freq   := BitVec.ofNat 48 (pbits b 64 48)
  since  := t
  warmTo := t + warm

/-- A carrier context after a CARRIER item that acts at tick `t`. -/
def CarSt.after (x : CarSt) (b : Bytes) (t : Nat) : CarSt :=
  if carAction b = 1 then (if x.on then { x with on := false, since := t } else x) else carSet b t 0

/-- Queued CARRIER items of a carrier that act by tick `t`. -/
def State.carItems (s : State) (d : Dir) (c : Nat) (t : Int) : List QItem :=
  s.queue.filter fun x => x.port = .flt && x.item.tag.kind = 0x15 && decide (carDir x.item.body = d) &&
    x.item.tag.carrier.toNat = c && decide (fullTick x.act s.now ≤ t)

/-- A tile's carrier context at tick `t`, queued items included. -/
def State.carAt (s : State) (tile : Nat) (d : Dir) (c : Nat) (t : Int) : CarSt :=
  match s.histAt t with
  | some h => tget (fun _ => {}) h.cars (8 * tile + 4 * dirNum d + c)
  | none => ((s.carItems d c t).filter fun x => x.tile = tile).foldl
      (fun v x => v.after x.item.body (fullTick x.act s.now).toNat) (s.carOf tile d c)

/-- The island's copy of a carrier context at tick `t` (R341). -/
def State.islCarAt (s : State) (d : Dir) (c : Nat) (t : Int) : CarSt :=
  match s.histAt t with
  | some h => tget (fun _ => {}) h.islCars (4 * dirNum d + c)
  | none => (s.carItems d c t).foldl (fun v x => v.after x.item.body (fullTick x.act s.now).toNat) (s.islCar d c)

/-- The first symbol start of a carrier at or after tick `t`, on the grid in effect there. -/
def State.nextSymAt (s : State) (d : Dir) (c : Nat) (t : Int) : Int := (s.fftAt d c t).nextSym t

/-- A transmit carrier is on at the tile. -/
def State.lowestTxCar (s : State) (t : Nat) : Option Nat := [0, 1, 2, 3].find? fun c => (s.carOf t .tx c).on

/-- The 40-bit air time of a full tick. -/
def airOf (t : Int) : Air := BitVec.ofInt 40 t

end Sys2Proof.Machine
end

