-- ==== Sys2Proof/Machine/Items.lean ====
section
/-! DEFINITION. What every stage does with an arriving item, whatever its kind: the tag check, the early bound, squash and
STOP discards, the payload check, lateness, and the stage's queue (R37-R71, R342-R345, R612-R615). -/

namespace Sys2Proof.Machine
open Sys2Proof

/-! ## Kinds, sources and streams (R40, R41) -/

def kFdData : BitVec 6 := 0x01
def kTdData : BitVec 6 := 0x02
def kSection : BitVec 6 := 0x03
def kUlData : BitVec 6 := 0x04
def kUlPartial : BitVec 6 := 0x05
def kRxTd : BitVec 6 := 0x06
def kSrs : BitVec 6 := 0x07
def kObsData : BitVec 6 := 0x08
def kBeamSel : BitVec 6 := 0x10
def kBeamCommit : BitVec 6 := 0x11
def kEngineCommit : BitVec 6 := 0x12
def kFftCfg : BitVec 6 := 0x13
def kWola : BitVec 6 := 0x14
def kCarrier : BitVec 6 := 0x15
def kFltSwap : BitVec 6 := 0x16
def kCfrCfg : BitVec 6 := 0x17
def kDpdSwap : BitVec 6 := 0x18
def kSicCtl : BitVec 6 := 0x19
def kGain : BitVec 6 := 0x1A
def kDcFreeze : BitVec 6 := 0x1B
def kFeCtl : BitVec 6 := 0x1C
def kLoCtl : BitVec 6 := 0x1D
def kPwrCtl : BitVec 6 := 0x1E
def kCapCtl : BitVec 6 := 0x1F
def kMarker : BitVec 6 := 0x20
def kStop : BitVec 6 := 0x21
def kSquash : BitVec 6 := 0x22
def kCoef : BitVec 6 := 0x23
def kSyncReset : BitVec 6 := 0x24

/-- The SOURCE values that may issue a kind; none for an invalid code (R40). -/
def kindSources (k : BitVec 6) : List Nat :=
  match k.toNat with
  | 0x01 | 0x02 | 0x03 => [8, 11]
  | 0x04 | 0x06 | 0x07 | 0x08 => [6]
  | 0x05 => [9]
  | 0x10 | 0x13 | 0x14 => [4]
  | 0x11 => [4, 12, 13]
  | 0x12 => [5]
  | 0x15 | 0x16 | 0x17 | 0x18 | 0x19 | 0x1A | 0x1B | 0x1C => [0, 1, 2, 3]
  | 0x1D | 0x24 => [0, 1, 2, 3, 13]
  | 0x1E | 0x21 => [0, 1, 2, 3, 4, 13]
  | 0x1F => [0, 1, 2, 3, 4, 12, 13]
  | 0x20 => [0, 1, 2, 3, 4, 8, 12, 13]
  | 0x22 => [0, 1, 2, 3, 4]
  | 0x23 => [0, 1, 2, 3, 4, 11, 13]
  | _ => []

/-- The STREAM range of a SOURCE, low and high; empty for a SOURCE that R41 marks invalid. -/
def streamRange (src : Nat) : Nat × Nat :=
  match src with
  | 0 | 1 | 2 | 3 => (32 * src, 32 * src + 31)
  | 4 => (128, 159)
  | 5 => (160, 167)
  | 6 => (168, 191)
  | 8 | 9 => (192, 223)
  | 11 => (224, 239)
  | 12 => (240, 247)
  | 13 => (248, 255)
  | _ => (1, 0)

def streamOk (src st : Nat) : Bool := (streamRange src).1 ≤ st && st ≤ (streamRange src).2

/-- Kinds whose tag uses CARRIER, BANK, DPDSET, SYMBOL, MU (R37, R342). -/
def usesCarrier (k : BitVec 6) : Bool := k.toNat < 0x10 || k ∈ [kBeamSel, kBeamCommit, kEngineCommit, kFftCfg, kWola, kCarrier, kGain]
def usesBank (k : BitVec 6) : Bool := k.toNat < 0x10 || k ∈ [kBeamCommit, kEngineCommit, kFltSwap, kDpdSwap, kSicCtl]
def usesDpdset (k : BitVec 6) : Bool := k.toNat < 0x10 || k = kDpdSwap
def usesSymbol (k : BitVec 6) : Bool := k.toNat < 0x10 || k = kBeamSel
def usesMu (k : BitVec 6) : Bool := k.toNat < 0x10 || k ∈ [kBeamSel, kBeamCommit, kEngineCommit, kFftCfg]

/-- The tag check every stage makes on arrival (R39). -/
def tagCheck (t : Tag) : Bool :=
  t.chk = tagChk t && t.source.toNat ∈ kindSources t.kind && streamOk t.source.toNat t.stream.toNat &&
  (!usesMu t.kind || t.mu.toNat ≤ 4) && (!usesSymbol t.kind || t.symbol.toNat ≤ 13)

/-! ## Domains and their counters (R612) -/

/-- Stages on these ports count in their tile's registers. -/
def tilePort : Port → Bool
  | .cfr | .dpd | .flt | .sic | .fe | .lo => true
  | _ => false

/-- The tile under which a stage is kept: its tile for a stage of a tile, 0 for a central one. -/
def portTile (p : Port) (t : Nat) : Nat := if tilePort p then t else 0

inductive DomCnt where
  | tagerr
  | latecnt
  | cfgerr
  | discard
  | conflict
  deriving DecidableEq, Repr

def domCounter (p : Port) (t : Nat) (c : DomCnt) : Nat :=
  if tilePort p then
    match c with
    | .tagerr => cTile t 0
    | .latecnt => cTile t 2
    | .cfgerr => cTile t 3
    | .discard => cTile t 19
    | .conflict => cTile t 20
  else
    match c with
    | .tagerr => cBeam 0
    | .latecnt => cBeam 1
    | .cfgerr => cBeam 8
    | .discard => cBeam 15
    | .conflict => cBeam 5

/-- The one event of a failed tag check (R39). -/
def tagFailEvents (p : Port) (t src : Nat) : List Nat :=
  if src ∈ [7, 8, 9, 10, 14, 15] then [68]
  else if tilePort p then [4 * t + 3] else [3, 7, 11, 15]

/-- Counts a refusal of R342 in its port's counter. -/
def refusalCounter (p : Port) (t : Nat) : Nat :=
  match p with
  | .bf | .fft | .wola => cBeam 2
  | .pwr => cPwr 0
  | .cap => cMem 4
  | .lnk => cBeam 8
  | _ => cTile t 3

/-! ## The network (R301, R338) -/

/-- The first item in the network that an issuer sent to a stage. -/
def netFirst (p : Port) (t issuer : Nat) (net : List NetItem) : Option NetItem :=
  net.find? fun m => m.port = p && m.tile = t && m.issuer = issuer

/-- An earlier item of the same issuer to the same stage is still in the network ahead of the item: they arrive in order of issue,
whatever their streams (R22, R303, R308). -/
def netBehind (p : Port) (t : Nat) (it : Item) (net : List NetItem) : Bool :=
  match net.find? fun n => n.port = p && n.tile = t && n.item = it with
  | some n =>
    match netFirst p t n.issuer net with
    | some m => m.item ≠ it
    | none => false
  | none => false

/-- Removes the item's own entry from the network: the stage has taken it and the issuer's credit returns (R301). The
address of the instruction that issued it comes with it. -/
def takeNet (p : Port) (t : Nat) (it : Item) : List NetItem → List NetItem × BitVec 19
  | [] => ([], 0)
  | n :: ns =>
    if n.port = p ∧ n.tile = t ∧ n.item = it then (ns, n.pc)
    else let (r, pc) := takeNet p t it ns; (n :: r, pc)

/-- Adds to the repeat count of an event whose message is in flight, and changes nothing else (R24, R338). -/
def State.repeatOnly (s : State) (e : Nat) : State :=
  let r := s.evOf e
  match r.flight with
  | some _ => s.setEv e { r with rep := if r.rep = 255 then 255 else r.rep + 1 }
  | none => s

/-- A refusal that is a program fault of the issuer reaches its sequencer; at a stopped or faulted one it changes the event's
repeat count alone (R338). -/
def State.refuseSeq (s : State) (src : BitVec 4) (pc : BitVec 19) : State :=
  if src.toNat ≤ 4 then
    let q := s.seqOf src.toNat
    if q.state = .stopped || q.state = .faulted then s.repeatOnly (16 + src.toNat)
    else s.setSeq src.toNat { q with refused := q.refused ++ [pc] }
  else s

/-! ## Payload form (R77, R342, R344, R345) -/

/-- Every payload bit outside the named fields is zero. -/
def onlyBits (b : Bytes) (fields : List (Nat × Nat)) : Bool :=
  leNat b = (fields.map fun f => pbits b f.1 f.2 * 2 ^ f.1).sum

/-- Weight groups of a section record (R77). -/
def recG (r : BitVec 128) (rbglog : Nat) : Nat := ceilDiv (fld r 43 11) (2 ^ rbglog * (fld r 54 4 + 1))

/-- Bytes of a record's beam list, as BEAMSEL computes them (R333). -/
def listBytes (r : BitVec 128) (rbglog : Nat) : Nat :=
  if (r.getLsbD 28) then 0 else 4 * ceilDiv (recG r rbglog * fld r 22 6) 2

/-- The record obeys R77, for a carrier with `nrb` RBs and RBGs of 2^rbglog. -/
def recordOk (r : BitVec 128) (nrb rbglog : Nat) : Bool :=
  1 ≤ fld r 18 4 && fld r 14 4 ≤ 13 && fld r 14 4 + fld r 18 4 ≤ 14 &&
  1 ≤ fld r 22 6 && fld r 22 6 ≤ 32 &&
  (!r.getLsbD 28 || fld r 22 6 = 1 && !r.getLsbD 30) && !r.getLsbD 31 &&
  fld r 32 11 % 2 ^ rbglog = 0 && 1 ≤ fld r 43 11 && fld r 32 11 + fld r 43 11 ≤ nrb &&
  (!r.getLsbD 58 || 6 ≤ fld r 59 5 && fld r 59 5 ≤ 16) && fld r 67 61 = 0

/-- The G × L entries of a beam list, bits [15:13] zero in each, and its padding zero (R77). -/
def listOk (r : BitVec 128) (rbglog : Nat) (l : Bytes) : Bool :=
  r.getLsbD 28 || listBytes r rbglog ≤ l.length &&
  ((List.range (recG r rbglog * fld r 22 6)).all fun i => pbits l (16 * i + 13) 3 = 0) &&
  ((l.take (listBytes r rbglog)).drop (2 * (recG r rbglog * fld r 22 6))).all (· = 0)

def sectionRecord (b : Bytes) : BitVec 128 := BitVec.ofNat 128 (leNat (b.take 16))

/-- Record size and port of a COEF target (R345). -/
def coefSize : Nat → Nat
  | 0 => 656
  | 1 | 2 => 48
  | 3 => 2080
  | 4 => 208
  | 5 => 1040
  | _ => 0

def coefPort : Nat → Option Port
  | 0 | 1 => some .dpd
  | 2 | 4 => some .flt
  | 3 => some .sic
  | 5 => some .cfr
  | _ => none

/-- STOP function codes a port serves (R344). -/
def portFns (p : Port) (src : Nat) : List Nat :=
  match p with
  | .bf => [1, 2, 3, 4]
  | .fft => [5]
  | .wola => [6]
  | .cfr => [7]
  | .dpd => [8]
  | .flt => [9, 10, 11, 12, 13, 14]
  | .sic => [15]
  | .fe => if src = 4 then [16] else [16, 17, 18]
  | .pwr => if src ≤ 3 then [] else [17, 18]
  | .cap => [19]
  | .lnk => [20, 21]
  | .lo => []

/-- Kinds the stage on a port takes (R339, R339's two columns together, and ENGINE_COMMIT, the data kinds and SECTION). -/
def portKinds : Port → List (BitVec 6)
  | .bf => [kBeamSel, kBeamCommit, kEngineCommit, kStop, kMarker, kFdData]
  | .fft => [kFftCfg, kStop, kMarker]
  | .wola => [kWola, kGain, kStop, kMarker]
  | .cfr => [kCfrCfg, kCoef, kStop, kMarker]
  | .dpd => [kDpdSwap, kCoef, kStop, kMarker]
  | .flt => [kCarrier, kFltSwap, kGain, kDcFreeze, kSyncReset, kCoef, kStop, kMarker, kTdData]
  | .sic => [kSicCtl, kCoef, kStop, kMarker]
  | .fe => [kFeCtl, kStop, kMarker]
  | .lo => [kLoCtl, kStop, kMarker]
  | .pwr => [kPwrCtl, kStop, kMarker]
  | .cap => [kCapCtl, kStop, kMarker]
  | .lnk => [kStop, kMarker, kSection, kUlPartial]

/-- Fields, length and reserved bits of a control item's payload (R342, R344, R345), for an item at a port. `nrb` and
`rbglog` are the carrier's. -/
def payloadForm (p : Port) (it : Item) (nrb rbglog : Nat) : Bool :=
  let b := it.body
  let t := it.tag
  let src := t.source.toNat
  let mgmt := src = 13
  let sized := fun n => b.length = n && t.length.toNat = n
  match t.kind.toNat with
  | 0x10 =>
    if pbits b 0 2 = 0 then
      let r := sectionRecord (b.drop 8)
      sized (24 + listBytes r rbglog) && onlyBits (b.take 8) [(0, 2)] && fld r 18 4 = 1 &&
      fld r 14 4 = t.symbol.toNat && fld r 12 2 = t.carrier.toNat && recordOk r nrb rbglog && listOk r rbglog (b.drop 24)
    else
      pbits b 0 2 = 1 && sized 24 && pbits b 79 2 ≠ 3 &&
      onlyBits b [(0, 2), (64, 4), (68, 2), (70, 3), (73, 1), (74, 5), (79, 2), (81, 11), (92, 11), (128, 64)]
  | 0x11 => sized 8 && onlyBits b [(0, 2), (2, 1)] && pbits b 0 2 ≠ 0 && (!pbit b 2 || mgmt)
  | 0x13 =>
    sized (if pbits b 5 2 = 2 then 36 else 8) && pbits b 5 2 ≠ 3 && 9 ≤ pbits b 1 4 && pbits b 1 4 ≤ 14 &&
    onlyBits (b.take 8) [(0, 1), (1, 4), (5, 2), (7, 4), (11, 13)] &&
    (pbits b 5 2 ≠ 2 || (List.range 14).all fun i => pbits b (64 + 16 * i + 13) 3 = 0)
  | 0x14 => sized 8 && onlyBits b [(0, 9), (9, 1)] && pbits b 0 9 ≤ 256
  | 0x15 =>
    sized 16 && onlyBits b [(0, 1), (1, 2), (3, 1), (4, 1), (5, 11), (16, 3), (19, 6), (25, 13), (64, 48)] &&
    pbits b 1 2 ≠ 3 && pbits b 16 3 ≤ 4 && 1 ≤ pbits b 19 6 && pbits b 19 6 ≤ 32 &&
    (!pbit b 3 || 64 ≤ pbits b 25 13 && pbits b 25 13 ≤ 4096)
  | 0x16 => sized 8 && onlyBits b [(0, 2), (2, 2), (4, 4), (16, 16)] && pbits b 0 2 ≠ 3 && pbits b 4 4 ≤ 12
  | 0x17 =>
    sized 8 && onlyBits b [(0, 2), (2, 5), (7, 1), (8, 4), (16, 16)] && pbits b 0 2 ≠ 3 && pbits b 2 5 ≤ 25
  | 0x18 => sized 8 && onlyBits b [(0, 16), (16, 1), (17, 4)] && pbits b 17 4 ≤ 12
  | 0x19 => sized 8 && onlyBits b [(0, 16), (16, 2), (18, 4)] && pbits b 18 4 ≤ 12
  | 0x1A =>
    sized 8 && onlyBits b [(0, 16), (16, 1), (17, 1), (18, 1), (19, 3), (32, 16)] &&
    (pbit b 17 || pbit b 18) && (!pbit b 18 || pbit b 16) &&
    (p ≠ .wola || !pbit b 16 && pbit b 17 && !pbit b 18) && (p ≠ .flt || pbit b 16)
  | 0x1B => sized 8 && onlyBits b [(0, 17)]
  | 0x1C =>
    sized 16 && onlyBits b [(0, 13), (16, 1), (17, 9), (26, 4), (32, 16), (64, 16), (80, 6), (96, 16)] &&
    !(pbit b 4 && pbit b 5) && !(pbit b 8 && pbit b 9)
  | 0x1D =>
    sized 16 && onlyBits b [(0, 2), (2, 1), (3, 2), (5, 1), (6, 2), (8, 10), (18, 6), (64, 40)] &&
    pbits b 0 2 ≠ 3 && (pbits b 0 2 ≠ 2 || pbits b 3 2 ≠ 0) && (mgmt || pbits b 6 2 = 0)
  | 0x1E => sized 16 && onlyBits b [(0, 3), (3, 1), (4, 4), (64, 56)] && pbits b 0 3 ≤ 3
  | 0x1F => sized 16 && onlyBits b [(0, 2), (2, 4), (6, 8), (64, 40)]
  | 0x20 => b.length = t.length.toNat && t.length.toNat ≤ 4096
  | 0x21 =>
    let fs := bitsSet (pbits b 32 32) 32
    let path := fs.any fun f => f = 17 || f = 18
    sized 16 && onlyBits b [(0, 1), (1, 1), (32, 32), (64, 64)] && !fs.isEmpty &&
    (fs.all fun f => f ∈ portFns p src) && (path || pbits b 64 64 = 0) &&
    (src > 3 || !path || (bitsSet (pbits b 64 64) 64).all fun q => tileOfPath q = src)
  | 0x22 => sized 0
  | 0x23 =>
    let tg := pbits b 0 4
    sized (8 + coefSize tg) && coefPort tg = some p && onlyBits (b.take 8) [(0, 18)] &&
    (tg > 3 || src > 3 || tileOfPath (pbits b 4 6) = src) && (tg ≤ 3 || pbits b 4 6 = 0) &&
    (tg = 0 || pbits b 10 4 = 0) && (tg = 4 || pbits b 15 3 = 0)
  | 0x24 => sized 8 && onlyBits b [(0, 1), (1, 1), (2, 4), (6, 1), (8, 4)] && (mgmt || pbits b 8 4 = 0)
  | _ => true

/-- Tag fields that the kind does not use are zero (R37). -/
def tagFieldsOk (t : Tag) : Bool :=
  t.rsvd = 0 && (t.kind = kFdData || t.beamref = 0) && (usesCarrier t.kind || t.carrier = 0) &&
  (usesBank t.kind || t.bank = 0) && (usesDpdset t.kind || t.dpdset = 0) && (usesSymbol t.kind || t.symbol = 0) &&
  (usesMu t.kind || t.mu = 0)

/-! ## Lateness (R46, R613, R615) -/

/-- The quads of a tile that an FE_CTL names. -/
def feQuads (t : Nat) (b : Bytes) : List Nat := (bitsSet (pbits b 0 4) 4).map (4 * t + ·)

def State.txAdv (s : State) (q : Nat) : Nat := fld (s.reg (rFeAdv q)) 0 12
def State.rxAdv (s : State) (q : Nat) : Nat := fld (s.reg (rFeAdv q)) 16 12
def tileQuads (t : Nat) : List Nat := [4 * t, 4 * t + 1, 4 * t + 2, 4 * t + 3]
def maxOf (l : List Nat) : Nat := l.foldl max 0

/-- The largest TXADV of a tile (R615). -/
def State.tileTxAdv (s : State) (t : Nat) : Nat := maxOf ((tileQuads t).map s.txAdv)

/-- The FE advance of an FE_CTL item: the largest TXADV or RXADV among the quads it names, by the direction of its
actions (R615). -/
def State.feAdvance (s : State) (t : Nat) (b : Bytes) : Nat :=
  let qs := feQuads t b
  if qs.isEmpty then s.tileTxAdv t
  else
    let rxAct := pbit b 4 || pbit b 5 || pbit b 10
    let txAct := !rxAct || pbit b 8 || pbit b 9 || pbit b 11 || pbit b 12
    max (if txAct then maxOf (qs.map s.txAdv) else 0) (if rxAct then maxOf (qs.map s.rxAdv) else 0)

/-- A and B of R46 for a port and direction. -/
def leadRow (p : Port) (d : Dir) : Nat × Nat :=
  match p, d with
  | .bf, .tx => (131072, 1)
  | .bf, .rx => (8192, 0)
  | .fft, .tx => (98304, 1)
  | .fft, .rx => (8192, 0)
  | .wola, _ => (65536, 0)
  | .flt, .tx => (32768, 0)
  | .flt, .rx => (16384, 0)
  | .cfr, _ => (16384, 0)
  | .dpd, _ => (12288, 0)
  | .sic, _ => (12288, 0)
  | .fe, _ => (8192, 0)
  | .lo, _ => (16384, 0)
  | .pwr, _ => (8192, 0)
  | .cap, _ => (4096, 0)
  | .lnk, _ => (8192, 0)

/-- An FE_CTL that switches receive enables or couplings alone acts in the receive direction (R51, R615). -/
def feRxOnly (b : Bytes) : Bool :=
  (pbit b 4 || pbit b 5 || pbit b 10) && !(pbit b 8 || pbit b 9 || pbit b 11 || pbit b 12)

/-- The direction an item acts in. A STOP, a SQUASH and a MARKER have none: at a port that serves both directions they are
judged by the transmit figure (DESIGN CHOICE, log entry 41). -/
def itemDir (p : Port) (it : Item) : Dir :=
  let b := it.body
  match it.tag.kind.toNat with
  | 0x04 | 0x05 | 0x06 | 0x07 | 0x08 | 0x19 | 0x1B => .rx
  | 0x10 => if pbits b 0 2 = 0 then dirOf (pbits b (64 + 30) 1) else .rx
  | 0x11 => if pbit b 0 then .tx else .rx
  | 0x12 => if pbit b 0 then .tx else .rx
  | 0x13 | 0x15 => dirOf (pbits b 0 1)
  | 0x16 => if pbits b 0 2 = 0 then .tx else .rx
  | 0x1A => dirOf (pbits b 16 1)
  | 0x1C => if feRxOnly b then .rx else .tx
  | 0x23 => if pbits b 0 4 = 2 ∨ pbits b 0 4 = 3 then .rx else if pbits b 0 4 = 4 then dirOf (pbits b 15 1) else .tx
  | _ => if p = .sic ∨ p = .lnk then .rx else .tx

/-- The carrier an item names (R50). -/
def itemCar (it : Item) : Nat :=
  if it.tag.kind = kFltSwap then pbits it.body 2 2 else it.tag.carrier.toNat

/-- Kinds judged for each transmit carrier at a stage with a non-zero B (R613). -/
def noMu (k : BitVec 6) : Bool := !usesMu k

/-- The minimum lead of an item at a stage (R46), for transmit carrier `c` where R613 asks for one. The own symbol of an
FFT_CFG is the first of the grid it brings. -/
def State.minLeadFor (s : State) (p : Port) (t : Nat) (it : Item) (c : Nat) : Nat :=
  let d := itemDir p it
  let (a, bq) := leadRow p d
  let adv := if p = .fe then (if it.tag.kind = kFeCtl then s.feAdvance t it.body else s.tileTxAdv t) else 0
  if bq = 0 then a + adv
  else if noMu it.tag.kind then a + bq * s.tsymOf .tx c (s.fftAt .tx c (fullTick it.tag.air s.now)).mu it.tag.air
  else if it.tag.kind = kFftCfg then a + bq * (gridSpans it.body it.tag.mu.toNat).headD (tsym it.tag.mu.toNat)
  else a + bq * s.tsymOf d (itemCar it) it.tag.mu.toNat it.tag.air

/-- The transmit carriers an item without MU is judged for (R613), else the one it names. -/
def judgedCars (p : Port) (it : Item) : List Nat :=
  if (leadRow p (itemDir p it)).2 ≠ 0 && noMu it.tag.kind then [0, 1, 2, 3] else [itemCar it]

/-- The largest minimum lead among the carriers for which the item is LATE; none when it is not LATE (R46, R613). -/
def State.lateBy (s : State) (p : Port) (t : Nat) (it : Item) : Option Nat :=
  let ls : List Nat := ((judgedCars p it).map (s.minLeadFor p t it)).filter fun (m : Nat) => decide (lead it.tag.air s.now < (m : Int))
  if ls.isEmpty then none else some (maxOf ls)

/-! ## The queue (R56) -/

/-- Inserts a queued item behind every item that does not act later (R56: AIRTIME order, ties in order of arrival). -/
def insertItem (x : QItem) : List QItem → List QItem
  | [] => [x]
  | y :: ys => if airDiff y.act x.act > 0 then x :: y :: ys else y :: insertItem x ys

def State.enqueue (s : State) (x : QItem) : State := { s with queue := insertItem x s.queue }

/-! ## STOP functions over items (R68, R71, R614) -/

/-- The function whose STOP discards an item at a port (R614). -/
def itemFn (p : Port) (it : Item) : Option Nat :=
  let b := it.body
  match it.tag.kind.toNat with
  | 0x01 => some 1
  | 0x02 => some 9
  | 0x03 => some 20
  | 0x05 => some 2
  | 0x10 => if pbits b 0 2 = 1 then some 3 else if pbit b (64 + 30) then some 2 else some 1
  | 0x11 | 0x12 => some 4
  | 0x13 => some 5
  | 0x14 => some 6
  | 0x15 | 0x16 => some 9
  | 0x17 => some 7
  | 0x18 => some 8
  | 0x19 => some 15
  | 0x1A => if pbit b 16 then some 11 else some 6
  | 0x1B => some 10
  | 0x1C => some 16
  | 0x1F => some 19
  | 0x23 =>
    match p with
    | .cfr => some 7
    | .dpd => some 8
    | .sic => some 15
    | _ => some 9
  | _ => none

/-- The tile key under which a function's state is kept: its tile for the codes of the tile domain, 0 for the others. -/
def fnTile (f t : Nat) : Nat := if 7 ≤ f ∧ f ≤ 18 then t else 0

/-- The earlier of two air times. -/
def airMin (a b : Air) : Air := if airDiff a b ≤ 0 then a else b

/-- The time a received STOP stops the function at: the earliest of those that wait (R70). -/
def FnSt.stopAt (x : FnSt) : Option Air :=
  x.stops.foldl (fun m y => some (match m with
    | some a => airMin a y.tag.air
    | none => y.tag.air)) none

/-- The function discards items of air time `a` (R68, R71). -/
def FnSt.discards (x : FnSt) (a : Air) : Bool :=
  let resumed := match x.resumeAt with
    | some r => decide (airDiff a r ≥ 0)
    | none => false
  match x.stopAt with
  | some t =>
    if airDiff a t ≥ 0 then
      match x.resumeAt with
      | some r => !(decide (airDiff r t ≥ 0) && resumed)
      | none => true
    else x.stopped && !resumed
  | none => x.stopped && !resumed

/-- The function outputs nothing now (R68). -/
def State.fnStopped (s : State) (f t : Nat) : Bool := (s.fnOf f (fnTile f t)).stopped

/-- The QUIESCENT bit of a function (R588). -/
def State.fnQuiet (s : State) (f t : Nat) : Bool := (s.fnOf f (fnTile f t)).quiet

/-- A squash in force discards the item (R64). -/
def SquashRule.hits (r : SquashRule) (p : Port) (t : Nat) (it : Item) : Bool :=
  r.port = p && r.tile = t && r.stream = it.tag.stream && decide (airDiff it.tag.air r.from_ ≥ 0) &&
  older it.tag.epoch r.epoch

/-! ## Blanked symbols (R48, R50, R54) -/

/-- A block that the device originates upstream: a stopped link egress discards it from its stop time, counted in BEAM_DISCARD
(R68, R614). -/
def State.sendTagged (s : State) (c : Option Nat) (vc : Nat) (g : Tag) (body : Bytes) : State :=
  if (s.fnOf 21 0).discards g.air then s.bump (domCounter .lnk 0 .discard) else s.sendOwn c 1 vc (tagBytes g ++ body)

/-- Blanks a symbol of a carrier on the given tiles, on the paths of a mask of paths-in-tile, from a tick on, and a time-domain
carrier's samples from there to `until_`: counted once per tile, with event 4 × tile (R54). Records are kept while an item can
still name the symbol. -/
def State.blankTo (mask : BitVec 16) (from_ until_ : Int) (s : State) (tiles : List Nat) (car : Nat) (a : Air) : State :=
  tiles.foldl (fun s t =>
    let new : Blanked := ⟨t, car, a, mask, from_, until_⟩
    if s.blanked.any fun x => x.tile = t && x.car = car && x.air = a then
      (if new ∈ s.blanked then s else { s with blanked := s.blanked ++ [new] })
    else
      let keep := s.blanked.filter fun x => decide (lead x.air s.now > -(2 ^ 26 : Int))
      (({ s with blanked := keep ++ [new] } : State).bump (cTile t 1)).signal (4 * t)) s

/-- The same for a symbol alone: no sample of a time-domain carrier is blank for it. -/
def State.blankFrom (mask : BitVec 16) (from_ : Int) (s : State) (tiles : List Nat) (car : Nat) (a : Air) : State :=
  s.blankTo mask from_ from_ tiles car a

def State.blankBy (mask : BitVec 16) (s : State) (tiles : List Nat) (car : Nat) (a : Air) : State :=
  s.blankFrom mask (fullTick a s.now) tiles car a

def State.blankSym (s : State) (tiles : List Nat) (car : Nat) (a : Air) : State := s.blankBy 0xFFFF tiles car a

def allTiles : List Nat := [0, 1, 2, 3]

/-- Tiles on which a blank span of a carrier counts at a tick: those where the carrier is on; every tile for a central stage, while
the carrier is on at all (R54). -/
def State.blankTiles (s : State) (tiles : List Nat) (car : Nat) (t : Int) : List Nat :=
  if tiles = allTiles then (if allTiles.any fun u => (s.carAt u .tx car t).on then allTiles else [])
  else tiles.filter fun u => (s.carAt u .tx car t).on

/-- Blanks every symbol of a carrier that a span of ticks touches, where the carrier is on (R50, R66), on the paths of a
mask of paths-in-tile. On a time-domain carrier the symbols of its grid are what is counted (DESIGN CHOICE, log entry 41). -/
def State.blankSpan (s : State) (mask : BitVec 16) (tiles : List Nat) (car : Nat) (lo hi : Int) : State :=
  ((s.fftAt .tx car lo).symsIn lo hi 256).foldl (fun s t =>
    s.blankTo mask (max t lo) hi (s.blankTiles tiles car (max t lo)) car (airOf t)) s

/-- Tiles whose output an item at a port shapes. -/
def portTiles (p : Port) (t : Nat) : List Nat := if tilePort p then [t] else allTiles

/-- Tiles and paths-in-tile that a late transmit item of a kind affects (R50, R105): a GAIN at WOLA and a DPD_SWAP their
mask, an FE_CTL its quads, every other kind all paths of the stage's tiles. -/
def latePaths (p : Port) (t : Nat) (it : Item) : List Nat × BitVec 16 :=
  let b := it.body
  if p = .wola && it.tag.kind = kGain then ([it.tag.source.toNat], BitVec.ofNat 16 (pbits b 0 16))
  else if it.tag.kind = kDpdSwap then ([t], BitVec.ofNat 16 (pbits b 0 16))
  else if it.tag.kind = kFeCtl then
    ([t], BitVec.ofNat 16 (((bitsSet (pbits b 0 4) 4).map fun q => 15 * 2 ^ (4 * q)).sum))
  else (portTiles p t, 0xFFFF)

/-! ## Arrival -/

/-- What the common checks make of an item. -/
inductive Verdict where
  | taken
  /-- the item stays in the network until its island is clocked again (R542) -/
  | held
  | tagFailed
  | early
  | discarded
  | refused
  deriving DecidableEq, Repr

/-- The island of the port's stage is not clocked: what reaches it stays in the network (R542). -/
def State.gated (s : State) (p : Port) (t : Nat) : Bool :=
  match p with
  | .bf | .fft | .wola => s.atOrBelow .sedge || s.entryPast 6
  | .pwr => false
  | .cap => s.atOrBelow .sedge
  | .lnk => s.atOrBelow .fen
  | .lo => s.atOrBelow .fen
  | _ => s.tileStopped t || s.atOrBelow .sedge || s.entryPast 3

/-- The island of the port's stage is fenced: its items are discarded (R302, R523). -/
def State.portFenced (s : State) (p : Port) (t : Nat) : Bool :=
  match p with
  | .bf | .fft | .wola => s.isFenced 4
  | .cap => s.isFenced 7
  | .lnk => s.isFenced 8
  | .pwr => false
  | _ => s.isFenced t

/-- The carrier's NRB and RBG size as the stage knows them. -/
def State.itemShape (s : State) (it : Item) : Nat × Nat :=
  let c := s.islCarAt (dirOf (pbits it.body (64 + 30) 1)) it.tag.carrier.toNat (fullTick it.tag.air s.now)
  (c.nrb, c.rbglog)

def State.verdict (s : State) (p : Port) (t : Nat) (it : Item) : Verdict :=
  if netBehind p t it s.net then .held
  else if s.portFenced p t then .discarded
  else if s.gated p t then .held
  else if !tagCheck it.tag then .tagFailed
  else if lead it.tag.air s.now > 2 ^ 24 then .early
  else if s.squashes.any fun r => r.hits p t it then .discarded
  else
    match itemFn p it with
    | some f =>
      if (s.fnOf f (fnTile f t)).discards it.tag.air then .discarded
      else if payloadForm p it (s.itemShape it).1 (s.itemShape it).2 && tagFieldsOk it.tag then .taken else .refused
    | none =>
      if payloadForm p it (s.itemShape it).1 (s.itemShape it).2 && tagFieldsOk it.tag then .taken else .refused

/-- A stage refuses an item under R342: counted, and a program fault of the issuing sequencer (R338). -/
def State.refuse (s : State) (p : Port) (t : Nat) (it : Item) (pc : BitVec 19) : State :=
  (s.bump (refusalCounter p t)).refuseSeq it.tag.source pc

/-- A refusal by a stage's own rule, with a counter of its own: a program fault of the issuing sequencer, or for another
source the event R39 names (R119). -/
def State.refuseAs (s : State) (cnt : Nat) (p : Port) (t : Nat) (src : BitVec 4) (pc : BitVec 19) : State :=
  let s := s.bump cnt
  if src.toNat ≤ 4 then s.refuseSeq src pc else s.signalAll (tagFailEvents p t src.toNat)

/-- The common part of every arrival. `k` says what the stage does with an item that passes; it is given the address of
the instruction that issued the item. -/
def State.arrive (s : State) (p : Port) (t : Nat) (it : Item) (k : BitVec 19 → State → State) : State :=
  let (net, pc) := takeNet p t it s.net
  match s.verdict p t it with
  | .held => s
  | .taken => k pc { s with net := net }
  | .tagFailed =>
    (({ s with net := net } : State).bump (domCounter p t .tagerr)).signalAll (tagFailEvents p t it.tag.source.toNat)
  | .early =>
    (({ s with net := net } : State).bump (domCounter p t .cfgerr)).signalAll
      (if it.tag.source.toNat ≤ 4 then [16 + it.tag.source.toNat] else tagFailEvents p t it.tag.source.toNat)
  | .discarded =>
    if s.portFenced p t then { s with net := net }
    else ({ s with net := net } : State).bump (domCounter p t .discard)
  | .refused => ({ s with net := net } : State).refuse p t it pc

/-- The item with its tag rewritten, TAGCHK recomputed (R38). -/
def lateItem (it : Item) : Item := { it with tag := sealTag { it.tag with late := true } }

/-- The start of the first symbol of a carrier that still gives the stage `m` ticks of lead (R50). -/
def State.firstWithLead (s : State) (d : Dir) (c m : Nat) : Int := s.nextSymAt d c (s.now.toNat + m : Nat)

/-- Kinds of transmit control that R50 applies at a later symbol. -/
def lateApplies (k : BitVec 6) : Bool :=
  k ∈ [kBeamSel, kBeamCommit, kFftCfg, kWola, kCarrier, kFltSwap, kCfrCfg, kDpdSwap, kGain, kFeCtl]

/-- The span that a late transmit item leaves blank, up to tick `hi`: of the carrier it names; of every carrier for a kind
that names none, since it shapes their sum (R50; DESIGN CHOICE, log entry 41). -/
def State.blankLate (s : State) (p : Port) (t : Nat) (it : Item) (c : Nat) (hi : Int) : State :=
  let (tiles, mask) := latePaths p t it
  let cars := if it.tag.kind ∈ [kCfrCfg, kDpdSwap, kFeCtl] then [0, 1, 2, 3] else [c]
  cars.foldl (fun s c => s.blankSpan mask tiles c (fullTick it.tag.air s.now) hi) s

/-- A late transmit control item: applied at the first symbol start with lead, the span to it blanked; at the arrival
plus the minimum lead where the carrier has no live symbol (R50). -/
def State.lateTx (s : State) (p : Port) (t m : Nat) (it : Item) (pc : BitVec 19) : State × QItem :=
  let car := if it.tag.kind ∈ [kCfrCfg, kDpdSwap, kFeCtl] then s.lowestTxCar t else some (itemCar it)
  let it' := lateItem it
  let later : QItem := ⟨p, t, it', airOf (s.now.toNat + m), true, pc⟩
  match car with
  | some c =>
    if (s.fftOf .tx c).cfg.isSome then
      let at_ := s.firstWithLead .tx c m
      (s.blankLate p t it c at_, ⟨p, t, it', airOf at_, true, pc⟩)
    else (s, later)
  | none => (s, later)

/-- What becomes of a control item that has passed every check: queued at its AIRTIME, or as R50 and R51 say when it is
LATE; none where it is dropped. An item that an earlier stage found LATE is not judged again (R47). -/
def State.placeCtl (s : State) (p : Port) (t : Nat) (it : Item) (pc : BitVec 19) : State × Option QItem :=
  match (if it.tag.late then none else s.lateBy p t it) with
  | none => (s, some ⟨p, t, it, it.tag.air, it.tag.late, pc⟩)
  | some m =>
    let s := s.bump (domCounter p t .latecnt)
    if it.tag.kind ∈ [kSicCtl, kDcFreeze] then (s, none)
    else if itemDir p it = .rx && lateApplies it.tag.kind then (s, none)
    else if lateApplies it.tag.kind then
      let (s, x) := s.lateTx p t m it pc
      (s, some x)
    else (s, some ⟨p, t, lateItem it, it.tag.air, true, pc⟩)

/-- Queues a control item that has passed every check. -/
def State.queueCtl (s : State) (p : Port) (t : Nat) (it : Item) (pc : BitVec 19) : State :=
  match s.placeCtl p t it pc with
  | (s, some x) => s.enqueue x
  | (s, none) => s

/-- Arrival of an ordinary control item. -/
def State.arriveCtl (s : State) (p : Port) (t : Nat) (it : Item) : State :=
  s.arrive p t it fun pc s => s.queueCtl p t it pc

/-- Arrival of a control item for which the stage also checks `ok`, refusing it otherwise under R342. -/
def State.arriveIf (s : State) (p : Port) (t : Nat) (it : Item) (ok : State → Bool) : State :=
  s.arrive p t it fun pc s => if ok s then s.queueCtl p t it pc else s.refuse p t it pc

/-- The item a row of the table stands for: the row fixes KIND, and the bits of the payload that tell its action. -/
def mkItem (k : BitVec 6) (g : Tag) (body : Bytes) : Item := ⟨{ g with kind := k }, body, 0⟩

/-- The payload with a field set (a row fixes the bits that tell its action). -/
def setPay (b : Bytes) (lo len x : Nat) : Bytes :=
  leBytes b.length (leNat b - pbits b lo len * 2 ^ lo + x % 2 ^ len * 2 ^ lo)

/-- The payload of a row that fixes a field of which codes 0 to n - 1 are valid: an item whose field holds an invalid code keeps
it, and its stage refuses it (R342, R345). -/
def rowPay (b : Bytes) (lo len n x : Nat) : Bytes := if n ≤ pbits b lo len then b else setPay b lo len x

/-! ## Items the rule applies and conflicts (R55, R56) -/

/-- The head of a stage's queue, if its time has come. -/
def State.dueItem (s : State) (p : Port) (t : Nat) (late : Bool) : Option QItem :=
  match s.queue.find? fun x => x.port = p && x.tile = t with
  | some x => if lead x.act s.now ≤ 0 ∧ x.late = late then some x else none
  | none => none

/-- Two items of one kind at one stage set the same parameter: their payloads name the same paths, synthesiser, tiles,
functions or record. -/
def sameTarget (k : BitVec 6) (a b : Bytes) : Bool :=
  let meet := fun (lo len : Nat) => decide ((bitsSet (pbits a lo len) len).any fun i => pbit b (lo + i))
  match k.toNat with
  | 0x01 | 0x02 | 0x20 => false
  | 0x18 => pbit a 16 = pbit b 16 && meet 0 16
  | 0x1A => meet 0 16 && meet 17 2
  | 0x1D => pbit a 2 = pbit b 2
  | 0x1E => meet 4 4
  | 0x21 => meet 32 32
  | 0x23 => a.take 8 = b.take 8
  | _ => true

/-- Items of different sources that set the same parameter of a stage at one sample (R56). GAIN items of two sequencers at
WOLA name paths of two tiles (R89). -/
def sameParam (x y : QItem) : Bool :=
  !(x.port = .wola && x.item.tag.kind = kGain) &&
  x.port = y.port && x.tile = y.tile && x.act = y.act && x.item.tag.kind = y.item.tag.kind &&
  x.item.tag.source ≠ y.item.tag.source && (!usesCarrier x.item.tag.kind || x.item.tag.carrier = y.item.tag.carrier) &&
  sameTarget x.item.tag.kind x.item.body y.item.body

/-- A conflict that counts: between sources (R56), or between an item and a block tag that name different values (R55). -/
def conflicting (x y : QItem) : Bool :=
  sameParam x y && !((x.item.tag.source = 8 || y.item.tag.source = 8) &&
    x.item.tag.dpdset = y.item.tag.dpdset && x.item.tag.bank = y.item.tag.bank)

/-- The item conflicts with another one that is still queued. -/
def State.conflicts (s : State) (x : QItem) : Bool := s.queue.any (conflicting x)

/-- Among items due at one sample that set the same parameter, the one with the lowest SOURCE goes first, and a block tag
last (R55, R56). -/
def State.firstOfConflict (s : State) (x : QItem) : QItem :=
  (s.queue.filter fun y => sameParam x y && y.late = x.late).foldl
    (fun a y => if y.item.tag.source.toNat < a.item.tag.source.toNat then y else a) x

/-- Takes one item out of the queue: the first that equals it. -/
def dropItem (x : QItem) : List QItem → List QItem
  | [] => []
  | y :: ys => if y = x then ys else y :: dropItem x ys

end Sys2Proof.Machine
end

