-- ==== Sys2Proof/Machine/Tx.lean ====
section
/-! DEFINITION. The transmit chain: section control, declarations and layer data, FFT configurations, windows, carriers,
gains, crest-factor reduction, and paths leaving service (R72-R109, R304, R341, R343). -/

namespace Sys2Proof.Machine
open Sys2Proof

/-! ## Items the baseband sends (R553) -/

/-- The mode takes the baseband's SECTION and data items (R553). -/
def State.basebandTaken (s : State) : Bool :=
  match s.mode.mode with
  | .service | .maintenance | .test | .timeout => true
  | _ => false

/-- An item of the baseband: discarded, and counted at the port it came on, in a mode that takes none (R553). -/
def State.fromBaseband (s : State) (it : Item) (k : State → State) : State :=
  if it.tag.source = 8 && !s.basebandTaken then s.bump (cPort (s.upPort none) 1) else k s

/-- Minimum lead at link ingress (R46). -/
def State.ingressLead (s : State) (it : Item) : Nat :=
  196608 + 2 * s.tsymOf .tx it.tag.carrier.toNat it.tag.mu.toNat it.tag.air

/-! ## Section control (R77, R78, R304-R306) -/

/-- The carrier's shape for a section record: the island's copy, by DIR and CARRIER. -/
def State.recShape (s : State) (r : BitVec 128) : Nat × Nat :=
  let c := s.islCar (dirOf (fld r 30 1)) (fld r 12 2)
  (c.nrb, c.rbglog)

/-- The tag of a SECTION item names START_SYM and its AIRTIME, as far as the carrier has a grid (R77). -/
def State.sectionTimed (s : State) (it : Item) : Bool :=
  let r := sectionRecord it.body
  let t := fullTick it.tag.air s.now
  it.tag.symbol.toNat = fld r 14 4 &&
  match s.symAt (dirOf (fld r 30 1)) (fld r 12 2) t with
  | some p => p.start = t && p.sym = fld r 14 4
  | none => true

/-- A SECTION item breaks R77: its record, its tag, its list, or a list that is too short. -/
def State.sectionBad (s : State) (it : Item) : Bool :=
  let r := sectionRecord it.body
  let (nrb, rbglog) := s.recShape r
  !(recordOk r nrb rbglog && listOk r rbglog (it.body.drop 16) && s.sectionTimed it)

/-- Copies a SECTION item into the queue of sequencer `k`, with its list in the link buffers (R304, R305); the link
buffers are filled in a ring (log entry 5). -/
def State.queueSection (s : State) (it : Item) (k : Nat) : State :=
  let q := s.seqOf k
  let r := sectionRecord it.body
  let list := if r.getLsbD 28 then [] else it.body.drop 16
  if q.queue.length ≥ 256 then (s.bump (cSeq k 4)).signal 31
  else
    let ptr := if s.listPtr + list.length ≤ 0x800000 then s.listPtr else 0
    let addr := 0x100A000000 + ptr
    let s := if list.isEmpty then s else
      { s.putBytes addr list with
        listPtr := ptr + 64 * ((list.length + 63) / 64)
        lists := (s.lists.filter fun l => decide (lead l.until_ s.now > 0)) ++ [⟨k, addr, list.length, it.tag.air⟩] }
    s.setSeq k { q with queue := q.queue ++ [{
      record := r, tag := (tagWord it.tag).truncate 64
      list := if list.isEmpty then 0 else BitVec.ofNat 40 addr
      bytes := list.length, bad := s.sectionBad it }] }

/-- The symbols of a transmit section that came LATE are blanked (R48). -/
def State.blankSection (s : State) (it : Item) : State :=
  let r := sectionRecord it.body
  if r.getLsbD 30 then s
  else
    let t0 := fullTick it.tag.air s.now
    (((s.fftAt .tx (fld r 12 2) t0).symsIn t0 (t0 + 2 ^ 23) (fld r 18 4))).foldl (fun s t =>
      s.blankSym allTiles (fld r 12 2) (airOf t)) s

/-- What link ingress does with a SECTION item that passed the common checks. One with DIR 1 is not judged: link ingress has
no receive row in R46. -/
def State.takeSection (s : State) (it : Item) : State :=
  if it.body.length < 16 then (s.bump (cBeam 2)).signal 68
  else
    let r := sectionRecord it.body
    let isLate := !r.getLsbD 30 && decide (lead it.tag.air s.now < (s.ingressLead it : Int))
    let it' := if isLate then lateItem it else it
    let s := if isLate then (s.bump (domCounter .lnk 0 .latecnt)).blankSection it' else s
    let route := fld (s.reg64 rSectroute) (5 * (2 * fld r 12 2 + fld r 30 1)) 5
    (bitsSet route 5).foldl (fun s k => s.queueSection it' k) s

/-- SECTION (R304): a section control item at link ingress. -/
def execSectionItem (g : Tag) (body : Bytes) : State → Host.Outcome State Fault Refusal :=
  act fun s =>
    let it := mkItem kSection g body
    s.fromBaseband it fun s => s.arrive .lnk 0 it fun _ s => s.takeSection it

/-! ## Declarations (R76-R78, R172) -/

/-- RE-layers a declaration is charged for (R76). -/
def declCharge (r : BitVec 128) : Nat := 12 * fld r 43 11 * fld r 22 6

/-- Key of a budget window: the direction, and the number of the window that holds an air time (R76). -/
def windowKey (d : Dir) (t : Int) : Nat := 2 ^ 47 * dirNum d + (t / 245760).toNat

def State.chargeOf (s : State) (d : Dir) (a : Air) : Nat := tget (fun _ => 0) s.charges (windowKey d (fullTick a s.now))

/-- The declaration fits its carrier's FFT_CFG, slot and grid (R78), and its carrier is not in time-domain mode (R102). The
FFT_CFG and the CARRIER in effect are those of its AIRTIME (DESIGN CHOICE, log entry 41). -/
def State.declFits (s : State) (it : Item) : Bool :=
  let r := sectionRecord (it.body.drop 8)
  let d := dirOf (fld r 30 1)
  let t := fullTick it.tag.air s.now
  let x := s.fftAt d it.tag.carrier.toNat t
  let car := s.islCarAt d it.tag.carrier.toNat t
  match x.cfg, x.symbolAt t with
  | some b, some p =>
    x.mu = it.tag.mu.toNat && p.start = t && p.sym = it.tag.symbol.toNat && car.nrb ≤ 13 * fftN b / 192 &&
    fld r 22 6 ≤ max 1 car.lmax && !car.tdmode
  | _, _ => false

/-- SYMBOL names a symbol of the carrier's slot (R78). -/
def State.symbolInSlot (s : State) (d : Dir) (it : Item) : Bool :=
  let x := s.fftAt d it.tag.carrier.toNat (fullTick it.tag.air s.now)
  match x.cfg with
  | some b => it.tag.symbol.toNat < symsPerSlot b x.mu
  | none => true

/-- The symbol a refused or discarded declaration leaves without its section: blanked in transmit (R48); counted in
BEAM_MISSCNT in receive (R172). -/
def State.declMissing (s : State) (d : Dir) (it : Item) : State :=
  match d with
  | .rx => s.bump (cBeam 4)
  | .tx =>
    if s.symbolInSlot d it then
      match s.symAt .tx it.tag.carrier.toNat (fullTick it.tag.air s.now) with
      | some p => s.blankSym allTiles it.tag.carrier.toNat (airOf p.start)
      | none => s
    else s

/-- A declaration on time: misfitting, over budget, or accepted and charged. -/
def State.admitDecl (s : State) (it : Item) : State :=
  let r := sectionRecord (it.body.drop 8)
  let d := dirOf (fld r 30 1)
  if !s.declFits it then (s.bump (cBeam 2)).declMissing d it
  else
    let sum := s.chargeOf d it.tag.air + declCharge r
    if sum > 2981888 then (s.bump (cBeam 7)).declMissing d it
    else
      { s with
        charges := tput (fun _ => 0) (windowKey d (fullTick it.tag.air s.now)) sum s.charges
        decls := (s.decls.filter fun x => decide (lead x.air s.now > -(2 ^ 26 : Int))) ++ [⟨d, it.tag.carrier.toNat, it.tag.air, it.tag.mu.toNat, it.tag, r, it.body.drop 24, false⟩] }

/-- A late transmit declaration moved to the symbol that starts at tick `t` (R50): its AIRTIME, and SYMBOL in tag and
record. -/
def State.movedDecl (s : State) (it : Item) (t : Int) : Item :=
  let sym := match s.symAt .tx it.tag.carrier.toNat t with
    | some p => p.sym
    | none => it.tag.symbol.toNat
  let it := lateItem it
  { it with tag := sealTag { it.tag with air := airOf t, symbol := BitVec.ofNat 4 sym }, body := setPay it.body (64 + 14) 4 sym }

/-- A declaration that passed the common checks. A late one is dropped in receive (R51); in transmit it declares the first
symbol that still gives the stage its minimum lead, and what lies before is blank (R50). -/
def State.takeDecl (s : State) (it : Item) : State :=
  let d := dirOf (fld (sectionRecord (it.body.drop 8)) 30 1)
  match s.lateBy .bf 0 it with
  | none => s.admitDecl it
  | some m =>
    let s := s.bump (domCounter .bf 0 .latecnt)
    match d with
    | .rx => s.declMissing d it
    | .tx =>
      let to_ := s.firstWithLead .tx it.tag.carrier.toNat m
      (s.blankLate .bf 0 it it.tag.carrier.toNat to_).admitDecl (s.movedDecl it to_)

/-- BEAM_SEL_DECLARATION (R78): a form 0 BEAM_SEL item. -/
def execBeamSelDeclaration (g : Tag) (body : Bytes) : State → Host.Outcome State Fault Refusal :=
  act fun s =>
    let it := mkItem kBeamSel g (rowPay body 0 2 2 0)
    let d := dirOf (fld (sectionRecord (it.body.drop 8)) 30 1)
    let v := s.verdict .bf 0 it
    let s := s.arrive .bf 0 it fun _ s => s.takeDecl it
    match v with
    | .refused => s.declMissing d it
    | .discarded => if d = .rx then s.declMissing d it else s
    | _ => s

/-! ## Layer data (R79-R83) -/

/-- Fields of an FD_DATA block header (R79). -/
def fdSect (b : Bytes) : Nat := pbits b 0 12
def fdLayer (b : Bytes) : Nat := pbits b 12 5
def fdStart (b : Bytes) : Nat := pbits b 17 11
def fdNum (b : Bytes) : Nat := pbits b 32 11
def fdComp (b : Bytes) : Bool := pbit b 43
def fdMant (b : Bytes) : Nat := pbits b 44 5

/-- Payload bytes of a block (R79). -/
def fdBytes (b : Bytes) : Nat := 8 + fdNum b * (if fdComp b then 1 + 3 * fdMant b else 48)

/-- The block keeps the layout of R79 to R81. -/
def fdForm (it : Item) : Bool :=
  let b := it.body
  b.length = it.tag.length.toNat && 8 ≤ b.length && 1 ≤ fdNum b && (!fdComp b || 6 ≤ fdMant b && fdMant b ≤ 16) &&
  b.length = fdBytes b && pbits b 28 4 = 0 && pbits b 49 15 = 0

/-- A declaration holds the block: its section, layer, RBs and encoding (R82). -/
def declHolds (r : BitVec 128) (b : Bytes) : Bool :=
  fld r 0 12 = fdSect b && fdLayer b < fld r 22 6 && fld r 32 11 ≤ fdStart b &&
  fdStart b + fdNum b ≤ fld r 32 11 + fld r 43 11 && r.getLsbD 58 = fdComp b &&
  (!fdComp b || fld r 59 5 = fdMant b)

/-- The transmit declarations of a carrier and symbol. -/
def State.declsAt (s : State) (c : Nat) (a : Air) : List Decl := s.decls.filter fun d => d.dir = .tx && d.car = c && d.air = a

/-- Blanks the symbol a block belongs to on every path (R48). -/
def State.blankBlock (s : State) (it : Item) : State := s.blankSym allTiles it.tag.carrier.toNat it.tag.air

/-- DPDSET and BANK of a tag. -/
def tagSel (g : Tag) : BitVec 5 := g.dpdset ++ g.bank

/-- Where the last tag of a stream's blocks of a carrier is kept; time-domain blocks are kept apart by path, which `part` numbers
from 1 (R55). -/
def tagKey (g : Tag) (part : Nat) : Nat := (4 * g.stream.toNat + g.carrier.toNat) * 65 + part

/-- A change of DPDSET or BANK from the last block of a stream, carrier and path to this one, of the governing carrier, stands for a
swap of the model on a tile's paths (R55, R126). -/
def State.tagSwap (s : State) (tiles : List Nat) (mask part : Nat) (g : Tag) : State :=
  let last := tget (fun _ => none) s.lin.lastTag (tagKey g part)
  let s : State := { s with lin := { s.lin with lastTag := tput (fun _ => none) (tagKey g part) (some (tagSel g)) s.lin.lastTag } }
  if last.isNone || last = some (tagSel g) then s
  else
    tiles.foldl (fun s t =>
      if fld (s.reg (rDpdcfg t)) 1 3 = g.carrier.toNat then
        s.enqueue ⟨.dpd, t, ⟨{ g with kind := kDpdSwap, source := 8 }, leBytes 8 mask, 0⟩, g.air, false, 0⟩
      else s) s

/-- An FD_DATA block that passed the common checks (R82): kept for its symbol, or discarded. `m` is the minimum lead of
the stage it arrives at: data that comes after it has not arrived. A block of a carrier in time-domain mode is discarded
(R102). -/
def State.takeFd (s : State) (m : Nat) (it : Item) : State :=
  let c := it.tag.carrier.toNat
  let t := fullTick it.tag.air s.now
  if !fdForm it || !(s.fftAt .tx c t).isSymStart t || (s.islCarAt .tx c t).tdmode ||
      ((s.declsAt c it.tag.air).any fun d => fld d.record 0 12 = fdSect it.body && !declHolds d.record it.body) then
    s.bump (cBeam 2)
  else
    let came := decide ((m : Int) ≤ lead it.tag.air s.now)
    let s := if !came && !it.tag.late then s.bump (domCounter .bf 0 .latecnt) else s
    let s := if !came || it.tag.late || it.tag.damaged then s.blankBlock it else s
    if came then (s.enqueue ⟨.bf, 0, it, it.tag.air, it.tag.late, 0⟩).tagSwap allTiles 0xFFFF 0 it.tag else s

/-- FD_DATA (R82): a layer data block at the beamformer. -/
def execFdData (g : Tag) (body : Bytes) : State → Host.Outcome State Fault Refusal :=
  act fun s =>
    let it := mkItem kFdData g body
    s.fromBaseband it fun s => s.arrive .bf 0 it fun _ s => s.takeFd (s.minLeadFor .bf 0 it 0) it

/-- The RBs of a layer that blocks deliver, one entry per block and RB. -/
def rbsOf (layer : Nat) (blocks : List Item) : List Nat :=
  (blocks.filter fun i => fdLayer i.body = layer).flatMap fun i => (List.range (fdNum i.body)).map (fdStart i.body + ·)

/-- RBs that more than one block delivers (R83). -/
def replacedRbs (r : BitVec 128) (blocks : List Item) : Nat :=
  ((List.range (fld r 22 6)).map fun l =>
    let have_ := rbsOf l (blocks.filter fun i => declHolds r i.body)
    have_.length - have_.dedup.length).sum

/-! ## Time-domain data (R102-R104) -/

def tdPath (b : Bytes) : Nat := pbits b 0 6
/-- Samples in a block. -/
def tdLen (b : Bytes) : Nat := (b.length - 8) / 4
def tdForm (it : Item) : Bool :=
  it.body.length = it.tag.length.toNat && 8 + 4 * 64 ≤ it.body.length && it.body.length ≤ 8 + 4 * 4096 &&
  it.body.length % 4 = 0 && pbits it.body 6 58 = 0

/-- Ticks a time-domain block of `n` samples from tick `t` on lasts. -/
def State.tdTicks (s : State) (c n : Nat) (t : Int) : Nat := n * max 1 (s.fftAt .tx c t).tk

/-- One time-domain block blanked: its path and span, counted once (R54, R105). -/
def State.blankTd (s : State) (t : Nat) : State := (s.bump (cTile t 1)).signal (4 * t)

/-- Inserts a block's span in processing order: by AIRTIME, and of one AIRTIME in ascending SOURCE (R56, R104). -/
def insertSpan (x : TdSpan) : List TdSpan → List TdSpan
  | [] => [x]
  | y :: ys =>
    if airDiff y.air x.air > 0 || (y.air = x.air && decide (x.tag.source < y.tag.source)) then x :: y :: ys else y :: insertSpan x ys

/-- A TD_DATA block that passed the common checks (R104). A block that its form discards is missing, and blanked as one
(DESIGN CHOICE, log entry 41). -/
def State.takeTd (s : State) (m : Nat) (it : Item) : State :=
  let p := tdPath it.body
  let t := tileOfPath p
  let c := it.tag.carrier.toNat
  let at_ := fullTick it.tag.air s.now
  if !tdForm it || !(s.carAt t .tx c at_).tdmode then (s.bump (domCounter .flt t .cfgerr)).blankTd t
  else
    let isLate := !it.tag.late && decide (lead it.tag.air s.now < (m : Int))
    let s := if isLate then s.bump (domCounter .flt t .latecnt) else s
    if isLate || it.tag.late || it.tag.damaged then s.blankTd t
    else
      let n := s.tdTicks c (tdLen it.body) at_
      let hits := s.tdSpans.any fun x => x.path = p && x.car = c &&
        decide (airDiff it.tag.air x.air < x.len) && decide (airDiff x.air it.tag.air < n)
      let s := if hits then s.bump (domCounter .flt t .cfgerr) else s
      let spans := s.tdSpans.filter fun (x : TdSpan) => decide (lead x.air s.now > -(2 ^ 26 : Int))
      let new : TdSpan := { path := p, car := c, air := it.tag.air, len := n, iq := iqList it.body 8 (tdLen it.body), tag := it.tag }
      let s : State := { s with tdSpans := insertSpan new spans }
      (s.enqueue ⟨.flt, t, it, it.tag.air, false, 0⟩).tagSwap [t] (2 ^ (p % 16)) (p + 1) it.tag

/-- TD_DATA (R104): a time-domain block of one path. -/
def execTdData (g : Tag) (body : Bytes) : State → Host.Outcome State Fault Refusal :=
  act fun s =>
    let it := mkItem kTdData g body
    s.fromBaseband it fun s =>
      s.arrive .flt (tileOfPath (tdPath body)) it fun _ s => s.takeTd 32768 it

/-! ## FFT_CFG and WOLA (R73, R75, R88, R343) -/

/-- A receive window offset stays within the shortest prefix of the slot (R165). -/
def fftOffsetOk (b : Bytes) (mu : Nat) : Bool :=
  fftDir b = .tx || (gridSpans b mu).all fun x => fftD b ≤ prefixOf b mu x

/-- FFT_CFG (R343): a combination that R73, R75 or R165 does not allow is discarded and counted. -/
def execFftCfg (g : Tag) (body : Bytes) : State → Host.Outcome State Fault Refusal :=
  act fun s =>
    let it := mkItem kFftCfg g body
    s.arrive .fft 0 it fun pc s =>
      if fftAccepted it.body it.tag.mu.toNat && fftOffsetOk it.body it.tag.mu.toNat then s.queueCtl .fft 0 it pc
      else s.bump (cBeam 2)

/-- FFT_CFG takes effect: it fixes the grid of a carrier that is off; for one that is on it waits for the start of a
slot (R343). -/
def State.applyFftCfg (s : State) (x : QItem) : State :=
  let b := x.item.body
  let d := fftDir b
  let c := x.item.tag.carrier.toNat
  let t := fullTick x.act s.now
  let f := s.fftOf d c
  let on := (s.islCar d c).on
  if on && f.cfg.isSome && !f.isSlotStart t then
    (s.bump (cBeam 8)).enqueue { x with act := airOf (f.nextSlot t) }
  else s.setFft d c { cfg := some b, mu := x.item.tag.mu.toNat, origin := t.toNat }

/-- WOLA (R88). -/
def execWola (g : Tag) (body : Bytes) : State → Host.Outcome State Fault Refusal :=
  act fun s => s.arriveCtl .wola 0 (mkItem kWola g body)

/-- WOLA takes effect. Where W exceeds the prefix at a boundary, that boundary alone is clipped (`State.tailOf`). -/
def State.applyWola (s : State) (x : QItem) : State :=
  let b := x.item.body
  { s with wolas := tput (fun _ => {}) x.item.tag.carrier.toNat ⟨pbits b 0 9, pbit b 9⟩ s.wolas }

/-! ## Carriers (R93-R96, R163, R341, R343) -/

/-- CARRIER_ON, CARRIER_OFF, CARRIER_RETUNE: one item, its ACTION fixed by the row. -/
def State.arriveCarrier (s : State) (t : Tile) (g : Tag) (body : Bytes) (action : Nat) : State :=
  s.arriveCtl .flt t.val (mkItem kCarrier g (rowPay body 1 2 3 action))

def execCarrierOn (t : Tile) (g : Tag) (body : Bytes) : State → Host.Outcome State Fault Refusal :=
  act fun s => s.arriveCarrier t g body 0
def execCarrierOff (t : Tile) (g : Tag) (body : Bytes) : State → Host.Outcome State Fault Refusal :=
  act fun s => s.arriveCarrier t g body 1
def execCarrierRetune (t : Tile) (g : Tag) (body : Bytes) : State → Host.Outcome State Fault Refusal :=
  act fun s => s.arriveCarrier t g body 2

/-- A CARRIER item with TDMODE whose FFT_CFG gives a ratio below 16 is refused, whatever its ACTION (R102, R343). -/
def State.tdRefused (s : State) (d : Dir) (c : Nat) (b : Bytes) : Bool :=
  match (s.fftOf d c).cfg with
  | none => false
  | some cfg => pbit b 3 && decide (ratioR (fftN cfg) (s.fftOf d c).mu < 16)

/-- The FFT_CFG in effect allows a CARRIER item that switches on (R102, R343). -/
def State.carrierAllowed (s : State) (d : Dir) (c : Nat) (b : Bytes) : Bool :=
  (s.fftOf d c).cfg.isSome && !s.tdRefused d c b

/-- The state of a carrier that the beamformer and FFT island keeps (R341). -/
def CarSt.island (x : CarSt) : Bool × Bool × Bool × Nat × Nat × Nat × Nat :=
  (x.on, x.tdmode, x.phcomp, x.nrb, x.rbglog, x.lmax, x.tdblk)

/-- A tile's copy of a CARRIER item meets one of another tile that acted at the same tick with other content: a conflict at the island,
counted in its domain (R56, R341). -/
def State.carConflict (s : State) (t : Nat) (d : Dir) (c : Nat) (v : CarSt) : State :=
  if allTiles.any fun u => u ≠ t && (s.carOf u d c).since = v.since && (s.carOf u d c).island ≠ v.island then s.bump (cBeam 5) else s

/-- A CARRIER item takes effect on its tile and on the island's copy (R93, R341, R343); among copies of one tick the one of
the highest SOURCE, hence of the highest tile, stands there (R56). `warm` gives the WARMUP span of the chain (R163). -/
def State.applyCarrier (s : State) (x : QItem) (warm : Nat) : State :=
  let b := x.item.body
  let d := carDir b
  let c := x.item.tag.carrier.toNat
  let old := s.carOf x.tile d c
  let t := (fullTick x.act s.now).toNat
  let f := s.fftOf d c
  let later := allTiles.any fun u => decide (x.tile < u) && (s.carOf u d c).since = t
  let setIsl := fun (s : State) (v : CarSt) => if later then s else s.setIslCar d c v
  if old.on && !f.isSymStart t && f.cfg.isSome then
    (s.bump (domCounter .flt x.tile .cfgerr)).enqueue { x with act := airOf (f.nextSym t) }
  else if s.tdRefused d c b then s.refuse .flt x.tile x.item x.pc
  else if carAction b = 1 then
    let s := if old.on then s.setCar x.tile d c { old with on := false, since := t } else s
    let s := if old.on then s.carConflict x.tile d c { old with on := false, since := t } else s
    let i := s.islCar d c
    if i.on then setIsl s { i with on := false, since := t } else s
  else if s.carrierAllowed d c b then
    setIsl ((s.setCar x.tile d c (carSet b t warm)).carConflict x.tile d c (carSet b t warm)) (carSet b t warm)
  else s.refuse .flt x.tile x.item x.pc

/-! ## Gain and crest-factor reduction (R89, R97-R99) -/

/-- GAIN_TX (R89): a GAIN item at the WOLA stage, for paths of the issuer's tile; one with DIR 1, LNAEN, or without GEN is
refused by its form. -/
def execGainTx (t : Tile) (g : Tag) (body : Bytes) : State → Host.Outcome State Fault Refusal :=
  act fun s =>
    let it := mkItem kGain g body
    s.arriveIf .wola 0 it fun _ => it.tag.source.toNat = t.val

def State.applyGainTx (s : State) (x : QItem) : State :=
  let b := x.item.body
  (tileMaskPaths x.item.tag.source.toNat (pbits b 0 16)).foldl
    (fun s p => s.setGain .tx p x.item.tag.carrier.toNat (BitVec.ofNat 16 (pbits b 32 16))) s

/-- CFR_CFG (R97). -/
def execCfrCfg (t : Tile) (g : Tag) (body : Bytes) : State → Host.Outcome State Fault Refusal :=
  act fun s => s.arriveCtl .cfr t.val (mkItem kCfrCfg g body)

def State.applyCfrCfg (s : State) (x : QItem) : State :=
  let b := x.item.body
  let y : CfrSt := ⟨pbits b 0 2, pbits b 2 5, bankOf (pbits b 7 1), pbits b 8 4, BitVec.ofNat 16 (pbits b 16 16)⟩
  { s with cfrs := tput (fun _ => {}) x.tile y s.cfrs }

/-! ## Decompression (R80, R81) -/

/-- Mantissa `j` of a block-floating-point RB that starts at byte `o` of a payload (R80). -/
def mantissa (b : Bytes) (o m j : Nat) : Int := sfield (pbits b (8 * (o + 1) + j * m) m) m

/-- The 24 decompressed rails of one RB (R80, R81), in the order I0, Q0, I1, ... -/
def rbRails (b : Bytes) (comp : Bool) (m k : Nat) : List Int :=
  if comp then
    let o := 8 + k * (1 + 3 * m)
    (List.range 24).map fun j => sat16 (mantissa b o m j * 2 ^ pbits b (8 * o) 4)
  else (List.range 24).map fun j => int16 (pbits b (8 * (8 + 48 * k) + 16 * j) 16)

/-- The rails that decompression clamps. -/
def rbClips (b : Bytes) (comp : Bool) (m k : Nat) : Nat :=
  if comp then
    let o := 8 + k * (1 + 3 * m)
    ((List.range 24).filter fun j => clampsN 16 (mantissa b o m j * 2 ^ pbits b (8 * o) 4)).length
  else 0

/-! ## Live samples (R49, R58, R68, R91) -/

/-- A STOP function outputs nothing at tick `a` (R68). -/
def State.fnStoppedAt (s : State) (f t : Nat) (a : Int) : Bool :=
  let fns := match s.histAt a with
    | some h => h.fns
    | none => s.fns
  (tget fnReset fns (4 * f + fnTile f t)).discards (airOf a)

/-- Some stage of the transmit chain before the limiter is stopped at tick `a`; a carrier in time-domain mode passes those of
the tile alone (R72, R102). -/
def State.txStopped (s : State) (t : Nat) (td : Bool) (a : Int) : Bool :=
  (if td then [7, 8, 9] else [1, 5, 6, 7, 8, 9]).any fun f => s.fnStoppedAt f t a

/-- A path is out of service at tick `a`: pending STOPs and resumes included (R106, R107, R181). -/
def State.pathOutAt (s : State) (rx : Bool) (p : Nat) (a : Int) : Bool :=
  match s.histAt a with
  | some h => (if rx then h.rxOut else h.txOut).getLsbD p
  | none =>
    let f := if rx then 18 else 17
    ((if rx then s.rxOut else s.txOut).getLsbD p ||
      s.pathStops.any fun y => y.rx = rx && y.mask.getLsbD p && decide (fullTick y.tag.air s.now ≤ a)) &&
    !(s.queue.any fun x => x.item.tag.kind = kStop && pbit x.item.body 0 && pbit x.item.body (32 + f) &&
      pbit x.item.body (64 + p) && decide (fullTick x.act s.now ≤ a))

/-- The tile has blanked the whole symbol of a carrier on every path. -/
def State.isBlanked (s : State) (t c : Nat) (a : Air) : Bool :=
  s.blanked.any fun x => x.paths = 0xFFFF && x.tile = t && x.car = c && x.air = a && decide (x.from_ ≤ fullTick a s.now)

/-- What begins at an air time is blank on a path's quad at tick `t` for a cause of the quad's own (R262, R288, R290, R291). -/
def State.quadBlank (s : State) (p : Nat) (a : Air) (t : Int) : Bool :=
  s.fe.quadBlanks.any fun x => x.quad = quadOfPath p && x.air = a && decide (x.from_ ≤ t)

/-- The end of what such causes leave of a span that begins at an air time. -/
def State.quadEnd (s : State) (p : Nat) (a : Air) (hi : Int) : Int :=
  (s.fe.quadBlanks.filter fun x => x.quad = quadOfPath p && x.air = a).foldl (fun e x => min e x.from_) hi

/-- The symbol of a carrier that starts at tick `a` has been blanked on the path at tick `t`. -/
def State.symBlank (s : State) (p c : Nat) (a t : Int) : Bool :=
  s.blanked.any fun x => x.paths.getLsbD (p % 16) && x.tile = tileOfPath p && x.car = c && x.air = airOf a && decide (x.from_ ≤ t)

/-- The same, or its quad's blank. -/
def State.pathBlank (s : State) (p c : Nat) (a t : Int) : Bool := s.quadBlank p (airOf a) t || s.symBlank p c a t

/-- The spans of ticks over which a time-domain carrier's samples are blank on a path (R50, R66). -/
def State.tdBlanks (s : State) (p c : Nat) : List (Int × Int) :=
  (s.blanked.filter fun x => x.paths.getLsbD (p % 16) && x.tile = tileOfPath p && x.car = c && decide (x.from_ < x.until_)).map
    fun x => (x.from_, x.until_)

/-- A time-domain carrier's sample of tick `t` is blank on a path. -/
def State.tdBlankAt (s : State) (p c : Nat) (t : Int) : Bool := (s.tdBlanks p c).any fun b => decide (b.1 ≤ t) && decide (t < b.2)

/-- What a span leaves of another. -/
def spanMinus (b x : Int × Int) : List (Int × Int) :=
  if x.2 ≤ b.1 || b.2 ≤ x.1 then [x] else [(x.1, b.1), (b.2, x.2)].filter fun y => decide (y.1 < y.2)

/-- The end of what a blank leaves of a path's symbol whose samples span [lo, hi): the first tick at which it is blank. -/
def State.blankEnd (s : State) (p c : Nat) (lo hi : Int) : Int :=
  (s.blanked.filter fun x => x.paths.getLsbD (p % 16) && x.tile = tileOfPath p && x.car = c && x.air = airOf lo).foldl
    (fun e x => min e x.from_) hi

/-- The tick from which a cut leaves nothing: its start, or the end of its ramp of 64 composite samples (R291). -/
def Cut.zeroFrom (c : Cut) : Int := if c.ramp then c.from_ + 128 else c.from_

/-- What a cut leaves of a span of samples. -/
def Cut.leave (c : Cut) (x : Int × Int) : Int × Int :=
  if x.2 ≤ c.zeroFrom || c.until_ ≤ x.1 then x
  else if x.1 < c.zeroFrom then (x.1, c.zeroFrom)
  else (min x.2 c.until_, x.2)

/-- A declared symbol of a carrier that starts at tick `a` is scheduled on the path. -/
def State.symSched (s : State) (p c : Nat) (a : Int) : Bool :=
  let t := tileOfPath p
  let x := s.carAt t .tx c a
  x.on && !x.tdmode && !s.symBlank p c a a && !s.txStopped t false a && !s.pathOutAt false p a

/-- It sends samples on the path. -/
def State.symOn (s : State) (p c : Nat) (a : Int) : Bool := s.symSched p c a && !s.quadBlank p (airOf a) a

/-- Ticks of the tail, on a tile, of a carrier's symbol that starts at tick `a` (R58, R88): none where a CARRIER item acts at
its end (R91, R93). -/
def State.tailTk (s : State) (t c : Nat) (a : Int) : Nat :=
  match s.symAt .tx c a with
  | some p =>
    let next := a + p.span
    if ((s.carAt t .tx c next).since : Int) = next then 0 else s.tailOf c a * (s.fftAt .tx c a).tk
  | none => 0

/-- Span of a carrier's symbol that starts at tick `a`. -/
def State.symSpan (s : State) (c mu : Nat) (a : Int) : Nat :=
  match s.symAt .tx c a with
  | some p => p.span
  | none => tsym mu

/-- Spans of a path's declared symbols that are scheduled, tails included. -/
def State.symSpans (s : State) (p : Nat) : List (Int × Int) :=
  (s.decls.filter fun d => decide (d.dir = Dir.tx) && s.symSched p d.car (fullTick d.air s.now)).map fun d =>
    let lo := fullTick d.air s.now
    (lo, s.blankEnd p d.car lo (lo + s.symSpan d.car d.mu lo + s.tailTk (tileOfPath p) d.car lo))

/-- The time-domain block is scheduled at tick `a`. -/
def State.tdOn (s : State) (x : TdSpan) (a : Int) : Bool :=
  let t := tileOfPath x.path
  let v := s.carAt t .tx x.car a
  v.on && v.tdmode && !s.txStopped t true a && !s.pathOutAt false x.path a

/-- Spans over which playback puts samples into a path ahead of the limiter (R506). -/
def State.playSpans (s : State) (p : Nat) : List (Int × Int) :=
  (s.chain.plays.filter fun y => y.unit = p && !s.pathOutAt false p y.start &&
    (y.tap = 0x04 || (y.tap = 0x02 && (s.carAt (tileOfPath p) .tx y.car y.start).on))).map fun y => (y.start, y.start + y.tk * y.iq.length)

/-- Spans over which a path has samples of time-domain blocks: what blanks leave of them, those of its quad's own causes (`quad`)
among them or not. -/
def State.tdLive (s : State) (p : Nat) (quad : Bool) : List (Int × Int) :=
  (s.tdSpans.filter fun x => decide (x.path = p) && s.tdOn x (fullTick x.air s.now)).flatMap fun x =>
    let lo := fullTick x.air s.now
    let hi := if quad then s.quadEnd p x.air (lo + x.len) else lo + x.len
    (s.tdBlanks p x.car).foldl (fun l b => l.flatMap (spanMinus b)) (if lo < hi then [(lo, hi)] else [])

/-- Spans over which a path has transmit samples, tails included: declared symbols that are not blanked, time-domain blocks, and
played blocks. -/
def State.txSpans (s : State) (p : Nat) : List (Int × Int) :=
  ((s.symSpans p).map fun x => (x.1, s.quadEnd p (airOf x.1) x.2)).filter (fun x => decide (x.1 < x.2)) ++
    s.playSpans p ++ s.tdLive p true

/-- The first symbol start of a transmit carrier of the tile at or after a tick; the tick itself with no grid. -/
def State.firstSymOf (s : State) (t : Nat) (from_ : Int) : Int :=
  let xs := ([0, 1, 2, 3].filter fun c => (s.carAt t .tx c from_).on && (s.fftAt .tx c from_).cfg.isSome).map fun c => s.nextSymAt .tx c from_
  xs.foldl (fun (a : Int) x => if a = from_ then a else min a x) (xs.headD from_)

/-- The tick at which a muted path resumes: the first symbol start at least 8,192 + TXADV after its release; none while it is muted
(R280). -/
def State.muteResume (s : State) (p : Nat) : Option Int :=
  if s.fe.mute.getLsbD p then none
  else some (s.firstSymOf (tileOfPath p) (tget (fun _ => 0) s.fe.muteRel p + 8192 + s.txAdv (quadOfPath p) : Nat))

def dutyWindow : Nat := 39321600

/-- What begins before a tick is gone. -/
def cutBefore (r : Int) (l : List (Int × Int)) : List (Int × Int) := (l.map fun x => (max x.1 r, x.2)).filter fun x => decide (x.1 < x.2)

/-- What a path's mute and its duty limit leave of its spans (R280, R286). -/
def State.afterMute (s : State) (p : Nat) (l : List (Int × Int)) : List (Int × Int) :=
  let l := if s.fe.dutyOut.getLsbD p then cutBefore (s.fe.dutyAt + dutyWindow : Nat) l else l
  if !s.fe.silent.getLsbD p then l
  else
    match s.muteResume p with
    | some r => cutBefore r l
    | none => []

/-- Spans over which the path is live: none while it is muted or at its duty limit (R280, R286), and none where its quad is
cut (R288, R291). -/
def State.liveSpans (s : State) (p : Nat) : List (Int × Int) :=
  s.afterMute p ((s.fe.cuts.filter fun c => c.quad = quadOfPath p).foldl
    (fun l c => (l.map c.leave).filter fun x => x.1 < x.2) (s.txSpans p))

/-- Spans over which the path is scheduled to be live, whatever RF_SAFE_N and coexistence grants make of them (R289). -/
def State.schedSpans (s : State) (p : Nat) : List (Int × Int) := s.afterMute p (s.symSpans p ++ s.playSpans p ++ s.tdLive p false)

/-- A live sample of the path lies in [lo, hi). -/
def State.liveIn (s : State) (p : Nat) (lo hi : Int) : Bool := (s.liveSpans p).any fun x => x.1 < hi && lo < x.2

/-- The first tick at or after `t` that some of the spans hold. -/
def nextIn (l : List (Int × Int)) (t : Int) : Option Int :=
  l.foldl (fun a x =>
    if x.2 ≤ t then a
    else
      match a with
      | none => some (max x.1 t)
      | some b => some (min b (max x.1 t))) none

/-- The first tick at or after `t` at which a path of a list has a live sample. -/
def State.nextLiveOf (s : State) (ps : List Nat) (t : Int) : Option Int := nextIn (ps.flatMap s.liveSpans) t

/-- Transmit symbols of a tile that a span touches: carrier and air time, of live declarations. -/
def State.symsTouched (s : State) (t : Nat) (lo hi : Int) : List (Nat × Air) :=
  ((s.decls.filter fun d =>
    let a := fullTick d.air s.now
    decide (d.dir = Dir.tx) && (s.carAt t .tx d.car a).on && !s.isBlanked t d.car d.air && decide (a < hi) &&
    decide (lo < a + s.symSpan d.car d.mu a + s.tailTk t d.car a)).map fun d => (d.car, d.air)).dedup

/-- Symbols of a tile in flight now: under way, or to begin within `adv`, so that their enables and their tests are past. -/
def State.flightSyms (s : State) (t adv : Nat) : List (Nat × Air) :=
  s.symsTouched t s.now.toNat ((s.now.toNat + max 1 adv : Nat) : Int)

/-- The same for its time-domain blocks. -/
def State.flightBlocks (s : State) (t adv : Nat) : List TdSpan :=
  s.tdSpans.filter fun x => decide (tileOfPath x.path = t) && decide (lead x.air s.now < (max 1 adv : Nat)) &&
    decide (0 < lead x.air s.now + x.len) && !s.quadBlank x.path x.air s.now.toNat

/-- The end of a cut on a tile: the first end of a symbol or block under way, its tail apart; with none, the end of the last tail. -/
def State.cutEnd (s : State) (t : Nat) : Int :=
  let now : Int := s.now.toNat
  let syms := (s.flightSyms t 1).map fun y =>
    let a := fullTick y.2 s.now
    (a + s.symSpan y.1 (s.fftAt .tx y.1 a).mu a, a + s.symSpan y.1 (s.fftAt .tx y.1 a).mu a + s.tailTk t y.1 a)
  let bodies := (syms.map Prod.fst ++ (s.flightBlocks t 1).map fun x => fullTick x.air s.now + x.len).filter fun e => decide (now < e)
  match bodies with
  | e :: es => es.foldl min e
  | [] => (syms.map Prod.snd).foldl max now

/-- The output of quads is cut from now on: at once, or by a ramp. What is in flight stays blank on their paths; the cut itself ends
where what begins later may be live again. Cuts and blanks long past are dropped. -/
def State.cutQuads (s : State) (ramp : Bool) (qs : List Nat) : State :=
  let now : Int := s.now.toNat
  let keep := s.fe.cuts.filter fun x => decide (now - 2 ^ 26 < x.until_)
  let old := s.fe.quadBlanks.filter fun x => decide (lead x.air s.now > -(2 ^ 26 : Int))
  let new := qs.flatMap fun q =>
    let airs := ((s.flightSyms (q / 4) (s.txAdv q)).map Prod.snd ++ (s.flightBlocks (q / 4) (s.txAdv q)).map TdSpan.air).dedup
    airs.map fun a => (⟨q, a, if ramp then min (now + 128) (s.cutEnd (q / 4)) else now⟩ : QuadBlank)
  { s with fe := { s.fe with cuts := keep ++ qs.map fun q => ⟨q, now, s.cutEnd (q / 4), ramp⟩, quadBlanks := old ++ new } }

/-- What is in flight on a tile counts as blanked, once each (R54, R262, R288). -/
def State.countFlight (s : State) (t : Nat) : State :=
  let s' := (s.flightSyms t (s.tileTxAdv t)).foldl (fun s y => s.blankFrom 0 s.now.toNat [t] y.1 y.2) s
  (s.flightBlocks t (s.tileTxAdv t)).foldl (fun s _ => s.blankTd t) s'

end Sys2Proof.Machine
end

