-- ==== Sys2Proof/Machine/Wake.lean ====
section
/-! DEFINITION. The machines of the power controller as other blocks reach them: requests, wakes, and the start of an entry
and of an exit (R534, R538, R539, R545-R548). -/

namespace Sys2Proof.Machine
open Sys2Proof

/-! ## Machines -/

def State.pmOf (s : State) : PMach → PMachine
  | .device => s.power.dev
  | .tile t => s.tilePower t.val

def State.setPm (s : State) (m : PMach) (x : PMachine) : State :=
  match m with
  | .device => { s with power := { s.power with dev := x } }
  | .tile t => s.setTilePower t.val x

def pmTiles : List PMach := [.tile 0, .tile 1, .tile 2, .tile 3]

/-- Entry-or-abort bound of a state (R534). -/
def entryBound : PState → Nat
  | .active => 0
  | .reed => 2048
  | .sedge => 8257536
  | .fen => 9830400
  | .bog | .peat => 39321600

/-- Exit bound of a state (R534). -/
def exitBound : PState → Nat
  | .active => 0
  | .reed => 1966
  | .sedge => 19661
  | .fen => 196608
  | .bog => 1966080
  | .peat => 19660800

/-- First step of R549 that has work to do on an exit. -/
def firstExitStep : PState → Nat
  | .active | .reed => 4
  | .sedge => 3
  | _ => 1

/-- First step of R542 that a state has not already done: SEDGE has left step 6's refusal by an update session, and the PLLs of
step 7, to lower states (R573). -/
def firstEntryStep : PState → Nat
  | .active => 1
  | .reed => 13
  | .sedge => 6
  | _ => 10

/-- The step after step `n` on the way to a state (R542). -/
def nextEntryStep (target : PState) (n : Nat) : Nat :=
  match target with
  | .active | .reed => if n < 3 then 3 else 13
  | .sedge => if n = 7 then 9 else if n = 11 then 13 else n + 1
  | _ => n + 1

/-! ## Wakes and requests -/

/-- Starts the exit of a machine; every wake but the end of an automatic REED is recorded (R547). -/
def State.beginExit (s : State) (m : PMach) (src lane : Nat) : State :=
  let x := s.pmOf m
  let w : BitVec 64 := BitVec.ofNat 64 (src + 2 ^ 4 * lane + 2 ^ 9 * pstateNum x.state + 2 ^ 16 * (s.now.toNat % 2 ^ 48))
  let s : State := if x.auto then s else { s with power := { s.power with lastwake := w } }
  s.setPm m { x with trans := .exit (firstExitStep x.state), began := s.clock, stepAt := s.clock, abort := none, late := false }

def State.beginEntry (s : State) (m : PMach) (target : PState) (auto : Bool) : State :=
  let x := s.pmOf m
  s.setPm m { x with
    trans := .entry target (firstEntryStep x.state), began := s.clock, stepAt := s.clock, abort := none, auto := auto
    forced := false, late := false }

/-- A wake source acts on one machine: an entry is to abort, a state is left (R545, R546). -/
def State.wakeOne (s : State) (m : PMach) (src lane : Nat) : State :=
  let x := s.pmOf m
  match x.trans with
  | .entry _ _ => s.setPm m { x with abort := some (x.abort.getD src) }
  | .none => if x.state = .active then s else s.beginExit m src lane
  | _ => s

/-- A wake source (R546): on the device in SEDGE or lower or on its way there; else on the tiles in an explicit REED. -/
def State.wake (s : State) (src lane : Nat) : State :=
  let d := s.power.dev
  if d.trans ≠ .none || d.state ≠ .active then s.wakeOne .device src lane
  else pmTiles.foldl (fun s m => if (s.pmOf m).auto then s else s.wakeOne m src lane) s

/-- The state a machine would leave for a wake: the target of a running entry, or the state it is in (R548). -/
def PMachine.wakeFrom (x : PMachine) : PState :=
  match x.trans with
  | .entry target _ => target
  | _ => x.state

/-- A wake source that is active in SEDGE, FEN and BOG (R546). -/
def State.wakeFromLow (s : State) (src lane : Nat) : State :=
  match s.power.dev.wakeFrom with
  | .sedge | .fen | .bog => s.wake src lane
  | _ => s

/-- Who may request a state (R538); a TSQ asks for REED on its own tile alone. -/
def mayRequest (p : PReq) (target : PState) (mask : Nat) : Bool :=
  match target, p with
  | .active, _ => true
  | .reed, .seq k => k = 4 || mask = 2 ^ k
  | .sedge, .seq k => k = 4
  | .fen, .mgmt | .fen, .host => true
  | .bog, .host | .peat, .host => true
  | _, _ => false

/-- A request becomes the pending one, replacing another (R545). -/
def State.setPend (s : State) (m : PMach) (target : PState) (p : PReq) : State :=
  let x := s.pmOf m
  let s := if x.pend.isSome then (s.bump (cPwr 2)).signal 115 else s
  s.setPm m { x with pend := some (target, p) }

/-- One machine takes a request (R545); one for REED makes an automatic REED an explicit one, with step 13 alone left to do (R540,
R542). -/
def State.requestOne (s : State) (m : PMach) (target : PState) (p : PReq) : State :=
  let x := s.pmOf m
  match x.trans with
  | .entry to_ _ =>
    if target = to_ then s
    else if pstateNum target < pstateNum to_ then
      let s := if target = .active && x.pend.isNone then s else s.setPend m target p
      s.wakeOne m 6 0
    else s.setPend m target p
  | .exit _ | .rollback _ => s.setPend m target p
  | .none =>
    if target = x.state then (if x.auto then s.beginEntry m target false else s)
    else if pstateNum x.state < pstateNum target then s.beginEntry m target false
    else
      let s := if target = .active then s else s.setPend m target p
      s.beginExit m 6 0

/-- A REED request reaches a tile: while the device is in SEDGE or lower it sets the state the tile takes on exit (R539). -/
def State.requestReed (s : State) (m : PMach) (p : PReq) : State :=
  if s.atOrBelow .sedge then s.setPm m { s.pmOf m with state := .reed, trans := .none, auto := false }
  else s.requestOne m .reed p

/-- A request that its party may make and whose wake tick is far enough away (R538, R539). -/
def State.request (s : State) (target : PState) (p : PReq) (mask : Nat) : State :=
  let named := pmTiles.filter fun m => match m with
    | .tile t => nbit mask t.val
    | .device => false
  match target with
  | .reed => named.foldl (fun s m => s.requestReed m p) s
  | .active =>
    let d := s.power.dev
    if d.trans ≠ .none || d.state ≠ .active then s.requestOne .device .active p
    else named.foldl (fun s m => s.requestOne m .active p) s
  | _ => s.requestOne .device target p

/-- Arms the wake tick (R539). -/
def State.armWake (s : State) (w : BitVec 56) : State := { s with power := { s.power with armed := true, wakeTick := w } }

/-- The wake tick lies too close to the request for the state's entry and exit bounds (R539). -/
def State.wakeTooNear (s : State) (target : PState) (w : BitVec 56) : Bool :=
  decide (w.toNat < s.now.toNat + entryBound target + exitBound target)

/-- The exit bound that decides when the armed tick starts the exit; a tile in an explicit REED counts while the device is in
ACTIVE (R548). -/
def State.wakeLead (s : State) : Nat :=
  let d := s.power.dev.wakeFrom
  if d ≠ .active then exitBound d
  else if pmTiles.any fun m => !(s.pmOf m).auto && (s.pmOf m).wakeFrom = .reed then exitBound .reed else 0

/-! ## Window A in FEN (R458) -/

/-- Blocks other than PWR, MODE, EV and TIME answer. -/
def State.blocksOn (s : State) : Bool := !s.atOrBelow .fen

/-- A host request that FEN refuses wakes the device (R458, R546 source 4). -/
def State.hostWake (s : State) : State :=
  if (s.reg rPwrWakecfg).getLsbD 0 && s.power.dev.wakeFrom = .fen then s.wake 4 0 else s

/-- An access to window A, outside the blocks that answer in every state, of an initiator. -/
def State.regDo (s : State) (w : Initiator) (f : State → State) : State :=
  if s.blocksOn then f s else (if w = .host then s.hostWake else s).error

/-- The fence unit that holds the register at an offset of window A (R521, R584): the memory island holds MEM, DMA and SLOT, the host
island UPD, NV and the MSI-X table; the blocks of the always-on island and of the analogue units have none. -/
def regUnit (off : Nat) : Option Nat :=
  if 0x8000 ≤ off && off < 0xA000 then some 9
  else if 0xA000 ≤ off && off < 0x14000 then some 7
  else if 0x14000 ≤ off && off < 0x18000 then some 8
  else if 0x18200 ≤ off && off < 0x18240 then some 6
  else if 0x18000 ≤ off && off < 0x1A000 then some 5
  else if 0x1A000 ≤ off && off < 0x1A400 then some (16 + (off - 0x1A000) / 64)
  else if 0x40000 ≤ off && off < 0x50000 then some 4
  else if 0x50000 ≤ off && off < 0x58000 then some ((off - 0x50000) / 0x2000)
  else if 0x60000 ≤ off && off < 0xA0000 then some ((off - 0x60000) / 0x10000)
  else if 0xA0000 ≤ off && off < 0xB0000 then some ((off - 0xA0000) / 0x4000)
  else if 0xFE000 ≤ off then some 9
  else none

/-- The register's unit is fenced; the ASQ pair lies in the sequencer island. -/
def State.regFenced (s : State) (off : Nat) : Bool :=
  match regUnit off with
  | some u => s.isFenced u || (u = 6 && s.isFenced 5)
  | none => false

/-- A command that writes a register of a unit: an error response while the unit is fenced (R36). -/
def unitAct (w : Initiator) (off : Nat) (f : State → State) : State → Host.Outcome State Fault Refusal :=
  act fun s => if s.regFenced off then s.error else s.regDo w f

/-- A command that writes such a register. -/
def regAct (w : Initiator) (f : State → State) : State → Host.Outcome State Fault Refusal := act fun s => s.regDo w f

end Sys2Proof.Machine
end

