-- ==== Sys2Proof/Machine/Beam.lean ====
section
/-! DEFINITION. Beam tables: entries and regions, writes, commits and builds, entries that fail their check, the engine
commit queue, and alignment factors (R224-R240, R248). -/

namespace Sys2Proof.Machine
open Sys2Proof

/-! ## Regions, banks and entries (R224-R226, R230) -/

def State.regionSt (s : State) (d : Dir) (r : Region) : RegionSt :=
  tget (fun _ => {}) s.beam.regions (2 * dirNum d + regionNum r)
def State.setRegion (s : State) (d : Dir) (r : Region) (x : RegionSt) : State :=
  { s with beam := { s.beam with regions := tput (fun _ => {}) (2 * dirNum d + regionNum r) x s.beam.regions } }

def RegionSt.bankSt (x : RegionSt) : Bank → BankState
  | .A => x.a
  | .B => x.b
def RegionSt.setBank (x : RegionSt) (b : Bank) (v : BankState) : RegionSt :=
  match b with
  | .A => { x with a := v }
  | .B => { x with b := v }
def RegionSt.recState (x : RegionSt) : Bank → BuildState
  | .A => x.recA
  | .B => x.recB
def RegionSt.setRec (x : RegionSt) (b : Bank) (v : BuildState) : RegionSt :=
  match b with
  | .A => { x with recA := v }
  | .B => { x with recB := v }

/-- First entry of the engine region (R226). -/
def State.split (s : State) (d : Dir) : Nat := 256 * fld (s.reg rBeamRegion) (8 * dirNum d) 6
def State.regionOfEntry (s : State) (d : Dir) (e : Nat) : Region := if e < s.split d then .baseband else .engine
/-- First entry of a region, and how many it has. -/
def State.regionSpan (s : State) (d : Dir) : Region → Nat × Nat
  | .baseband => (0, s.split d)
  | .engine => (s.split d, 8192 - s.split d)

def dirtyKey (d : Dir) (b : Bank) (e : Nat) : Nat := 8192 * (2 * dirNum d + bankNum b) + e
def State.isDirty (s : State) (d : Dir) (b : Bank) (e : Nat) : Bool := tget (fun _ => false) s.beam.dirty (dirtyKey d b e)
def State.setDirty (s : State) (d : Dir) (b : Bank) (e : Nat) (v : Bool) : State :=
  { s with beam := { s.beam with dirty := tput (fun _ => false) (dirtyKey d b e) v s.beam.dirty } }

/-- The bank a symbol of air time `a` reads: that of a built commit whose time it has reached, the HELD bank before its commit's
time, else the LIVE one (R85, R230). -/
def RegionSt.bankFor (x : RegionSt) (a : Air) : Bank :=
  if x.pend.any fun c => c.built && decide (0 ≤ airDiff a c.air) then (x.pend.map BeamCommit.bank).getD .A
  else if x.a = .held && decide (airDiff a x.heldT < 0) then .A
  else if x.b = .held && decide (airDiff a x.heldT < 0) then .B
  else if x.a = .live then .A else .B

def State.entryBytes (s : State) (d : Dir) (b : Bank) (e : Nat) : Bytes := s.bytesAt (beamEntry d b e) 272
/-- Address of an entry's master in S0 (R228). -/
def State.masterAddr (s : State) (d : Dir) (b : Bank) (e : Nat) : Nat :=
  s.areaBase rMemBeambase + 0x400000 * (2 * dirNum d + bankNum b) + 272 * e

/-- The entry contributes to a symbol: VALID, and not waiting for its refetch (R85). -/
def State.entryUsable (s : State) (d : Dir) (e : Nat) (a : Air) : Bool :=
  let b := (s.regionSt d (s.regionOfEntry d e)).bankFor a
  pbit (s.entryBytes d b e) 0 && !(dirtyKey d b e ∈ s.beam.failing)

/-- PMASK of the entry a symbol reads. -/
def State.entryMask (s : State) (d : Dir) (e : Nat) (a : Air) : Nat :=
  pbits (s.entryBytes d ((s.regionSt d (s.regionOfEntry d e)).bankFor a) e) 32 64

/-- Entries that a declaration's list names for a layer, one per weight group (R77). -/
def layerEntries (r : BitVec 128) (rbglog : Nat) (list : Bytes) (layer : Nat) : List Nat :=
  (List.range (recG r rbglog)).map fun g => pbits list (16 * (g * fld r 22 6 + layer)) 13

/-! ## Writes (R227, R228) -/

/-- The region takes writes from the initiator (R227). -/
def regionTakes (r : Region) (w : Initiator) : Bool :=
  match r, w with
  | .baseband, .vc _ => false
  | .baseband, _ => true
  | .engine, .vc _ => true
  | .engine, .mgmt => true
  | .engine, _ => false

/-! ## Building an entry (R233, R234) -/

/-- Integer square root, rounded down. -/
def isqrt (n : Nat) : Nat := (List.range 80).foldl (fun r i => if (r + 2 ^ (79 - i)) * (r + 2 ^ (79 - i)) ≤ n then r + 2 ^ (79 - i) else r) 0

/-- The square root of p / q (p ≥ q > 0) as a 24-bit mantissa rounded to nearest even, and its scale: root = m / 2^s. -/
def rootF (p q : Nat) : Nat × Nat :=
  let s := ((List.range 24).filter fun i => isqrt (p * 4 ^ i / q) < 2 ^ 24).foldl max 0
  let r := isqrt (p * 4 ^ s / q)
  let lhs := 4 * p * 4 ^ s
  let rhs := (2 * r + 1) * (2 * r + 1) * q
  (if lhs > rhs || (lhs = rhs && r % 2 = 1) then r + 1 else r, s)

def fits16 (x : Int) : Bool := decide (-32768 ≤ x ∧ x ≤ 32767)

/-- Weight `p` of an entry. -/
def entryWeight (b : Bytes) (p : Nat) : Int × Int := (int16 (pbits b (128 + 32 * p) 16), int16 (pbits b (144 + 32 * p) 16))

/-- The current build state of a direction (R233). -/
def State.buildState (s : State) (d : Dir) : BuildState where
  out := match d with | .tx => s.txOut | .rx => s.rxOut
  align := (List.range 64).foldl (fun m p => tput (fun _ => 0x4000) p (s.reg (rBeamAlign (dirNum d) p)) m) []

/-- The reserved bits of an entry's header are zero (R224). -/
def entryHeaderOk (b : Bytes) : Bool := pbits b 5 3 = 0 && pbits b 20 12 = 0 && pbits b 96 32 = 0

/-- What a build writes for a master entry: the bank's bytes, clamped rails, and whether a reserved bit was set (R225, R234). -/
def buildEntry (m : Bytes) (st : BuildState) : Bytes × Nat × Bool :=
  if !entryHeaderOk m then (setPay16 m, 0, true)
  else if !pbit m 0 then (m, 0, false)
  else
    let mask := pbits m 32 64
    let inM := fun p => nbit mask p
    let inS := fun p => nbit mask p && !st.out.getLsbD p
    let sq := fun p => let w := entryWeight m p; (w.1 * w.1 + w.2 * w.2).toNat
    let sum := fun (f : Nat → Bool) => (((List.range 64).filter f).map sq).sum
    let pm := sum inM
    let ps := sum inS
    let smask := (((List.range 64).filter inS).map fun p => 2 ^ p).sum
    let hdr := fun (valid c msk : Nat) =>
      leBytes 4 (leNat (m.take 4) - pbits m 0 1 - pbits m 1 4 * 2 + valid + c * 2) ++ leBytes 8 msk ++ leBytes 4 0
    if ps = 0 then (hdr 0 (pbits m 1 4) smask ++ List.replicate 256 0, 0, false)
    else
      let (f, sh) := rootF pm ps
      let c := pbits m 1 4
      let v := (List.range 64).map fun p =>
        if inS p then
          let w := entryWeight m p
          let a := tget (fun _ => (0x4000 : BitVec 32)) st.align p
          let ar := sfld a 0 16
          let ai := sfld a 16 16
          ((w.1 * ar - w.2 * ai) * f, (w.1 * ai + w.2 * ar) * f)
        else ((0 : Int), (0 : Int))
      let rnd := fun (k : Nat) (x : Int) => roundShift x (14 + sh + k)
      let okAt := fun k => v.all fun x => fits16 (rnd k x.1) && fits16 (rnd k x.2)
      let k := ((List.range 64).find? okAt).getD 63
      let k' := min k c
      let rails := v.flatMap fun x => [rnd k' x.1, rnd k' x.2]
      (hdr 1 (c - k') smask ++ rails.flatMap fun x => le16 (sat16 x), (rails.filter fun x => clampsN 16 x).length, false)
where
  /-- A copy of the master with VALID cleared (R225). -/
  setPay16 (m : Bytes) : Bytes := leBytes 1 (pbits m 1 7 * 2) ++ m.drop 1

/-- A device write into a bank, past the rules of R227. -/
def State.putEntry (s : State) (d : Dir) (b : Bank) (e : Nat) (v : Bytes) : State :=
  let lo := beamEntry d b e
  let s := (List.range 272).foldl (fun s i => (s.setErr (lo + i) .good).markValid (lo + i)) s
  s.setBytes lo v

/-- The master of an entry, from S0, or from S1 when S0 fails (R236, R495). -/
def State.readEntryMaster (s : State) (d : Dir) (b : Bank) (e : Nat) : Option Bytes × State :=
  match s.memRead (s.masterAddr d b e) 272 with
  | (.ok v, s) => (some v, s)
  | (_, s) => (none, s)

/-- Rebuilds an entry from its master with a build state; `raw` copies a DIRTY entry unchanged. With both copies failing
the entry is zero (R234, R236). -/
def State.buildOne (s : State) (d : Dir) (b : Bank) (st : BuildState) (raw : Bool) (e : Nat) : State :=
  match s.readEntryMaster d b e with
  | (none, s) => s.putEntry d b e (List.replicate 272 0)
  | (some m, s) =>
    if raw then s.putEntry d b e m
    else
      let (v, sat, fmt) := buildEntry m st
      let s := (s.putEntry d b e v).bumpBy (cBeam 3) sat
      if fmt then s.bump (cBeam 2) else s

/-- The refetch of an entry that fails its line check: rebuilt with the state recorded for its region, or copied unchanged where it is
DIRTY in a bank that is FREE or COMMITTING, counted in MEM_REPAIRCNT with event 106. The read of a master that fails in both copies
counts itself (`State.memRead`; R236). -/
def State.refetchEntry (s : State) (d : Dir) (b : Bank) (e : Nat) : State :=
  let x := s.regionSt d (s.regionOfEntry d e)
  let free := x.bankSt b = .free || x.bankSt b = .committing
  let fails := (s.readEntryMaster d b e).1.isNone
  let s := s.buildOne d b (x.recState b) (free && s.isDirty d b e) e
  if fails then s else (s.bump (cMem 2)).signal 106

/-- A write that covers lines of a bank in part repairs those that fail their check first (R490, R497). -/
def State.mendEntries (s : State) (d : Dir) (b : Bank) (off n : Nat) : State :=
  let a := beamBase d b + off
  let torn := (checkedUnits (.beam d b) a n).filter fun u => s.errAt u = .failing && !coversLine a n u
  let es := torn.flatMap fun u => [(u - beamBase d b) / 272, (u + 63 - beamBase d b) / 272]
  es.dedup.foldl (fun s e => s.refetchEntry d b e) s

/-- A write to a bank: into the bank, the master and the mirror, with DIRTY set; or refused (R227, R228). -/
def State.beamWrite (s : State) (w : Initiator) (d : Dir) (b : Bank) (off : Nat) (data : Bytes) : State :=
  let es := (List.range ((off + data.length + 271) / 272 - off / 272)).map (off / 272 + ·)
  let ok := es.all fun e => regionTakes (s.regionOfEntry d e) w && (s.regionSt d (s.regionOfEntry d e)).bankSt b = .free
  let m := s.masterAddr d b 0 + off
  let s := if ok && s.memPowered .dram && !s.memFenced .dram then s.mendEntries d b off data.length else s
  let written := do
    let s ← s.memWrite (beamBase d b + off) data
    let s ← s.memWrite m data
    s.memWrite (m + 0x100000000) data
  match ok && s.memPowered .dram && !s.memFenced .dram && decide (m + data.length ≤ 0x100000000), written with
  | true, some s => (es.foldl (fun s e => s.setDirty d b e true) s).done
  | _, _ => (s.bump (cBeam 9)).error

/-- BEAM_TABLE_WRITE (R227, R228): a write of any initiator to a beam-table bank. -/
def execBeamTableWrite (w : Initiator) (addr : Addr) (data : Bytes) : State → Host.Outcome State Fault Refusal :=
  act fun s =>
    match accessRegion addr.toNat data.length with
    | some (.beam d b) =>
      if s.memBelow .fen || s.memFenced (.beam d b) then s.error
      else s.beamWrite w d b (addr.toNat - beamBase d b) data
    | _ => s.error

/-! ## Commits (R231-R235) -/

/-- The entries a commit's build covers, in order (R233). -/
def State.covered (s : State) (d : Dir) (r : Region) (x : BeamCommit) : List Nat :=
  let (lo, n) := s.regionSpan d r
  ((List.range n).map (lo + ·)).filter fun e => x.all || s.isDirty d x.bank e

/-- Rebuilds the first `n` entries that the commit covers, and clears their DIRTY bits. -/
def State.runBuild (s : State) (d : Dir) (r : Region) (x : BeamCommit) (n : Nat) : State :=
  ((s.covered d r x).take n).foldl (fun s e => (s.buildOne d x.bank x.state false e).setDirty d x.bank e false) s

/-- How many entries the builder has done by now: one every 8 tk (R235; log entry 9). -/
def State.buildDone (s : State) (x : BeamCommit) : Nat := min x.count ((s.now.toNat - x.began) / 8)

/-- A pending commit is discarded: its bank is FREE again, and what has been rebuilt stays (R230). -/
def State.abandonCommit (s : State) (d : Dir) (r : Region) : State :=
  let x := s.regionSt d r
  match x.pend with
  | none => s
  | some c =>
    let s := if c.built then s else s.runBuild d r c (s.buildDone c)
    s.setRegion d r { (x.setBank c.bank .free) with pend := none }

inductive CommitFate where
  | accepted
  | noEffect
  | refused
  deriving DecidableEq, Repr

/-- What a commit meets (R231). -/
def RegionSt.fate (x : RegionSt) (b : Bank) : CommitFate :=
  match x.pend with
  | some c => if c.bank = b then .noEffect else .refused
  | none =>
    match x.bankSt b with
    | .live => .noEffect
    | .free => .accepted
    | _ => .refused

/-- A commit of one direction with its air time is judged against the region's state, and its build starts at once, beside one of the
direction's other region: R235 promises that a commit with its lead meets no overrun whatever the other region builds (DEDUCED, log
entry 9). -/
def State.commitOne (s : State) (d : Dir) (r : Region) (b : Bank) (a : Air) (g : Tag) (core : Option Nat) : State × CommitFate :=
  let x := s.regionSt d r
  match x.fate b with
  | .accepted =>
    let st := s.buildState d
    let c : BeamCommit := { bank := b, air := a, mu := g.mu.toNat, tag := g, core := core, began := s.now.toNat
                            count := 0, all := decide (st ≠ x.recState b), built := false, state := st }
    let n := (s.covered d r c).length
    let x := x.setBank b .committing
    (s.setRegion d r (if n = 0 then { x.setRec b st with pend := some { c with built := true } }
      else { x with pend := some { c with count := n } }), .accepted)
  | f => (s, f)

/-- The directions a commit's payload names (R231, R342). -/
def commitDirs (b : Bytes) : List Dir := (if pbit b 0 then [Dir.tx] else []) ++ (if pbit b 1 then [Dir.rx] else [])

/-- The item for one direction of a commit. -/
def commitFor (it : Item) : Dir → Item
  | .tx => { it with body := leBytes 8 1 }
  | .rx => { it with body := leBytes 8 2 }

/-- A BEAM_COMMIT that passed the common checks: each direction is a commit of its own, late ones as R50 and R51 say. -/
def State.takeCommit (s : State) (it : Item) (pc : BitVec 19) : State :=
  let r := if pbit it.body 2 then Region.engine else .baseband
  (commitDirs it.body).foldl (fun s d =>
    match s.placeCtl .bf 0 (commitFor it d) pc with
    | (s, none) => s
    | (s, some x) =>
      match s.commitOne d r (bankOf it.tag.bank.toNat) x.act x.item.tag none with
      | (s, .refused) => (s.bump (cBeam 8)).refuseSeq it.tag.source pc
      | (s, _) => s) s

/-- BEAM_COMMIT (R231). -/
def execBeamCommit (g : Tag) (body : Bytes) : State → Host.Outcome State Fault Refusal :=
  act fun s =>
    let it := mkItem kBeamCommit g body
    s.arrive .bf 0 it fun pc s => s.takeCommit it pc

/-- An engine commit that is not applied: counted, and VCn_EVCAUSE.ENGLATE set (R240, R351). -/
def State.engineLate (s : State) (core : Nat) : State := (s.bump (cBeam 10)).vcCause core 3

/-- A write of BEAM_ECQ (R239): a vector core's becomes an ENGINE_COMMIT item, or is refused. -/
def State.writeEcq (s : State) (w : Initiator) (v : BitVec 64) : State :=
  match w with
  | .vc n =>
    if fld v 40 2 = 0 || 4 < fld v 46 3 || fld v 51 13 ≠ 0 || 16 ≤ s.beam.ecq.length then (s.bump (cBeam 9)).error
    else
      let g : Tag := sealTag { air := v.truncate 40, stream := BitVec.ofNat 8 (160 + fld v 43 3), kind := kEngineCommit
                               carrier := BitVec.ofNat 2 (fld v 49 2), bank := BitVec.ofNat 1 (fld v 42 1)
                               mu := BitVec.ofNat 3 (fld v 46 3), length := 8, source := 5 }
      ({ s with beam := { s.beam with ecq := s.beam.ecq ++ [⟨n.val, ⟨g, leBytes 8 (fld v 40 2), 0⟩⟩] } } : State).done
  | _ => s.error

/-- BEAM_ECQ_WRITE (R239). -/
def execBeamEcqWrite (w : Initiator) (v : BitVec 64) : State → Host.Outcome State Fault Refusal :=
  unitAct w 0x40020 fun s => s.writeEcq w v

/-- ENGINE_COMMIT (R240): the oldest item of the commit queue is judged, each direction on its own. -/
def execEngineCommit : State → Host.Outcome State Fault Refusal :=
  act fun s =>
    match s.beam.ecq with
    | [] => s
    | e :: es =>
      if s.gated .bf 0 then s
      else
        let s : State := { s with beam := { s.beam with ecq := es } }
        s.arrive .bf 0 e.item fun _ s =>
          (commitDirs e.item.body).foldl (fun s d =>
            if (s.lateBy .bf 0 (commitFor e.item d)).isSome then (s.bump (domCounter .bf 0 .latecnt)).engineLate e.core
            else
              match s.commitOne d .engine (bankOf e.item.tag.bank.toNat) e.item.tag.air e.item.tag (some e.core) with
              | (s, .refused) => (s.bump (cBeam 8)).engineLate e.core
              | (s, _) => s) s

/-- The tick at which a commit's build ends (R235). -/
def BeamCommit.end_ (c : BeamCommit) : Nat := c.began + 8 * c.count

/-- The build that a region runs. -/
def State.buildOf (s : State) (d : Dir) (r : Region) : Option (Region × BeamCommit) :=
  match (s.regionSt d r).pend with
  | some c => if c.built then none else some (r, c)
  | none => none

/-- The running build of a direction: that of its two regions' which ends first. -/
def State.running (s : State) (d : Dir) : Option (Region × BeamCommit) :=
  match s.buildOf d .baseband, s.buildOf d .engine with
  | some x, some y => if y.2.end_ < x.2.end_ then some y else some x
  | some x, none => some x
  | none, y => y

/-- BUILD_COMPLETE (R233): the build of a region ends, and its build state is recorded. -/
def execBuildComplete (d : Dir) : State → Host.Outcome State Fault Refusal :=
  act fun s =>
    match s.running d with
    | none => s
    | some (r, c) =>
      if s.now.toNat < c.end_ then s
      else
        let s := s.runBuild d r c c.count
        let x := s.regionSt d r
        s.setRegion d r { (x.setRec c.bank c.state) with pend := some { c with built := true } }

/-- The minimum lead that bounds a build (R235). -/
def State.buildLead (s : State) (d : Dir) (c : BeamCommit) : Nat :=
  let (a, b) := leadRow .bf d
  a + b * s.tsymOf d c.tag.carrier.toNat c.mu c.air

/-- BUILD_OVERRUN (R235, R240): a build that does not end by its deadline. -/
def execBuildOverrun (d : Dir) : State → Host.Outcome State Fault Refusal :=
  act fun s =>
    let lates := [Region.baseband, Region.engine].filter fun r =>
      match (s.regionSt d r).pend with
      | some c => !c.built && decide (lead c.air s.now ≤ (s.buildLead d c : Int)) &&
          decide (fullTick c.air s.now - s.buildLead d c < (c.end_ : Int))
      | none => false
    lates.foldl (fun s r =>
      match (s.regionSt d r).pend with
      | none => s
      | some c =>
        let s := (s.bump (cBeam 11)).bump (cBeam 1)
        match c.core, d with
        | some n, _ => (s.abandonCommit d r).engineLate n
        | none, .rx => s.abandonCommit d r
        | none, .tx =>
          let car := c.tag.carrier.toNat
          let m := s.buildLead d c
          let to_ := s.firstWithLead .tx car (m + 1)
          let s := if (s.fftAt .tx car (fullTick c.air s.now)).cfg.isSome then s.blankSpan 0xFFFF allTiles car (fullTick c.air s.now) to_ else s
          s.setRegion d r { s.regionSt d r with pend := some { c with air := airOf to_, tag := sealTag { c.tag with late := true } } }) s

/-- The first symbol of any carrier that is on, at or after an air time; that time itself where there is none (R230). -/
def State.firstSymAny (s : State) (d : Dir) (a : Air) : Int :=
  let t := fullTick a s.now
  let xs := ([0, 1, 2, 3].filter fun c => (s.fftAt d c t).cfg.isSome && (s.islCarAt d c t).on).map fun c => s.nextSymAt d c t
  match xs with
  | [] => t
  | x :: xs => xs.foldl min x

/-- The bank of a commit goes LIVE, and the other one HELD (R230). -/
def State.goLive (s : State) (d : Dir) (r : Region) (c : BeamCommit) : State :=
  let x := s.regionSt d r
  let other := bankOther c.bank
  let x := if x.bankSt other = .live then x.setBank other .held else x
  s.setRegion d r { (x.setBank c.bank .live) with pend := none, heldT := c.air }

/-- BANK_RELEASE (R230): the last symbol that reads the HELD bank has been finished; in receive not before its commit's
time. -/
def execBankRelease (d : Dir) (r : Region) : State → Host.Outcome State Fault Refusal :=
  act fun s =>
    let x := s.regionSt d r
    if d = .rx && decide (lead x.heldT s.now > 0) then s
    else
      let x := if x.a = .held then x.setBank .A .free else x
      let x := if x.b = .held then x.setBank .B .free else x
      s.setRegion d r x

/-! ## Entries that fail their line check (R236) -/

/-- ENTRY_LINE_FAILURE (R236): the refetch starts; until it completes the entry contributes zero (R85). -/
def execEntryLineFailure (d : Dir) (b : Bank) (e : Entry) : State → Host.Outcome State Fault Refusal :=
  act fun s =>
    let k := dirtyKey d b e.val
    if k ∈ s.beam.failing then s else { s with beam := { s.beam with failing := s.beam.failing ++ [k] } }

/-- ENTRY_REFETCH_COMPLETE (R236). -/
def execEntryRefetchComplete (d : Dir) (b : Bank) (e : Entry) : State → Host.Outcome State Fault Refusal :=
  act fun s =>
    let k := dirtyKey d b e.val
    if k ∉ s.beam.failing then s
    else
      let s : State := { s with beam := { s.beam with failing := s.beam.failing.filter (· ≠ k) } }
      s.refetchEntry d b e.val

/-- Exit from FEN (R237): every entry of every bank is restored from its master; entries whose master and bank hold nothing
are zero either way. -/
def State.restoreBeams (s : State) : State :=
  [Dir.tx, Dir.rx].foldl (fun s d => [Bank.A, Bank.B].foldl (fun s b =>
    let m := s.masterAddr d b 0
    let es := (s.mem.cells.filterMap fun x =>
      if m ≤ x.1 && x.1 < m + 8192 * 272 then some ((x.1 - m) / 272)
      else if beamBase d b ≤ x.1 && x.1 < beamBase d b + 8192 * 272 then some ((x.1 - beamBase d b) / 272) else none).dedup
    es.foldl (fun s e => s.buildOne d b ((s.regionSt d (s.regionOfEntry d e)).recState b) (s.isDirty d b e) e) s) s) s

/-! ## Alignment factors (R248) -/

/-- A write of BEAM_ALIGN[d][p] (R248). -/
def State.writeAlign (s : State) (d : Dir) (p : Nat) (v : BitVec 32) : State :=
  if (s.running d).isSome then s.error
  else
    let r := rBeamAlign (dirNum d) p
    let gen := rBeamAligngen (dirNum d)
    let s := if s.reg r ≠ v then s.setReg gen (BitVec.ofNat 32 (((s.reg gen).toNat + 1) % 65536)) else s
    (s.setReg r v).done

/-- BEAM_ALIGN_WRITE (R248). -/
def execBeamAlignWrite (w : Initiator) (d : Dir) (p : Path) (v : BitVec 32) : State → Host.Outcome State Fault Refusal :=
  unitAct w 0x40400 fun s => s.writeAlign d p.val v

/-- BEAM_STAT (R249). -/
def bankCode : BankState → Nat
  | .free => 0
  | .committing => 1
  | .live => 2
  | .held => 3

def State.beamStat (s : State) : BitVec 64 :=
  let st := ([Dir.tx, .rx].flatMap fun d => [Region.baseband, .engine].flatMap fun r => [Bank.A, .B].map fun b =>
    bankCode ((s.regionSt d r).bankSt b) * 2 ^ (8 * dirNum d + 4 * regionNum r + 2 * bankNum b)).sum
  let left := fun (d : Dir) => ([Region.baseband, Region.engine].map fun r =>
    match s.buildOf d r with
    | some (_, c) => c.count - s.buildDone c
    | none => 0).sum
  BitVec.ofNat 64 (st + 2 ^ 16 * (s.running .tx).isSome.toNat + 2 ^ 17 * (s.running .rx).isSome.toNat +
    2 ^ 32 * left .tx + 2 ^ 48 * left .rx)

end Sys2Proof.Machine
end

