-- ==== Sys2Proof/Machine/Events.lean ====
section
/-! DEFINITION. The commands of the event unit and the watchdog's register (R24, R519, R528). -/

namespace Sys2Proof.Machine
open Sys2Proof

/-- EVENT_REPEAT_MESSAGE (R24): the message in flight has been delivered; a count held for it leaves at once as a further
message, with the routing of now (R519). -/
def execEventRepeatMessage (e : Event) : State → Host.Outcome State Fault Refusal :=
  act fun s =>
    let r := s.evOf e.val
    match r.flight with
    | none => s
    | some _ =>
      if r.rep = 0 then s.setEv e.val { r with flight := none }
      else
        let route := s.reg (rEvRoute e.val)
        (s.setEv e.val { r with flight := some route, rep := 0 }).deliver e.val route r.rep.toNat

/-- EV_PEND_CLEAR (R519): bits of the mask clear; a bit whose event occurs in the same cycle stays set. `hw` names those
occurrences, of events 64 j + b for the half the write names. -/
def State.writeEvPend (s : State) (hi : Bool) (mask : BitVec 64) : State :=
  let off := if hi then 64 else 0
  ({ s with evPend := s.evPend &&& ~~~((mask.zeroExtend 128) <<< off) } : State).done

def execEvPendClear (w : Initiator) (hi : Bool) (mask hw : BitVec 64) : State → Host.Outcome State Fault Refusal :=
  act fun s =>
    let _ := w
    let off := if hi then 64 else 0
    (s.writeEvPend hi mask).signalAll ((bitsSet hw.toNat 64).map (off + ·))

/-! ## The watchdog (R528) -/

def badKick (s : State) : State :=
  { s with faultlog := setFld s.faultlog 8 8 (min 255 (fld s.faultlog 8 8 + 1)) }

/-- A write to EV_WDOG. -/
def State.writeWdog (s : State) (v : BitVec 32) : State :=
  let kick := fld v 16 8
  if kick ≠ 0 ∧ kick ≠ 0x5A then badKick s
  else
    let old := s.reg rEvWdog
    let s := s.setReg rEvWdog (setBit (setFld old 0 16 (fld v 0 16)) 24 (old.getLsbD 24 || v.getLsbD 24))
    if kick = 0x5A ∨ (v.getLsbD 24 ∧ !old.getLsbD 24) then { s with wdogAt := s.clock } else s

/-- WATCHDOG_KICK (R528): a write of EV_WDOG with KICK 0x5A. -/
def execWatchdogKick (w : Initiator) (v : BitVec 32) : State → Host.Outcome State Fault Refusal :=
  act fun s =>
    let _ := w
    (s.writeWdog (setFld v 16 8 0x5A)).done

/-- The period in ticks. -/
def State.wdogPeriod (s : State) : Nat := 65536 * max 1 (fld (s.reg rEvWdog) 0 16)

end Sys2Proof.Machine
end

