-- ==== Sys2Proof/Machine/Slots.lean ====
section
/-! DEFINITION. Slots of the shared window and their ownership, window C's base, and the PCIe endpoint's MSI-X and reset
(R456, R460-R467, R471, R473). -/

namespace Sys2Proof.Machine
open Sys2Proof

def State.slotOf (s : State) (i : Nat) : SlotSt := tget (fun _ => {}) s.slots i
def State.setSlot (s : State) (i : Nat) (x : SlotSt) : State := { s with slots := tput (fun _ => {}) i x s.slots }
def State.setReady (s : State) (i : Nat) (b : Bool) : State := { s with slotReady := setBit s.slotReady i b }

def ownerCode : Owner → Nat
  | .free => 0
  | .host => 1
  | .device => 2

/-- SLOT_FLAG[i] (R473). -/
def State.slotFlag (s : State) (i : Nat) : BitVec 64 :=
  let x := s.slotOf i
  BitVec.ofNat 64 (ownerCode x.owner + x.torn.toNat * 4 + x.pend.toNat * 8 + 2 ^ 16 * x.seq.toNat + 2 ^ 32 * x.length.toNat)

/-- The parties that write slots as the host: service-SPI writes are treated as host writes (R569). -/
def actsAsHost : Initiator → Bool
  | .host | .spi => true
  | _ => false

/-- The device initiators of R463. -/
def isDeviceInit : Initiator → Bool
  | .mgmt | .seq _ | .vc _ | .dma _ => true
  | _ => false

/-- A write to the flag or the slot that the rules do not apply: counted, and an error response to a device initiator
(R463, R464). -/
def State.ignoreSlot (s : State) (w : Initiator) : State :=
  let s := s.bump (cSlot 0)
  if isDeviceInit w then s.error else s.done

/-- The header's SEQ as it reads; none while it does not pass its check. -/
def State.headerSeq (s : State) (i : Nat) : Option Nat :=
  let a := slotAddr i
  if s.errAt a = .failing || s.errAt (a + 1) = .failing then none else some (leNat (s.bytesAt a 2))

/-- The header matches the flag: the slot is DEVICE's and ready (R465). -/
def State.slotAccept (s : State) (i : Nat) : State := (s.setSlot i { s.slotOf i with pend := false }).setReady i true

/-- A flag write that a party makes, by the transitions of R463. -/
def State.writeSlotFlag (s : State) (w : Initiator) (i : Nat) (v : BitVec 64) : State :=
  let x := s.slotOf i
  let to_ := fld v 0 2
  let seq : BitVec 16 := BitVec.ofNat 16 (fld v 16 16)
  let len : BitVec 15 := BitVec.ofNat 15 (fld v 32 15)
  if actsAsHost w then
    match x.owner, to_ with
    | .free, 1 => (s.setSlot i { x with owner := .host, since := s.clock, holder := none }).done
    | .host, 2 =>
      if seq = x.seq then s.ignoreSlot w
      else
        let s := s.setSlot i { x with owner := .device, pend := true, seq := seq, length := len, since := s.clock, polls := 0
                                      holder := none }
        (if s.headerSeq i = some seq.toNat then s.slotAccept i else s).done
    | .host, 0 => ((s.setSlot i { x with owner := .free, torn := false }).setReady i false).done
    | _, _ => s.ignoreSlot w
  else if isDeviceInit w then
    match x.owner, to_ with
    | .free, 2 => ((s.setSlot i { x with owner := .device, torn := false, holder := some w }).setReady i false).done
    | .device, 1 =>
      if x.pend || seq ≠ x.seq + 1 then s.ignoreSlot w
      else
        ((s.setSlot i { x with owner := .host, seq := seq, length := len, since := s.clock, holder := none }).setReady i false).done
    | .device, 0 =>
      if x.pend then s.ignoreSlot w
      else ((s.setSlot i { x with owner := .free, torn := false, holder := none }).setReady i false).done
    | _, _ => s.ignoreSlot w
  else s.ignoreSlot w

/-- The slot block answers: it is in the always-reachable part of window A for the host only above FEN (R458). -/
def State.slotsOn (s : State) : Bool := s.memPowered .ctl && !s.memFenced .ctl

def State.slotRow (s : State) (w : Initiator) (i : Nat) (v : BitVec 64) (owner : Nat) : State :=
  if s.slotsOn then s.writeSlotFlag w i (setFld v 0 2 owner) else s.error

/-- SLOT_CLAIM, SLOT_HANDOVER and SLOT_RELEASE by the host (R463). -/
def execSlotClaim (i : Slot) (v : BitVec 64) : State → Host.Outcome State Fault Refusal :=
  unitAct .host (0x10800 + 8 * i.val) fun s => s.slotRow .host i.val v 1
def execSlotHandover (i : Slot) (v : BitVec 64) : State → Host.Outcome State Fault Refusal :=
  unitAct .host (0x10800 + 8 * i.val) fun s => s.slotRow .host i.val v 2
def execSlotRelease (i : Slot) (v : BitVec 64) : State → Host.Outcome State Fault Refusal :=
  unitAct .host (0x10800 + 8 * i.val) fun s => s.slotRow .host i.val v 0
/-- The same by a device initiator (R463). -/
def execDeviceSlotClaim (w : Initiator) (i : Slot) (v : BitVec 64) : State → Host.Outcome State Fault Refusal :=
  unitAct w (0x10800 + 8 * i.val) fun s => if isDeviceInit w then s.slotRow w i.val v 2 else s.ignoreSlot w
def execDeviceSlotHandover (w : Initiator) (i : Slot) (v : BitVec 64) : State → Host.Outcome State Fault Refusal :=
  unitAct w (0x10800 + 8 * i.val) fun s => if isDeviceInit w then s.slotRow w i.val v 1 else s.ignoreSlot w
def execDeviceSlotRelease (w : Initiator) (i : Slot) (v : BitVec 64) : State → Host.Outcome State Fault Refusal :=
  unitAct w (0x10800 + 8 * i.val) fun s => if isDeviceInit w then s.slotRow w i.val v 0 else s.ignoreSlot w

/-- HEADER_REPOLL (R465): every 3,932 tk, up to 8 times. -/
def execHeaderRepoll (i : Slot) : State → Host.Outcome State Fault Refusal :=
  act fun s =>
    let x := s.slotOf i.val
    if !x.pend || s.clock < x.since + 3932 * (x.polls + 1) then s
    else if s.headerSeq i.val = some x.seq.toNat then s.slotAccept i.val
    else if x.polls + 1 < 8 then s.setSlot i.val { x with polls := x.polls + 1 }
    else
      let s := s.setSlot i.val { x with pend := false, torn := true, owner := .host, since := s.clock, polls := 0 }
      (s.bump (cSlot 1)).signal 127

/-- The lease in ticks (R466, R473). -/
def State.leaseTk (s : State) : Nat := 4096 * max 1 (fld (s.reg rSlotLease) 0 20)

/-- LEASE_EXPIRY (R466): SEQ and content stay. In BOG the timers are stopped (R467). -/
def execLeaseExpiry (i : Slot) : State → Host.Outcome State Fault Refusal :=
  act fun s =>
    let x := s.slotOf i.val
    if x.owner ≠ .host || s.clock < x.since + s.leaseTk || s.atOrBelow .bog then s
    else ((s.setSlot i.val { x with owner := .free }).bump (cSlot 2)).signal 126

/-- After BOG every lease counts from zero (R467). -/
def State.restartLeases (s : State) : State :=
  s.slots.foldl (fun s e => if e.2.owner = .host then s.setSlot e.1 { e.2 with since := s.clock } else s) s

/-- Every slot FREE with last SEQ 0, as after PEAT (R467). -/
def State.clearSlots (s : State) : State := { s with slots := [], slotReady := 0 }

/-- Slots that a fenced unit had claimed return to FREE (R523). -/
def State.freeSlotsOf (s : State) (mine : Initiator → Bool) : State :=
  s.slots.foldl (fun s e =>
    match e.2.owner, e.2.holder with
    | .device, some w => if mine w then (s.setSlot e.1 { e.2 with owner := .free, holder := none }).setReady e.1 false else s
    | _, _ => s) s

/-- A write to a slot's bytes is applied for this party (R464). -/
def State.slotGrants (s : State) (w : Initiator) (i : Nat) : Bool :=
  let x := s.slotOf i
  if actsAsHost w then x.owner = .host || (x.owner = .device && x.pend)
  else isDeviceInit w && x.owner = .device && !x.pend

/-- A write to MEM_WINCBASE (R460): the aperture of 1 GiB must lie in DRAM. -/
def State.writeWincbase (s : State) (v : BitVec 32) : State :=
  if fld v 0 12 ≤ 3584 then (s.setReg rMemWincbase (v &&& 0xFFF)).done else s.error

/-- MEM_WINCBASE_WRITE (R460). -/
def execMemWincbaseWrite (w : Initiator) (v : BitVec 32) : State → Host.Outcome State Fault Refusal :=
  unitAct w rMemWincbase fun s => s.writeWincbase v

/-! ## MSI-X and the endpoint's reset (R456, R471) -/

/-- Sends the message of a vector whose pending bit is set, if nothing masks it (R471). -/
def State.flushVector (s : State) (v : Nat) : State :=
  if s.pcie.pba.getLsbD v && s.pcie.msixEn && !s.pcie.fmask && !(s.reg (rMsix v 3)).getLsbD 0 && s.pcieUp then
    ({ s with pcie := { s.pcie with pba := s.pcie.pba &&& ~~~(1#128 <<< v) } } : State).emitOut (.msix v)
  else s

/-- MSIX_UNMASK (R471): the vector's mask bit is cleared. -/
def execMsixUnmask (v : MsixVec) : State → Host.Outcome State Fault Refusal :=
  unitAct .host (rMsix v.val 0) fun s => ((s.setReg (rMsix v.val 3) (setBit (s.reg (rMsix v.val 3)) 0 false)).flushVector v.val).done

/-- Every vector that is no longer masked sends its message. -/
def State.flushVectors (s : State) : State := (List.range 128).foldl State.flushVector s

/-- The endpoint in reset: the link is down, and its configuration space is at its reset values. -/
def State.resetPcie (s : State) (perst : Bool) : State := { s with pcie := { perstN := perst } }

/-- PCIE_PERST (R456). -/
def execPciePerst : State → Host.Outcome State Fault Refusal := actAlways fun s => s.resetPcie false

/-- PCIE_PERST_N_RELEASE (R456): the endpoint starts; until it is ready it answers with Retry Status. -/
def execPciePerstNRelease : State → Host.Outcome State Fault Refusal :=
  actAlways fun s => { s with pcie := { s.pcie with perstN := true } }

/-- PCIE_ENDPOINT_READY (R456). -/
def execPcieEndpointReady : State → Host.Outcome State Fault Refusal :=
  act fun s => if s.pcie.perstN && !s.atOrBelow .bog then ({ s with pcie := { s.pcie with ready := true } } : State).flushVectors else s

end Sys2Proof.Machine
end

