-- ==== Sys2Proof/Machine/Lockstep.lean ====
section
/-! DEFINITION. What every fence does to a unit's surroundings, and the mismatch of the ASQ pair (R319, R521-R523, R525, R535). -/

namespace Sys2Proof.Machine
open Sys2Proof

/-! ## Units (R521) -/

def unitReserved (u : Nat) : Bool := decide (11 ≤ u ∧ u ≤ 15)

/-- Issuers of tagged items that a unit holds: the sequencers, the beam engine's queue, the issue queues (R302, R523). -/
def unitIssuers (u : Nat) : List Nat :=
  match u with
  | 4 => [5]
  | 5 => [0, 1, 2, 3, 4, 12, 13]
  | 6 => [4]
  | _ => []

/-- Device initiators that a unit holds (R463). -/
def unitHolds (u : Nat) : Initiator → Bool
  | .seq k => u = 5 || (u = 6 && k = 4)
  | .vc n => u = 16 + n.val
  | .dma _ => u = 7
  | .mgmt => u = 9 || u = 10
  | _ => false

/-- Sequencers that a unit holds. -/
def unitSeqs (u : Nat) : List Nat :=
  match u with
  | 5 => [0, 1, 2, 3, 4]
  | 6 => [4]
  | _ => []

/-! ## What every fence does (R523) -/

/-- Items of the unit that wait in the network or to be issued are discarded, with those on their way to its stages. -/
def State.fenceItems (s : State) (u cause : Nat) : State :=
  let port := fun (x : NetItem) => match x.port with
    | .bf | .fft | .wola => u = 4
    | .cap => u = 7
    | .lnk => u = 8
    | .pwr => false
    | _ => u = x.tile
  let s : State := { s with net := s.net.filter fun x => !(port x || (decide (x.issuer ∈ unitIssuers u) && !(u = 6 && cause = 3))) }
  if u = 5 then { s with hiq := { s.hiq with pushes := [] }, miq := { s.miq with pushes := [] } } else s

/-- The steps of R523 that every fence takes: items and slots of the unit go, EV_FENCED and EV_FAULTLOG hold it, event 125. -/
def State.sever (s : State) (u cause : Nat) : State :=
  let s := (s.fenceItems u cause).freeSlotsOf (unitHolds u)
  ({ s with
    fenced := setBit s.fenced u true
    faultlog := BitVec.ofNat 64 (u + 2 ^ 5 * cause + 2 ^ 8 * fld s.faultlog 8 8 + 2 ^ 16 * (s.now.toNat % 2 ^ 48)) } : State).signal 125

/-- Section queue entries of a unit's sequencers are discarded (R523). -/
def State.dropSections (s : State) (u : Nat) : State :=
  (unitSeqs u).foldl (fun s k => s.setSeq k { s.seqOf k with queue := [] }) s

/-- The two halves of the ASQ pair differ: event 124, and unit 6 is fenced with cause 3 (R319, R525). -/
def State.asqMismatch (s : State) : State :=
  if s.isFenced 6 then s else ((s.signal 124).sever 6 3).dropSections 6

end Sys2Proof.Machine
end

