-- ==== Sys2Proof/Machine/Dc.lean ====
section
/-! DEFINITION. The DC loops of the receive paths, sample by sample: when they are frozen, how long they have run, the stores
of the LNA steps, and the received line they leave (R146, R150-R154). -/

namespace Sys2Proof.Machine
open Sys2Proof

def State.dcOf (s : State) (p step : Nat) : DcSt := tget (fun _ => {}) s.rx.dc (8 * p + step)
def State.setDc (s : State) (p step : Nat) (x : DcSt) : State :=
  { s with rx := { s.rx with dc := tput (fun _ => {}) (8 * p + step) x s.rx.dc } }
def State.lnaStep (s : State) (p : Nat) : Nat := tget (fun _ => 0) s.rx.step p

/-- K, AUTOFRZ, SERVOEN and RELDLY of TILEn_RXDC (R155). -/
def State.dcK (s : State) (t : Nat) : Nat := fld (s.reg (rRxdc t)) 0 5
def State.autoFrz (s : State) (t : Nat) : Bool := (s.reg (rRxdc t)).getLsbD 5
def State.servoEn (s : State) (t : Nat) : Bool := (s.reg (rRxdc t)).getLsbD 6
def State.relDly (s : State) (t : Nat) : Nat := 64 * fld (s.reg (rRxdc t)) 8 8

/-- AUTOFRZ holds the path's loops: its quad's receive enable is off, or came on less than RELDLY ago (R152). -/
def State.autoHeld (s : State) (p : Nat) : Bool :=
  let t := tileOfPath p
  let q := quadOfPath p
  s.autoFrz t && (!s.fe.rxEn.getLsbD q || decide (s.now.toNat < tget (fun _ => 0) s.fe.rxOnAt q + s.relDly t))

/-- The path's loops and servos are frozen (R152). -/
def State.dcFrozen (s : State) (p : Nat) : Bool := s.rx.frozen.getLsbD p || s.autoHeld p

/-- The present sample is the one a release acts at: it is still a frozen one (R152). -/
def State.releasedNow (s : State) (p : Nat) : Bool := tget (fun _ => none) s.rx.relAt p = some s.now.toNat

/-- Samples after which a path's output is no longer WARMUP (R154). -/
def State.dcNeed (s : State) (p : Nat) : Nat := 2 ^ (s.dcK (tileOfPath p) + 2)

/-- The count of a step judged against a number of samples: the tick at which they sufficed is kept, forgotten, or `t`. -/
def DcSt.judged (x : DcSt) (need t : Nat) : DcSt :=
  { x with done := if x.run < need then none else some (x.done.getD t) }

/-- The output at tick `t` is a WARMUP sample (R154). -/
def DcSt.warmAt (x : DcSt) (t : Int) : Bool :=
  match x.done with
  | some d => decide (t < (d : Int))
  | none => true

/-- A write of TILEn_RXDC judges every count of the tile's paths against the new K. -/
def State.dcRejudge (s : State) (t : Nat) : State :=
  (tilePaths t).foldl (fun s p => (List.range 8).foldl (fun s k =>
    let x := s.dcOf p k
    if x.run = 0 then s else s.setDc p k (x.judged (s.dcNeed p) s.now.toNat)) s) s

/-- The stores of a path read as zero again (R153). -/
def State.dcZero (s : State) (p : Nat) : State :=
  { s with rx := { s.rx with dc := tdrop (fun k => k / 8 = p) s.rx.dc } }

/-! ## Played blocks (R506, R511) -/

/-- Taps charged and timed at the carrier's sample rate (R506). -/
def carrierTap (tap : Nat) : Bool := [0x00, 0x01, 0x02, 0x12, 0x13, 0x14].contains tap

/-- The tick after a played block's last sample. -/
def PlayBlk.stop (x : PlayBlk) : Int := x.start + x.tk * x.iq.length

/-- The blocks that playback has put at a tap of a unit and carrier. -/
def State.playsOf (s : State) (tap unit car : Nat) : List PlayBlk :=
  s.chain.plays.filter fun x => x.tap = tap && x.unit = unit && (x.car = car || !carrierTap tap)

/-- The played block that gives a tap's sample of tick `t`, if any; the block played later prevails. -/
def State.playBlk (s : State) (tap unit car : Nat) (t : Int) : Option PlayBlk :=
  ((s.playsOf tap unit car).filter fun x => decide (x.start ≤ t) && decide (t < x.stop)).getLast?

/-- A played block's sample of tick `t`. -/
def PlayBlk.at_ (x : PlayBlk) (t : Int) : IQ := x.iq.getD ((t - x.start) / x.tk).toNat (0, 0)

/-- The sample a playback engine has put at a tap for tick `t`, if any. -/
def State.playAt (s : State) (tap unit car : Nat) (t : Int) : Option IQ := (s.playBlk tap unit car t).map fun x => x.at_ t

/-- Tags of the blocks played at a tap for some tick of [lo, hi). -/
def State.playTags (s : State) (tap unit car : Nat) (lo hi : Int) : List Tag :=
  ((s.playsOf tap unit car).filter fun x => decide (x.start < hi) && decide (lo < x.stop)).map PlayBlk.tag

/-- Flags of what is derived from blocks with some tags (R53). -/
def tagFlags (gs : List Tag) : BlockFlags := ⟨gs.any Tag.damaged, gs.any Tag.warmup, gs.any Tag.late⟩

/-- Flags ORed over several inputs (R53). -/
def orFlags (x y : BlockFlags) : BlockFlags := ⟨x.damaged || y.damaged, x.warmup || y.warmup, x.late || y.late⟩
def noFlags : BlockFlags := ⟨false, false, false⟩

/-! ## Lines of received samples -/

/-- A sample of composite index `k` added to a line: samples that were not received in between are zero. A line keeps
2^18 samples. -/
def RxLine.push (l : RxLine) (k : Nat) (x : IQ) : RxLine :=
  let gap := List.replicate (min (k - l.last - 1) (2 ^ 18)) ((0, 0) : IQ)
  if l.last < k && !l.iq.isEmpty then ⟨k, (x :: gap ++ l.iq).take (2 ^ 18)⟩ else ⟨k, [x]⟩

/-- The sample of composite index `k`. -/
def RxLine.at_ (l : RxLine) (k : Int) : IQ := if k ≤ l.last then l.iq.getD (l.last - k).toNat (0, 0) else (0, 0)

/-- A table of lines with a sample added to path `p`'s. -/
def pushLine (ls : Table RxLine) (p k : Nat) (x : IQ) : Table RxLine :=
  tput (fun _ => {}) p ((tget (fun _ => {}) ls p).push k x) ls

/-- The time, in 1/16 tk of the clock, of the ball's sample that a path's sample of a clock value stands for: TILEn_RXTRIM delays it
(R146, R590). -/
def State.ballTime (s : State) (p clock : Nat) : Nat :=
  (16 * (clock : Int) - sfld (s.reg (rRxtrim (tileOfPath p) (p % 16))) 0 9).toNat

/-- The LNA step whose servo codes stand at a path's ADC now: that of a queued GAIN item from LNAADV before its AIRTIME on, as its
RFFE write (R153, R159). -/
def State.servoStep (s : State) (p : Nat) : Nat :=
  let adv : Int := fld (s.reg (rLnaadv (tileOfPath p))) 0 12
  ((s.queue.filter fun x => x.port = .flt && x.tile = tileOfPath p && x.item.tag.kind = kGain && pbit x.item.body 18 &&
      pbit x.item.body (p % 16) && decide (lead x.act s.now ≤ adv)).getLast?.map fun x => pbits x.item.body 19 3).getD (s.lnaStep p)

/-- The front die's sample of a path now (R146): the played one where there is one; what comes in at the ball is not the
block's to say. Each servo code takes 32 LSB off it ahead of the ADC (R151). -/
def State.rxNow (s : State) (p : Nat) : IQ :=
  let w := Config.rxSample p (s.ballTime p s.clock)
  let d := s.dcOf p (s.servoStep p)
  let ball := iqSat 16 (int16 (w.toNat % 2 ^ 16) - 32 * d.codeI, int16 (w.toNat / 2 ^ 16) - 32 * d.codeQ)
  (s.playAt 0x10 p 0 s.now.toNat).getD ball

/-- One composite sample of a path in service on a clocked tile: through the loops of both rails, where function RXDC runs
(R150). -/
def State.dcSample (s : State) (p : Nat) : State :=
  let x := s.rxNow p
  let k := s.now.toNat / 2
  let s : State := { s with chain := { s.chain with raws := pushLine s.chain.raws p k x } }
  if s.fnStopped 10 (tileOfPath p) then s
  else
    let step := s.lnaStep p
    let d := s.dcOf p step
    let frozen := s.dcFrozen p || s.releasedNow p
    let (dI, yI) := dcLoop frozen (s.dcK (tileOfPath p)) d.estI.toInt x.1
    let (dQ, yQ) := dcLoop frozen (s.dcK (tileOfPath p)) d.estQ.toInt x.2
    let s := if frozen then s else
      s.setDc p step ({ d with estI := BitVec.ofInt 32 dI, estQ := BitVec.ofInt 32 dQ, run := d.run + 1 }.judged
        (s.dcNeed p) (s.now.toNat + 2))
    let s : State := { s with chain := { s.chain with lines := pushLine s.chain.lines p k (iqSat 16 (yI, yQ)) } }
    s.bumpBy (cTile (tileOfPath p) 4) (iqClips 16 (yI, yQ))

/-- The composite sample of the present tick on every receive path in service; a composite sample lasts 2 tk. -/
def State.dcTick (s : State) : State :=
  if s.now.toNat % 2 = 1 then s
  else (allTiles.filter s.tileOn).foldl (fun s t => ((tilePaths t).filter fun p => !s.rxOut.getLsbD p).foldl State.dcSample s) s

end Sys2Proof.Machine
end

