-- ==== Sys2Proof/Machine/Coef.lean ====
section
/-! DEFINITION. Coefficient records: what a COEF item loads and when it is refused, swaps and cross-fades, and records that
fail their line check (R110-R129, R138, R156-R158, R186-R196, R210-R215, R345). -/

namespace Sys2Proof.Machine
open Sys2Proof

/-! ## Keys -/

/-- Number of a record in the table of working records. -/
def recKey : RecId → Nat
  | .dpd p set b => 2 * (16 * p.val + set.val) + bankNum b
  | .corr p b => 0x1000 + p.val * 2 + bankNum b
  | .rxiq p b => 0x2000 + p.val * 2 + bankNum b
  | .sic p b => 0x3000 + p.val * 2 + bankNum b
  | .fir t d c b => 0x4000 + ((t.val * 2 + dirNum d) * 4 + c.val) * 2 + bankNum b
  | .cfr t b => 0x5000 + t.val * 2 + bankNum b

/-- Number of a selection: model and corrector of a path, canceller, RX corrector, FIR of a carrier. -/
def selModel (p : Nat) : Nat := p
def selCorr (p : Nat) : Nat := 64 + p
def selSic (p : Nat) : Nat := 128 + p
def selRxiq (p : Nat) : Nat := 192 + p
def selFir (t : Nat) (d : Dir) (c : Nat) : Nat := 256 + (t * 2 + dirNum d) * 4 + c

def selKey : FadeId → Nat
  | .model p => selModel p.val
  | .corr p => selCorr p.val
  | .fir t d c => selFir t.val d c.val
  | .sic p => selSic p.val

def State.recOf (s : State) (r : RecId) : Rec := tget (fun _ => {}) s.lin.recs (recKey r)
def State.setRec (s : State) (r : RecId) (x : Rec) : State :=
  { s with lin := { s.lin with recs := tput (fun _ => {}) (recKey r) x s.lin.recs } }
def State.selOf (s : State) (k : Nat) : SelSt := tget (fun _ => {}) s.lin.sels k
def State.setSel (s : State) (k : Nat) (x : SelSt) : State :=
  { s with lin := { s.lin with sels := tput (fun _ => {}) k x s.lin.sels } }

/-- The selection that governs a record, and the record's own set and bank; none for a CFR pulse, which the tile's CFR
configuration selects. -/
def recSel : RecId → Option (Nat × Nat × Bank)
  | .dpd p set b => some (selModel p.val, set.val, b)
  | .corr p b => some (selCorr p.val, 0, b)
  | .rxiq p b => some (selRxiq p.val, 0, b)
  | .sic p b => some (selSic p.val, 0, b)
  | .fir t d c b => some (selFir t.val d c.val, 0, b)
  | .cfr _ _ => none

/-- Tile of a record. -/
def recTile : RecId → Nat
  | .dpd p _ _ | .corr p _ | .rxiq p _ | .sic p _ => tileOfPath p.val
  | .fir t _ _ _ | .cfr t _ => t.val

def recPort : RecId → Port
  | .dpd _ _ _ | .corr _ _ => .dpd
  | .rxiq _ _ | .fir _ _ _ _ => .flt
  | .sic _ _ => .sic
  | .cfr _ _ => .cfr

/-- The counter of failed and refused records (R119, R157, R191, R212; a CFR pulse in TILEn_CFGERR, R342). -/
def recErr (r : RecId) : Nat :=
  match r with
  | .dpd _ _ _ | .corr _ _ | .rxiq _ _ => cTile (recTile r) 6
  | .sic _ _ => cTile (recTile r) 11
  | .fir _ _ _ _ => cTile (recTile r) 14
  | .cfr _ _ => cTile (recTile r) 3

/-- The record a COEF header names, on tile `t` for the targets without a path (R345). -/
def coefRec (t : Nat) (b : Bytes) : RecId :=
  let p : Path := Fin.ofNat 64 (pbits b 4 6)
  let bank := bankOf (pbits b 14 1)
  match pbits b 0 4 with
  | 0 => .dpd p (Fin.ofNat 16 (pbits b 10 4)) bank
  | 1 => .corr p bank
  | 2 => .rxiq p bank
  | 3 => .sic p bank
  | 4 => .fir (Fin.ofNat 4 t) (dirOf (pbits b 15 1)) (Fin.ofNat 4 (pbits b 16 2)) bank
  | _ => .cfr (Fin.ofNat 4 t) bank

/-- VALID of a record as the stage sees it: clear in a LOST record, and in a FIR record that no longer fits (R138, R212). -/
def Rec.valid (x : Rec) : Bool := pbit x.bytes 0 && !x.lost && !x.unfit

/-- The record is in use: current, source or target of a fade, or target of the pending swap (R120); a CFR pulse while its
bank is the tile's current one (R345). -/
def State.inUse (s : State) (r : RecId) : Bool :=
  match recSel r, r with
  | some (k, set, b), _ =>
    let x := s.selOf k
    (x.set = set && x.bank = b) ||
    (match x.fade with | some f => f.set = set && f.bank = b | none => false) ||
    (match x.pend with | some f => f.set = set && f.bank = b | none => false)
  | none, .cfr t b => (s.cfrOf t.val).bank = b
  | none, _ => false

/-! ## Checks of a record -/

/-- Bytes [o, o + n) of a record are zero. -/
def zeroAt (b : Bytes) (o n : Nat) : Bool := (slice b o n).all (· = 0)

/-- The int32 at byte `o` holds an int18 sign-extended (R118, R190, R211). -/
def ext18 (b : Bytes) (o : Nat) : Bool :=
  let v := sfield (pbits b (8 * o) 32) 32
  decide (-131072 ≤ v ∧ v ≤ 131071)

/-- A predistorter record passes R113, R116 and R118, on a path-in-tile, in wide mode or not (R119). The other fields of an
unused descriptor are not looked at (DESIGN CHOICE, log entry 41). -/
def dpdRecOk (b : Bytes) (pit : Nat) (wide : Bool) : Bool :=
  pbits b 5 3 = 0 && pbits b 28 4 = 0 && pbits b 48 16 = 0 && pbits b 96 32 = 0 &&
  ((List.range 4).all fun j => dpdNb b j ≠ pit) &&
  ((List.range 64).all fun i =>
    descType b i = 0 ||
    descOrd b i ≤ 6 && descType b i = (if i < 48 then 1 else 2) &&
    (!wide || !(decide (32 ≤ i ∧ i < 48) || decide (56 ≤ i))) &&
    (if i < 48 then descNb b i = 0 && !descEsrc b i else pbit b (24 + descNb b i))) &&
  ((List.range 128).all fun i => ext18 b (144 + 4 * i))

/-- Reserved bits of a corrector record (R128), and of an RX corrector record (R156). -/
def corrRecOk (b : Bytes) : Bool := pbits b 1 31 = 0 && zeroAt b 40 8
def rxiqRecOk (b : Bytes) : Bool := pbits b 1 63 = 0 && zeroAt b 40 8

/-- Path-in-tile of aggressor `j` of a canceller record, 1 to 7 (R190). -/
def sicAgg (b : Bytes) (j : Nat) : Nat := pbits b (32 + 4 * (j - 1)) 4
def sicEn (b : Bytes) (j : Nat) : Bool := pbit b (1 + j)

/-- A canceller record passes R191 for a receive path-in-tile. -/
def sicRecOk (b : Bytes) (pit : Nat) : Bool :=
  pbits b 9 23 = 0 && pbits b 60 4 = 0 && ((List.range 8).all fun j => pbits b (64 + 16 * j + 10) 6 = 0) &&
  zeroAt b 26 2 && ((List.range 512).all fun i => ext18 b (32 + 4 * i)) &&
  ((List.range 7).all fun i =>
    !sicEn b (i + 1) || sicAgg b (i + 1) ≠ pit &&
    ((List.range i).all fun j => !sicEn b (j + 1) || sicAgg b (j + 1) ≠ sicAgg b (i + 1)))

/-- A FIR record passes R212 for a span of `f` taps. -/
def firRecOk (b : Bytes) (f : Nat) : Bool :=
  let taps := pbits b 1 7
  pbits b 8 24 = 0 && pbits b 48 16 = 0 && pbits b 96 32 = 0 && 1 ≤ taps && taps ≤ f && (f - taps) % 2 = 0 &&
  ((List.range 48).all fun i => ext18 b (16 + 4 * i) && (decide (i < ceilDiv taps 2) || pbits b (8 * (16 + 4 * i)) 32 = 0))

def cfrRecOk (b : Bytes) : Bool := pbits b 1 127 = 0 && zeroAt b 1036 4

/-- FIRLEN of a chain (R223). -/
def State.firLen (s : State) (t : Nat) (d : Dir) (c : Nat) : Nat := fld (s.reg (rFltcfg t (dirNum d) c)) 0 7

/-- Wide mode of a tile (R111). -/
def State.wide (s : State) (t : Nat) : Bool := (s.reg (rDpdcfg t)).getLsbD 0

/-- The checks on arrival of a record. -/
def State.recordPasses (s : State) (r : RecId) (b : Bytes) : Bool :=
  match r with
  | .dpd p _ _ => dpdRecOk b (p.val % 16) (s.wide (tileOfPath p.val))
  | .corr _ _ => corrRecOk b
  | .rxiq _ _ => rxiqRecOk b
  | .sic p _ => sicRecOk b (p.val % 16)
  | .fir t d c _ => firRecOk b (s.firLen t.val d c.val)
  | .cfr _ _ => cfrRecOk b

/-! ## COEF items (R119, R120, R129, R157, R191, R212, R345) -/

/-- A COEF item, its TARGET fixed by the row: its record is checked on arrival, and it is loaded at its AIRTIME (log
entry 6); a late one is loaded and counted (R50). -/
def State.arriveCoef (s : State) (target : Nat) (t : Tile) (g : Tag) (body : Bytes) : State :=
  let it := mkItem kCoef g (rowPay body 0 4 6 target)
  let p := (coefPort target).getD .cfr
  let r := coefRec t.val it.body
  s.arrive p t.val it fun pc s =>
    if recTile r ≠ t.val then s.refuse p t.val it pc
    else if s.recordPasses r (it.body.drop 8) then s.queueCtl p t.val it pc
    else s.refuseAs (recErr r) p t.val g.source pc

def execCoefPredistorter (t : Tile) (g : Tag) (body : Bytes) : State → Host.Outcome State Fault Refusal :=
  act fun s => s.arriveCoef 0 t g body
def execCoefTxCorrector (t : Tile) (g : Tag) (body : Bytes) : State → Host.Outcome State Fault Refusal :=
  act fun s => s.arriveCoef 1 t g body
def execCoefRxCorrector (t : Tile) (g : Tag) (body : Bytes) : State → Host.Outcome State Fault Refusal :=
  act fun s => s.arriveCoef 2 t g body
def execCoefCanceller (t : Tile) (g : Tag) (body : Bytes) : State → Host.Outcome State Fault Refusal :=
  act fun s => s.arriveCoef 3 t g body
def execCoefFir (t : Tile) (g : Tag) (body : Bytes) : State → Host.Outcome State Fault Refusal :=
  act fun s => s.arriveCoef 4 t g body
def execCoefCfrPulse (t : Tile) (g : Tag) (body : Bytes) : State → Host.Outcome State Fault Refusal :=
  act fun s => s.arriveCoef 5 t g body

/-- A COEF item takes effect: the record replaces the target whole, unless the target is in use and not LOST (R120). -/
def State.applyCoef (s : State) (x : QItem) : State :=
  let r := coefRec x.tile x.item.body
  if s.inUse r && !(s.recOf r).lost then s.refuseAs (recErr r) x.port x.tile x.item.tag.source x.pc
  else s.setRec r { bytes := x.item.body.drop 8 }

/-! ## Swaps and cross-fades (R122-R127, R129, R157, R195, R214, R215) -/

/-- Ticks of one sample of the rate a selection fades at: the model rate, the carrier rate, or the composite rate. -/
def State.fadeTick (s : State) (f : FadeId) : Nat :=
  match f with
  | .model p | .corr p => if s.wide (tileOfPath p.val) then 1 else 2
  | .sic _ => 2
  | .fir _ d c => if (s.fftOf d c.val).tk = 0 then 2 else (s.fftOf d c.val).tk

/-- The record a selection names. -/
def fadeRec (f : FadeId) (set : Nat) (b : Bank) : RecId :=
  match f with
  | .model p => .dpd p (Fin.ofNat 16 set) b
  | .corr p => .corr p b
  | .fir t d c => .fir t d c b
  | .sic p => .sic p b

/-- The counter of pending swaps that a further swap replaced (R125, R195, R215). -/
def replCounter (f : FadeId) : Nat :=
  match f with
  | .model p | .corr p => cTile (tileOfPath p.val) 7
  | .fir t _ _ => cTile t.val 15
  | .sic p => cTile (tileOfPath p.val) 12

/-- A selection moves to a set and bank from full tick `at_`, fading over 2^k samples; with k = 0 at once (R123). -/
def startFade (x : SelSt) (set : Nat) (b : Bank) (k at_ : Nat) : SelSt :=
  { x with set := set, bank := b, pend := none, fade := if k = 0 then none else some ⟨x.set, x.bank, at_, k⟩ }

/-- One swap on one selection at full tick `at_` (R124, R125). -/
def State.swapOne (s : State) (f : FadeId) (set : Nat) (b : Bank) (k at_ : Nat) (tag : Tag) (pc : BitVec 19) : State :=
  let x := s.selOf (selKey f)
  let r := fadeRec f set b
  if x.fade.isNone && x.set = set && x.bank = b then s
  else if !(s.recOf r).valid then s.refuseAs (recErr r) (recPort r) (recTile r) tag.source pc
  else
    match x.fade with
    | some _ =>
      let s := if x.pend.isSome then s.bump (replCounter f) else s
      s.setSel (selKey f) { x with pend := some ⟨set, b, k, tag, pc⟩ }
    | none => s.setSel (selKey f) (startFade x set b k at_)

/-- FADE_END (R123, R125): the fade's last sample is out; a pending swap starts a new fade from the record just brought in. -/
def execFadeEnd (f : FadeId) : State → Host.Outcome State Fault Refusal :=
  act fun s =>
    let x := s.selOf (selKey f)
    match x.fade with
    | none => s
    | some d =>
      let end_ := d.start + 2 ^ d.k * s.fadeTick f
      if s.now.toNat < end_ then s
      else
        let s := s.setSel (selKey f) { x with fade := none, pend := none }
        match x.pend with
        | none => s
        | some p => s.swapOne f p.set p.bank p.k end_ p.tag p.pc

/-- DPD_SWAP of a target, which the row fixes: taken only from the tile's own TSQ, with LASTK the last fade exponent received (R122). -/
def State.arriveDpdSwap (s : State) (target : Nat) (t : Tile) (g : Tag) (body : Bytes) : State :=
  let it := mkItem kDpdSwap g (setPay body 16 1 target)
  s.arrive .dpd t.val it fun pc s =>
    if it.tag.source.toNat = t.val then
      (s.setReg (rDpdcfg t.val) (setFld (s.reg (rDpdcfg t.val)) 8 4 (pbits it.body 17 4))).queueCtl .dpd t.val it pc
    else s.refuse .dpd t.val it pc

def execDpdSwapModel (t : Tile) (g : Tag) (body : Bytes) : State → Host.Outcome State Fault Refusal :=
  act fun s => s.arriveDpdSwap 0 t g body
def execDpdSwapCorr (t : Tile) (g : Tag) (body : Bytes) : State → Host.Outcome State Fault Refusal :=
  act fun s => s.arriveDpdSwap 1 t g body

/-- LASTK of a tile (R122). -/
def State.lastK (s : State) (t : Nat) : Nat := fld (s.reg (rDpdcfg t)) 8 4

/-- A DPD_SWAP takes effect on the paths of its mask. One that a block tag stands for (SOURCE 8, R55, R126) fades with the
length last received. -/
def State.applyDpdSwap (s : State) (x : QItem) : State :=
  let b := x.item.body
  let g := x.item.tag
  let byTag := g.source = 8
  let k := if byTag then s.lastK x.tile else pbits b 17 4
  (tileMaskPaths x.tile (pbits b 0 16)).foldl (fun s p =>
    let path : Path := Fin.ofNat 64 p
    if pbit b 16 then s.swapOne (.corr path) 0 (bankOf g.bank.toNat) k (fullTick x.act s.now).toNat g x.pc
    else s.swapOne (.model path) g.dpdset.toNat (bankOf g.bank.toNat) k (fullTick x.act s.now).toNat g x.pc) s

/-- FLT_SWAP, its TARGET fixed by the row (R157, R214). -/
def State.arriveFltSwap (s : State) (target : Nat) (t : Tile) (g : Tag) (body : Bytes) : State :=
  s.arriveCtl .flt t.val (mkItem kFltSwap g (rowPay body 0 2 3 target))

def execFltSwapTxfir (t : Tile) (g : Tag) (body : Bytes) : State → Host.Outcome State Fault Refusal :=
  act fun s => s.arriveFltSwap 0 t g body
def execFltSwapRxfir (t : Tile) (g : Tag) (body : Bytes) : State → Host.Outcome State Fault Refusal :=
  act fun s => s.arriveFltSwap 1 t g body
def execFltSwapRxiq (t : Tile) (g : Tag) (body : Bytes) : State → Host.Outcome State Fault Refusal :=
  act fun s => s.arriveFltSwap 2 t g body

/-- A FLT_SWAP takes effect: an RX corrector bank changes at once, a FIR bank with a fade (R157, R214). -/
def State.applyFltSwap (s : State) (x : QItem) : State :=
  let b := x.item.body
  let bank := bankOf x.item.tag.bank.toNat
  if pbits b 0 2 = 2 then
    (tileMaskPaths x.tile (pbits b 16 16)).foldl (fun s p =>
      s.setSel (selRxiq p) { s.selOf (selRxiq p) with bank := bank }) s
  else
    s.swapOne (.fir (Fin.ofNat 4 x.tile) (dirOf (pbits b 0 2)) (Fin.ofNat 4 (pbits b 2 2))) 0 bank (pbits b 4 4)
      (fullTick x.act s.now).toNat x.item.tag x.pc

/-! ## Records that fail their line check (R138, R158, R196, R213, R490) -/

/-- Address of a record's master in S0, its size, and where its SEQ stands (R137, R158, R196, R213). The masters of the two
correctors are kept by LO channel `ch`. -/
def State.masterOf (s : State) (r : RecId) (ch : Nat) : Nat × Nat × Option Nat :=
  match r with
  | .dpd p set b => (s.areaBase rMemDpdbase + 1024 * (2 * (16 * p.val + set.val) + bankNum b), 656, some 64)
  | .corr p _ => (s.areaBase rMemDpdbase + 0x200000 + 64 * (64 * p.val + ch), 48, none)
  | .rxiq p _ => (s.areaBase rMemRxiqbase + 64 * (64 * p.val + ch), 48, none)
  | .sic p b => (s.areaBase rMemSicbase + 4096 * (2 * p.val + bankNum b), 2080, some 224)
  | .fir t d c b => (s.areaBase rMemFltbase + 256 * (2 * (4 * (2 * t.val + dirNum d) + c.val) + bankNum b), 208, some 64)
  | .cfr _ _ => (0, 0, none)

/-- A block that a stream stage flags DAMAGED for a line failure (R497). -/
def State.damaged (s : State) : State := (s.bump (cMem 3)).signal 107

/-- RECORD_LINE_FAILURE (R138): the refetch starts; a record in use damages the blocks that need it. A CFR pulse record
reads as VALID clear until a COEF replaces it (R490). -/
def execRecordLineFailure (r : RecId) : State → Host.Outcome State Fault Refusal :=
  act fun s =>
    let x := s.recOf r
    let s := if s.inUse r then s.damaged else s
    match r with
    | .cfr _ _ => s.setRec r { x with lost := true }
    | _ => s.setRec r { x with rebuilding := true }

/-- The LO channel a record's master is kept for: CHAN of the calibration entry that the tile's TXSYN, or RXSYN, holds (R253). The
spec names the masters by LO channel and says nowhere which one a working record belongs to: this one, for either bank; and a
corrector, whose record holds no SEQ, is compared with none (R138; DESIGN CHOICE, log entry 41). -/
def State.masterChan (s : State) (r : RecId) : Nat :=
  let t := recTile r
  let k := 2 * t + (match r with | .rxiq _ _ => (s.loOf t).rx | _ => (s.loOf t).tx).toNat
  fld (s.calOf k (s.synOf k).entry) 72 6

/-- A record that its master cannot give, counted with event 105; a poisoned read has been counted already (R138, R493). -/
def State.noMaster (s : State) : State := (s.bump (cMem 1)).signal 105

/-- A record read from its master, by its own path of memory checks: S0, or S1 when S0 fails (R138, R495). -/
def State.readMaster (s : State) (r : RecId) : Option Bytes × State :=
  let (a, n, seqAt) := s.masterOf r (s.masterChan r)
  match s.memRead a n with
  | (.ok b, s) =>
    match seqAt with
    | some o => if pbits b o 32 = pbits (s.recOf r).bytes o 32 then (some b, s) else (none, s.noMaster)
    | none => (some b, s)
  | (.poisoned _, s) => (none, s)
  | (.error, s) => (none, s.noMaster)

/-- A record rebuilt from its master, or LOST when both copies fail or the SEQ differs (R138). -/
def State.rebuild (s : State) (r : RecId) : State :=
  match s.readMaster r with
  | (some b, s) => ((s.setRec r { s.recOf r with bytes := b, rebuilding := false, lost := false }).bump (cMem 2)).signal 106
  | (none, s) => s.setRec r { s.recOf r with rebuilding := false, lost := true }

/-- RECORD_REBUILD (R138). -/
def execRecordRebuild (r : RecId) : State → Host.Outcome State Fault Refusal :=
  act fun s => if (s.recOf r).rebuilding then s.rebuild r else s

end Sys2Proof.Machine
end

