-- ==== Sys2Proof/Machine/Regulatory.lean ====
section
/-! DEFINITION. The regulatory record: its layout and validity, the record in force, what a stricter record is, and the
checks made against it (R3, R256, R281-R284). -/

namespace Sys2Proof.Machine
open Sys2Proof

/-! ## Layout (R281) -/

def regSlotSize : Nat := 4096
def regFormat (r : Bytes) : Nat := pbits r 0 32
def regSeq (r : Bytes) : Nat := pbits r 32 32
def regHwtype (r : Bytes) : Nat := pbits r 64 32
def regLocked (r : Bytes) : Bool := pbit r 96
def regPtot (r : Bytes) : Int := sfield (pbits r 128 32) 32
def regDuty (r : Bytes) : Nat := pbits r 160 32
def regNrange (r : Bytes) : Nat := min (pbits r 192 16) 256
def regPmax (r : Bytes) (p : Nat) : Int := sfield (pbits r (256 + 32 * p) 32) 32
def regGext (r : Bytes) (p : Nat) : Int := sfield (pbits r (2304 + 32 * p) 32) 32
/-- Low and high edge of range `i`, kHz. -/
def regRange (r : Bytes) (i : Nat) : Nat × Nat := (pbits r (4352 + 64 * i) 32, pbits r (4352 + 64 * i + 32) 32)
def regCrc (r : Bytes) : Nat := pbits r 32736 32
def regRanges (r : Bytes) : List (Nat × Nat) := (List.range (regNrange r)).map (regRange r)

/-- A record is valid: FORMAT, HWTYPE and CRC check (R281). -/
def regValid (r : Bytes) : Bool :=
  regFormat r = 1 && regHwtype r = Config.hwType.toNat && (crc32c (r.take 4092)).toNat = regCrc r

/-- The content of slot `i` of the regulatory region. -/
def State.regSlot (s : State) (i : Nat) : Bytes := s.bytesAt (nvBase + regSlotSize * i) regSlotSize

/-- FORMAT of a slot, which tells a free slot apart cheaply. -/
def State.regSlotFormat (s : State) (i : Nat) : Nat := leNat (s.bytesAt (nvBase + regSlotSize * i) 4)

/-- The valid slots. -/
def State.regValidSlots (s : State) : List Nat :=
  (List.range 16).filter fun i => s.regSlotFormat i = 1 && regValid (s.regSlot i)

/-- The slot in force: the valid record with the highest SEQ (R281). -/
def State.regSlotInForce (s : State) : Option Nat :=
  s.regValidSlots.foldl (fun a i =>
    match a with
    | none => some i
    | some j => if regSeq (s.regSlot j) < regSeq (s.regSlot i) then some i else some j) none

/-- The record in force; none where there is none, or where it failed its check: the device never falls back to an older
record (R284). -/
def State.regRecord (s : State) : Option Bytes :=
  if s.fe.regBad then none else s.regSlotInForce.map s.regSlot

/-- A valid locked record is in force; without one every limiter holds its gain at zero (R284). -/
def State.regHeld (s : State) : Bool :=
  match s.regRecord with
  | some r => !regLocked r
  | none => true

/-- Range `x` lies wholly within one range of a record. -/
def insideRange (rs : List (Nat × Nat)) (x : Nat × Nat) : Bool := rs.any fun y => y.1 ≤ x.1 && x.2 ≤ y.2

/-- The new record is stricter than the record in force (R282). -/
def stricter (old new : Bytes) : Bool :=
  regValid new && regFormat old = regFormat new && regHwtype old = regHwtype new && regLocked new &&
  regSeq old < regSeq new && decide (regPtot new ≤ regPtot old) && regDuty new ≤ regDuty old &&
  ((List.range 64).all fun p => decide (regPmax new p ≤ regPmax old p) && decide (regGext old p ≤ regGext new p)) &&
  ((regRanges new).all (insideRange (regRanges old)))

/-! ## Frequencies, in 2^-32 kHz (R252, R94) -/

/-- An LO. -/
def loFreq (flo : BitVec 40) : Nat := 491520 * flo.toNat
/-- A carrier's offset from the LO. -/
def carFreq (freq : BitVec 48) : Int := 30 * freq.toInt
/-- Half the occupied band of `nrb` RBs. -/
def halfBand (nrb mu : Nat) : Nat := 2 ^ 32 * (2 ^ mu * (90 * nrb))

/-- The LO keeps R3 and R254's bounds: 1.7 to 15.4 GHz, to 7.8 GHz on a -M part. -/
def loInRange (flo : BitVec 40) : Bool :=
  2 ^ 32 * 1700000 ≤ loFreq flo && (loFreq flo ≤ 2 ^ 32 * 7800000 || !Config.variantM && loFreq flo ≤ 2 ^ 32 * 15400000)

/-- The LO keeps R3 alone. -/
def loKeepsR3 (flo : BitVec 40) : Bool :=
  !Config.variantM || (2 ^ 32 * 1700000 ≤ loFreq flo && loFreq flo ≤ 2 ^ 32 * 7800000)

/-- The LO lies in an allowed range of the record in force (R256). -/
def State.loAllowed (s : State) (flo : BitVec 40) : Bool :=
  match s.regRecord with
  | some r => (regRanges r).any fun x => 2 ^ 32 * x.1 ≤ loFreq flo && loFreq flo ≤ 2 ^ 32 * x.2
  | none => false

/-- The carrier's occupied band lies wholly within one allowed range (R283). -/
def State.bandAllowed (s : State) (flo : BitVec 40) (c : CarSt) (mu : Nat) : Bool :=
  match s.regRecord with
  | some r =>
    let mid := (loFreq flo : Int) + carFreq c.freq
    let half : Int := halfBand c.nrb mu
    (regRanges r).any fun x => decide ((x.1 : Int) * 2 ^ 32 ≤ mid - half) && decide (mid + half ≤ (x.2 : Int) * 2 ^ 32)
  | none => false

/-- Event 99 once each time no valid locked record is in force (R284). -/
def State.regWatch (s : State) : State :=
  if s.regHeld then
    if s.fe.regTold then s else ({ s with fe := { s.fe with regTold := true } } : State).signal 99
  else { s with fe := { s.fe with regTold := false } }

/-! ## The limiter's levels (R285) -/

/-- `x / y` exceeds 10^(d / 1000), judged exactly. -/
def exceeds (x y : Nat) (d : Int) : Bool :=
  if d ≥ 0 then decide (x ^ 1000 > 10 ^ d.toNat * y ^ 1000) else decide (x ^ 1000 * 10 ^ (-d).toNat > y ^ 1000)

/-- The largest gain g, 0x8000 = 1.0, with (g / 2^15)² × x / y at most 10^(d / 1000): the gain of R285 rounded down. -/
def limitGain (x y : Nat) (d : Int) : Nat :=
  (List.range 16).foldl (fun g i =>
    let h := g + 2 ^ (15 - i)
    if h ≤ 0x8000 && !exceeds (h * h * x) (2 ^ 30 * y) d then h else g) 0

/-- The largest g with (g / old)^64 at most 2, capped at 1.0: one rise of R285 rounded down. -/
def risenGain (old : Nat) : Nat :=
  (List.range 12).foldl (fun g i =>
    let h := g + 2 ^ (11 - i)
    if h ≤ 0x8000 && decide (h ^ 64 ≤ 2 * old ^ 64) then h else g) old

end Sys2Proof.Machine
end

