-- ==== Sys2Proof/Machine/Synth.lean ====
section
/-! DEFINITION. Synthesisers: tuning items, completion, calibration and yielding, switch spans, the readiness test, lock loss
and the calibration stores (R149, R250-R268, R283, R587). -/

namespace Sys2Proof.Machine
open Sys2Proof

/-! ## Enables (R269, R270) -/

def bit16 (q : Nat) : BitVec 16 := 1#16 <<< q
def bit64 (p : Nat) : BitVec 64 := 1#64 <<< p

def State.setTxEn (s : State) (q : Nat) (on : Bool) : State :=
  { s with fe := { s.fe with txEn := if on then s.fe.txEn ||| bit16 q else s.fe.txEn &&& ~~~bit16 q } }

/-- Drives a receive enable; a rise starts the release delay of R152. TIMEOUT holds it low (R530). -/
def State.setRxEn (s : State) (q : Nat) (on : Bool) : State :=
  if on && !s.rxHeldOff then
    { s with fe := { s.fe with
        rxEn := s.fe.rxEn ||| bit16 q
        rxOnAt := if s.fe.rxEn.getLsbD q then s.fe.rxOnAt else tput (fun _ => 0) q s.now.toNat s.fe.rxOnAt } }
  else { s with fe := { s.fe with rxEn := s.fe.rxEn &&& ~~~bit16 q } }

/-- A transmit enable falls: a receive enable that it held off rises (R270). -/
def State.dropTxEn (s : State) (q : Nat) : State :=
  let s := s.setTxEn q false
  if s.fe.rxWant.getLsbD q && !s.fe.rxDeny.getLsbD q then s.setRxEn q true else s

/-! ## Calibration stores (R253, R254, R587) -/

def calValid (v : BitVec 128) : Bool := v.getLsbD 0
def calFlo (v : BitVec 128) : BitVec 40 := v.extractLsb' 32 40
def calReserved (v : BitVec 128) : Bool := fld v 28 4 ≠ 0 || fld v 78 2 ≠ 0 || fld v 104 24 ≠ 0

/-- The entry a full calibration writes (R253, R255). -/
def calWord (w : Tune) (f : CalResult) : BitVec 128 :=
  BitVec.ofNat 128 (1 + 2 ^ 2 * f.core.toNat + 2 ^ 4 * f.divlog.toNat + 2 ^ 6 * f.band.toNat + 2 ^ 12 * f.cap.toNat +
    2 ^ 20 * f.icp.toNat + 2 ^ 24 * f.loop.toNat + 2 ^ 32 * w.flo.toNat + 2 ^ 72 * w.chan.toNat + 2 ^ 80 * f.phofs.toNat +
    2 ^ 96 * f.tcal.toNat)

/-- The entry is named by a PREP that has been accepted and has not completed (R254). -/
def SynSt.prepNames (x : SynSt) (e : Nat) : Bool :=
  (x.work.toList ++ x.waiting).any fun w => !w.cal && w.entry = e

/-- A write of an entry by one that may write it is refused: the host, management firmware, or a CAL on completion (R254). -/
def State.calBad (s : State) (k e : Nat) (v : BitVec 128) : Bool :=
  let x := s.synOf k
  (x.held && x.entry = e && x.state ≠ .off) || x.prepNames e || calReserved v ||
  (calValid v && (fld v 2 2 = 3 || !loInRange (calFlo v)))

/-- A write of an entry over the bus is refused (R254). -/
def State.calRefused (s : State) (w : Initiator) (k e : Nat) (v : BitVec 128) : Bool :=
  (w ≠ .host && w ≠ .mgmt) || s.calBad k e v

/-- The write of word 3 commits the staged words as one entry write (R587). -/
def State.commitCal (s : State) (w : Initiator) (k e : Nat) (v : BitVec 32) : State :=
  let word : BitVec 128 := v ++ (s.synOf k).staged
  if s.calRefused w k e word then (s.bump (cSyn k 0)).error
  else (s.setCal k e (setBit word 1 false)).done

/-- SYNCAL_COMMIT (R587). -/
def execSyncalCommit (w : Initiator) (k : Syn) (e : CalEntry) (v : BitVec 32) : State → Host.Outcome State Fault Refusal :=
  regAct w fun s => s.commitCal w k.val e.val v

/-! ## Tuning (R255-R257, R264) -/

/-- First multiple of 8 at or after a tick (R264). -/
def phaseTick (t : Nat) : Nat := (t + 7) / 8 * 8

/-- Synthesiser `k` takes up a tuning item at full tick `t`. -/
def State.startTune (s : State) (k : Nat) (w : Tune) (t : Nat) : State :=
  let x := s.synOf k
  let ph := if w.phsync then some (phaseTick t) else none
  if w.cal then
    s.setSyn k { x with
      state := .calibrating, ready := false, work := some w, relock := false, mustYield := false,
      before := if x.held && x.state ≠ .off then some x.entry else none, held := x.held && x.state ≠ .off, phaseAt := ph
      tunedAt := s.clock }
  else
    s.setSyn k { x with
      state := .tuning, ready := false, work := some w, relock := false, mustYield := false,
      entry := w.entry, held := true, flo := calFlo (s.calOf k w.entry), phaseAt := ph, tunedAt := s.clock }

/-- 2° in units of 2^-35 cycle, rounded down. -/
def tilePhaseMax : Nat := 190887435

/-- φ_tile, φ_dev and the phase without PHSYNC, in units of 2^-35 cycle: free values within R264's bounds (log entry 2). -/
def State.phiTile (s : State) (k : Nat) : Int :=
  (Config.loTile k (s.synOf k).flo.toNat % (2 * tilePhaseMax + 1) : Nat) - (tilePhaseMax : Int)
def State.phiDev (s : State) : Int := Config.loDev s.power.devPhase
def State.phiFree (s : State) (k : Nat) : Int := Config.loFree k (s.synOf k).tunedAt

/-- LO phase at the tile's LO buffer at tick `t`, in units of 2^-35 cycle; none while the synthesiser has no lock (R264). -/
def State.loPhase (s : State) (k t : Nat) : Option Int :=
  let x := s.synOf k
  if x.state ≠ .locked then none
  else some (((x.flo.toNat * t : Nat) + (if x.phaseAt.isSome then s.phiTile k + s.phiDev else s.phiFree k)) % 2 ^ 35)

/-- The synthesiser has finished its item: it takes up the next one that waits. -/
def State.nextTune (s : State) (k : Nat) : State :=
  let x := s.synOf k
  match x.waiting with
  | [] => s
  | w :: ws => (s.setSyn k { x with waiting := ws }).startTune k w s.now.toNat

/-- LO_CTL of an action, which the row fixes: from the tile's own TSQ, or from management firmware that names the tile
(R255). -/
def State.arriveLo (s : State) (action : Nat) (t : Tile) (g : Tag) (body : Bytes) : State :=
  let it := mkItem kLoCtl g (rowPay body 0 2 3 action)
  s.arriveIf .lo t.val it fun _ =>
    if g.source = 13 then pbits it.body 6 2 = t.val else g.source.toNat = t.val

def execLoPrep (t : Tile) (g : Tag) (body : Bytes) : State → Host.Outcome State Fault Refusal :=
  act fun s => s.arriveLo 0 t g body
def execLoCal (t : Tile) (g : Tag) (body : Bytes) : State → Host.Outcome State Fault Refusal :=
  act fun s => s.arriveLo 1 t g body
def execLoSwitch (t : Tile) (g : Tag) (body : Bytes) : State → Host.Outcome State Fault Refusal :=
  act fun s => s.arriveLo 2 t g body

/-- A refusal of R256: counted, a program fault of a TSQ, and event 93 for a frequency that is not allowed. -/
def State.refuseLo (s : State) (k : Nat) (src : BitVec 4) (pc : BitVec 19) (freq : Bool) : State :=
  let s := (s.bump (cSyn k 0)).refuseSeq src pc
  if freq then s.signal 93 else s

/-- The tuning item of AIRTIME `t` starts, at that tick or now where it is late, or waits for the running one (R257, R264). -/
def State.tune (s : State) (k : Nat) (w : Tune) (t : Int) : State :=
  let x := s.synOf k
  match x.work with
  | some _ => s.setSyn k { x with waiting := x.waiting ++ [w] }
  | none => s.startTune k w (max t s.now.toNat).toNat

/-- A PREP takes effect. -/
def State.applyPrep (s : State) (k : Nat) (x : QItem) : State :=
  let b := x.item.body
  let e := pbits b 8 10
  let v := s.calOf k e
  let y := s.synOf k
  if !calValid v then s.refuseLo k x.item.tag.source x.pc false
  else if !s.loAllowed (calFlo v) || !loKeepsR3 (calFlo v) then s.refuseLo k x.item.tag.source x.pc true
  else if y.state = .failed && y.held && y.entry = e then s.refuseLo k x.item.tag.source x.pc false
  else s.tune k { cal := false, entry := e, phsync := pbit b 5 } (fullTick x.act s.now)

/-- The synthesiser is named by TXSYN or RXSYN of its tile. -/
def State.synNamed (s : State) (k : Nat) : Bool :=
  let l := s.loOf (k / 2)
  l.tx = (k % 2 = 1) || l.rx = (k % 2 = 1)

/-- A CAL takes effect. -/
def State.applyCal (s : State) (k : Nat) (x : QItem) : State :=
  let b := x.item.body
  let flo := BitVec.ofNat 40 (pbits b 64 40)
  if s.synNamed k then s.refuseLo k x.item.tag.source x.pc false
  else if !s.loAllowed flo || !loKeepsR3 flo then s.refuseLo k x.item.tag.source x.pc true
  else s.tune k { cal := true, entry := pbits b 8 10, flo := flo, chan := BitVec.ofNat 6 (pbits b 18 6), phsync := pbit b 5 }
    (fullTick x.act s.now)

/-- A SWITCH takes effect at its AIRTIME, whatever the synthesiser's state; one that is calibrating yields (R257). -/
def State.applySwitch (s : State) (k : Nat) (x : QItem) : State :=
  let b := x.item.body
  let y := s.synOf k
  let l := s.loOf (k / 2)
  let isB : Bool := k % 2 = 1
  if y.state = .failed then s.refuseLo k x.item.tag.source x.pc false
  else
    let s := s.setLo (k / 2) { l with tx := if pbit b 3 then isB else l.tx, rx := if pbit b 4 then isB else l.rx }
    if y.state = .calibrating then s.setSyn k { y with mustYield := y.mustYield || y.waiting.isEmpty } else s

/-- An LO_CTL item takes effect on its tile's SYN A or SYN B. -/
def State.applyLoCtl (s : State) (x : QItem) : State :=
  let k := 2 * x.tile + pbits x.item.body 2 1
  match pbits x.item.body 0 2 with
  | 0 => s.applyPrep k x
  | 1 => s.applyCal k x
  | _ => s.applySwitch k x

/-- PREP_COMPLETE (R255): tuned and locked, by a PREP or a relock. -/
def execPrepComplete (k : Syn) : State → Host.Outcome State Fault Refusal :=
  act fun s =>
    let x := s.synOf k.val
    if x.state = .tuning then
      (s.setSyn k.val { x with state := .locked, ready := true, work := none, relock := false }).nextTune k.val
    else s

/-- Retunes as a PREP from the entry held before a CAL began, or stays not ready (R257, R261). -/
def State.retune (s : State) (k : Nat) : State :=
  let x := s.synOf k
  match x.before with
  | some e => (s.setSyn k { x with work := none }).startTune k { cal := false, entry := e } s.now.toNat
  | none => (s.setSyn k { x with state := .off, ready := false, work := none, mustYield := false }).nextTune k

/-- CAL_COMPLETE (R255, R261, R265): the calibration writes its entry, or fails and the former entry is retuned. R254 judges its
write as any other; of one refused, the entry stays and the former entry is retuned too (DESIGN CHOICE, log entry 42). -/
def execCalComplete (k : Syn) (found : CalResult) : State → Host.Outcome State Fault Refusal :=
  act fun s =>
    let x := s.synOf k.val
    match x.work with
    | some w =>
      if x.state = .calibrating && w.cal && !x.mustYield && x.waiting.isEmpty then
        if !found.locked then ((s.setSyn k.val { x with calFail := true }).signal (88 + k.val / 2)).retune k.val
        else if s.calBad k.val w.entry (calWord w found) then (s.bump (cSyn k.val 0)).retune k.val
        else
          let s := (s.setCal k.val w.entry (calWord w found)).setSyn k.val
            { x with state := .locked, ready := true, work := none, entry := w.entry, held := true, flo := w.flo }
          if found.spread then s.signal 94 else s
      else s
    | none => s

/-- CAL_YIELD (R261): the calibration stops at its checkpoint and writes nothing; the synthesiser takes up what caused the
yield: the former entry again after a SWITCH that named it first, else the item that waits. -/
def execCalYield (k : Syn) : State → Host.Outcome State Fault Refusal :=
  act fun s =>
    let x := s.synOf k.val
    if x.state = .calibrating && (x.mustYield || !x.waiting.isEmpty) then
      let s := s.bump (cSyn k.val 1)
      if x.mustYield then s.retune k.val
      else (s.setSyn k.val { x with work := none }).nextTune k.val
    else s

/-! ## Switch spans and readiness (R149, R258-R260, R283) -/

/-- Ready for transmit: ready, and no stricter record in force forbids its LO, nor did one before it failed (R256). -/
def State.synTxReady (s : State) (k : Nat) : Bool :=
  (s.synOf k).ready && (s.synOf k).barred ≠ some (s.synOf k).flo && (s.regRecord.isNone || s.loAllowed (s.synOf k).flo)

/-- REGULATORY_READ_FAILURE (R284): the record in force fails its check at a read; what it forbade stays forbidden (R256). -/
def execRegulatoryReadFailure : State → Host.Outcome State Fault Refusal :=
  act fun s =>
    match s.regRecord with
    | none => s
    | some _ =>
      let s := (List.range 8).foldl (fun s k =>
        if s.loAllowed (s.synOf k).flo then s else s.setSyn k { s.synOf k with barred := some (s.synOf k).flo }) s
      ({ s with fe := { s.fe with regBad := true } } : State).regWatch

/-- Queued SWITCH items of a tile. -/
def State.switches (s : State) (t : Nat) : List QItem :=
  s.queue.filter fun x => x.port = .lo && x.tile = t && x.item.tag.kind = kLoCtl && pbits x.item.body 0 2 = 2

/-- The synthesiser that a SWITCH item names. -/
def swSyn (x : QItem) : Nat := 2 * x.tile + pbits x.item.body 2 1

/-- TXSYN at an air time: the selection now, moved by the SWITCH items due by then; one to a FAILED synthesiser will be refused and
moves nothing (R256, R259). -/
def State.txSynAt (s : State) (t : Nat) (a : Air) : Nat :=
  let b := ((s.switches t).filter fun x => pbit x.item.body 3 && decide (airDiff a x.act ≥ 0) &&
    decide ((s.synOf (swSyn x)).state ≠ .failed)).foldl (fun _ x => pbit x.item.body 2) (s.loOf t).tx
  2 * t + b.toNat

/-- The switch spans of a tile that run (R258). -/
def State.loSpans (s : State) (t : Nat) : List SwSpan := (s.loOf t).spans.filter fun x => decide (0 < lead x.end_ s.now)

/-- The span of a SWITCH item. -/
def swSpan (x : QItem) : SwSpan := ⟨x.act, pbit x.item.body 3, pbit x.item.body 4⟩

/-- Blanks a time-domain block of a path whole: it is counted on its tile (R54). -/
def State.blankTdSpan (s : State) (x : TdSpan) : State :=
  ({ s with tdSpans := s.tdSpans.filter fun y => y ≠ x } : State).blankTd (tileOfPath x.path)

/-- A live symbol or block of a tile in the switch span that ends at tick `hi` is blanked whole, and counted (R258). -/
def State.blankSwitch (s : State) (t : Nat) (hi : Int) : State :=
  let s := (s.symsTouched t (hi - 394) hi).foldl (fun s y => (s.blankSym [t] y.1 y.2).bump (cTile t 17)) s
  (s.tdSpans.filter fun y => decide (tileOfPath y.path = t) && decide (fullTick y.air s.now < hi) &&
    decide (hi - 394 < fullTick y.air s.now + y.len)).foldl (fun s y => (s.blankTdSpan y).bump (cTile t 17)) s

/-- SWITCH_SPAN_START (R258): the 394 tk that end at the AIRTIME of a queued SWITCH begin, for every SWITCH of which they do; one that
names TX blanks each live symbol and block of the tile in them. -/
def execSwitchSpanStart (t : Tile) : State → Host.Outcome State Fault Refusal :=
  act fun s =>
    let new := (((s.switches t.val).filter fun x => decide (0 < lead x.act s.now ∧ lead x.act s.now ≤ 394)).map swSpan).filter
      fun x => !(s.loSpans t.val).contains x
    let s := s.setLo t.val { s.loOf t.val with spans := s.loSpans t.val ++ new }
    (new.filter SwSpan.tx).foldl (fun s x => s.blankSwitch t.val (fullTick x.end_ s.now)) s

/-- A transmit symbol of a carrier is live on a tile: declared, the carrier on, not blanked. -/
def State.symLive (s : State) (t c : Nat) (a : Air) : Bool :=
  (s.carAt t .tx c (fullTick a s.now)).on && !s.isBlanked t c a && (s.declsAt c a).length > 0

/-- Time-domain blocks of a carrier that begin at an air time on a tile. -/
def State.tdAt (s : State) (t c : Nat) (a : Air) : List TdSpan :=
  s.tdSpans.filter fun x => tileOfPath x.path = t && x.car = c && x.air = a

/-- Blanks a symbol and the time-domain blocks that begin with it on a tile, the counters and events given for each of them. -/
def State.blankAt (s : State) (t c : Nat) (a : Air) (cnts events : List Nat) : State :=
  let n := (if s.symLive t c a then 1 else 0) + (s.tdAt t c a).length
  let s := if s.symLive t c a then s.blankSym [t] c a else s
  let s := (s.tdAt t c a).foldl State.blankTdSpan s
  (List.range n).foldl (fun s _ => s.signalAll events) (cnts.foldl (fun s r => s.bumpBy r n) s)

/-- TX_READINESS_TEST (R259, R283): the symbol is blanked on the tile when TXSYN is not ready, or when its carrier lies in no
allowed range; a tile in an explicit REED blanks it too (R105). -/
def execTxReadinessTest (t : Tile) (c : Carrier) (airtime : Air) : State → Host.Outcome State Fault Refusal :=
  act fun s =>
    if lead airtime s.now > (s.tileTxAdv t.val : Int) || s.rfHeldOff || s.isFenced t.val then s
    else
      let k := s.txSynAt t.val airtime
      if s.tileStopped t.val then
        if (s.tilePower t.val).auto then s else s.blankAt t.val c.val airtime [] []
      else if !s.synTxReady k then s.blankAt t.val c.val airtime [cTile t.val 17] [88 + t.val]
      else
        match s.regRecord with
        | some _ =>
          let a := fullTick airtime s.now
          if s.bandAllowed (s.synOf k).flo (s.carAt t.val .tx c.val a) (s.fftAt .tx c.val a).mu then s
          else s.blankAt t.val c.val airtime [] [99]
        | none => s

/-! ## Lock loss (R262) -/

/-- Every relock attempt has failed, or SYNk_CFG.RETRY allows none: the entry is marked and the synthesiser FAILED. A PREP to that
entry which waited for the relock is refused as one that falls due now would be; it is counted alone, for its issuer had it accepted
(R256, R262; DESIGN CHOICE, log entry 42). -/
def State.relockFails (s : State) (k : Nat) : State :=
  let x := s.synOf k
  let left := x.waiting.dropWhile fun w => !w.cal && w.entry = x.entry
  let s := s.setCal k x.entry (setBit (s.calOf k x.entry) 1 true)
  let s := (s.setSyn k { x with state := .failed, ready := false, relock := false, work := none, waiting := left }).signal (88 + k / 2)
  (s.bumpBy (cSyn k 0) (x.waiting.length - left.length)).nextTune k

/-- LOCK_LOSS (R262): where TXSYN names the synthesiser, the tile's modulators are zeroed, its enables dropped, and the symbol
in flight counted as blanked, as is one whose test has passed and which is still to begin; the relock starts, without PHSYNC, where SYNk_CFG.RETRY allows one attempt at least. -/
def execLockLoss (k : Syn) : State → Host.Outcome State Fault Refusal :=
  act fun s =>
    let x := s.synOf k.val
    let t := k.val / 2
    if x.ready then
      let s := s.setSyn k.val { x with
        state := .tuning, ready := false, relock := true, work := some { cal := false, entry := x.entry }, phaseAt := none
        tunedAt := s.clock }
      let s :=
        if (s.loOf t).tx = (k.val % 2 = 1) then
          (tileQuads t).foldl State.dropTxEn ((s.countFlight t).cutQuads false (tileQuads t))
        else s
      let s := (s.bump (cSyn k.val 2)).signal (88 + t)
      if fld (s.reg (rSynCfg k.val)) 0 2 = 0 then s.relockFails k.val else s
    else s

/-- RELOCK_FAILURE (R262): every attempt has failed. -/
def execRelockFailure (k : Syn) : State → Host.Outcome State Fault Refusal :=
  act fun s =>
    if (s.synOf k.val).relock then s.relockFails k.val else s

/-- Every synthesiser stops counting as ready: the reference is lost (R263). -/
def State.synsNotReady (s : State) : State :=
  (List.range 8).foldl (fun s k => s.setSyn k { s.synOf k with ready := false }) s

/-- The longest duration of each of the phases 1 to 5 (R260's table). -/
def calPhaseMax : List Nat := [8192, 131072, 65536, 49152, 24576]

/-- CALPHASE while a calibration runs: the phases 1 to 5 are over one after the other, each within its bound; how long one lasts is a
free value (log entries 2 and 42). -/
def State.calPhase (s : State) (k : Nat) : Nat :=
  let x := s.synOf k
  if x.state ≠ .calibrating then 0
  else
    let len := fun i => Config.calPhaseLen k x.tunedAt i % (calPhaseMax.getD i 0 + 1)
    1 + ((List.range 5).filter fun i => x.tunedAt + ((List.range (i + 1)).map len).sum ≤ s.clock).length

/-- SYNk_STAT (R268). -/
def State.synStat (s : State) (k : Nat) : BitVec 32 :=
  let x := s.synOf k
  let st := match x.state with
    | .off => 0
    | .tuning => 1
    | .calibrating => 2
    | .locked => 3
    | .failed => 4
  BitVec.ofNat 32 (st + (if x.state = .locked && x.ready then 8 else 0) + (if x.ready then 16 else 0) + 32 * s.calPhase k +
    256 * x.entry + (if x.calFail then 2 ^ 18 else 0))

end Sys2Proof.Machine
end

