-- ==== Sys2Proof/Machine/FrontEnd.lean ====
section
/-! DEFINITION. Front-end control: per-quad enables, RFFE groups and commands, tuners, loopback, mismatch muting, the
limiter, RF_SAFE_N and coexistence (R106, R143, R181, R269-R293, R615). -/

namespace Sys2Proof.Machine
open Sys2Proof

/-! ## Quads -/

def State.txlag (s : State) (q : Nat) : Nat := fld (s.reg (rFeLag q)) 0 12
def State.minoff (s : State) (q : Nat) : Nat := fld (s.reg (rFeLag q)) 16 12
/-- The quads of a path's tile. -/
def quadTile (q : Nat) : Nat := q / 4

/-! ## RFFE (R272-R276) -/

/-- Ticks of one SCLK cycle of a bus (R272). -/
def State.rffeTk (s : State) (b : Nat) : Nat := if (s.reg (rRffecfg (b / 2))).getLsbD (b % 2) then 304 else 152

/-- SCLK cycles of a frame word (R273). -/
def frameCycles (f : BitVec 64) : Nat :=
  let n := fld f 24 2 + 1
  match fld f 0 3 with
  | 0 => 25
  | 1 => 16
  | 2 => 25 + 9 * n
  | 3 => 34 + 9 * n
  | 4 => 26
  | _ => 26 + 9 * n

/-- A frame word is valid (R274); `cmd` leaves bit 7 free (R293). -/
def frameOk (f : BitVec 64) (cmd : Bool) : Bool := fld f 0 3 ≤ 5 && (cmd || !f.getLsbD 7) && fld f 26 6 = 0

/-- Ticks of a list of frames, idle cycles included. -/
def State.framesTk (s : State) (b : Nat) (fs : List (BitVec 64)) : Nat := (fs.map fun f => (frameCycles f + 1) * s.rffeTk b).sum

/-- Frame words [start, start + count) of a tile. -/
def State.frameWords (s : State) (t start count : Nat) : List (BitVec 64) :=
  ((List.range count).filter fun i => start + i < 512).map fun i => s.reg64 (rFeFrame t (start + i))

def State.groupsOf (s : State) (b : Nat) : List RffeGroup := tget (fun _ => []) s.fe.groups b
def State.setGroups (s : State) (b : Nat) (g : List RffeGroup) : State :=
  { s with fe := { s.fe with groups := tput (fun _ => []) b (g.filter fun x => s.now.toNat < x.stop) s.fe.groups } }

/-- The latest end at or before `e` at which a span of `d` ticks is free (R275). -/
def freeEnd (gs : List RffeGroup) (e d : Int) : Int :=
  gs.foldl (fun e _ =>
    match gs.find? fun g => decide ((g.start : Int) < e ∧ e - d < (g.stop : Int)) with
    | some g => g.start
    | none => e) e

/-- A group that is dropped whole (R275, R276). -/
def State.missGroup (s : State) (t : Nat) : State := (s.bump (cFe t 0)).signal 100

/-- The valid frame words of a group; the others are skipped and counted when the group is scheduled (R274). -/
def State.skipBad (s : State) (t : Nat) (fs : List (BitVec 64)) : State × List (BitVec 64) :=
  let good := fs.filter fun f => frameOk f false
  let badN := fs.length - good.length
  (if badN = 0 then s else (s.bumpBy (cFe t 1) badN).signal 100, good)

/-- The end of a group's frame that is in progress on its bus, or its start where none is yet (R276). -/
def State.frameEnd (s : State) (b : Nat) (g : RffeGroup) : Nat :=
  g.frames.foldl (fun e f => if s.now.toNat ≤ e then e else e + s.framesTk b [f]) g.start

/-- Schedules a group that must end at full tick `e`: placed at the latest free span, or dropped (R275). The second result tells
whether it was placed. -/
def State.placeGroup (s : State) (b : Nat) (e : Int) (fs : List (BitVec 64)) (tag : Tag) : State × Bool :=
  let t := b / 2
  let (s, good) := s.skipBad t fs
  let d : Int := s.framesTk b good
  let gs := s.groupsOf b
  let end_ := freeEnd gs e d
  let clash := gs.any fun g => decide ((g.start : Int) < end_ ∧ end_ - d < (g.stop : Int))
  if good.isEmpty then (s, true)
  else if clash || end_ - d < s.now.toNat + 512 then (s.missGroup t, false)
  else (s.setGroups b (gs ++ [{ start := (end_ - d).toNat, stop := end_.toNat, frames := good, tag := tag, begun := false, safety := false }]), true)

/-- Frames of a group whose own starts on the bus have come (R273, R275). -/
def State.framesBegun (s : State) (b : Nat) (g : RffeGroup) : Nat :=
  ((List.range g.frames.length).filter fun i => g.start + s.framesTk b (g.frames.take i) ≤ s.now.toNat).length

/-- A group that has begun sends each of its frames when that frame's own span begins. -/
def State.sendFrames (s : State) (b : Nat) (g : RffeGroup) : State × RffeGroup :=
  if !g.begun then (s, g)
  else (((g.frames.take (s.framesBegun b g)).drop g.sent).foldl (fun s f => s.emitOut (.rffe b f)) s, { g with sent := max g.sent (s.framesBegun b g) })

/-- The frames that begin at this tick on a bus are sent. -/
def State.sendBus (s : State) (b : Nat) : State :=
  if (s.groupsOf b).isEmpty then s
  else
    let (s, gs) := (s.groupsOf b).foldl (fun (a : State × List RffeGroup) g =>
      let (s, g) := a.1.sendFrames b g
      (s, a.2 ++ [g])) (s, [])
    s.setGroups b gs

/-- The same on every bus. -/
def State.rffeTick (s : State) : State := (List.range 8).foldl State.sendBus s

/-- RFFE_GROUP_START (R275): the earliest placed group whose time has come begins: its first frame is sent, and the others as time
passes. -/
def execRffeGroupStart (b : Bus) : State → Host.Outcome State Fault Refusal :=
  act fun s =>
    match (s.groupsOf b.val).find? fun g => !g.begun && decide (g.start ≤ s.now.toNat) with
    | none => s
    | some g => (s.setGroups b.val ((s.groupsOf b.val).map fun x => if x = g then { x with begun := true } else x)).sendBus b.val

/-- A path's shutdown sequence (R276): it starts after the frame in progress and cuts off the tagged groups in its way, whose frames
still to be sent are lost. -/
def State.safetySeq (s : State) (p : Nat) (rx : Bool) : State :=
  let sh := s.reg (rFeShut p)
  let t := tileOfPath p
  let b := 2 * t + (if rx then fld sh 27 1 else fld sh 13 1)
  let (s, fs) := s.skipBad t (s.frameWords t (if rx then fld sh 14 9 else fld sh 0 9) (if rx then fld sh 23 4 else fld sh 9 4))
  if fs.isEmpty then s
  else
    let gs := s.groupsOf b
    let ends := gs.map fun g => if g.safety then g.stop else if g.begun then min g.stop (s.frameEnd b g) else 0
    let from_ := ends.foldl max s.now.toNat
    let to_ := from_ + s.framesTk b fs
    let hit := fun (g : RffeGroup) => !g.safety && decide (g.start < to_ ∧ from_ < g.stop)
    let s := (List.range (gs.filter hit).length).foldl (fun s _ => s.missGroup t) s
    (s.setGroups b ((gs.filter fun g => !hit g) ++
      [{ start := from_, stop := to_, frames := fs, tag := {}, begun := true, safety := true }])).sendBus b

/-- FE_RFFECMD (R276): a command of the host or of management firmware is queued; an invalid one is skipped and counted. Another
initiator's write is an error (DESIGN CHOICE, log entry 42). -/
def State.writeRffecmd (s : State) (w : Initiator) (t : Nat) (v : BitVec 64) : State :=
  if w ≠ .host && w ≠ .mgmt then s.error
  else
    let s := s.done
    if frameOk v true then
      let s := s.setReg (rRfferd t) 0
      { s with fe := { s.fe with cmds := tput (fun _ => []) t (tget (fun _ => []) s.fe.cmds t ++ [v]) s.fe.cmds } }
    else (s.bump (cFe t 1)).signal 100

def execFeRffecmd (w : Initiator) (t : Tile) (v : BitVec 64) : State → Host.Outcome State Fault Refusal :=
  unitAct w (rFe t.val 0x30) fun s => s.writeRffecmd w t.val v

/-- RFFECMD_RUN (R276): the oldest command runs where it fits before the next placed group, and returns its data. -/
def execRffecmdRun (t : Tile) (rd : BitVec 8) (parerr : Bool) : State → Host.Outcome State Fault Refusal :=
  act fun s =>
    match tget (fun _ => []) s.fe.cmds t.val with
    | [] => s
    | v :: vs =>
      let b := 2 * t.val + (v.getLsbD 7).toNat
      let d := s.framesTk b [v]
      if (s.groupsOf b).any fun g => g.start < s.now.toNat + d && s.now.toNat < g.stop then s
      else
        let s : State := { s with fe := { s.fe with cmds := tput (fun _ => []) t.val vs s.fe.cmds } }
        let read := decide (4 ≤ fld v 0 3)
        let g : RffeGroup := { start := s.now.toNat, stop := s.now.toNat + d, frames := [setBit v 7 false], tag := {}, begun := true, safety := true }
        let s := (s.setGroups b (s.groupsOf b ++ [g])).sendBus b
        let w := (if read then rd.toNat else 0) + 256 + (if read && parerr then 512 else 0)
        let s := s.setReg (rRfferd t.val) (BitVec.ofNat 32 w)
        if read && parerr then s.signal 100 else s

/-! ## FE_CTL items (R143, R158, R270, R275, R277) -/

/-- The frame of a path's tuner write (R277); none where its byte count is 0. -/
def State.tunerFrame (s : State) (p e : Nat) : Option (Nat × BitVec 64) :=
  let m := s.reg (rFeTunmap p)
  let n := min (fld m 21 3) 4
  if n = 0 then none
  else
    let data := (s.reg (rFeTuner (tileOfPath p) e)).toNat % 256 ^ n
    some (2 * tileOfPath p + fld m 0 1,
      BitVec.ofNat 64 (2 + 2 ^ 3 * fld m 1 4 + 2 ^ 8 * fld m 5 16 + 2 ^ 24 * ((n - 1)) + 2 ^ 32 * data))

/-- What an accepted FE_CTL schedules: receive switches, tuner groups, and its RFFE group. -/
def State.scheduleFe (s : State) (x : QItem) : State :=
  let b := x.item.body
  let t := x.tile
  let a := fullTick x.act s.now
  let sw : List RxSwitch :=
    if pbit b 4 || pbit b 5 then
      (feQuads t b).map fun q => ⟨q, pbit b 4, pbit b 6, pbit b 7, a - s.rxAdv q, x.item.tag⟩
    else []
  let s : State := { s with fe := { s.fe with rxSched := s.fe.rxSched ++ sw } }
  let s :=
    if pbit b 11 then
      (tileMaskPaths t (pbits b 64 16)).foldl (fun s p =>
        match s.tunerFrame p (pbits b 80 6) with
        | some (bus, f) => (s.placeGroup bus (a - pbits b 96 16) [f] x.item.tag).1
        | none => s) s
    else s
  if pbit b 12 then
    (s.placeGroup (2 * t + pbits b 16 1) (a - pbits b 32 16) (s.frameWords t (pbits b 17 9) (pbits b 26 4 + 1)) x.item.tag).1
  else s

/-- An FE_CTL item with the flag of its row set. -/
def State.arriveFe (s : State) (flag : Nat) (t : Tile) (g : Tag) (body : Bytes) : State :=
  let it := mkItem kFeCtl g (setPay body flag 1 1)
  s.arrive .fe t.val it fun pc s =>
    match s.placeCtl .fe t.val it pc with
    | (s, some x) => (s.enqueue x).scheduleFe x
    | (s, none) => s

def execFeRxon (t : Tile) (g : Tag) (body : Bytes) : State → Host.Outcome State Fault Refusal :=
  act fun s => s.arriveFe 4 t g body
def execFeRxoff (t : Tile) (g : Tag) (body : Bytes) : State → Host.Outcome State Fault Refusal :=
  act fun s => s.arriveFe 5 t g body
def execFeLoopback (t : Tile) (g : Tag) (body : Bytes) : State → Host.Outcome State Fault Refusal :=
  act fun s => s.arriveFe 8 t g body
def execFeLbrel (t : Tile) (g : Tag) (body : Bytes) : State → Host.Outcome State Fault Refusal :=
  act fun s => s.arriveFe 9 t g body
def execFeRxcal (t : Tile) (g : Tag) (body : Bytes) : State → Host.Outcome State Fault Refusal :=
  act fun s => s.arriveFe 10 t g body
def execFeTune (t : Tile) (g : Tag) (body : Bytes) : State → Host.Outcome State Fault Refusal :=
  act fun s => s.arriveFe 11 t g body
def execRffeGroup (t : Tile) (g : Tag) (body : Bytes) : State → Host.Outcome State Fault Refusal :=
  act fun s => s.arriveFe 12 t g body

/-- Traffic forbids loopback or calibration coupling of a quad at full tick `a` (R143). -/
def State.trafficForbids (s : State) (q : Nat) (a : Int) : Bool :=
  (quadPaths q).any fun p => s.liveIn p s.now.toNat (a + s.txAdv q + 1024)

/-- An FE_CTL takes effect at its AIRTIME: loopback and calibration coupling engage or release (R143, R158). -/
def State.applyFeCtl (s : State) (x : QItem) : State :=
  let b := x.item.body
  (feQuads x.tile b).foldl (fun s q =>
    let s := if pbit b 9 then { s with fe := { s.fe with loop := s.fe.loop &&& ~~~bit16 q, rxcal := s.fe.rxcal &&& ~~~bit16 q } } else s
    if pbit b 8 || pbit b 10 then
      if s.trafficForbids q (fullTick x.act s.now) then s.bump (cTile x.tile 8)
      else
        let s : State := { s with fe := { s.fe with
          loop := if pbit b 8 then s.fe.loop ||| bit16 q else s.fe.loop
          rxcal := if pbit b 10 then s.fe.rxcal ||| bit16 q else s.fe.rxcal } }
        if pbit b 8 then s.dropTxEn q else s
    else s) s

/-- LOOPBACK_RELEASE_BY_TRAFFIC (R143): 1,024 tk plus the FE advance before the quad's next live sample. -/
def execLoopbackReleaseByTraffic (q : Quad) : State → Host.Outcome State Fault Refusal :=
  act fun s =>
    if s.fe.loop.getLsbD q.val || s.fe.rxcal.getLsbD q.val then
      match s.nextLiveOf (quadPaths q.val) s.now.toNat with
      | some n =>
        if n - (1024 + s.txAdv q.val) ≤ s.now.toNat then
          ({ s with fe := { s.fe with loop := s.fe.loop &&& ~~~bit16 q.val, rxcal := s.fe.rxcal &&& ~~~bit16 q.val } } : State).bump
            (cTile (quadTile q.val) 8)
        else s
      | none => s
    else s

/-! ## Coexistence (R289-R291) -/

def State.coxCfg (s : State) (c : Nat) : BitVec 32 := s.reg (rCoxCfg c)
def State.coxOn (s : State) (c : Nat) : Bool := (s.coxCfg c).getLsbD 19
/-- The grant of channel `c` is heeded for quad `q`: the channel covers it and its request is high (R289). -/
def State.coxCovers (s : State) (c q : Nat) : Bool := s.coxOn c && (s.coxCfg c).getLsbD q && s.fe.coxReq.getLsbD c
def State.reqAdv (s : State) (c : Nat) : Nat := fld (s.coxCfg c) 20 12

/-- The channels whose grant, as sampled, refuses the quad (R290). -/
def State.coxRefuse (s : State) (q : Nat) (gnt : BitVec 4) : List Nat :=
  [0, 1, 2, 3].filter fun c => s.coxCovers c q && !gnt.getLsbD c

/-- A quad's transmit enable is on for some spans at this tick: TXADV before one, to TXLAG after it, and over gaps below MINOFF
(R269). -/
def State.txWanted (s : State) (q : Nat) (spans : List (Int × Int)) : Bool :=
  spans.any fun x => decide (x.1 - s.txAdv q < (s.now.toNat + s.minoff q : Nat)) && decide ((s.now.toNat : Int) < x.2 + s.txlag q)

/-- The earliest time at which an enable that channel `c` requests is scheduled on, from now (R289). -/
def State.coxNext (s : State) (c : Nat) : Option Int :=
  let cfg := s.coxCfg c
  let quads := bitsSet (fld cfg 0 16) 16
  let tx := if cfg.getLsbD 16 then
      quads.filterMap fun q => (nextIn ((quadPaths q).flatMap s.schedSpans) s.now.toNat).map (· - (s.txAdv q : Int)) else []
  let rx := if cfg.getLsbD 17 then (s.fe.rxSched.filter fun x => x.on && decide (x.quad ∈ quads)).map fun x => x.at_ else []
  (tx ++ rx).foldl (fun (a : Option Int) x =>
    match a with
    | none => some x
    | some y => some (min x y)) none

/-- An enable that channel `c` requests is scheduled on now, whether a grant or RF_SAFE_N lets it be driven or not (R289). -/
def State.coxBusy (s : State) (c : Nat) : Bool :=
  let cfg := s.coxCfg c
  (List.range 16).any fun q => cfg.getLsbD q &&
    (cfg.getLsbD 16 && s.txWanted q ((quadPaths q).flatMap s.schedSpans) ||
     cfg.getLsbD 17 && (s.fe.rxWant.getLsbD q || s.fe.rxDeny.getLsbD q))

/-- COX_REQ falls when the span's scheduled enable falls; spans less than REQADV apart are merged (R289). -/
def State.coxFall (s : State) : State :=
  [0, 1, 2, 3].foldl (fun s c =>
    let near := match s.coxNext c with
      | some n => decide (n < s.now.toNat + s.reqAdv c)
      | none => false
    if s.fe.coxReq.getLsbD c && (!s.coxOn c || !s.coxBusy c && !near) then
      { s with fe := { s.fe with coxReq := setBit s.fe.coxReq c false, coxPri := setBit s.fe.coxPri c false } }
    else s) s

/-- A receive span of channel `c` that begins at tick `n` was set by an FE_CTL with PRI (R289). -/
def State.coxRxPri (s : State) (c : Nat) (n : Int) : Bool :=
  (s.coxCfg c).getLsbD 17 && s.fe.rxSched.any fun x => x.on && x.pri && (s.coxCfg c).getLsbD x.quad && decide (x.at_ = n)

/-- COX_REQUEST_RISE (R289): REQADV before the enable time of a span. `pri` is the PRI of a transmit span's FE_CTL. -/
def execCoxRequestRise (c : Cox) (pri : Bool) : State → Host.Outcome State Fault Refusal :=
  act fun s =>
    match s.coxNext c.val with
    | some n =>
      if s.coxOn c.val && !s.fe.coxReq.getLsbD c.val && n - s.reqAdv c.val ≤ s.now.toNat then
        { s with fe := { s.fe with
            coxReq := setBit s.fe.coxReq c.val true
            coxPri := setBit s.fe.coxPri c.val (pri || s.coxRxPri c.val n || (s.coxCfg c.val).getLsbD 18) } }
      else s
    | none => s

/-- A coexistence grant refuses or ends the quad's receive span, or a later span replaces it (R290, R291). -/
def State.denyRx (s : State) (q : Nat) (v : Bool) : State := { s with fe := { s.fe with rxDeny := setBit s.fe.rxDeny q v } }

/-- COX_GRANT_WITHDRAWN (R291): the channel's quads that transmit begin to ramp to zero, and the rest of what is in flight is
blank; those that receive deliver zeros, with their enable low. -/
def execCoxGrantWithdrawn (c : Cox) : State → Host.Outcome State Fault Refusal :=
  act fun s =>
    let on := fun (m : BitVec 16) => (List.range 16).filter fun q => (s.coxCfg c.val).getLsbD q && m.getLsbD q
    let txs := on s.fe.txEn
    let rxs := on s.fe.rxEn
    if s.coxOn c.val && s.fe.coxReq.getLsbD c.val && !(txs.isEmpty && rxs.isEmpty) then
      let s := rxs.foldl (fun s q => (s.denyRx q true).setRxEn q false) (s.cutQuads true txs)
      ((s.bump (cCox c.val 1)).signal 101).coxFall
    else s

/-! ## Enables (R269, R270, R288, R290) -/

/-- Carriers with a live symbol of the quad's tile at an air time. -/
def State.liveCars (s : State) (t : Nat) (a : Air) : List Nat := [0, 1, 2, 3].filter fun c => s.symLive t c a

/-- What begins at an air time is blank on the quad's paths (R288, R290). Old records are dropped. -/
def State.blankQuad (s : State) (q : Nat) (a : Air) : State :=
  { s with fe := { s.fe with
      quadBlanks := (s.fe.quadBlanks.filter fun x => decide (lead x.air s.now > -(2 ^ 26 : Int))) ++ [⟨q, a, fullTick a s.now⟩] } }

/-- The tick at which a quad resumes after RF_SAFE_N has risen: the first symbol start at least 8,192 tk plus its TXADV after the
rising edge (R288). -/
def State.safeResume (s : State) (q : Nat) : Option Int :=
  s.fe.safeRise.map fun r => s.firstSymOf (quadTile q) (r + 8192 + s.txAdv q : Nat)

/-- RF_SAFE_N still holds a quad at a tick (R288). -/
def State.safeHeldAt (s : State) (q : Nat) (t : Int) : Bool :=
  s.fe.safeHold.getLsbD q && (match s.safeResume q with
    | some r => decide (t < r)
    | none => true)

/-- What begins at an air time on a held quad is blanked and counted: its tile's symbols, and the time-domain blocks of its own paths
(R288). -/
def State.blankHeld (s : State) (q : Nat) (a : Air) : State :=
  let blocks := s.tdSpans.filter fun x => decide (quadOfPath x.path = q) && x.air = a && !s.quadBlank x.path a (fullTick a s.now)
  let s := (s.liveCars (quadTile q) a).foldl (fun s c => s.blankBy 0 [quadTile q] c a) (s.blankQuad q a)
  blocks.foldl (fun s _ => s.blankTd (quadTile q)) s

/-- FE_TXEN_ON (R269, R290): TXADV before the live sample at `airtime` the grants are sampled and the enable rises. While
RF_SAFE_N holds the quad the symbol is blanked and counted instead (R288). -/
def execFeTxenOn (q : Quad) (airtime : Air) (gnt : BitVec 4) : State → Host.Outcome State Fault Refusal :=
  act fun s =>
    let t := quadTile q.val
    let starts := (quadPaths q.val).any fun p => (s.liveSpans p).any fun x => x.1 = fullTick airtime s.now
    if !starts || lead airtime s.now > (s.txAdv q.val : Int) || s.rfHeldOff || s.regHeld || !s.tileOn t || s.fnStopped 16 t then s
    else if s.safeHeldAt q.val (fullTick airtime s.now) then s.blankHeld q.val airtime
    else
      let no := s.coxRefuse q.val gnt
      if !no.isEmpty then (no.foldl (fun s c => s.bump (cCox c 0)) (s.blankQuad q.val airtime)).signal 101
      else if s.fe.loop.getLsbD q.val then s
      else
        let s := s.setTxEn q.val true
        if s.fe.rxEn.getLsbD q.val && !s.fe.rxDup.getLsbD q.val then (s.setRxEn q.val false).bump (cFe t 2) else s

/-- A ramp to zero has ended on the quad, TXLAG ago at least (R291). -/
def State.rampedOut (s : State) (q : Nat) : Bool :=
  s.fe.cuts.any fun c => c.quad = q && c.ramp && decide (c.zeroFrom + s.txlag q ≤ (s.now.toNat : Int)) &&
    decide ((s.now.toNat : Int) < c.until_)

/-- FE_TXEN_OFF (R269): TXLAG after the last live sample has left, unless the next live span is less than MINOFF away; TXLAG
after a ramp to zero in any case (R291). A receive enable that was held off follows (R270). A request follows the schedule, be the
enable on or not (R289). -/
def execFeTxenOff (q : Quad) : State → Host.Outcome State Fault Refusal :=
  act fun s =>
    let busy := s.txWanted q.val ((quadPaths q.val).flatMap s.liveSpans)
    if s.fe.txEn.getLsbD q.val && (!busy || s.rampedOut q.val) then (s.dropTxEn q.val).coxFall else s.coxFall

/-- FE_RXEN_SWITCH (R270, R290): a scheduled switch of the quad's receive enable falls due. -/
def execFeRxenSwitch (q : Quad) (gnt : BitVec 4) : State → Host.Outcome State Fault Refusal :=
  act fun s =>
    match s.fe.rxSched.find? fun x => x.quad = q.val && decide (x.at_ ≤ (s.now.toNat : Int)) with
    | none => s
    | some x =>
      let s : State := { s with fe := { s.fe with rxSched := s.fe.rxSched.erase x } }
      if !x.on then
        ((({ s with fe := { s.fe with rxWant := setBit s.fe.rxWant q.val false, rxDup := setBit s.fe.rxDup q.val false } } : State).denyRx
          q.val false).setRxEn q.val false).coxFall
      else
        let no := s.coxRefuse q.val gnt
        if !no.isEmpty then ((no.foldl (fun s c => s.bump (cCox c 0)) s).denyRx q.val true).signal 101
        else
          let s := s.denyRx q.val false
          let s : State := { s with fe := { s.fe with rxWant := setBit s.fe.rxWant q.val true, rxDup := setBit s.fe.rxDup q.val x.dup } }
          if s.fe.txEn.getLsbD q.val && !x.dup then s.bump (cFe (quadTile q.val) 2) else s.setRxEn q.val true

/-! ## Muting (R279, R280) -/

/-- Mutes a path for mismatch (R280). -/
def State.mutePath (s : State) (p : Nat) : State :=
  let t := tileOfPath p
  let s := ({ s with fe := { s.fe with mute := s.fe.mute ||| bit64 p, silent := s.fe.silent ||| bit64 p } } : State).signal 97
  if (s.reg64 (rMmcfg t)).getLsbD 34 then s.safetySeq p false else s

/-- FE_MUTE_RELEASE (R280): the host or management firmware writes 1 to a bit and so releases the muted path. Another initiator's
write is an error (DESIGN CHOICE, log entry 42). -/
def State.writeMute (s : State) (w : Initiator) (t : Nat) (mask : BitVec 64) : State :=
  if w ≠ .host && w ≠ .mgmt then s.error
  else ((bitsSet mask.toNat 64).filter fun p => decide (tileOfPath p = t) && s.fe.mute.getLsbD p).foldl (fun s p =>
    { s with fe := { s.fe with mute := s.fe.mute &&& ~~~bit64 p, muteRel := tput (fun _ => 0) p s.now.toNat s.fe.muteRel } }) s.done

def execFeMuteRelease (w : Initiator) (t : Tile) (mask : BitVec 64) : State → Host.Outcome State Fault Refusal :=
  unitAct w (rFe t.val 0x40) fun s => s.writeMute w t.val mask

/-- MUTED_PATH_RESUME (R280): the first symbol start at least 8,192 + TXADV after the write. The enable has risen TXADV before it
(`State.liveSpans`). -/
def execMutedPathResume (p : Path) : State → Host.Outcome State Fault Refusal :=
  act fun s =>
    match s.muteResume p.val with
    | some r =>
      if s.fe.silent.getLsbD p.val && decide (r ≤ s.now.toNat) then
        { s with fe := { s.fe with silent := s.fe.silent &&& ~~~bit64 p.val, muteRun := tput (fun _ => 0) p.val 0 s.fe.muteRun } }
      else s
    | none => s

/-! ## The limiter (R284-R286) -/

def State.limOf (s : State) (p : Nat) : LimSt := tget (fun _ => {}) s.fe.lim p
def State.setLim (s : State) (p : Nat) (x : LimSt) : State := { s with fe := { s.fe with lim := tput (fun _ => {}) p x s.fe.lim } }
/-- The smaller of a path's factors (R285). -/
def LimSt.gain (x : LimSt) : BitVec 16 := if x.own.toNat ≤ x.dev.toNat then x.own else x.dev

/-- Sets a path's factors; a reduction that starts from 1.0 is counted (R285). -/
def State.limSet (s : State) (p : Nat) (x : LimSt) : State :=
  let old := s.limOf p
  let s := s.setLim p { x with at_ := s.now.toNat }
  if old.gain = 0x8000 && x.gain ≠ 0x8000 then (s.bump (cTile (tileOfPath p) 16)).signal (4 * tileOfPath p + 1) else s

/-- A gain rounded to the 16-bit form: which of the two neighbours is taken is a free value (log entry 2). -/
def State.roundGain (s : State) (g : Nat) : BitVec 16 × State :=
  let (w, s) := s.draw
  (BitVec.ofNat 16 (min 0x8000 (g + fld w 0 1)), s)

/-- LIMITER_GAIN_RISE (R285): 4,096 tk after the last change each factor below 1.0 rises by 2^(1/64). -/
def execLimiterGainRise (p : Path) : State → Host.Outcome State Fault Refusal :=
  act fun s =>
    let x := s.limOf p.val
    if x.gain ≠ 0x8000 && x.at_ + 4096 ≤ s.now.toNat then
      let (own, s) := if x.own = 0x8000 then (x.own, s) else s.roundGain (risenGain x.own.toNat)
      let (dev, s) := if x.dev = 0x8000 then (x.dev, s) else s.roundGain (risenGain x.dev.toNat)
      s.setLim p.val ⟨own, dev, s.now.toNat⟩
    else s

/-- DUTY_WINDOW_START (R286): windows start at multiples of 10 ms of the counter. -/
def execDutyWindowStart : State → Host.Outcome State Fault Refusal :=
  act fun s =>
    let w := s.now.toNat / dutyWindow * dutyWindow
    if s.fe.dutyAt < w then { s with fe := { s.fe with dutyAt := w, dutyOut := 0 } } else s

/-- A path's present tick counts for its duty: its quad's FE_TXEN_Q is on, and it is neither muted nor blank (R286). -/
def State.dutyOn (s : State) (p : Nat) : Bool := s.fe.txEn.getLsbD (quadOfPath p) && s.liveIn p s.now.toNat (s.now.toNat + 1)

/-- The ticks counted by path in the present window; none are in a new one (R286). -/
def State.dutyCount (s : State) : Table Nat := if s.fe.dutyNum = s.now.toNat / dutyWindow then s.fe.dutyRun else []

/-- Enabled ticks of a path in the present window (R286). -/
def State.dutyTicks (s : State) (p : Nat) : Nat := tget (fun _ => 0) s.dutyCount p

/-- The present tick is counted on each enabled path (R286). -/
def State.dutyTick (s : State) : State :=
  let run := ((List.range 64).filter s.dutyOn).foldl (fun r p => tput (fun _ => 0) p (tget (fun _ => 0) r p + 1) r) s.dutyCount
  { s with fe := { s.fe with dutyRun := run, dutyNum := s.now.toNat / dutyWindow } }

/-- DUTY_LIMIT_REACHED (R286). -/
def execDutyLimitReached (p : Path) : State → Host.Outcome State Fault Refusal :=
  act fun s =>
    match s.regRecord with
    | none => s
    | some r =>
      if !s.fe.dutyOut.getLsbD p.val && regDuty r * dutyWindow ≤ 65536 * s.dutyTicks p.val then
        (({ s with fe := { s.fe with dutyOut := s.fe.dutyOut ||| bit64 p.val } } : State).signal (4 * tileOfPath p.val + 1)).signal 99
      else s

/-! ## RF_SAFE_N (R288) -/

/-- RF_SAFE_N_FALL: low for 64 tk. -/
def execRfSafeNFall : State → Host.Outcome State Fault Refusal :=
  act fun s =>
    if !s.fe.rfSafe then s
    else
      let s := (allTiles.foldl State.countFlight s).cutQuads false (List.range 16)
      let s := ({ s with fe := { s.fe with rfSafe := false, safeRise := none, safeHold := 0xFFFF } } : State).signal 98
      let s := (List.range 16).foldl State.dropTxEn s
      ((List.range 64).foldl (fun s p => s.safetySeq p false) s).coxFall

/-- RF_SAFE_N_RISE. -/
def execRfSafeNRise : State → Host.Outcome State Fault Refusal :=
  act fun s => if s.fe.rfSafe then s else { s with fe := { s.fe with rfSafe := true, safeRise := some s.now.toNat } }

/-- RF_SAFE_RESUME: the first symbol start at least 8,192 tk plus the quad's TXADV after the rising edge. The enable has risen TXADV
before it (`State.safeHeldAt`). -/
def execRfSafeResume (q : Quad) : State → Host.Outcome State Fault Refusal :=
  act fun s =>
    if s.fe.safeRise.isSome && !s.safeHeldAt q.val s.now.toNat then
      { s with fe := { s.fe with safeHold := s.fe.safeHold &&& ~~~bit16 q.val } }
    else s

/-! ## Paths leaving service (R106, R181) -/

/-- PATH_POWER_DOWN (R106, R181): once the tail of the last symbol begun before its removal has left, a path out of service
powers its converter and analogue down, and its shutdown sequence is sent. -/
def execPathPowerDown (p : Path) (rx : Bool) : State → Host.Outcome State Fault Refusal :=
  act fun s =>
    if rx then
      if s.rxOut.getLsbD p.val && !s.adcOff.getLsbD p.val then
        ({ s with adcOff := s.adcOff ||| bit64 p.val } : State).safetySeq p.val true
      else s
    else
      let out : Int := (tget (fun _ => 0) s.fe.outAt p.val : Nat)
      let tail := (s.txSpans p.val).any fun x => x.1 < out && (s.now.toNat : Int) < x.2
      if s.txOut.getLsbD p.val && !s.dacOff.getLsbD p.val && !tail then
        ({ s with dacOff := s.dacOff ||| bit64 p.val } : State).safetySeq p.val false
      else s

end Sys2Proof.Machine
end

