-- ==== Sys2Proof/Machine/Settings.lean ====
section
/-! DEFINITION. What the sample chains look up: the settings in effect at a tick, played blocks, records and their fades, and
the configuration, the delays and the resets of the filter chains (R48, R123, R138, R149, R203, R210, R214-R221). -/

namespace Sys2Proof.Machine
open Sys2Proof

/-! ## Settings (log entry 40) -/

/-- The synthesiser a tile's receive paths use does not count as locked, or the span of a SWITCH that names RX runs (R149, R258, R259;
DEDUCED, log entry 42). -/
def State.rxUnlocked (s : State) (t : Nat) : Bool :=
  let x := s.loOf t
  !(s.synOf (2 * t + x.rx.toNat)).ready || (s.loSpans t).any SwSpan.rx

/-- Bits of the paths for which a test holds. -/
def pathBits (f : Nat → Bool) : BitVec 64 := BitVec.ofNat 64 (((List.range 64).filter f).map (2 ^ ·)).sum

/-- The settings the samples of the present tick are computed with. -/
def State.settings (s : State) : Settings where
  fns := s.fns
  ffts := s.ffts
  cars := s.cars
  islCars := s.islCars
  wolas := s.wolas
  cfrs := s.cfrs
  gains := s.gains
  recs := s.lin.recs
  sels := s.lin.sels
  sicOn := s.lin.sicOn
  step := s.rx.step
  lims := s.fe.lim
  txOut := s.txOut
  rxOut := s.rxOut
  txEn := s.fe.txEn
  loop := s.fe.loop
  dark := pathBits fun p => s.rfHeldOff || s.fe.silent.getLsbD p || s.fe.dutyOut.getLsbD p || s.fe.safeHold.getLsbD (quadOfPath p) ||
    !s.tileOn (tileOfPath p)
  rxDark := pathBits fun p => s.rxHeldOff || s.fe.rxDeny.getLsbD (quadOfPath p) || !s.tileOn (tileOfPath p)
  held := s.regHeld
  synReady := BitVec.ofNat 8 (((List.range 8).filter fun k => (s.synOf k).ready).map (2 ^ ·)).sum
  unlocked := BitVec.ofNat 4 ((allTiles.filter s.rxUnlocked).map (2 ^ ·)).sum

/-- The settings at tick `t`: those of the present for the present and the future. -/
def State.settingsAt (s : State) (t : Int) : Settings := (s.histAt t).getD s.settings

/-- The settings that stood at some tick of [lo, hi). -/
def State.settingsIn (s : State) (lo hi : Int) : List Settings :=
  s.settingsAt lo :: ((s.chain.hist.filter fun x => decide (lo < (x.1 : Int)) && decide ((x.1 : Int) < hi)).map Prod.snd ++
    if lo < (s.now.toNat : Int) && (s.now.toNat : Int) < hi then [s.settings] else [])

/-- A STOP function of a tile outputs nothing at tick `a` (R68). -/
def Settings.stoppedAt (h : Settings) (f t : Nat) (a : Int) : Bool :=
  (tget fnReset h.fns (4 * f + fnTile f t)).discards (airOf a)

/-- A STOP function of a tile outputs nothing at some tick of [lo, hi). -/
def State.stoppedIn (s : State) (f t : Nat) (lo hi : Int) : Bool :=
  (s.settingsIn lo hi).any fun h => h.stoppedAt f t lo || h.stoppedAt f t (hi - 1)

/-! ## Records in use (R123, R138) -/

/-- A working record as a stage of settings `h` sees it. -/
def Settings.recAt (h : Settings) (r : RecId) : Rec := tget (fun _ => {}) h.recs (recKey r)
/-- The path that uses the record outputs zero: it is being rebuilt, or is lost (R138). -/
def Rec.dead (x : Rec) : Bool := x.rebuilding || x.lost

/-- What a selection gives at a sample of tick `t`: the incoming record, and the outgoing one with the incoming weight while a
fade of samples of `tk` ticks runs (R123). -/
structure InUse where
  new : Rec
  old : Rec
  w   : Nat
  fading : Bool
  deriving DecidableEq, Repr

def Settings.inUse (h : Settings) (f : FadeId) (tk : Nat) (t : Int) : InUse :=
  let x := tget (fun _ => {}) h.sels (selKey f)
  let new := h.recAt (fadeRec f x.set x.bank)
  match x.fade with
  | some d =>
    let i := ((t - d.start) / (tk : Int)).toNat
    if i < 2 ^ d.k then ⟨new, h.recAt (fadeRec f d.set d.bank), fadeWeight d.k i, true⟩ else ⟨new, new, 65536, false⟩
  | none => ⟨new, new, 65536, false⟩

/-- A record that the sample needs is dead. -/
def InUse.dead (x : InUse) : Bool := x.new.dead || (x.fading && x.old.dead)

/-- A faded sample, clamped to `n` bits, and the rails that the two evaluations and the fade clamp; `raw` gives a record's
output before its clamp. Both records are evaluated up to the fade's last sample, whose weight is 1.0 (R123). -/
def InUse.fade (x : InUse) (n : Nat) (raw : Rec → IQ) : IQ × Nat :=
  let y := raw x.new
  if !x.fading then (iqSat n y, iqClips n y)
  else
    let o := raw x.old
    let z := fadeRaw x.w (iqSat n o) (iqSat n y)
    (iqSat n z, iqClips n o + iqClips n y + iqClips n z)

/-! ## Filter chains (R203, R210, R216, R218-R221) -/

/-- The configuration of a chain at an output sample: ratio, CICLOG, FIR span, the tick of a carrier sample, and the reset
before which its inputs count as zero (R203, R204, R219). -/
structure ChainKey where
  r      : Nat
  cic    : Nat
  f      : Nat
  origin : Nat
  reset  : Int
  deriving DecidableEq, Repr

def ChainKey.df (x : ChainKey) : Nat := filterDelay x.r x.cic x.f

/-- Ratio of a chain at tick `t`; 0 without an FFT_CFG. -/
def State.ratioAt (s : State) (d : Dir) (c : Nat) (t : Int) : Nat := (s.fftAt d c t).tk / 2

/-- The last tick up to `t` at which a tile's chain was reset or started (R163, R219). -/
def State.resetAt (s : State) (tile : Nat) (d : Dir) (c : Nat) (t : Int) : Int :=
  let x := s.carAt tile d c t
  (((s.rx.warm.filter fun w => w.tile = tile && w.dir = d && w.car = c && decide ((w.t0 : Int) ≤ t)).map fun w => (w.t0 : Int)).foldl
    max (if x.on then (x.since : Int) else 0))

/-- The chain of a tile at the output sample of tick `t`. The registers are read as they stand now (log entry 40). -/
def State.chainKey (s : State) (tile : Nat) (d : Dir) (c : Nat) (t : Int) : ChainKey :=
  let x := s.fftAt d c t
  let cic := fld (s.reg (rFltcfg tile (dirNum d) c)) 8 2
  let f := s.firLen tile d c
  let r := x.tk / 2
  ⟨r, cic, f, x.origin, max (s.resetAt tile d c (t + filterDelay r cic f)) (s.resetAt tile d c t)⟩

/-- Spans of equal configuration in `n` samples from index `k` on: first index, length, configuration. -/
def spansOf {α : Type} [DecidableEq α] (f : Int → α) (k : Int) : Nat → List (Int × Nat × α)
  | 0 => []
  | n + 1 =>
    match spansOf f (k + 1) n with
    | (j, m, a) :: more => if f k = a then (k, m + 1, a) :: more else (k, 1, f k) :: (j, m, a) :: more
    | [] => [(k, 1, f k)]

/-- The FIR's taps for an output sample of tag time `t` (R210, R214); a dead record gives zero (R138). -/
def State.firSel (s : State) (tile : Nat) (d : Dir) (c : Nat) (t : Int) : FirSel :=
  let f := s.firLen tile d c
  let x := (s.settingsAt t).inUse (.fir (Fin.ofNat 4 tile) d (Fin.ofNat 4 c)) (s.fftAt d c t).tk t
  let taps := fun (r : Rec) => if x.dead then [] else firTaps f r.valid r.bytes
  ⟨taps x.old, taps x.new, x.w, x.fading⟩

/-- The ratio of a tile's chain now; 1 without an FFT_CFG. -/
def State.chainR (s : State) (d : Dir) (c : Nat) : Nat := max 1 ((s.fftOf d c).tk / 2)

/-- Df of a tile's chain now (R216). -/
def State.chainDf (s : State) (t : Nat) (d : Dir) (c : Nat) : Nat :=
  filterDelay (s.chainR d c) (fld (s.reg (rFltcfg t (dirNum d) c)) 8 2) (s.firLen t d c)

/-- NHB and MLOG as TILEn_FLTCFG reports them (R223). -/
def State.fltcfgRead (s : State) (t d c : Nat) : BitVec 32 :=
  let w := s.reg (rFltcfg t d c)
  let (m, nhb) := chainSplit (s.chainR (dirOf d) c) (fld w 8 2)
  w ||| BitVec.ofNat 32 (2 ^ 16 * nhb + 2 ^ 20 * Nat.log2 m)

/-- An output sample of the chain in [lo, hi) is a WARMUP sample: of the carrier's start or retuning, the next one among them, or of a
reset (R220). -/
def State.chainWarm (s : State) (t : Nat) (d : Dir) (c : Nat) (lo hi : Int) : Bool :=
  let df : Int := s.chainDf t d c
  let meets := fun (a b : Int) => decide (max lo a < min hi b)
  ([hi - 1, hi - 1 + df].any fun a => let x := s.carAt t d c a; x.on && meets (x.since - df) x.warmTo) ||
  s.rx.warm.any fun w => w.tile = t && w.dir = d && w.car = c && meets w.lo w.hi

/-- A sample with the rails that its stage clamped. -/
abbrev Pt := IQ × Nat

/-- A chain's run as samples: the rails it clamped stand at the first. -/
def Run.pts (x : Run) : List Pt := x.out.mapIdx fun i z => (z, if i = 0 then x.clips else 0)

/-- A stage's output at a sample it zeroes. -/
def ptIf (on : Bool) (x : Pt) : Pt := if on then x else ((0, 0), 0)

/-! ## Transmit functions that stop (R68) -/

/-- Functions a symbol passes on its way to a point of the transmit chain: into the interpolation chain, after the carrier sum, after
crest-factor reduction, after predistortion. -/
def fnsWola : List Nat := [1, 5, 6]
def fnsFlt : List Nat := [1, 5, 6, 9]
def fnsCfr : List Nat := [1, 5, 6, 9, 7]
def fnsDpd : List Nat := [1, 5, 6, 9, 7, 8]

/-- Something of a tile that begins at tick `a` is not sent: one of some functions is stopped there. Time-domain samples and played
ones pass the tile's functions alone (R72, R102). -/
def State.notBegun (s : State) (fns : List Nat) (td : Bool) (tile : Nat) (a : Int) : Bool :=
  fns.any fun f => (!td || decide (7 ≤ f)) && s.fnStoppedAt f tile a

/-- What began before a function of a tile stopped still reaches tick `t`: a symbol of a carrier or its tail, a time-domain block, or
a played one (R68). -/
def State.completing (s : State) (f tile : Nat) (t : Int) : Bool :=
  ([0, 1, 2, 3].any fun c =>
    match s.symAt .tx c t with
    | none => false
    | some q =>
      let sends := fun (a : Int) => (s.carAt tile .tx c a).on && !s.fnStoppedAt f tile a
      sends q.start ||
      match s.symAt .tx c (q.start - 1) with
      | some b => sends b.start && decide (t < q.start + s.tailTk tile c b.start)
      | none => false) ||
  (s.tdSpans.any fun x =>
    let a := fullTick x.air s.now
    decide (tileOfPath x.path = tile) && decide (a ≤ t) && decide (t < a + x.len) && !s.fnStoppedAt f tile a) ||
  s.chain.plays.any fun x =>
    decide (tileOfPath x.unit = tile) && [0x02, 0x04].contains x.tap && decide (x.start ≤ t) && decide (t < x.stop) &&
    !s.fnStoppedAt f tile x.start

/-- A function of a tile's transmit chain puts out zero at tick `t`: it is stopped, and nothing begun before is left of it (R68). -/
def State.stageZero (s : State) (f tile : Nat) (t : Int) : Bool := s.fnStoppedAt f tile t && !s.completing f tile t

/-- The played sample of a tap at tick `t`, where its block passes some functions. -/
def State.playTx (s : State) (fns : List Nat) (tap p c : Nat) (t : Int) : Option IQ :=
  (s.playBlk tap p c t).map fun x => if s.notBegun fns true (tileOfPath p) x.start then (0, 0) else x.at_ t

/-- Numbers a mixer output, for its deviation: path, carrier and direction (R94, R162). -/
def mixKey (d : Dir) (p c : Nat) (k : Int) : Nat := ((2 * k.toNat + dirNum d) * 64 + p) * 4 + c

end Sys2Proof.Machine
end

