-- ==== Sys2Proof/Machine/TxChain.lean ====
section
/-! DEFINITION. The transmit chain as samples, from layer data to crest-factor reduction: the judgement of a symbol's data,
beamforming and the inverse transform (R79-R87), prefix, gain, window and phase (R88-R92), time-domain samples (R102-R104), the
interpolation chains (R94, R202), the carrier sum (R96) and crest-factor reduction (R97, R98). -/

namespace Sys2Proof.Machine
open Sys2Proof

/-! ## Layer data of a symbol (R80-R83) -/

/-- Ticks of a carrier sample, and RBs, of a transmit carrier's symbol. -/
def State.symTk (s : State) (c : Nat) (a : Int) : Nat := (s.fftAt .tx c a).tk
def State.symNrb (s : State) (d : Dir) (c : Nat) (a : Int) : Nat := (s.islCarAt d c a).nrb

/-- The resource element of subcarrier `sc` that a block delivers; the block holds its RB (R79-R81). -/
def fdElement (b : Bytes) (sc : Nat) : IQ :=
  let r := rbRails b (fdComp b) (fdMant b) (sc / 12 - fdStart b)
  (r.getD (2 * (sc % 12)) 0, r.getD (2 * (sc % 12) + 1) 0)

/-- The block delivers RB `rb` of a layer of the declaration. -/
def fdHas (r : BitVec 128) (l rb : Nat) (it : Item) : Bool :=
  declHolds r it.body && fdLayer it.body = l && decide (fdStart it.body ≤ rb ∧ rb < fdStart it.body + fdNum it.body)

/-- Blocks of one symbol in the order in which they are processed: ascending SOURCE, and of one source in order of arrival (R56). -/
def processed (blocks : List Item) : List Item :=
  (List.range 16).flatMap fun k => blocks.filter fun i => i.tag.source.toNat = k

/-- The block that delivers RB `rb` of a layer: of blocks in processing order the last (R83). -/
def fdBlock (r : BitVec 128) (blocks : List Item) (l rb : Nat) : Option Item := (blocks.filter (fdHas r l rb)).getLast?

/-- The layer's element that playback has put before the beamformer: element e of a played block stands e carrier samples
after the symbol's AIRTIME (log entry 40). -/
def State.playedElement (s : State) (tap unit c : Nat) (a : Int) (tk sc : Nat) : Option IQ :=
  s.playAt tap unit c (a + sc * tk)

/-- Playback gives every element of RB `rb` of a layer. -/
def State.rbPlayed (s : State) (c l rb : Nat) (a : Int) : Bool :=
  (List.range 12).all fun i => (s.playedElement 0x00 l c a (s.symTk c a) (12 * rb + i)).isSome

/-- The declaration, of some that stand, that covers an RB: the last accepted one (log entry 40). -/
def declOf (ds : List Decl) (rb : Nat) : Option Decl :=
  (ds.filter fun d => decide (fld d.record 32 11 ≤ rb ∧ rb < fld d.record 32 11 + fld d.record 43 11)).getLast?

/-- A layer's value at a subcarrier: played, decompressed, or zero where nothing is declared (R80-R83). -/
def State.layerValue (s : State) (ds : List Decl) (blocks : List Item) (c l : Nat) (a : Int) (sc : Nat) : IQ :=
  match s.playedElement 0x00 l c a (s.symTk c a) sc with
  | some z => z
  | none =>
    match declOf ds (sc / 12) with
    | none => (0, 0)
    | some d =>
      match fdBlock d.record blocks l (sc / 12) with
      | some it => fdElement it.body sc
      | none => (0, 0)

/-- RBs of a declaration's layers that neither a block nor playback delivers (R82). -/
def State.missing (s : State) (c : Nat) (a : Int) (r : BitVec 128) (blocks : List Item) : Nat :=
  ((List.range (fld r 22 6)).map fun l =>
    ((List.range (fld r 43 11)).filter fun i =>
      (fdBlock r blocks l (fld r 32 11 + i)).isNone && !s.rbPlayed c l (fld r 32 11 + i) a).length).sum

/-- RBs of a declaration's layers that a block delivers and playback replaces: its SOURCE is the higher (R56, R83). -/
def State.playedOver (s : State) (c : Nat) (a : Int) (r : BitVec 128) (blocks : List Item) : Nat :=
  ((List.range (fld r 22 6)).map fun l =>
    ((List.range (fld r 43 11)).filter fun i =>
      (fdBlock r blocks l (fld r 32 11 + i)).isSome && s.rbPlayed c l (fld r 32 11 + i) a).length).sum

/-- Rails that decompression clamps in a block (R80). -/
def fdClips (b : Bytes) : Nat := ((List.range (fdNum b)).map (rbClips b (fdComp b) (fdMant b))).sum

/-! ## Beamforming (R84, R85) -/

/-- The entry of a layer at an RB of a declaration: its beam list's, or in BEAMMODE 1 the one its block's tag names. -/
def declEntry (d : Decl) (rbglog : Nat) (blocks : List Item) (l rb : Nat) : Nat :=
  if d.record.getLsbD 28 then
    match fdBlock d.record blocks l rb with
    | some it => it.tag.beamref.toNat
    | none => 0
  else
    let g := (rb - fld d.record 32 11) / (2 ^ rbglog * (fld d.record 54 4 + 1))
    pbits d.list (16 * (g * fld d.record 22 6 + l)) 13

/-- Weight and common exponent of an entry for a path: zero where the path mask excludes it, or the entry does not count
(R84, R85, R173). -/
def State.weightOf (s : State) (dir : Dir) (e : Nat) (a : Air) (p : Nat) : IQ × Nat :=
  let b := s.entryBytes dir ((s.regionSt dir (s.regionOfEntry dir e)).bankFor a) e
  (if s.entryUsable dir e a && nbit (s.entryMask dir e a) p then entryWeight b p else (0, 0), pbits b 1 4)

/-- The beamformer's output for a path and subcarrier, before its clamp (R84). -/
def State.beamOut (s : State) (ds : List Decl) (blocks : List Item) (c : Nat) (a : Int) (p sc : Nat) : IQ :=
  match declOf ds (sc / 12) with
  | none => (0, 0)
  | some d =>
    let g := (s.islCarAt .tx c a).rbglog
    weightedRaw (fld d.record 64 3) ((List.range (fld d.record 22 6)).map fun l =>
      let (w, e) := s.weightOf .tx (declEntry d g blocks l (sc / 12)) (airOf a) p
      (s.layerValue ds blocks c l a sc, w, e))

/-! ## The symbol (R86, R87) -/

/-- The symbol of a carrier that starts at tick `a`, beamformed from its declarations and blocks, and the rails clamped on the
way; its inverse transform comes at its start. -/
def State.formSym (s : State) (ds : List Decl) (blocks : List Item) (c : Nat) (a : Int) : TxSym :=
  let x := s.fftAt .tx c a
  let b := x.cfg.getD []
  let nrb := s.symNrb .tx c a
  let scs := List.range (12 * nrb)
  let raw := (List.range 64).map fun p => (p, scs.map (s.beamOut ds blocks c a p))
  let beams := raw.map fun y => (y.1, y.2.map (iqSat 16))
  let layers := (List.range 32).filter fun l => ds.any fun d => l < fld d.record 22 6
  let f := tagFlags (ds.map Decl.tag ++ blocks.map Item.tag ++ layers.flatMap fun l => s.playTags 0x00 l c a (a + (12 * nrb * x.tk : Nat)))
  let tag : Tag := { (ds.map Decl.tag).headD {} with damaged := f.damaged, warmup := f.warmup, late := f.late }
  { car := c, start := a, n := fftN b, tk := x.tk, pre := x.prefixAt a, tag := tag
    beams := beams
    layers := layers.map (fun l => (l, scs.map (s.layerValue ds blocks c l a)))
    clips := (blocks.map fun i => fdClips i.body).sum + (raw.map fun y => clipCount 16 y.2).sum
    blocks := blocks }

/-- The inverse transform of a formed symbol, with the FFT_CFG in effect at its start, and the rails clamped from its blocks on, which
count in BEAM_SATCNT (R80, R84, R87, R343). -/
def State.transformed (s : State) (y : TxSym) : TxSym × Nat :=
  let x := s.fftAt .tx y.car y.start
  if y.done then (y, 0)
  else
    match x.cfg with
    | none => ({ y with done := true }, y.clips)
    | some b =>
      let n := fftN b
      let nrb := s.symNrb .tx y.car y.start
      let time := y.beams.map fun z =>
        (z.1, ifft (scaleOf (fftScale b) (Nat.log2 n)) ((y.start.toNat * 64 + z.1) * 16384) (ifftInput n nrb fun sc => z.2.getD sc (0, 0)))
      ({ y with n := n, tk := x.tk, pre := x.prefixAt y.start, x := time.map (fun z => (z.1, z.2.map (iqSat 16))), done := true },
       y.clips + (time.map fun z => clipCount 16 z.2).sum)

/-- Keeps a formed symbol; those long past are dropped. -/
def State.keepSym (s : State) (y : TxSym) : State :=
  let stays := fun (x : TxSym) => decide ((s.now.toNat : Int) - 2 ^ 21 < x.start) && !(x.car = y.car && x.start = y.start)
  { s with chain := { s.chain with syms := y :: s.chain.syms.filter stays } }

/-- The formed symbol of a carrier that starts at tick `a`. -/
def State.symOf (s : State) (c : Nat) (a : Int) : Option TxSym := s.chain.syms.find? fun y => y.car = c && y.start = a

/-- The symbols that have begun are transformed. -/
def State.transformSyms (s : State) : State :=
  let now : Int := s.now.toNat
  let ys := s.chain.syms.map fun y => if !y.done && decide (y.start < now) then s.transformed y else (y, 0)
  ({ s with chain := { s.chain with syms := ys.map Prod.fst } } : State).bumpBy (cBeam 3) (ys.map Prod.snd).sum

/-- Uses of entries that contribute zero to a symbol's declaration: one for each weight group and layer (R85). -/
def State.badUses (s : State) (d : Decl) (blocks : List Item) : Nat :=
  let r := d.record
  let es := if r.getLsbD 28 then ((blocks.filter fun i => declHolds r i.body).map fun i => i.tag.beamref.toNat).dedup
    else (List.range (fld r 22 6)).flatMap fun l => layerEntries r (s.islCarAt d.dir d.car (fullTick d.air s.now)).rbglog d.list l
  (es.filter fun e => !s.entryUsable d.dir e d.air).length

/-- An entry that contributes zero is counted and raises the tiles' late/blanked-symbol event (R85). -/
def State.countBadUses (s : State) (n : Nat) : State :=
  if n = 0 then s else (s.bumpBy (cBeam 6) n).signalAll [0, 4, 8, 12]

/-- A layer data block of a carrier's symbol waits at the beamformer. -/
def isFdOf (c : Nat) (a : Air) (x : QItem) : Bool :=
  x.port = .bf && x.item.tag.kind = kFdData && x.item.tag.carrier.toNat = c && x.item.tag.air = a

/-- The symbol's declarations are judged: blocks outside every declaration are discarded, replaced RBs are counted, and a
missing RB blanks the symbol; else it is formed, and entries that cannot be used contribute zero (R82, R83, R85). Rails that
decompression or beamforming clamps count for a formed symbol alone (DESIGN CHOICE, log entry 41: R80 says nothing of one that
is blanked for missing data). -/
def State.judgeSym (s : State) (c : Nat) (a : Air) : State :=
  let t := fullTick a s.now
  let all := s.declsAt c a
  let ds := all.filter fun d => !d.judged
  let here := processed ((s.queue.filter (isFdOf c a)).map QItem.item)
  let blocks := here.filter fun i => all.any fun d => declHolds d.record i.body
  let miss := (ds.map fun d => s.missing c t d.record blocks).sum
  let repl := (ds.map fun d => replacedRbs d.record blocks + s.playedOver c t d.record blocks).sum
  let bad := (ds.map fun d => s.badUses d blocks).sum
  let s' : State := { s with
    queue := s.queue.filter fun x => !isFdOf c a x
    decls := s.decls.map fun d => if d ∈ ds then { d with judged := true } else d }
  let s' := ((s'.bumpBy (cBeam 2) (here.length - blocks.length)).bumpBy (cBeam 4) miss).bumpBy (cBeam 5) repl
  if ds.isEmpty then s'
  else if miss = 0 then (s'.countBadUses bad).keepSym (s.formSym all blocks c t)
  else s'.blankSym allTiles c a

/-- MISSING_DATA_DEADLINE (R82): at the beamformer's minimum lead the data of a symbol's declarations is judged. -/
def execMissingDataDeadline (c : Carrier) (airtime : Air) : State → Host.Outcome State Fault Refusal :=
  act fun s =>
    let m := 131072 + s.tsymOf .tx c.val (s.fftAt .tx c.val (fullTick airtime s.now)).mu airtime
    if lead airtime s.now > (m : Int) then s else s.judgeSym c.val airtime

/-- Uses of entries that contribute zero to a formed symbol. -/
def State.symBad (s : State) (y : TxSym) : Nat := ((s.declsAt y.car (airOf y.start)).map fun d => s.badUses d y.blocks).sum

/-- A downlink commit of air time `a` has gone live: the symbols from there on whose data was judged before it was built are formed with
its bank, and the uses of its entries that contribute zero count too (R85, R230). `old` is the state before it. -/
def State.reform (s old : State) (a : Int) : State :=
  let hit := fun (y : TxSym) => !y.done && decide (a ≤ y.start)
  let more := ((s.chain.syms.filter hit).map fun y => s.symBad y - old.symBad y).sum
  let again := fun (y : TxSym) => if hit y then s.formSym (s.declsAt y.car (airOf y.start)) y.blocks y.car y.start else y
  ({ s with chain := { s.chain with syms := s.chain.syms.map again } } : State).countBadUses more

/-- BANK_LIVE (R230): the stage begins the first symbol of a built commit. -/
def execBankLive (d : Dir) (r : Region) : State → Host.Outcome State Fault Refusal :=
  act fun s =>
    match (s.regionSt d r).pend with
    | none => s
    | some c =>
      let at_ := s.firstSymAny d c.air - (match d with | .tx => (s.buildLead d c : Int) | .rx => 0)
      if !c.built || decide ((s.now.toNat : Int) < at_) then s
      else if d = .tx then (s.goLive d r c).reform s (fullTick c.air s.now)
      else s.goLive d r c

/-! ## Carrier samples (R88-R92, R102-R104) -/

/-- Sample `j`, counted from the body's first, of the symbol that starts at tick `a`, at tick `t` on a path: gained with the
gain in effect at its AIRTIME, then turned where PHCOMP asks for it (R89, R92); none where a function that it passes is stopped
at its start (R68). A of R92 is taken as the full 56-bit tick (DESIGN CHOICE, log entry 41: the 40-bit AIRTIME differs from it
after each 2^40 tk). -/
def State.symPoint (s : State) (fns : List Nat) (p c : Nat) (a t : Int) (j : Int) : Pt :=
  let tile := tileOfPath p
  if s.pathBlank p c a t || s.pathOutAt false p a || s.notBegun fns false tile a then ((0, 0), 0)
  else
    match s.symOf c a with
    | none => ((0, 0), 0)
    | some y =>
      let y := (s.transformed y).1
      let x := (tget (fun _ => []) y.x p).getD (j % (y.n : Int)).toNat (0, 0)
      let z := gainRaw (tget (fun _ => 0x4000) (s.settingsAt a).gains (gainKey .tx p c)).toNat x
      let v := s.carAt tile .tx c a
      if v.phcomp then
        let u := turned ((-(v.freq.toInt * (a + y.pre * y.tk))) % 2 ^ 49).toNat (2 ^ 49) (iqSat 16 z)
        (iqSat 16 u, iqClips 16 z + iqClips 16 u)
      else (iqSat 16 z, iqClips 16 z)

/-- A frequency-domain carrier's sample: its symbol's, and over the head of the symbol the weighted sum with the tail of the
one before. None overlap where the carrier is retuned at the boundary (R88, R90, R91, R93). -/
def State.fdPoint (s : State) (fns : List Nat) (p c : Nat) (t : Int) : Pt :=
  let tile := tileOfPath p
  let x := s.fftAt .tx c t
  match x.symbolAt t with
  | none => ((0, 0), 0)
  | some q =>
    let k := ((t - q.start) / x.tk).toNat
    let head := s.symPoint fns p c q.start t (k - x.prefixAt t)
    match s.symAt .tx c (q.start - 1) with
    | none => head
    | some b =>
      let was := s.carAt tile .tx c (q.start - 1)
      let w := s.tailOf c b.start
      if w ≤ k || (was.on && ((s.carAt tile .tx c q.start).since : Int) = q.start) then head
      else
        let tail := if was.on then s.symPoint fns p c b.start t k else ((0, 0), 0)
        let y := overlapRaw (headWeight (s.wolaAt c b.start).shape w k) head.1 tail.1
        (iqSat 16 y, head.2 + tail.2 + iqClips 16 y)

/-- A time-domain carrier's sample: the block's that was processed last, zero in a gap and where the path is blank (R50, R66,
R104). -/
def State.tdPoint (s : State) (fns : List Nat) (p c : Nat) (t : Int) : IQ :=
  match (s.tdSpans.filter fun x =>
      let lo := fullTick x.air s.now
      decide (x.path = p) && decide (x.car = c) && decide (lo ≤ t) && decide (t < lo + x.len) && !s.quadBlank p x.air t &&
      !s.notBegun fns true (tileOfPath p) lo && !s.tdBlankAt p c t).getLast? with
  | some x => x.iq.getD ((t - fullTick x.air s.now) / (s.symTk c t : Int)).toNat (0, 0)
  | none => (0, 0)

/-- A path's sample of a carrier, into the interpolation chain, at tick `t`: the played one where there is one. `fns` are the
functions that the sample passes on its way to where it is looked at. -/
def State.wolaPoint (s : State) (fns : List Nat) (p c : Nat) (t : Int) : Pt :=
  match s.playTx fns 0x02 p c t with
  | some z => (z, 0)
  | none =>
    let v := s.carAt (tileOfPath p) .tx c t
    if !v.on then ((0, 0), 0)
    else if v.tdmode then (if s.pathOutAt false p t then (0, 0) else s.tdPoint fns p c t, 0)
    else s.fdPoint fns p c t

/-! ## Interpolation, mixing and summation (R94-R96, R202) -/

/-- `n` composite samples of a carrier from index `k` on, all of one configuration of its chain. Inputs and outputs are matched
by their tag times (R101, R216). -/
def State.upRun (s : State) (fns : List Nat) (p c : Nat) (k : Int) (n : Nat) (x : ChainKey) : Run :=
  let t := tileOfPath p
  let tk : Int := 2 * x.r
  let i0 := (2 * k - x.df - x.origin) / tk - 2
  let i1 := (2 * (k + n) + x.df - x.origin) / tk + 2
  let ticks := (List.range (i1 - i0).toNat).map fun i => x.origin + (i0 + i) * tk
  let y := chainUp x.r x.cic (2 * n / tk.toNat)
    (ticks.map fun τ => s.firSel t .tx c (τ - (x.f - 1) * x.r))
    (ticks.map fun τ => if τ < x.reset then (0, 0) else (s.wolaPoint fns p c τ).1)
  ⟨(y.out.drop ((2 * k - (x.origin + i0 * tk) + x.df) / 2).toNat).take n, y.clips⟩

/-- `n` samples of a carrier after its NCO, zero while it is off and where a stopped function FLT has nothing left to send (R94,
R68). -/
def State.mixedCar (s : State) (fns : List Nat) (p c : Nat) (k : Int) (n : Nat) : List Pt :=
  let t := tileOfPath p
  let on := fun (j : Int) => (s.carAt t .tx c (2 * j)).on && s.ratioAt .tx c (2 * j) ≠ 0 && !s.stageZero 9 t (2 * j)
  (spansOf (fun j => (on j, s.chainKey t .tx c (2 * j))) k n).flatMap fun x =>
    let (k, n, on, key) := x
    if !on then List.replicate n ((0, 0), 0)
    else (s.upRun fns p c k n key).pts.mapIdx fun i z =>
      let j := k + i
      let y := mixRaw true (s.carAt t .tx c (2 * j)).freq j.toNat (mixKey .tx p c j) z.1
      (iqSat 18 y, z.2 + iqClips 18 y)

/-- `n` samples of the sum of a path's carriers, and the rails clamped on the way (R96). -/
def State.carrierSum (s : State) (fns : List Nat) (p : Nat) (k : Int) (n : Nat) : List Pt :=
  let cars := [0, 1, 2, 3].map fun c => s.mixedCar fns p c k n
  (List.range n).map fun i =>
    let xs := cars.map fun l => l.getD i ((0, 0), 0)
    let y := iqSum (xs.map Prod.fst)
    (iqSat 18 y, (xs.map Prod.snd).sum + iqClips 18 y)

/-! ## Crest-factor reduction (R97-R99, R188) -/

/-- What crest-factor reduction works with at a tick: mode, CAP, threshold and pulse; mode 0 where its record is not valid
(R490; log entry 40). -/
structure CfrConf where
  mode  : Nat
  cap   : Nat
  thr   : Nat
  pulse : List IQ
  deriving DecidableEq, Repr

def Settings.cfrConf (h : Settings) (t : Nat) : CfrConf :=
  let x := tget (fun _ => {}) h.cfrs t
  let r := h.recAt (.cfr (Fin.ofNat 4 t) x.bank)
  ⟨if r.valid then x.mode else 0, x.cap, cfrThreshold x.rmsref.toNat x.tgt, if r.valid then iqList r.bytes 16 255 else []⟩

/-- An output of crest-factor reduction: the rails that it clamps, and whether a peak was left there. -/
structure CfrPt where
  z     : IQ
  clips : Nat
  miss  : Nat
  deriving DecidableEq, Repr

/-- `n` outputs of crest-factor reduction from index `k` on. It is worked out over whole spans of 256 samples and 1,536 samples to
either side; a stopped function CFR with nothing left to send gives zero (R68, R98, R99). -/
def State.cfrOut (s : State) (fns : List Nat) (p : Nat) (k : Int) (n : Nat) : List CfrPt :=
  let t := tileOfPath p
  let lo := (k - 1536) / 256 * 256
  let hi := (k + n + 1791) / 256 * 256
  let sum := s.carrierSum fns p lo (hi - lo).toNat
  let confs := (List.range n).map fun i => (s.settingsAt (2 * (k + i))).cfrConf t
  let outs := confs.dedup.map fun x => (x, cfrRaw x.mode x.cap x.thr lo x.pulse (sum.map Prod.fst))
  confs.mapIdx fun i x =>
    let j := (k + i - lo).toNat
    let (ys, miss) := ((outs.find? fun y => y.1 = x).map Prod.snd).getD ([], [])
    let y := ys.getD j (0, 0)
    if s.stageZero 7 t (2 * (k + i)) then ⟨(0, 0), 0, 0⟩ else ⟨iqSat 16 y, iqClips 16 y, (miss.filter (· = j)).length⟩

end Sys2Proof.Machine
end

