-- ==== Sys2Proof/Machine/Predist.lean ====
section
/-! DEFINITION. The transmit chain as samples, from the predistorter to the DAC: model, fades and corrector (R110-R128), the
calibration tone (R142), the backstop limiter and its levels (R285), cuts (R262, R288, R291), the DAC codes (R100), and the
references of the cancellers (R192). -/

namespace Sys2Proof.Machine
open Sys2Proof

/-! ## The predistorter's input (R106, R117) -/

/-- The end of the tails of the symbols begun before tick `a` on a tile. -/
def State.lastTail (s : State) (t : Nat) (a : Int) : Int :=
  let ends : List Int := ([0, 1, 2, 3].filter fun c => (s.carAt t .tx c (a - 1)).on).filterMap fun c =>
    (s.symAt .tx c (a - 1)).map fun q => q.start + q.span + s.tailTk t c q.start
  ends.foldl max a

/-- A path out of service sends zeros to its predistorter input at tick `t`: from its removal on, but for the tail of the last
symbol begun before it (R106). -/
def State.drainedAt (s : State) (p : Nat) (t : Int) : Bool :=
  let out : Int := (tget (fun _ => 0) s.fe.outAt p : Nat)
  s.pathOutAt false p t && (decide (t < out) || decide (s.lastTail (tileOfPath p) out ≤ t))

/-- `n` predistorter inputs of a path from composite index `k` on: a path out of service has none, played or not (R106, R117). -/
def State.dpdIn (s : State) (fns : List Nat) (p : Nat) (k : Int) (n : Nat) : List IQ :=
  (s.cfrOut fns p k n).mapIdx fun i x =>
    let t := 2 * (k + i)
    if s.drainedAt p t then (0, 0) else (s.playTx (fns.filter (· = 8)) 0x04 p 0 t).getD x.z

/-- Ticks of a model-rate sample of a tile, and model-rate samples of a composite one (R111). -/
def State.modelTk (s : State) (t : Nat) : Nat := if s.wide t then 1 else 2
def State.perSample (s : State) (t : Nat) : Nat := if s.wide t then 2 else 1

/-- The same at the model rate: in wide mode two samples for each, from the fixed stage, whose reach is taken as 64 samples
about the sample (R111; log entry 40). -/
def State.modelIn (s : State) (fns : List Nat) (p : Nat) (k : Int) (n : Nat) : List IQ :=
  if s.wide (tileOfPath p) then
    ((windowsFrom 64 [] (s.dpdIn fns p (k - 32) (n + 64))).drop 64).flatMap fun w =>
      let y := fixedStage ((0, 0), (0, 0)) Config.wideUp w
      [y.1, y.2]
  else s.dpdIn fns p k n

/-! ## Model, tone and corrector (R110-R117, R123, R128, R142) -/

/-- The calibration tone at tick `t`: LEVEL turned by FREQ (R142). -/
def State.toneAt (s : State) (tile : Nat) (t : Int) : IQ :=
  let w := s.reg64 (rCaltone tile)
  turned ((sfld w 0 48 * t) % 2 ^ 49).toNat (2 ^ 49) (sfld w 48 16, 0)

/-- The tone is added on a path: its quad is in internal loopback and function CALTONE runs (R142). -/
def State.toneOn (s : State) (p : Nat) (t : Int) : Bool :=
  (s.settingsAt t).loop.getLsbD (quadOfPath p) && !s.fnStoppedAt 12 (tileOfPath p) t

/-- The model's output at tick `t`, faded, before the tone: zero while a record it needs is dead (R114, R123, R138). Inputs are
given newest first, by path-in-tile. A neighbour that is silenced behind its predistorter alone (R280, R286, R288) still counts with
its predistorter input (DESIGN CHOICE, log entry 41: R117 says no more than 'blanked'). -/
def State.modelPoint (s : State) (p : Nat) (t : Int) (win : Nat → List IQ) : Pt :=
  let x := (s.settingsAt t).inUse (.model (Fin.ofNat 64 p)) (s.modelTk (tileOfPath p)) t
  let nb := fun (b : Bytes) (j : Nat) => if pbit b (24 + j) then win (dpdNb b j) else []
  ptIf (!x.dead) (x.fade 16 fun r => modelRaw r.valid r.bytes (win (p % 16)) (nb r.bytes))

/-- The corrector's output at tick `t`, faded, where its records are alive; its inputs are given newest first (R128). -/
def State.corrPoint (s : State) (p : Nat) (t : Int) (u : List IQ) : Pt :=
  let x := (s.settingsAt t).inUse (.corr (Fin.ofNat 64 p)) (s.modelTk (tileOfPath p)) t
  x.fade 16 fun r => corrRaw r.valid r.bytes (corrDc r.bytes) u

/-- A predistorter, corrector or FIR record that a path's transmit sample of tick `t` needs under settings `h` is dead: the path outputs
zero (R138, R213). -/
def State.txDead (s : State) (h : Settings) (p : Nat) (t : Int) : Bool :=
  let tile := tileOfPath p
  (h.inUse (.model (Fin.ofNat 64 p)) (s.modelTk tile) t).dead || (h.inUse (.corr (Fin.ofNat 64 p)) (s.modelTk tile) t).dead ||
  [0, 1, 2, 3].any fun c => (s.carAt tile .tx c t).on && (h.inUse (.fir (Fin.ofNat 4 tile) .tx (Fin.ofNat 4 c)) (s.symTk c t) t).dead

/-- The outputs of a path's predistortion stage for `n` composite samples from index `k` on, at the model rate. The stage looks
back 22 model-rate samples. A sample that needs a dead record is zero (R138), and so is one of a stopped function DPD with nothing left
to send (R68). -/
def State.dpdOut (s : State) (p : Nat) (k : Int) (n : Nat) : List Pt :=
  let t := tileOfPath p
  let g := s.modelTk t
  let per := s.perSample t
  let lo := k - 24
  let ins := (tilePaths t).map fun q => windowsFrom 16 [] (s.modelIn fnsDpd q lo (n + 24))
  let us := (List.range (per * (n + 24))).map fun (i : Nat) =>
    let τ := 2 * lo + g * i
    let u := s.modelPoint p τ fun q => (ins.getD q []).getD i []
    if s.toneOn p τ then
      let v := iqAdd u.1 (s.toneAt t τ)
      (iqSat 16 v, u.2 + iqClips 16 v)
    else u
  let ws := windowsFrom 8 [] (us.map Prod.fst)
  ((List.range (per * n)).map fun i =>
    let j := per * 24 + i
    let τ := 2 * k + g * i
    let v := s.corrPoint p τ (ws.getD j [])
    ptIf (!s.stageZero 8 t τ && !s.txDead (s.settingsAt τ) p τ) (v.1, v.2 + (us.getD j ((0, 0), 0)).2))

/-! ## The limiter (R284, R285, R288, R291) -/

/-- The gain a path's limiter applies at tick `t`. Where no valid locked record lets RF out, a quad in internal loopback, which
reaches no ball, still transmits (R284). -/
def State.limGainAt (s : State) (p : Nat) (t : Int) : Nat :=
  let h := s.settingsAt t
  if h.held && !h.loop.getLsbD (quadOfPath p) then 0 else (tget (fun _ => {}) h.lims p : LimSt).gain.toNat

/-- The output of the path is zero at tick `t`: silent, at its duty limit, held by RF_SAFE_N or by the mode, or of a tile
that is not clocked (R280, R286, R288, R530, R541, R553). -/
def State.darkAt (s : State) (p : Nat) (t : Int) : Bool := (s.settingsAt t).dark.getLsbD p

/-- A cut's effect on a sample of tick `t`: zero, or the ramp down over 64 composite samples first (R291). -/
def Cut.apply (c : Cut) (t : Int) (y : IQ) : IQ :=
  if t < c.from_ || c.until_ ≤ t then y
  else if t < c.zeroFrom then iqMap (fun r => roundShift (r * (63 - (t - c.from_) / 2)) 6) y
  else (0, 0)

/-- The limiter's output for one sample; a path out of service has none (R106, R124). -/
def State.limPoint (s : State) (p : Nat) (t : Int) (y : IQ) : IQ :=
  if s.darkAt p t || s.drainedAt p t then (0, 0)
  else (s.fe.cuts.filter fun c => c.quad = quadOfPath p).foldl (fun y c => c.apply t y) (limited (s.limGainAt p (t / 2 * 2)) y)

/-- The limiter's outputs for `n` composite samples, at the model rate. -/
def State.limOut (s : State) (p : Nat) (k : Int) (n : Nat) : List IQ :=
  (s.dpdOut p k n).mapIdx fun i y => s.limPoint p (2 * k + s.modelTk (tileOfPath p) * i) y.1

/-- The DAC codes of `n` composite samples, in pairs: from the front die's interpolation, or in wide mode the pair itself (R100,
R111). -/
def State.dacOut (s : State) (p : Nat) (k : Int) (n : Nat) : List IQ :=
  (if s.wide (tileOfPath p) then s.limOut p k n
   else ((windowsFrom 64 [] (s.limOut p (k - 32) (n + 64))).drop 64).flatMap fun w =>
      let y := fixedStage ((0, 0), (0, 0)) Config.dacUp w
      [y.1, y.2]).map (iqMap dacCode)

/-! ## References of the cancellers (R192) -/

/-- The transmit path is muted for the reference at tick `t`: its enable is off, it is dark or out of service, or a cut has brought it
to zero (R192, R199). -/
def State.refMuted (s : State) (p : Nat) (t : Int) : Bool :=
  let h := s.settingsAt t
  !h.txEn.getLsbD (quadOfPath p) || h.dark.getLsbD p || h.txOut.getLsbD p ||
  s.fe.cuts.any fun c => decide (c.quad = quadOfPath p) && decide (c.zeroFrom ≤ t) && decide (t < c.until_)

/-- `n` reference samples of a transmit path from composite index `k` on. With REFSEL 0 the product with the limiter gain is rounded
half up and clamped to int16 as the limiter's is (DESIGN CHOICE, log entry 41: R192 gives neither). -/
def State.refOut (s : State) (p : Nat) (k : Int) (n : Nat) : List IQ :=
  let t := tileOfPath p
  let raw := if !(s.reg (rSiccfg t)).getLsbD 0 then (s.dpdIn fnsCfr p k n).mapIdx fun i x => s.limPoint p (2 * (k + i)) x
    else if s.wide t then (everyNth 2 0 ((windowsFrom 64 [] (s.limOut p (k - 16) (n + 32))).drop 64)).map (fixedStage (0, 0) Config.wideDown)
    else s.limOut p k n
  raw.mapIdx fun i x => if s.refMuted p (2 * (k + i)) then (0, 0) else x

/-! ## What transmit samples tell of themselves (R53, R138, R220) -/

/-- A record that the path's transmit samples of [lo, hi) need is dead. -/
def State.txRecordDead (s : State) (p : Nat) (lo hi : Int) : Bool := (s.settingsIn lo hi).any fun h => s.txDead h p lo

/-- Tags of the symbols, time-domain blocks and played blocks of some carriers that a path's samples of [lo, hi) come from. -/
def State.txTags (s : State) (p : Nat) (cars : List Nat) (lo hi : Int) : List Tag :=
  ((s.chain.syms.filter fun y => cars.contains y.car && s.symOn p y.car y.start && decide (y.start < hi) &&
      decide (lo < y.start + (y.pre + y.n) * y.tk + s.tailTk (tileOfPath p) y.car y.start)).map TxSym.tag) ++
  ((s.tdSpans.filter fun x => x.path = p && cars.contains x.car && decide (fullTick x.air s.now < hi) &&
      decide (lo < fullTick x.air s.now + x.len)).map TdSpan.tag) ++
  cars.flatMap fun c => s.playTags 0x02 p c lo hi

/-- Flags of a path's transmit samples of [lo, hi), of some carriers: those of the data they contain, with those of `more`, DAMAGED by
a dead record, and WARMUP of a chain that was on at any time of it (R53, R133, R220). -/
def State.txFlags (s : State) (p : Nat) (cars : List Nat) (more : List Tag) (lo hi : Int) : BlockFlags :=
  let gs := s.txTags p cars lo hi ++ more
  let t := tileOfPath p
  ⟨gs.any Tag.damaged || s.txRecordDead p lo hi,
   gs.any Tag.warmup || cars.any fun c => s.chainWarm t .tx c lo hi, gs.any Tag.late⟩

/-! ## The limiter's levels (R285) -/

/-- The sum of |y|² over the 1,024 composite samples that end before composite index `k`, at the limiter's input; in wide mode
the mean of each pair counts, so twice the sum is given for both modes (R285). -/
def State.powerSum (s : State) (p : Nat) (k : Int) : Nat :=
  (3 - s.perSample (tileOfPath p)) * ((s.dpdOut p (k - 1024) 1024).map fun y => iqPower y.1).sum

/-- The end of the last window of a path: windows step by 256 composite samples. -/
def State.windowEnd (s : State) : Int := (s.now.toNat / 512 * 256 : Nat)

/-- Full-scale power over a window, in the units of `powerSum`. -/
def fullWindow : Nat := 2048 * 2 ^ 30

/-- LIMITER_WINDOW (R285): the path's mean power over the last whole window against its limit. -/
def execLimiterWindow (p : Path) : State → Host.Outcome State Fault Refusal :=
  act fun s =>
    match s.regRecord with
    | none => s
    | some r =>
      let d := regPmax r p.val - regGext r p.val
      let x := s.powerSum p.val s.windowEnd
      if regLocked r && exceeds x fullWindow d then
        let (g, s) := s.roundGain (limitGain x fullWindow d)
        s.limSet p.val { s.limOf p.val with own := g }
      else s

/-- The largest n with n / y at most 10^(d / 1000): y × 10^(d / 1000) rounded down, for powers below 2^96. -/
def scaledPower (y : Nat) (d : Int) : Nat :=
  (List.range 96).foldl (fun n i => let h := n + 2 ^ (95 - i); if exceeds h y d then n else h) 0

/-- A tile's connector-referred sum over the last whole window, in 2^-16 mW: each path's mean power times the power its GEXT
gives at full scale (R285). -/
def State.tileSum (s : State) (r : Bytes) (t : Nat) : Nat :=
  ((tilePaths t).map fun p => scaledPower (2 ^ 16 * s.powerSum p s.windowEnd) (regGext r p) / fullWindow).sum

/-- LIMITER_LEVEL_EXCHANGE (R285): tile `t` reports its connector-referred sum. -/
def execLimiterLevelExchange (t : Tile) : State → Host.Outcome State Fault Refusal :=
  act fun s =>
    match s.regRecord with
    | none => s
    | some r =>
      let s : State := { s with fe := { s.fe with sums := tput (fun _ => 0) t.val (s.tileSum r t.val) s.fe.sums } }
      let total := ((List.range 4).map fun i => tget (fun _ => 0) s.fe.sums i).sum
      if regLocked r && exceeds total (2 ^ 16) (regPtot r) then
        let (g, s) := s.roundGain (limitGain total (2 ^ 16) (regPtot r))
        (List.range 64).foldl (fun s p => s.limSet p { s.limOf p with dev := g }) s
      else s

end Sys2Proof.Machine
end

