-- ==== Sys2Proof/Machine/RxChain.lean ====
section
/-! DEFINITION. The receive chain as samples: IQ correction (R156), the canceller (R185-R195), LNA-step compensation (R160), the
decimation chains and the receive gain (R161, R162, R202), the FFT (R165, R166), combining (R173) and compression (R175). -/

namespace Sys2Proof.Machine
open Sys2Proof

/-! ## Composite samples (R145, R149, R156) -/

/-- A path's samples are zero at tick `t`: its tile's synthesiser is not locked, its quad's receive span was refused or ended,
or receive is held (R149, R290, R291, R529, R530). -/
def State.rxZeroAt (s : State) (p : Nat) (t : Int) : Bool :=
  let h := s.settingsAt t
  h.unlocked.getLsbD (tileOfPath p) || h.rxDark.getLsbD p

/-- `n` DC-corrected samples of a path from composite index `k` on. Samples that R149 replaces by zero are replaced here, behind
the loop (log entry 40). -/
def State.rxIn (s : State) (p : Nat) (k : Int) (n : Nat) : List IQ :=
  (List.range n).map fun i =>
    if s.rxZeroAt p (2 * (k + i)) then (0, 0) else (tget (fun _ => {}) s.chain.lines p).at_ (k + i)

/-- The RX corrector's output: its bank changes at once, with no fade (R156, R157). -/
def State.iqOut (s : State) (p : Nat) (k : Int) (n : Nat) : List Pt :=
  ((windowsFrom 8 [] (s.rxIn p (k - 8) (n + 8))).drop 8).mapIdx fun i w =>
    let h := s.settingsAt (2 * (k + i))
    let r := h.recAt (.rxiq (Fin.ofNat 64 p) (tget (fun _ => {}) h.sels (selRxiq p) : SelSt).bank)
    let y := corrRaw r.valid r.bytes (0, 0) w
    ptIf (!r.dead) (iqSat 16 y, iqClips 16 y)

/-! ## The canceller (R189-R196) -/

/-- A halfword of an LNA-step table: of a path and step (R160, R194). -/
def State.stepWord (s : State) (row : Nat → Nat → Nat → Nat) (p step : Nat) : Nat :=
  fld (s.reg (row (tileOfPath p) (p % 16) step)) (16 * (step % 2)) 16

/-- A path's LNA step at tick `t`. -/
def State.stepAt (s : State) (p : Nat) (t : Int) : Nat := tget (fun _ => 0) (s.settingsAt t).step p

/-- The estimate before the factor g at tick `t`, faded; `refs` gives the references by path-in-tile, newest first. A lost
record gives zero (R193, R195, R196). -/
def State.sicEstAt (s : State) (p : Nat) (t : Int) (refs : Nat → List IQ) : Pt :=
  let x := (s.settingsAt t).inUse (.sic (Fin.ofNat 64 p)) 2 t
  let one := fun (r : Rec) => sicEst r.valid r.bytes fun j => refs (if j = 0 then p % 16 else sicAgg r.bytes j)
  if !x.fading then (one x.new, 0)
  else
    let e := fadeRaw x.w (one x.old) (one x.new)
    (iqSat 16 e, iqClips 16 e)

/-- A record the canceller needs at tick `t` is being rebuilt: the path outputs zero (R138, R196). -/
def State.sicRebuilding (s : State) (p : Nat) (t : Int) : Bool :=
  let x := (s.settingsAt t).inUse (.sic (Fin.ofNat 64 p)) 2 t
  x.new.rebuilding || (x.fading && x.old.rebuilding)

/-- The canceller's output at tick `t` for its input: unchanged while it is off, zero where function SIC is stopped (R68, R189,
R193). -/
def State.sicPoint (s : State) (p : Nat) (t : Int) (refs : Nat → List IQ) (x : IQ) : Pt :=
  let h := s.settingsAt t
  if s.fnStoppedAt 15 (tileOfPath p) t then ((0, 0), 0)
  else if !h.sicOn.getLsbD p then (x, 0)
  else if s.sicRebuilding p t then ((0, 0), 0)
  else
    let e := s.sicEstAt p t refs
    let y := sicRaw (s.stepWord rSiclnag p (s.stepAt p t)) e.1 x
    (iqSat 16 y, e.2 + iqClips 16 y)

/-- The canceller's outputs: references reach 94 samples back (R193). -/
def State.sicOut (s : State) (p : Nat) (k : Int) (n : Nat) : List Pt :=
  let refs := (tilePaths (tileOfPath p)).map fun q => (windowsFrom 95 [] (s.refOut q (k - 94) (n + 94))).drop 94
  (s.iqOut p k n).mapIdx fun i x =>
    let y := s.sicPoint p (2 * (k + i)) (fun q => (refs.getD q []).getD i []) x.1
    (y.1, x.2 + y.2)

/-- The samples after LNA-step compensation: zero where function RXGAIN is stopped, though the stages before it still count the rails
they clamp (R68, R160, R193). -/
def State.compOut (s : State) (p : Nat) (k : Int) (n : Nat) : List Pt :=
  (s.sicOut p k n).mapIdx fun i x =>
    let t := 2 * (k + i)
    let y := iqMap (scaled14 (s.stepWord rLnacomp p (s.stepAt p t))) x.1
    if s.fnStoppedAt 11 (tileOfPath p) t then ((0, 0), x.2) else (iqSat 16 y, x.2 + iqClips 16 y)

/-! ## Carrier samples (R161, R162, R202) -/

/-- The composite samples of a path after a carrier's NCO (R162). -/
def State.downMixed (s : State) (p c : Nat) (k : Int) (n : Nat) : List Pt :=
  (s.compOut p k n).mapIdx fun i x =>
    let j := k + i
    let y := mixRaw false (s.carAt (tileOfPath p) .rx c (2 * j)).freq j.toNat (mixKey .rx p c j) x.1
    (iqSat 18 y, x.2 + iqClips 18 y)

/-- `n` carrier samples from tick `t` on, all of one configuration of the chain, before the digital gain. The chain is run
from far enough back that its memory is filled; inputs and outputs are matched by their tag times (R146, R216). -/
def State.downRun (s : State) (p c : Nat) (t : Int) (n : Nat) (x : ChainKey) : Run :=
  let tk : Int := 2 * x.r
  let back := x.df / x.r + 2
  let k := (t + x.df) / 2 - back * x.r
  let ins := (s.downMixed p c k ((back + n - 1) * x.r + 1)).mapIdx fun i z => if 2 * (k + i) < x.reset then (0, 0) else z.1
  let sels := (List.range (back + n)).map fun i => s.firSel (tileOfPath p) .rx c (t + (i - back) * tk)
  let y := chainDown x.r x.cic n sels ins
  ⟨y.out.drop back, y.clips⟩

/-- `n` carrier samples of a path from tick `t` on, as they enter the FFT: nothing while the carrier is off, zero where
function FLT or RXGAIN is stopped, played samples in their place (R68, R161, R163). -/
def State.rxCarrier (s : State) (p c : Nat) (t : Int) (n : Nat) : List Pt :=
  let tile := tileOfPath p
  let tk : Int := (s.fftAt .rx c t).tk
  let on := fun (i : Int) =>
    let τ := t + i * tk
    (s.carAt tile .rx c τ).on && s.ratioAt .rx c τ ≠ 0 && !s.fnStoppedAt 9 tile τ && !s.fnStoppedAt 11 tile τ
  (spansOf (fun i => (on i, s.chainKey tile .rx c (t + i * tk))) 0 n).flatMap fun x =>
    let (i, n, on, key) := x
    (if !on then List.replicate n ((0, 0), 0) else (s.downRun p c (t + i * tk) n key).pts).mapIdx fun j z =>
      let τ := t + (i + j) * tk
      match s.playAt 0x12 p c τ with
      | some w => (w, 0)
      | none =>
        let y := gainRaw (tget (fun _ => 0x4000) (s.settingsAt τ).gains (gainKey .rx p c)).toNat z.1
        (iqSat 16 y, z.2 + iqClips 16 y)

/-! ## The FFT (R165, R166) -/

/-- The FFT window of a receive symbol of a carrier: its first tick and the tick after its last sample (R165). -/
def State.fftWindow (s : State) (c : Nat) (a : Air) : Int × Int :=
  let t := fullTick a s.now
  let x := s.fftAt .rx c t
  match x.cfg with
  | some b =>
    let w0 := t + ((x.prefixAt t : Int) - fftD b) * x.tk
    (w0, w0 + fftN b * x.tk)
  | none => (t, t)

/-- e^{j2π f (A + Tcp)} for a receive carrier with PHCOMP, else 1 (R166). -/
def State.rxPhase (s : State) (tile c : Nat) (a : Int) : IQ :=
  let v := s.carAt tile .rx c a
  let x := s.fftAt .rx c a
  if v.phcomp then cis ((v.freq.toInt * (a + x.prefixAt a * x.tk)) % 2 ^ 49).toNat (2 ^ 49) else (2 ^ 60, 0)

/-- The values of the resource elements of a path's symbol at some subcarriers, and the rails clamped: zero where function FFT
is stopped, played values in their place (R166). -/
def State.fftValues (s : State) (p c : Nat) (air : Air) (scs : List Nat) : List Pt :=
  let a := fullTick air s.now
  let x := s.fftAt .rx c a
  let b := x.cfg.getD []
  let n := fftN b
  let nrb := s.symNrb .rx c a
  let xs := (s.rxCarrier p c (s.fftWindow c air).1 n).map Prod.fst
  scs.map fun (sc : Nat) =>
    match s.playAt 0x13 p c (a + sc * x.tk) with
    | some z => (z, 0)
    | none =>
      if s.fnStoppedAt 5 0 a then ((0, 0), 0)
      else
        let k := fftBin n nrb (sc / 12) (sc % 12)
        let y := fftBinOut (scaleOf (fftScale b) (Nat.log2 n)) (((a.toNat * 64 + p) * 4 + c) * 16384 + k) (fftD b)
          (s.rxPhase (tileOfPath p) c a) xs k
        (iqSat 16 y, iqClips 16 y)

/-! ## Combining (R173) -/

/-- The subcarriers of `n` RBs from `rb` on. -/
def subcarriers (rb n : Nat) : List Nat := (List.range (12 * n)).map (12 * rb + ·)

/-- A layer's values over some RBs of a declaration, int24 rails in the order I, Q, and the rails clamped (R173). Paths out of
receive service have zero weight. -/
def State.combined (s : State) (d : Decl) (layer rb n : Nat) : List Int × Nat :=
  let a := fullTick d.air s.now
  let g := (s.islCarAt .rx d.car a).rbglog
  let out := (s.settingsAt a).rxOut
  let scs := subcarriers rb n
  let vals := (List.range 64).map fun p => s.fftValues p d.car d.air scs
  let raw := scs.mapIdx fun i sc =>
    let e := declEntry d g [] layer (sc / 12)
    weightedRaw (fld d.record 64 3) ((List.range 64).map fun p =>
      let (w, x) := s.weightOf .rx e d.air p
      ((((vals.getD p []).getD i ((0, 0), 0)).1, if out.getLsbD p then (0, 0) else w, x) : IQ × IQ × Nat))
  (raw.flatMap fun y => let z := iqSat 24 y; [z.1, z.2], clipCount 24 raw)

/-! ## Compression (R80, R81, R175) -/

/-- Mantissas of an RB at exponent `e`. -/
def mantsAt (e : Nat) (r : List Int) : List Int := r.map fun x => roundShift x e

/-- Exponent, mantissas and clamped rails of an RB compressed to `m` bits (R175). -/
def compressRb (m : Nat) (r : List Int) : Nat × List Int × Nat :=
  match (List.range 16).find? fun e => (mantsAt e r).all fun x => !clampsN m x with
  | some e => (e, mantsAt e r, 0)
  | none => (15, (mantsAt 15 r).map (satN m), ((mantsAt 15 r).filter (clampsN m)).length)

/-- Packs fields of `m` bits, the first lowest. -/
def packBits (m : Nat) : List Int → Nat
  | [] => 0
  | x :: xs => toTwos m x + 2 ^ m * packBits m xs

/-- The rails of RB `i` of a block. -/
def rbOf (rails : List Int) (i : Nat) : List Int := (rails.drop (24 * i)).take 24

/-- RBs encoded, and the rails clamped. -/
def encodeRbs (comp : Bool) (m n : Nat) (rails : List Int) : Bytes × Nat :=
  if comp then
    let rs := (List.range n).map fun i => compressRb m (rbOf rails i)
    (rs.flatMap fun x => BitVec.ofNat 8 x.1 :: leBytes (3 * m) (packBits m x.2.1), (rs.map fun x => x.2.2).sum)
  else (rails.flatMap le16, 0)

/-! ## What a receive block's samples tell of it (R53, R147, R154, R182) -/

/-- A record that a path's receive samples of [lo, hi) need is dead: its RX corrector; its canceller while on, where they lie behind
it; the FIR of their carrier, where they have one (R138, R182, R196). -/
def State.rxRecordDead (s : State) (p : Nat) (sic : Bool) (car : Option Nat) (lo hi : Int) : Bool :=
  (s.settingsIn lo hi).any fun h =>
    (h.recAt (.rxiq (Fin.ofNat 64 p) (tget (fun _ => {}) h.sels (selRxiq p) : SelSt).bank)).dead ||
    (sic && h.sicOn.getLsbD p && (h.inUse (.sic (Fin.ofNat 64 p)) 2 lo).dead) ||
    match car with
    | some c => (h.inUse (.fir (Fin.ofNat 4 (tileOfPath p)) .rx (Fin.ofNat 4 c)) (s.fftAt .rx c lo).tk lo).dead
    | none => false

/-- A parity error on a word that crossed from the front die in [lo, hi) (R16). -/
def State.rxParityIn (s : State) (p : Nat) (lo hi : Int) : Bool :=
  (List.range ((hi - lo) / 2).toNat).any fun i => Config.rxParity p (s.clockAt (lo + 2 * i))

/-- The path clipped at the ADC in [lo, hi) (R147). -/
def State.rxClipIn (s : State) (p : Nat) (lo hi : Int) : Bool :=
  (List.range ((hi - lo) / 2).toNat).any fun i => Config.rxClip p (s.ballTime p (s.clockAt (lo + 2 * i)))

/-- The path's DC loop had not run in at some tick of [lo, hi) (R154). -/
def State.dcWarm (s : State) (p : Nat) (lo hi : Int) : Bool :=
  (s.settingsIn lo hi).any fun h => (s.dcOf p (tget (fun _ => 0) h.step p)).warmAt lo

/-- The samples of a path over a span of input ticks are damaged: zeroed, lost, or from some stopped functions (R16, R68, R149,
R182, R290, R291). -/
def State.rxDamaged (s : State) (p : Nat) (fns : List Nat) (car : Option Nat) (lo hi : Int) : Bool :=
  let t := tileOfPath p
  ((s.settingsIn lo hi).any fun h => h.unlocked.getLsbD t || h.rxDark.getLsbD p) ||
  fns.any (fun f => s.stoppedIn f t lo hi) || s.rxRecordDead p (fns.contains 15) car lo hi || s.rxParityIn p lo hi

/-- The input ticks that an FFT window's samples depend on: the window and Df of its chain on either side (R167). -/
def State.windowInputs (s : State) (p c : Nat) (lo hi : Int) : Int × Int :=
  let df : Int := s.chainDf (tileOfPath p) .rx c
  (lo - df, hi + df)

/-- Flags of a path's carrier samples of [lo, hi), those of played blocks among them; they depend on the FFT or not (R53, R163, R182). -/
def State.carFlags (s : State) (p c : Nat) (fft : Bool) (lo hi : Int) : BlockFlags :=
  let t := tileOfPath p
  let (a, b) := s.windowInputs p c lo hi
  let cut := (s.carAt t .rx c lo).on && !(s.carAt t .rx c (hi - 1)).on
  orFlags (tagFlags (s.playTags 0x10 p 0 a b ++ s.playTags 0x12 p c lo hi))
    ⟨s.rxDamaged p [10, 11, 15] (some c) a b || (fft && s.stoppedIn 5 0 lo hi) || s.stoppedIn 9 t lo hi || cut,
     s.dcWarm p a b || s.chainWarm t .rx c lo hi, false⟩

/-- Flags of what a path contributes to a symbol of a carrier with the FFT window [lo, hi) (R53, R163, R182). -/
def State.pathFlags (s : State) (p c : Nat) (lo hi : Int) : BlockFlags :=
  s.carFlags p c true lo hi

end Sys2Proof.Machine
end

