-- ==== Sys2Proof/Machine/Obs.lean ====
section
/-! DEFINITION. Rings in vector data memory, observation receivers, mismatch evaluation, and the cancellers with their
snapshots (R131-R136, R185-R197, R222, R278-R280, R370). -/

namespace Sys2Proof.Machine
open Sys2Proof

/-! ## Rings (R135, R171, R197, R370) -/

/-- Writes bytes into a ring of `size` bytes at internal address `base`, from offset `o` on; none where the memory does not perform a
write. -/
def State.ringBytes (s : State) (base size o : Nat) (b : Bytes) : Option State :=
  let first := b.take (size - o)
  (s.memWrite (base + o) first).bind fun s =>
    if first.length < b.length then s.memWrite base (b.drop first.length) else some s

/-- Writes blocks into a ring of a vector core's data memory and then advances its write pointer (R370); the whole is dropped and
counted where it does not fit in the free space, or where the memory does not perform the writes (log entry 8: a full ring is never
filled to the last byte). -/
def State.ringPut (s : State) (core base log wptr rptr drop : Nat) (blocks : List Bytes) : State :=
  let size := 1024 * 2 ^ log
  let b := blocks.flatten
  let w := (s.reg wptr).toNat % size
  let used := (w + size - (s.reg rptr).toNat % size) % size
  match if used + b.length < size then s.ringBytes (vcData core + base) size w b else none with
  | some s => s.setReg wptr (BitVec.ofNat 32 ((w + b.length) % size))
  | none => s.bump drop

/-- A block as a ring holds it: its tag word and its payload (R197). -/
def ringBlock (g : Tag) (body : Bytes) : Bytes := tagBytes (sealTag { g with length := BitVec.ofNat 16 body.length }) ++ body

/-! ## Observation schedules (R131-R136) -/

def State.obsOf (s : State) (n : Nat) : ObsSt := tget (fun _ => {}) s.lin.obs n
def State.setObs (s : State) (n : Nat) (x : ObsSt) : State := { s with lin := { s.lin with obs := tput (fun _ => {}) n x s.lin.obs } }

def entPath (e : BitVec 32) : Nat := fld e 0 4
def entInput (e : BitVec 32) : Nat := fld e 4 2
def entMode (e : BitVec 32) : Nat := fld e 6 2
def entAtten (e : BitVec 32) : Nat := fld e 8 5
/-- Entry length in ticks (R131). -/
def entTk (e : BitVec 32) : Nat := 1024 * max 1 (fld e 16 16)

/-- The entries in use: up to and including the first with LAST set. -/
def State.obsList (s : State) (n : Nat) : List (BitVec 32) :=
  let es := (List.range 64).map fun i => s.reg (rObsSched n i)
  match es.findIdx? fun e => e.getLsbD 13 with
  | some i => es.take (i + 1)
  | none => es

/-- Index and offset of the entry that holds tick `r` of a pass. -/
def entryAt : List (BitVec 32) → Nat → Nat → Nat → Nat × Nat
  | [], i, o, _ => (i, o)
  | e :: es, i, o, r => if r < o + entTk e then (i, o) else entryAt es (i + 1) (o + entTk e) r

/-- The entry of a receiver's schedule that holds the present tick: its index and start (R131). -/
def State.obsEntryNow (s : State) (n : Nat) : Option (Nat × Nat) :=
  let es := s.obsList n
  let base := fld (s.reg64 (rObsBase n)) 0 56
  let period := (es.map entTk).sum
  if s.now.toNat < base || period = 0 then none
  else
    let r := (s.now.toNat - base) % period
    let (i, o) := entryAt es 0 0 r
    some (i, s.now.toNat - r + o)

/-- The function's code: OBSA for even receivers, OBSB for odd (R344). -/
def obsFn (n : Nat) : Nat := 13 + n % 2

/-- Role of a schedule entry: 1 forward, 2 reverse (R278). -/
def State.obsRole (s : State) (n i : Nat) : Nat := fld (s.reg (rObsMmrole n + 4 * (i / 16))) (2 * (i % 16)) 2

/-- Global path number of an entry. -/
def obsPath (n : Nat) (e : BitVec 32) : Nat := 16 * (n / 2) + entPath e

/-- The entry in progress, as its word. -/
def State.obsWord (s : State) (n : Nat) : Option (Nat × Nat × BitVec 32) :=
  match (s.obsOf n).entry with
  | some (i, st) => some (i, st, s.reg (rObsSched n i))
  | none => none

/-- The entry delivers something: INPUT 0 or 1 and MODE 0 or 1. -/
def entActive (e : BitVec 32) : Bool := entInput e ≤ 1 && entMode e ≤ 1

/-- A snapshot or an entry's output is cut or discarded (R132, R260, R278). -/
def State.obsCut (s : State) (n : Nat) : State :=
  (s.setObs n { s.obsOf n with snap := none, took := true }).bump (cObs n 0)

/-- The other receiver's output is discarded while this entry drives its quad's coupler (R278). -/
def State.obsClash (s : State) (n m : Nat) : Bool :=
  match s.obsWord n, s.obsWord m with
  | some (i, _, e), some (_, _, f) =>
    s.obsRole n i = 2 && entInput f = 0 && entActive f && quadOfPath (obsPath n e) = quadOfPath (obsPath m f)
  | _, _ => false

/-- The tile's other receiver. -/
def obsOther (n : Nat) : Nat := if n % 2 = 0 then n + 1 else n - 1

/-- A receiver's entry in progress drives a quad's coupler (R278). -/
def State.obsDrives (s : State) (n q : Nat) : Bool :=
  match s.obsWord n with
  | some (i, _, e) => s.obsRole n i = 2 && decide (quadOfPath (obsPath n e) = q)
  | none => false

/-- The receiver of an entry leaves it: a snapshot still running is cut, and the coupler falls back, unless the other receiver drives
it too (R132, R278). -/
def State.obsLeave (s : State) (n : Nat) : State :=
  match s.obsWord n with
  | none => s
  | some (i, _, e) =>
    let s := if (s.obsOf n).snap.isSome then s.obsCut n else s
    let q := quadOfPath (obsPath n e)
    if s.obsRole n i = 2 && !s.obsDrives (obsOther n) q then { s with fe := { s.fe with cplRev := s.fe.cplRev &&& ~~~bit16 q } } else s

/-- OBS_ENTRY_START (R131): the entry that holds the present tick begins. -/
def execObsEntryStart (n : Obs) : State → Host.Outcome State Fault Refusal :=
  act fun s =>
    let x := s.obsOf n.val
    match s.obsEntryNow n.val with
    | none => s
    | some (i, st) =>
      if x.entry = some (i, st) || s.fnStopped (obsFn n.val) (n.val / 2) || st < x.runFrom || !s.tileOn (n.val / 2) then s
      else
        let s := s.obsLeave n.val
        let s := s.setObs n.val { s.obsOf n.val with entry := some (i, st), snap := none, took := false }
        let e := s.reg (rObsSched n.val i)
        let s := if s.obsRole n.val i = 2 then
            { s with fe := { s.fe with cplRev := s.fe.cplRev ||| bit16 (quadOfPath (obsPath n.val e)) } } else s
        let m := obsOther n.val
        let s := if s.obsClash n.val m && (!(s.obsOf m).took || (s.obsOf m).snap.isSome) then s.obsCut m else s
        if s.obsClash m n.val then s.obsCut n.val else s

/-- Ticks of a snapshot (R132). -/
def State.obsLog (s : State) (n : Nat) : Nat := fld (s.reg (rObsCtrl n)) 0 4
def State.obsTk (s : State) (n : Nat) : Nat := 2 ^ s.obsLog n * (if s.wide (n / 2) then 1 else 2)

/-- A snapshot or result of a first tick is the receiver's to deliver: its entry has not been left behind by a STOP or a resume,
and the STOP does not reach it (R68, R136). -/
def State.obsRuns (s : State) (n st s0 : Nat) : Bool :=
  (s.obsOf n).runFrom ≤ st && !(s.fnOf (obsFn n) (n / 2)).discards (airOf s0)

/-- OBS_SNAPSHOT_START (R132): 1,024 tk after the entry's start. -/
def execObsSnapshotStart (n : Obs) : State → Host.Outcome State Fault Refusal :=
  act fun s =>
    let x := s.obsOf n.val
    match s.obsWord n.val with
    | some (_, st, e) =>
      if entActive e && !x.took && x.snap.isNone && st + 1024 ≤ s.now.toNat && s.obsRuns n.val st (st + 1024) then
        s.setObs n.val { x with snap := some (st + 1024), took := true }
      else s
    | none => s

/-- What becomes of a running snapshot of a mode whose end has come: cut, or whole. -/
inductive SnapEnd where
  | none
  | cut
  | whole (i st s0 : Nat) (e : BitVec 32)
  deriving DecidableEq, Repr

/-- A snapshot of [lo, hi) is cut: its synthesiser was not ready at some sample, or its quad's loopback was released (R143, R260). A
release by an FE_CTL item cuts as one by traffic does (DESIGN CHOICE, log entry 41). -/
def State.snapCut (s : State) (n : Nat) (e : BitVec 32) (lo hi : Int) : Bool :=
  let looped := fun (h : Settings) => h.loop.getLsbD (quadOfPath (obsPath n e))
  (s.settingsIn lo hi).any fun h =>
    !h.synReady.getLsbD (2 * (n / 2) + (e.getLsbD 14).toNat) || (entInput e = 1 && looped (s.settingsAt lo) && !looped h)

def State.snapEnd (s : State) (n mode : Nat) : SnapEnd :=
  match (s.obsOf n).snap, s.obsWord n with
  | some s0, some (i, st, e) =>
    if entMode e ≠ mode then .none
    else if st + entTk e < s0 + s.obsTk n then (if st + entTk e ≤ s.now.toNat then .cut else .none)
    else if s.now.toNat < s0 + s.obsTk n then .none
    else if s.snapCut n e s0 (s0 + s.obsTk n : Nat) then .cut else .whole i st s0 e
  | _, _ => .none

/-- Header of an observation block (R133). -/
def obsHeader (n i content : Nat) (e : BitVec 32) (clip : Bool) (cnt : BitVec 32) : Bytes :=
  leBytes 8 (obsPath n e + 2 ^ 6 * content + 2 ^ 8 * entAtten e + 2 ^ 15 * clip.toNat + 2 ^ 16 * i + 2 ^ 32 * cnt.toNat)

/-- Tag of an observation block: SOURCE 6, STREAM 184 + n (R133). -/
def obsTag (n s0 : Nat) (f : BlockFlags) (last : Bool) : Tag :=
  { air := BitVec.ofNat 40 s0, kind := kObsData, stream := BitVec.ofNat 8 (184 + n), source := 6
    damaged := f.damaged, warmup := f.warmup, late := f.late, last := last }

/-- A parity error on a word of an observation receiver in [lo, hi) (R16). -/
def State.obsParityIn (s : State) (n : Nat) (lo hi : Int) : Bool :=
  let tk := if s.wide (n / 2) then 1 else 2
  (List.range ((hi - lo) / tk).toNat).any fun i => Config.obsParity n (s.clockAt (lo + tk * i))

/-- Blocks of a receiver reach the capture engines that run at its tap: their samples wait to be recorded (R135, R506). -/
def State.toCapture (s : State) (n : Nat) (blocks : List (Tag × Bytes)) : State :=
  let new := blocks.map fun b => (⟨sealTag b.1, pbits b.2 0 6, iqList b.2 8 ((b.2.length - 8) / 4)⟩ : ObsBlk)
  let takes := fun (x : CapSt) => !x.play && (x.state = .armed || x.state = .running) && x.tap.toNat = 0x20 + n
  { s with caps := s.caps.map fun x => if takes x.2 then (x.1, { x.2 with blocks := x.2.blocks ++ new }) else x }

/-- Blocks go to the ring of the named core, or to the capture engines at the receiver's tap (R135). The ring lies where OBSn_RING says, on a multiple of
64 or not (DESIGN CHOICE, log entry 41). -/
def State.obsDeliver (s : State) (n : Nat) (blocks : List (Tag × Bytes)) : State :=
  let c := s.reg (rObsCtrl n)
  if c.getLsbD 8 then s.toCapture n blocks
  else
    s.ringPut (fld c 4 4) (fld (s.reg (rObsRing n)) 0 21) (fld c 12 4) (rObsWptr n) (rObsRptr n) (cObs n 1)
      (blocks.map fun b => ringBlock b.1 b.2)

/-- Composite samples of a snapshot. -/
def State.obsSamples (s : State) (n : Nat) : Nat := s.obsTk n / 2

/-- OBS_SNAPSHOT_COMPLETE (R133): FB, REFX and REFY are written whole or dropped. FB comes from the feedback ADC; REFX is the
path's predistorter input and REFY its corrector output, and both carry the flags of the transmit data they contain. LAST is set on
REFY alone, and a snapshot that finds no room still advances the count (DESIGN CHOICE, log entry 41). -/
def execObsSnapshotComplete (n : Obs) (clip : Bool) (fb : Bytes) : State → Host.Outcome State Fault Refusal :=
  act fun s =>
    match s.snapEnd n.val 0 with
    | .none => s
    | .cut => s.obsCut n.val
    | .whole i _ s0 e =>
      let x := s.obsOf n.val
      let p := obsPath n.val e
      let k : Int := (s0 / 2 : Nat)
      let m := s.obsSamples n.val
      let fl := s.txFlags p [0, 1, 2, 3] (s.playTags 0x04 p 0 s0 (s0 + s.obsTk n.val : Nat)) s0 (s0 + s.obsTk n.val : Nat)
      let no : BlockFlags := ⟨s.obsParityIn n.val s0 (s0 + s.obsTk n.val : Nat), false, false⟩
      let head := fun content => obsHeader n.val i content e clip x.seqCnt
      let blocks := [
        (obsTag n.val s0 no false, head 0 ++ slice fb 0 (4 * 2 ^ s.obsLog n.val)),
        (obsTag n.val s0 fl false, head 1 ++ iqBytes (s.modelIn fnsCfr p k m)),
        (obsTag n.val s0 fl true, head 2 ++ iqBytes ((s.dpdOut p k m).map Prod.fst))]
      (s.setObs n.val { x with snap := none, seqCnt := x.seqCnt + 1 }).obsDeliver n.val blocks

/-! ## Settle mode and mismatch (R134, R222, R279, R280) -/

/-- The settle-mode register after a snapshot: the sum of I² + Q² over its samples, in 48 bits (R222). -/
def settleSum (l : List IQ) : BitVec 48 := l.foldl (fun r x => r + BitVec.ofNat 48 (iqPower x)) 0

/-- Mean power of a settle-mode snapshot from its sum of squares (R222). -/
def settlePower (sum : BitVec 48) (log : Nat) : Nat := min 0xFFFFFFFF ((2 * sum.toNat + 2 ^ (log - 1)) / 2 ^ log)

/-- Evaluates the pair of a reverse result and the latest forward result of its path (R279, R280). -/
def State.mismatch (s : State) (p atten : Nat) (clip : Bool) (prev : Nat) : State :=
  let t := tileOfPath p
  let cfg := s.reg64 (rMmcfg t)
  match tget (fun _ => none) s.fe.fwd p with
  | none => s
  | some f =>
    if f.clip || clip || f.atten ≠ atten then s.bump (cFe t 3)
    else if s.now.toNat > f.tick + 1024 * fld cfg 40 8 || f.power.toNat < 2 ^ 15 * fld cfg 48 16 then s
    else
      let kr := fld (s.reg (rFeKr p)) 0 16
      let (q, s) :=
        if f.power.toNat / 16 = 0 then
          let (w, s) := s.draw
          (fld w 0 16, s)
        else (min 0xFFFF (prev * kr / (f.power.toNat / 16)), s)
      let s := if q ≥ fld cfg 0 16 then s.signal 96 else s
      let run := if q ≥ fld cfg 16 16 then tget (fun _ => 0) s.fe.muteRun p + 1 else 0
      let s : State := { s with fe := { s.fe with muteRun := tput (fun _ => 0) p run s.fe.muteRun } }
      if run > fld cfg 32 2 && !s.fe.mute.getLsbD p then s.mutePath p else s

/-- OBS_POWER_RESULT (R134): a power-mode entry delivers its mean power, and a forward or reverse role enters the mismatch
evaluation. `fb` holds the observed samples of the snapshot. A result that finds no room still advances the count (DESIGN CHOICE, log
entry 41). -/
def execObsPowerResult (n : Obs) (clip : Bool) (fb : Bytes) : State → Host.Outcome State Fault Refusal :=
  act fun s =>
    match s.snapEnd n.val 1 with
    | .none => s
    | .cut => s.obsCut n.val
    | .whole i _ s0 e =>
      let x := s.obsOf n.val
      let log := s.obsLog n.val
      let pw := settlePower (settleSum (iqList fb 0 (2 ^ log))) log
      let p := obsPath n.val e
      let s := s.setObs n.val { x with snap := none, seqCnt := x.seqCnt + 1 }
      let s := s.obsDeliver n.val [(obsTag n.val s0 ⟨s.obsParityIn n.val s0 (s0 + s.obsTk n.val : Nat), false, false⟩ true,
        obsHeader n.val i 0 e clip x.seqCnt ++ leBytes 8 (pw + 2 ^ 32 * 2 ^ log))]
      match s.obsRole n.val i with
      | 1 => { s with fe := { s.fe with
          fwd := tput (fun _ => none) p (some ⟨s.now.toNat, entAtten e, clip, BitVec.ofNat 32 pw⟩) s.fe.fwd } }
      | 2 => s.mismatch p (entAtten e) clip pw
      | _ => s

/-! ## Cancellers (R186-R188, R195, R197) -/

/-- SIC_CTL of an action, which the row fixes: from the tile's own TSQ; a late one is dropped (R51, R186). -/
def State.arriveSic (s : State) (action : Nat) (t : Tile) (g : Tag) (body : Bytes) : State :=
  let it := mkItem kSicCtl g (setPay body 16 2 action)
  s.arriveIf .sic t.val it fun _ => g.source.toNat = t.val

def execSicCtlOn (t : Tile) (g : Tag) (body : Bytes) : State → Host.Outcome State Fault Refusal :=
  act fun s => s.arriveSic 0 t g body
def execSicCtlOff (t : Tile) (g : Tag) (body : Bytes) : State → Host.Outcome State Fault Refusal :=
  act fun s => s.arriveSic 1 t g body
def execSicCtlSwap (t : Tile) (g : Tag) (body : Bytes) : State → Host.Outcome State Fault Refusal :=
  act fun s => s.arriveSic 2 t g body
def execSicCtlSnap (t : Tile) (g : Tag) (body : Bytes) : State → Host.Outcome State Fault Refusal :=
  act fun s => s.arriveSic 3 t g body

/-- The current canceller record of a path. -/
def State.sicRec (s : State) (p : Nat) : Rec :=
  s.recOf (.sic (Fin.ofNat 64 p) (s.selOf (selSic p)).bank)

/-- Transmit path of source `j` of a receive path's canceller; none where it is not enabled (R189, R190). -/
def State.sicSource (s : State) (p j : Nat) : Option Nat :=
  let b := (s.sicRec p).bytes
  if !sicEn b j then none
  else if j = 0 then some p else some (16 * tileOfPath p + sicAgg b j)

/-- The enabled sources of a path's canceller and their transmit paths: of the current record, which during a fade is the incoming
one; a source that SRCEN leaves out is none of the path's sources, and its tail delays no OFF (DESIGN CHOICES, log entry 41). -/
def State.sicSources (s : State) (p : Nat) : List (Nat × Nat) :=
  (List.range 8).filterMap fun j => (s.sicSource p j).map fun q => (j, q)

/-- The end of the tails of transmit symbols that began before full tick `a` on the canceller's sources and run past it
(R187). Time-domain blocks have no tail (R102). A symbol without a tail, whose body alone runs past `a`, delays the OFF to its end as
well (DESIGN CHOICE, log entry 41). -/
def State.tailEnd (s : State) (p : Nat) (a : Int) : Option Int :=
  (((s.sicSources p).flatMap fun x => s.symSpans x.2).filter fun x => decide (x.1 < a ∧ a < x.2)).foldl
    (fun (e : Option Int) x =>
      match e with
      | none => some x.2
      | some y => some (max y x.2)) none

def State.setSicOff (s : State) (p : Nat) (t : Option Nat) : State :=
  { s with lin := { s.lin with sicOff := tput (fun _ => none) p t s.lin.sicOff } }
def State.setSicOn (s : State) (p : Nat) (on : Bool) : State :=
  { s with lin := { s.lin with sicOn := setBit s.lin.sicOn p on } }
/-- The snapshots of a tile that have started and are not delivered, oldest first. -/
def State.snapsOf (s : State) (t : Nat) : List SnapSt := tget (fun _ => []) s.lin.snaps t
def State.setSnaps (s : State) (t : Nat) (x : List SnapSt) : State :=
  { s with lin := { s.lin with snaps := tput (fun _ => []) t x s.lin.snaps } }

/-- The tick after a snapshot's last sample. -/
def SnapSt.stop (x : SnapSt) : Nat := x.start + 2 * 2 ^ x.log

/-- Starts a snapshot of the lowest path of the mask; one that overlaps a running one is dropped (R197). -/
def State.startSnap (s : State) (t mask : Nat) (a : Air) : State :=
  match bitsSet mask 16 with
  | [] => s
  | i :: _ =>
    let x : SnapSt := ⟨16 * t + i, a, (fullTick a s.now).toNat, fld (s.reg (rSiccfg t)) 8 4⟩
    if (s.snapsOf t).any fun y => decide (x.start < y.stop ∧ y.start < x.stop) then s.bump (cTile t 13)
    else s.setSnaps t (s.snapsOf t ++ [x])

/-- The tick at which a pending OFF takes effect: the earlier one where two are pending. -/
def State.sicEnds (s : State) (p : Nat) (e : Nat) : State :=
  s.setSicOff p (some (match tget (fun _ => none) s.lin.sicOff p with
    | some d => min d e
    | none => e))

/-- A SIC_CTL takes effect on the receive paths of its mask (R186, R187, R195, R197). -/
def State.applySicCtl (s : State) (x : QItem) : State :=
  let b := x.item.body
  let t := x.tile
  let a := fullTick x.act s.now
  let ps := tileMaskPaths t (pbits b 0 16)
  match pbits b 16 2 with
  | 0 => ps.foldl (fun s p => s.setSicOn p true) s
  | 1 => ps.foldl (fun s p =>
      if !s.lin.sicOn.getLsbD p then s
      else
        match s.tailEnd p a with
        | some e => s.sicEnds p e.toNat
        | none => (s.setSicOff p none).setSicOn p false) s
  | 2 => ps.foldl (fun s p =>
      s.swapOne (.sic (Fin.ofNat 64 p)) 0 (bankOf x.item.tag.bank.toNat) (pbits b 18 4) a.toNat x.item.tag x.pc) s
  | _ => s.startSnap t (pbits b 0 16) x.act

/-- CANCELLER_OFF_TAIL_END (R187). -/
def execCancellerOffTailEnd (p : Path) : State → Host.Outcome State Fault Refusal :=
  act fun s =>
    match tget (fun _ => none) s.lin.sicOff p.val with
    | some e => if e ≤ s.now.toNat then (s.setSicOff p.val none).setSicOn p.val false else s
    | none => s

/-- Header of a canceller snapshot block (R197). -/
def snapHeader (path content src : Nat) (cnt : BitVec 32) : Bytes :=
  leBytes 8 (path + 2 ^ 6 * content + 2 ^ 16 * src + 2 ^ 32 * cnt.toNat)

/-- Tag of a canceller snapshot block: SOURCE 6, STREAM 180 + tile, and the flags of what it holds (R53, R197). -/
def snapTag (t : Nat) (a : Air) (f : BlockFlags) (last : Bool) : Tag :=
  { air := a, kind := kRxTd, stream := BitVec.ofNat 8 (180 + t), source := 6
    damaged := f.damaged, warmup := f.warmup, late := f.late, last := last }

/-- A block of samples of [lo, hi) leaves the canceller past its drain bound (R52, R533): a block longer than the symbol counts with its
own span (DESIGN CHOICE, log entry 41). -/
def State.sicLate (s : State) (lo hi : Int) : Bool := decide (lo + max (tsym 0 : Int) (hi - lo) + 16384 < (s.now.toNat : Int))

/-- Flags of a path's samples of [lo, hi) at the canceller's input or output (R53, R182). -/
def State.sicFlags (s : State) (p : Nat) (out : Bool) (lo hi : Int) : BlockFlags :=
  orFlags (tagFlags (s.playTags 0x10 p 0 lo hi))
    ⟨s.rxDamaged p (if out then [10, 15] else [10]) none lo hi, s.dcWarm p lo hi, s.sicLate lo hi⟩

/-- A reference block: 94 samples more than the snapshot, from 188 tk before it (R197). -/
def State.refBlock (s : State) (x : SnapSt) (cnt : BitVec 32) (src : Nat × Nat) (last : Bool) : Bytes :=
  let lo : Int := (x.start : Int) - 188
  let t := tileOfPath x.path
  ringBlock (snapTag t (x.air - 188) (orFlags (s.txFlags src.2 [0, 1, 2, 3] (s.playTags 0x04 src.2 0 lo x.stop) lo x.stop) ⟨false, false, s.sicLate lo x.stop⟩) last)
    (snapHeader x.path (2 + src.1) src.2 cnt ++ iqBytes (s.refOut src.2 (lo / 2) (2 ^ x.log + 94)))

/-- The blocks of a canceller snapshot: input, output, and each enabled source of the record that is current when it completes
(R197; DESIGN CHOICE, log entry 41). -/
def State.snapBlocks (s : State) (x : SnapSt) (cnt : BitVec 32) : List Bytes :=
  let k : Int := (x.start / 2 : Nat)
  let n := 2 ^ x.log
  let t := tileOfPath x.path
  let srcs := s.sicSources x.path
  [ringBlock (snapTag t x.air (s.sicFlags x.path false x.start x.stop) false)
      (snapHeader x.path 0 0 cnt ++ iqBytes ((s.iqOut x.path k n).map Prod.fst)),
    ringBlock (snapTag t x.air (s.sicFlags x.path true x.start x.stop) srcs.isEmpty)
      (snapHeader x.path 1 0 cnt ++ iqBytes ((s.sicOut x.path k n).map Prod.fst))] ++
  srcs.mapIdx fun i y => s.refBlock x cnt y (i + 1 = srcs.length)

/-- SIC_SNAPSHOT_COMPLETE (R197): the tile's oldest snapshot goes to its ring. A snapshot advances the count even where the
ring has no room for it (DESIGN CHOICE, log entry 41). -/
def execSicSnapshotComplete (t : Tile) : State → Host.Outcome State Fault Refusal :=
  act fun s =>
    match s.snapsOf t.val with
    | [] => s
    | x :: xs =>
      if s.now.toNat < x.stop then s
      else
        let cnt := tget (fun _ => 0) s.lin.snapCnt t.val
        let blocks := s.snapBlocks x cnt
        let s := s.setSnaps t.val xs
        let s : State := { s with lin := { s.lin with snapCnt := tput (fun _ => 0) t.val (cnt + 1) s.lin.snapCnt } }
        let c := s.reg (rSiccfg t.val)
        s.ringPut (fld c 4 4) (fld (s.reg (rSicring t.val)) 0 21) (fld c 12 4) (rSicwptr t.val) (rSicrptr t.val) (cTile t.val 13) blocks

end Sys2Proof.Machine
end

