-- ==== Sys2Proof/Machine/Rx.lean ====
section
/-! DEFINITION. The receive chain's commands: gains and LNA steps, DC loops, sounding windows, layer blocks and their combining
across a cascade (R150-R182, R184, R185). -/

namespace Sys2Proof.Machine
open Sys2Proof

/-! ## Gain and LNA steps (R159-R161) -/

/-- GAIN_RX (R161): a GAIN item without an LNA step on port FLT, for paths of the issuer's tile; one with DIR 0 is refused by its
form. -/
def execGainRx (t : Tile) (g : Tag) (body : Bytes) : State → Host.Outcome State Fault Refusal :=
  act fun s =>
    let it := mkItem kGain g (setPay body 18 1 0)
    s.arriveIf .flt t.val it fun _ => it.tag.source.toNat = t.val

/-- Largest RXADV among the quads of a tile's paths. -/
def State.pathsRxAdv (s : State) (ps : List Nat) : Nat := maxOf (ps.map fun p => s.rxAdv (quadOfPath p))

/-- An LNA step's RFFE write: a Register Write frame, its address, data and bus free values (log entry 2). -/
def State.lnaFrame (s : State) (t : Nat) : (Nat × BitVec 64) × State :=
  let (w, s) := s.draw
  ((2 * t + fld w 0 1, BitVec.ofNat 64 (2 ^ 3 * fld w 1 4 + 2 ^ 8 * fld w 5 5 + 2 ^ 32 * fld w 16 8)), s)

/-- Schedules the RFFE writes of an LNA step so that they complete LNAADV before `a`; whether all were placed (R159). -/
def State.placeLna (s : State) (t : Nat) (ps : List Nat) (a : Int) (tag : Tag) : State × Bool :=
  ps.foldl (fun (x : State × Bool) _ =>
    let ((b, f), s) := x.1.lnaFrame t
    let (s, ok) := s.placeGroup b (a - fld (s.reg (rLnaadv t)) 0 12) [f] tag
    (s, x.2 && ok)) (s, true)

/-- A GAIN item with an LNA step that passed the common checks (R159): dropped and counted where it is late or its RFFE
write cannot be placed. -/
def State.takeLna (s : State) (t : Nat) (it : Item) (pc : BitVec 19) : State :=
  let ps := tileMaskPaths t (pbits it.body 0 16)
  let a := fullTick it.tag.air s.now
  if it.tag.source.toNat ≠ t || !(s.fftAt .rx it.tag.carrier.toNat a).isSymStart a then s.refuse .flt t it pc
  else if !it.tag.late && decide (lead it.tag.air s.now < (max 16384 (8192 + s.pathsRxAdv ps) : Nat)) then s.bump (cTile t 2)
  else
    match s.placeLna t ps a it.tag with
    | (s', true) => s'.enqueue ⟨.flt, t, it, it.tag.air, it.tag.late, pc⟩
    | (s', false) => { s with free := s'.free }.bump (cTile t 2)

/-- LNA_STEP (R159). -/
def execLnaStep (t : Tile) (g : Tag) (body : Bytes) : State → Host.Outcome State Fault Refusal :=
  act fun s =>
    let it := mkItem kGain g (setPay body 18 1 1)
    s.arrive .flt t.val it fun pc s => s.takeLna t.val it pc

/-- A receive GAIN item takes effect: digital gain, and the LNA step with its compensation and DC stores (R153, R160, R161). -/
def State.applyGainRx (s : State) (x : QItem) : State :=
  let b := x.item.body
  (tileMaskPaths x.tile (pbits b 0 16)).foldl (fun s p =>
    let s := if pbit b 17 then s.setGain .rx p x.item.tag.carrier.toNat (BitVec.ofNat 16 (pbits b 32 16)) else s
    if pbit b 18 then
      { s with rx := { s.rx with step := tput (fun _ => 0) p (pbits b 19 3) s.rx.step } }
    else s) s

/-! ## DC loops (R151, R152) -/

/-- DC_FREEZE and DC_RELEASE: the flag of the row set in the payload. -/
def State.arriveDc (s : State) (flag : Nat) (t : Tile) (g : Tag) (body : Bytes) : State :=
  s.arriveCtl .flt t.val (mkItem kDcFreeze g (setPay body 16 1 flag))

def execDcFreeze (t : Tile) (g : Tag) (body : Bytes) : State → Host.Outcome State Fault Refusal :=
  act fun s => s.arriveDc 1 t g body
def execDcRelease (t : Tile) (g : Tag) (body : Bytes) : State → Host.Outcome State Fault Refusal :=
  act fun s => s.arriveDc 0 t g body

def State.applyDcFreeze (s : State) (x : QItem) : State :=
  let b := x.item.body
  let t := (fullTick x.act s.now).toNat
  (tileMaskPaths x.tile (pbits b 0 16)).foldl (fun s p =>
    { s with rx := { s.rx with
        relAt := if !pbit b 16 && s.rx.frozen.getLsbD p then tput (fun _ => none) p (some t) s.rx.relAt else s.rx.relAt
        frozen := if pbit b 16 then s.rx.frozen ||| bit64 p else s.rx.frozen &&& ~~~bit64 p } }) s

/-- DC_SERVO_STEP (R151): a code raised by one takes 32 LSB off the input, and the estimate of the digital loop moves with it. -/
def execDcServoStep (p : Path) (rail : Rail) : State → Host.Outcome State Fault Refusal :=
  act fun s =>
    let t := tileOfPath p.val
    let x := s.dcOf p.val (s.lnaStep p.val)
    let k := 2 * p.val + (match rail with | .I => 0 | .Q => 1)
    let d := match rail with | .I => x.estI | .Q => x.estQ
    let recent := match tget (fun _ => none) s.rx.servoAt k with
      | some a => decide (s.now.toNat < a + 65536)
      | none => false
    if s.dcFrozen p.val || !s.servoEn t || decide (d.toInt.natAbs ≤ 24 * 65536) || recent then s
    else
      let code := match rail with | .I => x.codeI | .Q => x.codeQ
      let up := decide (d.toInt > 0)
      let code' := if up then code + 1 else code - 1
      if code' < -128 || 127 < code' then s.bump (cTile t 10)
      else
        let d' := if up then d - 0x200000 else d + 0x200000
        let x := match rail with
          | .I => { x with codeI := code', estI := d' }
          | .Q => { x with codeQ := code', estQ := d' }
        let s := s.setDc p.val (s.lnaStep p.val) x
        { s with rx := { s.rx with servoAt := tput (fun _ => none) k (some s.now.toNat) s.rx.servoAt } }

/-! ## Sounding (R168-R171) -/

def winNum (b : Bytes) : Nat := pbits b 92 11
def winComb (b : Bytes) : Nat := 2 ^ pbits b 68 2
/-- Resource elements a window extracts on each path. -/
def winRes (b : Bytes) : Nat := 12 * winNum b / winComb b
def winMask (b : Bytes) : Nat := pbits b 128 64

/-- The window keeps R168, and its symbol and carrier, as they are in effect at its AIRTIME, the rules of R78; its carrier is not
in time-domain mode, which has no resource elements (R164). -/
def State.winFits (s : State) (it : Item) : Bool :=
  let b := it.body
  let t := fullTick it.tag.air s.now
  let x := s.fftAt .rx it.tag.carrier.toNat t
  let car := s.islCarAt .rx it.tag.carrier.toNat t
  match x.cfg, x.symbolAt t with
  | some g, some p =>
    x.mu = it.tag.mu.toNat && p.start = t && p.sym = it.tag.symbol.toNat && !car.tdmode &&
    1 ≤ winNum b && 12 * winNum b % winComb b = 0 && pbits b 70 3 < winComb b &&
    pbits b 81 11 + winNum b ≤ car.nrb && car.nrb ≤ 13 * fftN g / 192 &&
    (!pbit b 73 || 6 ≤ pbits b 74 5 && pbits b 74 5 ≤ 16)
  | _, _ => false

def State.takeWindow (s : State) (it : Item) : State :=
  let k := windowKey .rx (fullTick it.tag.air s.now)
  if (s.lateBy .bf 0 it).isSome then s.bump (domCounter .bf 0 .latecnt)
  else if !s.winFits it then s.bump (cBeam 2)
  else
    let sum := tget (fun _ => 0) s.srsCharges k + winRes it.body * popCount (winMask it.body) 64
    if sum > 1048576 then s.bump (cBeam 7)
    else
      { s with
        srsCharges := tput (fun _ => 0) k sum s.srsCharges
        rx := { s.rx with wins := s.rx.wins ++ [⟨it.tag.carrier.toNat, it.tag.air, it.tag, it.body⟩] } }

/-- SOUNDING_WINDOW (R168): a BEAM_SEL item of form 1. -/
def execSoundingWindow (g : Tag) (body : Bytes) : State → Host.Outcome State Fault Refusal :=
  act fun s =>
    let it := mkItem kBeamSel g (rowPay body 0 2 2 1)
    s.arrive .bf 0 it fun _ s => s.takeWindow it

/-- The subcarriers a window extracts (R168). -/
def winSubs (b : Bytes) : List Nat := (List.range (winRes b)).map fun j => 12 * pbits b 81 11 + pbits b 70 3 + j * winComb b

/-! ### What every receive block asks of its symbol -/

def State.role (s : State) : Nat := fld (s.reg rBeamUlcfg) 0 2
def State.holdTk (s : State) : Nat := 1024 * max 1 (fld (s.reg rBeamUlcfg) 8 8)
def State.pmant (s : State) : Nat := fld (s.reg rBeamUlcfg) 16 5
/-- The wait of a VC2 frame for credit (R411). -/
def State.vc2Wait (s : State) : Nat := 1024 * max 1 (fld (s.reg rLanePortcfg) 25 7)

/-- GD of a tile's receive chain of a carrier (R216). -/
def State.chainGd (s : State) (t c : Nat) : Nat :=
  s.chainDf t .rx c + pipeDelay (s.chainR .rx c) (fld (s.reg (rFltcfg t 1 c)) 8 2)

/-- The combining charge of a carrier's symbol (R76). -/
def State.symCharge (s : State) (c : Nat) (air : Air) : Nat :=
  ((s.decls.filter fun d => decide (d.dir = Dir.rx) && d.car = c && d.air = air).map fun d => declCharge d.record).sum

/-- The tick by which a block of a symbol has left, from some tiles (R184, R533). -/
def State.drainBy (s : State) (c : Nat) (air : Air) (tiles : List Nat) : Int :=
  let a := fullTick air s.now
  let x := s.fftAt .rx c a
  let hold := if s.role = 1 || s.role = 2 then s.holdTk else 0
  a + ((x.symbolAt a).map SymPos.span).getD 0 + 4208 + fftN (x.cfg.getD []) / 4 + maxOf (tiles.map fun t => s.chainGd t c) +
    ceilDiv (s.symCharge c air) 12 + hold + s.vc2Wait

/-- A block of a symbol is past its drain bound (R52). -/
def State.pastDrain (s : State) (c : Nat) (air : Air) (tiles : List Nat) : Bool := decide (s.drainBy c air tiles < (s.now.toNat : Int))

/-- Flags of a block derived from some paths' symbol, and LATE past its drain bound (R52, R53, R182). -/
def State.symFlags (s : State) (c : Nat) (air : Air) (ps : List Nat) : BlockFlags :=
  let (lo, hi) := s.fftWindow c air
  let a := fullTick air s.now
  let end_ := a + (12 * s.symNrb .rx c a * (s.fftAt .rx c a).tk : Nat)
  orFlags ((ps.map fun p => orFlags (s.pathFlags p c lo hi) (tagFlags (s.playTags 0x13 p c a end_))).foldl orFlags noFlags)
    ⟨false, false, s.pastDrain c air (allTiles.filter fun t => ps.any fun p => tileOfPath p = t)⟩

/-- Some path of a list clipped in the symbol's FFT window (R147). -/
def State.symOvl (s : State) (c : Nat) (air : Air) (ps : List Nat) : Bool :=
  let (lo, hi) := s.fftWindow c air
  ps.any fun p => s.rxClipIn p lo hi

/-- The FFT window of a symbol has ended, and its carrier was on, and not in time-domain mode, when it began (R163, R164). -/
def State.symDone (s : State) (c : Nat) (air : Air) : Bool :=
  let (lo, hi) := s.fftWindow c air
  let v := s.islCarAt .rx c lo
  decide (hi ≤ (s.now.toNat : Int)) && v.on && !v.tdmode

/-- The SRS block of one path, and the rails its compression clamped: its header, the extracted elements in ascending order, and
zeros to a whole group of 12 (R170). -/
def State.srsBlock (s : State) (w : SrsWin) (damaged : Bool) (p : Nat) (last : Bool) : (Tag × Bytes) × Nat :=
  let b := w.body
  let els := (s.fftValues p w.car w.air (winSubs b)).map Prod.fst
  let groups := ceilDiv els.length 12
  let rails := (els ++ List.replicate (12 * groups - els.length) ((0, 0) : IQ)).flatMap fun z => [z.1, z.2]
  let (data, sat) := encodeRbs (pbit b 73) (pbits b 74 5) groups rails
  let f := s.symFlags w.car w.air [p]
  let hdr := pbits b 64 4 + 2 ^ 4 * p + 2 ^ 10 * pbits b 81 11 + 2 ^ 21 * winNum b +
    2 ^ 32 * pbits b 68 2 + 2 ^ 34 * pbits b 70 3 + 2 ^ 37 * pbits b 73 1 + 2 ^ 38 * pbits b 74 5 +
    2 ^ 43 * (s.symOvl w.car w.air [p]).toNat
  let body := leBytes 8 hdr ++ data
  ((sealTag { air := w.air, epoch := w.tag.epoch, stream := BitVec.ofNat 8 (172 + w.car), carrier := w.tag.carrier, kind := kSrs
              symbol := w.tag.symbol, mu := w.tag.mu, length := BitVec.ofNat 16 body.length
              damaged := damaged || f.damaged, warmup := f.warmup, late := f.late || w.tag.late, last := last, source := 6 }, body), sat)

/-- SOUNDING_BLOCKS (R170, R171): the blocks of a window's paths in service, in order, once its symbol is in; `damaged` tells
that data they came from failed a check on its way. -/
def execSoundingBlocks (c : Carrier) (winid : BitVec 4) (damaged : Bool) : State → Host.Outcome State Fault Refusal :=
  act fun s =>
    match s.rx.wins.find? fun w => w.car = c.val && pbits w.body 64 4 = winid.toNat with
    | none => s
    | some w =>
      if !s.symDone c.val w.air then s
      else
        let out := (s.settingsAt (fullTick w.air s.now)).rxOut
        let ps := (bitsSet (winMask w.body) 64).filter fun p => !out.getLsbD p
        let made := ps.mapIdx fun i p => s.srsBlock w damaged p (i + 1 = ps.length)
        let blocks := made.map Prod.fst
        let s : State := { s with rx := { s.rx with wins := s.rx.wins.erase w } }
        let s := s.bumpBy (cBeam 3) (made.map Prod.snd).sum
        let dest := pbits w.body 79 2
        let s := if dest = 1 then s else
          s.ringPut (fld (s.reg rSrsring) 0 4) (fld (s.reg rSrsbase) 0 21) (fld (s.reg rSrsring) 4 4) rSrswptr rSrsrptr (cBeam 12)
            (blocks.map fun x => tagBytes x.1 ++ x.2)
        if dest = 0 then s else blocks.foldl (fun s x => s.sendTagged (some c.val) 2 x.1 x.2) s

/-- Rails of a compressed partial before their clamp: the mantissas scaled (R175). -/
def partialRaw (b : Bytes) : List Int :=
  (List.range (fdNum b)).flatMap fun k =>
    let o := 8 + k * (1 + 3 * fdMant b)
    (List.range 24).map fun j => mantissa b o (fdMant b) j * 2 ^ pbits b (8 * o) 4

/-- Rails of a compressed partial, and how many of them its decompression clamps, which count in BEAM_SATCNT (R80, R175). -/
def partialRails (b : Bytes) : List Int := (partialRaw b).map sat24
def partialClips (b : Bytes) : Nat := ((partialRaw b).filter (clampsN 24)).length

/-! ## Layer blocks across the cascade (R174-R178) -/

def ulKey (b : UlBlock) : UlKey := ⟨b.air, b.carrier.val, b.sectid.toNat, b.layer.toNat, b.startRb.toNat, b.numRb.toNat⟩
def partKey (it : Item) : UlKey :=
  ⟨it.tag.air, it.tag.carrier.toNat, fdSect it.body, fdLayer it.body, fdStart it.body, fdNum it.body⟩

/-- The block header of R174. -/
def ulHeader (b : UlBlock) (comp : Bool) (m contrib : Nat) : Bytes :=
  leBytes 8 (b.sectid.toNat + 2 ^ 12 * (b.layer.toNat % 32) + 2 ^ 17 * b.startRb.toNat + 2 ^ 28 * b.ovl.toNat +
    2 ^ 32 * b.numRb.toNat + 2 ^ 43 * comp.toNat + 2 ^ 44 * m + 2 ^ 49 * contrib)

/-- The receive declaration that a layer block answers (R174). -/
def State.ulDecl (s : State) (k : UlKey) : Option Decl :=
  s.decls.find? fun d =>
    let st := fld d.record 32 11
    let n := fld d.record 43 11
    d.dir = .rx && d.car = k.car && d.air = k.air && fld d.record 0 12 = k.sect && decide (k.layer < fld d.record 22 6) &&
    decide (st ≤ k.start ∧ k.start < st + n) && (k.start - st) % 64 = 0 && k.num = min 64 (st + n - k.start)

/-- The block is the last of its symbol (R53): the last chunk of the last layer of the last declaration. -/
def State.ulLast (s : State) (k : UlKey) : Bool :=
  match (s.decls.filter fun d => decide (d.dir = Dir.rx) && d.car = k.car && d.air = k.air).getLast? with
  | some d => fld d.record 0 12 = k.sect && k.layer + 1 = fld d.record 22 6 && k.start + k.num = fld d.record 32 11 + fld d.record 43 11
  | none => false

/-- Sends a layer sum: as UL_DATA from a device that sends to the baseband, else as UL_PARTIAL (R174, R176). -/
def State.sendUl (s : State) (b : UlBlock) (contrib : Nat) (last : Bool) : State :=
  let part := 2 ≤ s.role
  let rails := if part then b.rails else b.rails.map sat16
  let clipped := if part then 0 else (b.rails.filter (clampsN 16)).length
  let comp := part || b.comp
  let m := if part then s.pmant else b.mantw.toNat
  let (rbs, sat) := encodeRbs comp m b.numRb.toNat rails
  let body := ulHeader b comp m contrib ++ rbs
  let tag := sealTag {
    air := b.air, epoch := b.epoch, stream := BitVec.ofNat 8 ((if part then 192 else 168) + b.carrier.val)
    carrier := BitVec.ofNat 2 b.carrier.val, kind := if part then kUlPartial else kUlData, symbol := b.symbol
    mu := BitVec.ofNat 3 (s.fftAt .rx b.carrier.val (fullTick b.air s.now)).mu, length := BitVec.ofNat 16 body.length
    damaged := b.flags.damaged, warmup := b.flags.warmup, late := b.flags.late || s.pastDrain b.carrier.val b.air allTiles, last := last
    source := if part then 9 else 6 }
  (s.bumpBy (cBeam 3) (clipped + sat)).sendTagged (some b.carrier.val) 2 tag body

/-- Remembers that the own block of a key has left; blocks long past are forgotten. -/
def State.ulSent (s : State) (k : UlKey) : State :=
  { s with rx := { s.rx with sent := (s.rx.sent.filter fun x => decide (lead x.air s.now > -(2 ^ 26 : Int))) ++ [k] } }

/-- The own sum is sent alone: DAMAGED, CONTRIB 0, counted (R178). -/
def State.sendAlone (s : State) (b : UlBlock) : State :=
  ((s.bump (cBeam 13)).sendUl { b with flags := { b.flags with damaged := true } } 0 (s.ulLast (ulKey b))).ulSent (ulKey b)

/-- Own block and partial summed and sent (R177). -/
def State.sendSum (s : State) (b : UlBlock) (p : Item) : State :=
  let raw := List.zipWith (· + ·) b.rails (partialRails p.body)
  let g := p.tag
  let sum : UlBlock := { b with
    rails := raw.map sat24, ovl := b.ovl || pbit p.body 28
    flags := ⟨b.flags.damaged || g.damaged, b.flags.warmup || g.warmup, b.flags.late || g.late⟩ }
  ((s.bumpBy (cBeam 3) ((raw.filter (clampsN 24)).length + partialClips p.body)).sendUl sum (pbits p.body 49 4 + 1)
    (s.ulLast (ulKey b) || g.last)).ulSent (ulKey b)

/-- A device that waits for partials: a head or a middle device. -/
def State.waitsPartials (s : State) : Bool := s.role = 1 || s.role = 2

/-- The weight groups of a declaration that a chunk of RBs touches. -/
def chunkGroups (r : BitVec 128) (rbglog start num : Nat) : List Nat :=
  let w := 2 ^ rbglog * (fld r 54 4 + 1)
  let lo := (start - fld r 32 11) / w
  (List.range ((start + num - 1 - fld r 32 11) / w + 1 - lo)).map (lo + ·)

/-- The entry that a declaration's list names for a weight group and layer (R77). -/
def groupEntry (d : Decl) (layer g : Nat) : Nat := pbits d.list (16 * (g * fld d.record 22 6 + layer)) 13

/-- Paths in receive service in the masks of some entries, at a symbol's AIRTIME (R173). -/
def State.maskPaths (s : State) (es : List Nat) (a : Air) : List Nat :=
  let out := (s.settingsAt (fullTick a s.now)).rxOut
  (List.range 64).filter fun p => !out.getLsbD p && es.any fun e => nbit (s.entryMask .rx e a) p

/-- The own block of a declaration: the fields the declaration fixes, its values from the combiner, its flags, and how many of its
weight groups' entries contribute zero and how many rails the combiner clamped (R85, R173, R174, R182). -/
def State.ownBlock (s : State) (d : Decl) (n : UlName) : UlBlock × Nat × Nat :=
  let r := d.record
  let g := (s.islCarAt .rx d.car (fullTick d.air s.now)).rbglog
  let groups := chunkGroups r g n.startRb.toNat n.numRb.toNat
  let es := groups.map (groupEntry d n.layer.toNat)
  let w := 2 ^ g * (fld r 54 4 + 1)
  let firsts := groups.filter fun x => decide (n.startRb.toNat ≤ fld r 32 11 + x * w)
  let bad := (firsts.filter fun x => !s.entryUsable .rx (groupEntry d n.layer.toNat x) d.air).length
  let failing := es.any fun e => dirtyKey .rx ((s.regionSt .rx (s.regionOfEntry .rx e)).bankFor d.air) e ∈ s.beam.failing
  let ps := s.maskPaths es d.air
  let (rails, sat) := s.combined d n.layer.toNat n.startRb.toNat n.numRb.toNat
  let f := orFlags (s.symFlags d.car d.air ps) ⟨n.damaged || failing, false, d.tag.late⟩
  ({ air := n.air, carrier := n.carrier, symbol := d.tag.symbol, epoch := d.tag.epoch, sectid := n.sectid, layer := n.layer
     startRb := n.startRb, numRb := n.numRb, comp := r.getLsbD 58, mantw := BitVec.ofNat 5 (fld r 59 5)
     ovl := s.symOvl d.car d.air ps, flags := f, rails := rails }, bad, sat)

/-- The canceller of some path of a section's masks was off at some time of the symbol's FFT window (R185). -/
def State.sbfdMissed (s : State) (d : Decl) : Bool :=
  let (lo, hi) := s.fftWindow d.car d.air
  let rbglog := (s.islCarAt .rx d.car (fullTick d.air s.now)).rbglog
  let es := (List.range (fld d.record 22 6)).flatMap fun l => layerEntries d.record rbglog d.list l
  (s.maskPaths es d.air).any fun p => (s.settingsIn lo hi).any fun h => !h.sicOn.getLsbD p

/-- The check of an SBFD section, at its first block: a symbol that fails it is counted once for that section (R185; DESIGN CHOICE, log
entry 41: two sections of one symbol that fail count twice). -/
def State.checkSbfd (s : State) (d : Decl) (n : UlName) : State :=
  if d.record.getLsbD 29 && n.layer = 0 && n.startRb.toNat = fld d.record 32 11 && s.sbfdMissed d then s.bump (cBeam 14) else s

/-- What names a layer block. -/
def nameKey (n : UlName) : UlKey := ⟨n.air, n.carrier.val, n.sectid.toNat, n.layer.toNat, n.startRb.toNat, n.numRb.toNat⟩

/-- UL_BLOCK_READY (R174, R176, R178): a layer block of a declared section leaves the combiner, once its symbol is in. -/
def execUlBlockReady (b : UlName) : State → Host.Outcome State Fault Refusal :=
  act fun s =>
    match s.ulDecl (nameKey b) with
    | none => s
    | some d =>
      if !s.symDone b.carrier.val b.air || nameKey b ∈ s.rx.sent || (s.rx.own.any fun x => ulKey x.blk = nameKey b) then s
      else
        let (x, bad, sat) := s.ownBlock d b
        let s := ((s.countBadUses bad).bumpBy (cBeam 3) sat).checkSbfd d b
        if !s.waitsPartials then (s.sendUl x 0 (s.ulLast (ulKey x))).ulSent (ulKey x)
        else
          match s.rx.parts.find? fun p => partKey p = ulKey x with
          | some p => ({ s with rx := { s.rx with parts := s.rx.parts.erase p } } : State).sendSum x p
          | none =>
            if s.portUp 1 then { s with rx := { s.rx with own := s.rx.own ++ [⟨x, s.now.toNat⟩] } } else s.sendAlone x

/-- HOLD_EXPIRY (R178): the hold of the i-th own block that waits has run out. -/
def execHoldExpiry (i : Nat) : State → Host.Outcome State Fault Refusal :=
  act fun s =>
    match s.rx.own[i]? with
    | none => s
    | some x =>
      if s.now.toNat < x.since + s.holdTk then s
      else ({ s with rx := { s.rx with own := s.rx.own.eraseIdx i } } : State).sendAlone x.blk

/-- Every held own block is sent as if its hold had expired (R425). -/
def State.flushHolds (s : State) : State :=
  s.rx.own.foldl (fun s x => s.sendAlone x.blk) { s with rx := { s.rx with own := [] } }

/-- A partial keeps R79, R80 and R174. -/
def partialForm (it : Item) : Bool :=
  let b := it.body
  b.length = it.tag.length.toNat && 8 ≤ b.length && 1 ≤ fdNum b && fdNum b ≤ 64 && fdComp b &&
  decide (6 ≤ fdMant b ∧ fdMant b ≤ 16) && b.length = fdBytes b && pbits b 29 3 = 0 && pbits b 53 11 = 0

/-- A partial of a section the device has not declared: forwarded by a middle device, delivered by a head device (R178). -/
def State.passPartial (s : State) (it : Item) : State :=
  let g := it.tag
  let c := g.carrier.toNat
  if s.role = 2 then
    s.sendOwn (some c) 1 2 (tagBytes (sealTag { g with late := g.late || s.pastDrain c g.air allTiles }) ++ it.body)
  else
    let b := it.body
    let s := s.bumpBy (cBeam 3) (partialClips b)
    s.sendUl { air := g.air, carrier := Fin.ofNat 4 c, symbol := g.symbol, epoch := g.epoch, sectid := BitVec.ofNat 12 (fdSect b)
               layer := BitVec.ofNat 6 (fdLayer b), startRb := BitVec.ofNat 11 (fdStart b), numRb := BitVec.ofNat 7 (fdNum b)
               comp := true, mantw := BitVec.ofNat 5 (fdMant b), ovl := pbit b 28
               flags := ⟨g.damaged, g.warmup, g.late⟩, rails := partialRails b } (pbits b 49 4) g.last

/-- A UL_PARTIAL that passed the common checks (R176-R178). -/
def State.takePartial (s : State) (it : Item) : State :=
  let k := partKey it
  if !s.waitsPartials then s.bump (cBeam 13)
  else if !partialForm it then s.bump (cBeam 2)
  else if k ∈ s.rx.sent then s.bump (cBeam 13)
  else
    match s.rx.own.find? fun x => ulKey x.blk = k with
    | some x => ({ s with rx := { s.rx with own := s.rx.own.erase x } } : State).sendSum x.blk it
    | none =>
      if (s.ulDecl k).isSome then
        { s with rx := { s.rx with parts := (s.rx.parts.filter fun (x : Item) => decide (lead x.tag.air s.now > -(2 ^ 26 : Int))) ++ [it] } }
      else s.passPartial it

/-- UL_PARTIAL (R176). -/
def execUlPartial (g : Tag) (body : Bytes) : State → Host.Outcome State Fault Refusal :=
  act fun s =>
    let it := mkItem kUlPartial g body
    s.arrive .lnk 0 it fun _ s => s.takePartial it

end Sys2Proof.Machine
end

