-- ==== Sys2Proof/Machine/Capture.lean ====
section
/-! DEFINITION. Capture and playback engines (R505-R512). -/

namespace Sys2Proof.Machine
open Sys2Proof

def State.capOf (s : State) (e : Nat) : CapSt := tget (fun _ => {}) s.caps e
def State.setCap (s : State) (e : Nat) (x : CapSt) : State := { s with caps := tput (fun _ => {}) e x s.caps }

/-- An engine in use: armed or running, with no stop time behind it (log entry 11). -/
def State.capBusy (s : State) (e : Nat) : Bool :=
  let x := s.capOf e
  (x.state = .armed || x.state = .running) &&
  match x.stop with
  | some g => decide (lead g.air s.now > 0)
  | none => true

/-! ## Taps (R506) -/

inductive TapUnit where
  | layer
  | path
  | receiver
  deriving DecidableEq, Repr

/-- Unit of a tap; none for a code that the table does not list. -/
def tapUnit (tap : Nat) : Option TapUnit :=
  if tap = 0x00 ∨ tap = 0x14 then some .layer
  else if tap ≤ 0x05 ∨ 0x10 ≤ tap ∧ tap ≤ 0x13 then some .path
  else if 0x20 ≤ tap ∧ tap ≤ 0x27 then some .receiver
  else none

/-- Taps that playback may feed. -/
def tapPlays (tap : Nat) : Bool := [0x00, 0x02, 0x04, 0x10, 0x12, 0x13].contains tap

def tapDir (tap : Nat) : Dir := if tap < 0x10 then .tx else .rx

/-- The tile whose paths or receiver a tap's units belong to: of the mask's lowest path, or of the receiver. -/
def capTile (tap : Nat) (d : CapDesc) : Nat :=
  if 0x20 ≤ tap then (tap - 0x20) / 2 else tileOfPath ((bitsSet d.mask.toNat 64).headD 0)

/-- Interpolation ratio of the descriptor's carrier; 1 where it has no configuration. -/
def State.capRatio (s : State) (tap : Nat) (d : CapDesc) : Nat :=
  let x := s.fftOf (tapDir tap) d.carrier
  match x.cfg with
  | some b => max 1 (ratioR (fftN b) x.mu)
  | none => 1

/-- Ticks of one sample at a tap. -/
def State.tapTk (s : State) (tap : Nat) (d : CapDesc) : Nat :=
  if carrierTap tap then 2 * s.capRatio tap d
  else if (tap = 0x05 || 0x20 ≤ tap) && s.wide (capTile tap d) then 1 else 2

/-- Units of a descriptor. -/
def capUnits (tap : Nat) (d : CapDesc) : Nat := if 0x20 ≤ tap then 1 else popCount d.mask.toNat 64

/-- Bytes of a record (R508). -/
def recBytes (d : CapDesc) : Nat := 64 + 4 * 2 ^ d.blklog

/-- The charge of R509 in units of 2^-18 bytes per second, which every charge is a whole number of. -/
def State.capCharge (s : State) (tap : Nat) (d : CapDesc) : Nat :=
  let rate := 3932160000 * (if 0x20 ≤ tap then 3 else 1)
  2 ^ 18 * (capUnits tap d * rate * recBytes d) / (s.tapTk tap d * 2 ^ d.blklog)

/-! ## Descriptors (R507) -/

def descOf (b : Bytes) : CapDesc where
  base    := pbits b 0 40
  ring    := pbit b 40
  sh      := pbits b 41 4
  blklog  := pbits b 45 4
  carrier := pbits b 49 2
  size    := pbits b 64 40
  mask    := BitVec.ofNat 64 (pbits b 128 64)
  prog    := pbits b 192 40

/-- The descriptor's fields and the mask obey R506 and R507 for a tap. -/
def descOk (tap : Nat) (b : Bytes) : Bool :=
  let d := descOf b
  d.base % 4096 = 0 && d.size % 4096 = 0 && d.sh ≤ 8 && 6 ≤ d.blklog && d.blklog ≤ 12 && pbits b 51 13 = 0 &&
  pbits b 104 24 = 0 && pbits b 232 24 = 0 &&
  match tapUnit tap with
  | some .path => (bitsSet d.mask.toNat 64).all fun p => tileOfPath p = capTile tap d
  | some .layer => d.mask.toNat < 2 ^ 32
  | some .receiver => true
  | none => false

/-- Stack of an address of DRAM. -/
def stackOf (a : Nat) : Nat := a / 0x100000000

/-- The running engines, apart from those whose stop time has passed. -/
def State.capsBusy (s : State) : List Nat := (List.range 16).filter s.capBusy

/-- The limits of R509. -/
def State.capAdmits (s : State) (tap : Nat) (d : CapDesc) : Bool :=
  let c := s.capCharge tap d
  let of_ := fun (e : Nat) => s.capCharge (s.capOf e).tap.toNat (s.capOf e).desc
  let giga := 2 ^ 18 * 1000000000
  d.base + d.size ≤ 0x200000000 && stackOf d.base = stackOf (d.base + d.size - 1) &&
  c ≤ 128 * giga &&
  ((s.capsBusy.filter fun e => stackOf (s.capOf e).desc.base = stackOf d.base).map of_).sum + c ≤ 380 * giga &&
  (s.capsBusy.map of_).sum + c ≤ 760 * giga

/-! ## Starts and stops (R505, R509) -/

/-- Reads the descriptor; none where the read fails. -/
def State.readDesc (s : State) (a : Nat) : Option Bytes × State :=
  if a % 32 ≠ 0 then (none, s)
  else
    match s.memRead a 32 with
    | (.ok b, s) => (some b, s)
    | (_, s) => (none, s)

/-- A refused start is counted, and event 111 is raised (R509). -/
def State.refuseCap (s : State) (it : Item) (pc : BitVec 19) : State :=
  (s.bump (cMem 4)).signal 111 |>.refuseSeq it.tag.source pc

/-- A start item that passed the common checks. -/
def State.capStart (s : State) (play : Bool) (it : Item) (pc : BitVec 19) : State :=
  let b := it.body
  let e := pbits b 2 4
  let tap := pbits b 6 8
  let late := !it.tag.late && (s.lateBy .cap 0 it).isSome
  let s := if late then s.bump (domCounter .cap 0 .latecnt) else s
  match s.readDesc (pbits b 64 40) with
  | (none, s) => s.refuseCap it pc
  | (some d, s) =>
    if s.capBusy e || !descOk tap d || (play && !(tapPlays tap && (s.mode.mode = .test || s.mode.mode = .maintenance))) ||
        !s.capAdmits tap (descOf d) then s.refuseCap it pc
    else
      s.setCap e { state := .armed, play := play, tap := BitVec.ofNat 8 tap, desc := descOf d, tag := it.tag
                   from_ := if late && lead it.tag.air s.now < 0 then s.now.truncate 40 else it.tag.air, late := late || it.tag.late }

/-- A stop item that passed the common checks: the engine takes no block from its AIRTIME on. -/
def State.capStop (s : State) (play : Bool) (it : Item) : State :=
  let e := pbits it.body 2 4
  let x := s.capOf e
  let s := if !it.tag.late && (s.lateBy .cap 0 it).isSome then s.bump (domCounter .cap 0 .latecnt) else s
  if x.play = play && s.capBusy e then s.setCap e { x with stop := some it.tag } else s

/-- CAP_CTL of an action, which the row fixes. -/
def State.arriveCap (s : State) (action : Nat) (g : Tag) (body : Bytes) : State :=
  let it := mkItem kCapCtl g (setPay body 0 2 action)
  s.arrive .cap 0 it fun pc s =>
    if action % 2 = 0 then s.capStart (action = 2) it pc else s.capStop (action = 3) it

def execCaptureStart (g : Tag) (body : Bytes) : State → Host.Outcome State Fault Refusal :=
  act fun s => s.arriveCap 0 g body
def execCaptureStop (g : Tag) (body : Bytes) : State → Host.Outcome State Fault Refusal :=
  act fun s => s.arriveCap 1 g body
def execPlaybackStart (g : Tag) (body : Bytes) : State → Host.Outcome State Fault Refusal :=
  act fun s => s.arriveCap 2 g body
def execPlaybackStop (g : Tag) (body : Bytes) : State → Host.Outcome State Fault Refusal :=
  act fun s => s.arriveCap 3 g body

/-- A STOP of function CAP ends every engine of its issuer (R512). -/
def State.capEnd (s : State) (src : BitVec 4) : State :=
  (List.range 16).foldl (fun s e =>
    let x := s.capOf e
    if (x.state = .armed || x.state = .running) && x.tag.source = src then s.setCap e { x with state := .idle, stop := none }
    else s) s

/-- A squash or a STOP discards the starts of engines that no block has reached yet, and stops whose time lies ahead
(R64, R68). -/
def State.capDiscard (s : State) (hits : Tag → Bool) : State :=
  (List.range 16).foldl (fun s e =>
    let x := s.capOf e
    if x.state = .armed && hits x.tag then (s.setCap e {}).bump (domCounter .cap 0 .discard)
    else
      match x.stop with
      | some g =>
        if hits g && decide (lead g.air s.now > 0) then (s.setCap e { x with stop := none }).bump (domCounter .cap 0 .discard)
        else s
      | none => s) s

/-! ## Samples at the taps (R506) -/

/-- The element of a frequency-domain tap that stands at tick `t`: the symbol's start and the element's subcarrier (log entry 40). -/
def State.elementAt (s : State) (d : Dir) (c : Nat) (t : Int) : Option (Int × Nat) :=
  let x := s.fftAt d c t
  match x.symbolAt t with
  | some q =>
    let e := ((t - q.start) / x.tk).toNat
    if e < 12 * s.symNrb d c q.start then some (q.start, e) else none
  | none => none

/-- A layer's value before compression at a tick (tap 0x14). -/
def State.layerAt (s : State) (l c : Nat) (t : Int) : IQ :=
  match s.elementAt .rx c t with
  | none => (0, 0)
  | some (a, e) =>
    let ds := s.decls.filter fun d => decide (d.dir = Dir.rx) && d.car = c && d.air = airOf a && decide (l < fld d.record 22 6)
    match declOf ds (e / 12) with
    | none => (0, 0)
    | some d =>
      let r := (s.combined d l (e / 12) 1).1
      (r.getD (2 * (e % 12)) 0, r.getD (2 * (e % 12) + 1) 0)

/-- `n` samples of a unit at a tap, from tick `t` on. A receiver's are the feedback ADC's, which come with the record. -/
def State.tapSamples (s : State) (tap unit c : Nat) (t : Int) (n tk : Nat) : List IQ :=
  let ticks := (List.range n).map fun i => t + (tk * i : Nat)
  let ofSym := fun (f : TxSym → Table (List IQ)) => ticks.map fun τ =>
    match s.elementAt .tx c τ with
    | none => (0, 0)
    | some (a, e) =>
      match s.symOf c a with
      | some y => (tget (fun _ => []) (f y) unit).getD e (0, 0)
      | none => (0, 0)
  match tap with
  | 0x00 => ofSym TxSym.layers
  | 0x01 => ofSym TxSym.beams
  | 0x02 => ticks.map fun τ => (s.wolaPoint fnsWola unit c τ).1
  | 0x03 => (s.carrierSum fnsFlt unit (t / 2) n).map Prod.fst
  | 0x04 => (s.cfrOut fnsCfr unit (t / 2) n).map CfrPt.z
  | 0x05 => (s.limOut unit (t / 2) (n * tk / 2)).take n
  | 0x10 => (List.range n).map fun i => (tget (fun _ => {}) s.chain.raws unit).at_ (t / 2 + i)
  | 0x11 => (s.sicOut unit (t / 2) n).map Prod.fst
  | 0x12 => (s.rxCarrier unit c t n).map Prod.fst
  | 0x13 => ticks.map fun τ =>
    match s.elementAt .rx c τ with
    | some (a, e) => ((s.fftValues unit c (airOf a) [e]).map Prod.fst).headD (0, 0)
    | none => (0, 0)
  | _ => ticks.map (s.layerAt unit c)

/-- Paths that a layer of a receive carrier's symbols from [lo, hi) is combined from. -/
def State.layerPaths (s : State) (l c : Nat) (lo hi : Int) : List Nat :=
  let ds := s.decls.filter fun d =>
    let a := fullTick d.air s.now
    decide (d.dir = Dir.rx) && d.car = c && decide (l < fld d.record 22 6) && decide (a < hi) && decide (lo < a + s.symSpan c d.mu a)
  (List.range 64).filter fun p => ds.any fun d =>
    (s.maskPaths (layerEntries d.record (s.islCarAt .rx c lo).rbglog d.list l) d.air).contains p

/-- Flags of the samples of [lo, hi) at a tap (R53, R182, R220). -/
def State.tapFlags (s : State) (tap unit c : Nat) (lo hi : Int) : BlockFlags :=
  let ofSyms := fun (ps : List Nat) =>
    (((s.fftAt .rx c lo).symsIn lo hi 256).flatMap fun a => ps.map fun p =>
      let w := s.fftWindow c (airOf a)
      orFlags (s.pathFlags p c w.1 w.2) (tagFlags (s.playTags 0x13 p c lo hi))).foldl orFlags noFlags
  match tap with
  | 0x00 | 0x01 =>
    tagFlags ((s.chain.syms.filter fun y => y.car = c && decide (y.start < hi) &&
      decide (lo < y.start + 12 * s.symNrb .tx c y.start * y.tk)).map TxSym.tag)
  | 0x02 => s.txFlags unit [c] [] lo hi
  | 0x03 => s.txFlags unit [0, 1, 2, 3] [] lo hi
  | 0x04 | 0x05 => s.txFlags unit [0, 1, 2, 3] (s.playTags 0x04 unit 0 lo hi) lo hi
  | 0x10 => orFlags (tagFlags (s.playTags 0x10 unit 0 lo hi)) ⟨s.rxParityIn unit lo hi, false, false⟩
  | 0x11 => s.sicFlags unit true lo hi
  | 0x12 => s.carFlags unit c false lo hi
  | 0x13 => ofSyms [unit]
  | _ => ofSyms (s.layerPaths unit c lo hi)

/-! ## Records (R508, R510) -/

/-- The unit is one the engine serves. -/
def CapSt.serves (x : CapSt) (g : Tag) (unit : Nat) : Bool :=
  let tap := x.tap.toNat
  (!carrierTap tap || g.carrier.toNat = x.desc.carrier) && (0x20 ≤ tap || x.desc.mask.getLsbD unit)

/-- The block of a unit still comes: periods follow one another, and within one the units ascend (R508). A receiver's blocks come as it
delivers them, several of one AIRTIME (R133). -/
def CapSt.ahead (x : CapSt) (g : Tag) (unit : Nat) : Bool :=
  0x20 ≤ x.tap.toNat ||
  match x.period with
  | some a => decide (0 < airDiff g.air a) || (g.air = a && decide (x.unitAt ≤ unit))
  | none => true

/-- A stored rail: shifted right, rounded half up and clamped. -/
def storedRail (sh : Nat) (v : Int) : Int := roundShift v sh

/-- The record of a block. -/
def capRecord (x : CapSt) (g : Tag) (unit : Nat) (rails : Rails) : Bytes :=
  let n := 2 * 2 ^ x.desc.blklog
  let vs := (rails.take n ++ List.replicate (n - rails.length) 0).map (storedRail x.desc.sh)
  let clamped := (vs.filter (clampsN 16)).length
  let t := sealTag { g with late := g.late || x.late }
  let hdr := x.tap.toNat + 2 ^ 8 * unit + 2 ^ 16 * x.records.toNat + 2 ^ 48 * min clamped 0xFFFF
  tagBytes t ++ leBytes 16 hdr ++ List.replicate 32 0 ++ vs.flatMap fun v => le16 (sat16 v)

/-- A one-shot engine ends: DONE with event 111 (R510). -/
def State.capDone (s : State) (e : Nat) : State := (s.setCap e { s.capOf e with state := .done }).signal 111

/-- An engine may write its progress word at `a`: into the program memory of a sequencer or a vector core only while that is STOPPED or
FAULTED (R295, R348), and not into the beam banks and the non-volatile store, whose writers R26 and R227 name. -/
def State.capMayWrite (s : State) (a : Nat) : Bool :=
  match accessRegion a 8 with
  | some (.vcProg n) => (s.vcOf n).state = .stopped || (s.vcOf n).state = .faulted
  | some (.seqMem k) => decide (seqData k ≤ a) || (s.seqOf k).state = .stopped || (s.seqOf k).state = .faulted
  | some (.beam _ _) | some .nv => false
  | _ => true

/-- Writes a record at the engine's position; then the progress word, once the record stands (R508). -/
def State.capStore (s : State) (e : Nat) (x : CapSt) (pos : Nat) (b : Bytes) : State :=
  match s.memWrite (x.desc.base + pos) b with
  | none => (s.bump (rMemCapDrop e)).signal 111
  | some s =>
    let s := s.setCap e { x with pos := pos + b.length, total := x.total + b.length, records := x.records + 1, late := false }
    if x.desc.prog = 0 || !s.capMayWrite x.desc.prog then s else s.putBytes x.desc.prog (leBytes 8 (x.total + b.length))

/-- What passes the engine's tap: for a receiver's the tag, path and samples of the block that waits longest, none where none waits
(R135); else the tag, unit and rails presented. -/
def CapSt.passing (x : CapSt) (g : Tag) (unit : Nat) (rails : Rails) : Option (Tag × Nat × Rails) :=
  if 0x20 ≤ x.tap.toNat then x.blocks.head?.map fun b => (b.tag, b.path, b.iq.flatMap fun z => [z.1, z.2]) else some (g, unit, rails)

/-- Records of one block period: one for each unit, or for each block of a receiver's snapshot (R508). -/
def CapSt.periodRecords (x : CapSt) (g : Tag) : Nat :=
  if 0x20 ≤ x.tap.toNat then (x.blocks.filter fun b => b.tag.air = g.air).length else capUnits x.tap.toNat x.desc

/-- A record of samples from tick `lo` on is past its drain bound (R52, R533). -/
def State.capLate (s : State) (x : CapSt) (lo : Int) : Bool :=
  decide (lo + (2 ^ x.desc.blklog * s.tapTk x.tap.toNat x.desc + 65536 : Nat) < (s.now.toNat : Int))

/-- The block that passes a tap: its tag with the flags of its samples, and its rails; a receiver's comes as it is. -/
def State.tapBlock (s : State) (x : CapSt) (g : Tag) (unit : Nat) (rails : Rails) : Tag × Rails :=
  let tap := x.tap.toNat
  let lo := fullTick g.air s.now
  let late : BlockFlags := ⟨false, false, s.capLate x lo⟩
  if 0x20 ≤ tap then ({ g with late := g.late || late.late }, rails)
  else
    let tk := s.tapTk tap x.desc
    let n := 2 ^ x.desc.blklog
    let f := orFlags late (s.tapFlags tap unit x.desc.carrier lo (lo + (n * tk : Nat)))
    ({ g with damaged := g.damaged || f.damaged, warmup := g.warmup || f.warmup, late := g.late || f.late },
     (s.tapSamples tap unit x.desc.carrier lo n tk).flatMap fun z => [z.1, z.2])

/-- A receive block passes its tap once its samples are in. -/
def State.tapReady (s : State) (x : CapSt) (g : Tag) : Bool :=
  let tap := x.tap.toNat
  tap < 0x10 || 0x20 ≤ tap ||
  decide (fullTick g.air s.now + (2 ^ x.desc.blklog * s.tapTk tap x.desc : Nat) ≤ (s.now.toNat : Int))

/-- The block of a unit, with a tag and rails, passes the tap of a capture engine (R505, R508, R510). -/
def State.capTake (s : State) (e : Nat) (x : CapSt) (g : Tag) (unit : Nat) (rails : Rails) (space : Bool) : State :=
  if x.play || !(x.state = .armed || x.state = .running) || !x.serves g unit || !x.ahead g unit ||
      decide (airDiff g.air x.from_ < 0) || !s.tapReady x g then s
  else if (match x.stop with
      | some h => decide (airDiff g.air h.air ≥ 0)
      | none => false) then s.setCap e { x with state := .idle, stop := none }
  else
    let n := recBytes x.desc
    let full := !x.desc.ring && x.period ≠ some g.air && x.pos + x.periodRecords g * n > x.desc.size
    let x := { x with state := .running, period := some g.air, unitAt := unit + 1, blocks := x.blocks.drop 1 }
    let s := s.setCap e x
    if full then s.capDone e
    else if !space || x.desc.size < n then (s.bump (rMemCapDrop e)).signal 111
    else
      let pos := if x.pos + n > x.desc.size then 0 else x.pos
      let (h, r) := s.tapBlock x g unit rails
      s.capStore e x pos (capRecord x h unit r)

/-- The same where the engine's tap is a receiver's: a block that the engine does not take waits no longer. -/
def State.capPass (s : State) (e : Nat) (x : CapSt) : State :=
  if 0x20 ≤ x.tap.toNat && (s.capOf e).blocks = x.blocks then s.setCap e { s.capOf e with blocks := x.blocks.drop 1 } else s

/-- CAPTURE_RECORD (R505, R508, R510): a block passes the tap of an engine; `space` tells that DRAM can take its record in time. -/
def execCaptureRecord (e : Cap) (g : Tag) (unit : BitVec 6) (rails : Rails) (space : Bool) :
    State → Host.Outcome State Fault Refusal :=
  act fun s =>
    let x := s.capOf e.val
    match x.passing g unit.toNat rails with
    | none => s
    | some (g, unit, rails) => (s.capTake e.val x g unit rails space).capPass e.val x

/-! ## Playback (R511) -/

/-- What playback reads at its position: the record, none past the last one or where the read fails. -/
def State.playRead (s : State) (x : CapSt) : Option Bytes × State :=
  if x.pos + recBytes x.desc > x.desc.size then (none, s)
  else
    match s.memRead (x.desc.base + x.pos) (recBytes x.desc) with
    | (.ok b, s) => if leNat (b.take 16) = 0 then (none, s) else (some b, s)
    | (_, s) => (none, s)

/-- Playback has come to the end of its buffer: DONE, or again from BASE, shifted by the span from the first record to the
end of the last. -/
def State.playWrap (s : State) (e : Nat) (x : CapSt) : State :=
  match x.desc.ring, x.first with
  | true, some a0 => s.setCap e { x with pos := 0, shift := x.shift + (x.last - a0) }
  | _, _ => s.capDone e

/-- The stage that follows a tap, and its direction (R506, R511). -/
def playStage (tap : Nat) : Port × Dir :=
  match tap with
  | 0x00 => (.bf, .tx)
  | 0x02 => (.flt, .tx)
  | 0x04 => (.dpd, .tx)
  | 0x10 => (.flt, .rx)
  | 0x12 => (.fft, .rx)
  | _ => (.bf, .rx)

/-- A played block reaches its tap too late for the stage that follows (R511). -/
def State.playLate (s : State) (tap c mu : Nat) (a : Air) : Bool :=
  let (p, d) := playStage tap
  let (x, y) := leadRow p d
  decide (lead a s.now < (x + y * s.tsymOf d c mu a : Nat))

/-- A played block takes its place at its tap. One that comes too late is blanked in transmit as late data is, over its span: the
carrier's symbols on every path, the path's, or the path's of every carrier; so is one that its record's tag tells LATE or DAMAGED. In
receive it is used (R48, R52, R511). -/
def State.putPlay (s : State) (y : PlayBlk) : State :=
  let hi := y.start + y.tk * y.iq.length
  if (y.tag.late || y.tag.damaged) && y.tap < 0x10 then
    let mask : BitVec 16 := if y.tap = 0x00 then 0xFFFF else bit16 (y.unit % 16)
    let tiles := if y.tap = 0x00 then allTiles else [tileOfPath y.unit]
    (if y.tap = 0x04 then [0, 1, 2, 3] else [y.car]).foldl (fun s c => s.blankSpan mask tiles c y.start hi) s
  else
    let keep := s.chain.plays.filter fun x => decide ((s.now.toNat : Int) - 2 ^ 21 < x.start + x.tk * x.iq.length)
    { s with chain := { s.chain with plays := keep ++ [y] } }

/-- Issues one record into the tap: its AIRTIME moved to the start item's, SOURCE 11 and the engine's STREAM (R505). -/
def State.playIssue (s : State) (e : Nat) (x : CapSt) (b : Bytes) : State :=
  let g := tagFromBytes b
  let tap := x.tap.toNat
  let a0 := x.first.getD g.air
  let span := BitVec.ofNat 40 (2 ^ x.desc.blklog * s.tapTk tap x.desc)
  let a := x.tag.air + (g.air - a0) + x.shift
  let unit := pbits b 136 6
  let over_ := match x.stop with
    | some h => decide (airDiff a h.air ≥ 0)
    | none => false
  if over_ then s.setCap e { x with state := .idle, stop := none }
  else
    let x := { x with state := .running, pos := x.pos + recBytes x.desc, first := some a0, last := g.air + span }
    if x.desc.mask.getLsbD unit then
      let late := s.playLate tap x.desc.carrier g.mu.toNat a
      let t := sealTag { g with air := a, stream := BitVec.ofNat 8 (224 + e), source := 11, late := g.late || late }
      let y : PlayBlk := { tap := tap, unit := unit, car := x.desc.carrier, start := fullTick a s.now, tk := s.tapTk tap x.desc
                           iq := iqList b 64 (2 ^ x.desc.blklog), tag := t }
      ((s.setCap e { x with records := x.records + 1 }).emitOut (.block (0x40 + tap) t (b.drop 64))).putPlay y
    else s.setCap e x

/-- PLAYBACK_RECORD (R511): the engine issues its next record. -/
def execPlaybackRecord (e : Cap) : State → Host.Outcome State Fault Refusal :=
  act fun s =>
    let x := s.capOf e.val
    if !x.play || !(x.state = .armed || x.state = .running) then s
    else
      match s.playRead x with
      | (some b, s) => s.playIssue e.val x b
      | (none, s) =>
        let s := s.playWrap e.val x
        let y := s.capOf e.val
        if y.state = .done || x.pos = 0 then s
        else
          match s.playRead y with
          | (some b, s) => s.playIssue e.val y b
          | (none, s) => s.capDone e.val

def capCode : CapState → Nat
  | .idle => 0
  | .armed => 1
  | .running => 2
  | .done => 3

/-- MEM_CAPn_STAT (R514). -/
def State.capStat (s : State) (e : Nat) : BitVec 64 :=
  let x := s.capOf e
  BitVec.ofNat 64 (capCode x.state + x.play.toNat * 4 + 2 ^ 32 * x.records.toNat)

end Sys2Proof.Machine
end

