-- ==== Sys2Proof/Machine/Dma.lean ====
section
/-! DEFINITION. DMA channels: descriptors, chains, the doorbell and the append check, waits, halts and the writes of a
channel's registers (R474-R477, R481-R488). Bursts stand in Sys2Proof/Machine/DmaRun.lean. -/

namespace Sys2Proof.Machine
open Sys2Proof

def State.dmaOf (s : State) (c : Nat) : DmaSt := tget (fun _ => {}) s.dma c
def State.setDma (s : State) (c : Nat) (x : DmaSt) : State := { s with dma := tput (fun _ => {}) c x s.dma }

/-! ## Descriptors (R476, R477) -/

def dType (d : Bytes) : Nat := pbits d 0 2
def dXform (d : Bytes) : Nat := pbits d 2 3
def dSrcH (d : Bytes) : Bool := pbit d 5
def dDstH (d : Bytes) : Bool := pbit d 6
def dNoSnoop (d : Bytes) : Bool := pbit d 7
def dIrq (d : Bytes) : Bool := pbit d 8
def dToHalt (d : Bytes) : Bool := pbit d 9
def dLength (d : Bytes) : Nat := pbits d 16 24
def dRows (d : Bytes) : Nat := pbits d 40 12 + 1
def dCols (d : Bytes) : Nat := pbits d 52 12 + 1
def dPlanes (d : Bytes) : Nat := pbits d 40 4 + 1
/-- Bytes that a copy reads: a bit-plane merge reads its planes (R480). -/
def dSrcLen (d : Bytes) : Nat := if dXform d = 5 then dLength d / 16 * dPlanes d else dLength d
def dSrc (d : Bytes) : Nat := pbits d 64 64
def dDst (d : Bytes) : Nat := pbits d 128 64
def dLink (d : Bytes) : Bytes := slice d 24 8
def linkNext (l : Bytes) : Nat := pbits l 0 40
def linkEnd (l : Bytes) : Bool := pbit l 40

/-- The link word is well formed: reserved bits zero, NEXT aligned while END is clear. -/
def linkOk (l : Bytes) : Bool := pbits l 41 23 = 0 && (linkEnd l || linkNext l % 32 = 0)

/-- A copy's fields obey R476, R477 and R480. -/
def copyOk (split : Bool) (d : Bytes) : Bool :=
  let n := dLength d
  let plain := pbits d 40 24 = 0
  !(dSrcH d && dDstH d) && (dSrcH d || dSrc d < 2 ^ 40) && (dDstH d || dDst d < 2 ^ 40) && 1 ≤ n &&
  match dXform d with
  | 0 => plain
  | 1 => !split && n = dRows d * dCols d * 4
  | 2 | 3 => !split && plain && n % 4 = 0
  | 4 | 5 => !split && pbits d 44 20 = 0 && n % 128 = 0
  | _ => false

/-- The descriptor is not in error. -/
def dmaDescOk (split : Bool) (d : Bytes) : Bool :=
  linkOk (dLink d) && pbits d 10 6 = 0 &&
  match dType d with
  | 0 => copyOk split d
  | 1 => dXform d = 0 && pbits d 40 24 = 0 && dSrc d < 128 && dDst d = 0
  | 2 => dXform d = 0 && pbits d 40 24 = 0 && dSrc d < 2 ^ 40 && dSrc d % 4 = 0
  | _ => false

def State.dmaSplit (s : State) : Bool := (s.reg rDmaCfg).getLsbD 0
def State.dmaEn (s : State) (c : Nat) : Bool := (s.reg (rDma c 0)).getLsbD 0

/-- Channels run in ACTIVE and REED (R488), while the memory island is not fenced. -/
def State.dmaOn (s : State) : Bool := !s.atOrBelow .sedge && !s.isFenced 7

/-! ## Halts (R484) -/

/-- The channel halts: cause, failing address and space are latched, and its error event is raised. -/
def State.dmaHalt (s : State) (c : Nat) (cause : Nat) (at_ : DmaAt) (addr : Nat) (host : Bool) : State :=
  let x := s.dmaOf c
  let s := s.setDma c { x with state := .halted, cause := cause, at_ := at_, errHost := host }
  (s.setReg64 (rDma c 0x18) (BitVec.ofNat 64 addr)).signal (56 + c / 4)

/-- A read the engine makes in memory: the data, or the cause of the halt. -/
def State.dmaRead (s : State) (a n : Nat) : (Nat ⊕ Bytes) × State :=
  match s.memRead a n with
  | (.ok b, s) => (.inr b, s)
  | (.error, s) => (.inl 1, s)
  | (.poisoned _, s) => (.inl 3, s)

/-! ## Chains (R474, R481) -/

/-- Begins the current descriptor's work: a copy from its start, a wait from its beginning. -/
def State.dmaStart (s : State) (c : Nat) : State :=
  let x := s.dmaOf c
  let x := { x with cause := 0, errHost := false }
  if dType x.desc = 0 then s.setDma c { x with state := .running }
  else
    s.setDma c { x with state := .waiting, began := s.clock, pollAt := s.clock, evSeen := (s.evOf (dSrc x.desc % 128)).seen }

/-- Reads the descriptor at `a` and begins it. -/
def State.dmaFetch (s : State) (c a : Nat) : State :=
  let s := s.setReg64 (rDma c 0x20) (BitVec.ofNat 64 a)
  match s.dmaRead a 32 with
  | (.inl e, s) => s.dmaHalt c e .desc a false
  | (.inr d, s) =>
    let s := s.setDma c { s.dmaOf c with desc := d, read := 0, moved := 0 }
    if dmaDescOk s.dmaSplit d then s.dmaStart c else s.dmaHalt c 4 .desc a false

/-- DMAn_CUR. -/
def State.dmaCur (s : State) (c : Nat) : Nat := fld (s.reg64 (rDma c 0x20)) 0 40

/-- The append check (R481): DBCNT is copied into SEEN, and the tail's link word is read again, once. -/
def State.dmaAppend (s : State) (c : Nat) : State :=
  let x := s.dmaOf c
  let s := s.setDma c { x with seen := x.dbcnt }
  match s.dmaRead (s.dmaCur c + 24) 8 with
  | (.inl e, s) => s.dmaHalt c e .link (s.dmaCur c + 24) false
  | (.inr l, s) =>
    if linkEnd l then s.setDma c { s.dmaOf c with state := .endwait }
    else if linkOk l then s.dmaFetch c (linkNext l)
    else s.dmaHalt c 4 .link (s.dmaCur c + 24) false

/-- The descriptor has completed (R486): DONECNT, the completion event, and the next descriptor or the append check. A
channel that EN has stopped continues when EN is set. -/
def State.dmaComplete (s : State) (c : Nat) : State :=
  let x := s.dmaOf c
  let s := s.setReg (rDma c 0x28) (s.reg (rDma c 0x28) + 1)
  let s := if dIrq x.desc then s.signal (48 + c / 4) else s
  if linkEnd (dLink x.desc) then s.dmaAppend c else s.dmaFetch c (linkNext (dLink x.desc))

/-- Puts a channel at the end of the split engine's order, once (R487). -/
def State.dmaOrder (s : State) (c : Nat) : State :=
  if s.dmaArb.order.contains c then s else { s with dmaArb := { s.dmaArb with order := s.dmaArb.order ++ [c] } }

/-- An IDLE channel whose doorbell has rung reads the descriptor at its HEAD; a tail whose count has moved is checked
again (R474, R481). -/
def State.dmaKick (s : State) (c : Nat) : State :=
  let x := s.dmaOf c
  if !s.dmaEn c || !s.dmaOn then s
  else
    match x.state with
    | .idle => if x.rung then (s.setDma c { x with rung := false }).dmaFetch c (fld (s.reg64 (rDma c 8)) 0 40) else s
    | .endwait => if x.dbcnt ≠ x.seen then s.dmaAppend c else s
    | _ => s

/-- DMAn_DOORBELL (R481, R487). -/
def State.writeDoorbell (s : State) (c : Nat) (v : BitVec 32) : State :=
  if !v.getLsbD 0 || (s.dmaSplit && 16 ≤ c) then s
  else
    let x := s.dmaOf c
    ((s.setDma c { x with dbcnt := x.dbcnt + 1, rung := x.rung || x.state = .idle }).dmaOrder c).dmaKick c

/-! ## DMAn_CTRL (R474, R485) -/

/-- EN set: a paused channel continues its copy, or its wait from the beginning; a rung one starts. -/
def State.dmaGo (s : State) (c : Nat) : State :=
  if (s.dmaOf c).state = .paused && s.dmaOn then s.dmaStart c else s.dmaKick c

/-- EN cleared: a copy stops at the burst boundary, a wait is abandoned. -/
def State.dmaPause (s : State) (c : Nat) : State :=
  let x := s.dmaOf c
  if x.state = .running || x.state = .waiting then s.setDma c { x with state := .paused } else s

/-- RESUME of a halted channel reissues what failed; with EN clear the channel then pauses. -/
def State.dmaReissue (s : State) (c : Nat) : State :=
  let x := s.dmaOf c
  let s := s.setDma c { x with cause := 0, errHost := false }
  let s := match x.at_ with
    | .desc => s.dmaFetch c (s.dmaCur c)
    | .link => s.dmaAppend c
    | .copy => s.setDma c { s.dmaOf c with state := .running }
    | .wait => s.dmaStart c
  if s.dmaEn c then s else s.dmaPause c

/-- ABORT of a halted channel: the chain is abandoned, HEAD stays, and the split buffer loses its data (R485, R487). -/
def State.dmaAbort (s : State) (c : Nat) : State :=
  let x := s.dmaOf c
  let s := s.setDma c { dbcnt := x.dbcnt, seen := x.dbcnt }
  let s := s.bump (rDma c 0x30)
  { s with dmaArb := { s.dmaArb with
      buf := s.dmaArb.buf.filter fun b => b.chan ≠ c
      order := s.dmaArb.order.filter fun k => k ≠ c } }

/-- DMAn_CTRL: PRIO and EN are stored; RESUME and ABORT act in HALTED, ABORT prevailing. -/
def State.writeDmaCtrl (s : State) (c : Nat) (v : BitVec 32) : State :=
  let was := s.dmaEn c
  let s := s.setReg (rDma c 0) (v &&& 0x7)
  let s := if (s.dmaOf c).state = .halted then
      (if v.getLsbD 4 then s.dmaAbort c else if v.getLsbD 3 then s.dmaReissue c else s)
    else s
  if v.getLsbD 0 then (if was then s else s.dmaGo c) else s.dmaPause c

/-- DMAn_HEAD (R489). -/
def State.writeDmaHead (s : State) (c : Nat) (v : BitVec 64) : State :=
  let x := s.dmaOf c
  if fld v 0 40 % 32 ≠ 0 || !(x.state = .idle || x.state = .endwait) then s.error
  else
    let s := s.setReg64 (rDma c 8) (BitVec.ofNat 64 (fld v 0 40))
    (if x.state = .endwait then s.setDma c { dbcnt := x.dbcnt, seen := x.dbcnt } else s).done

/-- DMA_RING. -/
def execDmaRing (w : Initiator) (c : DmaCh) (v : BitVec 32) : State → Host.Outcome State Fault Refusal :=
  unitAct w (0xC100 + 0x40 * c.val) fun s =>
    (s.writeDoorbell c.val (setBit v 0 true)).done

/-- DMA_ENABLE: a write of DMAn_CTRL with EN set and neither RESUME nor ABORT. -/
def execDmaEnable (w : Initiator) (c : DmaCh) (v : BitVec 32) : State → Host.Outcome State Fault Refusal :=
  unitAct w (0xC100 + 0x40 * c.val) fun s =>
    (s.writeDmaCtrl c.val (setFld (setBit v 0 true) 3 2 0)).done

/-- DMA_DISABLE: with EN clear. -/
def execDmaDisable (w : Initiator) (c : DmaCh) (v : BitVec 32) : State → Host.Outcome State Fault Refusal :=
  unitAct w (0xC100 + 0x40 * c.val) fun s =>
    (s.writeDmaCtrl c.val (setFld (setBit v 0 false) 3 2 0)).done

/-- DMA_RESUME. -/
def execDmaResume (w : Initiator) (c : DmaCh) (v : BitVec 32) : State → Host.Outcome State Fault Refusal :=
  unitAct w (0xC100 + 0x40 * c.val) fun s =>
    (s.writeDmaCtrl c.val (setFld v 3 2 1)).done

/-- DMA_ABORT. -/
def execDmaAbort (w : Initiator) (c : DmaCh) (v : BitVec 32) : State → Host.Outcome State Fault Refusal :=
  unitAct w (0xC100 + 0x40 * c.val) fun s =>
    (s.writeDmaCtrl c.val (setBit v 4 true)).done

/-- DMA_HEAD_WRITE. -/
def execDmaHeadWrite (w : Initiator) (c : DmaCh) (v : BitVec 64) : State → Host.Outcome State Fault Refusal :=
  unitAct w (0xC100 + 0x40 * c.val) fun s =>
    s.writeDmaHead c.val v

/-! ## Completion and waits (R483, R486) -/

/-- DESCRIPTOR_COMPLETE (R486): every byte of the copy has been read and written. -/
def execDescriptorComplete (c : DmaCh) : State → Host.Outcome State Fault Refusal :=
  act fun s =>
    let x := s.dmaOf c.val
    if x.state = .running && x.moved ≥ dSrcLen x.desc && s.dmaOn then s.dmaComplete c.val else s

/-- The wait's event has been signalled since the descriptor began. -/
def State.waitSignalled (s : State) (x : DmaSt) : Bool :=
  dType x.desc = 1 && x.evSeen < (s.evOf (dSrc x.desc % 128)).seen

/-- WAITEV_SIGNAL (R483). -/
def execWaitevSignal (c : DmaCh) (e : Event) : State → Host.Outcome State Fault Refusal :=
  act fun s =>
    let x := s.dmaOf c.val
    if x.state = .waiting && s.waitSignalled x && dSrc x.desc = e.val && s.dmaOn then s.dmaComplete c.val else s

/-- DMA_WAIT_TIMEOUT (R483): a signal in the same cycle completes the wait by the signal. -/
def execDmaWaitTimeout (c : DmaCh) : State → Host.Outcome State Fault Refusal :=
  act fun s =>
    let x := s.dmaOf c.val
    if x.state ≠ .waiting || dLength x.desc = 0 || s.clock < x.began + 1024 * dLength x.desc || !s.dmaOn then s
    else if s.waitSignalled x then s.dmaComplete c.val
    else if dToHalt x.desc then
      s.dmaHalt c.val 5 .wait (if dType x.desc = 2 then dSrc x.desc else s.dmaCur c.val) false
    else (s.bump (rDma c.val 0x2C)).dmaComplete c.val

/-! ## Power (R488) -/

/-- Exit to ACTIVE or REED: channels that run again restart their waits, and those rung meanwhile start. -/
def State.dmaWake (s : State) : State :=
  (List.range 32).foldl (fun s c => if s.dmaEn c then s.dmaGo c else s) s

/-- Entry to SEDGE pauses every channel. -/
def State.dmaSleep (s : State) : State := (List.range 32).foldl State.dmaPause s

/-- Entry to BOG returns every channel to IDLE with its registers at their reset values. -/
def State.dmaClear (s : State) : State :=
  { s with dma := [], dmaArb := {}, regs := tdrop (fun k => decide (0xC000 ≤ k ∧ k < 0xD000)) s.regs }

def dmaCode : DmaState → Nat
  | .idle => 0
  | .running => 1
  | .waiting => 2
  | .endwait => 3
  | .halted => 4
  | .paused => 5

/-- DMAn_STAT (R489). -/
def State.dmaStat (s : State) (c : Nat) : BitVec 64 :=
  let x := s.dmaOf c
  BitVec.ofNat 64 (dmaCode x.state + 2 ^ 3 * x.cause + 2 ^ 6 * x.errHost.toNat + 2 ^ 32 * x.dbcnt.toNat)

end Sys2Proof.Machine
end

