-- ==== Sys2Proof/Machine/Memory.lean ====
section
/-! DEFINITION. The scrubber and the non-volatile store (R282, R500-R504). -/

namespace Sys2Proof.Machine
open Sys2Proof

/-! ## The non-volatile store (R503, R504) -/

def rNvStat : Nat := 0x900C

/-- Wear counter of the 4 KiB block that holds an address (R504). -/
def wearAddr (a : Nat) : Nat := nvBase + 0x10000 + 4 * ((a - nvBase) / 4096)

/-- Counts a write or an erase of the block that holds `a`; event 110 once for the block at NV_WEARTHR (R504). -/
def State.wearUp (s : State) (a : Nat) : State :=
  let n := min (leNat (s.bytesAt (wearAddr a) 4) + 1) 0xFFFFFFFF
  let s := (s.markValid (wearAddr a)).setBytes (wearAddr a) (leBytes 4 n)
  let b := (a - nvBase) / 4096
  if n ≥ (s.reg rNvWearthr).toNat && !tget (fun _ => false) s.mem.wearTold b then
    ({ s with mem := { s.mem with wearTold := tput (fun _ => false) b true s.mem.wearTold } } : State).signal 110
  else s

/-- Programs one word: it reads as written, without errors, and the block's wear counter advances (R504). -/
def State.programWord (s : State) (a : Nat) (v : Bytes) : State :=
  let s := (List.range 8).foldl (fun s i => s.setErr (a + i) .good) s
  ((s.markValid a).setBytes a v).wearUp a

/-- Programs the words of a byte string. -/
def State.programWords (s : State) (a : Nat) : List Bytes → State
  | [] => s
  | v :: vs => (s.programWord a v).programWords (a + 8) vs

/-- A byte string cut into 8-byte words. -/
def wordsOf (b : Bytes) : List Bytes := (List.range (b.length / 8)).map fun i => slice b (8 * i) 8

/-- The locked record in force, if there is one (R282). -/
def State.lockedRecord (s : State) : Option Bytes :=
  match s.regSlotInForce with
  | some i => if regLocked (s.regSlot i) then some (s.regSlot i) else none
  | none => none

/-- Slot `i` holds a valid locked record: every write to it is refused (R282). -/
def State.slotLocked (s : State) (i : Nat) : Bool :=
  s.regSlotFormat i = 1 && regLocked (s.regSlot i) && regValid (s.regSlot i)

/-- A refused append: nothing changes, and event 99 is raised (R282). -/
def State.refuseAppend (s : State) : State := (s.signal 99).error

/-- A whole record for a free slot, under the check of R282: accepted, it comes into force at once (R283). -/
def State.appendRecord (s : State) (old : Bytes) (i : Nat) (new : Bytes) : State :=
  if stricter old new && !s.slotLocked i then
    let s := s.programWords (nvBase + regSlotSize * i) (wordsOf new)
    ({ s with fe := { s.fe with regBad := false } } : State).regWatch.done
  else s.refuseAppend

def State.setStage (s : State) (m : Table Byte) : State := { s with mem := { s.mem with regStage := m } }

/-- A word for the regulatory region while a locked record is in force: the words of a free slot are gathered, and the
last word of the slot submits the record (log entry 10). -/
def State.stageWord (s : State) (old : Bytes) (a : Nat) (v : Bytes) : State :=
  let i := (a - nvBase) / regSlotSize
  if s.slotLocked i then s.refuseAppend
  else
    let st := (List.range 8).foldl (fun m k => tput (fun _ => 0) (a - nvBase + k) (v.getD k 0) m) s.mem.regStage
    if a % regSlotSize = regSlotSize - 8 then
      let new := (List.range regSlotSize).map fun k => tget (fun _ => (0 : Byte)) st (regSlotSize * i + k)
      let keep := tdrop (fun k => decide (regSlotSize * i ≤ k ∧ k < regSlotSize * (i + 1))) st
      (s.setStage keep).appendRecord old i new
    else (s.setStage st).done

/-- The store controller takes requests. -/
def State.storeOn (s : State) : Bool := s.memPowered .nv && !s.memFenced .nv

/-- The address is a word of the store outside the wear counters, which are read-only (R503). -/
def nvWritable (a n : Nat) : Bool :=
  accessRegion a n = some .nv && a % n = 0 && !decide (nvBase + 0x10000 ≤ a ∧ a < nvBase + 0x20000)

/-- One word written to the store by management firmware; `ok` tells whether the read-back agreed (R504). -/
def State.nvWrite (s : State) (a : Nat) (v : Bytes) (ok : Bool) : State :=
  if !nvWritable a 8 || !s.storeOn then s.error
  else if !ok then
    let s := s.wearUp a
    (s.setReg rNvStat (setBit (s.reg rNvStat) 0 true)).signal 110 |>.error
  else if a < nvBase + 0x10000 then
    match s.lockedRecord with
    | some old => s.stageWord old a v
    | none =>
      let s := s.programWord a v
      ({ s with fe := { s.fe with regBad := false } } : State).regWatch.done
  else (s.programWord a v).done

/-- NV_WORD_WRITE (R504). Only management firmware writes the store (R26). -/
def execNvWordWrite (w : Initiator) (addr : Addr) (v : BitVec 64) (ok : Bool) : State → Host.Outcome State Fault Refusal :=
  act fun s => if w = .mgmt then s.nvWrite addr.toNat (leBytes 8 v.toNat) ok else s.error

/-- A 4 KiB block of the store reads as never written again (R498, R504). -/
def State.eraseBlock (s : State) (a : Nat) : State :=
  let inB := fun (k : Nat) => decide (a ≤ k ∧ k < a + 4096)
  let s : State := { s with mem := { s.mem with
    cells := tdrop inB s.mem.cells
    bad := tdrop inB s.mem.bad
    valid := tdrop (fun k => inB (8 * k)) s.mem.valid } }
  s.wearUp a

/-- A write to NV_CTRL (R504): ERASE with a block's address. A locked slot refuses it as it refuses every write (R282). -/
def State.writeNvCtrl (s : State) (v : BitVec 64) : State :=
  let a := 4096 * fld v 12 28
  if !v.getLsbD 0 then s.done
  else if !nvWritable a 4096 || !s.storeOn then s.error
  else if a < nvBase + 0x10000 then
    match s.lockedRecord with
    | some _ => if s.slotLocked ((a - nvBase) / 4096) then s.refuseAppend else (s.eraseBlock a).done
    | none => (s.eraseBlock a).regWatch.done
  else (s.eraseBlock a).done

/-- NV_ERASE (R504). -/
def execNvErase (w : Initiator) (v : BitVec 64) : State → Host.Outcome State Fault Refusal :=
  unitAct w 0x9000 fun s => s.writeNvCtrl v

/-! ## Scrubbing (R500-R502) -/

def walkNum : ScrubWalk → Nat
  | .classD => 0
  | .classC => 1
  | .privileged => 2

/-- Lines of a walk: both DRAM stacks, the class-C memories with the 2 MiB of management memory, the privileged regions. -/
def walkLines : ScrubWalk → Nat
  | .classD => 134217728
  | .classC => 311296
  | .privileged => 424960

/-- Lines a step of 1,024 tk reads; the idle walk reads one (R500). -/
def State.walkRate (s : State) : ScrubWalk → Nat
  | .classD => fld (s.reg rMemScrub) 0 8
  | .classC => fld (s.reg rMemScrub) 8 8
  | .privileged => 1

/-- Address of line `i` of a walk; the management memory, the last class-C lines, has no internal address. -/
def walkAddr (w : ScrubWalk) (i : Nat) : Option Nat :=
  match w with
  | .classD => some (64 * i)
  | .classC =>
    if i < 131072 then some (0x1000000000 + 64 * i)
    else if i < 212992 then some (0x1001000000 + 64 * (i - 131072))
    else if i < 278528 then some (vcProg ((i - 212992) / 4096) + 64 * ((i - 212992) % 4096))
    else none
  | .privileged => some (if i < 1024 then nvBase + 64 * i else nvBase + 0x20000 + 64 * (i - 1024))

/-- One byte of a line that is checked byte by byte: a correction is rewritten, anything worse is logged (R493, R500). -/
def State.scrubByte (s : State) (nv : Bool) (a : Nat) : State :=
  match s.errAt a with
  | .good => s
  | .correctable => (State.checkUnit .ctl (s, false) a).1.setErr a .good
  | .failing =>
    let s := if nv then s else s.bump (cMem 1)
    (s.latchAddr rMemUeaddr a).signal 105

/-- The same of the copy that the ASQ's second half holds of a byte of its memories (R318; DEDUCED, log entry 43). -/
def State.scrubCopy (s : State) (r : MRegion) (a : Nat) : State :=
  if r ≠ .seqMem 4 then s
  else
    match s.errAt (secondCopy a) with
    | .good => s
    | .correctable => (s.corrected a).setErr (secondCopy a) .good
    | .failing => s.poisonRead a

/-- One line of a walk. Lines never written are skipped. -/
def State.scrubLine (s : State) (w : ScrubWalk) (i : Nat) : State :=
  match walkAddr w i with
  | none => s
  | some a =>
    match accessRegion a 64 with
    | none => s
    | some r =>
      if !s.memPowered r || s.memFenced r then s
      else
        match w with
        | .classD =>
          if !s.isValid a || s.errAt a ≠ .failing then s
          else
            let (t, bad) := State.checkUnit r (s, false) a
            if bad then (t.latchAddr rMemUeaddr a).signal 105 else t
        | .classC =>
          if s.isValid a then
            (List.range 64).foldl (fun s k => (s.scrubByte false (a + k)).scrubCopy r (a + k)) s
          else s
        | .privileged =>
          (List.range 8).foldl (fun s j =>
            let b := a + 8 * j
            if !s.isValid b then s
            else
              let fix := (List.range 8).any fun k => s.errAt (b + k) = .correctable
              let s := (List.range 8).foldl (fun s k => s.scrubByte true (b + k)) s
              if fix then s.wearUp b else s) s

/-- Moves a walk on by a line; a completed lap is timed (R502). -/
def State.walkOn (s : State) (w : ScrubWalk) : State :=
  let n := walkNum w
  let i := tget (fun _ => 0) s.mem.scrubPos n
  let s := s.scrubLine w i
  if i + 1 < walkLines w then { s with mem := { s.mem with scrubPos := tput (fun _ => 0) n (i + 1) s.mem.scrubPos } }
  else
    let took := (s.clock - tget (fun _ => 0) s.mem.lapStart n) / 1024
    let s := s.setReg (rMemLap n) (BitVec.ofNat 32 (min took 0xFFFFFFFF))
    { s with mem := { s.mem with
        scrubPos := tput (fun _ => 0) n 0 s.mem.scrubPos
        lapStart := tput (fun _ => 0) n s.clock s.mem.lapStart
        lapLate := if w = .privileged then false else s.mem.lapLate } }

/-- SCRUB_STEP (R500): the lines of 1,024 tk at the walk's rate, or one line of the idle walk. -/
def execScrubStep (r : ScrubWalk) : State → Host.Outcome State Fault Refusal :=
  act fun s => (List.range (s.walkRate r)).foldl (fun s _ => s.walkOn r) s

/-- PLAPMAX in ticks; 0 is taken as 1 s (R514). -/
def State.lapMax (s : State) : Nat := 3932160000 * max 1 (fld (s.reg rMemScrub) 16 16)

/-- PRIVILEGED_LAP_OVERDUE (R502): event 109 once for the lap, which continues. -/
def execPrivilegedLapOverdue : State → Host.Outcome State Fault Refusal :=
  act fun s =>
    if s.clock - tget (fun _ => 0) s.mem.lapStart 2 > s.lapMax && !s.mem.lapLate then
      ({ s with mem := { s.mem with lapLate := true } } : State).signal 109
    else s

end Sys2Proof.Machine
end

