-- ==== Sys2Proof/Machine/Boot.lean ====
section
/-! DEFINITION. The boot record, the checks of an image, the reset of the logic, and what the mask ROM does after it
(R554, R556, R559, R562, R564-R567, R576). -/

namespace Sys2Proof.Machine
open Sys2Proof

/-! ## The boot record (R564) -/

/-- Slot states 0 EMPTY, 1 VALID, 2 TRIAL, 3 ACTIVE, 4 FAILED. -/
structure BootRec where
  seq   : Nat := 0
  st0   : Nat := 0
  st1   : Nat := 0
  tried : Bool := false
  src   : Nat := 0
  area  : Nat := 0
  deriving DecidableEq, Repr

def bootAddr (i : Nat) : Nat := nvBase + 0x20000 + 0x1000 * i

def bootOf (b : Bytes) : BootRec where
  seq   := pbits b 0 32
  st0   := pbits b 32 8
  st1   := pbits b 40 8
  tried := pbit b 48
  src   := pbits b 56 8
  area  := pbits b 64 2

/-- The bytes of a copy. -/
def bootBytes (r : BootRec) : Bytes :=
  let body := leBytes 4092 (r.seq + 2 ^ 32 * r.st0 + 2 ^ 40 * r.st1 + 2 ^ 48 * r.tried.toNat + 2 ^ 56 * r.src + 2 ^ 64 * r.area)
  body ++ leBytes 4 (crc32c body).toNat

/-- A copy is valid: its CRC agrees and its slot states are codes of R564. -/
def bootValid (b : Bytes) : Bool :=
  leNat (slice b 4092 4) = (crc32c (b.take 4092)).toNat && pbits b 32 8 ≤ 4 && pbits b 40 8 ≤ 4

/-- The copy in force: the valid copy with the higher SEQ. -/
def State.bootCopy (s : State) : Option Nat :=
  let v := [0, 1].filter fun i => bootValid (s.bytesAt (bootAddr i) 4096)
  match v with
  | [0, 1] => if (bootOf (s.bytesAt (bootAddr 0) 12)).seq ≥ (bootOf (s.bytesAt (bootAddr 1) 12)).seq then some 0 else some 1
  | [i] => some i
  | _ => none

/-- The record in force; with no valid copy every slot counts as EMPTY. -/
def State.bootRec (s : State) : BootRec :=
  match s.bootCopy with
  | some i => bootOf (s.bytesAt (bootAddr i) 12)
  | none => {}

/-- Writes the other copy with SEQ + 1. -/
def State.putBoot (s : State) (r : BootRec) : State :=
  let i := match s.bootCopy with
    | some i => 1 - i
    | none => 0
  s.programWords (bootAddr i) (wordsOf (bootBytes { r with seq := (s.bootRec.seq + 1) % 2 ^ 32 }))

def BootRec.st (r : BootRec) (i : Nat) : Nat := if i = 0 then r.st0 else r.st1
def BootRec.setSt (r : BootRec) (i v : Nat) : BootRec := if i = 0 then { r with st0 := v } else { r with st1 := v }
/-- The slot in a state, the lower first. -/
def BootRec.slotIn (r : BootRec) (v : Nat) : Option Nat := [0, 1].find? fun i => r.st i = v

/-! ## Images (R565, R566) -/

def slotBase (i : Nat) : Nat := nvBase + 0x200000 + 0xC00000 * i
def imgLen (b : Bytes) : Nat := pbits b 128 32
def imgSecver (b : Bytes) : Nat := pbits b 96 16
def imgSetfmt (b : Bytes) : Nat := pbits b 160 32

/-- Layout, range and zero fields of R565. -/
def imgForm (b : Bytes) : Bool :=
  let bind := pbit b 192
  pbits b 0 32 = 0x4B58494D && pbits b 32 32 = 1 && pbits b 112 16 = 0 && imgLen b % 8 = 0 &&
  decide (1024 ≤ imgLen b ∧ imgLen b ≤ 12582912) && pbits b 193 7 = 0 && pbits b 200 8 ≤ 3 &&
  (slice b 26 6).all (· = 0) && (bind || (slice b 32 16).all (· = 0)) && (slice b 48 208).all (· = 0)

/-- The number of the first check of R566 that fails, 0 when all pass. `b` is the image, whole. -/
def State.imageCheck (s : State) (b : Bytes) : Nat :=
  if !imgForm b || imgLen b ≠ b.length then 1
  else if !Config.signatureGood b then 2
  else if pbits b 64 32 ≠ Config.hwType.toNat then 3
  else if pbit b 192 && leNat (slice b 32 16) ≠ Config.unitId.toNat then 4
  else if imgSecver b < fld (s.reg rUpdSecver) 0 16 then 5
  else 0

/-- The image in a slot, as long as its header says. -/
def State.slotImage (s : State) (i : Nat) : Bytes :=
  s.bytesAt (slotBase i) (min (imgLen (s.bytesAt (slotBase i) 256)) 12582912)

def State.slotPasses (s : State) (i : Nat) : Bool := s.imageCheck (s.slotImage i) = 0

/-! ## Reset of the logic (R556, R589) -/

/-- Registers that a reset leaves: the power controller's, in the always-on island, and the security counter in the store. -/
def keptReg (off : Nat) : Bool := (0x1000 ≤ off && off < 0x2000) || off = rUpdSecver

def nvByte (a : Nat) : Bool := nvBase ≤ a && a < nvBase + 0x2000000

/-- The non-volatile store alone keeps its content (R499). -/
def MemSt.nvOnly (m : MemSt) : MemSt :=
  { cells := tdrop (fun a => !nvByte a) m.cells, bad := tdrop (fun a => !nvByte a) m.bad
    valid := tdrop (fun k => !(nvBase / 8 ≤ k && k < (nvBase + 0x2000000) / 8)) m.valid }

/-- Every source but power-on: all logic outside the always-on island is at its reset values. Levels of pins stand as they
are. -/
def State.resetLogic (s : State) (cause : Nat) : State :=
  { State.reset with
    pending := s.pending, free := s.free, out := s.out, now := s.now, wrap := s.wrap, clock := s.clock
    powered := s.powered, inReset := s.inReset
    regs := tdrop (fun k => !keptReg k) s.regs
    mem := s.mem.nvOnly
    faultlog := s.faultlog
    power := { armed := s.power.armed, wakeTick := s.power.wakeTick, refuser := s.power.refuser, lastwake := s.power.lastwake
               psEn := s.power.psEn, psGood := s.power.psGood, psEnAt := s.power.psEnAt, avsAt := s.clock
               devPhase := if cause = 4 then s.clock else s.power.devPhase }
    mode := { rstcause := BitVec.ofNat 3 cause, bootcnt := s.mode.bootcnt, causes := s.mode.causes &&& 7 }
    fe := { rfSafe := s.fe.rfSafe, safeHold := if s.fe.rfSafe then 0 else 0xFFFF }
    pcie := { perstN := s.pcie.perstN }
    wdogAt := s.clock
    sess := { trialSecs := s.sess.trialSecs } }

/-- Power-on: the always-on island is reset too. -/
def State.resetAll (s : State) : State :=
  let t := s.resetLogic 0
  { t with
    now := 0, wrap := 0, faultlog := 0, regs := tdrop (fun k => decide (k ≠ rUpdSecver)) t.regs, power := { avsAt := s.clock, devPhase := s.clock }
    mode := {} }

/-! ## The mask ROM (R554, R559, R576) -/

/-- RECOVERY: the mask ROM enables G0 alone, with ROLE 1 at 10.3125 Gb/s (R377, R395). -/
def State.enterRecovery (s : State) : State :=
  ({ s with mode := { s.mode with mode := .recovery } }.setReg (rLaneGcfg 0) 0x11).startPll 0

/-- Boots slot `i`: BOOTCNT counts, and the firmware starts in BOOT. `trial` tells that it is the TRIAL slot. -/
def State.bootSlot (s : State) (i : Nat) (trial : Bool) : State :=
  { s with
    mode := { s.mode with
      mode := .boot, slot := BitVec.ofNat 1 i, bootAt := s.clock
      bootcnt := if s.mode.bootcnt = 3 then 3 else s.mode.bootcnt + 1 }
    sess := { s.sess with trial := trial, trialAt := s.clock } }

/-- The slot the ROM tries first, whether it is the TRIAL slot, and the boot record brought up to date (R576). -/
def State.bootChoice (s : State) : Nat × Bool × State :=
  let r := s.bootRec
  match r.slotIn 2 with
  | some i =>
    if r.tried then ((r.slotIn 3).getD (1 - i), false, (s.putBoot (r.setSt i 4)).signal 122)
    else (i, true, s.putBoot { r with tried := true })
  | none => ((r.slotIn 3).getD 0, false, s)

/-- After the end of a reset. `recover` tells that RECOVER_N was low at the rising edge of RESET_N. A reset without a valid
locked regulatory record raises event 99 (R284). -/
def State.bootRom (s : State) (recover : Bool) : State :=
  let s := s.regWatch
  if recover || s.mode.bootcnt = 3 then s.enterRecovery
  else
    let (i, trial, s) := s.bootChoice
    if s.slotPasses i then s.bootSlot i trial
    else if s.slotPasses (1 - i) then (s.signal 122).bootSlot (1 - i) false
    else s.enterRecovery

/-- A reset that the device ends itself: the logic is reset, and the ROM starts. -/
def State.selfReset (s : State) (cause : Nat) : State := (s.resetLogic cause).bootRom false

end Sys2Proof.Machine
end

