-- ==== Sys2Proof/Machine/Lanes.lean ====
section
/-! DEFINITION. Serial lanes: group enables, electrical idle, training, acquisition and losses (R376-R398). -/

namespace Sys2Proof.Machine
open Sys2Proof

def State.laneOf (s : State) (l : Nat) : LaneSt := tget (fun _ => {}) s.lanes l
def State.setLane (s : State) (l : Nat) (x : LaneSt) : State := { s with lanes := tput (fun _ => {}) l x s.lanes }
def State.updLane (s : State) (l : Nat) (f : LaneSt → LaneSt) : State := s.setLane l (f (s.laneOf l))
def groupLanes (g : Nat) : List Nat := (List.range 8).map (8 * g + ·)

def State.groupRate (s : State) (g : Nat) : Nat := fld (s.reg (rLaneGcfg g)) 2 2
def State.groupLoop (s : State) (g : Nat) : Nat := fld (s.reg (rLaneGcfg g)) 5 2
/-- Ticks of `n` blocks at a group's rate, rounded up (R385). -/
def State.blockTk (s : State) (g n : Nat) : Nat :=
  ceilDiv (n * (match s.groupRate g with | 0 => 25165824 | 1 => 10066330 | _ => 8110080)) 1000000
/-- Blocks of a fast-exit burst, and of the nominal one (R385). -/
def State.nominalBurst (s : State) (g : Nat) : Nat := match s.groupRate g with | 0 => 10 | 1 => 24 | _ => 31
def State.burstBlocks (s : State) (g : Nat) : Nat := s.nominalBurst g + 4 * fld (s.reg (rLaneGcfg g)) 8 4

/-- The lanes belong to the lane layer of the Cypel link, not to Ethernet. -/
def State.laneNative (s : State) (l : Nat) : Bool := s.groupRole (l / 8) = 1 || s.groupRole (l / 8) = 2

/-- Event of a lane's group (R398). -/
def State.laneEvent (s : State) (l : Nat) : State := s.signal (64 + l / 8)

/-! ## Link ports over lanes (R399, R407, R425, R426) -/

/-- Lanes of a link port (R399, R427). -/
def State.portLanes (s : State) (p : Nat) : List Nat :=
  if p ≤ 1 then
    ((List.range 4).filter fun g => s.groupOn g && s.groupRole g = p + 1).flatMap groupLanes
  else
    let e := p - 2
    if !s.ethEnabled e then []
    else if (s.reg (rLaneEthcfg (e / 8))).getLsbD 0 then [e, e + 1, e + 2, e + 3] else [e]

/-- The port that a lane belongs to. -/
def State.lanePort (s : State) (l : Nat) : Option Nat := (List.range 34).find? fun p => l ∈ s.portLanes p

/-- What follows when a port is no longer UP (R425, R426). -/
def State.partnerLost (s : State) (p : Nat) (wasUp : Bool) (upWas : Bool) : State :=
  let s :=
    if p = 1 && wasUp then
      let reqs := (s.portOf 1).fwdReqs
      let s := (s.signal 73).setPort 1 { s.portOf 1 with fwdReqs := [] }
      let s := reqs.foldl (fun s h => s.sendOwn none 3 0 (BitVec.ofNat 8 4 :: (h.drop 1).take 15)) s
      if s.waitsPartials then s.flushHolds else s
    else s
  if upWas && !s.upstreamUp then s.signal 72 else s

/-- A port goes down: it will align again (R407). -/
def State.portDown (s : State) (p : Nat) : State :=
  let x := s.portOf p
  if x.state = .down then s
  else
    let up := s.upstreamUp
    let s := s.setPort p { x with
      state := .down, lresetTx := 0, lresetRx := false, aligned := [], periods := 0, failed := 0, words := [], round := [], looped := [] }
    let s := (List.range 4).foldl (fun s v => s.setVl p v {}) s
    s.partnerLost p (x.state = .up) up

/-- A lane has gone down for the link layer: its whole port leaves UP (R388, R400). -/
def State.laneDown (s : State) (l : Nat) : State :=
  match s.lanePort l with
  | some p => s.portDown p
  | none => s

/-! ## Coding (R379, R400-R402) -/

/-- The self-synchronising scrambler x^58 + x^39 + 1 over a payload: the state holds the 58 bits sent last, the oldest lowest.
Gives the state after, and the payload as it is sent. -/
def scramble (st : BitVec 58) (w : BitVec 64) : BitVec 58 × BitVec 64 :=
  let z := (List.range 64).foldl (fun z i =>
    if (w.getLsbD i ^^ z.testBit i) ^^ z.testBit (i + 19) then z + 2 ^ (58 + i) else z) st.toNat
  (BitVec.ofNat 58 (z / 2 ^ 64), BitVec.ofNat 64 (z / 2 ^ 58))

/-- The descrambler, which needs nothing but the 58 bits received ahead of a payload. -/
def descramble (before : BitVec 58) (l : BitVec 64) : BitVec 64 :=
  let z := before.toNat + 2 ^ 58 * l.toNat
  l ^^^ BitVec.ofNat 64 z ^^^ BitVec.ofNat 64 (z / 2 ^ 19)

/-- A block before scrambling. -/
structure Block66 where
  hdr     : SyncHeader
  payload : BitVec 64
  deriving DecidableEq, Repr

def controlBlock (w : BitVec 64) : Block66 := ⟨0b10, w⟩
def dataBlock (w : BitVec 64) : Block66 := ⟨0b01, w⟩

/-- A lane-layer block of lane `l` (R380). -/
def laneWord (ty l : Nat) : BitVec 64 :=
  let fill := match ty with | 0xD2 => 0xA5A5A5A5A5A5 | 0xD6 => 0x5A5A5A5A5A5A | _ => 0
  BitVec.ofNat 64 (ty + 2 ^ 8 * l + 2 ^ 16 * fill)

/-- The blocks of a frame: SOF, then header, body and CRC-32, padded with zeros (R402). -/
def frameBlocks (hdr : BitVec 64) (body : Bytes) : List Block66 :=
  let b := leBytes 8 hdr.toNat ++ body
  let b := b ++ leBytes 4 (crc32 b).toNat
  controlBlock 0x33 :: (List.range (ceilDiv b.length 8)).map fun i => dataBlock (BitVec.ofNat 64 (leNat ((b.drop (8 * i)).take 8)))

/-- The scrambler of a lane now: it has run on over the words that filled the stream since its last block, and stood still
in electrical idle. -/
def State.scrNow (s : State) (l : Nat) : BitVec 58 :=
  let x := s.laneOf l
  if x.scrAt = s.clock || x.tx = .idle then x.scr else Config.fillState l s.clock

/-- Bits as a polarity field inverts them. -/
def polarity {n : Nat} (inv : Bool) (x : BitVec n) : BitVec n := if inv then ~~~x else x

/-! ## Loops (R390, R391) -/

/-- A near-end loop: what the transmitter sends reaches the receiver inside the device. -/
def nearLoop (loop : Nat) : Bool := loop = 1 || loop = 2

/-- The loop that a port's lanes are in, and whether they send the PRBS31 pattern in place of the port's stream. -/
def State.portLoop (s : State) (p : Nat) : Nat :=
  match s.portLanes p with
  | l :: _ => s.groupLoop (l / 8)
  | [] => 0
def State.portPrbs (s : State) (p : Nat) : Bool := (s.portLanes p).any s.prbsOn

/-- What a port sends leaves the device; in a near-end loop it goes to the port's own receiver, and in the far-end loop, or where the
PRBS31 pattern is sent, it is discarded. -/
def State.portOut (s : State) (p : Nat) (o : Out) : State :=
  if s.portPrbs p then s
  else if s.portLoop p = 0 then s.emitOut o
  else if nearLoop (s.portLoop p) then s.setPort p { s.portOf p with looped := (s.portOf p).looped ++ [o] }
  else s

/-- What is presented at a port comes in. In a near-end loop it is what the port sent, in that order, and nothing else can come; in the
far-end loop its bits leave again (DEDUCED, log entry 43). None: it cannot have come. -/
def State.portIn (s : State) (p : Nat) (o : Out) : Option State :=
  if s.portPrbs p then none
  else if s.portLoop p = 0 then some s
  else if nearLoop (s.portLoop p) then
    match (s.portOf p).looped with
    | x :: xs => if x = o then some (s.setPort p { s.portOf p with looped := xs }) else none
    | [] => none
  else some (s.emitOut o)

/-- A block leaves on a lane; while a loop is set, or the pattern of R391 is sent, it reaches no ball (R379, R390, R398). -/
def State.laneBlock (s : State) (l : Nat) (b : Block66) : State :=
  let (st, bits) := scramble (s.scrNow l) b.payload
  let inv := (s.reg (rLaneCtrl l)).getLsbD 0
  let s := s.setLane l { s.laneOf l with scr := st, scrAt := s.clock }
  if s.groupLoop (l / 8) ≠ 0 || s.prbsOn l then s else s.emitOut (.line l (polarity inv b.hdr) (polarity inv bits))

/-- Blocks of a native port's stream, striped over its lanes (R400). -/
def State.streamBlocks (s : State) (p : Nat) (bs : List Block66) : State :=
  let ls := s.portLanes p
  if 1 < p || ls.isEmpty then s
  else
    let x := s.portOf p
    let at_ := (if x.posAt = s.clock then x.pos else Config.fillPos p s.clock) % ls.length
    let s := s.setPort p { x with pos := (at_ + bs.length) % ls.length, posAt := s.clock }
    bs.zipIdx.foldl (fun s b => s.laneBlock (ls.getD ((at_ + b.2) % ls.length) 0) b.1) s

/-- The Ethernet frame that carries a Cypel frame on port `p` (R428). -/
def State.etherOf (s : State) (p : Nat) (hdr : BitVec 64) (body : Bytes) : EthFrame :=
  let cfg := s.reg (rLaneEthcfg ((p - 2) / 8))
  let mac := s.reg64 rLaneMac
  let b := leBytes 8 hdr.toNat ++ body
  let b := b ++ leBytes 4 (crc32 b).toNat
  { fcsGood := true, dst := (s.reg64 rLaneEthpeer).truncate 48, src := mac.truncate 48, etype := cfg.extractLsb' 16 16
    vlan := if cfg.getLsbD 1 then some (BitVec.ofNat 16 (fld mac 48 12 + 2 ^ 13 * fld cfg 2 3)) else none
    payload := b ++ List.replicate (46 - b.length) 0 }

/-- A frame leaves on a port (R402, R428). -/
def State.sendFrame (s : State) (p : Nat) (hdr : BitVec 64) (body : Bytes) : State :=
  if p ≤ 1 then (s.portOut p (.frame p hdr body)).streamBlocks p (frameBlocks hdr body)
  else
    let s := if s.portLoop p = 0 && !s.portPrbs p then s.emitOut (.frame p hdr body) else s
    s.portOut p (.ether p (s.etherOf p hdr body))

/-- Link control words leave on a port: each a control block of a native port, or in LINKCTL frames of at most 16 words on an
Ethernet port (R401, R404). -/
def State.sendWords (s : State) (p : Nat) (ws : List (BitVec 64)) : State :=
  if p ≤ 1 then (ws.foldl (fun s w => s.portOut p (.word p w)) s).streamBlocks p (ws.map controlBlock)
  else
    let s := if s.portLoop p = 0 && !s.portPrbs p then ws.foldl (fun s w => s.emitOut (.word p w)) s else s
    (List.range (ceilDiv ws.length 16)).foldl (fun s i =>
      let b := ((ws.drop (16 * i)).take 16).flatMap fun w => leBytes 8 w.toNat
      s.sendFrame p (linkHdr 0xF 0 1 0 0 s.devIdx b.length) b) s

/-- Blocks as the descrambler gives them: sync headers and payloads. -/
def decodeRun (inv : Bool) (x : LineRun) : List Block66 :=
  (x.blocks.foldl (fun (a : BitVec 58 × List Block66) b =>
    let bits := polarity inv b.2
    (BitVec.ofNat 58 (bits.toNat / 2 ^ 6), a.2 ++ [⟨polarity inv b.1, descramble a.1 bits⟩])) (polarity inv x.before, [])).2

/-- The blocks that a lane has received, descrambled; POLRX inverts what comes in (R398). -/
def State.received (s : State) (l : Nat) (x : LineRun) : List Block66 := decodeRun ((s.reg (rLaneCtrl l)).getLsbD 1) x

/-- A block is a lane-layer block of a type: its lane number, if so (R380). -/
def Block66.lane (ty : Nat) (b : Block66) : Option Nat :=
  let l := fld b.payload 8 8
  if b = controlBlock (laneWord ty l) then some l else none

/-- The blocks that come in on a lane: those of a run at its balls, which leave again in the far-end loop; in a near-end loop as many
of the blocks that its transmitter sent, TRAIN blocks as long as it trains (R390). -/
def State.lineIn (s : State) (l : Nat) (x : LineRun) : List Block66 × State :=
  let loop := s.groupLoop (l / 8)
  if loop = 0 then (s.received l x, s)
  else if nearLoop loop then
    let n := x.blocks.length
    let y := s.laneOf l
    let more := match y.tx with
      | .training _ => List.replicate n (laneWord 0xD2 l)
      | _ => []
    (((y.looped ++ more).take n).map controlBlock, s.setLane l { y with looped := y.looped.drop n })
  else (s.received l x, x.blocks.foldl (fun s b => s.emitOut (.line l b.1 b.2)) s)

/-- The single block that comes in is a lane-layer block of a type: its lane number. -/
def State.gotBlock (s : State) (l ty : Nat) (x : LineRun) : Option Nat × State :=
  let (bs, s) := s.lineIn l x
  (match bs with
    | [b] => b.lane ty
    | _ => none, s)

/-! ## Block lock (R382) -/

def headerValid (h : SyncHeader) : Bool := h = 0b01 || h = 0b10

/-- One sync header through the block-lock machine: lock after 64 valid ones, lost and slipped after 16 invalid ones of 64. -/
def LaneSt.header (x : LaneSt) (h : SyncHeader) : LaneSt :=
  let bad := x.shBad + (!headerValid h).toNat
  if !headerValid h && (bad = 16 || !x.blocklock) then { x with blocklock := false, shCnt := 0, shBad := 0 }
  else if x.shCnt + 1 = 64 then { x with blocklock := x.blocklock || bad = 0, shCnt := 0, shBad := 0 }
  else { x with shCnt := x.shCnt + 1, shBad := bad }

/-- Sync headers received on a lane: each invalid one is counted. In a near-end loop they are those of its own transmitter, all
valid. -/
def State.headers (s : State) (l : Nat) (hs : List SyncHeader) : State :=
  let hs := if nearLoop (s.groupLoop (l / 8)) then hs.map fun _ => 0b10 else hs
  let inv := (s.reg (rLaneCtrl l)).getLsbD 1
  (s.setLane l ((hs.map (polarity inv)).foldl LaneSt.header (s.laneOf l))).bumpBy (cLane l 0)
    (hs.filter fun h => !headerValid h).length

/-! ## Transmitters: idle, bursts and training (R384-R387) -/

/-- The transmitter sends blocks of the lane layer. -/
def State.sendBlock (s : State) (l n ty : Nat) : State :=
  if !s.laneNative l then s
  else
    let s := (List.range n).foldl (fun s _ => s.laneBlock l (controlBlock (laneWord ty l))) s
    if nearLoop (s.groupLoop (l / 8)) then
      s.updLane l fun x => { x with looped := x.looped ++ List.replicate n (laneWord ty l) }
    else s

/-- The lane enters electrical idle after two IDLE_ENTRY blocks (R384). -/
def State.idleLane (s : State) (l : Nat) : State :=
  match (s.laneOf l).tx with
  | .idle => s
  | _ => (s.sendBlock l 2 0xD4).updLane l fun x => { x with tx := .idle, fastOk := true, idlePend := false, retrain := false }

/-- LANEn_CTRL.IDLE asks for idle: while the lane trains for a RETRAIN, it is entered once its data has begun (R389). -/
def State.askIdle (s : State) (l : Nat) : State :=
  let x := s.laneOf l
  match x.tx with
  | .training _ => if x.retrain then s.setLane l { x with idlePend := true } else s.idleLane l
  | _ => s.idleLane l

/-- LANEn_CTRL.IDLE holds the lane idle; an Ethernet lane it does not (R392). -/
def State.heldIdle (s : State) (l : Nat) : Bool := (s.reg (rLaneCtrl l)).getLsbD 2 && s.groupRole (l / 8) ≠ 3

/-- The lanes have their supply, `PS_GOOD` of `VDD_LANE` not having fallen while its `PS_EN` is high, and their island is not fenced
(R395, R521). -/
def State.laneRail (s : State) : Bool := !(s.power.psEn.getLsbD 6 && !s.power.psGood.getLsbD 6) && !s.isFenced 8

/-- The lane's transmitter may run: its group is enabled with a role, its PLL has locked, it has its supply, and the power state
leaves it on (R378, R395, R397). -/
def State.txAllowed (s : State) (l : Nat) : Bool :=
  let g := l / 8
  s.groupOn g && s.groupRole g ≠ 0 && s.pllLock.getLsbD g && s.laneRail && !s.atOrBelow .sedge

/-- TRAIN blocks of a full training, 65,536 tk long (R387). -/
def State.trainBlocks (s : State) (g : Nat) : Nat :=
  ceilDiv (65536 * 1000000) (match s.groupRate g with | 0 => 25165824 | 1 => 10066330 | _ => 8110080)

/-- The lane sends TRAIN blocks for a full training (R387). -/
def State.trainLane (s : State) (l : Nat) : State :=
  let s := s.sendBlock l 1 0xD2
  let s := if s.laneNative l && s.groupLoop (l / 8) = 0 && !s.prbsOn l then s.emitOut (.train l (s.trainBlocks (l / 8) - 1)) else s
  s.updLane l fun x => { x with tx := .training s.clock, fastOk := false }

/-- The lane leaves electrical idle: by fast exit where R385 and R396 allow it, else by full training. -/
def State.wakeLane (s : State) (l : Nat) : State :=
  let x := s.laneOf l
  if !s.txAllowed l || x.tx ≠ .idle then s
  else if s.laneNative l && x.fastOk && !x.owesTx && !x.owesRx then (s.sendBlock l (s.burstBlocks (l / 8)) 0xD2).updLane l fun x => { x with tx := .burst s.clock }
  else s.trainLane l

/-- Full training at once, for a RETRAIN (R386, R389). -/
def State.retrainLane (s : State) (l : Nat) : State :=
  if s.txAllowed l then
    let hold := s.heldIdle l
    let s := s.trainLane l
    s.setLane l { s.laneOf l with idlePend := hold, retrain := true }
  else s.setLane l { s.laneOf l with fastOk := false }

/-- The transmitter sends a full training. -/
def LaneSt.trains (x : LaneSt) : Bool :=
  match x.tx with
  | .training _ => true
  | _ => false

/-- TRAINING_END (R387): the transmitter's training, or its burst, is over, and data follows. -/
def execTrainingEnd (l : Lane) : State → Host.Outcome State Fault Refusal :=
  act fun s =>
    let x := s.laneOf l.val
    let over_ := match x.tx with
      | .training t => decide (t + 65536 ≤ s.clock)
      | .burst t => decide (t + s.blockTk (l.val / 8) (s.burstBlocks (l.val / 8)) ≤ s.clock)
      | _ => false
    if !over_ then s
    else
      let s := s.setLane l.val { x with tx := .data, retrain := false, owesTx := x.owesTx && !x.trains }
      if x.idlePend then s.idleLane l.val else s

/-! ## Group and lane control (R377, R378, R384, R390, R398) -/

/-- A write of LANE_GCFG[g] that R377, R390, R398 and R399 let through. -/
def State.gcfgOk (s : State) (g : Nat) (old new : BitVec 32) : Bool :=
  let others := fun (r : Nat) => (List.range 4).any fun h => h ≠ g && s.groupOn h && s.groupRole h = r
  let role := fld new 0 2
  let enabling := new.getLsbD 4
  let same := maskIn old new 0x1010 = new
  (!(old.getLsbD 4 || enabling) || same) &&
  (!enabling || role ≠ 3 || fld new 2 2 = 1) &&
  (!enabling || role ≠ 1 || !others 3) && (!enabling || role ≠ 3 || !others 1) &&
  (same || (fld new 5 2 = 0 && !new.getLsbD 7) || s.mode.mode = .test)

/-- The value a write of LANE_GCFG stores: reserved bits and RATE 3 are left out (R398). -/
def gcfgValue (old v : BitVec 32) : BitVec 32 :=
  let new := maskIn old v 0x1FFF
  if fld new 2 2 = 3 then setFld new 2 2 (fld old 2 2) else new

/-- A write of LANE_GCFG[g]: setting ENABLE starts the PLL and full acquisition, clearing it idles the lanes (R378, R384,
R387). -/
def State.writeGcfg (s : State) (g : Nat) (v : BitVec 32) : State :=
  let old := s.reg (rLaneGcfg g)
  let new := gcfgValue old v
  if !s.gcfgOk g old new then s.error
  else
    let s := if old.getLsbD 4 && !new.getLsbD 4 then
        let s := (groupLanes g).foldl (fun s l => (s.laneDown l).idleLane l) s
        (groupLanes g).foldl (fun s l =>
          let x := s.laneOf l
          s.setLane l { x with sigdet := false, cdrlock := false, blocklock := false, expidle := false, acq := false
                               fastRx := none, needFull := true, shCnt := 0, shBad := 0, looped := [] }) { s with pllLock := setBit s.pllLock g false }
      else s
    let s := s.setReg (rLaneGcfg g) new
    (if !old.getLsbD 4 && new.getLsbD 4 then s.startPll g else s).done

/-- LANE_GROUP_ENABLE (R377, R378): the row sets ENABLE. -/
def execLaneGroupEnable (w : Initiator) (g : Group) (v : BitVec 32) : State → Host.Outcome State Fault Refusal :=
  unitAct w (rLaneGcfg g.val) fun s => s.writeGcfg g.val (setBit v 4 true)
/-- LANE_GROUP_DISABLE (R384): the row clears ENABLE. -/
def execLaneGroupDisable (w : Initiator) (g : Group) (v : BitVec 32) : State → Host.Outcome State Fault Refusal :=
  unitAct w (rLaneGcfg g.val) fun s => s.writeGcfg g.val (setBit v 4 false)

/-- PLL_LOCK (R378): the lanes of the group leave idle, and their receivers start full acquisition. -/
def execPllLock (g : Group) : State → Host.Outcome State Fault Refusal :=
  act fun s =>
    if !s.groupOn g.val || s.pllLock.getLsbD g.val || !s.laneRail then s
    else
      let s : State := { s with pllLock := setBit s.pllLock g.val true }
      (groupLanes g.val).foldl (fun s l =>
        let s := s.setLane l { s.laneOf l with needFull := true, acq := true, acqAt := s.clock }
        if s.heldIdle l then s else s.wakeLane l) s

/-- A write of LANEn_CTRL: IDLE set idles the lane, IDLE cleared lets it leave idle (R384, R385); an Ethernet lane's does neither
(R392). -/
def State.writeLaneCtrl (s : State) (l : Nat) (v : BitVec 32) : State :=
  let old := s.reg (rLaneCtrl l)
  let new := maskIn old v 0x000FFF0F
  let s := s.setReg (rLaneCtrl l) new
  let s :=
    if s.groupRole (l / 8) = 3 then s
    else if new.getLsbD 2 && !old.getLsbD 2 then s.askIdle l
    else if !new.getLsbD 2 && old.getLsbD 2 then
      s.wakeLane l |> fun s => s.setLane l { s.laneOf l with idlePend := false }
    else s
  s.done

/-- LANE_IDLE_REQUEST (R384): the row sets IDLE. -/
def execLaneIdleRequest (w : Initiator) (l : Lane) (v : BitVec 32) : State → Host.Outcome State Fault Refusal :=
  unitAct w (rLaneCtrl l.val) fun s => s.writeLaneCtrl l.val (setBit v 2 true)
/-- LANE_IDLE_EXIT (R385): the row clears IDLE. -/
def execLaneIdleExit (w : Initiator) (l : Lane) (v : BitVec 32) : State → Host.Outcome State Fault Refusal :=
  unitAct w (rLaneCtrl l.val) fun s => s.writeLaneCtrl l.val (setBit v 2 false)

/-! ## Receivers (R381-R389) -/

/-- The lane can receive blocks of the lane layer. -/
def State.rxOpen (s : State) (l : Nat) : Bool := s.groupOn (l / 8) && s.laneNative l && (s.laneOf l).sigdet && !s.prbsOn l

/-- IDLE_ENTRY (R384, R389): the coming idle is expected, unless the loss has already been reported. -/
def execIdleEntry (l : Lane) (run : LineRun) : State → Host.Outcome State Fault Refusal :=
  act fun s =>
    let x := s.laneOf l.val
    let (got, s) := s.gotBlock l.val 0xD4 run
    if s.rxOpen l.val && x.blocklock && got.isSome then s.updLane l.val fun x => { x with expidle := true } else s

/-- TRAIN (R381): the sender's index within its group is checked. -/
def execTrain (l : Lane) (run : LineRun) : State → Host.Outcome State Fault Refusal :=
  act fun s =>
    match s.gotBlock l.val 0xD2 run with
    | (none, s) => s
    | (some b, s) => if !s.rxOpen l.val || b % 8 = l.val % 8 then s else (s.bump (cLane l.val 4)).laneEvent l.val

/-- RETRAIN (R386, R389): full training on the same lane number, at once. -/
def execRetrain (l : Lane) (run : LineRun) : State → Host.Outcome State Fault Refusal :=
  act fun s =>
    let (got, s) := s.gotBlock l.val 0xD6 run
    if s.rxOpen l.val && got.isSome then s.retrainLane l.val else s

/-- After a loss the transmitter of the same lane sends full training too: when the signal returns, or at once after a loss of lock
(R387, R396). -/
def State.trainAgain (s : State) (l : Nat) : State :=
  match (s.laneOf l).tx with
  | .idle => s.updLane l fun x => { x with fastOk := false }
  | .training _ => s
  | _ => if s.txAllowed l then s.trainLane l else s

/-- Signal can come in on the lane: its receiver has its supply, and in a near-end loop its own transmitter sends (R390, R395). -/
def State.signalCan (s : State) (l : Nat) : Bool :=
  s.laneRail && (!nearLoop (s.groupLoop (l / 8)) || (s.laneOf l).tx ≠ .idle)

/-- An idle receiver detects signal: fast exit where the idle was announced and R396 allows it, else full acquisition (R385, R387). -/
def State.signalOn (s : State) (l : Nat) : State :=
  let s := if s.groupOn (l / 8) && s.laneNative l && !(s.laneOf l).sigdet && (s.laneOf l).needFull && !(s.laneOf l).acq && s.signalCan l then
      s.trainAgain l
    else s
  let x := s.laneOf l
  if !s.groupOn (l / 8) || x.sigdet || !s.signalCan l then s
  else if s.laneNative l && x.expidle && !x.needFull && !x.owesTx && !x.owesRx then
    s.setLane l { x with sigdet := true, cdrlock := true, expidle := false, fastRx := some s.clock }
  else s.setLane l { x with sigdet := true, expidle := false, acq := true, acqAt := s.clock, fastRx := none, shCnt := 0, shBad := 0 }

/-- FAST_EXIT_LOCK (R385): four TRAIN blocks in a row at one alignment give block lock. -/
def execFastExitLock (l : Lane) (run : LineRun) : State → Host.Outcome State Fault Refusal :=
  act fun s =>
    let (bs, s) := s.lineIn l.val run
    let x := s.laneOf l.val
    if x.fastRx.isSome && x.sigdet && bs.length = 4 && bs.all fun b => (b.lane 0xD2).isSome then
      s.setLane l.val { x with blocklock := true, fastRx := none, shCnt := 0, shBad := 0 }
    else s

/-- FAST_EXIT_FAIL (R386): no block lock 64 blocks after the nominal burst. A transmitter that LANEn_CTRL.IDLE holds idle sends full
training after its RETRAIN, and is idle once its data has begun (R389). -/
def execFastExitFail (l : Lane) : State → Host.Outcome State Fault Refusal :=
  act fun s =>
    let x := s.laneOf l.val
    match x.fastRx with
    | none => s
    | some t =>
      if s.clock < t + s.blockTk (l.val / 8) (s.nominalBurst (l.val / 8) + 64) then s
      else
        let s := s.setLane l.val { x with fastfail := true, fastRx := none, acq := true, acqAt := s.clock, cdrlock := false
                                          needFull := true, shCnt := 0, shBad := 0 }
        let s := ((s.bump (cLane l.val 3)).laneEvent l.val).wakeLane l.val
        if (s.laneOf l.val).tx = .idle then s
        else
          let s := s.sendBlock l.val 1 0xD6
          if s.heldIdle l.val then s.retrainLane l.val else s

/-- BLOCK_LOCK (R382): sync headers come in during a full acquisition, which 64 valid ones in a row end. -/
def execBlockLock (l : Lane) (hdrs : List SyncHeader) : State → Host.Outcome State Fault Refusal :=
  act fun s =>
    let x := s.laneOf l.val
    if !(x.acq && x.sigdet && s.groupOn (l.val / 8)) || s.prbsOn l.val then s
    else
      let s := s.headers l.val hdrs
      if (s.laneOf l.val).blocklock then
        s.updLane l.val fun x => { x with acq := false, cdrlock := true, needFull := false, owesRx := false }
      else s

/-- ACQUISITION_RETRY (R387). -/
def execAcquisitionRetry (l : Lane) : State → Host.Outcome State Fault Refusal :=
  act fun s =>
    let x := s.laneOf l.val
    if x.acq && decide (x.acqAt + 65536 ≤ s.clock) then (s.setLane l.val { x with acqAt := s.clock }).bump (cLane l.val 3) else s

/-- LOSS_OF_SIGNAL (R388, R389): reported and the lane down, unless the idle was announced. -/
def execLossOfSignal (l : Lane) : State → Host.Outcome State Fault Refusal :=
  act fun s =>
    let x := s.laneOf l.val
    if !s.groupOn (l.val / 8) || !x.sigdet then s
    else
      let y := { x with sigdet := false, cdrlock := false, blocklock := false, fastRx := none, shCnt := 0, shBad := 0 }
      if x.expidle then s.setLane l.val y
      else
      let s := s.setLane l.val { y with los := true, acq := false, needFull := true, owesTx := true, owesRx := true }
      ((s.bump (cLane l.val 2)).laneEvent l.val).laneDown l.val

/-- LOSS_OF_LOCK (R382, R387, R388): the loop leaves its range, or the sync headers that come in lose the block lock. The lane goes
through full acquisition, and its own transmitter trains. -/
def execLossOfLock (l : Lane) (range : Bool) (hdrs : List SyncHeader) : State → Host.Outcome State Fault Refusal :=
  act fun s =>
    let x := s.laneOf l.val
    if !s.groupOn (l.val / 8) || !x.cdrlock then s
    else
      let s := if x.blocklock && !s.prbsOn l.val then s.headers l.val hdrs else s
      if !range && !(x.blocklock && !(s.laneOf l.val).blocklock) then s
      else
        let s := s.setLane l.val { s.laneOf l.val with cdrlock := false, blocklock := false, fastRx := none, lol := true, acq := true
                                                       acqAt := s.clock, needFull := true, shCnt := 0, shBad := 0 }
        let s := ((s.bump (cLane l.val 3)).laneEvent l.val).laneDown l.val
        if s.laneNative l.val then s.trainAgain l.val else s

/-- `VDD_LANE` falls below its minimum, or the link island is fenced: every transmitter is in electrical idle, and nothing is received
(R395, R521). -/
def State.lanesOff (s : State) : State :=
  let s := (List.range 32).foldl (fun s l =>
    let s := s.laneDown l
    let x := s.laneOf l
    s.setLane l { x with
      tx := .idle, fastOk := false, idlePend := false, retrain := false, sigdet := false, cdrlock := false, blocklock := false
      expidle := false, acq := false, fastRx := none, needFull := true, shCnt := 0, shBad := 0, looped := [] }) s
  { s with pllLock := 0 }

/-- LANEn_STAT (R398). -/
def State.laneStat (s : State) (l : Nat) : BitVec 32 :=
  let x := s.laneOf l
  BitVec.ofNat 32 (x.sigdet.toNat + x.cdrlock.toNat * 2 + x.blocklock.toNat * 4 + (decide (x.tx = .idle) || nearLoop (s.groupLoop (l / 8))).toNat * 8 +
    16 * x.expidle.toNat + 32 * x.los.toNat + 64 * x.lol.toNat + 128 * x.fastfail.toNat + 256 * x.acq.toNat)

end Sys2Proof.Machine
end

