-- ==== Sys2Proof/Machine/Modes.lean ====
section
/-! DEFINITION. Operating modes, TIMEOUT and its causes, reset and boot (R263, R529, R530, R553-R563, R592). -/

namespace Sys2Proof.Machine
open Sys2Proof

/-! ## TIMEOUT (R529, R530) -/

/-- A cause of R529; one that can persist has its number. Every effect of R530 that is not yet in force comes into force; in
BOOT and RECOVERY the mode stays. -/
def State.enterTimeout (s : State) (c : Option Nat) : State :=
  let s : State := match c with
    | some c => { s with mode := { s.mode with causes := setBit s.mode.causes c true } }
    | none => s
  let s : State := match s.mode.mode with
    | .boot | .recovery => s
    | _ => { s with mode := { s.mode with mode := .timeout } }
  let s := (List.range 16).foldl (fun s q => s.setRxEn q false) s
  { s with fe := { s.fe with txEn := 0 } }

/-- A cause no longer persists. -/
def State.clearCause (s : State) (c : Nat) : State := { s with mode := { s.mode with causes := setBit s.mode.causes c false } }

/-- REFCLK_LOSS (R263, R529). -/
def execRefclkLoss : State → Host.Outcome State Fault Refusal :=
  act fun s => (({ s with power := { s.power with devPhase := s.clock } } : State).synsNotReady.signal 92).enterTimeout (some 0)

/-- REFCLK_RETURN (R263): the cause no longer persists; management firmware retunes with PREP items. -/
def execRefclkReturn : State → Host.Outcome State Fault Refusal := act fun s => s.clearCause 0

/-! ## Temperatures (R529, R592) -/

/-- TS_LIMITS.SHUT (R592). -/
def shutLimit : Int := if Config.gradeE then 120 else 115

/-- Temperature of a die in units of 0.125 °C, and the warning threshold in °C. -/
def State.dieTemp (s : State) (d : Nat) : Int := sfld (s.reg (rTsTemp d)) 0 12
def State.warnLimit (s : State) : Int := sfld (s.reg rTsWarn) 0 8
def dies : List Nat := [0, 1, 2, 3, 4, 5, 6]

/-- TEMPERATURE_UPDATE (R592): a warning is raised again only after every die has fallen 5 °C below TS_WARN; a die at the
shutdown threshold is a cause of R529 while it stays there. -/
def execTemperatureUpdate (d : Die) (temp : BitVec 12) : State → Host.Outcome State Fault Refusal :=
  act fun s =>
    let s := s.setReg (rTsTemp d.val) (temp.zeroExtend 32)
    let hot := dies.any fun i => decide (s.warnLimit * 8 ≤ s.dieTemp i)
    let cool := dies.all fun i => decide (s.dieTemp i ≤ (s.warnLimit - 5) * 8)
    let shut := dies.any fun i => decide (shutLimit * 8 ≤ s.dieTemp i)
    let s : State :=
      if hot && !s.fe.warnTold then ({ s with fe := { s.fe with warnTold := true } } : State).signal 102
      else if cool then { s with fe := { s.fe with warnTold := false } } else s
    if shut then
      if s.fe.shutTold then s
      else (({ s with fe := { s.fe with shutTold := true } } : State).signal 103).enterTimeout (some 2)
    else { s.clearCause 2 with fe := { (s.clearCause 2).fe with shutTold := false } }

/-- THERM_ALERT_N (R592): the input falls. -/
def execThermAlertN : State → Host.Outcome State Fault Refusal :=
  act fun s => if s.fe.warnTold then s else ({ s with fe := { s.fe with warnTold := true } } : State).signal 102

/-! ## Mode requests (R553-R555) -/

/-- A change of mode. WARMUP begins without a calibration, and notes whether a valid locked record exists (R561). -/
def State.setMode (s : State) (m : Mode) : State :=
  match m with
  | .warmup => { s with mode := { s.mode with mode := .warmup, calDone := false, noreg := s.regHeld } }
  | _ => { s with mode := { s.mode with mode := m } }

/-- The receive enables that FE_CTL items ask for, when TIMEOUT no longer holds them. -/
def State.restoreRx (s : State) : State :=
  (List.range 16).foldl (fun s q =>
    if s.fe.rxWant.getLsbD q && !(s.fe.txEn.getLsbD q && !s.fe.rxDup.getLsbD q) then s.setRxEn q true else s) s

/-- Every loop and PRBS cleared (R554). -/
def State.clearLoops (s : State) : State :=
  [0, 1, 2, 3].foldl (fun s g => s.setReg (rLaneGcfg g) (setFld (s.reg (rLaneGcfg g)) 5 3 0)) s

/-- The calibration of WARMUP has completed, on settings that can be read and under a valid locked record (R554, R561, R581). -/
def State.warmDone (s : State) : Bool := s.mode.calDone && !s.sess.unread && !s.regHeld

/-- The next mode of a request, if R554 allows it. -/
def State.modeAllows (s : State) (m : Mode) : Bool :=
  match m, s.mode.mode with
  | .service, .warmup => s.warmDone
  | .service, .maintenance => true
  | .maintenance, .service => true
  | .test, .service | .test, .maintenance => true
  | .warmup, .test => true
  | .warmup, .timeout => s.mode.causes = 0
  | .timeout, .recovery | .timeout, .boot => false
  | .timeout, _ => true
  | _, _ => false

/-- A request in MODE_CTRL (R554, R555). -/
def State.modeReq (s : State) (w : Initiator) (m : Mode) : State :=
  if !(w = .host || w = .mgmt) || s.power.dev.trans ≠ .none || !s.modeAllows m then s.error
  else
    match m with
    | .timeout => (s.enterTimeout none).done
    | .warmup =>
      let from_ := s.mode.mode
      let s := s.setMode .warmup
      (if from_ = .test then s.clearLoops else s.restoreRx).done
    | _ => (s.setMode m).done

/-- MODE_REQ_SERVICE, MODE_REQ_MAINTENANCE, MODE_REQ_TEST, MODE_REQ_WARMUP, MODE_REQ_TIMEOUT (R554). -/
def execModeReqService (w : Initiator) : State → Host.Outcome State Fault Refusal := act fun s => s.modeReq w .service
def execModeReqMaintenance (w : Initiator) : State → Host.Outcome State Fault Refusal := act fun s => s.modeReq w .maintenance
def execModeReqTest (w : Initiator) : State → Host.Outcome State Fault Refusal := act fun s => s.modeReq w .test
def execModeReqWarmup (w : Initiator) : State → Host.Outcome State Fault Refusal := act fun s => s.modeReq w .warmup
def execModeReqTimeout (w : Initiator) : State → Host.Outcome State Fault Refusal := act fun s => s.modeReq w .timeout

/-- Management firmware runs (R521, R542). -/
def State.mgmtOn (s : State) : Bool := !s.isFenced 9 && !s.isFenced 10 && !s.atOrBelow .fen && !s.entryPast 8

/-! ## Settings (R554, R579-R581) -/

def areaAddr (i : Nat) : Nat := nvBase + 0x1A00000 + 0x200000 * i

/-- The content of a settings area, and whether its CRC passes and its length is one it can have. -/
def State.areaContent (s : State) (i : Nat) : Bytes := s.bytesAt (areaAddr i + 64) (min (leNat (s.bytesAt (areaAddr i + 12) 4)) 2097088)
def State.areaOk (s : State) (i : Nat) : Bool :=
  let a := areaAddr i
  leNat (s.bytesAt (a + 12) 4) ≤ 2097088 &&
  leNat (s.bytesAt (a + 60) 4) = (crc32c (s.bytesAt a 60 ++ s.areaContent i)).toNat

/-- Writes an area: SETFMT, STATE, SEQ, length, CRC and content (R579). -/
def State.putArea (s : State) (i fmt st seq : Nat) (content : Bytes) : State :=
  let h := leBytes 60 (fmt + 2 ^ 32 * st + 2 ^ 64 * seq + 2 ^ 96 * content.length)
  let all := h ++ leBytes 4 (crc32c (h ++ content)).toNat ++ content
  s.programWords (areaAddr i) (wordsOf (slice all 0 ((all.length + 7) / 8 * 8)))

/-- Marks an area with a STATE of R579, its header's CRC brought up to date. -/
def State.markArea (s : State) (i st : Nat) : State :=
  let a := areaAddr i
  s.putArea i (leNat (s.bytesAt a 4)) st (leNat (s.bytesAt (a + 8) 4)) (s.areaContent i)

/-- The area the running firmware reads: the trial firmware's own once it has one, else the CURRENT area (R580). -/
def State.curArea (s : State) : Nat := s.bootRec.area % 2
def State.trialArea (s : State) : Nat := 1 - s.curArea

/-- The settings format of the running firmware (R565). -/
def State.runFmt (s : State) : Nat := imgSetfmt (s.bytesAt (slotBase s.mode.slot.toNat) 32)

/-- Trial firmware that understands the CURRENT area writes its content, in its own format, into the other area (R580). -/
def State.convertSettings (s : State) : State :=
  let a := areaAddr s.curArea
  let out := Config.settingsConvert (leNat (s.bytesAt a 4)) s.runFmt (s.areaContent s.curArea)
  let s := s.putArea s.trialArea s.runFmt 2 (leNat (s.bytesAt (a + 8) 4) + 1) (out.take 2097088)
  let r := s.bootRec
  s.putBoot { r with area := r.area % 2 + 2 * s.trialArea }

/-- SETTINGS_READ (R554, R561, R581): the firmware leaves BOOT, BOOTCNT is cleared, and a cause of R529 that persists leads
to TIMEOUT in place of WARMUP. -/
def execSettingsRead : State → Host.Outcome State Fault Refusal :=
  act fun s =>
    if s.mode.mode ≠ .boot || !s.mgmtOn then s
    else
      let good := s.areaOk s.curArea && Config.settingsGood (s.areaContent s.curArea)
      let s : State := { s with mode := { s.mode with bootcnt := 0 }, sess := { s.sess with unread := !good } }
      let s := if good then (if s.sess.trial then s.convertSettings else s) else s.signal 120
      if s.mode.causes = 0 then s.setMode .warmup else (s.setMode .warmup).enterTimeout none

/-- CALIBRATION_COMPLETE (R554, R561): on unreadable settings, or without a valid locked record, WARMUP is not left. -/
def execCalibrationComplete : State → Host.Outcome State Fault Refusal :=
  act fun s =>
    if s.mode.mode ≠ .warmup || s.sess.unread || s.regHeld || !s.mgmtOn then s
    else
      let s : State := { s with mode := { s.mode with calDone := true, noreg := false } }
      if (s.reg rModeCfg).getLsbD 1 then s.setMode .service else s

/-! ## Reset (R556-R559) -/

/-- POWER_ON: VDD_AON rises, with RESET_N low. -/
def execPowerOn : State → Host.Outcome State Fault Refusal :=
  actAlways fun s => if s.powered then s else { s.resetAll with powered := true, inReset := true }

/-- POWER_LOSS: VDD_AON falls. -/
def execPowerLoss : State → Host.Outcome State Fault Refusal :=
  actAlways fun s => { s.resetAll with powered := false, inReset := true }

/-- RESET_PIN: RESET_N low. -/
def execResetPin : State → Host.Outcome State Fault Refusal :=
  actAlways fun s => if s.powered && !s.inReset then { s.resetLogic 1 with inReset := true } else s

/-- RESET_N_RELEASE: the rising edge of RESET_N. -/
def execResetNRelease (recoverN : Bool) : State → Host.Outcome State Fault Refusal :=
  actAlways fun s => if s.powered && s.inReset then ({ s with inReset := false } : State).bootRom (!recoverN) else s

/-- A write of MODE_CTRL with RST; any other KEY is ignored (R556). -/
def State.writeRst (s : State) (w : Initiator) (v : BitVec 32) : State :=
  if fld v 8 8 ≠ 0xA5 then s.done
  else if w = .host || w = .mgmt then s.selfReset 2 else s.error

/-- SOFTWARE_RESET. -/
def execSoftwareReset (w : Initiator) (v : BitVec 32) : State → Host.Outcome State Fault Refusal :=
  act fun s => s.writeRst w v

/-- A write of MODE_CTRL: RST with its KEY, else the request that REQV marks (R554, R556, R563). -/
def State.writeModeCtrl (s : State) (w : Initiator) (v : BitVec 32) : State :=
  if v.getLsbD 4 && fld v 8 8 = 0xA5 then s.writeRst w v
  else if !v.getLsbD 3 then s.done
  else
    match fld v 0 3 with
    | 2 => s.modeReq w .warmup
    | 3 => s.modeReq w .service
    | 4 => s.modeReq w .maintenance
    | 5 => s.modeReq w .test
    | 7 => s.modeReq w .timeout
    | _ => s.error

/-- BOOTWD in ticks (R556, R563). -/
def State.bootwdTk (s : State) : Nat := 65536 * max 1 (fld (s.reg rModeCfg) 8 16)

/-- BOOT_WATCHDOG_EXPIRY. -/
def execBootWatchdogExpiry : State → Host.Outcome State Fault Refusal :=
  act fun s => if s.mode.mode = .boot && s.mode.bootAt + s.bootwdTk ≤ s.clock then s.selfReset 3 else s

/-! ## MODE_STAT and READY (R553, R563) -/

def State.modeStat (s : State) : BitVec 32 :=
  BitVec.ofNat 32 (modeNum s.mode.mode + 8 * s.mode.warm.toNat + 32 * s.mode.noreg.toNat + 64 * s.mode.slot.toNat +
    256 * s.mode.rstcause.toNat + 2048 * s.mode.bootcnt.toNat)

/-- Level of READY. -/
def State.readyPin (s : State) : Bool := s.alive && (s.mode.mode = .service || s.mode.mode = .maintenance)

end Sys2Proof.Machine
end

