-- ==== Sys2Proof/Machine/Flags.lean ====
section
/-! DEFINITION. The flag computations that the sequencers and the vector cores share: Z, N, C, V from bit 0 (R298, R325,
R330, R354, R373). -/

namespace Sys2Proof.Machine
open Sys2Proof

/-- Z and N from a result, with C and V. -/
def zncv (r : BitVec 64) (c v : Bool) : BitVec 4 :=
  BitVec.ofNat 4 ((r = 0 : Bool).toNat + (r.getLsbD 63).toNat * 2 + c.toNat * 4 + v.toNat * 8)

/-- Result and flags of an addition (R325, R354). -/
def addFlags (x y : BitVec 64) : BitVec 64 × BitVec 4 :=
  let r := x + y
  (r, zncv r (x.toNat + y.toNat ≥ 2 ^ 64) (x.getLsbD 63 = y.getLsbD 63 && r.getLsbD 63 ≠ x.getLsbD 63))
/-- Result and flags of a subtraction. -/
def subFlags (x y : BitVec 64) : BitVec 64 × BitVec 4 :=
  let r := x - y
  (r, zncv r (x.toNat < y.toNat) (x.getLsbD 63 ≠ y.getLsbD 63 && r.getLsbD 63 ≠ x.getLsbD 63))
/-- Result and flags of every other ALU function. -/
def aluFlags (r : BitVec 64) : BitVec 64 × BitVec 4 := (r, zncv r false false)

/-- Condition codes 0 to 10 of both instruction sets; none for another (R330, R373). -/
def aluCond (f : BitVec 4) (cond : Nat) : Option Bool :=
  let z := f.getLsbD 0
  let n := f.getLsbD 1
  let c := f.getLsbD 2
  let v := f.getLsbD 3
  match cond with
  | 0 => some true
  | 1 => some z
  | 2 => some !z
  | 3 => some n
  | 4 => some !n
  | 5 => some c
  | 6 => some !c
  | 7 => some v
  | 8 => some !v
  | 9 => some (n != v)
  | 10 => some (n == v)
  | _ => none

end Sys2Proof.Machine
end

