-- ==== Sys2Proof/Machine/Operands.lean ====
section
/-! DEFINITION. Operand forms of the sequencers' and issue queues' items: images, tags, port tables (R300, R307, R332-R335,
R339). -/

namespace Sys2Proof.Machine
open Sys2Proof

/-- Kinds that a port accepts from a TSQ, and from the ASQ (R339); none where the sequencer may not use the port. -/
def seqKinds (asq : Bool) (p : Port) : Option (List (BitVec 6)) :=
  if asq then
    match p with
    | .bf => some [kBeamSel, kBeamCommit, kStop, kMarker]
    | .fft => some [kFftCfg, kStop, kMarker]
    | .wola => some [kWola, kStop, kMarker]
    | .pwr => some [kPwrCtl, kStop, kMarker]
    | .cap => some [kCapCtl, kStop, kMarker]
    | .lnk => some [kStop, kMarker]
    | _ => none
  else
    match p with
    | .wola => some [kGain, kStop, kMarker]
    | .cfr => some [kCfrCfg, kCoef, kStop, kMarker]
    | .dpd => some [kDpdSwap, kCoef, kStop, kMarker]
    | .flt => some [kCarrier, kFltSwap, kGain, kDcFreeze, kSyncReset, kCoef, kStop, kMarker]
    | .sic => some [kSicCtl, kCoef, kStop, kMarker]
    | .fe => some [kFeCtl, kStop, kMarker]
    | .lo => some [kLoCtl, kStop, kMarker]
    | .pwr => some [kPwrCtl, kMarker]
    | .cap => some [kCapCtl, kStop, kMarker]
    | _ => none

/-- Kinds that a port serves for the issue queues: the TSQ column for ports 3 to 8, the ASQ column for the others (R308). -/
def queueKinds (p : Port) : List (BitVec 6) := (seqKinds (!tilePort p) p).getD []

/-- Bytes of payload that an image holds for a kind: LENGTH for the kinds whose LENGTH counts bytes (R300). -/
def imageBytes (k : BitVec 6) (len : Nat) : Nat := if k.toNat < 0x10 then 0 else len

/-- The tag an EMIT forms from its image and its second register (R300). -/
def emitTag (k : Nat) (kind : BitVec 6) (image : BitVec 64) (gt : BitVec 64) (epoch : BitVec 8) : Tag :=
  sealTag {
    air := gt.truncate 40, epoch := epoch, stream := BitVec.ofNat 8 (fld gt 48 8), kind := kind
    carrier := BitVec.ofNat 2 (fld image 0 2), beamref := BitVec.ofNat 13 (fld image 8 13)
    bank := BitVec.ofNat 1 (fld image 21 1), dpdset := BitVec.ofNat 4 (fld image 22 4)
    symbol := BitVec.ofNat 4 (fld image 26 4), mu := BitVec.ofNat 3 (fld image 30 3)
    length := BitVec.ofNat 16 (fld image 40 16), last := image.getLsbD 59, source := BitVec.ofNat 4 k }

/-- The tag of an item that an instruction of R333 to R335 forms. -/
def plainTag (k : Nat) (kind : BitVec 6) (ga : BitVec 64) (epoch : BitVec 8) (len : Nat) : Tag :=
  sealTag {
    air := ga.truncate 40, epoch := epoch, stream := BitVec.ofNat 8 (fld ga 48 8), kind := kind
    length := BitVec.ofNat 16 len, source := BitVec.ofNat 4 k }

/-- Base of a sequencer's own streams (R299). -/
def streamBase (k : Nat) : Nat := 32 * k

/-- Payload of BEAM_COMMIT, region baseband. -/
def commitPay (dirmask : Nat) : Bytes := leBytes 8 dirmask
/-- Payload of LO_CTL PREP and SWITCH. -/
def prepPay (syn phsync : Bool) (entry : Nat) : Bytes :=
  leBytes 16 (syn.toNat * 4 + 2 ^ 5 * phsync.toNat + 2 ^ 8 * (entry % 1024))
def hopPay (syn : Bool) (dir : Nat) : Bytes := leBytes 16 (2 + syn.toNat * 4 + 2 ^ 3 * dir)
/-- Payload of PWR_CTL. -/
def pwrPay (state : Nat) (wake : Bool) (mask : Nat) (tick : BitVec 64) : Bytes :=
  leBytes 16 (state + wake.toNat * 8 + 2 ^ 4 * mask + 2 ^ 64 * (if wake then fld tick 0 56 else 0))

/-- A section record with its START_SYM and NUM_SYM set to one symbol (R333). -/
def oneSymbol (r : BitVec 128) (sym : Nat) : BitVec 128 := setFld (setFld r 14 4 sym) 18 4 1

end Sys2Proof.Machine
end

