-- ==== Sys2Proof/Machine/Seq.lean ====
section
/-! DEFINITION. The sequencers: control, faults, registers, ALU, branches, time, events, sections, checkpoints (R294-R317,
R322-R331, R336-R338). Memory accesses and issuing stand in Sys2Proof/Machine/SeqIo.lean. -/

namespace Sys2Proof.Machine
open Sys2Proof

/-! ## Registers (R298, R299) -/

/-- g0 reads as zero, and a write to it is ignored. -/
def SeqSt.reg (q : SeqSt) (r : BitVec 5) : BitVec 64 := if r = 0 then 0 else tget (fun _ => 0) q.g r.toNat
def SeqSt.setG (q : SeqSt) (r : BitVec 5) (v : BitVec 64) : SeqSt :=
  if r = 0 then q else { q with g := tput (fun _ => 0) r.toNat v q.g }
def SeqSt.flag (q : SeqSt) (i : Nat) : Bool := q.f.getLsbD i
def SeqSt.zncv (q : SeqSt) : BitVec 4 := q.f.truncate 4
def SeqSt.setZncv (q : SeqSt) (v : BitVec 4) : SeqSt := { q with f := setFld q.f 0 4 v.toNat }
def SeqSt.epochOf (q : SeqSt) (j : Nat) : BitVec 8 := tget (fun _ => 0) q.epoch j
def SeqSt.setEpoch (q : SeqSt) (j : Nat) (v : BitVec 8) : SeqSt := { q with epoch := tput (fun _ => 0) j v q.epoch }

/-! ## Faults and issue (R297, R323, R324, R338) -/

/-- A program fault: the address and the cause are latched, an open checkpoint is discarded, the event is raised. -/
def State.seqFaultAt (s : State) (k cause : Nat) (pc : BitVec 19) : State :=
  let q := s.seqOf k
  (s.setSeq k { q with state := .faulted, cause := BitVec.ofNat 8 cause, faultpc := pc, opened := false, spec := []
                       stall := .none, refused := [] }).signal (16 + k)

/-- No cause of SEQk_STAT: a load of the ASQ pair that one half alone finds poisoned (R319). -/
def lockstepCause : Nat := 16

/-- The read is of the ASQ's own memories by the ASQ, of which each half has its copy (R318). -/
def asqOwn (k a n : Nat) : Bool := k = 4 && accessRegion a n = some (.seqMem 4)

/-- The second half's read of the same bytes, from its own copy: whether it is poisoned. -/
def State.secondHalf (s : State) (k a n : Nat) : State × Bool :=
  if asqOwn k a n then ((List.range n).map (a + ·)).foldl State.checkCopy (s, false) else (s, false)

/-- What a poisoned read of sequencer `k` does: cause 0x04 (R493); where one half of the ASQ pair alone finds it poisoned, a
mismatch of the pair (R319, R525). -/
def poisonCause (k a n : Nat) (both : Bool) : Nat := if asqOwn k a n && !both then lockstepCause else 4

/-- The instruction at the program counter does not complete: a program fault, or a mismatch of the ASQ pair. -/
def State.seqFault (s : State) (k cause : Nat) : State :=
  if cause = lockstepCause then s.asqMismatch else s.seqFaultAt k cause ((s.seqOf k).pc.truncate 19)

/-- The sequencer goes on at an offset; a fetch outside program memory faults (R324). -/
def State.seqGoto (s : State) (k : Nat) (t : Int) : State :=
  let q := s.seqOf k
  let s := s.setSeq k { q with pc := BitVec.ofInt 20 t, state := .running, stall := .none }
  if t < 0 ∨ 0x7FFFC < t then s.seqFaultAt k 3 (BitVec.ofInt 19 t) else s

/-- The instruction completes, and the next one follows. -/
def State.seqNext (s : State) (k : Nat) : State := s.seqGoto k ((s.seqOf k).pc.toNat + 4)

/-- Checks the fetch of the instruction at the program counter. -/
def State.seqFetch (s : State) (k : Nat) : Option Nat × State :=
  let pc := (s.seqOf k).pc.toNat
  if 0x80000 ≤ pc then (some 3, s)
  else
    let a := seqProg k + pc
    let (s, bad) := (checkedUnits (.seqMem k) a 4).foldl (State.checkUnit (.seqMem k)) (s, false)
    let (s, bad2) := s.secondHalf k a 4
    if bad || bad2 then (some (poisonCause k a 4 (bad && bad2)), s.poisonRead a) else (none, s)

/-- A refusal of one of its items faults the sequencer at an instruction boundary (R338). -/
def State.seqRefusal (s : State) (k : Nat) : State :=
  match (s.seqOf k).refused with
  | [] => s
  | pc :: _ => s.seqFaultAt k 0xC pc

/-- An instruction issues: `ok` tells that its fields are defined, `f` is its effect, which must move the sequencer on,
stall it or fault it. -/
def State.seqIssue (s : State) (k : Nat) (ok : Bool) (f : SeqSt → State → State) : State :=
  if !s.seqIslandOn k || (s.seqOf k).state ≠ .running then s
  else if (s.seqOf k).refused ≠ [] then s.seqRefusal k
  else
    match s.seqFetch k with
    | (some c, s) => s.seqFault k c
    | (none, s) => if ok then f (s.seqOf k) s else s.seqFault k 1

/-- An instruction that changes the sequencer's own registers alone. -/
def State.seqReg (s : State) (k : Nat) (ok : Bool) (f : SeqSt → SeqSt) : State :=
  s.seqIssue k ok fun q s => (s.setSeq k (f q)).seqNext k

/-! ## Control (R296, R297, R337) -/

/-- Starts at SEQk_ENTRY. -/
def State.seqStart (s : State) (k : Nat) (q : SeqSt) : State :=
  s.setSeq k { q with run := true, state := .running, stall := .none, refused := []
                      pc := BitVec.ofNat 20 (fld (s.reg (rSeqEntry k)) 2 17 * 4) }

/-- RUN set: a STOPPED sequencer starts, registers as they stand. -/
def State.seqRun (s : State) (k : Nat) : State :=
  let q := s.seqOf k
  if q.state = .stopped then s.seqStart k q else s.setSeq k { q with run := true }

/-- RUN cleared, or HALT: a stalled instruction is abandoned, an open checkpoint is discarded. -/
def State.seqStop (s : State) (k : Nat) : State :=
  let q := s.seqOf k
  if q.state = .faulted then s.setSeq k { q with run := false }
  else s.setSeq k { q with run := false, state := .stopped, stall := .none, opened := false, spec := [], refused := [] }

/-- RESTART: registers, flags, epochs and checkpoint are cleared, and it starts. -/
def State.seqRestart (s : State) (k : Nat) : State :=
  let q := s.seqOf k
  let p : SeqSt := { leadMax := q.leadMax, queue := q.queue, squashes := q.squashes, cause := q.cause, faultpc := q.faultpc }
  s.seqStart k p

/-- A write to SEQk_CTRL. -/
def State.writeSeqCtrl (s : State) (k : Nat) (v : BitVec 32) : State :=
  (if v.getLsbD 1 then s.seqRestart k else if v.getLsbD 0 then s.seqRun k else s.seqStop k).done

/-- SEQ_RUN, SEQ_STOP, SEQ_RESTART: writes of SEQk_CTRL. -/
def execSeqRun (w : Initiator) (k : Seq) : State → Host.Outcome State Fault Refusal :=
  unitAct w (0x18100 + 0x40 * k.val) fun s => s.writeSeqCtrl k.val 1
def execSeqStop (w : Initiator) (k : Seq) : State → Host.Outcome State Fault Refusal :=
  unitAct w (0x18100 + 0x40 * k.val) fun s => s.writeSeqCtrl k.val 0
def execSeqRestart (w : Initiator) (k : Seq) : State → Host.Outcome State Fault Refusal :=
  unitAct w (0x18100 + 0x40 * k.val) fun s => s.writeSeqCtrl k.val 2

/-- REFUSAL_FAULT (R338). -/
def execRefusalFault (k : Seq) : State → Host.Outcome State Fault Refusal :=
  act fun s => if s.seqIslandOn k.val then s.seqRefusal k.val else s

def runCode : RunState → Nat
  | .stopped => 0
  | .running => 1
  | .stalled => 2
  | .waiting => 3
  | .faulted => 4

/-- SEQk_STAT (R321). -/
def State.seqStat (s : State) (k : Nat) : BitVec 64 :=
  let q := s.seqOf k
  BitVec.ofNat 64 (runCode q.state + 8 * q.opened.toNat + 16 * q.ns.toNat + 2 ^ 5 * q.sqcnt + 2 ^ 8 * q.cause.toNat +
    2 ^ 16 * q.queue.length + 2 ^ 32 * q.faultpc.toNat)

/-! ## ALU (R325, R327, R328) -/

/-- A register-format ALU operation. -/
def State.seqAlu (s : State) (k : Nat) (gd : GReg) (x y : SeqSt → BitVec 64) (ok : Bool)
    (f : BitVec 64 → BitVec 64 → BitVec 64 × BitVec 4) : State :=
  s.seqReg k ok fun q =>
    let (r, fl) := f (x q) (y q)
    (q.setG gd r).setZncv fl

/-- An operation on two registers. -/
def State.seqRR (s : State) (k : Nat) (gd ga gb : GReg) (f : BitVec 64 → BitVec 64 → BitVec 64 × BitVec 4) : State :=
  s.seqAlu k gd (·.reg ga) (·.reg gb) true f

def execSeqAdd (k : Seq) (gd ga gb : GReg) : State → Host.Outcome State Fault Refusal :=
  act fun s => s.seqRR k.val gd ga gb addFlags
def execSeqSub (k : Seq) (gd ga gb : GReg) : State → Host.Outcome State Fault Refusal :=
  act fun s => s.seqRR k.val gd ga gb subFlags
def execSeqAnd (k : Seq) (gd ga gb : GReg) : State → Host.Outcome State Fault Refusal :=
  act fun s => s.seqRR k.val gd ga gb fun p q => aluFlags (p &&& q)
def execSeqOr (k : Seq) (gd ga gb : GReg) : State → Host.Outcome State Fault Refusal :=
  act fun s => s.seqRR k.val gd ga gb fun p q => aluFlags (p ||| q)
def execSeqXor (k : Seq) (gd ga gb : GReg) : State → Host.Outcome State Fault Refusal :=
  act fun s => s.seqRR k.val gd ga gb fun p q => aluFlags (p ^^^ q)
def execSeqSll (k : Seq) (gd ga gb : GReg) : State → Host.Outcome State Fault Refusal :=
  act fun s => s.seqRR k.val gd ga gb fun p q => aluFlags (p <<< fld q 0 6)
def execSeqSrl (k : Seq) (gd ga gb : GReg) : State → Host.Outcome State Fault Refusal :=
  act fun s => s.seqRR k.val gd ga gb fun p q => aluFlags (p >>> fld q 0 6)
def execSeqSra (k : Seq) (gd ga gb : GReg) : State → Host.Outcome State Fault Refusal :=
  act fun s => s.seqRR k.val gd ga gb fun p q => aluFlags (p.sshiftRight (fld q 0 6))
def execSeqMul (k : Seq) (gd ga gb : GReg) : State → Host.Outcome State Fault Refusal :=
  act fun s => s.seqRR k.val gd ga gb fun p q => aluFlags (p * q)
def execSeqSlt (k : Seq) (gd ga gb : GReg) : State → Host.Outcome State Fault Refusal :=
  act fun s => s.seqRR k.val gd ga gb fun p q => aluFlags (if p.toInt < q.toInt then 1 else 0)
def execSeqSltu (k : Seq) (gd ga gb : GReg) : State → Host.Outcome State Fault Refusal :=
  act fun s => s.seqRR k.val gd ga gb fun p q => aluFlags (if p.toNat < q.toNat then 1 else 0)
def execSeqMin (k : Seq) (gd ga gb : GReg) : State → Host.Outcome State Fault Refusal :=
  act fun s => s.seqRR k.val gd ga gb fun p q => aluFlags (if p.toInt < q.toInt then p else q)
def execSeqMax (k : Seq) (gd ga gb : GReg) : State → Host.Outcome State Fault Refusal :=
  act fun s => s.seqRR k.val gd ga gb fun p q => aluFlags (if q.toInt < p.toInt then p else q)

/-- lead of two 40-bit air times, sign-extended (R42). -/
def execSeqLead40 (k : Seq) (gd ga gb : GReg) : State → Host.Outcome State Fault Refusal :=
  act fun s => s.seqRR k.val gd ga gb fun p q =>
    aluFlags ((p.truncate 40 - q.truncate 40 : BitVec 40).signExtend 64)
def execSeqAdd40 (k : Seq) (gd ga gb : GReg) : State → Host.Outcome State Fault Refusal :=
  act fun s => s.seqRR k.val gd ga gb fun p q => aluFlags ((p + q) &&& 0xFFFFFFFFFF)
def execSeqDivu (k : Seq) (gd ga gb : GReg) : State → Host.Outcome State Fault Refusal :=
  act fun s => s.seqRR k.val gd ga gb fun p q =>
    aluFlags (if q = 0 then 0xFFFFFFFFFFFFFFFF else BitVec.ofNat 64 (p.toNat / q.toNat))

def execSeqAddi (k : Seq) (gd ga : GReg) (imm : Imm16) : State → Host.Outcome State Fault Refusal :=
  act fun s => s.seqAlu k.val gd (·.reg ga) (fun _ => imm.signExtend 64) true addFlags
def execSeqAndi (k : Seq) (gd ga : GReg) (imm : Imm16) : State → Host.Outcome State Fault Refusal :=
  act fun s => s.seqAlu k.val gd (·.reg ga) (fun _ => imm.zeroExtend 64) true fun p q => aluFlags (p &&& q)
def execSeqOri (k : Seq) (gd ga : GReg) (imm : Imm16) : State → Host.Outcome State Fault Refusal :=
  act fun s => s.seqAlu k.val gd (·.reg ga) (fun _ => imm.zeroExtend 64) true fun p q => aluFlags (p ||| q)
def execSeqXori (k : Seq) (gd ga : GReg) (imm : Imm16) : State → Host.Outcome State Fault Refusal :=
  act fun s => s.seqAlu k.val gd (·.reg ga) (fun _ => imm.zeroExtend 64) true fun p q => aluFlags (p ^^^ q)

/-- SHI: imm[7:6] selects the shift, imm[15:8] is zero. -/
def execSeqShi (k : Seq) (gd ga : GReg) (imm : Imm16) : State → Host.Outcome State Fault Refusal :=
  act fun s =>
    s.seqAlu k.val gd (·.reg ga) (fun _ => 0) (fld imm 8 8 = 0 && fld imm 6 2 ≠ 3) fun p _ =>
      let n := fld imm 0 6
      aluFlags (match fld imm 6 2 with
        | 0 => p <<< n
        | 1 => p >>> n
        | _ => p.sshiftRight n)

/-- SETW and SHOR leave the flags. -/
def execSeqSetw (k : Seq) (gd ga : GReg) (imm : Imm16) : State → Host.Outcome State Fault Refusal :=
  act fun s => s.seqReg k.val (ga = 0) fun q => q.setG gd (imm.signExtend 64)
def execSeqShor (k : Seq) (gd ga : GReg) (imm : Imm16) : State → Host.Outcome State Fault Refusal :=
  act fun s => s.seqReg k.val true fun q => q.setG gd ((q.reg ga <<< 16) ||| imm.zeroExtend 64)

def extPos (imm : Imm16) : Nat := fld imm 0 6
def extLen (imm : Imm16) : Nat := fld imm 6 6 + 1
def extOk (imm : Imm16) : Bool := fld imm 12 4 = 0 && extPos imm + extLen imm ≤ 64

def execSeqExt (k : Seq) (gd ga : GReg) (imm : Imm16) : State → Host.Outcome State Fault Refusal :=
  act fun s => s.seqAlu k.val gd (·.reg ga) (fun _ => 0) (extOk imm) fun p _ =>
    aluFlags (BitVec.ofNat 64 (fld p (extPos imm) (extLen imm)))
def execSeqIns (k : Seq) (gd ga : GReg) (imm : Imm16) : State → Host.Outcome State Fault Refusal :=
  act fun s => s.seqAlu k.val gd (·.reg ga) (·.reg gd) (extOk imm) fun p d =>
    aluFlags (setFld d (extPos imm) (extLen imm) p.toNat)

/-! ## Branches (R330) -/

/-- Condition codes of the sequencers; none for an undefined one. -/
def seqCond (q : SeqSt) (cond : Nat) : Option Bool :=
  match cond with
  | 11 => some (q.flag 4)
  | 12 => some (!q.flag 4)
  | 13 => some (q.flag 5)
  | 14 => some (!q.flag 5)
  | 15 => some (q.flag 6)
  | 16 => some (!q.flag 6)
  | 17 => some (q.flag 7)
  | 18 => some (!q.flag 7)
  | c => aluCond q.zncv c

def execSeqBr (k : Seq) (cond : BitVec 5) (off : BitVec 21) : State → Host.Outcome State Fault Refusal :=
  act fun s => s.seqIssue k.val (seqCond (s.seqOf k.val) cond.toNat).isSome fun q s =>
    if seqCond q cond.toNat = some true then s.seqGoto k.val (q.pc.toNat + off.toInt * 4) else s.seqNext k.val

def execSeqBl (k : Seq) (gd : GReg) (off : BitVec 21) : State → Host.Outcome State Fault Refusal :=
  act fun s => s.seqIssue k.val (gd = 0) fun q s =>
    (s.setSeq k.val (q.setG 31 (BitVec.ofNat 64 (q.pc.toNat + 4)))).seqGoto k.val (q.pc.toNat + off.toInt * 4)

def execSeqJumpr (k : Seq) (gd ga gb : GReg) (func : BitVec 11) : State → Host.Outcome State Fault Refusal :=
  act fun s => s.seqIssue k.val (gb = 0 && func = 0) fun q s =>
    let t := (q.reg ga).toNat
    if t % 4 ≠ 0 then s.seqFault k.val 2
    else (s.setSeq k.val (q.setG gd (BitVec.ofNat 64 (q.pc.toNat + 4)))).seqGoto k.val t

/-- RBR with a sense. -/
def State.seqRbr (s : State) (k : Nat) (gdhi : BitVec 4) (ga : GReg) (imm : Imm16) (sense : Bool) : State :=
  s.seqIssue k (gdhi = 0) fun q s =>
    if decide (q.reg ga ≠ 0) = sense then s.seqGoto k (q.pc.toNat + imm.toInt * 4) else s.seqNext k

def execSeqRbz (k : Seq) (gdhi : BitVec 4) (ga : GReg) (imm : Imm16) : State → Host.Outcome State Fault Refusal :=
  act fun s => s.seqRbr k.val gdhi ga imm false
def execSeqRbnz (k : Seq) (gdhi : BitVec 4) (ga : GReg) (imm : Imm16) : State → Host.Outcome State Fault Refusal :=
  act fun s => s.seqRbr k.val gdhi ga imm true

/-! ## Time and special registers (R299, R331) -/

/-- Stalls until the lead of an air time is at most a bound. -/
def State.seqWait (s : State) (k : Nat) (a : Air) (bound : Nat) : State :=
  if lead a s.now ≤ bound then s.seqNext k
  else s.setSeq k { s.seqOf k with state := .stalled, stall := .time a bound }

def execSeqAt (k : Seq) (gd ga gb : GReg) (func : BitVec 11) : State → Host.Outcome State Fault Refusal :=
  act fun s => s.seqIssue k.val (gd = 0 && gb = 0 && func = 0) fun q s =>
    s.seqWait k.val ((q.reg ga).truncate 40) q.leadMax.toNat
def execSeqWaitt (k : Seq) (gd ga gb : GReg) (func : BitVec 11) : State → Host.Outcome State Fault Refusal :=
  act fun s => s.seqIssue k.val (gd = 0 && gb = 0 && func = 0) fun q s =>
    s.seqWait k.val ((q.reg ga).truncate 40) 0

/-- The CKPT register. -/
def SeqSt.ckpt (q : SeqSt) : Nat :=
  q.slot.toNat + 2 ^ 40 * q.opened.toNat + 2 ^ 41 * q.ns.toNat + 2 ^ 42 * q.sqcnt + 2 ^ 44 * q.resume.toNat

def isEpochSel (sel : Nat) : Bool := decide (0x20 ≤ sel ∧ sel ≤ 0x3F)

def execSeqMfs (k : Seq) (gd ga : GReg) (sel : Imm16) : State → Host.Outcome State Fault Refusal :=
  act fun s =>
    let n := sel.toNat
    s.seqReg k.val (ga = 0 && (n ≤ 3 || isEpochSel n)) fun q =>
      q.setG gd (BitVec.ofNat 64 (match n with
        | 0 => s.now.toNat
        | 1 => q.leadMax.toNat
        | 2 => q.ckpt
        | 3 => q.f.toNat
        | n => (q.epochOf (n - 0x20)).toNat))

def execSeqMts (k : Seq) (gd ga : GReg) (sel : Imm16) : State → Host.Outcome State Fault Refusal :=
  act fun s =>
    let n := sel.toNat
    s.seqIssue k.val (gd = 0 && (n = 1 || n = 3 || isEpochSel n)) fun q s =>
      let v := q.reg ga
      if isEpochSel n && q.opened then s.seqFault k.val 0xA
      else
        let q := match n with
          | 1 => if 65536 ≤ v.toNat ∧ v.toNat ≤ 15728640 then { q with leadMax := v.truncate 24 } else q
          | 3 => q.setZncv (v.truncate 4)
          | n => q.setEpoch (n - 0x20) (v.truncate 8)
        (s.setSeq k.val q).seqNext k.val

/-! ## Sections (R305, R336) -/

/-- Takes the oldest section into a register quad. -/
def SeqSt.take (q : SeqSt) (gd : GReg) (x : Section) (rest : List Section) : SeqSt :=
  let q := { q with queue := rest, f := setBit (setBit q.f 4 false) 5 x.bad }
  (((q.setG gd (x.record.truncate 64)).setG (gd + 1) ((x.record >>> 64).truncate 64)).setG (gd + 2) x.tag).setG (gd + 3)
    (x.list.zeroExtend 64)

def State.seqRecv (s : State) (k : Nat) (gd ga gb : GReg) (func : BitVec 11) (nb : Bool) : State :=
  s.seqIssue k (ga = 0 && gb = 0 && func.toNat < 2) fun q s =>
    if 28 < gd.toNat then s.seqFault k 0xB
    else
      match q.queue with
      | x :: rest => (s.setSeq k (q.take gd x rest)).seqNext k
      | [] =>
        if nb then (s.setSeq k { q with f := setBit q.f 4 true }).seqNext k
        else s.setSeq k { q with state := .stalled, stall := .recv gd.toNat }

def execSeqRecv (k : Seq) (gd ga gb : GReg) (func : BitVec 11) : State → Host.Outcome State Fault Refusal :=
  act fun s => s.seqRecv k.val gd ga gb (setBit func 0 false) false
def execSeqRecvNb (k : Seq) (gd ga gb : GReg) (func : BitVec 11) : State → Host.Outcome State Fault Refusal :=
  act fun s => s.seqRecv k.val gd ga gb (setBit func 0 true) true

/-! ## Events (R310, R336) -/

def execSeqEvRaise (k : Seq) (gd ga gb : GReg) (func : BitVec 11) : State → Host.Outcome State Fault Refusal :=
  act fun s => s.seqIssue k.val (gd = 0 && gb = 0 && ga = 0 && fld func 1 10 = 0) fun _ s =>
    (s.signal (26 + k.val)).seqNext k.val

/-- The events that hold back counted occurrences, each with its occurrences so far: none of these ends a wait that begins now. -/
def State.heldEvents (s : State) : List (Nat × Nat) :=
  (s.events.filter fun e => e.2.rep ≠ 0).map fun e => (e.1, e.2.seen)

/-- EV wait: a timeout of zero makes it a poll, which the timeout ends at once. -/
def execSeqEvWait (k : Seq) (gd ga gb : GReg) (func : BitVec 11) : State → Host.Outcome State Fault Refusal :=
  act fun s => s.seqIssue k.val (gd = 0 && gb = 0 && fld func 1 10 = 0) fun q s =>
    let t := (q.reg ga).toNat
    if t = 0 then (s.setSeq k.val { q with f := setBit q.f 7 true }).seqNext k.val
    else s.setSeq k.val { q with state := .waiting, stall := .event (s.clock + t) s.heldEvents }

/-- EV_WAIT_TIMEOUT (R310). A refusal outstanding abandons the wait instead (R338). -/
def execSeqEvWaitTimeout (k : Seq) : State → Host.Outcome State Fault Refusal :=
  act fun s =>
    let q := s.seqOf k.val
    match q.stall with
    | .event t _ =>
      if !s.seqIslandOn k.val || s.clock < t then s
      else if q.refused ≠ [] then s.seqRefusal k.val
      else (s.setSeq k.val { q with f := setBit q.f 7 true }).seqNext k.val
    | _ => s

/-! ## Checkpoints (R311, R317) -/

/-- The registers a checkpoint saves and a squash restores: g1 to g23. -/
def savedOf (g : Table (BitVec 64)) : Table (BitVec 64) := g.filter fun e => e.1 < 24
def keptOf (g : Table (BitVec 64)) : Table (BitVec 64) := g.filter fun e => 24 ≤ e.1

def execSeqCkpt (k : Seq) (gd ga : GReg) (imm : Imm16) : State → Host.Outcome State Fault Refusal :=
  act fun s => s.seqReg k.val (gd = 0) fun q =>
    let a : Air := (q.reg ga).truncate 40
    if q.ns && q.slot = a then q
    else
      let same := q.slot = a
      { q with opened := true, slot := a, sqcnt := if same then q.sqcnt else 0, ns := if same then q.ns else false
               resume := BitVec.ofInt 19 (q.pc.toNat + imm.toInt * 4)
               savedG := savedOf q.g, savedF := q.zncv, spec := [], f := setBit q.f 6 false }

def execSeqSpecoff (k : Seq) (gd ga gb : GReg) (func : BitVec 11) : State → Host.Outcome State Fault Refusal :=
  act fun s => s.seqReg k.val (gd = 0 && ga = 0 && gb = 0 && func = 0) fun q => { q with opened := false, spec := [] }

/-- HALT. -/
def execSeqHalt (k : Seq) (gd ga gb : GReg) (func : BitVec 11) : State → Host.Outcome State Fault Refusal :=
  act fun s => s.seqIssue k.val (gd = 0 && ga = 0 && gb = 0 && func = 0) fun _ s => s.seqStop k.val

end Sys2Proof.Machine
end

