-- ==== Sys2Proof/Machine/Link.lean ====
section
/-! DEFINITION. Link ports: control words, alignment, link reset, credits, acknowledgements and egress (R399-R417, R429). -/

namespace Sys2Proof.Machine
open Sys2Proof

/-! ## Control words (R401) -/

/-- A link control word: type, bytes 1 to 6, and the CRC-8 of those bytes in byte 7. -/
def mkWord (ty : Nat) (content : Nat) : BitVec 64 :=
  BitVec.ofNat 64 (ty + 2 ^ 8 * (content % 2 ^ 48) + 2 ^ 56 * (crc8 (bitList (leBytes 6 content))).toNat)

/-- The word is sound: its CRC-8, and the bits its type leaves zero. -/
def wordOk (w : BitVec 64) : Bool :=
  fld w 56 8 = (crc8 (bitList (leBytes 6 (fld w 8 48)))).toNat &&
  match fld w 0 8 with
  | 0x4B => fld w 32 24 = 0
  | 0x55 => fld w 10 6 = 0 && fld w 48 8 = 0
  | 0x66 => fld w 11 5 = 0 && fld w 32 24 = 0
  | 0x78 => fld w 12 44 = 0
  | _ => false

def creditWordOf (v : Nat) (g : BitVec 32) : BitVec 64 := mkWord 0x55 (v + 2 ^ 8 * g.toNat)
def ackWordOf (v : Nat) (nak : Bool) (q : BitVec 16) : BitVec 64 := mkWord 0x66 (v + nak.toNat * 4 + 2 ^ 8 * q.toNat)
def State.lresetWordOf (s : State) : BitVec 64 := mkWord 0x78 s.devIdx

/-- Queues link control words at a port. -/
def State.queueWords (s : State) (p : Nat) (ws : List (BitVec 64)) : State :=
  let x := s.portOf p
  s.setPort p { x with words := x.words ++ ws }

/-- A protocol error of a port (R401, R406). -/
def State.protErr (s : State) (p : Nat) : State := (s.bump (cPort p 1)).signal 68

/-- A control word other than ALIGN that comes on a native port ahead of a frame's last block cuts that frame off: it is
discarded as truncated and counted, and the word is acted on all the same (R402). -/
def State.cutFrame (s : State) (p : Nat) (cut : Bool) : State := if cut && decide (p ≤ 1) then s.protErr p else s

/-- A link control word is presented at a port: `f` is what it does once it has come in (R390). -/
def State.wordIn (s : State) (p : Nat) (w : BitVec 64) (f : State → State) : State :=
  match s.portIn p (.word p w) with
  | some s => f s
  | none => s

/-! ## Credits (R408) -/

/-- Units a frame uses. -/
def frameUnits (len : Nat) : Nat := ceilDiv (12 + len) 64

/-- Units of receive buffer of a VC (R408). -/
def State.bufferUnits (s : State) (p v : Nat) : Nat :=
  let native := match v with | 0 => 2048 | 1 => 8192 | 2 => 24576 | _ => 8192
  if p ≤ 1 then native
  else max 129 (native / max 1 ((List.range 32).filter s.ethEnabled).length)

/-- CREDIT words for every VC of a port. -/
def State.sendCredits (s : State) (p : Nat) : State :=
  let s := s.queueWords p ((List.range 4).map fun v => creditWordOf v (s.vlOf p v).own)
  s.setPort p { s.portOf p with credSent := s.clock }

/-- Units of a VC are freed: a CREDIT word follows (R408). -/
def State.freeUnits (s : State) (p v n : Nat) : State :=
  let x := s.vlOf p v
  let own := x.own + BitVec.ofNat 32 n
  (s.setVl p v { x with own := own }).queueWords p [creditWordOf v own]

/-- The head of a VC's egress queue holds its credit. -/
def VcLink.hasCredit (x : VcLink) (units : Nat) : Bool := units ≤ (x.grant - x.used).toNat

/-! ## Port states (R400, R407, R416) -/

/-- The port enters INIT: eight LRESET words and the first CREDIT words go out, and every count starts anew. -/
def State.enterInit (s : State) (p : Nat) : State :=
  let s := (List.range 4).foldl (fun s v =>
    s.setVl p v { own := BitVec.ofNat 32 (s.bufferUnits p v), grew := s.clock, ackFrom := s.clock, queue := (s.vlOf p v).queue }) s
  let x := s.portOf p
  let s := s.setPort p { x with state := .init, lresetTx := 0, lresetRx := false, aligned := [], periods := 0, failed := 0, round := []
                                words := List.replicate 8 s.lresetWordOf }
  s.sendCredits p

/-- PORT_ALIGNING (R407): every lane has block lock; an Ethernet port with its PCS link up goes on to INIT at once. -/
def execPortAligning (p : LPort) : State → Host.Outcome State Fault Refusal :=
  act fun s =>
    let x := s.portOf p.val
    let ls := s.portLanes p.val
    if x.state ≠ .down || s.isFenced 8 || ls.isEmpty then s
    else if p.val ≤ 1 then
      if ls.all fun l => (s.laneOf l).blocklock then s.setPort p.val { x with state := .aligning } else s
    else if x.pcs then s.enterInit p.val else s

/-- ALIGN_WORD (R400, R401, R407): two periods in a row in which every lane shows ALIGN within 32 blocks give alignment; four
without success are counted; a later word misplaced by more takes the port down. -/
def execAlignWord (p : LPort) (w : BitVec 64) (seen : AlignSeen) : State → Host.Outcome State Fault Refusal :=
  act fun s => s.wordIn p.val w fun s =>
    let x := s.portOf p.val
    let ls := s.portLanes p.val
    if 1 < p.val || seen.lane.val ∉ ls then s
    else if fld w 0 8 ≠ 0x4B || !wordOk w then s.protErr p.val
    else
      match x.state with
      | .down => s
      | .aligning =>
        let fail := fun (again : List Nat) =>
          if x.failed + 1 ≥ 4 then
            (s.setPort p.val { x with aligned := again, periods := 0, failed := 0 }).bump (cPort p.val 1)
          else s.setPort p.val { x with aligned := again, periods := 0, failed := x.failed + 1 }
        if 32 < seen.skew then fail []
        else if seen.lane.val ∈ x.aligned then fail [seen.lane.val]
        else
          let al := x.aligned ++ [seen.lane.val]
          if al.length < ls.length then s.setPort p.val { x with aligned := al }
          else if x.periods + 1 < 2 then s.setPort p.val { x with aligned := [], periods := x.periods + 1 }
          else s.enterInit p.val
      | _ => if 32 < seen.skew then s.portDown p.val else s

/-- ALIGN_SEND (R400): every lane of a native port sends an ALIGN word. -/
def execAlignSend (p : LPort) : State → Host.Outcome State Fault Refusal :=
  act fun s =>
    let x := s.portOf p.val
    if 1 < p.val || x.state = .down then s
    else
      let s := s.setPort p.val { x with alignCnt := x.alignCnt + 1 }
      (s.portLanes p.val).zipIdx.foldl (fun s l =>
        let w := mkWord 0x4B (l.2 + 2 ^ 8 * x.alignCnt.toNat)
        (s.portOut p.val (.word p.val w)).laneBlock l.1 (controlBlock w)) s

/-- Header of a management response: STATUS, and the request's ID, COUNT and ADDR (R421). -/
def rspHead (status h : Nat) : Bytes :=
  leBytes 16 (status + 2 ^ 8 * nbits h 8 8 + 2 ^ 16 * nbits h 16 13 + 2 ^ 32 * nbits h 32 40)

/-- Requests that came through port `p` and have not been answered through it are answered once the port is UP again (R416): with
STATUS 5 in place of own responses that have not left, and with STATUS 4 where they were forwarded and are still waited for. -/
def State.lostReplies (s : State) (p : Nat) : State :=
  if p ≠ s.upPort none then s
  else
    let hdr := linkHdr 3 0 1 0 0 s.devIdx 16
    let lost := fun (f : TxFrame) =>
      fld f.hdr 0 8 = 3 && fld f.hdr 16 4 = s.devIdx && (f.body.headD 0).toNat ≠ 4 && (f.body.headD 0).toNat ≠ 5
    let x := s.vlOf p 0
    let own := x.queue.map fun f => if lost f then { f with hdr := hdr, body := rspHead 5 (leNat (f.body.take 16)) } else f
    let fwd := (s.portOf 1).fwdReqs.map fun h => (⟨hdr, rspHead 4 (leNat (h.take 16)), s.clock⟩ : TxFrame)
    (s.setVl p 0 { x with queue := own ++ fwd }).setPort 1 { s.portOf 1 with fwdReqs := [] }

/-- A link reset (R416). -/
def State.linkReset (s : State) (p : Nat) : State :=
  let x := s.portOf p
  let up := s.upstreamUp
  let s := ((s.bump (cPort p 3)).signal 71).lostReplies p
  (s.enterInit p).partnerLost p (x.state = .up) up

/-- A received LRESET word (R407). -/
def State.takeLreset (s : State) (p : Nat) : State :=
  match (s.portOf p).state with
  | .init => s.setPort p { s.portOf p with lresetRx := true }
  | .up =>
    let s := s.linkReset p
    s.setPort p { s.portOf p with lresetRx := true }
  | _ => s

/-- LRESET_WORD (R407). -/
def execLresetWord (p : LPort) (cut : Bool) (w : BitVec 64) : State → Host.Outcome State Fault Refusal :=
  act fun s => s.wordIn p.val w fun s =>
    let s := s.cutFrame p.val cut
    if (s.portOf p.val).state = .down then s
    else if fld w 0 8 ≠ 0x78 || !wordOk w then s.protErr p.val
    else s.takeLreset p.val

/-- PORT_UP (R407, R408, R413): LRESET has been exchanged and credit received on every VC. -/
def execPortUp (p : LPort) : State → Host.Outcome State Fault Refusal :=
  act fun s =>
    let x := s.portOf p.val
    if x.state = .init && x.lresetRx && decide (8 ≤ x.lresetTx) && ((List.range 4).all fun v => (s.vlOf p.val v).credit) then
      let s := (List.range 4).foldl (fun s v => s.setVl p.val v { s.vlOf p.val v with ackFrom := s.clock, grew := s.clock }) s
      s.setPort p.val { s.portOf p.val with state := .up }
    else s

/-- CREDIT_WORD (R408): the cumulative grant of a VC. -/
def State.takeCredit (s : State) (p : Nat) (w : BitVec 64) : State :=
  let v := fld w 8 2
  let x := s.vlOf p v
  let g := BitVec.ofNat 32 (fld w 16 32)
  s.setVl p v { x with credit := true, grant := g, grew := if g = x.grant then x.grew else s.clock }

def execCreditWord (p : LPort) (cut : Bool) (w : BitVec 64) : State → Host.Outcome State Fault Refusal :=
  act fun s => s.wordIn p.val w fun s =>
    let s := s.cutFrame p.val cut
    match (s.portOf p.val).state with
    | .init | .up => if fld w 0 8 ≠ 0x55 || !wordOk w then s.protErr p.val else s.takeCredit p.val w
    | _ => s

/-- Bytes of frequency-domain data in the stream buffer, which holds 16 MiB (R109). -/
def State.streamFull (s : State) : Bool :=
  decide (16777216 ≤ ((s.queue.filter fun x => x.port = .bf && x.item.tag.kind = 1).map fun x => x.item.body.length).sum)

/-- Units of VC2 that a full stream buffer withheld are freed once it has room (R408, R109). -/
def State.freeHeld (s : State) (p : Nat) : State :=
  let x := s.vlOf p 2
  if x.held = 0 || s.streamFull then s else (s.setVl p 2 { x with held := 0 }).freeUnits p 2 x.held

/-- Units of a received frame of VC2 are freed as it moves into the stream buffer, or withheld while that is full. -/
def State.freeVc2 (s : State) (p n : Nat) : State :=
  let x := s.vlOf p 2
  (s.setVl p 2 { x with held := x.held + n }).freeHeld p

/-- CREDIT_REFRESH (R408). -/
def execCreditRefresh (p : LPort) : State → Host.Outcome State Fault Refusal :=
  act fun s =>
    match (s.portOf p.val).state with
    | .init | .up => (s.freeHeld p.val).sendCredits p.val
    | _ => s

/-! ## Acknowledgements (R414, R415) -/

/-- Frames up to (not including) `upTo` are acknowledged. -/
def State.ackUpTo (s : State) (p v : Nat) (upTo : BitVec 16) : State :=
  let x := s.vlOf p v
  let oldest := x.txSeq - BitVec.ofNat 16 x.unacked.length
  let n := (upTo - oldest).toNat
  if 1 ≤ n ∧ n ≤ x.unacked.length then
    let left := x.unacked.drop n
    s.setVl p v { x with unacked := left, resend := min x.resend left.length, goback := 0, ackFrom := s.clock }
  else s

/-- A go-back; in place of the 16th in a run the link is reset (R415). -/
def State.goBack (s : State) (p v : Nat) : State :=
  let x := s.vlOf p v
  let s := s.bump (cPort p 2)
  if x.goback + 1 ≥ 16 then s.linkReset p
  else s.setVl p v { x with resend := x.unacked.length, goback := x.goback + 1, ackFrom := s.clock }

def State.takeAck (s : State) (p : Nat) (w : BitVec 64) : State :=
  let v := fld w 8 2
  let q := BitVec.ofNat 16 (fld w 16 16)
  if v = 2 then s
  else if w.getLsbD 10 then (s.ackUpTo p v q).goBack p v
  else s.ackUpTo p v (q + 1)

/-- ACK_WORD (R414): every frame up to its SEQ is acknowledged; the row's word has NAK clear. -/
def execAckWord (p : LPort) (cut : Bool) (w : BitVec 64) : State → Host.Outcome State Fault Refusal :=
  act fun s => s.wordIn p.val w fun s =>
    let s := s.cutFrame p.val cut
    if !s.portUp p.val then s
    else if fld w 0 8 ≠ 0x66 || !wordOk w || w.getLsbD 10 then s.protErr p.val
    else s.takeAck p.val w

/-- NAK_WORD (R414, R415): every frame before its SEQ is acknowledged, and the sender goes back. -/
def execNakWord (p : LPort) (cut : Bool) (w : BitVec 64) : State → Host.Outcome State Fault Refusal :=
  act fun s => s.wordIn p.val w fun s =>
    let s := s.cutFrame p.val cut
    if !s.portUp p.val then s
    else if fld w 0 8 ≠ 0x66 || !wordOk w || !w.getLsbD 10 then s.protErr p.val
    else s.takeAck p.val w

/-- Timeouts of LANE_PORTCFG; 0 is taken as 1 (R432). -/
def State.ackTo (s : State) : Nat := 1024 * max 1 (fld (s.reg rLanePortcfg) 8 8)
def State.credTo (s : State) : Nat := 1024 * max 1 (fld (s.reg rLanePortcfg) 16 9)

/-- ACK_TIMEOUT (R415). -/
def execAckTimeout (p : LPort) (v : VChan) : State → Host.Outcome State Fault Refusal :=
  act fun s =>
    let x := s.vlOf p.val v.val
    if s.portUp p.val && v.val ≠ 2 && !x.unacked.isEmpty && decide (x.ackFrom + s.ackTo ≤ s.clock) then s.goBack p.val v.val else s

/-- CREDIT_TIMEOUT (R410): frames wait and the grant has not grown. -/
def execCreditTimeout (p : LPort) (v : VChan) : State → Host.Outcome State Fault Refusal :=
  act fun s =>
    let x := s.vlOf p.val v.val
    match x.queue.head? with
    | some f =>
      if s.portUp p.val && v.val ≠ 2 && !x.hasCredit (frameUnits f.body.length) && decide (max x.grew f.ready + s.credTo ≤ s.clock) then
        (s.signal 69).linkReset p.val
      else s
    | none => s

/-- VC2_WAIT_EXPIRY (R411). -/
def execVc2WaitExpiry (p : LPort) : State → Host.Outcome State Fault Refusal :=
  act fun s =>
    let x := s.vlOf p.val 2
    match x.queue with
    | f :: fs =>
      if !x.hasCredit (frameUnits f.body.length) && decide (f.ready + s.vc2Wait ≤ s.clock) then
        (s.setVl p.val 2 { x with queue := fs }).bump (cPort p.val 5)
      else s
    | [] => s

/-! ## Egress (R412-R415, R447) -/

/-- Correction units of a number of ticks, rounded half up (R433). -/
def corrUnits (tk : Int) : Int := (2 * tk * 50000 + 3) / 6

/-- Big-endian bytes, as IEEE 1588 orders its fields (R443). -/
def beBytes (n v : Nat) : Bytes := (leBytes n v).reverse
def beNat (b : Bytes) : Nat := leNat b.reverse

/-- A 1588 message with `n` correction units added. -/
def addCorrection (m : Bytes) (n : Int) : Bytes :=
  let old := sfield (beNat (slice m 8 8)) 64
  m.take 8 ++ beBytes 8 (toTwos 64 (old + n)) ++ m.drop 16

/-- The message is a Sync (0) or a Delay_Req (1). -/
def syncOrReq (m : Bytes) : Bool := pbits m 0 4 ≤ 1

/-- The body a frame leaves with: a forwarded 1588 event message gets its residence time (R447). -/
def State.egressBody (s : State) (f : TxFrame) : Bytes :=
  if fld f.hdr 0 8 = 6 && pbits f.body 0 8 = 0 && syncOrReq (f.body.drop 8) then
    f.body.take 8 ++ addCorrection (f.body.drop 8) (corrUnits ((s.clock - f.ready : Nat) : Int))
  else f.body

/-- A frame leaves with its SEQ (R413). -/
def State.putFrame (s : State) (p : Nat) (f : TxFrame) (q : BitVec 16) : State :=
  s.sendFrame p (setFld f.hdr 40 16 q.toNat) f.body

/-- The VC has a frame that may leave: one to be sent again, or a new one with its credit and room for it (R415). -/
def VcLink.maySend (x : VcLink) (v : Nat) : Bool :=
  0 < x.resend ||
  match x.queue.head? with
  | some f => x.hasCredit (frameUnits f.body.length) && (v = 2 || decide (x.unacked.length < 256))
  | none => false

/-- Sends the next frame of a VC; the units it used. -/
def State.sendVc (s : State) (p v : Nat) : State × Nat :=
  let x := s.vlOf p v
  if 0 < x.resend then
    match x.unacked[x.unacked.length - x.resend]? with
    | some f =>
      ((s.setVl p v { x with resend := x.resend - 1 }).putFrame p f (x.txSeq - BitVec.ofNat 16 x.resend), frameUnits f.body.length)
    | none => (s, 0)
  else
    match x.queue with
    | f :: fs =>
      let f := { f with body := s.egressBody f }
      let n := frameUnits f.body.length
      let x := { x with queue := fs, txSeq := x.txSeq + 1, used := x.used + BitVec.ofNat 32 n
                        unacked := if v = 2 then x.unacked else x.unacked ++ [f]
                        ackFrom := if x.unacked.isEmpty then s.clock else x.ackFrom }
      ((s.setVl p v x).putFrame p f (x.txSeq - 1), n)
    | [] => (s, 0)

/-- Weight of a VC in the round robin (R412). -/
def vcWeight : Nat → Nat
  | 2 => 8
  | 0 => 2
  | _ => 1

/-- The VC that the weighted round robin serves: one that has waited behind eight frames, else the one that has had least for
its weight (R412). -/
def State.pickVc (s : State) (p : Nat) : Option Nat :=
  let r := (s.portOf p).round
  let got := fun v => tget (fun _ => 0) r v
  let ready := [2, 0, 3].filter fun v => (s.vlOf p v).maySend v
  match ready.find? fun v => 8 ≤ tget (fun _ => 0) r (8 + v) with
  | some v => some v
  | none => ready.foldl (fun (a : Option Nat) v =>
      match a with
      | none => some v
      | some b => if got v < got b then some v else a) none

/-- FRAME_SEND (R412): link control words first, then VC1, then VC2, VC0 and VC3 by weight. -/
def execFrameSend (p : LPort) : State → Host.Outcome State Fault Refusal :=
  act fun s =>
    let x := s.portOf p.val
    if x.state ≠ .init && x.state ≠ .up then s
    else if !x.words.isEmpty then
      let n := (x.words.filter fun w => fld w 0 8 = 0x78).length
      (s.setPort p.val { x with words := [], lresetTx := x.lresetTx + n }).sendWords p.val x.words
    else if x.state ≠ .up then s
    else if (s.vlOf p.val 1).maySend 1 then (s.sendVc p.val 1).1
    else
      match s.pickVc p.val with
      | none => s
      | some v =>
        let others := [2, 0, 3].filter fun u => u ≠ v && (s.vlOf p.val u).maySend u
        let (s, n) := s.sendVc p.val v
        let x := s.portOf p.val
        let r := tput (fun _ => 0) v (tget (fun _ => 0) x.round v + n * 8 / vcWeight v) x.round
        let r := others.foldl (fun r u => tput (fun _ => 0) (8 + u) (tget (fun _ => 0) r (8 + u) + 1) r) (tput (fun _ => 0) (8 + v) 0 r)
        s.setPort p.val { x with round := r }

/-- PCS_LINK_CHANGE (R429, R431): the PCS link of an Ethernet port goes up or down. -/
def execPcsLinkChange (p : LPort) (up : Bool) : State → Host.Outcome State Fault Refusal :=
  act fun s =>
    if p.val < 2 || !s.ethEnabled (p.val - 2) || (s.portOf p.val).pcs = up then s
    else
      let s := s.setPort p.val { s.portOf p.val with pcs := up }
      let s := if up then s else s.portDown p.val
      s.signal (74 + (p.val - 2) / 8)

/-- LANE_PORTSTAT (R432). -/
def portCode : PortState → Nat
  | .down => 0
  | .aligning => 1
  | .init => 2
  | .up => 3

def State.portStat (s : State) : BitVec 64 :=
  BitVec.ofNat 64 (portCode (s.portOf 0).state + portCode (s.portOf 1).state * 4 +
    (((List.range 32).filter fun e => s.portUp (2 + e)).map fun e => 2 ^ (32 + e)).sum)

end Sys2Proof.Machine
end

