-- ==== Sys2Proof/Machine/Stops.lean ====
section
/-! DEFINITION. STOP and resume items, path sparing, quiescence, squashes and markers (R63-R71, R106, R181-R183, R588). -/

namespace Sys2Proof.Machine
open Sys2Proof

/-! ## Payload of a STOP (R342) -/

def stopFuncs (b : Bytes) : List Nat := bitsSet (pbits b 32 32) 32
def stopMask (b : Bytes) : BitVec 64 := BitVec.ofNat 64 (pbits b 64 64)
def isPathFn (f : Nat) : Bool := f = 17 || f = 18
/-- Tiles that hold a path of a mask. -/
def maskTiles (m : BitVec 64) : List Nat := allTiles.filter fun t => m.toNat / 2 ^ (16 * t) % 65536 ≠ 0

/-! ## Discards (R64, R68) -/

/-- What discarded items of a tile had placed ahead of their time: receive switches, and RFFE groups that have not begun (R159, R270,
R275). An item is known by its tag. -/
def State.discardPlaced (s : State) (t : Nat) (gone : List Tag) : State :=
  let s : State := { s with fe := { s.fe with rxSched := s.fe.rxSched.filter fun x => !(quadTile x.quad = t && gone.contains x.tag) } }
  [2 * t, 2 * t + 1].foldl (fun s b => s.setGroups b ((s.groupsOf b).filter fun g => !(!g.begun && !g.safety && gone.contains g.tag))) s

/-- Discards the queued items of a stage for which `p` holds, and what they had placed, counting each. -/
def State.discardQueued (s : State) (port : Port) (t : Nat) (p : QItem → Bool) : State :=
  let hit := fun (x : QItem) => x.port = port && x.tile = t && p x
  let gone := (s.queue.filter hit).map fun x => x.item.tag
  let s := ({ s with queue := s.queue.filter fun x => !hit x } : State).bumpBy (domCounter port t .discard) gone.length
  if (port = .fe || port = .flt) && !gone.isEmpty then s.discardPlaced t gone else s

/-- Discards declarations for which `p` holds, counting each; a receive declaration leaves its symbol without UL_DATA, counted
in BEAM_MISSCNT (R172). What they were charged under R76 stays charged (DESIGN CHOICE, log entry 41). -/
def State.discardDecls (s : State) (p : Decl → Bool) : State :=
  let gone := s.decls.filter p
  let s := ({ s with decls := s.decls.filter fun d => !p d } : State).bumpBy (domCounter .bf 0 .discard) gone.length
  s.bumpBy (cBeam 4) (gone.filter fun d => decide (d.dir = Dir.rx)).length

def State.discardWins (s : State) (p : SrsWin → Bool) : State :=
  let n := (s.rx.wins.filter p).length
  ({ s with rx := { s.rx with wins := s.rx.wins.filter fun w => !p w } } : State).bumpBy (domCounter .bf 0 .discard) n

def State.discardSpans (s : State) (t : Nat) (p : TdSpan → Bool) : State :=
  { s with tdSpans := s.tdSpans.filter fun x => !(tileOfPath x.path = t && p x) }

/-- Pending commits for which `p` holds are discarded, counted, and their builds abandoned (R230, R232). -/
def State.discardCommits (s : State) (p : Dir → BeamCommit → Bool) : State :=
  [Dir.tx, Dir.rx].foldl (fun s d => [Region.baseband, Region.engine].foldl (fun s r =>
    match (s.regionSt d r).pend with
    | some c => if p d c then (s.abandonCommit d r).bump (domCounter .bf 0 .discard) else s
    | none => s) s) s

/-! ## STOP items (R68-R71, R106, R181) -/

/-- Everything of function `f` at tile `t` with air time at or after `a` is discarded (R68, R614). Blocks that link egress is
still to send are discarded as they would leave (`State.sendTagged`). -/
def State.discardFrom (s : State) (p : Port) (t f : Nat) (a : Air) : State :=
  let at_ := fun (x : Air) => decide (airDiff x a ≥ 0)
  let s := s.discardQueued p t fun x => itemFn p x.item = some f && at_ x.item.tag.air
  match f with
  | 1 => s.discardDecls fun d => decide (d.dir = Dir.tx) && at_ d.air
  | 2 =>
    let n := (s.rx.parts.filter fun x => at_ x.tag.air).length
    (({ s with rx := { s.rx with parts := s.rx.parts.filter fun x => !at_ x.tag.air } } : State).bumpBy (domCounter .bf 0 .discard)
      n).discardDecls fun d => decide (d.dir = Dir.rx) && at_ d.air
  | 3 => s.discardWins fun w => at_ w.air
  | 4 => s.discardCommits fun _ c => at_ c.tag.air
  | 9 => s.discardSpans t fun x => at_ x.air
  | 19 => s.capDiscard fun g => at_ g.air
  | _ => s

/-- The software event of the sequencer, or the event of management firmware, that a STOP asks for (R68, R310, R515). -/
def quietEvent (src : BitVec 4) : Nat := if src.toNat ≤ 4 then 26 + src.toNat else 120

def StopReq.event (x : StopReq) : Bool := pbit x.body 1

/-- One function of a STOP item: it waits beside those received before, and the earliest counts (R70). A function that is
quiescent stays so, and the event that the STOP asks for is raised at once (DESIGN CHOICE, log entry 41). -/
def State.stopFn (s : State) (p : Port) (t f : Nat) (x : StopReq) : State :=
  let k := fnTile f t
  let y := s.fnOf f k
  if y.quiet then (if x.event then s.signal (quietEvent x.tag.source) else s)
  else (s.setFn f k { y with stops := y.stops ++ [x], byReset := false }).discardFrom p t f x.tag.air

/-- A path STOP waits for its own AIRTIME, at every tile that holds a path of its mask (R106, R181). -/
def State.stopPaths (s : State) (f : Nat) (x : StopReq) : State :=
  let m := stopMask x.body
  let s : State := { s with pathStops := s.pathStops ++ [⟨f = 18, m, x.tag⟩] }
  (maskTiles m).foldl (fun s t =>
    let y := s.fnOf f t
    s.setFn f t { y with stops := y.stops ++ [x], byReset := false }) s

/-- A STOP that passed the common checks. A late one stops at its arrival plus its minimum lead (R69). -/
def State.takeStop (s : State) (p : Port) (t : Nat) (it : Item) : State :=
  let (a, s) := match (if it.tag.late then none else s.lateBy p t it) with
    | none => (it.tag.air, s)
    | some m => (airOf ((s.now.toNat : Int) + m), s.bump (domCounter p t .latecnt))
  let x : StopReq := ⟨{ it.tag with air := a }, it.body⟩
  (stopFuncs it.body).foldl (fun s f => if isPathFn f then s.stopPaths f x else s.stopFn p t f x) s

/-- The source may resume the function: the issuer of the STOP it ends, or management firmware, or any source where reset
stopped it (R71, R589). -/
def mayResume (x : FnSt) (src : BitVec 4) : Bool :=
  x.byReset || src = 13 || (if x.stops.isEmpty then x.stopTag.source = src else x.stops.any fun y => y.tag.source = src)

/-- The source may return a path to service: the issuer of the STOP that took it out, or is to, or management firmware (R71). -/
def State.mayReturn (s : State) (rx : Bool) (src : BitVec 4) (p : Nat) : Bool :=
  src = 13 ||
  (if (if rx then s.rxOut else s.txOut).getLsbD p then
    tget (fun _ => 0) s.fe.outBy (if rx then 64 + p else p) = src
  else s.pathStops.all fun y => !(y.rx = rx && y.mask.getLsbD p) || y.tag.source = src)

/-- The source may send the resume item (R71). -/
def State.resumeAllowed (s : State) (t : Nat) (b : Bytes) (src : BitVec 4) : Bool :=
  (stopFuncs b).all fun f =>
    if isPathFn f then (bitsSet (stopMask b).toNat 64).all (s.mayReturn (f = 18) src) else mayResume (s.fnOf f (fnTile f t)) src

/-- The function states a resume item names. -/
def resumeFns (t : Nat) (b : Bytes) : List (Nat × Nat) :=
  (stopFuncs b).flatMap fun f => if isPathFn f then (maskTiles (stopMask b)).map fun t => (f, t) else [(f, fnTile f t)]

/-- A resume item that passed the common checks: QUIESCENT is cleared at once, and the function runs from its AIRTIME (R71). -/
def State.takeResume (s : State) (p : Port) (t : Nat) (it : Item) (pc : BitVec 19) : State :=
  let fs := resumeFns t it.body
  if !s.resumeAllowed t it.body it.tag.source then s.refuse p t it pc
  else
    let (a, late, s) := match (if it.tag.late then none else s.lateBy p t it) with
      | none => (it.tag.air, it.tag.late, s)
      | some m => (airOf ((s.now.toNat : Int) + m), true, s.bump (domCounter p t .latecnt))
    let s := fs.foldl (fun s x =>
      let y := s.fnOf x.1 x.2
      s.setFn x.1 x.2 { y with quiet := false, resumeAt := some a, resumeTag := it.tag }) s
    s.enqueue ⟨p, t, if late then lateItem it else it, a, late, pc⟩

def State.arriveStop (s : State) (p : Port) (t : Nat) (it : Item) : State :=
  s.arrive p t it fun pc s => if pbit it.body 0 then s.takeResume p t it pc else s.takeStop p t it

def execStop (p : Port) (t : Tile) (g : Tag) (body : Bytes) : State → Host.Outcome State Fault Refusal :=
  act fun s => s.arriveStop p (portTile p t.val) (mkItem kStop g (setPay body 0 1 0))
def execStopResume (p : Port) (t : Tile) (g : Tag) (body : Bytes) : State → Host.Outcome State Fault Refusal :=
  act fun s => s.arriveStop p (portTile p t.val) (mkItem kStop g (setPay body 0 1 1))
/-- PATHTX_STOP (R106): the row names function PATHTX. -/
def execPathtxStop (p : Port) (t : Tile) (g : Tag) (body : Bytes) : State → Host.Outcome State Fault Refusal :=
  act fun s => s.arriveStop p (portTile p t.val) (mkItem kStop g (setPay (setPay body 0 1 0) 32 32 (2 ^ 17)))
/-- PATHRX_STOP (R181): the row names function PATHRX. -/
def execPathrxStop (p : Port) (t : Tile) (g : Tag) (body : Bytes) : State → Host.Outcome State Fault Refusal :=
  act fun s => s.arriveStop p (portTile p t.val) (mkItem kStop g (setPay (setPay body 0 1 0) 32 32 (2 ^ 18)))

/-- Paths leave service at tick `a` by a STOP of a source (R106, R181). -/
def State.pathsOut (s : State) (rx : Bool) (m : BitVec 64) (a : Int) (src : BitVec 4) : State :=
  let key := fun p => if rx then 64 + p else p
  let ps := bitsSet m.toNat 64
  let s : State := if rx then { s with rxOut := s.rxOut ||| m } else { s with txOut := s.txOut ||| m }
  let s : State := { s with fe := { s.fe with
    outAt := ps.foldl (fun o p => tput (fun _ => 0) (key p) a.toNat o) s.fe.outAt
    outBy := ps.foldl (fun o p => tput (fun _ => 0) (key p) src o) s.fe.outBy } }
  s.signalAll ((maskTiles m).map fun t => 4 * t + 2)

/-- Paths return to service (R107, R181): the DC stores of a receive path restart from zero, and its canceller is off (R196). -/
def State.pathsIn (s : State) (rx : Bool) (m : BitVec 64) : State :=
  if rx then
    (bitsSet m.toNat 64).foldl State.dcZero { s with
      rxOut := s.rxOut &&& ~~~m, adcOff := s.adcOff &&& ~~~m
      lin := { s.lin with sicOn := s.lin.sicOn &&& ~~~m, sicOff := tdrop (fun p => m.getLsbD p) s.lin.sicOff } }
  else { s with txOut := s.txOut &&& ~~~m, dacOff := s.dacOff &&& ~~~m }

/-- A resume item takes effect (R71). -/
def State.applyResume (s : State) (x : QItem) : State :=
  let b := x.item.body
  let s := (resumeFns x.tile b).foldl (fun s y =>
    let f := s.fnOf y.1 y.2
    let later := f.stops.filter fun r => decide (airDiff x.act r.tag.air < 0)
    let s := if y.1 = 13 || y.1 = 14 then
        let n := 2 * y.2 + (y.1 - 13)
        s.setObs n { s.obsOf n with runFrom := (fullTick x.act s.now).toNat }
      else s
    s.setFn y.1 y.2 { f with stopped := false, quiet := false, byReset := false, stops := later, resumeAt := none }) s
  (stopFuncs b).foldl (fun s f => if isPathFn f then s.pathsIn (f = 18) (stopMask b) else s) s

/-- STOP_TIME_REACHED (R68, R106, R181). -/
def execStopTimeReached (f : FnCode) (t : Tile) : State → Host.Outcome State Fault Refusal :=
  act fun s =>
    let k := fnTile f.val t.val
    let x := s.fnOf f.val k
    match x.stopAt with
    | none => s
    | some a =>
      if lead a s.now > 0 then s
      else if isPathFn f.val then
        let due := fun (y : PathStop) => y.rx = decide (f.val = 18) && decide (lead y.tag.air s.now ≤ 0)
        let s := s.setFn f.val k { x with stopped := true }
        (s.pathStops.filter due).foldl (fun s y => s.pathsOut y.rx y.mask (fullTick y.tag.air s.now) y.tag.source)
          { s with pathStops := s.pathStops.filter fun y => !due y }
      else
        let g := ((x.stops.find? fun y => y.tag.air = a).map StopReq.tag).getD x.stopTag
        let s := s.setFn f.val k { x with stopped := true, stopTag := g }
        if f.val = 19 then s.capEnd g.source else s

/-! ## Quiescence (R68, R588) -/

/-- Paths whose transmit samples a STOP of a function ends: those of its mask for a path STOP. -/
def fnPaths (f t : Nat) (m : BitVec 64) : List Nat :=
  if isPathFn f then (bitsSet m.toNat 64).filter fun p => tileOfPath p = t
  else if 7 ≤ f ∧ f ≤ 16 then (List.range 16).map (16 * t + ·) else List.range 64

/-- Layer blocks with air time before `a` are still to come, or wait for a partial. -/
def State.ulRuns (s : State) (a : Air) : Bool :=
  let before := fun (x : Air) => decide (airDiff x a < 0)
  s.rx.own.any (fun x => before x.blk.air) ||
  s.decls.any fun d => decide (d.dir = Dir.rx) && before d.air && decide ((s.now.toNat : Int) < (s.fftWindow d.car d.air).2)

/-- The function still has output of items with air time before `a` to produce: queued items, transmit spans with their
tails, sounding windows, and layer blocks that wait. -/
def State.stillRuns (s : State) (f t : Nat) (m : BitVec 64) (a : Air) : Bool :=
  let before := fun (x : Air) => decide (airDiff x a < 0)
  let at_ := fullTick a s.now
  s.queue.any (fun x => fnTile f x.tile = t && itemFn x.port x.item = some f && before x.item.tag.air) ||
  match f with
  | 1 | 6 | 7 | 8 | 9 | 16 | 17 =>
    (fnPaths f t m).any fun p => (s.txSpans p).any fun x => decide (x.1 < at_) && decide ((s.now.toNat : Int) < x.2)
  | 2 => s.ulRuns a
  | 3 => s.rx.wins.any fun w => before w.air
  | 21 => s.ulRuns a || s.rx.wins.any fun w => before w.air
  | _ => false

/-- QUIESCENCE (R68): not before the stop time (DESIGN CHOICE, log entry 41). A path STOP whose time lies ahead goes on
waiting. -/
def execQuiescence (f : FnCode) (t : Tile) : State → Host.Outcome State Fault Refusal :=
  act fun s =>
    let k := fnTile f.val t.val
    let x := s.fnOf f.val k
    let waits := fun (y : StopReq) => isPathFn f.val && decide (lead y.tag.air s.now > 0)
    let due := x.stops.filter fun y => !waits y
    let runs := if isPathFn f.val then
        due.any (fun y => s.stillRuns f.val k (stopMask y.body) y.tag.air) ||
          s.pathStops.any fun y => y.rx = decide (f.val = 18) && decide (lead y.tag.air s.now ≤ 0)
      else s.stillRuns f.val k 0 (x.stopAt.getD 0)
    if due.isEmpty || !x.stopped || runs then s
    else
      let s := s.setFn f.val k { x with quiet := x.resumeAt.isNone, stops := x.stops.filter waits }
      s.signalAll ((due.filter StopReq.event).map fun y => quietEvent y.tag.source)

/-! ## Squashes (R63-R67, R70, R71, R127, R183, R232) -/

/-- A tag of the squashed stream, at or after the from-time, with an older epoch. -/
def squashHits (g : Tag) (x : Tag) : Bool := x.stream = g.stream && decide (airDiff x.air g.air ≥ 0) && older x.epoch g.epoch

/-- Carriers for which a squash is late at a stage, with their minimum leads (R66, R613). -/
def State.lateCars (s : State) (p : Port) (t : Nat) (it : Item) : List (Nat × Nat) :=
  ([0, 1, 2, 3].map fun c => (c, s.minLeadFor p t it c)).filter fun x => decide (lead it.tag.air s.now < (x.2 : Int))

/-- What a squash leaves of a function's pending STOPs and resume item. -/
def FnSt.squashed (hits : Tag → Bool) (x : FnSt) : FnSt :=
  let x := { x with stops := x.stops.filter fun y => !hits y.tag }
  match x.resumeAt with
  | some a =>
    if hits { x.resumeTag with air := a } then { x with resumeAt := none, quiet := x.stopped && x.stops.isEmpty } else x
  | none => x

/-- The function states that STOPs of a stage act on. -/
def stopKeys (p : Port) (t : Nat) : List (Nat × Nat) :=
  ((portFns p 4) ++ (portFns p 13)).dedup.flatMap fun f =>
    if isPathFn f then allTiles.map fun k => (f, k) else [(f, fnTile f t)]

/-- Pending STOPs and resume items of a stage that a squash discards: each STOP item is counted once (R64, R70, R71, R106). -/
def State.squashFns (s : State) (p : Port) (t : Nat) (hits : Tag → Bool) : State :=
  let keys := stopKeys p t
  let gone := (keys.flatMap fun k => (s.fnOf k.1 k.2).stops.filter fun y => hits y.tag).dedup
  let s := keys.foldl (fun s k => s.setFn k.1 k.2 ((s.fnOf k.1 k.2).squashed hits)) s
  let s := s.bumpBy (domCounter p t .discard) gone.length
  if p = .fe || p = .pwr then { s with pathStops := s.pathStops.filter fun y => !hits y.tag } else s

/-- Pending swaps of a stage that a squash discards (R127). -/
def State.squashPend (s : State) (p : Port) (t : Nat) (hits : Tag → Bool) : State :=
  let keys := match p with
    | .dpd => (List.range 16).flatMap fun i => [selModel (16 * t + i), selCorr (16 * t + i)]
    | .sic => (List.range 16).map fun i => selSic (16 * t + i)
    | .flt => [Dir.tx, Dir.rx].flatMap fun d => [0, 1, 2, 3].map fun c => selFir t d c
    | _ => []
  keys.foldl (fun s k =>
    let x := s.selOf k
    match x.pend with
    | some y => if hits y.tag then (s.setSel k { x with pend := none }).bump (domCounter p t .discard) else s
    | none => s) s

/-- The item that an accepted declaration came as. -/
def declItem (d : Decl) : Item := ⟨d.tag, leBytes 8 0 ++ leBytes 16 d.record.toNat, 0⟩

/-- The item of one direction that a pending commit came as. -/
def commitItem (d : Dir) (c : BeamCommit) : Item := commitFor ⟨c.tag, [], 0⟩ d

/-- A squash discards an item of a stage: it hits the item, and where the squash is late for the item's carrier the item still has its
own minimum lead (R64, R66, R613). An item that names no carrier falls under every carrier the squash is late for. -/
def State.squashTakes (s : State) (p : Port) (t : Nat) (g : Tag) (lates : List Nat) (x : Item) : Bool :=
  let late := if noMu x.tag.kind then !lates.isEmpty else lates.contains (itemCar x)
  squashHits g x.tag && (!late || (s.lateBy p t x).isNone)

/-- Declarations and sounding windows that a squash meets at the beamformer: one that is late for their carrier leaves those whose FFT
window has begun, marked LATE, and the transmit declarations without lead (R66, R183). -/
def State.squashBeam (s : State) (g : Tag) (lates : List Nat) : State :=
  let begun := fun (c : Nat) (a : Air) => lates.contains c && decide ((s.fftWindow c a).1 ≤ (s.now.toNat : Int))
  let gone := fun (d : Decl) => match d.dir with
    | .tx => s.squashTakes .bf 0 g lates (declItem d)
    | .rx => squashHits g d.tag && !begun d.car d.air
  let goneW := fun (w : SrsWin) => squashHits g w.tag && !begun w.car w.air
  let mark := fun (x : Tag) => if squashHits g x then { x with late := true } else x
  let s := (s.discardDecls gone).discardWins goneW
  { s with
    decls := s.decls.map fun d => if d.dir = .rx then { d with tag := mark d.tag } else d
    rx := { s.rx with wins := s.rx.wins.map fun w => { w with tag := mark w.tag } } }

/-- SYNC_RESETs of a tile after a squash: each direction is judged by its own figure (R66, R218). An item that loses one is counted
once. -/
def State.squashSyncs (s : State) (t : Nat) (g : Tag) (late : Bool) : State :=
  let keeps := fun (y : SyncReset) (d : Dir) =>
    !(y.tile = t && squashHits g y.tag) || (late && decide (lead y.tag.air s.now < ((leadRow .flt d).1 : Int)))
  let n := (s.rx.syncs.filter fun y => !(y.dirs.all (keeps y))).length
  ({ s with rx := { s.rx with syncs := (s.rx.syncs.map fun y => { y with dirs := y.dirs.filter (keeps y) }).filter fun y =>
      !y.dirs.isEmpty } } : State).bumpBy (domCounter .flt t .discard) n

/-- A SQUASH that passed the common checks. A late one leaves what no longer has its own minimum lead, judged per carrier, and
blanks the span to the first symbol with lead (R66, R613). A swap or an OFF whose AIRTIME has passed is left as it waits
(DESIGN CHOICE, log entry 41). -/
def State.takeSquash (s : State) (p : Port) (t : Nat) (it : Item) : State :=
  let g := it.tag
  let lates := if g.late then [] else s.lateCars p t it
  let now := s.now
  let cars := lates.map Prod.fst
  let takes := s.squashTakes p t g cars
  let hits := fun (x : Tag) => takes ⟨x, [], 0⟩
  let s := if lates.isEmpty then s else s.bump (domCounter p t .latecnt)
  let s := s.discardQueued p t fun x => takes x.item
  let s := (s.squashFns p t hits).squashPend p t hits
  let s := match p with
    | .bf => (s.squashBeam g cars).discardCommits fun d c => takes (commitItem d c)
    | .cap => s.capDiscard hits
    | .flt => (s.squashSyncs t g (!lates.isEmpty)).discardSpans t fun x => hits x.tag
    | _ => s
  let s := lates.foldl (fun s x =>
    if itemDir p it = .tx && p ∉ [Port.pwr, .cap, .lnk] then
      s.blankSpan 0xFFFF (portTiles p t) x.1 (fullTick g.air now) (s.firstWithLead .tx x.1 x.2)
    else s) s
  let r : SquashRule := ⟨p, t, g.stream, g.air, g.epoch⟩
  let s : State := if s.squashes.contains r then s else { s with squashes := s.squashes ++ [r] }
  s.emitOut (.block (portNum p) (if lates.isEmpty then g else (lateItem it).tag) [])

/-- SQUASH_ITEM (R64): the item passes on in stream order. -/
def execSquashItem (p : Port) (t : Tile) (g : Tag) (body : Bytes) : State → Host.Outcome State Fault Refusal :=
  act fun s =>
    let it := mkItem kSquash g body
    s.arrive p (portTile p t.val) it fun _ s => s.takeSquash p (portTile p t.val) it

/-- MARKER (R40): queued, and passed on unchanged at its time. -/
def execMarker (p : Port) (t : Tile) (g : Tag) (body : Bytes) : State → Host.Outcome State Fault Refusal :=
  act fun s => s.arriveCtl p (portTile p t.val) (mkItem kMarker g body)

def State.passMarker (s : State) (x : QItem) : State := s.emitOut (.block (portNum x.port) x.item.tag x.item.body)

end Sys2Proof.Machine
end

