-- ==== Sys2Proof/Machine/Settle.lean ====
section
/-! DEFINITION. What passing time does to the sample chains: the settings kept, parity errors on words to the front dies (R16),
the DC loops (R150), and, once what they depend on has come in, the counts of clamped rails, missed peaks and clipped symbols,
the DAC codes (R100) and the time-domain blocks (R164). -/

namespace Sys2Proof.Machine
open Sys2Proof

/-! ## Settings kept -/

/-- How many ticks back the settings are kept. -/
def histSpan : Nat := 2 ^ 21

/-- The settings of the present tick are noted where they have changed. -/
def State.noteSettings (s : State) : State :=
  let h := s.settings
  if (s.chain.hist.head?.map Prod.snd).getD {} = h then s
  else
    let (new, old) := s.chain.hist.span fun x => decide (s.now.toNat < x.1 + histSpan)
    { s with chain := { s.chain with hist := (s.now.toNat, h) :: new ++ old.take 1 } }

/-! ## Words to the front dies (R16, R48) -/

/-- A word of a path crosses to its front die with a parity error: the symbols it carries count as damaged, and what is left of
them is blanked on every path; a time-domain block loses the rest of its path's span (R16, R48). -/
def State.txWordLost (s : State) (p : Nat) : State :=
  let now : Int := s.now.toNat
  let s := (s.symsTouched (tileOfPath p) now (now + 1)).foldl (fun s y => s.blankFrom 0xFFFF now allTiles y.1 y.2) s
  let hit := fun (x : TdSpan) => x.path = p && decide (fullTick x.air s.now ≤ now) && decide (now < fullTick x.air s.now + x.len)
  (s.tdSpans.filter hit).foldl (fun s x => s.blankTd (tileOfPath x.path))
    { s with tdSpans := s.tdSpans.map fun x => if hit x then { x with len := (now - fullTick x.air s.now).toNat } else x }

/-- The composite words of the present tick that live paths send to their front dies. -/
def State.txWords (s : State) : State :=
  let now : Int := s.now.toNat
  if now % 2 = 1 then s
  else ((List.range 64).filter fun p => Config.txParity p s.clock && s.liveIn p now (now + 2)).foldl State.txWordLost s

/-! ## Counts of a span (R80, R84, R87-R89, R96, R98, R114, R128, R150, R156, R160, R161, R166, R193, R205-R211)

A span of 1,024 composite samples is settled `lag` ticks after its end, when every sample that its samples depend on has come
in (log entry 40). -/

def settleTk : Nat := 2048
def lag : Nat := 16384

/-- A carrier of a tile and direction is on at some tick of [lo, hi). -/
def State.carUsed (s : State) (t : Nat) (d : Dir) (c : Nat) (lo hi : Int) : Bool :=
  (s.settingsIn lo hi).any fun h => (tget (fun _ => {}) h.cars (8 * t + 4 * dirNum d + c) : CarSt).on

/-- A function of a tile runs at some tick of [lo, hi). -/
def State.runsIn (s : State) (f t : Nat) (lo hi : Int) : Bool :=
  (s.settingsIn lo hi).any fun h => !h.stoppedAt f t lo || !h.stoppedAt f t (hi - 1)

/-- The ticks of a carrier's samples in [lo, hi). -/
def State.sampleTicks (s : State) (d : Dir) (c : Nat) (lo hi : Int) : List Int :=
  let x := s.fftAt d c lo
  let first := lo + ((x.origin : Int) - lo) % x.tk
  (List.range ((hi - first + x.tk - 1) / x.tk).toNat).map fun i => first + i * x.tk

/-- The end of TILEn_TXTRIM's delay of a path, in 1/16 tk (R101). -/
def State.txTrim (s : State) (p : Nat) : Int := sfld (s.reg (rTxtrim (tileOfPath p) (p % 16))) 0 9

/-- Interpolation, sum, crest-factor reduction and predistortion of a path: clamped rails in TILEn_SATCNT, peaks left in
TILEn_CFRMISS, and the DAC codes that leave. -/
def State.settleTx (s : State) (lo : Int) (p : Nat) : State :=
  let t := tileOfPath p
  let hi := lo + settleTk
  let k := lo / 2
  let s := if !([0, 1, 2, 3].any fun c => s.carUsed t .tx c lo hi) then s
    else
      let ys := s.cfrOut fnsCfr p k 1024
      let s := s.bumpBy (cTile t 4) ((s.carrierSum fnsFlt p k 1024).map Prod.snd).sum
      (s.bumpBy (cTile t 4) (ys.map CfrPt.clips).sum).bumpBy (cTile t 5) (ys.map CfrPt.miss).sum
  let s := s.bumpBy (cTile t 4) ((s.dpdOut p k 1024).map Prod.snd).sum
  let codes := s.dacOut p k 1024
  if codes.all fun z => z = (0, 0) then s else s.emitOut (.dac p (16 * lo + s.txTrim p) codes)

/-- Carrier samples of a path before interpolation: rails clamped by gain, phase and overlap, in BEAM_SATCNT. -/
def State.settleCar (s : State) (lo : Int) (p c : Nat) : State :=
  let hi := lo + settleTk
  if !s.carUsed (tileOfPath p) .tx c lo hi then s
  else s.bumpBy (cBeam 3) (((s.sampleTicks .tx c lo hi).map fun t => (s.wolaPoint fnsWola p c t).2).sum)

/-- The receive stages of a path at composite rate, and its carriers' chains and gains: clamped rails in TILEn_SATCNT. -/
def State.settleRx (s : State) (lo : Int) (p : Nat) : State :=
  let t := tileOfPath p
  let hi := lo + settleTk
  let comp := if s.runsIn 10 t lo hi || s.runsIn 15 t lo hi then ((s.compOut p (lo / 2) 1024).map Prod.snd).sum else 0
  let cars := [0, 1, 2, 3].map fun c =>
    if s.carUsed t .rx c lo hi then
      match s.sampleTicks .rx c lo hi with
      | [] => 0
      | first :: rest => ((s.rxCarrier p c first (rest.length + 1)).map Prod.snd).sum
    else 0
  s.bumpBy (cTile t 4) (comp + cars.sum)

/-- Boundaries of a carrier's transmit symbols at which the window's tail is clipped, in BEAM_CFGERR (R88): those at which some tile
sends an overlap, so none of a time-domain carrier, and none at which the carrier is switched (R93, R102). -/
def State.settleTails (s : State) (lo : Int) (c : Nat) : State :=
  let hi := lo + settleTk
  if !(allTiles.any fun t => s.carUsed t .tx c lo hi) then s
  else
    let starts := ((s.fftAt .tx c lo).symsIn lo hi 64).filter fun a => lo ≤ a
    let clipped := starts.filter fun a =>
      match s.symAt .tx c (a - 1) with
      | some b => decide ((s.fftAt .tx c a).prefixAt a < (s.wolaAt c b.start).w) && allTiles.any fun t =>
          let v := s.carAt t .tx c (a - 1)
          v.on && !v.tdmode && decide (((s.carAt t .tx c a).since : Int) ≠ a)
      | none => false
    s.bumpBy (cBeam 8) clipped.length

/-- Air times of a receive carrier's symbols whose FFT window ends in [lo, hi). -/
def State.windowsIn (s : State) (c : Nat) (lo hi : Int) : List Int :=
  ((s.fftAt .rx c lo).symsIn (lo - 2 ^ 20) hi 256).filter fun a => let e := (s.fftWindow c (airOf a)).2; lo < e && e ≤ hi

/-- One receive symbol: a clipped one is counted once on each tile whose paths clipped (R147), and rails clamped by the FFT in
BEAM_SATCNT (R166). -/
def State.settleSym (s : State) (c : Nat) (a : Int) : State :=
  let (w0, w1) := s.fftWindow c (airOf a)
  let tiles := allTiles.filter fun t => (s.carAt t .rx c w0).on && !(s.carAt t .rx c w0).tdmode
  let ps := (tiles.flatMap tilePaths).filter fun p => !(s.settingsAt a).rxOut.getLsbD p
  let scs := List.range (12 * s.symNrb .rx c a)
  let sat := (ps.map fun p => ((s.fftValues p c (airOf a) scs).map Prod.snd).sum).sum
  let s := s.bumpBy (cBeam 3) sat
  (tiles.filter fun t => ps.any fun p => tileOfPath p = t && s.rxClipIn p w0 w1).foldl (fun s t => s.bump (cTile t 9)) s

/-! ## Time-domain blocks (R164) -/

/-- A time-domain block of [lo, hi) leaves past its drain bound (R52, R184, R533): one longer than its symbol counts with its own span
(DESIGN CHOICE, log entry 41). -/
def State.tdLate (s : State) (p c : Nat) (lo hi : Int) : Bool :=
  let x := s.fftAt .rx c lo
  let hold := if s.role = 1 || s.role = 2 then s.holdTk else 0
  decide (lo + max (((x.symbolAt lo).map SymPos.span).getD 0 : Int) (hi - lo) + 4208 + (fftN (x.cfg.getD []) / 4 : Nat) +
    (s.chainGd (tileOfPath p) c + hold + s.vc2Wait : Nat) < (s.now.toNat : Int))

/-- Flags of a time-domain block's samples (R52, R53, R163, R182). -/
def State.tdFlags (s : State) (p c : Nat) (lo hi : Int) : BlockFlags :=
  orFlags (s.carFlags p c false lo hi) ⟨false, false, s.tdLate p c lo hi⟩

/-- Notes the air time of the next time-domain block of a path and carrier. -/
def State.setTdNext (s : State) (p c : Nat) (x : Option Int) : State :=
  { s with chain := { s.chain with tdNext := tput (fun _ => none) (64 * c + p) x s.chain.tdNext } }

/-- The next time-domain block of a path and carrier, once its samples have passed the chain: blocks follow on one another from
the tick at which the carrier came on. One that the carrier's end cuts short is completed with zeros, and the last one before the
carrier's end carries LAST (R53). A path out of receive service sends none (DESIGN CHOICE, log entry 41: R164 and R181 say nothing of
it). -/
def State.tdBlock (s : State) (p c : Nat) : State :=
  let t := tileOfPath p
  match tget (fun _ => none) s.chain.tdNext (64 * c + p) with
  | none =>
    let v := s.carOf t .rx c
    if v.on && v.tdmode && v.tdblk ≠ 0 then s.setTdNext p c (some v.since) else s
  | some start =>
    let w := s.carAt t .rx c start
    let stop := start + w.tdblk * (s.fftAt .rx c start).tk
    if !(w.on && w.tdmode) || w.tdblk = 0 then s.setTdNext p c none
    else if (s.now.toNat : Int) < stop + s.chainGd t c then s
    else
      let s := s.setTdNext p c (some stop)
      if (s.settingsAt start).rxOut.getLsbD p then s
      else
      let f := s.tdFlags p c start stop
      let v := s.carAt t .rx c stop
      let body := leBytes 8 p ++ iqBytes ((s.rxCarrier p c start w.tdblk).map Prod.fst)
      let g : Tag := { air := airOf start, kind := kRxTd, stream := BitVec.ofNat 8 (176 + c), carrier := BitVec.ofNat 2 c, source := 6
                       damaged := f.damaged, warmup := f.warmup, late := f.late, last := !(v.on && v.tdmode)
                       length := BitVec.ofNat 16 body.length }
      s.sendTagged (some c) 2 (sealTag g) body

/-- The time-domain blocks of every path and carrier that are due at this tick. -/
def State.tdBlocks (s : State) : State :=
  if s.chain.tdNext.isEmpty && !(s.cars.any fun x => x.2.tdmode) then s
  else (List.range 64).foldl (fun s p => [0, 1, 2, 3].foldl (fun s c => s.tdBlock p c) s) s

/-! ## One tick -/

/-- Everything of the span of 1,024 composite samples that begins at tick `lo`. -/
def State.settle (s : State) (lo : Int) : State :=
  let ps := List.range 64
  let s := ps.foldl (fun s p => (s.settleTx lo p).settleRx lo p) s
  let s := ps.foldl (fun s p => [0, 1, 2, 3].foldl (fun s c => s.settleCar lo p c) s) s
  [0, 1, 2, 3].foldl (fun s c =>
    (s.windowsIn c lo (lo + settleTk)).foldl (fun s a => s.settleSym c a) (s.settleTails lo c)) s

/-- The PRBS31 generators of the lanes send their pattern for a span, and the checkers count the errors of it (R391); inside the device,
in a near-end loop, there is none. -/
def State.prbsChecks (s : State) : State :=
  let s := ((List.range 32).filter fun l => s.prbsOn l && fld (s.reg (rLaneGcfg (l / 8))) 5 2 = 0 &&
    (tget (fun _ => {}) s.lanes l : LaneSt).tx ≠ .idle).foldl (fun s l => s.emitOut (.prbs l)) s
  ((List.range 32).filter fun l => s.prbsOn l && fld (s.reg (rLaneGcfg (l / 8))) 5 2 % 3 = 0 &&
    (tget (fun _ => {}) s.lanes l : LaneSt).sigdet).foldl (fun s l => s.bumpBy (cLane l 1) (Config.prbsErrors l s.clock)) s

/-- The present tick passes on the sample chains, on the duty counts, on the RFFE buses, and on the lanes' checkers. -/
def State.chainTick (s : State) : State :=
  let s := s.noteSettings.txWords.dcTick.dutyTick.rffeTick.transformSyms.tdBlocks
  let s := if s.now.toNat % settleTk = 0 then s.prbsChecks else s
  let lo : Int := (s.now.toNat : Int) - lag - settleTk
  if s.now.toNat % settleTk = 0 && 0 ≤ lo then s.settle lo else s

/-- What the chains had kept, after a step of the counter: nothing (R45). -/
def State.forgetChains (s : State) : State :=
  { s with chain := { s.chain with hist := [], lines := [], raws := [], tdNext := [] } }

end Sys2Proof.Machine
end

