-- ==== Sys2Proof/Machine/Time.lean ====
section
/-! DEFINITION. Device time: the tick counter and its wraps, steps, the servo, steering words, PTP frames, TSYNC and PPS, and
synchronising resets of the filter chains (R45, R218-R221, R433-R454). -/

namespace Sys2Proof.Machine
open Sys2Proof

/-- Ticks in a second. -/
def second : Nat := 3932160000

/-! ## The time scale (R433, R434) -/

/-- Device time X. -/
def State.x (s : State) : Nat := 2 ^ 56 * s.wrap.toNat + s.now.toNat
def State.setX (s : State) (v : Int) : State :=
  { s with now := BitVec.ofInt 56 v, wrap := BitVec.ofInt 32 (v / 2 ^ 56) }

/-- Counts `n` ticks. -/
def State.count (s : State) (n : Nat) : State := { s.setX (s.x + n : Nat) with clock := s.clock + n }

/-- One tick, on the sample chains too where the tick counter runs on the reference (R433, R452). -/
def State.tick (s : State) : State := (if s.atOrBelow .bog then s else s.chainTick).count 1

/-- What an empty queue lets pass: one tick, while the block has power and its tick counter runs on the
reference (R433, R452; log entry 1). In BOG and PEAT the counter moves by SLOWCLK_TICK alone. -/
def State.idle (s : State) : State := if s.powered && !s.atOrBelow .bog then ({ s with resp := .none, out := [] } : State).tick else s

/-- TICK_COUNTER_WRAP (R433): the counter's last tick passes, and TIME_WRAP increases. -/
def execTickCounterWrap : State → Host.Outcome State Fault Refusal :=
  act fun s => if s.now = BitVec.allOnes 56 then s.tick else s

/-- SLOWCLK_TICK (R452): in BOG and PEAT each SLOWCLK cycle adds 120,000 tk. -/
def execSlowclkTick : State → Host.Outcome State Fault Refusal :=
  act fun s => if s.atOrBelow .bog then s.count 120000 else s

/-- Every streaming stage is quiescent (R45): every STOP function but the path removals. -/
def State.allQuiet (s : State) : Bool :=
  ([1, 2, 3, 4, 5, 6, 19, 20, 21].all fun f => s.fnQuiet f 0) &&
  allTiles.all fun t => (List.range 10).all fun i => s.fnQuiet (7 + i) t

/-- A PTP frame that is discarded (R443). -/
def State.launchMiss (s : State) : State := (s.bump (cTime 2)).signal 86

/-- A step of X, where R45 allows it: counted, and every frame awaiting launch is discarded (R434). The second result tells
whether it was applied. -/
def State.stepTime (s : State) (d : Int) : State × Bool :=
  if !s.allQuiet then (s.signal 83, false)
  else
    let n := (s.time.waits.filter fun w => w.launch.isSome).length
    let s := (s.setX (s.x + d)).forgetChains
    let s : State := { s with time := { s.time with
      stepgen := s.time.stepgen + 1, samples := [], waits := s.time.waits.filter fun w => w.launch.isNone } }
    ((List.range n).foldl (fun s _ => s.launchMiss) s, true)

/-- TIME_STEP_WRITE (R434): management firmware alone writes TIME_STEP. -/
def State.writeTimeStep (s : State) (w : Initiator) (v : BitVec 64) : State :=
  match w with
  | .mgmt => (s.stepTime v.toInt).1.done
  | _ => s.error

def execTimeStepWrite (w : Initiator) (v : BitVec 64) : State → Host.Outcome State Fault Refusal :=
  act fun s => s.writeTimeStep w v

/-! ## Steering (R437, R438) -/

/-- The steering word (R437). -/
def State.steerWord (s : State) : BitVec 64 :=
  let low := s.time.rate.toNat + 2 ^ 40 * s.time.stepgen.toNat + 2 ^ 44 * (decide (s.time.servo = .holdover)).toNat +
    2 ^ 48 * s.time.seq.toNat
  BitVec.ofNat 64 (low + 2 ^ 56 * (crc8 (bitList (leBytes 7 low))).toNat)

/-- Sends a steering word where STEER is set. -/
def State.steer (s : State) : State :=
  if (s.reg rTimeCfg).getLsbD 2 then
    { s.emitOut (.steer s.steerWord) with time := { s.time with seq := s.time.seq + 1, wordAt := s.clock } }
  else s

/-- RATE limited to 200 ppm (R438). -/
def clampRate (r : BitVec 40) : BitVec 40 := BitVec.ofInt 40 (max (-56294995342) (min 56294995342 r.toInt))

def State.setRate (s : State) (r : BitVec 40) : State :=
  let r := clampRate r
  if r = s.time.rate then s else ({ s with time := { s.time with rate := r } } : State).steer

/-- TIME_RATE_WRITE (R437, R438): management firmware alone writes TIME_RATE. -/
def State.writeTimeRate (s : State) (w : Initiator) (v : BitVec 64) : State :=
  match w with
  | .mgmt => (s.setRate (v.truncate 40)).done
  | _ => s.error

def execTimeRateWrite (w : Initiator) (v : BitVec 64) : State → Host.Outcome State Fault Refusal :=
  act fun s => s.writeTimeRate w v

/-- STEERING_WORD_PERIODIC (R437): at least once a second. -/
def execSteeringWordPeriodic : State → Host.Outcome State Fault Refusal :=
  act fun s => if s.time.wordAt + second ≤ s.clock then s.steer else s

/-! ## The servo (R439) -/

def State.setServo (s : State) (v : Servo) : State := { s with time := { s.time with servo := v, samples := [] } }
def State.timeSrc (s : State) : Nat := fld (s.reg rTimeCfg) 0 2
def State.jump (s : State) : Nat := fld (s.reg rTimeServo) 0 22
def State.qual (s : State) : Nat := max 1 (fld (s.reg rTimeServo) 24 4)

/-- A write of TIME_CTRL (R439). -/
def State.writeTimeCtrl (s : State) (v : BitVec 32) : State := (if v.getLsbD 0 then s.setServo .unlocked else s).done

/-- TIME_REARM (R439). -/
def execTimeRearm (_ : Initiator) (v : BitVec 32) : State → Host.Outcome State Fault Refusal :=
  act fun s => s.writeTimeCtrl v

/-- TIME_SRC_CHANGE (R454): a write of TIME_CFG; one that changes SRC puts the servo in UNLOCKED. -/
def timeCfgValue (old v : BitVec 32) : BitVec 32 :=
  let new := maskIn old v 0x00FFFFFF
  if fld new 8 8 < 24 || 43 < fld new 8 8 then setFld new 8 8 (fld old 8 8) else new

def State.writeTimeCfg (s : State) (v : BitVec 32) : State :=
  let old := s.reg rTimeCfg
  let new := timeCfgValue old v
  let s := s.setReg rTimeCfg new
  (if fld old 0 2 ≠ fld new 0 2 then s.setServo .unlocked else s).done

def execTimeSrcChange (_ : Initiator) (v : BitVec 32) : State → Host.Outcome State Fault Refusal :=
  act fun s => s.writeTimeCfg v

/-- Enters HOLDOVER: RATE holds the loop's integral term, which firmware computes: a free value (log entry 2). -/
def State.toHoldover (s : State) : State :=
  let (w, s) := s.draw
  (s.setServo .holdover).setRate (w.truncate 40)

/-- The median of some samples: the mean of the two middle ones, rounded down, where their number is even. -/
def median (l : List Int) : Int :=
  let x := l.insertionSort (· ≤ ·)
  let n := x.length
  if n % 2 = 1 then x.getD (n / 2) 0 else (x.getD (n / 2 - 1) 0 + x.getD (n / 2) 0) / 2

/-- One offset sample; `extra` is added to a first step (R451), and `rate` is what firmware's loop makes of it (R439). -/
def State.sample (s : State) (theta extra : Int) (rate : BitVec 40) : State :=
  let j := s.jump
  match s.time.servo with
  | .unlocked =>
    let l := (s.time.samples ++ [theta])
    let l := l.drop (l.length - s.qual)
    let m := median l
    if l.length < s.qual || (l.any fun x => decide (4 * (x - m).natAbs > j)) then
      { s with time := { s.time with samples := l, validAt := s.clock } }
    else
      match s.stepTime (extra - m) with
      | (s, true) =>
        let s := (s.signal 80).setServo .locked
        { s with time := { s.time with validAt := s.clock, todUsed := s.time.todUsed || s.timeSrc = 2 } }
      | (s, false) => { s with time := { s.time with samples := [] } }
  | .locked =>
    if theta.natAbs ≤ j then ({ s with time := { s.time with validAt := s.clock } } : State).setRate rate
    else ((s.bump (cTime 0)).signal 81).toHoldover
  | .holdover =>
    if theta.natAbs ≤ j then
      let n := s.time.samples.length + 1
      let s : State := { s with time := { s.time with samples := s.time.samples ++ [theta], validAt := s.clock } }
      if n < s.qual || s.timeSrc = 3 then s else (s.setServo .locked).setRate rate
    else ({ s with time := { s.time with samples := [] } } : State).bump (cTime 0)

/-- SERVO_SAMPLE (R439): samples of an older step, or that span one, are discarded; without a source of samples there is no
servo (R435). -/
def execServoSample (theta : Int) (gen : BitVec 4) (spansStep : Bool) (rate : BitVec 40) : State → Host.Outcome State Fault Refusal :=
  act fun s =>
    if spansStep || gen ≠ s.time.stepgen || s.timeSrc = 0 || s.timeSrc = 3 then s else s.sample theta 0 rate

/-- SOURCE_LOSS_TIMEOUT (R439). With SRC 3 there are no samples to miss: R449 says when its edges do (DEDUCED, log entry 34). -/
def execSourceLossTimeout : State → Host.Outcome State Fault Refusal :=
  act fun s =>
    if s.time.servo = .locked && s.timeSrc ≠ 3 && decide (s.time.validAt + 245760000 * max 1 s.time.lossto.toNat ≤ s.clock) then
      (s.signal 82).toHoldover
    else s

/-! ## PTP (R441-R447) -/

/-- Reads one send descriptor (R443). -/
def State.readPtp (s : State) (d : Bytes) : State :=
  let len := pbits d 32 9
  let (acc, s) := s.memRead (pbits d 64 40) len
  match acc with
  | .ok m =>
    let bad := 33 < pbits d 0 6 || pbits d 9 7 ≠ 0 || len < 44 || 256 < len || pbits d 41 23 ≠ 0 || pbits d 104 24 ≠ 0 ||
      pbits d 184 72 ≠ 0
    let launch := if pbit d 8 then some (BitVec.ofNat 56 (pbits d 128 56)) else none
    let l : Int := match launch with
      | some t => lead (t.truncate 40) s.now
      | none => 2048
    if bad then s
    else if l ≤ 1024 || 2 ^ 24 < l then s.launchMiss
    else { s with time := { s.time with
      waits := s.time.waits ++ [⟨pbits d 0 6, pbit d 6, pbit d 7, launch, pbits d 16 16, m, none⟩] } }
  | _ => s

/-- A write of TIME_TXWPTR (R443): software advances it, and the device reads the descriptors up to it. -/
def State.writeTxwptr (s : State) (v : BitVec 32) : State :=
  let w := fld v 0 5
  let r := fld (s.reg rTimeTxrptr) 0 5
  let base := 0x1000000000 + 32 * fld (s.reg rTimeTxbase) 5 18
  let s := s.setReg rTimeTxwptr (BitVec.ofNat 32 w)
  let s := (List.range ((w + 32 - r) % 32)).foldl (fun s i =>
    match s.memRead (base + 32 * ((r + i) % 32)) 32 with
    | (.ok d, s) => s.readPtp d
    | (_, s) => s) s
  (s.setReg rTimeTxrptr (BitVec.ofNat 32 w)).done

/-- PTP_DESCRIPTOR (R443). -/
def execPtpDescriptor (_ : Initiator) (v : BitVec 32) : State → Host.Outcome State Fault Refusal :=
  act fun s => s.writeTxwptr v

/-- T_o of a message in ticks and in correction units: secondsField and nanosecondsField of originTimestamp (R433, R446). -/
def oneStepUnits (x : Nat) (m : Bytes) : Int :=
  corrUnits ((x : Int) - beNat (slice m 34 6) * second) - beNat (slice m 40 4) * 65536

/-- A timestamp entry (R444). -/
def State.stampEntry (s : State) (w : PtpWait) : State :=
  if 64 ≤ s.time.unread then ({ s with time := { s.time with tsqovf := true } } : State).signal 85
  else
    let p := fld (s.reg rTimeTsqwptr) 0 6
    let v := w.id + 2 ^ 16 * w.port + 2 ^ 22 * s.time.stepgen.toNat + 2 ^ 32 * s.wrap.toNat + 2 ^ 64 * s.now.toNat
    let s := (List.range 4).foldl (fun s i => s.setReg (rTimeTsq p + 4 * i) (BitVec.ofNat 32 (v / 2 ^ (32 * i)))) s
    { s.setReg rTimeTsqwptr (BitVec.ofNat 32 ((p + 1) % 64)) with time := { s.time with unread := s.time.unread + 1 } }

/-- A TIME frame (R445): subtype, and what follows the header. -/
def timeBody (sub : Nat) (m : Bytes) : Bytes := leBytes 8 sub ++ m

/-- The link header of a TIME frame on a native port: down frames are broadcast. -/
def State.timeHdr (s : State) (p len : Nat) : BitVec 64 :=
  if p = 0 then linkHdr 6 2 1 0 0 s.devIdx len else linkHdr 6 2 0 1 0 0 len

/-- A PTP frame may leave: a TIME frame with its VC2 credit, an Annex E frame on the PCS link (R427, R428, R443). -/
def State.ptpReady (s : State) (p len : Nat) : Bool :=
  if p ≤ 1 then s.portUp p && (s.vlOf p 2).hasCredit (frameUnits len) else s.ethEnabled (p - 2) && (s.portOf p).pcs

/-- PTP_LAUNCH (R443-R446): the i-th waiting frame leaves, corrected or timestamped, or misses its launch. -/
def execPtpLaunch (i : Nat) : State → Host.Outcome State Fault Refusal :=
  act fun s =>
    match s.time.waits[i]? with
    | none => s
    | some w =>
      let due := match w.launch with
        | some t => decide (lead (t.truncate 40) s.now ≤ 0)
        | none => true
      let len := 8 + w.msg.length
      let vl := s.vlOf w.port 2
      let credit := s.ptpReady w.port len
      if !due || (!credit && w.launch.isNone) then s
      else
        let s : State := { s with time := { s.time with waits := s.time.waits.eraseIdx i } }
        if !credit then s.launchMiss
        else
          let tsqen := (s.reg rTimeCfg).getLsbD 3
          let m := match w.came with
            | some c => if syncOrReq w.msg then addCorrection w.msg (corrUnits ((s.clock - c : Nat) : Int)) else w.msg
            | none => if w.onestep || (syncOrReq w.msg && !tsqen) then addCorrection w.msg (oneStepUnits s.x w.msg) else w.msg
          let s := if w.port ≤ 1 then
              let s := s.putFrame w.port ⟨s.timeHdr w.port len, timeBody 0 m, s.clock⟩ vl.txSeq
              s.setVl w.port 2 { vl with txSeq := vl.txSeq + 1, used := vl.used + BitVec.ofNat 32 (frameUnits len) }
            else s.portOut w.port (.ptp w.port m)
          if w.tsreq && tsqen then s.stampEntry w else s

/-- The addressing, version and domain that R441 lists; on a native port a TIME frame has no address. -/
def State.ptpAccepted (s : State) (native : Bool) (dst : BitVec 48) (m : Bytes) : Bool :=
  44 ≤ m.length && pbits m 8 4 = 2 && pbits m 32 8 = fld (s.reg rTimeCfg) 8 8 &&
  (pbits m 0 4 ∈ [0x0, 0x1, 0x8, 0x9, 0xB]) &&
  (native || dst = 0x011B19000000 || ((s.reg rTimeCfg).getLsbD 5 && dst = 0x0180C200000E))

/-- A message forwarded down as a broadcast TIME frame (R419, R447). -/
def State.ptpDown (s : State) (m : Bytes) : State :=
  let b := timeBody 0 m
  if s.portUp 1 then s.egress 1 (linkHdr 6 2 0 1 0 0 b.length) b else s.bump (cPort 1 6)

/-- A TIME frame of subtype 0 from downstream goes up: with TCEN on an Ethernet side as an Annex E frame on MGMTPORT, else as
it came (R419, R447). -/
def State.ptpUp (s : State) (hdr : BitVec 64) (m : Bytes) : State :=
  if s.ethSide && (s.reg rTimeCfg).getLsbD 4 then
    let p := s.upPort none
    if s.portUp p && s.ethEnabled (p - 2) then
      { s with time := { s.time with waits := s.time.waits ++ [⟨p, false, false, none, 0, m, some s.clock⟩] } }
    else s.bump (cPort p 6)
  else s.sendUp none hdr (timeBody 0 m)

/-- The device takes a message itself: timestamped and passed to management firmware, or discarded and counted (R441, R442). -/
def State.ptpTake (s : State) (p : Nat) (native : Bool) (dst : BitVec 48) (m : Bytes) : State :=
  if s.ptpAccepted native dst m then s.emitOut (.ptpRx p s.x m) else s.bump (cTime 1)

/-- An Annex E frame on an Ethernet port (R428, R441, R447). -/
def State.annexE (s : State) (p : Nat) (dst : BitVec 48) (m : Bytes) : State :=
  (if (s.reg rTimeCfg).getLsbD 4 then s.ptpDown m else s).ptpTake p false dst m

/-- PTP_MESSAGE (R441, R442, R447): a received message is timestamped and passed to management firmware, or discarded and
counted; it is forwarded across the cascade. On a native port it comes in a TIME frame, broadcast from upstream. -/
def execPtpMessage (p : LPort) (native : Bool) (dst : BitVec 48) (m : Bytes) : State → Host.Outcome State Fault Refusal :=
  act fun s =>
    if !native then
      if p.val < 2 || !s.ethEnabled (p.val - 2) || !(s.portOf p.val).pcs then s
      else
        match s.portIn p.val (.ptp p.val m) with
        | some s => s.annexE p.val dst m
        | none => s
    else if !s.portUp p.val then s
    else
      let vl := s.vlOf p.val 2
      let len := 8 + m.length
      let hdr := if p.val = 1 then linkHdr 6 2 1 0 0 0 len else linkHdr 6 2 0 1 0 0 len
      match s.portIn p.val (.frame p.val (setFld hdr 40 16 vl.rxSeq.toNat) (timeBody 0 m)) with
      | none => s
      | some s =>
        let s := (s.setVl p.val 2 { vl with rxSeq := vl.rxSeq + 1 }).freeUnits p.val 2 (frameUnits len)
        if p.val = 1 then s.ptpUp hdr m else (s.ptpDown m).ptpTake p.val true dst m

/-! ## TSYNC (R448, R449) -/

/-- PERIOD, INDLY, OUTEN of TIME_TSYNC. -/
def State.tsyncPeriod (s : State) : Nat := fld (s.reg64 rTimeTsync) 0 32
def State.tsyncDly (s : State) : Int := sfld (s.reg64 rTimeTsync) 32 16
def State.tsyncOut (s : State) : Bool := (s.reg64 rTimeTsync).getLsbD 48

/-- Latches an edge in TIME_TSYNCLAT. -/
def State.latchEdge (s : State) (c : BitVec 56) : State :=
  { s.setReg64 rTimeTsynclat (c.zeroExtend 64) with time := { s.time with tsyncV := true } }

/-- TSYNC_OUT_EDGE (R448): at a grid tick the pulse is driven and the announce of the next edge is sent down. -/
def execTsyncOutEdge : State → Host.Outcome State Fault Refusal :=
  act fun s =>
    let n := s.tsyncPeriod
    if !s.tsyncOut || n = 0 || s.now.toNat % n ≠ 0 then s
    else
      let s := (s.emitOut (.pulse 0 64)).latchEdge s.now
      let b := timeBody 1 (leBytes 8 (s.x + n))
      if s.portUp 1 then s.egress 1 (linkHdr 6 2 0 1 0 0 b.length) b else s

/-- A misaligned or missing edge: nothing is corrected, RATE neither (R449). -/
def State.tsyncBad (s : State) : State := (s.signal 84).setServo .holdover

/-- A rising edge at TSYNC_IN (R449). -/
def State.tsyncEdge (s : State) : State :=
    let l : Int := (s.x : Int) - s.tsyncDly
    let c := BitVec.ofInt 56 l
    let ann := s.time.announced
    let prev := s.time.edge
    let s := s.latchEdge c
    let s : State := { s with time := { s.time with edge := some l.toNat, edgeAt := s.clock, announced := none } }
    if s.timeSrc ≠ 3 then s
    else
      match s.time.servo, ann with
      | .unlocked, some x =>
        match s.stepTime ((x : Int) - l) with
        | (s, true) =>
          { (s.signal 80).setServo .locked with time := { ((s.signal 80).setServo .locked).time with edge := some x } }
        | (s, false) => s
      | .locked, _ =>
        let want : Option Int := match ann, prev with
          | some x, _ => some x
          | none, some p => some (p + s.tsyncPeriod : Nat)
          | none, none => none
        match want with
        | some x => if 2 < (l - x).natAbs then (s.bump (cTime 3)).tsyncBad else s
        | none => s
      | _, _ => s

/-- TSYNC_IN_EDGE (R449, R546): with PWR_WAKECFG.TSYNC it also wakes the device from SEDGE, FEN and BOG. -/
def execTsyncInEdge : State → Host.Outcome State Fault Refusal :=
  act fun s =>
    let s := s.tsyncEdge
    if (s.reg rPwrWakecfg).getLsbD 1 then s.wakeFromLow 5 0 else s

/-- TSYNC_MISSING (R449). -/
def execTsyncMissing : State → Host.Outcome State Fault Refusal :=
  act fun s =>
    if s.timeSrc = 3 && s.time.servo = .locked && decide (s.time.edgeAt + s.tsyncPeriod + 64 ≤ s.clock) then s.tsyncBad else s

/-! ## PPS (R450, R451) -/

/-- PPS_OUT_EDGE (R450): at a whole second of X. -/
def execPpsOutEdge : State → Host.Outcome State Fault Refusal :=
  act fun s =>
    let c := s.reg rTimeCfg
    if s.x % second = 0 && c.getLsbD 6 && (s.time.servo ≠ .unlocked || c.getLsbD 7) then
      s.emitOut (.pulse 1 (3932160 * max 1 (fld c 16 8)))
    else s

/-- PPS_IN_EDGE (R451): the edge is latched, and with SRC 2 it gives a sample; the first step takes its seconds from
TIME_TOD, and no later one (DEDUCED, log entry 34). RATE in the servo's answer is firmware's: a free value (log entry 2). -/
def execPpsInEdge : State → Host.Outcome State Fault Refusal :=
  act fun s =>
    let l : Int := (s.x : Int) - (s.reg rTimePpsindly).toInt
    let s := s.setReg64 rTimePpsin ((BitVec.ofInt 56 l).zeroExtend 64)
    let s : State := { s with time := { s.time with ppsAt := s.clock } }
    if s.timeSrc ≠ 2 then s
    else
      let near : Int := (l + (second / 2 : Nat)) / (second : Int) * second
      let (w, s) := s.draw
      let tod := (fld (s.reg64 rTimeTod) 0 48 : Nat)
      s.sample (l - near) (if s.time.todUsed then 0 else (tod * second : Nat) - near) (w.truncate 40)

/-- PPS_MISSING (R451): 1.5 s without an edge, which counts as loss of source. -/
def execPpsMissing : State → Host.Outcome State Fault Refusal :=
  act fun s =>
    if s.timeSrc = 2 && decide (s.time.ppsAt + 5898240000 ≤ s.clock) then
      let s := s.signal 87
      if s.time.servo = .locked then (s.signal 82).toHoldover else s
    else s

/-- TIME_STAT (R454). -/
def servoCode : Servo → Nat
  | .unlocked => 0
  | .locked => 1
  | .holdover => 2

def State.timeStat (s : State) : BitVec 32 :=
  BitVec.ofNat 32 (servoCode s.time.servo + 4 * s.time.stepgen.toNat + 64 * s.time.tsqovf.toNat + 128 * s.time.tsyncV.toNat +
    256 * s.time.lossto.toNat)

/-- The time unit at an exit from BOG or PEAT (R439, R452). -/
def State.timeAfterBog (s : State) : State := { s.setServo .unlocked with time := { (s.setServo .unlocked).time with tsyncV := false } }

/-! ## Synchronising resets (R218-R221) -/

/-- The first tick of the TSYNC grid at or after `t` (R218, R449). -/
def State.gridTick (s : State) (t : Int) : Option Int :=
  let n : Int := s.tsyncPeriod
  if !s.time.tsyncV || n = 0 then none
  else
    let l : Int := fld (s.reg64 rTimeTsynclat) 0 56
    some (l + ((t - l + n - 1) / n) * n)

/-- A SYNC_RESET that passed the common checks: its reset tick, and the directions that are not late (R218). -/
def State.takeSync (s : State) (t : Nat) (it : Item) : State :=
  let b := it.body
  let a := fullTick it.tag.air s.now
  let t0 := if pbit b 6 then s.gridTick a else some a
  match t0 with
  | none => s.bump (cTile t 3)
  | some t0 =>
    if 2 ^ 24 < t0 - a then s.bump (cTile t 3)
    else
      let named := (if pbit b 0 then [Dir.tx] else []) ++ (if pbit b 1 then [Dir.rx] else [])
      let isLate := fun (d : Dir) => !it.tag.late && decide (lead it.tag.air s.now < ((leadRow .flt d).1 : Int))
      let s := (named.filter isLate).foldl (fun s _ => (s.bump (cTile t 2)).signal (4 * t)) s
      let dirs := named.filter fun d => !isLate d
      if dirs.isEmpty then s
      else { s with rx := { s.rx with syncs := s.rx.syncs ++ [⟨t, t0.toNat, dirs, pbits b 2 4, it.tag⟩] } }

/-- SYNC_RESET (R218). -/
def execSyncReset (t : Tile) (g : Tag) (body : Bytes) : State → Host.Outcome State Fault Refusal :=
  act fun s =>
    let it := mkItem kSyncReset g body
    s.arrive .flt t.val it fun _ s => s.takeSync t.val it

/-- SYNC_RESET_T0 (R219-R221): the named chains of the tile start from zero, and a WARMUP span begins on those that run; it is empty on
the others. -/
def execSyncResetT0 (t : Tile) : State → Host.Outcome State Fault Refusal :=
  act fun s =>
    let due := fun (y : SyncReset) => y.tile = t.val && decide (y.t0 ≤ s.now.toNat)
    let ys := s.rx.syncs.filter due
    let spans := ys.flatMap fun y => y.dirs.flatMap fun d => (bitsSet y.cars 4).map fun c =>
      let df : Int := if (s.carOf t.val d c).on && !s.fnStopped 9 t.val then s.chainDf t.val d c else 0
      ({ tile := t.val, dir := d, car := c, lo := y.t0 - df, hi := y.t0 + df, t0 := y.t0 } : WarmSpan)
    let keep := s.rx.warm.filter fun w => decide ((s.now.toNat : Int) - 2 ^ 26 < w.hi)
    { s with rx := { s.rx with syncs := s.rx.syncs.filter fun y => !due y, warm := keep ++ spans } }

end Sys2Proof.Machine
end

