-- ==== Sys2Proof/Machine/Vc.lean ====
section
/-! DEFINITION. The vector cores: their control, the vector slot, and the scalar slot apart from its memory accesses
(R346-R365, R371-R375). -/

namespace Sys2Proof.Machine
open Sys2Proof

/-! ## Registers (R352) -/

def VcSt.vreg (x : VcSt) (r : Nat) : BitVec 512 := tget (fun _ => 0) x.v r
def VcSt.areg (x : VcSt) (r : Nat) : BitVec 40 := tget (fun _ => 0) x.a r
/-- o0 and s0 read zero. -/
def VcSt.oreg (x : VcSt) (r : Nat) : BitVec 32 := if r = 0 then 0 else tget (fun _ => 0) x.o r
def VcSt.sreg (x : VcSt) (r : Nat) : BitVec 64 := if r = 0 then 0 else tget (fun _ => 0) x.s r
def VcSt.setV (x : VcSt) (r : Nat) (w : BitVec 512) : VcSt := { x with v := tput (fun _ => 0) r w x.v }
def VcSt.setA (x : VcSt) (r : Nat) (w : BitVec 40) : VcSt := { x with a := tput (fun _ => 0) r w x.a }
/-- Writes to o0 and s0 are ignored. -/
def VcSt.setO (x : VcSt) (r : Nat) (w : BitVec 32) : VcSt := if r = 0 then x else { x with o := tput (fun _ => 0) r w x.o }
def VcSt.setS (x : VcSt) (r : Nat) (w : BitVec 64) : VcSt := if r = 0 then x else { x with s := tput (fun _ => 0) r w x.s }

/-- A rail of an accumulator, 0 I and 1 Q. -/
def VcSt.accRail (x : VcSt) (r lane rail : Nat) : Int := (tget (fun _ => (0 : BitVec 48)) x.acc (32 * r + 2 * lane + rail)).toInt
def VcSt.accOvf (x : VcSt) (r lane : Nat) : Bool := x.ovf.getLsbD (16 * r + lane)
/-- The 32 rails and the flags of an accumulator. -/
def VcSt.accRails (x : VcSt) (r : Nat) : List Int := (List.range 32).map fun i => x.accRail r (i / 2) (i % 2)
def VcSt.accFlags (x : VcSt) (r : Nat) : BitVec 16 := x.ovf.extractLsb' (16 * r) 16

def VcSt.setAcc (x : VcSt) (r : Nat) (rails : List Int) (ovf : BitVec 16) : VcSt :=
  { x with
    acc := (List.range 32).foldl (fun m i => tput (fun _ => 0) (32 * r + i) (BitVec.ofInt 48 (rails.getD i 0)) m) x.acc
    ovf := setFld x.ovf (16 * r) 16 ovf.toNat }

/-- Rails of a vector register: 32 of 16 bits (T = 0), or 16 of 32 bits (T = 1) (R353). -/
def vecRails (t : Bool) (w : BitVec 512) : List Int :=
  if t then (List.range 16).map fun i => (w.extractLsb' (32 * i) 32).toInt
  else (List.range 32).map fun i => (w.extractLsb' (16 * i) 16).toInt

/-- The register image of rails. -/
def vecOf (t : Bool) (rails : List Int) : BitVec 512 :=
  let b := if t then 32 else 16
  BitVec.ofNat 512 ((rails.zipIdx.map fun (x, i) => toTwos b x * 2 ^ (b * i)).sum)

/-- Rails clamped to the lane type, and whether any clamp changed one (R361). -/
def clampRails (t : Bool) (rails : List Int) : List Int × Bool :=
  let b := if t then 32 else 16
  (rails.map (satN b), rails.any (clampsN b))

/-! ## Rounding (R356) -/

/-- x / 2^k rounded by VCn_CFG.RND. -/
def roundBy (rnd : Nat) (x : Int) (k : Nat) : Int :=
  if k = 0 then x
  else
    match rnd with
    | 0 => x / 2 ^ k
    | 1 => (x + 2 ^ (k - 1)) / 2 ^ k
    | _ =>
      let q := x / 2 ^ k
      let r := x % (2 ^ k : Int)
      if r < 2 ^ (k - 1) then q else if r > 2 ^ (k - 1) then q + 1 else if q % 2 = 0 then q else q + 1

/-- VCn_CFG.RND. -/
def State.vcRnd (s : State) (n : Nat) : Nat := fld (s.reg (rVcCfg n)) 0 2

/-! ## Bundles (R350, R362) -/

/-- The registers that a vector-slot word writes. -/
def VWrite.regs : VWrite → List VReg
  | .none => []
  | .vec i _ => [.v i]
  | .acc i _ _ => [.acc i]
  | .scalar i _ => if i = 0 then [] else [.s i]

/-- Scalar register `d` as a destination; a write to s0 is ignored. -/
def sDest (d : SField) : List VReg := if d = 0 then [] else [.s d.toNat]

/-- The address register that an access post-modifies, none with o0. -/
def postDest (ax oy : SField) : List VReg := if oy = 0 then [] else [.a ax.toNat]

/-- A word of the bundle that came before writes one of the registers that this word writes. The flags are no such register
(DEDUCED, log entry 43). -/
def VcSt.clash (x : VcSt) (w : List VReg) : Bool :=
  (match x.staged, x.word0 with
    | some r, _ => r.write.regs
    | none, some y => y.writes
    | none, none => []).any w.contains

/-- Word 0 of a bundle that issues its words one by one begins: what it may change is kept. -/
def VcSt.begin (x : VcSt) (w : List VReg) : VcSt :=
  if x.staged.isSome || x.pc.toNat % 8 ≠ 0 then x
  else { x with word0 := some { v := x.v, acc := x.acc, ovf := x.ovf, a := x.a, o := x.o, s := x.s, f := x.f, stOvf := x.stOvf
                                stSat := x.stSat, stDom := x.stDom, writes := w } }

/-- What word 0 of the bundle changed in the core is as before it. -/
def VcSt.undone (x : VcSt) : VcSt :=
  match x.word0 with
  | none => x
  | some y => { x with v := y.v, acc := y.acc, ovf := y.ovf, a := y.a, o := y.o, s := y.s, f := y.f, stOvf := y.stOvf
                       stSat := y.stSat, stDom := y.stDom, word0 := none }

/-- The bundle of core `n` is not executed: what its word 0 changed is as before it, in its own data memory too. Remote stores and
events that have left the core stand (DEDUCED, log entry 43). -/
def State.vcUndo (s : State) (n : Nat) : State :=
  let x := s.vcOf n
  let s := match x.word0 with
    | none => s
    | some y => y.undo.foldl (fun (s : State) (b : Nat × Byte) => s.setByte b.1 b.2) s
  s.setVc n x.undone

/-! ## Faults, issue and completion (R350, R351, R362, R364, R365) -/

/-- A program fault: neither word of the bundle executes; the bundle's address and the cause are latched. -/
def State.vcFault (s : State) (n cause : Nat) : State :=
  let s := s.vcUndo n
  let x := s.vcOf n
  (s.setVc n { x with state := .faulted, cause := BitVec.ofNat 8 cause, staged := none, stall := .none
                      faultpc := BitVec.ofNat 18 (x.pc.toNat / 8 * 8) }).vcCause n 0

/-- The core can issue: it runs, and its island is on. -/
def State.vcReady (s : State) (n : Nat) : Bool := s.vcOn n && (s.vcOf n).state = .running

/-- Checks the fetch of the bundle at the program counter: outside program memory an error response, poisoned where a byte
fails (R350). -/
def State.vcFetch (s : State) (n : Nat) : Option Nat × State :=
  let pc := (s.vcOf n).pc.toNat
  if 0x40000 ≤ pc then (some 3, s)
  else
    let (s, bad) := (checkedUnits (.vcProg n) (vcProg n + pc / 8 * 8) 8).foldl (State.checkUnit (.vcProg n)) (s, false)
    if bad then (some 4, s.poisonRead (vcProg n + pc / 8 * 8)) else (none, s)

/-- Applies the result of a V word. An overflow raises at most one event (R355). -/
def State.vcApply (s : State) (n : Nat) (r : VRes) : State :=
  let x := s.vcOf n
  let x := match r.write with
    | .none => x
    | .vec i w => x.setV i w
    | .acc i rails ovf => x.setAcc i rails ovf
    | .scalar i w => x.setS i w
  let s := s.setVc n { x with stOvf := x.stOvf || r.ovf, stSat := x.stSat || r.sat, stDom := x.stDom || r.dom }
  if r.ovf && (s.reg (rVcCfg n)).getLsbD 2 then s.vcCause n 1 else s

/-- The program counter after the word at `last`: the innermost loop whose body ends there repeats, or ends and lets the
next level decide. -/
def loopNext : List VLoop → Nat → List VLoop × Nat
  | [], last => ([], last + 4)
  | l :: ls, last =>
    if l.last ≠ last then (l :: ls, last + 4)
    else if 1 < l.left then ({ l with left := l.left - 1 } :: ls, l.first)
    else loopNext ls last

/-- The core at a bundle boundary: it runs, or it stops where RUN has been cleared (R349). -/
def VcSt.atBoundary (x : VcSt) : VcSt :=
  { x with staged := none, word0 := none, stall := .none, state := if x.run then .running else .stopped }

/-- Moves on past the word at `last`: to word 1 of the same bundle, or past the bundle. Loops are kept outermost first. -/
def VcSt.next (x : VcSt) (last : Nat) : VcSt :=
  let (ls, pc) := loopNext x.loops.reverse last
  let x := { x with loops := ls.reverse, pc := BitVec.ofNat 20 pc }
  if x.staged.isNone && last % 8 = 0 && pc = last + 4 then { x with stall := .none, state := .running } else x.atBoundary

/-- Address of the S word that issues now: word 1 of a dual-issued bundle, else the word at the program counter. -/
def VcSt.sAddr (x : VcSt) : Nat := if x.staged.isSome then x.pc.toNat + 4 else x.pc.toNat

/-- The bundle's V word, if it has one, takes effect, and the core moves on. -/
def State.vcDone (s : State) (n : Nat) : State :=
  let x := s.vcOf n
  let last := x.sAddr
  let s := match x.staged with
    | some r => s.vcApply n r
    | none => s
  s.setVc n ((s.vcOf n).next last)

/-- Loops whose body a taken branch to `t` leaves end: the innermost, then every outer level that it also leaves. -/
def dropLoops : List VLoop → Nat → List VLoop
  | [], _ => []
  | l :: ls, t => if l.first ≤ t ∧ t ≤ l.last then l :: ls else dropLoops ls t

/-- A taken branch (R364). -/
def State.vcJump (s : State) (n : Nat) (t : Int) : State :=
  if t % 4 ≠ 0 then s.vcFault n 2
  else if t < 0 ∨ 0x3FFFC < t then s.vcFault n 3
  else
    let x := s.vcOf n
    let s := match x.staged with
      | some r => s.vcApply n r
      | none => s
    let y := s.vcOf n
    s.setVc n { y with pc := BitVec.ofNat 20 t.toNat, loops := (dropLoops y.loops.reverse t.toNat).reverse }.atBoundary

/-- A V word issues. With `dual` it is word 0 of a bundle whose word 1 is an S word: its operands are read now, and it
writes when the S word has read its own (R362). -/
def State.vIssue (s : State) (n : Nat) (dual ok : Bool) (f : VcSt → VRes) : State :=
  if !s.vcReady n || (s.vcOf n).staged.isSome then s
  else
    match s.vcFetch n with
    | (some c, s) => s.vcFault n c
    | (none, s) =>
      let x := s.vcOf n
      let r := f x
      if !ok then s.vcFault n 1
      else if x.clash r.write.regs then s.vcFault n 5
      else if dual && x.pc.toNat % 8 = 0 then s.setVc n { x with staged := some r }
      else
        let s := (s.setVc n (x.begin r.write.regs)).vcApply n r
        s.setVc n ((s.vcOf n).next x.pc.toNat)

/-- An S word issues: `ok` are its fields, `dst` the registers it writes, `f` its effect, which must move the core on. -/
def State.sIssue (s : State) (n : Nat) (ok : Bool) (dst : List VReg) (f : State → State) : State :=
  if !s.vcReady n then s
  else
    match s.vcFetch n with
    | (some c, s) => s.vcFault n c
    | (none, s) =>
      if !ok then s.vcFault n 1
      else if (s.vcOf n).clash dst then s.vcFault n 5
      else f (s.setVc n ((s.vcOf n).begin dst))

/-! ## Control (R349, R350, R374, R375) -/

/-- Clears registers, flags, accumulators, loops; the stores already issued complete. -/
def VcSt.cleared (x : VcSt) : VcSt := { stores := x.stores, runAt := x.runAt }

/-- Starts a core at VCn_ENTRY. -/
def State.vcStart (s : State) (n : Nat) (x : VcSt) : State :=
  s.setVc n { x with run := true, state := .running, pc := BitVec.ofNat 20 (fld (s.reg (rVcEntry n)) 2 16 * 4), staged := none
                     word0 := none, stall := .none, runAt := s.clock }

/-- RUN set: a STOPPED core starts. -/
def State.vcRun (s : State) (n : Nat) : State :=
  let x := s.vcOf n
  if x.state = .stopped then s.vcStart n { x with loops := [] } else s.setVc n { x with run := true }

/-- The core runs, and word 0 of its bundle has issued alone. -/
def VcSt.midBundle (x : VcSt) : Bool := x.state = .running && x.word0.isSome && x.staged.isNone && decide (x.pc.toNat % 8 = 4)

/-- RUN cleared: the core stops at the next bundle boundary, and a bundle stalled at that moment is abandoned unexecuted. -/
def State.vcStop (s : State) (n : Nat) : State :=
  let x := s.vcOf n
  if x.state = .faulted || x.midBundle then s.setVc n { x with run := false }
  else
    let s := s.vcUndo n
    s.setVc n { s.vcOf n with run := false, state := .stopped, staged := none, stall := .none }

/-- HALT has completed: RUN is clear, and the core is STOPPED. -/
def State.vcHalt (s : State) (n : Nat) : State := s.setVc n { s.vcOf n with run := false }.atBoundary

/-- RESTART clears all core state and starts. -/
def State.vcRestart (s : State) (n : Nat) : State := s.vcStart n (s.vcOf n).cleared

/-- A write to VCn_CTRL. -/
def State.writeVcCtrl (s : State) (n : Nat) (v : BitVec 32) : State :=
  if v.getLsbD 1 then s.vcRestart n
  else if v.getLsbD 0 then s.vcRun n else s.vcStop n

/-- VC_RUN, VC_STOP and VC_RESTART: writes of VCn_CTRL. -/
def execVcRun (w : Initiator) (n : Vc) : State → Host.Outcome State Fault Refusal :=
  unitAct w (0x1A000 + 0x40 * n.val) fun s => (s.writeVcCtrl n.val 1).done
def execVcStop (w : Initiator) (n : Vc) : State → Host.Outcome State Fault Refusal :=
  unitAct w (0x1A000 + 0x40 * n.val) fun s => (s.writeVcCtrl n.val 0).done
def execVcRestart (w : Initiator) (n : Vc) : State → Host.Outcome State Fault Refusal :=
  unitAct w (0x1A000 + 0x40 * n.val) fun s => (s.writeVcCtrl n.val 2).done

def vcCode : VcState → Nat
  | .stopped => 0
  | .running => 1
  | .stalled => 2
  | .sleeping => 3
  | .faulted => 4

/-- VCn_STAT (R375). -/
def State.vcStat (s : State) (n : Nat) : BitVec 64 :=
  let x := s.vcOf n
  BitVec.ofNat 64 (vcCode x.state + 8 * x.stOvf.toNat + 16 * x.stSat.toNat + 32 * x.stDom.toNat + 2 ^ 8 * x.cause.toNat +
    x.loops.length * 2 ^ 16 + x.faultpc.toNat * 2 ^ 32)

/-! ## The vector slot (R355-R361, R372) -/

/-- Operand fields by kind of register (R371). -/
def accField (f : VField) : Bool := f.toNat < 8
def scalarField (f : VField) : Bool := f.toNat < 16
/-- Bits [9:lo] of vf are zero. -/
def vfZero (f : VfField) (lo : Nat) : Bool := f.toNat < 2 ^ lo

/-- One rail pair added to a lane under R355. -/
def macLane (frozen : Bool) (acc p : Int × Int) : (Int × Int) × Bool :=
  if frozen then (acc, true)
  else
    let t := (acc.1 + p.1, acc.2 + p.2)
    let o1 := clampsN 48 t.1
    let o2 := clampsN 48 t.2
    if o1 || o2 then ((if o1 then satN 48 t.1 else acc.1, if o2 then satN 48 t.2 else acc.2), true) else (t, false)

/-- A product of two C16 lanes, `cj` conjugating the second, `neg` negating. -/
def laneMul (x y : Int × Int) (cj neg : Bool) : Int × Int :=
  let yq := if cj then -y.2 else y.2
  let r := (x.1 * y.1 - x.2 * yq, x.1 * yq + x.2 * y.1)
  if neg then (-r.1, -r.2) else r

def laneOf16 (rails : List Int) (i : Nat) : Int × Int := (rails.getD (2 * i) 0, rails.getD (2 * i + 1) 0)

/-- The results of 16 lanes as an accumulator. -/
def accOfLanes (r : Nat) (ls : List ((Int × Int) × Bool)) (fresh : Bool) : VRes where
  write := .acc r (ls.flatMap fun l => [l.1.1, l.1.2]) (BitVec.ofNat 16 ((ls.zipIdx.map fun (l, i) => l.2.toNat * 2 ^ i).sum))
  ovf   := fresh

/-- VNOP: every field is zero. -/
def execVNop (n : Vc) (dual : Bool) (vd va vb : VField) (vf : VfField) : State → Host.Outcome State Fault Refusal :=
  act fun s => s.vIssue n.val dual (vd = 0 && va = 0 && vb = 0 && vf = 0) fun _ => {}

/-- VCMAC (R355). -/
def execVCmac (n : Vc) (dual : Bool) (vd va vb : VField) (vf : VfField) : State → Host.Outcome State Fault Refusal :=
  act fun s => s.vIssue n.val dual (accField vd && vfZero vf 8) fun x =>
    let d := vd.toNat
    let ra := vecRails false (x.vreg va.toNat)
    let rb := vecRails false (x.vreg vb.toNat)
    let ls := (List.range 16).map fun i =>
      let p := laneMul (laneOf16 ra (if vf.getLsbD 4 then fld vf 0 4 else i)) (laneOf16 rb i) (vf.getLsbD 5) (vf.getLsbD 6)
      if vf.getLsbD 7 then (p, false)
      else macLane (x.accOvf d i) (x.accRail d i 0, x.accRail d i 1) p
    let fresh := !vf.getLsbD 7 && (List.range 16).any fun i => !x.accOvf d i && (ls.getD i ((0, 0), false)).2
    accOfLanes d ls fresh

/-- A vector result clamped to the lane type (R361). -/
def vecRes (t : Bool) (d : VField) (rails : List Int) : VRes :=
  let (r, c) := clampRails t rails
  { write := .vec d.toNat (vecOf t r), sat := c }

/-- VADD. -/
def execVAdd (n : Vc) (dual : Bool) (vd va vb : VField) (vf : VfField) : State → Host.Outcome State Fault Refusal :=
  act fun s => s.vIssue n.val dual (vfZero vf 2) fun x =>
    let t := vf.getLsbD 0
    vecRes t vd (List.zipWith (fun p q => if vf.getLsbD 1 then p - q else p + q)
      (vecRails t (x.vreg va.toNat)) (vecRails t (x.vreg vb.toNat)))

/-- VCONJ. -/
def execVConj (n : Vc) (dual : Bool) (vd va vb : VField) (vf : VfField) : State → Host.Outcome State Fault Refusal :=
  act fun s => s.vIssue n.val dual (vfZero vf 1) fun x =>
    let _ := vb
    let t := vf.getLsbD 0
    vecRes t vd ((vecRails t (x.vreg va.toNat)).zipIdx.map fun (p, i) => if i % 2 = 1 then -p else p)

/-- x × 2^k with the rounding of R356; beyond 64 places the result does not change. -/
def normRail (rnd : Nat) (k x : Int) : Int :=
  if k ≥ 0 then x * 2 ^ (min k 64).toNat else roundBy rnd x (min (-k) 64).toNat

/-- VNORM (R359). -/
def execVNorm (n : Vc) (dual : Bool) (vd va vb : VField) (vf : VfField) : State → Host.Outcome State Fault Refusal :=
  act fun s => s.vIssue n.val dual (scalarField vb && vfZero vf 1) fun x =>
    let t := vf.getLsbD 0
    vecRes t vd ((vecRails t (x.vreg va.toNat)).map (normRail (s.vcRnd n.val) (x.sreg vb.toNat).toInt))

/-- Bits of a number. -/
def bitLen (x : Nat) : Nat := if x = 0 then 0 else Nat.log2 x + 1

/-- Redundant sign bits of a rail of `w` bits (R358). -/
def signBits (w : Nat) (x : Int) : Nat := w - 1 - bitLen (if x < 0 then (-x - 1).toNat else x.toNat)

/-- VEXP (R358). -/
def execVExp (n : Vc) (dual : Bool) (vd va vb : VField) (vf : VfField) : State → Host.Outcome State Fault Refusal :=
  act fun s => s.vIssue n.val dual (scalarField vd && vfZero vf 2 && (!vf.getLsbD 1 || accField va)) fun x =>
    let _ := vb
    let w := if vf.getLsbD 1 then 48 else if vf.getLsbD 0 then 32 else 16
    let rails := if vf.getLsbD 1 then x.accRails va.toNat else vecRails (vf.getLsbD 0) (x.vreg va.toNat)
    { write := .scalar vd.toNat (BitVec.ofNat 64 (rails.foldl (fun a r => min a (signBits w r)) (w - 1))) }

/-- VRND (R357). -/
def execVRnd (n : Vc) (dual : Bool) (vd va vb : VField) (vf : VfField) : State → Host.Outcome State Fault Refusal :=
  act fun s =>
    let src := vf.getLsbD 8
    let ok := accField va && vfZero vf 9 && fld vf 0 6 < 48 && (!src || (scalarField vb && fld vf 0 6 = 0))
    s.vIssue n.val dual ok fun x =>
      let v := (x.sreg vb.toNat).toNat
      let sh := if src then (if v ≤ 47 then v else 47) else fld vf 0 6
      let rails := x.accRails va.toNat
      let rails := if vf.getLsbD 6 then (rails.drop (if vf.getLsbD 7 then 16 else 0)).take 16 else rails
      vecRes (vf.getLsbD 6) vd (rails.map fun r => roundBy (s.vcRnd n.val) r sh)

/-- Integer square root, rounded down, of a number below 2^96. -/
def vcSqrt (x : Nat) : Nat :=
  (List.range 48).foldl (fun r i => if (r + 2 ^ (47 - i)) * (r + 2 ^ (47 - i)) ≤ x then r + 2 ^ (47 - i) else r) 0

/-- The even n of R360 for a positive x: 2^28 ≤ x × 2^n < 2^30. -/
def rsqN (x : Nat) : Int :=
  let b : Int := bitLen x
  let d := 29 - b
  if d % 2 = 0 then d else d + 1

/-- VRSQ's lane for a positive x (R360): y is a fixed function of x within the bound, its value not given (log entry 2). -/
def rsqLane (x : Nat) : Int × Int :=
  let n := rsqN x
  let num := x * 2 ^ (n + 2).toNat
  -- y² × u / 2^58 lies between (1 - 2^-12)² and (1 + 2^-12)², with u = num / 2^32
  let least := ceilDiv (4095 * 4095 * 2 ^ 66) num
  let root := vcSqrt least
  let lo := max (2 ^ 29) (if root * root = least then root else root + 1)
  let hi := min (2 ^ 30) (vcSqrt (4097 * 4097 * 2 ^ 66 / num))
  let pick := (Config.vrsq (BitVec.ofNat 512 x)).toNat
  (((lo + pick % (hi - lo + 1) : Nat) : Int), n / 2)

/-- VRSQ (R360). -/
def execVRsq (n : Vc) (dual : Bool) (vd va vb : VField) (vf : VfField) : State → Host.Outcome State Fault Refusal :=
  act fun s => s.vIssue n.val dual (vfZero vf 0) fun x =>
    let _ := vb
    let xs := (List.range 8).map fun i => (vecRails true (x.vreg va.toNat)).getD (2 * i) 0
    let ls := xs.map fun v => if v ≤ 0 then ((0x7FFFFFFF : Int), (0 : Int)) else rsqLane v.toNat
    { write := .vec vd.toNat (vecOf true (ls.flatMap fun l => [l.1, l.2])), dom := xs.any fun v => decide (v ≤ 0) }

/-- With T = 1, LANE is 0 to 7 (R372). -/
def laneOk (vf : VfField) : Bool := vfZero vf 5 && (!vf.getLsbD 4 || fld vf 0 4 < 8)
/-- Image of a lane. -/
def laneImage (t : Bool) (w : BitVec 512) (i : Nat) : Nat := if t then fld w (64 * i) 64 else fld w (32 * i) 32

/-- VSPLAT. -/
def execVSplat (n : Vc) (dual : Bool) (vd va vb : VField) (vf : VfField) : State → Host.Outcome State Fault Refusal :=
  act fun s => s.vIssue n.val dual (laneOk vf) fun x =>
    let _ := vb
    let t := vf.getLsbD 4
    let b := if t then 64 else 32
    let l := laneImage t (x.vreg va.toNat) (fld vf 0 4)
    { write := .vec vd.toNat (BitVec.ofNat 512 (((List.range (512 / b)).map fun i => l * 2 ^ (b * i)).sum)) }

/-- VHADD: the lanes are added in order, under R355 from zero. -/
def execVHadd (n : Vc) (dual : Bool) (vd va vb : VField) (vf : VfField) : State → Host.Outcome State Fault Refusal :=
  act fun s => s.vIssue n.val dual (accField vd && accField va && vfZero vf 0) fun x =>
    let _ := vb
    let a := va.toNat
    let r := (List.range 16).foldl (fun l i => macLane l.2 l.1 (x.accRail a i 0, x.accRail a i 1)) ((0, 0), false)
    accOfLanes vd.toNat ((r.1, r.2 || x.accFlags a ≠ 0) :: List.replicate 15 ((0, 0), false)) r.2

/-- ACLR. -/
def execVAclr (n : Vc) (dual : Bool) (vd va vb : VField) (vf : VfField) : State → Host.Outcome State Fault Refusal :=
  act fun s => s.vIssue n.val dual (accField vd && vfZero vf 0) fun _ =>
    let _ := (va, vb)
    { write := .acc vd.toNat (List.replicate 32 0) 0 }

/-- VMOVS. -/
def execVMovs (n : Vc) (dual : Bool) (vd va vb : VField) (vf : VfField) : State → Host.Outcome State Fault Refusal :=
  act fun s => s.vIssue n.val dual (scalarField vd && laneOk vf) fun x =>
    let _ := vb
    { write := .scalar vd.toNat (BitVec.ofNat 64 (laneImage (vf.getLsbD 4) (x.vreg va.toNat) (fld vf 0 4))) }

/-- VINS. -/
def execVIns (n : Vc) (dual : Bool) (vd va vb : VField) (vf : VfField) : State → Host.Outcome State Fault Refusal :=
  act fun s => s.vIssue n.val dual (scalarField va && laneOk vf) fun x =>
    let _ := vb
    let b := if vf.getLsbD 4 then 64 else 32
    { write := .vec vd.toNat (setFld (x.vreg vd.toNat) (b * fld vf 0 4) b (x.sreg va.toNat).toNat) }

/-- AOVF. -/
def execVAovf (n : Vc) (dual : Bool) (vd va vb : VField) (vf : VfField) : State → Host.Outcome State Fault Refusal :=
  act fun s => s.vIssue n.val dual (scalarField vd && accField va && vfZero vf 0) fun x =>
    let _ := vb
    { write := .scalar vd.toNat ((x.accFlags va.toNat).zeroExtend 64) }

/-! ## The scalar slot (R354, R373) -/

/-- An S word that changes the core's registers alone and moves on. -/
def State.sReg (s : State) (n : Nat) (ok : Bool) (dst : List VReg) (f : VcSt → VcSt) : State :=
  s.sIssue n ok dst fun s => (s.setVc n (f (s.vcOf n))).vcDone n

/-- An ALU instruction. The V word's scalar operands were read before. -/
def State.sAlu (s : State) (n : Nat) (d x y : SField) (f : BitVec 64 → BitVec 64 → BitVec 64 × BitVec 4) : State :=
  s.sReg n true (sDest d) fun c =>
    let (r, fl) := f (c.sreg x.toNat) (c.sreg y.toNat)
    { c.setS d.toNat r with f := fl }

/-- SNOP: every field is zero. -/
def execSNop (n : Vc) (d x y : SField) (func : BitVec 13) : State → Host.Outcome State Fault Refusal :=
  act fun s => s.sReg n.val (d = 0 && x = 0 && y = 0 && func = 0) [] id
def execSAdd (n : Vc) (d x y : SField) : State → Host.Outcome State Fault Refusal :=
  act fun s => s.sAlu n.val d x y addFlags
def execSSub (n : Vc) (d x y : SField) : State → Host.Outcome State Fault Refusal :=
  act fun s => s.sAlu n.val d x y subFlags
def execSAnd (n : Vc) (d x y : SField) : State → Host.Outcome State Fault Refusal :=
  act fun s => s.sAlu n.val d x y fun p q => aluFlags (p &&& q)
def execSOr (n : Vc) (d x y : SField) : State → Host.Outcome State Fault Refusal :=
  act fun s => s.sAlu n.val d x y fun p q => aluFlags (p ||| q)
def execSXor (n : Vc) (d x y : SField) : State → Host.Outcome State Fault Refusal :=
  act fun s => s.sAlu n.val d x y fun p q => aluFlags (p ^^^ q)
def execSSll (n : Vc) (d x y : SField) : State → Host.Outcome State Fault Refusal :=
  act fun s => s.sAlu n.val d x y fun p q => aluFlags (p <<< fld q 0 6)
def execSSrl (n : Vc) (d x y : SField) : State → Host.Outcome State Fault Refusal :=
  act fun s => s.sAlu n.val d x y fun p q => aluFlags (p >>> fld q 0 6)
def execSSra (n : Vc) (d x y : SField) : State → Host.Outcome State Fault Refusal :=
  act fun s => s.sAlu n.val d x y fun p q => aluFlags (p.sshiftRight (fld q 0 6))
def execSMul (n : Vc) (d x y : SField) : State → Host.Outcome State Fault Refusal :=
  act fun s => s.sAlu n.val d x y fun p q => aluFlags (p * q)
def execSSlt (n : Vc) (d x y : SField) : State → Host.Outcome State Fault Refusal :=
  act fun s => s.sAlu n.val d x y fun p q => aluFlags (if p.toInt < q.toInt then 1 else 0)
def execSSltu (n : Vc) (d x y : SField) : State → Host.Outcome State Fault Refusal :=
  act fun s => s.sAlu n.val d x y fun p q => aluFlags (if p.toNat < q.toNat then 1 else 0)
def execSMin (n : Vc) (d x y : SField) : State → Host.Outcome State Fault Refusal :=
  act fun s => s.sAlu n.val d x y fun p q => aluFlags (if p.toInt < q.toInt then p else q)
def execSMax (n : Vc) (d x y : SField) : State → Host.Outcome State Fault Refusal :=
  act fun s => s.sAlu n.val d x y fun p q => aluFlags (if p.toInt < q.toInt then q else p)

def execSAddi (n : Vc) (d x : SField) (imm : BitVec 17) : State → Host.Outcome State Fault Refusal :=
  act fun s => s.sAlu n.val d x 0 fun p _ => addFlags p (imm.signExtend 64)
def execSLi (n : Vc) (d x : SField) (imm : BitVec 17) : State → Host.Outcome State Fault Refusal :=
  act fun s => s.sReg n.val (x = 0) (sDest d) fun c => c.setS d.toNat (imm.signExtend 64)
def execSLih (n : Vc) (d x : SField) (imm : BitVec 17) : State → Host.Outcome State Fault Refusal :=
  act fun s => s.sReg n.val (x = 0 && !imm.getLsbD 16) (sDest d) fun c =>
    c.setS d.toNat ((c.sreg d.toNat <<< 16) ||| (imm.zeroExtend 64))

/-- The register that MOV writes. -/
def movDest (to_ : Nat) (d : SField) : List VReg :=
  match to_ with
  | 0 => sDest d
  | 1 => [.a d.toNat]
  | _ => if d = 0 then [] else [.o d.toNat]

/-- MOV between the scalar, address and offset files. -/
def execSMov (n : Vc) (d x y : SField) (func : BitVec 13) : State → Host.Outcome State Fault Refusal :=
  act fun s =>
    let to_ := fld func 0 2
    let from_ := fld func 2 2
    s.sReg n.val (y = 0 && func.toNat < 16 && to_ ≠ 3 && from_ ≠ 3) (movDest to_ d) fun c =>
      let v : BitVec 64 := match from_ with
        | 0 => c.sreg x.toNat
        | 1 => (c.areg x.toNat).zeroExtend 64
        | _ => (c.oreg x.toNat).signExtend 64
      match to_ with
      | 0 => c.setS d.toNat v
      | 1 => c.setA d.toNat (v.truncate 40)
      | _ => c.setO d.toNat (v.truncate 32)

def execSAaddi (n : Vc) (d x : SField) (imm : BitVec 17) : State → Host.Outcome State Fault Refusal :=
  act fun s => s.sReg n.val true [.a d.toNat] fun c => c.setA d.toNat (c.areg x.toNat + imm.signExtend 40)

/-- The target of a branch from the S word's own address. -/
def State.vcTarget (s : State) (n : Nat) (off : BitVec 20) : Int := (s.vcOf n).sAddr + off.toInt * 4

/-- B. -/
def execSB (n : Vc) (cond : BitVec 5) (off : BitVec 20) : State → Host.Outcome State Fault Refusal :=
  act fun s => s.sIssue n.val (aluCond (s.vcOf n.val).f cond.toNat).isSome [] fun s =>
    if aluCond (s.vcOf n.val).f cond.toNat = some true then s.vcJump n.val (s.vcTarget n.val off) else s.vcDone n.val

/-- The branch to `t` faults; a bundle that faults executes neither word. -/
def badTarget (t : Int) : Bool := t % 4 ≠ 0 || decide (t < 0 ∨ 0x3FFFC < t)

/-- BL: s15 takes the address of the first word after the bundle (R364). -/
def execSBl (n : Vc) (cond : BitVec 5) (off : BitVec 20) : State → Host.Outcome State Fault Refusal :=
  act fun s => s.sIssue n.val (cond = 0) [.s 15] fun s =>
    let t := s.vcTarget n.val off
    let x := s.vcOf n.val
    if badTarget t then s.vcJump n.val t
    else (s.setVc n.val (x.setS 15 (BitVec.ofNat 64 ((x.sAddr / 8 + 1) * 8)))).vcJump n.val t

/-- JR. -/
def execSJr (n : Vc) (d x y : SField) (func : BitVec 13) : State → Host.Outcome State Fault Refusal :=
  act fun s => s.sIssue n.val (d = 0 && y = 0 && func = 0) [] fun s =>
    s.vcJump n.val ((s.vcOf n.val).sreg x.toNat).toNat

/-- LOOP (R365); a count of zero makes no level active. `word1` tells that it is word 1 of its bundle. -/
def execSLoop (n : Vc) (word1 : Bool) (d x : SField) (imm : BitVec 17) : State → Host.Outcome State Fault Refusal :=
  act fun s => s.sIssue n.val (d = 0) [] fun s =>
    let c := s.vcOf n.val
    let at_ := c.sAddr
    let last := at_ + imm.toNat * 4
    let count := (c.sreg x.toNat).toNat
    if !word1 || at_ % 8 ≠ 4 || imm.toNat % 2 = 1 || imm = 0 || (2 ≤ c.loops.length && count ≠ 0) then s.vcFault n.val 6
    else if count = 0 then
      let s := s.vcDone n.val
      s.setVc n.val ((s.vcOf n.val).next last)
    else
      let s := s.vcDone n.val
      let c := s.vcOf n.val
      s.setVc n.val { c with loops := c.loops ++ [⟨at_ + 4, last, count⟩] }

/-- Cycles of 1.5 GHz in ticks of 3.93216 GHz. -/
def cyclesOf (tk : Nat) : Nat := 3125 * tk / 8192
def ticksOfCycles (c : Nat) : Nat := ceilDiv (8192 * c) 3125

/-- MFSR. -/
def execSMfsr (n : Vc) (d x : SField) (imm : BitVec 17) : State → Host.Outcome State Fault Refusal :=
  act fun s =>
    let _ := x
    s.sReg n.val (imm.toNat ≤ 4) (sDest d) fun c =>
      let left := fun (i : Nat) => match c.loops[i]? with
        | some l => l.left
        | none => 0
      let v := match imm.toNat with
        | 0 => s.now.toNat
        | 1 => n.val
        | 2 => cyclesOf (s.clock - c.runAt)
        | 3 => left 0
        | _ => left 1
      c.setS d.toNat (BitVec.ofNat 64 v)

/-- The bundle's V word overflows and raises the core's event (R355). -/
def State.vcRaises (s : State) (n : Nat) : Bool :=
  (s.reg (rVcCfg n)).getLsbD 2 && (s.vcOf n).staged.any VRes.ovf

/-- SEV. With an overflow of the bundle's V word, a cause of the same cycle, it raises one message (R351). -/
def execSSev (n : Vc) (d x y : SField) (func : BitVec 13) : State → Host.Outcome State Fault Refusal :=
  act fun s => s.sIssue n.val (d = 0 && x = 0 && y = 0 && func = 0) [] fun s =>
    let x := s.vcOf n.val
    (if s.vcRaises n.val then s.setVc n.val { x with evcause := setBit x.evcause 2 true } else s.vcCause n.val 2).vcDone n.val

/-- SLEEP. -/
def execSSleep (n : Vc) (d x y : SField) (func : BitVec 13) : State → Host.Outcome State Fault Refusal :=
  act fun s => s.sIssue n.val true [] fun s =>
    let _ := (d, y, func)
    let c := ((s.vcOf n.val).sreg x.toNat).toNat
    let s := s.vcDone n.val
    if c = 0 || (s.vcOf n.val).state ≠ .running then s
    else s.setVc n.val { s.vcOf n.val with state := .sleeping, sleepTo := s.clock + ticksOfCycles c }

/-- SLEEP_END. -/
def execSleepEnd (n : Vc) : State → Host.Outcome State Fault Refusal :=
  act fun s =>
    let x := s.vcOf n.val
    if x.state = .sleeping && x.sleepTo ≤ s.clock && s.vcOn n.val then s.setVc n.val { x with state := .running } else s

/-- FENCE (R369). -/
def execSFence (n : Vc) (d x y : SField) (func : BitVec 13) : State → Host.Outcome State Fault Refusal :=
  act fun s => s.sIssue n.val (d = 0 && x = 0 && y = 0 && func = 0) [] fun s =>
    let c := s.vcOf n.val
    if c.stores.isEmpty then s.vcDone n.val else s.setVc n.val { c with state := .stalled, stall := .fence }

/-- HALT. -/
def execSHalt (n : Vc) (d x y : SField) (func : BitVec 13) : State → Host.Outcome State Fault Refusal :=
  act fun s => s.sIssue n.val true [] fun s =>
    let _ := (d, x, y, func)
    (s.vcDone n.val).vcHalt n.val

/-! ## Fences and power (R374, R521) -/

/-- The core's unit is fenced: FAULTED with cause 0x07, and its event. -/
def State.vcFence (s : State) (n : Nat) : State := s.vcFault n 7

/-- FEN and BOG: everything but the program memory and RUN is lost; a FAULTED core keeps its fault. -/
def State.vcLose (s : State) : State :=
  (List.range 16).foldl (fun s n =>
    let x := s.vcOf n
    let lost : VcSt := { run := x.run, evcause := x.evcause }
    let kept : VcSt := { lost with state := .faulted, run := x.run, cause := x.cause, faultpc := x.faultpc }
    s.setVc n (if x.state = .faulted then kept else lost)) s

end Sys2Proof.Machine
end

