-- ==== Sys2Proof/Machine/Power.lean ====
section
/-! DEFINITION. The power ladder: requests, entries, rollbacks, exits, wakes, and the supplies (R536-R552, R592, R596-R599). -/

namespace Sys2Proof.Machine
open Sys2Proof

/-! ## PWR_CTL items (R50, R342, R538, R539) -/

def pwrTarget (n : Nat) : PState :=
  match n with
  | 0 => .active
  | 1 => .reed
  | 2 => .sedge
  | 3 => .fen
  | 4 => .bog
  | _ => .peat

def itemParty (src : BitVec 4) : PReq := if src.toNat ≤ 4 then .seq src.toNat else .mgmt

/-- A refused request of an item: counted, and a program fault of the issuing sequencer (R338, R538). -/
def State.refusePwr (s : State) (src : BitVec 4) (pc : BitVec 19) : State := (s.bump (cPwr 0)).refuseSeq src pc

/-- Arrival of a PWR_CTL whose STATE is `code`. A late one acts at once: it arms its wake tick, without the distance check, and
asks for ACTIVE alone (R50). -/
def State.arrivePwr (s : State) (code : Nat) (g : Tag) (body : Bytes) : State :=
  let it := mkItem kPwrCtl g (rowPay body 0 3 4 code)
  s.arrive .pwr 0 it fun pc s =>
    if !mayRequest (itemParty g.source) (pwrTarget code) (pbits body 4 4) then s.refusePwr g.source pc
    else if it.tag.late || (s.lateBy .pwr 0 it).isSome then
      let s := if it.tag.late then s else s.bump (domCounter .pwr 0 .latecnt)
      let s := if pbit body 3 then s.armWake (BitVec.ofNat 56 (pbits body 64 56)) else s
      if code = 0 then s.request .active (itemParty g.source) (pbits body 4 4) else s
    else s.queueCtl .pwr 0 it pc

/-- A PWR_CTL acts at its AIRTIME (R539). -/
def State.applyPwrCtl (s : State) (x : QItem) : State :=
  let b := x.item.body
  let target := pwrTarget (pbits b 0 3)
  let p := itemParty x.item.tag.source
  let tick : BitVec 56 := BitVec.ofNat 56 (pbits b 64 56)
  if pbit b 3 && s.wakeTooNear target tick then s.refusePwr x.item.tag.source x.pc
  else (if pbit b 3 then s.armWake tick else s).request target p (pbits b 4 4)

/-- PWR_CTL_ACTIVE, PWR_CTL_REED, PWR_CTL_SEDGE, PWR_CTL_FEN: the row fixes STATE. -/
def execPwrCtlActive (g : Tag) (body : Bytes) : State → Host.Outcome State Fault Refusal :=
  act fun s => s.arrivePwr 0 g body
def execPwrCtlReed (g : Tag) (body : Bytes) : State → Host.Outcome State Fault Refusal :=
  act fun s => s.arrivePwr 1 g body
def execPwrCtlSedge (g : Tag) (body : Bytes) : State → Host.Outcome State Fault Refusal :=
  act fun s => s.arrivePwr 2 g body
def execPwrCtlFen (g : Tag) (body : Bytes) : State → Host.Outcome State Fault Refusal :=
  act fun s => s.arrivePwr 3 g body

/-! ## PWR_REQ (R538, R539, R552) -/

def initParty : Initiator → Option PReq
  | .host => some .host
  | .mgmt => some .mgmt
  | .seq k => some (.seq k.val)
  | _ => none

/-- A write to PWR_REQ. -/
def State.writePwrReq (s : State) (w : Initiator) (v : BitVec 32) : State :=
  let n := fld v 0 3
  let target := pwrTarget n
  let tick : BitVec 56 := BitVec.ofNat 56 (fld (s.reg64 rPwrWaketime) 0 56)
  match initParty w with
  | none => s.error
  | some p =>
    if n ∉ [0, 3, 4, 5] || !mayRequest p target 15 then s.error
    else if v.getLsbD 3 && s.wakeTooNear target tick then (s.bump (cPwr 0)).error
    else ((if v.getLsbD 3 then s.armWake tick else s).request target p 15).done

/-- PWR_REQ_ACTIVE, PWR_REQ_FEN, PWR_REQ_BOG, PWR_REQ_PEAT: the row fixes STATE. -/
def execPwrReqActive (w : Initiator) (v : BitVec 32) : State → Host.Outcome State Fault Refusal :=
  act fun s => s.writePwrReq w (setFld v 0 3 0)
def execPwrReqFen (w : Initiator) (v : BitVec 32) : State → Host.Outcome State Fault Refusal :=
  act fun s => s.writePwrReq w (setFld v 0 3 3)
def execPwrReqBog (w : Initiator) (v : BitVec 32) : State → Host.Outcome State Fault Refusal :=
  act fun s => s.writePwrReq w (setFld v 0 3 4)
def execPwrReqPeat (w : Initiator) (v : BitVec 32) : State → Host.Outcome State Fault Refusal :=
  act fun s => s.writePwrReq w (setFld v 0 3 5)

/-! ## What an entry stops (R542) -/

/-- Paths and quads a machine stops. -/
def pmPaths : PMach → List Nat
  | .device => List.range 64
  | .tile t => (List.range 16).map (16 * t.val + ·)
def pmQuads : PMach → List Nat
  | .device => List.range 16
  | .tile t => tileQuads t.val

/-- Step 1 still waits: a live sample or its tail is leaving, or a transmit enable is high (R62, R269). -/
def State.tailsRun (s : State) (m : PMach) : Bool :=
  (pmPaths m).any (fun p => s.liveIn p s.now.toNat (s.now.toNat + 1)) || (pmQuads m).any fun q => s.fe.txEn.getLsbD q

/-- Step 4 still waits: a core has a remote request without its response, or is within a bundle (R374). -/
def State.coresWait (s : State) : Bool :=
  (List.range 16).any fun n =>
    let x := s.vcOf n
    !x.stores.isEmpty || x.word0.isSome || x.staged.isSome || (match x.stall with
      | .load _ _ _ _ _ => true
      | _ => false)

/-- Synthesisers that step 9 turns off: both of a tile, or in SEDGE the one that TXSYN does not name (R266). -/
def State.synsOff (s : State) (target : PState) : List Nat :=
  (List.range 8).filter fun k => target ≠ .sedge || decide (k % 2 ≠ (s.loOf (k / 2)).tx.toNat)

/-- A calibration still runs at step 9: it is told to yield, and the step waits (R261, R542). -/
def State.calsRun (s : State) : List Nat := (List.range 8).filter fun k => (s.synOf k).state = .calibrating

def State.askYield (s : State) : State :=
  s.calsRun.foldl (fun s k => s.setSyn k { s.synOf k with mustYield := true }) s

def State.synOff (s : State) (k : Nat) : State :=
  s.setSyn k { s.synOf k with
    state := .off, ready := false, work := none, waiting := [], relock := false, mustYield := false }

/-- The refuser at step 2 or step 6, by its code in PWR_STAT.REFUSER (R512, R542, R552). -/
def State.refuser (s : State) (target : PState) (step : Nat) : Option Nat :=
  if step = 2 then (s.capsBusy.head?).map (1 + ·)
  else if step = 6 then
    if (s.running .tx).isSome then some 17
    else if (s.running .rx).isSome then some 18
    else if target ≠ .sedge && s.sess.state ≠ .none then some 19 else none
  else none

/-- In WARMUP, TEST and RECOVERY the refuser is stopped instead (R544). -/
def State.stopRefuser (s : State) (step : Nat) : State :=
  if step = 2 then s.capsBusy.foldl State.capDone s
  else [Dir.tx, Dir.rx].foldl (fun s d => [Region.baseband, Region.engine].foldl (fun s r =>
    match (s.regionSt d r).pend with
    | some c => if c.built then s else s.abandonCommit d r
    | none => s) s) s

/-- Memory that loses its content on the way to a state (R499, R536). -/
def lostAddr (target : PState) (a : Nat) : Bool :=
  match regionAt a with
  | some (r, _, _) =>
    match r with
    | .vcData _ | .beam _ _ | .stream | .linkBuf => target ≠ .sedge
    | .dram => target = .bog || target = .peat
    | .nv => false
    | _ => target = .peat
  | none => false

/-- Address of a valid bit (the inverse of `validKey`). -/
def validAddr (k : Nat) : Nat := if k < 0x200000 then 4096 * k else if k < 0x400000000 then 64 * k else 8 * k

def MemSt.lose (m : MemSt) (lost : Nat → Bool) : MemSt :=
  { m with cells := tdrop lost m.cells, valid := tdrop (fun k => lost (validAddr k)) m.valid, bad := tdrop (fun a => lost (a % 0x10000000000)) m.bad }

/-- Sequencers stop, and all but their memories, RUN and a fault is lost; section queues and pushes go with them (R320). -/
def State.stopSeqs (s : State) : State :=
  let s := (List.range 5).foldl (fun s k =>
    let q := s.seqOf k
    s.setSeq k (if q.state = .faulted then { run := q.run, state := .faulted, cause := q.cause, faultpc := q.faultpc }
      else { run := q.run })) s
  { s with hiq := { s.hiq with pushes := [] }, miq := { s.miq with pushes := [] }, lists := [], listPtr := 0 }

/-- PS_EN bits that are low in a state (R537). -/
def psLow : PState → BitVec 8
  | .fen => 0x1C
  | .bog => 0x3D
  | .peat => 0xFF
  | _ => 0

/-- The action of an entry step, done when its wait has ended (R542). -/
def State.entryDo (s : State) (target : PState) (step : Nat) : State :=
  let low := target ≠ .sedge
  match step with
  | 5 => s.dmaSleep
  | 7 =>
    let s := (List.range 32).foldl (fun s l => if s.groupOn (l / 8) then s.idleLane l else s) s
    if low then { s with pllLock := 0 } else s
  | 8 => { s.stopSeqs with pllLock := 0 }
  | 9 =>
    let locked := (List.range 8).filter fun k => (s.synOf k).state = .locked
    let s : State := { s with power := { s.power with
      lockedSyn := locked.foldl (fun v k => setBit v k true) (0 : BitVec 8) } }
    (s.synsOff target).foldl State.synOff s
  | 10 =>
    let s : State := { s with mem := s.mem.lose fun a => (match regionAt a with
      | some (.dram, _, _) => false
      | _ => lostAddr target a) }
    if low then s.vcLose else s
  | 11 =>
    if target = .bog || target = .peat then
      let s := s.dmaClear
      { s with mem := s.mem.lose (lostAddr target), beam := {}, lin := { s.lin with recs := [], sels := [], sicOn := 0, sicOff := [] } }
    else s
  | 12 => { s with power := { s.power with psEn := s.power.psEn &&& ~~~psLow target, psGood := s.power.psGood &&& ~~~psLow target } }
  | _ => s

/-! ## Entry, rollback and what follows (R541-R545) -/

def pmMask : PMach → Nat
  | .device => 15
  | .tile t => 2 ^ t.val

/-- The pending request is acted on from the state reached; one its party may not make is dropped and reported (R545). -/
def State.pendGo (s : State) (m : PMach) : State :=
  let x := s.pmOf m
  match x.pend with
  | none => s
  | some (target, p) =>
    let s := s.setPm m { x with pend := none }
    if mayRequest p target (pmMask m) then s.requestOne m target p else (s.bump (cPwr 2)).signal 115

/-- A transition has ended: a wake that came during it starts the exit, else the pending request follows. -/
def State.transEnd (s : State) (m : PMach) (src : Option Nat) : State :=
  match src with
  | some c => if c ≠ 0 && (s.pmOf m).state ≠ .active then s.beginExit m c 0 else s.pendGo m
  | none => s.pendGo m

/-- Groups whose lanes an explicit REED of every tile idles (R397, R541). -/
def State.reedLanes (s : State) : List Nat :=
  (List.range 32).filter fun l => s.groupOn (l / 8) && (s.groupRole (l / 8) = 0 || !(s.reg (rLaneGcfg (l / 8))).getLsbD 12)

/-- Every tile is in an explicit REED. -/
def State.allReed (s : State) : Bool := pmTiles.all fun m => (s.pmOf m).state = .reed && !(s.pmOf m).auto

/-- Lanes leave idle, those aside that LANEn_CTRL.IDLE holds (R385, R397). -/
def State.wakeLanes (s : State) (ls : List Nat) : State :=
  ls.foldl (fun s l => if s.heldIdle l then s else s.wakeLane l) s

/-- The lane groups that are on have their PLLs locked again. -/
def State.relockPlls (s : State) : State :=
  { s with pllLock := [0, 1, 2, 3].foldl (fun v g => if s.groupOn g then setBit v g true else v) s.pllLock }

/-- PLLs lock, and the lanes leave idle but those that an explicit REED of every tile holds there (R541). -/
def State.restoreLanes (s : State) : State :=
  s.relockPlls.wakeLanes ((List.range 32).filter fun l => !(s.allReed && s.reedLanes.contains l))

/-- Step 13: the machine is in its state; event 112, for an automatic REED a count alone (R540, R542). From FEN down the mode
is DORMANT; from BOG down the PCIe link is down, and the servo's timing is lost (R554). -/
def State.entered (s : State) (m : PMach) (target : PState) : State :=
  let x := s.pmOf m
  let s := s.setPm m { x with state := target, trans := .none, abort := none, forced := false, late := false }
  let s := if x.auto then (match m with
      | .tile t => s.bump (cTile t.val 18)
      | .device => s)
    else s.signal 112
  let s := match m with
    | .tile _ => if s.allReed then s.reedLanes.foldl State.idleLane s else s
    | .device =>
      let s := if pstateNum target < 3 then s else
        match s.mode.mode with
        | .recovery | .boot | .dormant => s
        | mo => { s with power := { s.power with modeAt := mo }, mode := { s.mode with mode := .dormant } }
      if pstateNum target < 4 then s else s.resetPcie s.pcie.perstN
  if x.forced then s.beginExit m 7 0 else s.transEnd m x.abort

/-- Blocks restart in the reverse order, each as it stood before: lanes and PLLs, DMA channels and cores at once, the tiles by the
end of the rollback (R543). Lanes stay idle after an entry that began in SEDGE. -/
def State.rollBack (s : State) (m : PMach) (step : Nat) : State :=
  let x := s.pmOf m
  let s := if m = .device && 7 < step then (if x.state = .active then s.restoreLanes else s.relockPlls) else s
  let s := if m = .device && 5 < step && x.state = .active then s.dmaWake else s
  s.setPm m { x with trans := .rollback (3 < step && x.state = .active), stepAt := s.clock }

/-- An entry goes on after step `step`: to its rollback at an abort point, else to the next step. -/
def State.entryOn (s : State) (m : PMach) (target : PState) (step : Nat) : State :=
  let x := s.pmOf m
  if step ∈ [1, 3, 5, 7] && x.abort.isSome then s.rollBack m (step + 1)
  else
    let n := nextEntryStep target step
    s.setPm m { x with trans := .entry target n, stepAt := s.clock, began := if step = 1 then s.clock else x.began }

/-- POWER_ENTRY_STEP (R542-R544): the step that the machine is at completes, once what it waits for has come about. -/
def execPowerEntryStep (m : PMach) : State → Host.Outcome State Fault Refusal :=
  act fun s =>
    match (s.pmOf m).trans with
    | .entry target step =>
      if step = 13 then s.entered m target
      else if step = 1 && s.tailsRun m then s
      else if step = 4 && s.coresWait then s
      else if step = 9 && !s.calsRun.isEmpty then s.askYield
      else
        match s.refuser target step with
        | some r =>
          let s : State := { s with power := { s.power with refuser := r } }
          match s.mode.mode with
          | .warmup | .test | .recovery =>
            let s := s.stopRefuser step
            (s.setPm m { s.pmOf m with forced := true }).entryOn m target step
          | _ => s.rollBack m step
        | none => (s.entryDo target step).entryOn m target step
    | _ => s

/-- ENTRY_ROLLBACK (R543): the rollback completes. An automatic REED that did not come about raises nothing (R540). -/
def execEntryRollback (m : PMach) : State → Host.Outcome State Fault Refusal :=
  act fun s =>
    let x := s.pmOf m
    match x.trans with
    | .rollback _ =>
      let s := s.setPm m { x with trans := .none, abort := none, auto := false, late := false }
      let s := if x.auto then s else (s.bump (cPwr 1)).signal 113
      s.transEnd m x.abort
    | _ => s

/-! ## Automatic REED (R540) -/

/-- An entry of an observation receiver's schedule with INPUT other than idle lies in [now, now + h). -/
def State.obsNeeds (s : State) (n h : Nat) : Bool :=
  if s.fnStopped (obsFn n) (n / 2) then false
  else
    let es := s.obsList n
    match s.obsEntryNow n with
    | none => es.any fun e => entInput e ≤ 1
    | some (i, st) =>
      let rest := es.drop i ++ es.take i
      (rest.foldl (fun (a : Bool × Nat) e => (a.1 || (entInput e ≤ 1 && decide (a.2 < s.now.toNat + h)), a.2 + entTk e)) (false, st)).1

/-- A need of the tile lies within `h` ticks: live samples and enables, receive spans, observation entries, snapshots and
loopbacks, as queued at the tile's stages. -/
def State.tileNeeds (s : State) (t h : Nat) : Bool :=
  let lo : Int := s.now.toNat
  let hi : Int := lo + h
  (pmPaths (.tile (Fin.ofNat 4 t))).any (fun p => s.liveIn p lo hi) ||
  (tileQuads t).any (fun q => s.fe.txEn.getLsbD q || s.fe.rxEn.getLsbD q || s.fe.loop.getLsbD q || s.fe.rxcal.getLsbD q) ||
  s.fe.rxSched.any (fun x => quadTile x.quad = t && x.on && decide (x.at_ < hi)) ||
  s.obsNeeds (2 * t) h || s.obsNeeds (2 * t + 1) h || !(s.snapsOf t).isEmpty ||
  s.queue.any fun x => x.tile = t && decide (fullTick x.act s.now < hi) &&
    ((x.item.tag.kind = kSicCtl && pbits x.item.body 16 2 = 3) || (x.item.tag.kind = kFeCtl && decide (x.port = .fe)))

/-- MINGAP in ticks (R552). -/
def State.minGap (s : State) (t : Nat) : Nat := 1024 * max 1 (fld (s.reg (rPwrcfg t)) 8 8)

/-- AUTO_REED_ENTRY (R540). -/
def execAutoReedEntry (t : Tile) : State → Host.Outcome State Fault Refusal :=
  act fun s =>
    let x := s.tilePower t.val
    if (s.reg (rPwrcfg t.val)).getLsbD 0 && x.state = .active && x.trans = .none && !s.atOrBelow .sedge &&
        !s.tileNeeds t.val (s.minGap t.val) then s.beginEntry (.tile t) .reed true
    else s

/-- AUTO_REED_EXIT (R540): a need lies within the exit bound and the tile's FE advance. -/
def execAutoReedExit (t : Tile) : State → Host.Outcome State Fault Refusal :=
  act fun s =>
    let x := s.tilePower t.val
    if x.auto && s.tileNeeds t.val (1966 + s.tileTxAdv t.val) then s.wakeOne (.tile t) 6 0 else s

/-! ## Wakes (R546-R548) -/

/-- WAKE_TICK (R548): from FEN down the exit starts at the last SLOWCLK edge at or before the tick. -/
def execWakeTick : State → Host.Outcome State Fault Refusal :=
  act fun s =>
    let edge := if pstateNum s.power.dev.wakeFrom < 3 then 0 else 119999
    if s.power.armed && s.power.wakeTick.toNat ≤ s.now.toNat + s.wakeLead + edge then
      ({ s with power := { s.power with armed := false } } : State).wake 1 0
    else s

/-- WAKE_N (R546): the input has been low long enough. -/
def execWakeN : State → Host.Outcome State Fault Refusal := act fun s => s.wake 2 0

/-- SIGNAL_DETECT (R385, R387, R397): also a wake source on an idle lane with LANEn_CTRL.WAKE. -/
def execSignalDetect (l : Lane) : State → Host.Outcome State Fault Refusal :=
  act fun s =>
    let wakes := !(s.laneOf l.val).sigdet && (s.reg (rLaneCtrl l.val)).getLsbD 3
    let s := s.signalOn l.val
    if wakes then s.wakeFromLow 3 l.val else s

/-! ## Exit (R139, R237, R266, R320, R374, R397, R467, R488, R549-R551) -/

/-- Every record that a table number can name. -/
def recOfKey (k : Nat) : RecId :=
  let b := bankOf k
  if k < 0x1000 then .dpd (Fin.ofNat 64 (k / 32)) (Fin.ofNat 16 (k / 2)) b
  else if k < 0x2000 then .corr (Fin.ofNat 64 (k / 2)) b
  else if k < 0x3000 then .rxiq (Fin.ofNat 64 (k / 2)) b
  else if k < 0x4000 then .sic (Fin.ofNat 64 (k / 2)) b
  else if k < 0x5000 then .fir (Fin.ofNat 4 (k / 16)) (dirOf (k / 8)) (Fin.ofNat 4 (k / 2)) b
  else .cfr (Fin.ofNat 4 (k / 2)) b

/-- Every record of the pipeline-local stores that has a master. -/
def masteredRecs : List RecId :=
  let n := fun (lo count : Nat) => (List.range count).map fun i => recOfKey (lo + i)
  n 0 2048 ++ n 0x1000 128 ++ n 0x2000 128 ++ n 0x3000 128 ++ n 0x4000 64

/-- Exit from FEN (R139, R153, R490): every record is read again from its master; a CFR pulse record has none, and reads as VALID
clear. Fades and pending swaps are over, and the DC stores read as zero. No line check has failed here, so that a record rebuilt is
no case that R138 counts; one that becomes LOST is (DESIGN CHOICE, log entry 41). -/
def State.restoreRecords (s : State) : State :=
  let s := masteredRecs.foldl (fun s r =>
    match s.readMaster r with
    | (some b, s) => s.setRec r { s.recOf r with bytes := b, rebuilding := false, lost := false }
    | (none, s) => s.setRec r { s.recOf r with rebuilding := false, lost := true }) s
  let s := (List.range 8).foldl (fun s k =>
    let r := recOfKey (0x5000 + k)
    s.setRec r { s.recOf r with lost := true }) s
  s.lin.sels.foldl (fun s e => s.setSel e.1 { e.2 with fade := none, pend := none }) s

/-- Synthesisers locked at entry are retuned, with PHSYNC (R266). -/
def State.retuneLocked (s : State) : State :=
  (bitsSet s.power.lockedSyn.toNat 8).foldl (fun s k =>
    if (s.synOf k).state = .off then
      s.startTune k { cal := false, entry := (s.synOf k).entry, phsync := true } s.now.toNat
    else s) s

/-- Units whose RUN bit is set start again from their entries (R320, R374). -/
def State.restartUnits (s : State) : State :=
  let s := (List.range 5).foldl (fun s k =>
    let q := s.seqOf k
    if q.run && q.state = .stopped then s.seqStart k q else s) s
  (List.range 16).foldl (fun s n =>
    let x := s.vcOf n
    if x.run && x.state = .stopped then s.vcStart n x else s) s

/-- The device is in ACTIVE again, after the state `from_`. -/
def State.deviceExited (s : State) (from_ : PState) : State :=
  match from_ with
  | .active | .reed => s
  | .peat => s.selfReset 4
  | _ =>
    let s := if from_ = .fen then s.restoreBeams.restoreRecords else s
    let s := if from_ = .sedge then s else ({ s with rx := { s.rx with dc := [] } } : State).restartUnits
    let s := s.restoreLanes.dmaWake
    let s := if from_ = .bog then s.timeAfterBog.restartLeases else s
    match s.mode.mode, from_ with
    | .dormant, .fen => { s with mode := { s.mode with mode := s.power.modeAt } }
    | .dormant, .bog => s.setMode .warmup
    | _, _ => s

/-- The exit of a machine ends: event 114, except after an automatic REED (R547). -/
def State.exited (s : State) (m : PMach) : State :=
  let x := s.pmOf m
  let s := s.setPm m { x with state := .active, trans := .none, abort := none, auto := false, late := false }
  let s := match m with
    | .device => s.deviceExited x.state
    | .tile _ => if s.atOrBelow .sedge then s else s.wakeLanes s.reedLanes
  let s := if x.auto then s else s.signal 114
  s.pendGo m

/-- A step of R549 is ready: every rail good, every island ready. -/
def State.exitReady (s : State) (step : Nat) : Bool :=
  match step with
  | 1 => s.power.psEn = 0xFF && s.power.psGood = 0xFF
  | 4 => (List.range 8).all fun k => !(s.power.lockedSyn.getLsbD k) || (s.synOf k).state ≠ .tuning
  | _ => true

/-- EXIT_STEP_READY (R549, R551). -/
def execExitStepReady (m : PMach) : State → Host.Outcome State Fault Refusal :=
  act fun s =>
    let x := s.pmOf m
    match m, x.trans with
    | .tile _, .exit _ => s.exited m
    | .device, .exit step =>
      if !s.exitReady step then s
      else if step < 4 then
        let s := s.setPm m { x with trans := .exit (step + 1), stepAt := s.clock, late := false }
        if step = 3 && (x.state = .fen || x.state = .bog) then s.retuneLocked else s
      else s.exited m
    | _, _ => s

/-- Bound of an exit step (R549). -/
def exitStepBound (from_ : PState) (step : Nat) : Nat :=
  match from_, step with
  | .reed, _ => 1966
  | .sedge, _ => 8192
  | .fen, 1 => 39322
  | .fen, 4 => 98304
  | .fen, _ => 16384
  | .bog, 1 => 786432
  | .peat, 1 => 7864320
  | .bog, 2 | .peat, 2 => 65536
  | .bog, _ | .peat, _ => 262144
  | .active, _ => 0

/-- TRANSITION_OVERRUN (R534, R549): an entry aborts at its next abort point; an exit goes on. -/
def execTransitionOverrun (m : PMach) : State → Host.Outcome State Fault Refusal :=
  act fun s =>
    let x := s.pmOf m
    match x.trans with
    | .entry target _ =>
      if x.late || s.clock ≤ x.began + entryBound target then s
      else (s.setPm m { x with late := true, abort := some (x.abort.getD 0) }).signal 118
    | .exit step =>
      if x.late || s.clock ≤ x.stepAt + exitStepBound x.state step then s
      else (s.setPm m { x with late := true }).signal 118
    | _ => s

/-! ## Supplies (R537, R550, R596-R599) -/

/-- Order in which PS_EN outputs are raised (R596). -/
def raiseOrder : List Nat := [7, 6, 1, 0, 5, 2, 4, 3]

/-- The controller raises supplies: at the first step of an exit, or after a reset (R549, R596). -/
def State.raising (s : State) : Bool :=
  match s.power.dev.trans with
  | .exit step => step = 1
  | _ => s.power.dev.state = .active

/-- PS_EN_RAISE (R596): PS_GOOD is sampled, and the next output rises once every one before it is good. A PS_GOOD that is
high while its PS_EN is low is ignored (R598). -/
def execPsEnRaise (good : BitVec 8) : State → Host.Outcome State Fault Refusal :=
  act fun s =>
    let s : State := { s with power := { s.power with psGood := s.power.psGood ||| (good &&& s.power.psEn) } }
    let s := if s.power.psEn &&& ~~~s.power.psGood = 0 then s.clearCause 1 else s
    if !s.raising then s
    else
      match raiseOrder.find? fun b => !s.power.psGood.getLsbD b with
      | some b =>
        if s.power.psEn.getLsbD b then s
        else { s with power := { s.power with
          psEn := setBit s.power.psEn b true, psEnAt := tput (fun _ => 0) b s.clock s.power.psEnAt } }
      | none => s

/-- PS_GOOD_FALL (R598): expected while its PS_EN is low. -/
def execPsGoodFall (b : RailBit) : State → Host.Outcome State Fault Refusal :=
  act fun s =>
    if !s.power.psGood.getLsbD b.val then s
    else
      let s : State := { s with power := { s.power with psGood := setBit s.power.psGood b.val false } }
      let s := if b.val = 6 then s.lanesOff else s
      if s.power.psEn.getLsbD b.val then (s.signal 116).enterTimeout (some 1) else s

/-- The time after which a PS_GOOD that has not risen is a fault: four times the step-1 bound of the state being left, after
a reset four times the rail's own time (R550, R597, R598). -/
def State.goodLimit (s : State) (b : Nat) : Nat :=
  match s.power.dev.trans with
  | .exit _ => 4 * exitStepBound s.power.dev.state 1
  | _ => 4 * (if b = 2 ∨ b = 3 ∨ b = 4 then 7864 else if b = 0 ∨ b = 5 then 353894 else 1966080)

/-- PS_GOOD_TIMEOUT (R550). -/
def execPsGoodTimeout (b : RailBit) : State → Host.Outcome State Fault Refusal :=
  act fun s =>
    if s.power.psEn.getLsbD b.val && !s.power.psGood.getLsbD b.val &&
        tget (fun _ => 0) s.power.psEnAt b.val + s.goodLimit b.val ≤ s.clock && !s.mode.causes.getLsbD 1 then
      (s.signal 116).enterTimeout (some 1)
    else s

/-- AVS_STEP (R592, R599): one step of CODE per 65,536 tk; event 117 on each arrival at a limit. -/
def execAvsStep (up : Bool) : State → Host.Outcome State Fault Refusal :=
  act fun s =>
    let c := s.power.avsCode.toNat
    let n := if up then min 40 (c + 1) else c - 1
    if n = c || s.clock < s.power.avsAt + 65536 || s.atOrBelow .bog then s
    else
      let s : State := { s with power := { s.power with avsCode := BitVec.ofNat 6 n, avsAt := s.clock } }
      if n = 0 ∨ n = 40 then s.signal 117 else s

/-! ## Status registers (R552, R592) -/

/-- PWR_STAT. -/
def State.pwrStat (s : State) : BitVec 64 :=
  let d := s.power.dev
  let reeds : List Bool := pmTiles.map fun m => decide ((s.pmOf m).state = .reed)
  let st := if d.state = .active && reeds.all (· = true) then 1 else pstateNum d.state
  let (target, step) := match d.trans with
    | .entry t n => (pstateNum t, n)
    | _ => (0, 0)
  let pend := match d.pend with
    | some (t, _) => 0x80 + 2 ^ 8 * pstateNum t
    | none => 0
  BitVec.ofNat 64 (st + 2 ^ 3 * target + 2 ^ 6 * (decide (d.trans ≠ .none)).toNat + pend + 2 ^ 11 * step + 2 ^ 16 * s.power.refuser +
    ((reeds.zip [0, 1, 2, 3]).map fun x => x.1.toNat * 2 ^ (32 + x.2)).sum)

/-- PWR_WAKETIME as read: its TICK and ARMED. -/
def State.wakeTimeRead (s : State) : BitVec 64 := setBit (s.reg64 rPwrWaketime) 63 s.power.armed

/-- PS_STAT, PS_AVS, TS_LIMITS. -/
def State.psStat (s : State) : BitVec 32 := BitVec.ofNat 32 (s.power.psEn.toNat + 2 ^ 8 * s.power.psGood.toNat)
def State.psAvs (s : State) : BitVec 32 :=
  let c := s.power.avsCode.toNat
  BitVec.ofNat 32 (c + (if c = 0 ∨ c = 40 then 64 else 0))
def tsLimits : BitVec 32 := BitVec.ofInt 32 shutLimit

end Sys2Proof.Machine
end

