-- ==== Sys2Proof/Machine/Fences.lean ====
section
/-! DEFINITION. The fault manager: fences, releases, lockstep pairs and the watchdog's expiry (R319, R521-R528). -/

namespace Sys2Proof.Machine
open Sys2Proof

/-! ## Fencing (R523) -/

/-- What is particular to a unit: enables low, builds abandoned, ports DOWN, a core FAULTED, TIMEOUT (R521, R523, R529). -/
def State.fenceUnit (s : State) (u : Nat) : State :=
  if u < 4 then
    let s := (tileQuads u).foldl (fun s q => (s.setTxEn q false).setRxEn q false) s
    s.signal (4 * u + 3)
  else if u = 4 then
    let s := [Dir.tx, Dir.rx].foldl (fun s d => [Region.baseband, Region.engine].foldl (fun s r =>
      match (s.regionSt d r).pend with
      | some c => if c.built then s else s.abandonCommit d r
      | none => s) s) s
    { s with beam := { s.beam with ecq := [] } }
  else if u = 7 ∨ u = 9 then s.enterTimeout (some 3)
  else if u = 8 then ((List.range 34).foldl State.portDown s).lanesOff
  else if 16 ≤ u then
    (s.setVc (u - 16) { s.vcOf (u - 16) with stores := [] }).vcFence (u - 16)
  else s.dropSections u

/-- The fault manager restarts the management pair, or leaves it fenced after a second fence (R527). -/
def State.restartMgmt (s : State) : State :=
  let again := match s.mgmtRestart with
    | some t => decide (s.clock ≤ t + 2 * s.wdogPeriod)
    | none => false
  if again then s.enterTimeout (some 4)
  else { s with fenced := setBit s.fenced 10 false, mode := { s.mode with warm := true }, mgmtRestart := some s.clock, wdogAt := s.clock }

/-- Fences unit `u` for a cause of EV_FAULTLOG. -/
def State.fence (s : State) (u cause : Nat) : State :=
  if unitReserved u || s.isFenced u then s
  else
    let s := (s.sever u cause).fenceUnit u
    if u = 10 then s.restartMgmt else s

/-- REQUEST_TIMEOUT, CLOCK_MONITOR_TRIP, SELF_CHECK_ERROR (R522). -/
def execRequestTimeout (u : FUnit) : State → Host.Outcome State Fault Refusal := act fun s => s.fence u.val 0
def execClockMonitorTrip (u : FUnit) : State → Host.Outcome State Fault Refusal := act fun s => s.fence u.val 1
def execSelfCheckError (u : FUnit) : State → Host.Outcome State Fault Refusal := act fun s => s.fence u.val 2

/-- LOCKSTEP_MISMATCH (R319, R525): of the management pair, or of the ASQ pair. -/
def execLockstepMismatch (mgmt : Bool) : State → Host.Outcome State Fault Refusal :=
  act fun s =>
    let u := if mgmt then 10 else 6
    if s.isFenced u then s else (s.signal 124).fence u 3

/-- WATCHDOG_EXPIRY (R528). -/
def execWatchdogExpiry : State → Host.Outcome State Fault Refusal :=
  act fun s =>
    if (s.reg rEvWdog).getLsbD 24 && !s.isFenced 10 && decide (s.wdogAt + s.wdogPeriod ≤ s.clock) then (s.signal 123).fence 10 4
    else s

/-! ## Release (R524) -/

/-- The spans of window A that hold a unit's registers. -/
def unitRegs (u : Nat) : List (Nat × Nat) :=
  if u < 4 then [(rTile u 0, 0x10000), (rFe u 0, 0x4000), (0x50000 + 0x2000 * u, 0x2000), (rMmStage (2 * u), 16)]
  else if u = 4 then [(0x40000, 0x10000)]
  else if u = 5 then [(0x18000, 0x2000)]
  else if u = 6 then [(0x18200, 0x40)]
  else if u = 8 then [(0x14000, 0x4000)]
  else if 16 ≤ u then [(0x1A000 + 0x40 * (u - 16), 0x40)]
  else []

/-- STOP functions that a unit holds. -/
def unitFns (u : Nat) (key : Nat) : Bool :=
  let f := key / 4
  if u < 4 then decide (7 ≤ f ∧ f ≤ 16) && key % 4 = u
  else if u = 4 then decide (1 ≤ f ∧ f ≤ 6)
  else u = 8 && decide (f = 20 ∨ f = 21)

/-- Class-D memories of a unit, which read as zero after its release. -/
def unitMem (u : Nat) (a : Nat) : Bool :=
  match regionAt a with
  | some (.beam _ _, _, _) => u = 4
  | some (.linkBuf, _, _) => u = 8
  | some (.vcData n, _, _) => u = 16 + n
  | _ => false

def dropBits (m : BitVec 64) (t : Nat) : BitVec 64 := m &&& ~~~(0xFFFF#64 <<< (16 * t))

/-- A tile's state as at reset. -/
def State.resetTile (s : State) (t : Nat) : State :=
  let mine := fun (p : Nat) => decide (tileOfPath p = t)
  let selMine := fun (k : Nat) => if k < 256 then mine (k % 64) else decide ((k - 256) / 8 = t)
  { s with
    cars := tdrop (fun k => decide (k / 8 = t)) s.cars
    cfrs := tdrop (· = t) s.cfrs
    gains := tdrop (fun k => mine (k % 256 / 4)) s.gains
    blanked := s.blanked.filter fun x => decide (x.tile ≠ t)
    tdSpans := s.tdSpans.filter fun x => !mine x.path
    chain := { s.chain with
      lines := tdrop mine s.chain.lines, raws := tdrop mine s.chain.raws, tdNext := tdrop (fun k => mine (k % 64)) s.chain.tdNext
      plays := s.chain.plays.filter fun x => !mine x.unit }
    txOut := dropBits s.txOut t, rxOut := dropBits s.rxOut t, dacOff := dropBits s.dacOff t, adcOff := dropBits s.adcOff t
    lin := { s.lin with
      recs := tdrop (fun k => decide (recTile (recOfKey k) = t)) s.lin.recs
      sels := tdrop selMine s.lin.sels
      sicOn := dropBits s.lin.sicOn t, sicOff := tdrop mine s.lin.sicOff
      snaps := tdrop (· = t) s.lin.snaps, snapCnt := tdrop (· = t) s.lin.snapCnt
      obs := tdrop (fun n => decide (n / 2 = t)) s.lin.obs }
    rx := { s.rx with
      dc := tdrop (fun k => mine (k / 8)) s.rx.dc, step := tdrop mine s.rx.step, frozen := dropBits s.rx.frozen t
      relAt := tdrop mine s.rx.relAt, servoAt := tdrop (fun k => mine (k / 2)) s.rx.servoAt
      warm := s.rx.warm.filter fun w => decide (w.tile ≠ t), syncs := s.rx.syncs.filter fun y => decide (y.tile ≠ t) }
    fe := { s.fe with
      rxWant := s.fe.rxWant &&& ~~~(0xF#16 <<< (4 * t)), rxDup := s.fe.rxDup &&& ~~~(0xF#16 <<< (4 * t))
      loop := s.fe.loop &&& ~~~(0xF#16 <<< (4 * t)), rxcal := s.fe.rxcal &&& ~~~(0xF#16 <<< (4 * t))
      cplRev := s.fe.cplRev &&& ~~~(0xF#16 <<< (4 * t))
      rxSched := s.fe.rxSched.filter fun x => decide (quadTile x.quad ≠ t)
      groups := tdrop (fun b => decide (b / 2 = t)) s.fe.groups, cmds := tdrop (· = t) s.fe.cmds
      mute := dropBits s.fe.mute t, silent := dropBits s.fe.silent t, outBy := tdrop (fun k => mine (k % 64)) s.fe.outBy, muteRel := tdrop mine s.fe.muteRel
      muteRun := tdrop mine s.fe.muteRun, fwd := tdrop mine s.fe.fwd, lim := tdrop mine s.fe.lim, sums := tdrop (· = t) s.fe.sums
      dutyOut := dropBits s.fe.dutyOut t, dutyRun := tdrop mine s.fe.dutyRun } }

/-- A unit's own state as at reset. -/
def State.resetUnit (s : State) (u : Nat) : State :=
  let s : State := { s with
    regs := tdrop (fun k => (unitRegs u).any fun x => decide (x.1 ≤ k ∧ k < x.1 + x.2)) s.regs
    fns := tdrop (unitFns u) s.fns
    mem := s.mem.lose (unitMem u) }
  if u < 4 then
    { s.resetTile u with queue := s.queue.filter fun x => !(tilePort x.port && decide (x.tile = u) && decide (x.port ≠ .lo)) }
  else if u = 4 then
    { s with
      beam := {}, ffts := [], islCars := [], wolas := [], decls := [], charges := [], srsCharges := [], chain := { s.chain with syms := [] }
      queue := s.queue.filter fun x => !(decide (x.port = .bf) || decide (x.port = .fft) || decide (x.port = .wola))
      rx := { s.rx with wins := [], own := [], parts := [], sent := [] } }
  else if u = 5 then { s with seqs := [], hiq := {}, miq := {} }
  else if u = 6 then s.setSeq 4 {}
  else if u = 8 then { s with lanes := [], ports := [], vlinks := [], pllLock := 0, pllAt := [], pllRate := [], lists := [], listPtr := 0 }
  else if 16 ≤ u then s.setVc (u - 16) {}
  else s

/-- A write to EV_FENCE (R524, R535): management firmware's alone; FENCE prevails over RELEASE. -/
def State.writeEvFence (s : State) (w : Initiator) (v : BitVec 32) : State :=
  let u := fld v 0 5
  if w ≠ .mgmt then s.error
  else if !v.getLsbD 8 && !v.getLsbD 9 then s.done
  else if unitReserved u then s.error
  else if v.getLsbD 8 then (s.fence u 5).done
  else if !s.isFenced u || u = 7 || u = 9 then s.error
  else ({ s.resetUnit u with fenced := setBit s.fenced u false } : State).done

/-- FENCE_REQUEST and FENCE_RELEASE (R522, R524): writes of EV_FENCE with FENCE, and with RELEASE. -/
def execFenceRequest (w : Initiator) (v : BitVec 32) : State → Host.Outcome State Fault Refusal :=
  act fun s => s.writeEvFence w (setBit v 8 true)
def execFenceRelease (w : Initiator) (v : BitVec 32) : State → Host.Outcome State Fault Refusal :=
  act fun s => s.writeEvFence w (setBit v 9 true)

end Sys2Proof.Machine
end

