-- ==== Sys2Proof/Machine/Update.lean ====
section
/-! DEFINITION. Firmware update: the difference format, the session's messages, trial and fallback (R562, R565-R583). -/

namespace Sys2Proof.Machine
open Sys2Proof

/-! ## The difference format (R568) -/

/-- Runs the command words. `fuel` bounds their number; the result is none where the difference is malformed. -/
def diffRun (base : Bytes) (outLen : Nat) : Nat → Bytes → Bytes → Option Bytes
  | 0, _, _ => none
  | fuel + 1, out, rest =>
    if rest.length < 8 then none
    else
      let w := leNat (rest.take 8)
      let cmd := nbits w 0 2
      let len := nbits w 8 24
      let off := nbits w 32 32
      let more := rest.drop 8
      if nbits w 2 6 ≠ 0 || outLen < out.length + len then none
      else
        match cmd with
        | 0 => if base.length < off + len then none else diffRun base outLen fuel (out ++ (base.drop off).take len) more
        | 1 =>
          let padded := (len + 7) / 8 * 8
          if off ≠ 0 || more.length < padded then none
          else diffRun base outLen fuel (out ++ more.take len) (more.drop padded)
        | 2 => if off ≠ 0 then none else diffRun base outLen fuel (out ++ List.replicate len 0) more
        | _ => if len = 0 && off = 0 && more.isEmpty && out.length = outLen then some out else none

/-- The image a difference gives, or the status that refuses it. -/
def buildImage (base diff : Bytes) : Nat ⊕ Bytes :=
  if diff.length < 64 || pbits diff 0 32 ≠ 0x4B584446 || !(slice diff 56 8).all (· = 0) then .inl 13
  else if slice diff 8 48 ≠ Config.sha384 base then .inl 6
  else
    match diffRun base (pbits diff 32 32) (diff.length / 8 + 1) [] (diff.drop 64) with
    | some out => .inr out
    | none => .inl 13

/-- Status of a failed check of R566, by its number. -/
def checkStatus : Nat → Nat
  | 1 => 13
  | 2 => 7
  | 3 => 8
  | 4 => 9
  | _ => 10

/-! ## Replies (R569, R570) -/

def sessCode : SessState → Nat
  | .none => 0
  | .receiving => 1
  | .verified => 2

def routeCode : Route → Nat
  | .pcie => 0
  | .spi => 1
  | .link => 2

/-- UPD_STAT (R583). -/
def State.updStat (s : State) : BitVec 32 :=
  BitVec.ofNat 32 (sessCode s.sess.state + (if s.sess.state = .none then 0 else routeCode s.sess.route) * 4 + 16 * s.sess.trial.toNat +
    32 * s.mode.slot.toNat + 64 * s.sess.unread.toNat)

/-- The holder's route and CLIENT word, as the reply fields of STATUS and UPDATE_BUSY give them. -/
def State.holderFields (s : State) : Nat := s.updStat.toNat + 2 ^ 32 * s.sess.client.toNat

/-- Writes a reply into the slot that carries the messages, and hands it back to HOST with SEQ + 1 and event 120. -/
def State.replySlot (s : State) (b : Bytes) : State :=
  let v := s.reg rUpdSlot
  let i := fld v 0 8
  let x := s.slotOf i
  if v.getLsbD 8 && x.owner = .device && !x.pend then
    let s := s.putBytes (slotAddr i) (leBytes 2 (x.seq.toNat + 1))
    let s := s.putBytes (slotAddr i + 16) b
    let s := s.setSlot i { x with
      owner := .host, seq := x.seq + 1, length := BitVec.ofNat 15 b.length, since := s.clock, holder := none }
    (s.setReady i false).signal 120
  else s

/-- Answers a message: the 16-byte reply header and the data. -/
def State.answer (s : State) (r : Route) (m : SessMsg) (st fields : Nat) (data : Bytes) : State :=
  let b := leBytes 16 (st + 2 ^ 8 * m.tag.toNat + 2 ^ 32 * fields) ++ data
  let s := if r = .link then s else s.replySlot b
  { s with resp := .status st b }

/-! ## What a session may do (R562, R573-R575) -/

/-- Payload limit of the session's kind. -/
def payLimit (kind : Nat) : Nat := if kind = 0 then 12582912 else if kind = 1 then 2097088 else 4096

/-- The slot a full image goes to in RECOVERY (R562). -/
def State.recoveryTarget (s : State) : Nat :=
  match s.slotPasses 0, s.slotPasses 1 with
  | false, false => 0
  | true, false => 1
  | false, true => 0
  | true, true => if s.bootRec.slotIn 3 = some 0 then 1 else 0

/-- The slot an image session writes. -/
def State.imageTarget (s : State) : Nat :=
  if s.mode.mode = .recovery then s.recoveryTarget
  else 1 - (s.bootRec.slotIn 3).getD s.mode.slot.toNat

/-- OPEN is allowed (R574). -/
def State.openAllowed (s : State) (kind : Nat) (exp : Bool) : Bool :=
  match kind, s.mode.mode with
  | 0, .recovery => true
  | 0, .warmup | 0, .service | 0, .maintenance | 0, .test | 0, .timeout => (s.bootRec.slotIn 2).isNone
  | 0, _ => false
  | _, .recovery => false
  | 1, _ => exp || s.sess.unread
  | _, _ => true

/-- The settings area an import writes: the trial firmware's own, or the one the running firmware reads. -/
def State.importArea (s : State) : Nat := if s.sess.trial then s.trialArea else s.curArea

/-- The session ends and the lock is released. -/
def State.endSession (s : State) : State :=
  { s with sess := { s.sess with state := .none, blocks := [], export_ := false } }

/-- Opens a session for a route and a client. -/
def State.openSession (s : State) (r : Route) (client : BitVec 32) (kind : Nat) (exp : Bool) : State :=
  let target := if kind = 0 then s.imageTarget else s.importArea
  let s :=
    if kind = 0 then s.putBoot (s.bootRec.setSt target 0)
    else if kind = 1 && !exp then s.markArea target 0 else s
  { s with sess := { s.sess with
      state := .receiving, route := r, client := client, kind := kind, export_ := exp, number := s.sess.number + 1
      blocks := [], lastAt := s.clock, target := target } }

/-- A block of the payload is whole: every 4,096 bytes up to `len` are held. -/
def blocksWhole (t : Table Bytes) (len : Nat) : Bool :=
  (List.range ((len + 4095) / 4096)).all fun i =>
    decide (min 4096 (len - 4096 * i) ≤ (tget (fun _ => []) t (4096 * i)).length)

/-- The payload of a length. -/
def payloadOf (t : Table Bytes) (len : Nat) : Bytes :=
  ((List.range ((len + 4095) / 4096)).flatMap fun i => tget (fun _ => []) t (4096 * i)).take len

/-- A checked image is written to the target slot, which becomes VALID. -/
def State.keepImage (s : State) (img : Bytes) : State :=
  let s := s.programWords (slotBase s.sess.target) (wordsOf img)
  s.putBoot (s.bootRec.setSt s.sess.target 1)

/-- The regulatory slot a new record goes to: the first that holds no valid record, else the first that is not locked. -/
def State.regTarget (s : State) : Option Nat :=
  match (List.range 16).find? fun i => i ∉ s.regValidSlots with
  | some i => some i
  | none => (List.range 16).find? fun i => !s.slotLocked i

/-- A record passed to the store controller (R282, R582); the second result tells whether it was written. -/
def State.regAppend (s : State) (rec_ : Bytes) : State × Bool :=
  match s.regTarget with
  | none => (s.signal 99, false)
  | some i =>
    match s.lockedRecord with
    | some old =>
      if stricter old rec_ && !s.slotLocked i then (s.appendRecord old i rec_, true) else (s.signal 99, false)
    | none =>
      let s := s.programWords (nvBase + regSlotSize * i) (wordsOf rec_)
      (({ s with fe := { s.fe with regBad := false } } : State).regWatch, true)

/-- FINISH of a whole payload: the status, the number of the check that failed, and the state (R566, R568, R573, R580, R582). -/
def State.finish (s : State) (p : Bytes) : Nat × Nat × State :=
  match s.sess.kind with
  | 0 =>
    let built := if s.mode.mode = .recovery then .inr p
      else buildImage (s.slotImage ((s.bootRec.slotIn 3).getD s.mode.slot.toNat)) p
    match built with
    | .inl st => (st, 0, s)
    | .inr img =>
      let c := s.imageCheck img
      if c = 0 then (0, 0, s.keepImage img) else (checkStatus c, c, s)
  | 1 =>
    if Config.settingsGood p then
      let i := s.sess.target
      let seq := leNat (s.bytesAt (areaAddr s.curArea + 8) 4) + 1
      let s := s.putArea i s.runFmt (if s.sess.trial then 2 else 1) seq p
      let s := if s.sess.trial then s.putBoot { s.bootRec with area := s.bootRec.area % 2 + 2 * i } else s
      (0, 0, { s with sess := { s.sess with unread := false } })
    else (12, 0, s)
  | _ =>
    match s.regAppend p with
    | (s, true) => (0, 0, s)
    | (s, false) => (14, 0, s)

/-- The trial ends in fallback: its slot FAILED, its area DISCARDED, a reset, and the ACTIVE slot boots with event 122
(R578). -/
def State.endTrial (s : State) : State :=
  let s := s.putBoot (s.bootRec.setSt s.mode.slot.toNat 4)
  let s := s.markArea s.trialArea 3
  (s.selfReset 2).signal 122

/-! ## Messages (R570-R578) -/

def State.sessOpen (s : State) (r : Route) (m : SessMsg) : State :=
  let kind := pbits m.data 0 2
  let exp := pbit m.data 2
  if m.crc ≠ crc32c m.data then s.answer r m 3 0 []
  else if m.data.length ≠ 8 || kind = 3 || (exp && kind ≠ 1) || pbits m.data 3 29 ≠ 0 then s.answer r m 13 0 []
  else if s.sess.state ≠ .none || !s.openAllowed kind exp then s.answer r m 11 0 []
  else
    let s := s.openSession r (BitVec.ofNat 32 (pbits m.data 32 32)) kind exp
    s.answer r m 0 s.sess.number []

def State.sessWrite (s : State) (r : Route) (m : SessMsg) : State :=
  let o := m.offset.toNat
  let n := m.len.toNat
  if s.sess.state ≠ .receiving || s.sess.export_ then s.answer r m 11 0 []
  else if o % 4096 ≠ 0 || n % 8 ≠ 0 || n = 0 || 4096 < n || n ≠ m.data.length || payLimit s.sess.kind < o + n then s.answer r m 4 0 []
  else if m.crc ≠ crc32c m.data then s.answer r m 3 0 []
  else
    let s : State := { s with sess := { s.sess with blocks := tput (fun _ => []) o m.data s.sess.blocks } }
    let s := if s.sess.kind = 0 && s.mode.mode = .recovery then s.programWords (slotBase s.sess.target + o) (wordsOf m.data) else s
    s.answer r m 0 s.sess.blocks.length []

def State.sessFinish (s : State) (r : Route) (m : SessMsg) : State :=
  let n := m.len.toNat
  if s.sess.state ≠ .receiving || s.sess.export_ then s.answer r m 11 0 []
  else if payLimit s.sess.kind < n || (s.sess.kind = 2 && n ≠ 4096) then s.answer r m 4 0 []
  else if !blocksWhole s.sess.blocks n then s.answer r m 5 0 []
  else
    let (st, chk, s) := s.finish (payloadOf s.sess.blocks n)
    let s : State := if st = 0 then { s with sess := { s.sess with state := .verified } } else s
    s.answer r m st chk []

/-- ACTIVATE: the slot becomes TRIAL, in RECOVERY with no other slot that passes ACTIVE; then a reset (R562, R573). -/
def State.sessActivate (s : State) (r : Route) (m : SessMsg) : State :=
  if s.sess.state ≠ .verified || s.sess.kind ≠ 0 then s.answer r m 11 0 []
  else
    let i := s.sess.target
    let b := s.bootRec
    let recovery := s.mode.mode = .recovery
    let b' : BootRec :=
      if recovery && !s.slotPasses (1 - i) then
        (if b.st (1 - i) = 3 then b.setSt (1 - i) 4 else b).setSt i 3
      else { b.setSt i 2 with tried := false, src := routeCode r }
    let s := (s.putBoot b').answer r m 0 0 []
    let secs := max 1 (fld (s.reg rUpdTrial) 0 16)
    let s : State := { s with
      sess := { s.sess with trialSecs := secs }, mode := if recovery then { s.mode with bootcnt := 0 } else s.mode }
    { s.selfReset 2 with resp := s.resp }

/-- CONFIRM: the trial slot becomes ACTIVE, its area CURRENT, and the security version advances (R567, R577). -/
def State.sessConfirm (s : State) (r : Route) (m : SessMsg) : State :=
  let allowed := match s.mode.mode with
    | .warmup | .service | .maintenance => true
    | _ => false
  if !s.sess.trial || !allowed then s.answer r m 11 0 []
  else if s.sess.unread then s.answer r m 12 0 []
  else
    let i := s.mode.slot.toNat
    let b := s.bootRec
    let old := s.curArea
    let new := nbits b.area 1 1
    let b := if b.st (1 - i) = 3 then b.setSt (1 - i) 1 else b
    let s := s.putBoot { b.setSt i 3 with tried := false, area := new }
    let ver := imgSecver (s.bytesAt (slotBase i) 32)
    let s := if fld (s.reg rUpdSecver) 0 16 < ver then s.setReg rUpdSecver (BitVec.ofNat 32 ver) else s
    let s := if new = old then s else (s.markArea new 1).markArea old 0
    let s : State := { s with sess := { s.sess with trial := false } }
    s.answer r m 0 (s.reg rUpdSecver).toNat []

def State.sessAbort (s : State) (r : Route) (m : SessMsg) : State := s.endSession.answer r m 0 0 []

def State.sessStatus (s : State) (r : Route) (m : SessMsg) : State := s.answer r m 0 s.holderFields []

def State.sessRead (s : State) (r : Route) (m : SessMsg) : State :=
  let o := m.offset.toNat
  let n := m.len.toNat
  if s.sess.state ≠ .receiving || !s.sess.export_ then s.answer r m 11 0 []
  else if 4096 < n || payLimit 1 < o + n then s.answer r m 4 0 []
  else
    let area := if s.sess.trial && !s.sess.unread then s.trialArea else s.curArea
    let d := slice (s.areaContent area) o n
    s.answer r m 0 (2 ^ 64 * (crc32c d).toNat) d

def State.sessFallback (s : State) (r : Route) (m : SessMsg) : State :=
  if !s.sess.trial then s.answer r m 11 0 []
  else
    let s := s.answer r m 0 0 []
    { s.endTrial with resp := s.resp }

/-- The message needs the sender's own session (R571). -/
def needsSession : Nat → Bool
  | 2 | 3 | 4 | 6 | 8 => true
  | _ => false

/-- A message with operation `op` from a route (R570-R573). Without management firmware nothing is served. -/
def State.session (s : State) (r : Route) (m : SessMsg) (op : Nat) : State :=
  let client := if op = 1 then BitVec.ofNat 32 (pbits m.data 32 32) else m.client
  let held := s.sess.state ≠ .none
  let mine := held && s.sess.route = r && s.sess.client = client
  if !s.mgmtOn then s
  else
    let s : State := if mine then { s with sess := { s.sess with lastAt := s.clock } } else s
    if m.zero ≠ 0 then s.answer r m 13 0 []
    else if held && !mine && op ≠ 7 then s.answer r m 1 s.holderFields []
    else if !held && needsSession op then s.answer r m 2 0 []
    else
      match op with
      | 1 => s.sessOpen r m
      | 2 => s.sessWrite r m
      | 3 => s.sessFinish r m
      | 4 => s.sessActivate r m
      | 5 => s.sessConfirm r m
      | 6 => s.sessAbort r m
      | 7 => s.sessStatus r m
      | 8 => s.sessRead r m
      | 9 => s.sessFallback r m
      | _ => s.answer r m 13 0 []

/-- The rows fix OP. -/
def execSessionOpen (r : Route) (m : SessMsg) : State → Host.Outcome State Fault Refusal := act fun s => s.session r m 1
def execSessionWrite (r : Route) (m : SessMsg) : State → Host.Outcome State Fault Refusal := act fun s => s.session r m 2
def execSessionFinish (r : Route) (m : SessMsg) : State → Host.Outcome State Fault Refusal := act fun s => s.session r m 3
def execSessionActivate (r : Route) (m : SessMsg) : State → Host.Outcome State Fault Refusal := act fun s => s.session r m 4
def execSessionConfirm (r : Route) (m : SessMsg) : State → Host.Outcome State Fault Refusal := act fun s => s.session r m 5
def execSessionAbort (r : Route) (m : SessMsg) : State → Host.Outcome State Fault Refusal := act fun s => s.session r m 6
def execSessionStatus (r : Route) (m : SessMsg) : State → Host.Outcome State Fault Refusal := act fun s => s.session r m 7
def execSessionRead (r : Route) (m : SessMsg) : State → Host.Outcome State Fault Refusal := act fun s => s.session r m 8
def execSessionFallback (r : Route) (m : SessMsg) : State → Host.Outcome State Fault Refusal := act fun s => s.session r m 9

/-- SESSION_LOCK_EXPIRY (R572): 60 s without a message of the holder. -/
def execSessionLockExpiry : State → Host.Outcome State Fault Refusal :=
  act fun s =>
    if s.sess.state = .none || s.clock < s.sess.lastAt + 235929600000 || !s.mgmtOn then s else s.endSession.signal 120

/-- TRIAL_WINDOW_EXPIRY (R578): while the device is DORMANT it waits for the end of the next exit. -/
def execTrialWindowExpiry : State → Host.Outcome State Fault Refusal :=
  act fun s =>
    if !s.sess.trial || s.clock < s.sess.trialAt + 3932160000 * s.sess.trialSecs || s.mode.mode = .dormant then s
    else (s.signal 121).endTrial

end Sys2Proof.Machine
end

