-- ==== Sys2Proof/Machine/Bus.lean ====
section
/-! DEFINITION. Accesses of any initiator to the internal address map: window A register by register (R11-R13, R25, R34,
R584-R591), the memories and their write rules (R26, R32-R35, R295, R306, R348, R464), and the rows of register accesses. -/

namespace Sys2Proof.Machine
open Sys2Proof

/-! ## Registers that are stored and read-only, and counters (R105, R586) -/

/-- One stored read-only word, and an array of them. -/
def ro (off stride count acount : Nat) : RwRow := ⟨off, stride, count, 4, acount, 0, 0, false, 0⟩
/-- Stored read-only 64-bit registers. -/
def ro2 (off stride count : Nat) : RwRow := ⟨off, stride, count, 4, 2, 0, 0, true, 0⟩

def roRows : List RwRow :=
  [ro 0x3000 0 1 7, ro rTimeTxrptr 0 1 1, ro rTimeTsqwptr 0 1 1, ro2 rTimeTsynclat 0 1, ro2 rTimePpsin 0 1,
   ⟨rTimeTsq 0, 0, 1, 4, 256, 0, 0, true, 0⟩, ro rUpdSecver 0 1 1, ro rNvStat 0 1 1, ro2 rMemHosterr 0 1, ro2 rMemCeaddr 0 1,
   ro2 rMemUeaddr 0 1, ro2 rMemZeroaddr 0 1, ro (rMemLap 0) 0 1 3, ro2 (rDma 0 0x18) 0x40 32, ro2 (rDma 0 0x20) 0x40 32,
   ro (rDma 0 0x28) 0x40 32 1, ro2 (rDma 0 0x08) 0x40 32, ro (rBeamAligngen 0) 0 1 2, ro rSrswptr 0 1 1, ro (rObsWptr 0) 0x1000 8 1,
   ⟨rObsMmrole 0, 0x1000, 8, 4, 4, 0, 0, true, 0⟩, ro (rSicwptr 0) 0x10000 4 1, ro (rRfferd 0) 0x4000 4 1]

/-- The counters (R586). -/
def cntRows : List RwRow :=
  [ro (cPwr 0) 0 1 3, ro (rEvCnt 0) 0 1 128, ro (cTime 0) 0 1 4, ro (cMem 0) 0 1 5, ro (rMemCapDrop 0) 0 1 16,
   ro (rDma 0 0x2C) 0x40 32 2, ro (cSlot 0) 0 1 3, ro (cPort 0 0) 0x20 34 8, ro (cLane 0 0) 0x40 32 5, ro rHiqerr 0 1 1,
   ro rMiqerr 0 1 1, ro (cSeq 0 0) 0x40 5 6, ro (cCox 0 0) 0x10 4 2, ro (cSyn 0 0) 0x20 8 3, ro (cBeam 0) 0 1 16,
   ro (cObs 0 0) 0x1000 8 2, ro (cTile 0 0) 0x10000 4 21, ro (cFe 0 0) 0x4000 4 4]

def isCounter (off : Nat) : Bool := cntRows.any fun r => (r.index off).isSome

/-! ## Registers computed from the state -/

/-- The QUIESCENT bits of a domain's codes [lo, hi] (R588). -/
def State.qstat (s : State) (lo hi t : Nat) : BitVec 32 :=
  BitVec.ofNat 32 (((List.range 32).filter fun f => lo ≤ f && f ≤ hi && s.fnQuiet f t).map (2 ^ ·)).sum

/-- The level of an issue queue, its LASTERR and DONE (R309). -/
def IssueSt.stat (q : IssueSt) : BitVec 32 := BitVec.ofNat 32 (q.pushes.length + 2 ^ 8 * q.lasterr + 2 ^ 16 * q.done.toNat)

/-- TILEn_SICSTAT (R201): cancellers on, and their current banks. -/
def State.sicStat (s : State) (t : Nat) : BitVec 32 :=
  let on := fld s.lin.sicOn (16 * t) 16
  let banks := ((List.range 16).map fun i => bankNum (s.selOf (selSic (16 * t + i))).bank * 2 ^ i).sum
  BitVec.ofNat 32 (on + 2 ^ 16 * banks)

/-- TILEn_LOSEL (R268). -/
def State.losel (s : State) (t : Nat) : BitVec 32 :=
  let x := s.loOf t
  BitVec.ofNat 32 (x.tx.toNat + x.rx.toNat * 2 + (!(s.loSpans t).isEmpty).toNat * 4)

/-- TILEn_PATHOUT (R590). -/
def State.pathOut (s : State) (t : Nat) : BitVec 32 := BitVec.ofNat 32 (fld s.txOut (16 * t) 16 + 2 ^ 16 * (fld s.rxOut (16 * t) 16))

/-- TILEn_RXDC with its FROZEN field (R155). Nothing reads frozen while function RXDC is stopped, as its reset value says (DEDUCED, log
entry 41). -/
def State.rxdcRead (s : State) (t : Nat) : BitVec 32 :=
  setFld (s.reg (rRxdc t)) 16 16 (if s.fnStopped 10 t then 0
    else ((List.range 16).map fun i => (s.dcFrozen (16 * t + i)).toNat * 2 ^ i).sum)

/-- LANEn_STAT with the fields kept. -/
def State.vcEvcause (s : State) (n : Nat) : BitVec 32 := (s.vcOf n).evcause.zeroExtend 32

/-- 64-bit registers that no word stores. -/
def State.computed64 (s : State) (off : Nat) : Option (BitVec 64) :=
  if off = 0 then
    some (BitVec.ofNat 64 (Config.hwType.toNat + 2 ^ 32 * Config.variantM.toNat + 2 ^ 33 * Config.gradeE.toNat +
      2 ^ 40 * Config.silRev.toNat))
  else if off = rPwrWaketime then some s.wakeTimeRead
  else if off = 0x1018 then some s.pwrStat
  else if off = 0x1020 then some s.power.lastwake
  else if off = 0x4000 then some (s.evPend.extractLsb' 0 64)
  else if off = 0x4008 then some (s.evPend.extractLsb' 64 64)
  else if off = 0x4020 then some s.faultlog
  else if off = rTimeRate then some (s.time.rate.zeroExtend 64)
  else if off = 0x6018 || off = 0x9000 || off = 0x18020 || off = 0x18030 || off = 0x40020 then some 0
  else if off = 0x8010 then some (Config.unitId.extractLsb' 0 64)
  else if off = 0x8018 then some (Config.unitId.extractLsb' 64 64)
  else if 0xA100 ≤ off && off < 0xA180 && off % 8 = 0 then some (s.capStat ((off - 0xA100) / 8))
  else if 0xC100 ≤ off && off < 0xC900 && off % 64 = 0x10 then some (s.dmaStat ((off - 0xC100) / 64))
  else if 0x10008 ≤ off && off < 0x10028 && off % 8 = 0 then some (s.slotReady.extractLsb' (8 * (off - 0x10008)) 64)
  else if 0x10800 ≤ off && off < 0x11000 && off % 8 = 0 then some (s.slotFlag ((off - 0x10800) / 8))
  else if off = 0x14028 then some s.portStat
  else if 0x18100 ≤ off && off < 0x18240 && off % 64 = 8 then some (s.seqStat ((off - 0x18100) / 64))
  else if 0x1A000 ≤ off && off < 0x1A400 && off % 64 = 0x10 then some (s.vcStat ((off - 0x1A000) / 64))
  else if off = 0x40008 then some s.beamStat
  else if 0xA0000 ≤ off && off < 0xB0000 && off % 0x4000 = 0x30 then some 0
  else if 0xA0000 ≤ off && off < 0xB0000 && off % 0x4000 = 0x40 then
    some (s.fe.mute &&& (0xFFFF#64 <<< (16 * ((off - 0xA0000) / 0x4000))))
  else none

/-- 32-bit registers of the tiles that no word stores. -/
def State.computedTile (s : State) (t r : Nat) : Option (BitVec 32) :=
  if r = 0x004 then some (s.rxdcRead t)
  else if r = 0x018 then some (s.sicStat t)
  else if r = 0x01C then some (s.losel t)
  else if r = 0x020 then some (s.pathOut t)
  else if r = 0x02C then some (s.qstat 7 18 t)
  else if 0x040 ≤ r && r < 0x060 && r % 4 = 0 then some (s.fltcfgRead t ((r - 0x40) / 16) ((r - 0x40) / 4 % 4))
  else if 0x100 ≤ r && r < 0x178 && r % 4 = 0 then some (BitVec.ofInt 32 (hbCoef ((r - 0x100) / 4)))
  else none

/-- 32-bit registers that no word stores. -/
def State.computed32 (s : State) (off : Nat) : Option (BitVec 32) :=
  if off = 0x8 then some s.modeStat
  else if off = 0xC || off = 0x1000 || off = 0x4018 || off = 0x600C then some 0
  else if off = 0x2000 then some s.psStat
  else if off = 0x2004 then some s.psAvs
  else if off = 0x3024 then some tsLimits
  else if off = 0x4010 then some s.fenced
  else if off = rTimeStat then some s.timeStat
  else if off = 0x6020 then some s.wrap
  else if off = 0x8004 then some s.updStat
  else if off = 0xA024 then some (s.qstat 19 19 0)
  else if 0xC100 ≤ off && off < 0xC900 && off % 64 = 4 then some 0
  else if off = 0x14040 then some (s.qstat 20 21 0)
  else if 0x15000 ≤ off && off < 0x15800 && off % 64 = 4 then some (s.laneStat ((off - 0x15000) / 64))
  else if off = 0x18028 then some s.hiq.stat
  else if off = 0x18038 then some s.miq.stat
  else if 0x18100 ≤ off && off < 0x18240 && off % 64 = 0 then some (BitVec.ofNat 32 (s.seqOf ((off - 0x18100) / 64)).run.toNat)
  else if 0x1A000 ≤ off && off < 0x1A400 && off % 64 = 0 then some (BitVec.ofNat 32 (s.vcOf ((off - 0x1A000) / 64)).run.toNat)
  else if 0x1A000 ≤ off && off < 0x1A400 && off % 64 = 0xC then some (s.vcEvcause ((off - 0x1A000) / 64))
  else if 0x1D000 ≤ off && off < 0x1D100 && off % 32 = 0 then some (s.synStat ((off - 0x1D000) / 32))
  else if 0x20000 ≤ off && off < 0x40000 && off % 4 = 0 then
    some ((s.calOf ((off - 0x20000) / 0x4000) (off % 0x4000 / 16)).extractLsb' (32 * (off % 16 / 4)) 32)
  else if off = 0x4003C then some (s.qstat 1 6 0)
  else if 0x60000 ≤ off && off < 0xA0000 then s.computedTile ((off - 0x60000) / 0x10000) (off % 0x10000)
  else if 0xFF000 ≤ off && off < 0xFF010 && off % 4 = 0 then some (s.pcie.pba.extractLsb' (8 * (off - 0xFF000)) 32)
  else none

/-- The stored word at an offset belongs to a 64-bit register, or to a 32-bit one; none where nothing is assigned. -/
def storedWide (off : Nat) : Option Bool :=
  match rwRowOf off with
  | some r => some r.wide
  | none => (roRows.find? fun r => (r.index off).isSome).map RwRow.wide

/-! ## Reads (R11, R34, R585) -/

/-- Window A answers at this offset in the present power state (R458). -/
def State.blockOn (s : State) (off : Nat) : Bool := s.blocksOn || off < 0x2000 || (0x4000 ≤ off && off < 0x8000)

/-- A read of a 32-bit register; a counter is cleared by it (R11). -/
def State.read32 (s : State) (off : Nat) : Option (BitVec 32 × State) :=
  if off % 4 ≠ 0 then none
  else if isCounter off then some (s.reg off, s.setReg off 0)
  else
    match s.computed32 off with
    | some v => some (v, s)
    | none => if storedWide off = some false then some (s.reg off, s) else none

/-- A read of a 64-bit register; EV_FAULTLOG.BADKICK is cleared by it (R535). -/
def State.read64 (s : State) (off : Nat) : Option (BitVec 64 × State) :=
  if off % 8 ≠ 0 then none
  else
    match s.computed64 off with
    | some v => some (v, if off = 0x4020 then { s with faultlog := setFld s.faultlog 8 8 0 } else s)
    | none => if storedWide off = some true then some (s.reg64 off, s) else none

/-- A read of `n` bytes of window A. Registers of a fenced unit answer with an error response (R36), but for VCn_STAT, which shows
the fence (R521; log entry 23). -/
def State.regRead (s : State) (off n : Nat) : Access × State :=
  if !s.blockOn off || (s.regFenced off && !(0x1A000 ≤ off && off < 0x1A400 && off % 64 = 0x10)) then (.error, s)
  else if n = 4 then
    match s.read32 off with
    | some (v, s) => (.ok (leBytes 4 v.toNat), s)
    | none => (.error, s)
  else if n = 8 then
    match s.read64 off with
    | some (v, s) => (.ok (leBytes 8 v.toNat), s)
    | none => (.error, s)
  else (.error, s)

/-! ## Writes of plain registers (R25, R585) -/

/-- The tile that a STOP function's register belongs to (R588). -/
def stopTile (off : Nat) : Nat :=
  if 0x50000 ≤ off && off < 0x58000 then (off - 0x50000) / 0x2000
  else if 0x60000 ≤ off && off < 0xA0000 then (off - 0x60000) / 0x10000
  else if 0xA0000 ≤ off && off < 0xB0000 then (off - 0xA0000) / 0x4000
  else 0

/-- The STOP function of a plain register: an observation receiver has code 13 or 14 by its number. -/
def stopCode (r : RwRow) (off : Nat) : Nat := if r.stop = 13 then obsFn ((off - 0x50000) / 0x1000) else r.stop

/-- COXc_CFG needs FE quiescent on every tile with a quad of either mask (R293). -/
def State.coxQuiet (s : State) (old new : BitVec 32) : Bool :=
  allTiles.all fun t => (fld old (4 * t) 4 = 0 && fld new (4 * t) 4 = 0) || s.fnQuiet 16 t

/-- The stage of a plain register reports quiescence (R25, R432). -/
def State.writeAllowed (s : State) (r : RwRow) (off : Nat) (v : BitVec 32) : Bool :=
  if 0x1C000 ≤ off && off < 0x1C040 then s.coxQuiet (s.reg off) v
  else if rLaneEthcfg 0 ≤ off && off < rLaneEthcfg 4 then s.fnQuiet 21 0 && !s.groupOn ((off - rLaneEthcfg 0) / 4)
  else if off = rDmaCfg then
    (List.range 32).all fun c => !s.dmaEn c && ((s.dmaOf c).state = .idle || (s.dmaOf c).state = .endwait)
  else if 0x1A000 ≤ off && off < 0x1A400 && off % 64 = 8 then
    (s.vcOf ((off - 0x1A000) / 64)).state = .stopped || (s.vcOf ((off - 0x1A000) / 64)).state = .faulted
  else r.stop = 0 || s.fnQuiet (stopCode r off) (stopTile off)

/-- A field that keeps its value when the new one lies outside [lo, hi]. -/
def keepField (p len lo hi : Nat) (old new : BitVec 32) : BitVec 32 :=
  if lo ≤ fld new p len && fld new p len ≤ hi then new else setFld new p len (fld old p len)

/-- Ranges of fields: a write outside the range leaves the field unchanged (R136, R155, R180, R201, R223, R249, R375, R454,
R591). -/
def fieldRules (off : Nat) (old new : BitVec 32) : BitVec 32 :=
  if off = rTimeServo then keepField 0 22 197 3932160 old new
  else if off = rBeamRegion then keepField 8 6 0 32 old (keepField 0 6 0 32 old new)
  else if off = rSrsring then keepField 4 4 4 11 old new
  else if off = rBeamUlcfg then keepField 16 5 9 16 old new
  else if 0x1A000 ≤ off && off < 0x1A400 && off % 64 = 8 then keepField 0 2 0 2 old new
  else if 0x50000 ≤ off && off < 0x58000 && off % 0x1000 = 0x108 then keepField 0 4 8 13 old (keepField 12 4 4 11 old new)
  else if 0x60000 ≤ off && off < 0xA0000 then
    if off % 0x10000 = 0x004 then keepField 0 5 10 24 old new
    else if off % 0x10000 = 0x008 then keepField 8 4 8 13 old (keepField 12 4 4 11 old new)
    else if 0x040 ≤ off % 0x10000 && off % 0x10000 < 0x060 then keepField 0 7 1 96 old new
    else new
  else new

/-- Bytes of the area whose base a register holds; 0 for another register (R223, R591). -/
def areaSize (off : Nat) : Nat :=
  if off = rMemBeambase then 0x1000000
  else if off = rMemDpdbase then 0x240000
  else if off = rMemRxiqbase then 0x40000
  else if off = rMemSicbase then 0x80000
  else if off = rMemFltbase then 0x4000 else 0

/-- FIR records that a new FIRLEN no longer fits: VALID reads clear, and each is counted once (R212). -/
def State.checkFirs (s : State) (t : Tile) (d : Dir) (c : Carrier) : State :=
  [Bank.A, Bank.B].foldl (fun s b =>
    let r : RecId := .fir t d c b
    let x := s.recOf r
    if x.bytes.isEmpty || x.unfit || firRecOk x.bytes (s.firLen t.val d c.val) then s
    else (s.setRec r { x with unfit := true }).bump (cTile t.val 14)) s

/-- What a write of a plain register does besides storing. -/
def State.afterWrite (s : State) (off : Nat) : State :=
  if off = rMemCfg then { s with mem := { s.mem with corrections := 0 } }
  else if off = rTimeTsqrptr then
    { s with time := { s.time with unread := ((s.reg rTimeTsqwptr).toNat + 64 - (s.reg off).toNat % 64) % 64 } }
  else if 0x60000 ≤ off && off < 0xA0000 && 0x040 ≤ off % 0x10000 && off % 0x10000 < 0x060 then
    let r := off % 0x10000 - 0x40
    s.checkFirs (Fin.ofNat 4 ((off - 0x60000) / 0x10000)) (dirOf (r / 16)) (Fin.ofNat 4 (r / 4 % 4))
  else if 0x60000 ≤ off && off < 0xA0000 && off % 0x10000 = 0x004 then s.dcRejudge ((off - 0x60000) / 0x10000)
  else if 0xFE000 ≤ off && off < 0xFE800 then s.flushVector ((off - 0xFE000) / 16)
  else s

/-- Stores a word of a plain register. -/
def State.storeWord (s : State) (r : RwRow) (off : Nat) (v : BitVec 32) : State :=
  let old := s.reg off
  s.setReg off (fieldRules off old (maskIn old v r.mask))

/-- A write of a plain 32-bit register, or one that is ignored (R11). -/
def State.plain32 (s : State) (off : Nat) (v : BitVec 32) : State :=
  match rwRowOf off with
  | some r =>
    if r.wide then s.error
    else if !s.writeAllowed r off v then s.error
    else if areaSize off ≠ 0 && 0x100000000 < 4096 * fld v 0 28 + areaSize off then s.error
    else ((s.storeWord r off v).afterWrite off).done
  | none => if isCounter off || (s.computed32 off).isSome || storedWide off = some false then s.done else s.error

/-- A write of a plain 64-bit register, or one that is ignored. -/
def State.plain64 (s : State) (off : Nat) (v : BitVec 64) : State :=
  match rwRowOf off, rwRowOf (off + 4) with
  | some lo, some hi =>
    if !lo.wide then s.error
    else if !s.writeAllowed lo off (v.truncate 32) then s.error
    else ((s.storeWord lo off (v.truncate 32)).storeWord hi (off + 4) ((v >>> 32).truncate 32)).done
  | _, _ => if (s.computed64 off).isSome || storedWide off = some true then s.done else s.error

/-! ## Writes of the registers with effects of their own -/

/-- An issue queue by its kind: the host's, or management firmware's. -/
def State.iqOf (s : State) (host : Bool) : IssueSt := if host then s.hiq else s.miq
def State.setIq (s : State) (host : Bool) (q : IssueSt) : State := if host then { s with hiq := q } else { s with miq := q }

/-- A push or its item is refused or discarded with a cause: counted, LASTERR set. -/
def State.iqError (s : State) (host : Bool) (c : Nat) : State :=
  (s.setIq host { s.iqOf host with lasterr := c }).bump (if host then rHiqerr else rMiqerr)

/-- A push to an issue queue (R307, R308): the queue's own pusher alone; a malformed push and a full queue are refused. -/
def State.pushIssue (s : State) (w : Initiator) (host : Bool) (v : BitVec 64) : State :=
  let q := s.iqOf host
  if w ≠ (if host then Initiator.host else .mgmt) then s.error
  else if fld v 0 4 ≠ 0 || fld v 46 18 ≠ 0 then (s.iqError host 5).error
  else if 64 ≤ q.pushes.length then (s.iqError host 6).error
  else (s.setIq host { q with pushes := q.pushes ++ [v] }).done

/-- A write of half of OBSn_MMROLE (R585, R293): the low half is staged, the high half commits both. -/
def State.writeMmrole (s : State) (n : Nat) (high : Bool) (v : BitVec 64) : State :=
  if !high then (s.setReg64 (rMmStage n) v).done
  else if !s.fnQuiet 16 (n / 2) then s.error
  else ((s.setReg64 (rObsMmrole n) (s.reg64 (rMmStage n))).setReg64 (rObsMmrole n + 8) v).done

/-- A write of one word of a calibration store (R587). -/
def State.writeCal (s : State) (w : Initiator) (off : Nat) (v : BitVec 32) : State :=
  let k := (off - 0x20000) / 0x4000
  let i := off % 16 / 4
  if i = 3 then s.commitCal w k (off % 0x4000 / 16) v
  else
    let x := s.synOf k
    (s.setSyn k { x with staged := setFld x.staged (32 * i) 32 v.toNat }).done

/-- W1C bits of LANEn_STAT (R398). -/
def State.clearLane (s : State) (l : Nat) (v : BitVec 32) : State :=
  let x := s.laneOf l
  (s.setLane l { x with los := x.los && !v.getLsbD 5, lol := x.lol && !v.getLsbD 6, fastfail := x.fastfail && !v.getLsbD 7 }).done

/-- W1C bits of VCn_STAT, and of VCn_EVCAUSE (R375). -/
def State.clearVc (s : State) (n : Nat) (v : BitVec 64) : State :=
  let x := s.vcOf n
  (s.setVc n { x with stOvf := x.stOvf && !v.getLsbD 3, stSat := x.stSat && !v.getLsbD 4, stDom := x.stDom && !v.getLsbD 5 }).done
def State.clearEvcause (s : State) (n : Nat) (v : BitVec 32) : State :=
  let x := s.vcOf n
  (s.setVc n { x with evcause := x.evcause &&& ~~~(v.truncate 4) }).done

/-- CALFAIL of SYNk_STAT (R268). -/
def State.clearSyn (s : State) (k : Nat) (v : BitVec 32) : State :=
  let x := s.synOf k
  (s.setSyn k { x with calFail := x.calFail && !v.getLsbD 18 }).done

/-- TIME_STAT: LOSSTO is stored, TSQOVF is W1C (R454). -/
def State.writeTimeStat (s : State) (v : BitVec 32) : State :=
  ({ s with time := { s.time with lossto := BitVec.ofNat 8 (fld v 8 8), tsqovf := s.time.tsqovf && !v.getLsbD 6 } } : State).done

/-- A write of a 64-bit register (R585). -/
def State.write64 (s : State) (w : Initiator) (off : Nat) (v : BitVec 64) : State :=
  if off = 0x4000 then s.writeEvPend false v
  else if off = 0x4008 then s.writeEvPend true v
  else if off = rTimeRate then s.writeTimeRate w v
  else if off = 0x6018 then s.writeTimeStep w v
  else if off = 0x9000 then s.writeNvCtrl v
  else if 0xC100 ≤ off && off < 0xC900 && off % 64 = 8 then s.writeDmaHead ((off - 0xC100) / 64) v
  else if 0x10800 ≤ off && off < 0x11000 && off % 8 = 0 then s.writeSlotFlag w ((off - 0x10800) / 8) v
  else if off = 0x18020 then s.pushIssue w true v
  else if off = 0x18030 then s.pushIssue w false v
  else if 0x1A000 ≤ off && off < 0x1A400 && off % 64 = 0x10 then s.clearVc ((off - 0x1A000) / 64) v
  else if off = 0x40020 then s.writeEcq w v
  else if 0x50000 ≤ off && off < 0x58000 && (off % 0x1000 = 0x120 || off % 0x1000 = 0x128) then
    s.writeMmrole ((off - 0x50000) / 0x1000) (off % 0x1000 = 0x128) v
  else if 0xA0000 ≤ off && off < 0xB0000 && off % 0x4000 = 0x30 then s.writeRffecmd w ((off - 0xA0000) / 0x4000) v
  else if 0xA0000 ≤ off && off < 0xB0000 && off % 0x4000 = 0x40 then s.writeMute w ((off - 0xA0000) / 0x4000) v
  else s.plain64 off v

/-- A write of a 32-bit register of the blocks up to SLOT. -/
def State.write32a (s : State) (w : Initiator) (off : Nat) (v : BitVec 32) : State :=
  if off = 0xC then s.writeModeCtrl w v
  else if off = rModeCfg then (if w = .mgmt then s.plain32 off v else s.error)
  else if off = 0x1000 then s.writePwrReq w v
  else if off = rEvWdog then (s.writeWdog v).done
  else if off = 0x4018 then s.writeEvFence w v
  else if off = rTimeCfg then s.writeTimeCfg v
  else if off = rTimeStat then s.writeTimeStat v
  else if off = 0x600C then s.writeTimeCtrl v
  else if off = rTimeTxwptr then s.writeTxwptr v
  else if off = rNvStat then (s.setReg rNvStat (setBit (s.reg rNvStat) 0 ((s.reg rNvStat).getLsbD 0 && !v.getLsbD 0))).done
  else if off = rMemWincbase then s.writeWincbase v
  else if 0xC100 ≤ off && off < 0xC900 && off % 64 = 0 then (s.writeDmaCtrl ((off - 0xC100) / 64) v).done
  else if 0xC100 ≤ off && off < 0xC900 && off % 64 = 4 then (s.writeDoorbell ((off - 0xC100) / 64) v).done
  else if 0x10800 ≤ off && off < 0x11000 then s.ignoreSlot w
  else s.plain32 off v

/-- A write of a 32-bit register (R34). -/
def State.write32 (s : State) (w : Initiator) (off : Nat) (v : BitVec 32) : State :=
  if off < 0x14000 then s.write32a w off v
  else if off < 0x14010 then s.writeGcfg ((off - 0x14000) / 4) v
  else if 0x15000 ≤ off && off < 0x15800 && off % 64 = 0 then s.writeLaneCtrl ((off - 0x15000) / 64) v
  else if 0x15000 ≤ off && off < 0x15800 && off % 64 = 4 then s.clearLane ((off - 0x15000) / 64) v
  else if 0x18100 ≤ off && off < 0x18240 && off % 64 = 0 then s.writeSeqCtrl ((off - 0x18100) / 64) v
  else if 0x1A000 ≤ off && off < 0x1A400 && off % 64 = 0 then (s.writeVcCtrl ((off - 0x1A000) / 64) v).done
  else if 0x1A000 ≤ off && off < 0x1A400 && off % 64 = 0xC then s.clearEvcause ((off - 0x1A000) / 64) v
  else if 0x1D000 ≤ off && off < 0x1D100 && off % 32 = 0 then s.clearSyn ((off - 0x1D000) / 32) v
  else if 0x20000 ≤ off && off < 0x40000 then s.writeCal w off v
  else if 0x40400 ≤ off && off < 0x40600 then s.writeAlign (dirOf ((off - 0x40400) / 0x100)) (off % 0x100 / 4) v
  else s.plain32 off v

/-- A write of `n` bytes of window A. -/
def State.regWrite (s : State) (w : Initiator) (off n : Nat) (v : BitVec 64) : State :=
  if off % n ≠ 0 then s.error
  else if !s.blockOn off then (if w = .host then s.hostWake else s).error
  else if s.regFenced off then s.error
  else if n = 4 then s.write32 w off (v.truncate 32)
  else if n = 8 then s.write64 w off v
  else s.error

/-! ## The address map by initiator -/

/-- A beam list in the link buffers is readable by the sequencer that received it alone, until its air time has passed; what other
initiators read lies in no list (R306, log entry 33). -/
def State.listReadable (s : State) (w : Initiator) (a n : Nat) : Bool :=
  match w with
  | .seq k => s.lists.any fun x =>
      x.seq = k.val && x.addr ≤ a && a + n ≤ x.addr + x.bytes && decide (lead x.until_ s.now ≥ 0)
  | _ => !s.lists.any fun x => decide (a < x.addr + x.bytes ∧ x.addr < a + n)

/-- A read of `n` bytes at an internal address by an initiator. R26 names the paths of writers to the non-volatile store; a direct
read of it is served to every initiator but the link (R422; DESIGN CHOICE, log entry 41). -/
def State.busRead (s : State) (w : Initiator) (a n : Nat) : Access × State :=
  match accessRegion a n with
  | some .regs =>
    let r := s.regRead (a - regBase) n
    (r.1, if w = .host && !s.blockOn (a - regBase) then r.2.hostWake else r.2)
  | some (.vcProg i) => if w = .vc (Fin.ofNat 16 i) then (.error, s) else s.memRead a n
  | some .linkBuf => if s.listReadable w a n then s.memRead a n else (.error, s)
  | _ => s.memRead a n

/-- A plain write, answered. -/
def State.busStore (s : State) (a : Nat) (b : Bytes) : State :=
  match s.memWrite a b with
  | some s => s.done
  | none => s.error

/-- A write within one slot of window B (R464). -/
def State.slotStore (s : State) (w : Initiator) (a : Nat) (b : Bytes) : State :=
  if !s.memPowered .ctl || s.memFenced .ctl then s.error
  else if s.slotGrants w ((a - 0x1000000000) / 32768) then s.busStore a b
  else s.ignoreSlot w

/-- A write at an internal address by an initiator, under the rules of the range that holds it. -/
def State.busWrite (s : State) (w : Initiator) (a : Nat) (b : Bytes) : State :=
  match accessRegion a b.length with
  | none => s.error
  | some r =>
    match r with
    | .regs => s.regWrite w (a - regBase) b.length (BitVec.ofNat 64 (leNat b))
    | .ctl =>
      let n := 32768 - a % 32768
      if b.length ≤ n then s.slotStore w a b
      else
        let s := s.slotStore w a (b.take n)
        if s.resp = .error then s else s.slotStore w (a + n) (b.drop n)
    | .beam d k => if s.memBelow .fen || s.memFenced r then s.error else s.beamWrite w d k (a - beamBase d k) b
    | .seqMem k =>
      let x := s.seqOf k
      if a < seqData k && w ≠ .seq (Fin.ofNat 5 k) && x.state ≠ .stopped && x.state ≠ .faulted then s.error else s.busStore a b
    | .vcProg n =>
      let x := s.vcOf n
      if w = .vc (Fin.ofNat 16 n) || (x.state ≠ .stopped && x.state ≠ .faulted) then s.error else s.busStore a b
    | .nv => if w = .mgmt && b.length = 8 then s.nvWrite a b true else s.error
    | _ => s.busStore a b

/-! ## The rows of register accesses -/

/-- The answer of a read. -/
def State.answered (r : Access × State) : State :=
  match r.1 with
  | .ok b => { r.2 with resp := .data b }
  | .error => r.2.error
  | .poisoned b => { r.2 with resp := .poisoned b }

/-- COUNTER_READ_CLEAR (R11, R13): the read returns the value and clears it; an update by hardware in the same cycle stays.
The 64-bit register with an RC field, EV_FAULTLOG, is read whole. -/
def execCounterReadClear (w : Initiator) (off : RegOff) (hw : Bool) : State → Host.Outcome State Fault Refusal :=
  act fun s =>
    let wide := off = 0x4020
    let s := State.answered (s.busRead w (regBase + off.toNat) (if wide then 8 else 4))
    if !hw || s.resp = .error then s
    else if wide then badKick s
    else if isCounter off.toNat then s.bump off.toNat else s

/-- Sets the W1C bits of a register that hardware sets in the cycle of the write (R13). -/
def State.setW1c (s : State) (off : Nat) (hw : BitVec 64) : State :=
  if 0x15000 ≤ off && off < 0x15800 && off % 64 = 4 then
    let l := (off - 0x15000) / 64
    let x := s.laneOf l
    s.setLane l { x with los := x.los || hw.getLsbD 5, lol := x.lol || hw.getLsbD 6, fastfail := x.fastfail || hw.getLsbD 7 }
  else if 0x1A000 ≤ off && off < 0x1A400 && off % 64 = 0x10 then
    let n := (off - 0x1A000) / 64
    let x := s.vcOf n
    s.setVc n { x with stOvf := x.stOvf || hw.getLsbD 3, stSat := x.stSat || hw.getLsbD 4, stDom := x.stDom || hw.getLsbD 5 }
  else if 0x1A000 ≤ off && off < 0x1A400 && off % 64 = 0xC then
    let n := (off - 0x1A000) / 64
    let x := s.vcOf n
    s.setVc n { x with evcause := x.evcause ||| hw.truncate 4 }
  else if 0x1D000 ≤ off && off < 0x1D100 && off % 32 = 0 then
    let k := (off - 0x1D000) / 32
    let x := s.synOf k
    s.setSyn k { x with calFail := x.calFail || hw.getLsbD 18 }
  else if off = rTimeStat then { s with time := { s.time with tsqovf := s.time.tsqovf || hw.getLsbD 6 } }
  else if off = rNvStat then s.setReg rNvStat (setBit (s.reg rNvStat) 0 ((s.reg rNvStat).getLsbD 0 || hw.getLsbD 0))
  else if off = 0x4000 then s.signalAll (bitsSet hw.toNat 64)
  else if off = 0x4008 then s.signalAll ((bitsSet hw.toNat 64).map (64 + ·))
  else if 0xA0000 ≤ off && off < 0xB0000 && off % 0x4000 = 0x40 then
    { s with fe := { s.fe with mute := s.fe.mute ||| (hw &&& (0xFFFF#64 <<< (16 * ((off - 0xA0000) / 0x4000)))) } }
  else s

/-- The register at an offset is 64 bits wide. -/
def State.isWide (s : State) (off : Nat) : Bool := (s.computed64 off).isSome || storedWide off = some true

/-- W1C_WRITE (R11, R13): each 1 clears its bit, unless hardware sets the bit in the same cycle. -/
def execW1cWrite (w : Initiator) (off : RegOff) (v hw : BitVec 64) : State → Host.Outcome State Fault Refusal :=
  act fun s =>
    let n := if s.isWide off.toNat then 8 else 4
    let s := s.regWrite w off.toNat n (v &&& ~~~hw)
    if s.resp = .error then s else s.setW1c off.toNat hw

/-- WIDE_REGISTER_COMMIT (R585): a 64-bit write, of the high half of a writable 128-bit register. -/
def execWideRegisterCommit (w : Initiator) (off : RegOff) (v : BitVec 64) : State → Host.Outcome State Fault Refusal :=
  act fun s => s.regWrite w off.toNat 8 v

/-- CONFIG_REGISTER_WRITE (R25, R34): a 32-bit or a 64-bit write of any register. -/
def execConfigRegisterWrite (w : Initiator) (off : RegOff) (wide : Bool) (v : BitVec 64) : State → Host.Outcome State Fault Refusal :=
  act fun s => s.regWrite w off.toNat (if wide then 8 else 4) v

/-- HIQ_PUSH and MIQ_PUSH (R307, R308). -/
def execHiqPush (w : Initiator) (v : BitVec 64) : State → Host.Outcome State Fault Refusal :=
  unitAct w 0x18020 fun s => s.pushIssue w true v
def execMiqPush (w : Initiator) (v : BitVec 64) : State → Host.Outcome State Fault Refusal :=
  unitAct w 0x18030 fun s => s.pushIssue w false v

end Sys2Proof.Machine
end

