-- ==== Sys2Proof/Machine/DmaRun.lean ====
section
/-! DEFINITION. DMA bursts: arbitration, transforms, the split engine, word polls and failing accesses (R478-R480, R483,
R484, R487). -/

namespace Sys2Proof.Machine
open Sys2Proof

/-! ## Transforms (R480) -/

/-- Source bytes that a transform takes as one. -/
def dUnit (d : Bytes) : Nat :=
  match dXform d with
  | 0 => 1
  | 1 => 4
  | 4 => 16
  | 5 => 8 * dPlanes d
  | _ => 2

/-- Bytes to the next 4 KiB boundary. -/
def toBoundary (a : Nat) : Nat := 4096 - a % 4096

/-- Length of the burst at source offset `p`: at most BURST bytes, within a 4 KiB page of the source, and of the destination
where bytes keep their order; whole units of a transform, one at least (R479). -/
def State.burstLen (s : State) (d : Bytes) (p : Nat) : Nat :=
  let n := min (64 * 2 ^ fld (s.reg rDmaCfg) 1 2) (min (dSrcLen d - p) (toBoundary (dSrc d + p)))
  if dXform d = 0 then min n (toBoundary (dDst d + p)) else max (dUnit d) (n / dUnit d * dUnit d)

/-- One byte of a bit plane: bit `15 - j` of eight words. -/
def planeByte (b : Bytes) (j : Nat) : Byte :=
  BitVec.ofNat 8 ((List.range 8).map fun w => (pbit b (16 * w + 15 - j)).toNat * 2 ^ w).sum

/-- The words of one group of planes. -/
def mergeGroup (p : Nat) (b : Bytes) : Bytes :=
  (List.range 64).flatMap fun w =>
    leBytes 2 (((List.range p).map fun j => ((b.getD (8 * j + w / 8) 0).getLsbD (w % 8)).toNat * 2 ^ (15 - j)).sum)

/-- The writes that match a burst of source bytes at offset `p`: destination offsets and bytes. -/
def burstWrites (d : Bytes) (p : Nat) (b : Bytes) : List (Nat × Bytes) :=
  let u := dUnit d
  let units := (List.range (b.length / u)).map fun k => (p / u + k, slice b (u * k) u)
  match dXform d with
  | 0 => [(p, b)]
  | 1 => units.map fun e => (4 * (e.1 % dCols d * dRows d + e.1 / dCols d), e.2)
  | 2 => units.map fun e => (if e.1 % 2 = 0 then e.1 else dLength d / 2 + (e.1 - 1), e.2)
  | 3 => units.map fun e => (if 2 * e.1 < dLength d / 2 then 4 * e.1 else 2 * (2 * e.1 - dLength d / 2) + 2, e.2)
  | 4 => units.flatMap fun e => (List.range (dPlanes d)).map fun j =>
      (e.1 / 8 * (8 * dPlanes d) + 8 * j + e.1 % 8, [planeByte e.2 j])
  | _ => units.map fun e => (128 * e.1, mergeGroup (dPlanes d) e.2)

/-! ## The accesses of a burst (R478, R484) -/

/-- Cuts a write into pieces of aligned 64-byte lines (R35). -/
def linePieces : Nat → Nat → Bytes → List (Nat × Bytes)
  | 0, _, _ => []
  | fuel + 1, a, b =>
    let n := 64 - a % 64
    if b.length ≤ n then (if b.isEmpty then [] else [(a, b)]) else (a, b.take n) :: linePieces fuel (a + n) (b.drop n)

/-- The read of a burst: its bytes, or the cause of the halt. Host data comes with the grant; too few bytes stand for an
error completion. -/
def State.burstRead (s : State) (c : DmaCh) (d : Bytes) (p n : Nat) (host : Bytes) : (Nat ⊕ Bytes) × State :=
  if dSrcH d then (if s.pcieUp && n ≤ host.length then .inr (host.take n) else .inl 1, s)
  else
    match s.busRead (.dma c) (dSrc d + p) n with
    | (.ok b, s) => (.inr b, s)
    | (.error, s) => (.inl 1, s)
    | (.poisoned _, s) => (.inl 3, s)

/-- Some writes in order, and the address of the first that failed; a host write is posted. -/
def State.burstStore (s : State) (c : DmaCh) (d : Bytes) : List (Nat × Bytes) → State × Option Nat
  | [] => (s, none)
  | (o, b) :: ws =>
    if dDstH d then (if s.pcieUp then s.emitOut (.hostWrite (dDst d + o) b (dNoSnoop d)) else s).burstStore c d ws
    else
      let s := s.busWrite (.dma c) (dDst d + o) b
      if s.resp = .error then (s, some (dDst d + o)) else s.burstStore c d ws

/-- The pieces of a copy in order, counted one by one; the address of the first that failed. -/
def State.pieceStore (s : State) (c : DmaCh) (d : Bytes) : List (Nat × Bytes) → State × Option Nat
  | [] => (s, none)
  | (o, b) :: ws =>
    match s.burstStore c d [(o, b)] with
    | (s, some a) => (s, some a)
    | (s, none) =>
      let x := s.dmaOf c.val
      (s.setDma c.val { x with read := x.read + b.length, moved := x.moved + b.length }).pieceStore c d ws

/-- One burst of a channel: its read and the matching writes; a failing access halts the channel. -/
def State.dmaBurst (s : State) (c : DmaCh) (host : Bytes) : State :=
  let x := s.dmaOf c.val
  let d := x.desc
  let p := x.moved
  let n := s.burstLen d p
  match s.burstRead c d p n host with
  | (.inl e, s) => s.dmaHalt c.val e .copy (dSrc d + p) (dSrcH d)
  | (.inr b, s) =>
    if dXform d = 0 then
      let ws := (linePieces (b.length / 64 + 2) (dDst d + p) b).map fun e => (e.1 - dDst d, e.2)
      match s.pieceStore c d ws with
      | (s, some a) => s.dmaHalt c.val 2 .copy a false
      | (s, none) => s
    else
      match s.burstStore c d (burstWrites d p b) with
      | (s, some a) => s.dmaHalt c.val 2 .copy a false
      | (s, none) =>
        let x := s.dmaOf c.val
        s.setDma c.val { x with read := x.read + n, moved := x.moved + n }

/-! ## Arbitration (R479) -/

/-- The channel has a burst to make. -/
def State.dmaReady (s : State) (c : Nat) : Bool :=
  let x := s.dmaOf c
  x.state = .running && x.moved < dSrcLen x.desc

/-- DMAn_CTRL.PRIO. -/
def State.dmaPrio (s : State) (c : Nat) : Nat := fld (s.reg (rDma c 0)) 1 2

/-- The levels of the schedule's 15 slots. -/
def slotLevels : List Nat := [3, 2, 3, 1, 3, 2, 3, 0, 3, 2, 3, 1, 3, 2, 3]

/-- The next ready channel of a level in round robin. -/
def State.dmaNext (s : State) (level : Nat) : Option Nat :=
  let from_ := tget (fun _ => 0) s.dmaArb.last level
  ((List.range 32).map fun i => (from_ + i) % 32).find? fun c => s.dmaReady c && s.dmaPrio c = level

/-- The channel that the present slot grants, and its level: the slot's own, else the highest that has a ready channel. -/
def State.dmaGrant (s : State) : Option (Nat × Nat) :=
  let l := slotLevels.getD (s.dmaArb.slot % 15) 0
  (l :: [3, 2, 1, 0]).findSome? fun l => (s.dmaNext l).map fun c => (c, l)

/-- The schedule advances, and the level remembers its channel. -/
def State.dmaAdvance (s : State) (c level : Nat) : State :=
  { s with dmaArb := { s.dmaArb with
      slot := (s.dmaArb.slot + 1) % 15
      last := tput (fun _ => 0) level ((c + 1) % 32) s.dmaArb.last } }

/-! ## The split engine (R487) -/

/-- Drains the oldest burst of the ring buffer. -/
def State.splitDrain (s : State) : State :=
  match s.dmaArb.buf with
  | [] => s
  | e :: es =>
    let c : DmaCh := Fin.ofNat 32 e.chan
    match s.burstStore c (s.dmaOf e.chan).desc e.writes with
    | (s, some a) => s.dmaHalt e.chan 2 .copy a false
    | (s, none) =>
      let x := s.dmaOf e.chan
      { s.setDma e.chan { x with moved := x.moved + e.bytes } with dmaArb := { s.dmaArb with buf := es } }

/-- Bytes in the ring buffer. -/
def State.splitBytes (s : State) : Nat := (s.dmaArb.buf.map SplitBurst.bytes).sum

/-- Fills the ring buffer with the next burst of the channel that was rung first. -/
def State.splitFill (s : State) (host : Bytes) : State :=
  match s.dmaArb.order.find? fun c => (s.dmaOf c).state = .running with
  | none => s
  | some i =>
    let c : DmaCh := Fin.ofNat 32 i
    let x := s.dmaOf i
    let d := x.desc
    let n := s.burstLen d x.read
    if x.read ≥ dSrcLen d || 65536 < s.splitBytes + n then s
    else
      match s.burstRead c d x.read n host with
      | (.inl e, s) => s.dmaHalt i e .copy (dSrc d + x.read) (dSrcH d)
      | (.inr b, s) =>
        let ws := (linePieces (b.length / 64 + 2) (dDst d + x.read) b).map fun e => (e.1 - dDst d, e.2)
        { s.setDma i { x with read := x.read + n } with dmaArb := { s.dmaArb with buf := s.dmaArb.buf ++ [⟨i, n, ws⟩] } }

/-- A step of both engines; a halt of either stops both. Channels that have left RUNNING leave the order. -/
def State.splitStep (s : State) (host : Bytes) : State :=
  if (List.range 16).any fun c => (s.dmaOf c).state = .halted then s
  else
    let busy := fun (c : Nat) => !((s.dmaOf c).state = .idle && !(s.dmaOf c).rung) && (s.dmaOf c).state ≠ .endwait
    let s : State := { s with dmaArb := { s.dmaArb with order := s.dmaArb.order.filter busy } }
    let s := s.splitDrain
    if (List.range 16).any fun c => (s.dmaOf c).state = .halted then s else s.splitFill host

/-! ## The rows -/

/-- BURST_GRANT (R479, R487): `host` is what the host's memory returns for a read of host addresses. -/
def execBurstGrant (host : Bytes) : State → Host.Outcome State Fault Refusal :=
  act fun s =>
    if !s.dmaOn then s
    else if s.dmaSplit then { s.splitStep host with resp := .none }
    else
      match s.dmaGrant with
      | none => s
      | some (c, level) => { (s.dmaAdvance c level).dmaBurst (Fin.ofNat 32 c) host with resp := .none }

/-- Reads the word of a WAITWORD descriptor. -/
def State.dmaPoll (s : State) (c : DmaCh) : State :=
  let x := s.dmaOf c.val
  match s.busRead (.dma c) (dSrc x.desc) 4 with
  | (.ok b, s) =>
    let v : BitVec 32 := BitVec.ofNat 32 (leNat b)
    let mask : BitVec 32 := BitVec.ofNat 32 (dDst x.desc / 2 ^ 32)
    if v &&& mask = BitVec.ofNat 32 (dDst x.desc) then s.dmaComplete c.val
    else s.setDma c.val { x with pollAt := x.began + 1024 * ((s.clock - x.began) / 1024 + 1) }
  | (.error, s) => s.dmaHalt c.val 1 .wait (dSrc x.desc) false
  | (.poisoned _, s) => s.dmaHalt c.val 3 .wait (dSrc x.desc) false

/-- The poll of a WAITWORD descriptor is due. -/
def State.pollDue (s : State) (c : Nat) : Bool :=
  let x := s.dmaOf c
  x.state = .waiting && dType x.desc = 2 && x.pollAt ≤ s.clock && s.dmaOn

/-- WAITWORD_POLL (R483): when the descriptor begins, and then every 1,024 tk. -/
def execWaitwordPoll (c : DmaCh) : State → Host.Outcome State Fault Refusal :=
  act fun s => if s.pollDue c.val then s.dmaPoll c else s

/-- DMA_ERROR_HALT (R484): the access that the channel makes next fails, as its target answers or, for host memory, with an
error completion, and the channel halts. An access that would not fail is left to its own command. -/
def execDmaErrorHalt (c : DmaCh) : State → Host.Outcome State Fault Refusal :=
  act fun s =>
    let t :=
      if !s.dmaOn then s
      else if s.pollDue c.val then s.dmaPoll c
      else if s.dmaSplit then s.splitStep []
      else if s.dmaReady c.val then s.dmaBurst c [] else s
    if (s.dmaOf c.val).state ≠ .halted && (t.dmaOf c.val).state = .halted then { t with resp := .none } else s

end Sys2Proof.Machine
end

