-- ==== Sys2Proof/Machine/Host.lean ====
section
/-! DEFINITION. The host's PCIe requests and the service SPI (R455-R461, R472, R593). -/

namespace Sys2Proof.Machine
open Sys2Proof

/-! ## Configuration space (R455, R593) -/

/-- The Subsystem ID follows the part's variant and grade. -/
def subsystemId : Nat := (if Config.variantM then 2 else 1) + (if Config.gradeE then 16 else 0)

/-- Offset of the MSI-X capability in configuration space (log entry 25). -/
def msixCap : Nat := 0xB0

/-- The double words of configuration space whose content the spec gives. -/
def State.configWord (s : State) (i : Nat) : Option (BitVec 32) :=
  if i = 0 then some 0x64641E2C
  else if i = 8 then some (BitVec.ofNat 32 (Config.silRev.toNat + 2 ^ 8 * 0x118000))
  else if i = 0x2C then some (BitVec.ofNat 32 (0x1E2C + 2 ^ 16 * subsystemId))
  else if i = msixCap then
    some (BitVec.ofNat 32 (0x11 + 2 ^ 16 * 127 + 2 ^ 30 * s.pcie.fmask.toNat + 2 ^ 31 * s.pcie.msixEn.toNat))
  else if i = msixCap + 4 then some 0xFE000
  else if i = msixCap + 8 then some 0xFF000
  else none

/-- A read within one double word; content the spec does not give is a free value. -/
def State.configRead (s : State) (off n : Nat) : State :=
  let i := off / 4 * 4
  match s.configWord i with
  | some v => { s with resp := .data (slice (leBytes 4 v.toNat) (off % 4) n) }
  | none => { s.drawn with resp := .data (slice (leBytes 4 (s.draw.1.truncate 32 : BitVec 32).toNat) (off % 4) n) }

/-- A write: enable and function mask of MSI-X act (R471); pending vectors that are no longer masked send. -/
def State.configWrite (s : State) (off : Nat) (b : Bytes) : State :=
  if msixCap ≤ off && off + b.length ≤ msixCap + 4 then
    let top := fun (old : Bool) (i : Nat) => if off ≤ msixCap + 3 && msixCap + 3 < off + b.length then
        (b.getD (msixCap + 3 - off) 0).getLsbD i else old
    ({ s with pcie := { s.pcie with msixEn := top s.pcie.msixEn 7, fmask := top s.pcie.fmask 6 } } : State).flushVectors.done
  else s.done

/-! ## Windows (R455, R459) -/

/-- Size of a window's BAR, and the internal address of its first byte. -/
def winSize : HostWin → Nat
  | .winA => 0x100000
  | .winB => 0x800000
  | .winC => 0x40000000
  | _ => 0

def State.winBase (s : State) : HostWin → Nat
  | .winA => regBase
  | .winB => 0x1000000000
  | .winC => 0x200000 * fld (s.reg rMemWincbase) 0 12
  | _ => 0

/-- Windows B and C are silent in FEN, and a request to them wakes (R458). -/
def State.winWake (s : State) (w : HostWin) : State := if w ≠ .winA && !s.blocksOn then s.hostWake else s

/-- A read of a window; its answer. -/
def State.hostRead (s : State) (r : HostReq) : State :=
  if r.len = 0 then { s with resp := .data [] }
  else
    let (x, s) := s.busRead .host (s.winBase r.win + r.off.toNat) r.len
    match x with
    | .ok b => { s with resp := .data b }
    | .poisoned b => { s with resp := .poisoned b }
    | .error => ({ s with resp := .abort } : State).winWake r.win

/-- Runs of consecutive enabled bytes: offset and bytes of each. -/
def enabledRuns : Nat → Bytes → List Bool → List (Nat × Bytes)
  | _, [], _ => []
  | o, b :: bs, es =>
    let rest := enabledRuns (o + 1) bs (es.drop 1)
    if es.headD true then
      match rest with
      | (p, c) :: more => if p = o + 1 then (o, b :: c) :: more else (o, [b]) :: rest
      | [] => [(o, [b])]
    else rest

/-- A run cut at aligned 64-byte lines (R461); `fuel` bounds the number of pieces. -/
def hostLines : Nat → Nat → Bytes → List (Nat × Bytes)
  | 0, _, _ => []
  | fuel + 1, a, b =>
    if b.isEmpty then []
    else
      let n := 64 - a % 64
      (a, b.take n) :: hostLines fuel (a + n) (b.drop n)

/-- The pieces in which a write is applied. -/
def hostPieces (base : Nat) (r : HostReq) : List (Nat × Bytes) :=
  (enabledRuns 0 r.data r.enables).flatMap fun x => hostLines (x.2.length + 1) (base + x.1) x.2

/-- Applies the pieces in order; the first address that failed. -/
def State.hostPut (s : State) (ps : List (Nat × Bytes)) : Option Nat × State :=
  ps.foldl (fun (x : Option Nat × State) p =>
    let s := x.2.busWrite .host p.1 p.2
    (x.1.or (if s.resp = .error then some p.1 else none), s)) (none, s)

/-- A posted write that failed: latched, counted, event 111 (R458). -/
def State.hostErr (s : State) (a : Nat) (winC : Bool) : State :=
  let n := min (fld (s.reg64 rMemHosterr) 48 16 + 1) 0xFFFF
  (s.setReg64 rMemHosterr (BitVec.ofNat 64 (a % 2 ^ 40 + 2 ^ 40 * winC.toNat + 2 ^ 48 * n))).signal 111

/-- A write to a window. -/
def State.hostWrite (s : State) (r : HostReq) : State :=
  let (bad, s) := s.hostPut (hostPieces (s.winBase r.win + r.off.toNat) r)
  match bad with
  | none => if r.posted then { s with resp := .none } else s.done
  | some a =>
    let s := s.winWake r.win
    if r.posted then ({ s with resp := .none } : State).hostErr a (r.win = .winC) else { s with resp := .abort }

/-- HOST_REQUEST (R456-R461): unanswered while the link is down; Retry Status to a configuration request until the endpoint
is ready. -/
def execHostRequest (r : HostReq) : State → Host.Outcome State Fault Refusal :=
  act fun s =>
    let n := if r.write then r.data.length else r.len
    if !s.pcie.perstN || s.atOrBelow .bog then s
    else if r.win = .config then
      if !s.pcie.ready then { s with resp := .retry }
      else if r.write then s.configWrite r.off.toNat r.data
      else s.configRead r.off.toNat r.len
    else if !s.pcie.ready then s
    else if winSize r.win < r.off.toNat + n || r.win = .outside then
      (if r.write && r.posted then s else { s with resp := .unsupported })
    else if r.write then s.hostWrite r
    else s.hostRead r

/-! ## Service SPI (R472) -/

/-- A transaction on the service SPI, which stops with the host island (R521). -/
def svcAct (f : State → State) : State → Host.Outcome State Fault Refusal := act fun s => if s.isFenced 9 then s else f s

/-- The SPI is served: SVCEN, or RECOVERY. -/
def State.svcServed (s : State) : Bool := (s.reg rModeCfg).getLsbD 0 || s.mode.mode = .recovery

/-- ADDR and COUNT of a transaction are well formed. -/
def svcHead (b : Bytes) (op : Nat) : Option (Nat × Nat) :=
  let a := pbits b 8 40
  let n := pbits b 48 16
  if 8 ≤ b.length && pbits b 0 8 = op && a % 4 = 0 && n % 4 = 0 && 4 ≤ n && n ≤ 4096 then some (a, n) else none

/-- The largest power of two up to 64 that divides `a` and is at most `n` (both multiples of 4). -/
def alignedSize (a n : Nat) : Nat :=
  if a % 64 = 0 && 64 ≤ n then 64
  else if a % 32 = 0 && 32 ≤ n then 32
  else if a % 16 = 0 && 16 ≤ n then 16
  else if a % 8 = 0 && 8 ≤ n then 8
  else 4

/-- A transfer as aligned accesses of at most 64 bytes; `fuel` bounds their number. -/
def alignedPieces : Nat → Nat → Nat → List (Nat × Nat)
  | 0, _, _ => []
  | fuel + 1, a, n =>
    if n = 0 then []
    else
      let k := alignedSize a n
      (a, k) :: alignedPieces fuel (a + k) (n - k)

/-- The accesses of a transfer of up to 4,096 bytes (R422, R472). In window A, whose registers take 32 and 64 bits alone (R34):
eight aligned bytes are one access, any other transfer goes word by word. -/
def busPieces (a n : Nat) : List (Nat × Nat) :=
  if regBase ≤ a && a < regBase + 0x100000 then
    if n = 8 && a % 8 = 0 then [(a, 8)] else (List.range (n / 4)).map fun i => (a + 4 * i, 4)
  else alignedPieces 1024 a n

/-- The status of a transaction is kept for STATUS, and answered. -/
def State.svcEnd (s : State) (n : Nat) (b : Bytes) : State := { s with svc := n, resp := .status n b }

/-- Writes the pieces in order; the first that fails ends the transfer. -/
def State.piecesWrite (s : State) (w : Initiator) (a : Nat) (b : Bytes) : List (Nat × Nat) → Bool × State
  | [] => (true, s)
  | (p, k) :: ps =>
    let s := s.busWrite w p (slice b (p - a) k)
    if s.resp = .error then (false, s) else State.piecesWrite s w a b ps

/-- Reads the pieces in order; the first that fails ends the transfer. -/
def State.piecesRead (s : State) (w : Initiator) : List (Nat × Nat) → Option Bytes × State
  | [] => (some [], s)
  | (p, k) :: ps =>
    match s.busRead w p k with
    | (.ok b, s) =>
      let (r, s) := State.piecesRead s w ps
      (r.map (b ++ ·), s)
    | (_, s) => (none, s)

/-- SVC_WRITE: the bytes of the transaction, the CRC-32C included. -/
def execSvcWrite (b : Bytes) : State → Host.Outcome State Fault Refusal :=
  svcAct fun s =>
    if !s.svcServed then s.svcEnd 2 []
    else
      match svcHead b 2 with
      | none => s.svcEnd 3 []
      | some (a, n) =>
        if b.length ≠ 12 + n || (crc32c (b.take (8 + n))).toNat ≠ leNat (b.drop (8 + n)) then s.svcEnd 3 []
        else
          let (ok, s) := s.piecesWrite .spi a ((b.drop 8).take n) (busPieces a n)
          s.svcEnd (if ok then 0 else 1) []

/-- SVC_READ: the data and the CRC-32C over them follow 0xA5. -/
def execSvcRead (b : Bytes) : State → Host.Outcome State Fault Refusal :=
  svcAct fun s =>
    if !s.svcServed then s.svcEnd 2 []
    else
      match svcHead b 3 with
      | none => s.svcEnd 3 []
      | some (a, n) =>
        match s.piecesRead .spi (busPieces a n) with
        | (some d, s) => s.svcEnd 0 (0xA5 :: d ++ leBytes 4 (crc32c d).toNat)
        | (none, s) => s.svcEnd 1 []

/-- SVC_STATUS: the status of the previous transaction. -/
def execSvcStatus : State → Host.Outcome State Fault Refusal :=
  svcAct fun s => { s with resp := .data [BitVec.ofNat 8 s.svc] }

end Sys2Proof.Machine
end

