-- ==== Sys2Proof/Machine/ItemApply.lean ====
section
/-! DEFINITION. A queued item reaches the sample its AIRTIME names, or the later one its lateness gives it, and takes effect
(R50, R55-R57). -/

namespace Sys2Proof.Machine
open Sys2Proof

/-- What an item does at its stage, by its kind. A data block has been taken by its symbol or its path already. -/
def State.applyItem (s : State) (x : QItem) : State :=
  match x.item.tag.kind.toNat with
  | 0x13 => s.applyFftCfg x
  | 0x14 => s.applyWola x
  | 0x15 => s.applyCarrier x (s.chainDf x.tile (carDir x.item.body) x.item.tag.carrier.toNat)
  | 0x16 => s.applyFltSwap x
  | 0x17 => s.applyCfrCfg x
  | 0x18 => s.applyDpdSwap x
  | 0x19 => s.applySicCtl x
  | 0x1A => if pbit x.item.body 16 then s.applyGainRx x else s.applyGainTx x
  | 0x1B => s.applyDcFreeze x
  | 0x1C => s.applyFeCtl x
  | 0x1D => s.applyLoCtl x
  | 0x1E => s.applyPwrCtl x
  | 0x21 => s.applyResume x
  | 0x23 => s.applyCoef x
  | 0x01 | 0x02 => s
  | _ => s.passMarker x

/-- The item that is due at a stage leaves its queue and takes effect; a conflict is counted. -/
def State.applyDue (s : State) (p : Port) (t : Nat) (late : Bool) : State :=
  match s.dueItem p t late with
  | none => s
  | some x =>
    let x := s.firstOfConflict x
    let s := if s.conflicts x then s.bump (domCounter p t .conflict) else s
    ({ s with queue := dropItem x s.queue } : State).applyItem x

/-- ITEM_APPLY (R57). A stage whose island is not clocked applies nothing (R542). -/
def execItemApply (p : Port) (t : Tile) : State → Host.Outcome State Fault Refusal :=
  act fun s => if s.gated p (portTile p t.val) || s.portFenced p (portTile p t.val) then s else s.applyDue p (portTile p t.val) false

/-- LATE_ITEM_APPLY (R50). -/
def execLateItemApply (p : Port) (t : Tile) : State → Host.Outcome State Fault Refusal :=
  act fun s => if s.gated p (portTile p t.val) || s.portFenced p (portTile p t.val) then s else s.applyDue p (portTile p t.val) true

end Sys2Proof.Machine
end

