-- ==== Sys2Proof/Machine/LinkRx.lean ====
section
/-! DEFINITION. Received frames of the Cypel link: checks, sequence numbers, cascade forwarding, tagged items, management
requests, time frames, and Ethernet (R402-R406, R413-R430, R445-R449, R569). -/

namespace Sys2Proof
open Machine

/-! ## Header fields (R403) -/

def Frame.type (f : Frame) : Nat := fld f.hdr 0 8
def Frame.vc (f : Frame) : Nat := fld f.hdr 8 2
def Frame.up (f : Frame) : Bool := f.hdr.getLsbD 10
def Frame.bcast (f : Frame) : Bool := f.hdr.getLsbD 11
def Frame.dest (f : Frame) : Nat := fld f.hdr 12 4
def Frame.src (f : Frame) : Nat := fld f.hdr 16 4
def Frame.seq (f : Frame) : BitVec 16 := BitVec.ofNat 16 (fld f.hdr 40 16)
/-- KIND of a TAGGED frame. -/
def Frame.kind (f : Frame) : BitVec 6 := (tagFromBytes (f.body.take 16)).kind

/-! ## Checks (R404-R406) -/

/-- The CRC-32 over header and body. -/
def Frame.crcGood (f : Frame) : Bool := crc32 (leBytes 8 f.hdr.toNat ++ f.body) = f.crc

/-- TYPE on its VC, and the LENGTH that the type asks for. -/
def Frame.typeOk (f : Frame) : Bool :=
  let b := f.body
  match f.type with
  | 0x01 =>
    let t := tagFromBytes (b.take 16)
    decide (16 ≤ b.length) && b.length = 16 + t.length.toNat &&
    (f.vc = 1 && t.kind = kSection || f.vc = 2 && t.kind ∈ [kFdData, kTdData, kUlData, kUlPartial, kRxTd, kSrs])
  | 0x02 => f.vc = 0 && decide (16 ≤ b.length)
  | 0x03 => f.vc = 0 && decide (16 ≤ b.length)
  | 0x04 => f.vc = 0 && b.length = 16
  | 0x05 => f.vc = 3 && decide (16 ≤ b.length)
  | 0x06 =>
    f.vc = 2 && decide (8 ≤ b.length) && pbits b 8 56 = 0 && (pbits b 0 8 = 0 || pbits b 0 8 = 1 && b.length = 16)
  | _ => false

/-- Reserved header bits, LENGTH, TYPE and VC. -/
def Frame.formOk (f : Frame) : Bool :=
  fld f.hdr 20 4 = 0 && fld f.hdr 38 2 = 0 && fld f.hdr 56 8 = 0 && decide (f.body.length ≤ 8192) &&
  fld f.hdr 24 14 = f.body.length && f.typeOk

/-- Octets of an Ethernet frame, FCS included. -/
def EthFrame.octets (e : EthFrame) : Nat := 18 + (if e.vlan.isSome then 4 else 0) + e.payload.length

end Sys2Proof

namespace Sys2Proof.Machine
open Sys2Proof

/-- The port and direction are ones that R419 allows. -/
def State.dirOk (s : State) (p : Nat) (f : Frame) : Bool :=
  if p = 1 then f.up else !f.up && (f.bcast || decide (s.devIdx ≤ f.dest))

/-! ## Sequence numbers (R413, R414, R417) -/

/-- A frame with a good CRC on its VC: whether it is accepted. A duplicate is acknowledged again; a frame ahead asks for a NAK,
unless one for the same SEQ went out within 16,384 tk. -/
def State.seqIn (s : State) (p : Nat) (f : Frame) : Bool × State :=
  let v := f.vc
  let x := s.vlOf p v
  let n := frameUnits f.body.length
  if v = 2 then
    let s := if f.seq = x.rxSeq then s else s.bump (cPort p 4)
    (true, (s.setVl p v { x with rxSeq := f.seq + 1 }))
  else if f.seq = x.rxSeq then
    let s := (s.setVl p v { x with rxSeq := x.rxSeq + 1, nak := none }).queueWords p [ackWordOf v false x.rxSeq]
    (true, s.freeUnits p v n)
  else if (f.seq - x.rxSeq).toNat ≥ 0x8000 then (false, s.queueWords p [ackWordOf v false (x.rxSeq - 1)])
  else
    let told := match x.nak with
      | some (q, t) => q = x.rxSeq && decide (s.clock < t + 16384)
      | none => false
    if told then (false, s)
    else (false, (s.setVl p v { x with nak := some (x.rxSeq, s.clock) }).queueWords p [ackWordOf v true x.rxSeq])

/-! ## Management (R421, R422, R569) -/

/-- A response: DIR 1, SRC = d. -/
def State.mgmtReply (s : State) (status h : Nat) (data : Bytes) : State := s.sendOwn none 3 0 (rspHead status h ++ data)

/-- The request meets R421. -/
def mgmtForm (h : Nat) (data : Bytes) : Bool :=
  let op := nbits h 0 8
  let n := nbits h 16 13
  let a := nbits h 32 40
  nbits h 29 3 = 0 && nbits h 72 56 = 0 && decide (4 ≤ n ∧ n ≤ 4096) && n % 4 = 0 && a % 4 = 0 &&
  match op with
  | 0 => data.isEmpty
  | 1 => data.length = n
  | 2 => data.length = 16 + n && a = 0
  | _ => false

/-- The access touches the non-volatile store (R26). -/
def touchesNv (a n : Nat) : Bool := a < nvBase + 0x2000000 && nvBase < a + n

def State.mgmtDoRead (s : State) (h : Nat) : State :=
  match s.piecesRead .link (busPieces (nbits h 32 40) (nbits h 16 13)) with
  | (some d, s) => s.mgmtReply 0 h d
  | (none, s) => s.mgmtReply 1 h []

def State.mgmtDoWrite (s : State) (h : Nat) (data : Bytes) : State :=
  let (ok, s) := s.piecesWrite .link (nbits h 32 40) data (busPieces (nbits h 32 40) (nbits h 16 13))
  ({ s with resp := .none } : State).mgmtReply (if ok then 0 else 1) h []

/-- The session message of an UPDATE. CLIENT is the word its OPEN gave. -/
def State.sessMsg (s : State) (data : Bytes) : SessMsg where
  op     := BitVec.ofNat 8 (pbits data 0 8)
  tag    := BitVec.ofNat 8 (pbits data 8 8)
  zero   := BitVec.ofNat 16 (pbits data 16 16)
  offset := BitVec.ofNat 32 (pbits data 32 32)
  len    := BitVec.ofNat 32 (pbits data 64 32)
  crc    := BitVec.ofNat 32 (pbits data 96 32)
  client := s.sess.client
  data   := data.drop 16

/-- UPDATE: the session's reply travels in the response. A reply before a reset that the message brings about leaves first. -/
def State.mgmtDoUpdate (s : State) (h : Nat) (data : Bytes) : State :=
  let m := s.sessMsg data
  let p := s.upPort none
  let up := s.portUp p
  let q := (s.vlOf p 0).txSeq
  let idx := s.devIdx
  let s := ({ s with resp := .none } : State).session .link m m.op.toNat
  let (st, b) := match s.resp with
    | .status _ b => (0, b)
    | _ => (2, [])
  let s : State := { s with resp := .none }
  if up && !s.portUp p then
    s.putFrame p ⟨linkHdr 3 0 1 0 0 idx (16 + b.length), rspHead st h ++ b, s.clock⟩ q
  else s.mgmtReply st h b

/-- Requests of the device whose responses have not left (R422); those that it refused are not outstanding. -/
def State.mgmtWaiting (s : State) : Nat :=
  ((s.vlOf (s.upPort none) 0).queue.filter fun f =>
    fld f.hdr 0 8 = 3 && fld f.hdr 16 4 = s.devIdx && (f.body.headD 0).toNat ≠ 2).length

/-- A management request addressed to the device. -/
def State.mgmtReq (s : State) (b : Bytes) : State :=
  let h := leNat (b.take 16)
  let data := b.drop 16
  let s := s.signal 70
  if !(s.reg rLanePortcfg).getLsbD 4 || 64 ≤ s.mgmtWaiting then s.mgmtReply 2 h []
  else if !mgmtForm h data then s.mgmtReply 3 h []
  else
    match nbits h 0 8 with
    | 2 => s.mgmtDoUpdate h data
    | op =>
      if touchesNv (nbits h 32 40) (nbits h 16 13) then s.mgmtReply 2 h []
      else if op = 0 then s.mgmtDoRead h
      else s.mgmtDoWrite h data

/-! ## Tagged items (R418) -/

/-- A data item at link ingress: its tag, its earliness and its lateness are judged and counted there (R39, R44, R46, R612); then it
is taken by the stage `port` of tile `t`, or kept in the network while that stage is not clocked or an earlier one still is in it
(R22). -/
def State.ingressData (s : State) (port : Port) (t : Nat) (it : Item) (k : Item → State → State) : State :=
  let isLate := !it.tag.late && decide (lead it.tag.air s.now < (s.ingressLead it : Int))
  let x := if isLate then lateItem it else it
  let fails := tagFailEvents .lnk 0 it.tag.source.toNat
  if !tagCheck it.tag then (s.bump (domCounter .lnk 0 .tagerr)).signalAll fails
  else if lead it.tag.air s.now > 2 ^ 24 then (s.bump (domCounter .lnk 0 .cfgerr)).signalAll fails
  else
    let s := if isLate then s.bump (domCounter .lnk 0 .latecnt) else s
    if !s.portFenced port t && (s.gated port t || (netFirst port t 8 s.net).isSome) then
      { s with net := s.net ++ [⟨8, port, t, x, 0⟩] }
    else s.arrive port t x fun _ s => k x s

/-- A TAGGED frame is consumed: its item reaches link ingress. -/
def State.consumeTagged (s : State) (p : Nat) (b : Bytes) : State :=
  let it : Item := ⟨tagFromBytes (b.take 16), b.drop 16, 0⟩
  let g := it.tag
  if g.source ≠ (if p = 1 then 9 else 8) then
    (s.bump (domCounter .lnk 0 .tagerr)).signalAll (tagFailEvents .lnk 0 g.source.toNat)
  else if p ≠ 1 && g.kind ∈ [kSection, kFdData, kTdData] && !s.basebandTaken then s.bump (cPort p 1)
  else
    match g.kind.toNat with
    | 0x01 => s.ingressData .bf 0 it fun x s => s.takeFd 0 x
    | 0x02 => s.ingressData .flt (tileOfPath (tdPath it.body)) it fun x s => s.takeTd 0 x
    | 0x03 => s.arrive .lnk 0 it fun _ s => s.takeSection it
    | 0x05 => s.arrive .lnk 0 it fun _ s => s.takePartial it
    | _ => s.arrive .lnk 0 it fun _ s => s

/-! ## Cascade (R419, R420, R425) -/

/-- A down frame goes on through port 1. -/
def State.forwardDown (s : State) (f : Frame) : State :=
  if s.portUp 1 then
    let s := s.egress 1 f.hdr f.body
    if f.type = 2 && !f.bcast then
      let x := s.portOf 1
      s.setPort 1 { x with fwdReqs := x.fwdReqs ++ [f.body.take 16 ++ [BitVec.ofNat 8 f.dest]] }
    else s
  else
    let s := s.bump (cPort 1 6)
    if f.type = 2 then s.mgmtReply 4 (leNat (f.body.take 16)) [] else s

/-- The request that a response from downstream answers is no longer waited for. -/
def State.answered1 (s : State) (f : Frame) : State :=
  let hit := fun (h : Bytes) => (h.getD 1 0) = (f.body.getD 1 0) && (h.getD 16 0).toNat = f.src
  let x := s.portOf 1
  match x.fwdReqs.find? hit with
  | some h => s.setPort 1 { x with fwdReqs := x.fwdReqs.erase h }
  | none => s

/-- A frame from downstream (R419). -/
def State.fromDown (s : State) (f : Frame) : State :=
  if f.type = 1 && f.kind = kUlPartial then s.consumeTagged 1 f.body
  else if f.type = 6 && pbits f.body 0 8 = 0 then s.ptpUp f.hdr (f.body.drop 8)
  else
    let s := if f.type = 3 then s.answered1 f else s
    let car := if f.type = 1 then some (tagFromBytes (f.body.take 16)).carrier.toNat else none
    s.sendUp car f.hdr f.body

/-- A frame is consumed by the device. EVENT and MGMT_RSP frames, and BULK frames of no open transfer, end here. -/
def State.consume (s : State) (p : Nat) (f : Frame) : State :=
  match f.type with
  | 0x01 => s.consumeTagged p f.body
  | 0x02 => s.mgmtReq f.body
  | 0x06 =>
    if pbits f.body 0 8 = 1 then { s with time := { s.time with announced := some (pbits f.body 64 64) } }
    else s.ptpTake p true 0 (f.body.drop 8)
  | _ => s

/-- A frame from upstream (R419). -/
def State.fromUp (s : State) (p : Nat) (f : Frame) : State :=
  let s := if f.bcast || decide (s.devIdx < f.dest) then s.forwardDown f else s
  if f.bcast || f.dest = s.devIdx then s.consume p f else s

/-! ## LINKCTL frames (R401, R404) -/

/-- One word of a LINKCTL frame. -/
def State.takeWord (s : State) (p : Nat) (w : BitVec 64) : State :=
  if !wordOk w then s.protErr p
  else
    match fld w 0 8 with
    | 0x55 => s.takeCredit p w
    | 0x66 => if s.portUp p then s.takeAck p w else s
    | 0x78 => s.takeLreset p
    | _ => s.protErr p

/-- 1 to 16 link control words; SEQ zero, no credit used. -/
def State.linkctlIn (s : State) (p : Nat) (f : Frame) : State :=
  let n := f.body.length
  let ok := fld f.hdr 20 4 = 0 && fld f.hdr 38 2 = 0 && fld f.hdr 56 8 = 0 && fld f.hdr 24 14 = n && f.vc = 0 && f.seq = 0 &&
    n % 8 = 0 && decide (8 ≤ n ∧ n ≤ 128)
  if !ok then s.protErr p
  else (List.range (n / 8)).foldl (fun s i => s.takeWord p (BitVec.ofNat 64 (leNat (slice f.body (8 * i) 8)))) s

/-! ## A frame arrives (R402-R406) -/

/-- A received frame. Nothing is learnt from one whose CRC fails; a port that is not UP takes LINKCTL frames alone. -/
def State.frameIn (s : State) (p : Nat) (f : Frame) : State :=
  let st := (s.portOf p).state
  if st = .down || st = .aligning then s
  else if !f.crcGood then (s.bump (cPort p 0)).signal 68
  else if f.type = 0x0F && 2 ≤ p then s.linkctlIn p f
  else if st ≠ .up then s
  else
    match s.seqIn p f with
    | (false, s) => s
    | (true, s) =>
      let s := if !(f.formOk && s.dirOk p f) then s.protErr p
        else if p = 1 then s.fromDown f else s.fromUp p f
      if f.vc = 2 && s.portUp p then s.freeVc2 p (frameUnits f.body.length) else s

/-- A Cypel frame is presented at a port, on an Ethernet port in the frame that carries it; it is taken once it has come in (R390). -/
def State.frameRow (s : State) (p : Nat) (f : Frame) : State :=
  match s.portIn p (if p ≤ 1 then .frame p f.hdr f.body else .ether p (s.etherOf p f.hdr f.body)) with
  | some t => if nearLoop (s.portLoop p) && !f.crcGood then s else t.frameIn p f
  | none => s

/-- TAGGED_FRAME (R418). -/
def execTaggedFrame (p : LPort) (f : Frame) : State → Host.Outcome State Fault Refusal := act fun s => s.frameRow p.val f
/-- MGMT_READ, MGMT_WRITE, MGMT_UPDATE (R422, R569). -/
def execMgmtRead (p : LPort) (f : Frame) : State → Host.Outcome State Fault Refusal := act fun s => s.frameRow p.val f
def execMgmtWrite (p : LPort) (f : Frame) : State → Host.Outcome State Fault Refusal := act fun s => s.frameRow p.val f
def execMgmtUpdate (p : LPort) (f : Frame) : State → Host.Outcome State Fault Refusal := act fun s => s.frameRow p.val f
/-- MGMT_RSP and EVENT_FRAME (R419). -/
def execMgmtRsp (p : LPort) (f : Frame) : State → Host.Outcome State Fault Refusal := act fun s => s.frameRow p.val f
def execEventFrame (p : LPort) (f : Frame) : State → Host.Outcome State Fault Refusal := act fun s => s.frameRow p.val f
/-- BULK (R424). -/
def execBulk (p : LPort) (f : Frame) : State → Host.Outcome State Fault Refusal := act fun s => s.frameRow p.val f
/-- LINKCTL (R404). -/
def execLinkctl (p : LPort) (f : Frame) : State → Host.Outcome State Fault Refusal := act fun s => s.frameRow p.val f
/-- TSYNC_ANNOUNCE (R448, R449). -/
def execTsyncAnnounce (p : LPort) (f : Frame) : State → Host.Outcome State Fault Refusal := act fun s => s.frameRow p.val f

/-! ## Ethernet (R427, R428) -/

/-- The Cypel frame in an Ethernet payload, by its header's LENGTH; a payload too short for it fails the CRC. -/
def cypelOf (b : Bytes) : Frame :=
  let n := pbits b 24 14
  ⟨BitVec.ofNat 64 (leNat (b.take 8)), slice b 8 n, if 12 + n ≤ b.length then BitVec.ofNat 32 (leNat (slice b (8 + n) 4))
    else ~~~ crc32 (leBytes 8 (leNat (b.take 8)) ++ slice b 8 n)⟩

/-- The 802.1Q tag has the configured VID, or is absent where LANE_ETHCFG does not require one (R428, R432). -/
def State.vlanOk (s : State) (g : Nat) (v : Option (BitVec 16)) : Bool :=
  match v with
  | none => !(s.reg (rLaneEthcfg g)).getLsbD 1
  | some t => fld t 0 12 = fld (s.reg64 rLaneMac) 48 12

/-- A received Ethernet frame. -/
def State.etherIn (s : State) (p : LPort) (e : EthFrame) : State :=
  if p.val < 2 || !s.ethEnabled (p.val - 2) || !(s.portOf p.val).pcs then s
  else if !e.fcsGood || e.octets < 64 || 9216 < e.octets then s.bump (cPort p.val 7)
  else if e.dst = BitVec.ofNat 48 (fld (s.reg64 rLaneMac) 0 48) &&
      e.etype = BitVec.ofNat 16 (fld (s.reg (rLaneEthcfg ((p.val - 2) / 8))) 16 16) && s.vlanOk ((p.val - 2) / 8) e.vlan then
    s.frameIn p.val (cypelOf e.payload)
  else if e.etype = 0x88F7 && (e.dst = 0x011B19000000 || e.dst = 0x0180C200000E) && s.vlanOk ((p.val - 2) / 8) e.vlan then
    s.annexE p.val e.dst e.payload
  else s.bump (cPort p.val 7)

/-- ETHERNET_FRAME: it is taken once it has come in (R390). -/
def execEthernetFrame (p : LPort) (e : EthFrame) : State → Host.Outcome State Fault Refusal :=
  act fun s =>
    match s.portIn p.val (if nearLoop (s.portLoop p.val) && e.etype = 0x88F7 then .ptp p.val e.payload else .ether p.val e) with
    | some s => s.etherIn p e
    | none => s

end Sys2Proof.Machine
end

