-- ==== Sys2Proof/Machine/SeqIo.lean ====
section
/-! DEFINITION. The sequencers' memory accesses and issuing instructions, squashes, stall ends, and the issue queues
(R300-R303, R307-R309, R312-R317, R326, R329, R332-R340). -/

namespace Sys2Proof.Machine
open Sys2Proof

/-! ## Loads and stores (R329) -/

/-- The address of a load or a store. -/
def SeqSt.addr (q : SeqSt) (ga : GReg) (imm : Imm16) : Nat :=
  ((q.reg ga + imm.signExtend 64).truncate 40 : BitVec 40).toNat

/-- A sequencer's read of `n` bytes at `a`: its bytes, or the cause of the fault. Of its own memories each half of the ASQ pair reads its
own copy (R318, R319). -/
def State.seqRead (s : State) (k : Seq) (a n : Nat) : (Nat ⊕ Bytes) × State :=
  match s.busRead (.seq k) a n with
  | (.error, s) => (.inl 3, s)
  | (.ok b, s) =>
    let (s, bad2) := s.secondHalf k.val a n
    if bad2 then (.inl (poisonCause k.val a n false), s.poisonRead a) else (.inr b, s)
  | (.poisoned _, s) =>
    let (s, bad2) := s.secondHalf k.val a n
    (.inl (poisonCause k.val a n bad2), s)

/-- A load of `n` bytes, zero-extended. -/
def State.seqLoad (s : State) (k : Seq) (gd ga : GReg) (imm : Imm16) (n : Nat) : State :=
  s.seqIssue k.val true fun q s =>
    let a := q.addr ga imm
    if a % n ≠ 0 then s.seqFault k.val 2
    else
      match s.seqRead k a n with
      | (.inr b, s) => (s.setSeq k.val ((s.seqOf k.val).setG gd (BitVec.ofNat 64 (leNat b)))).seqNext k.val
      | (.inl c, s) => s.seqFault k.val c

/-- A store of the low `n` bytes. A store to its own SEQk_CTRL may stop or restart the sequencer, which then does not go on. -/
def State.seqStore (s : State) (k : Seq) (gd ga : GReg) (imm : Imm16) (n : Nat) : State :=
  s.seqIssue k.val true fun q s =>
    let a := q.addr ga imm
    if a % n ≠ 0 then s.seqFault k.val 2
    else
      let v := q.reg gd
      let s := s.busWrite (.seq k) a (leBytes n v.toNat)
      let failed := decide (s.resp = .error)
      let s : State := { s with resp := .none }
      if failed then s.seqFault k.val 3
      else if a = regBase + 0x18100 + 0x40 * k.val && v.getLsbD 1 || (s.seqOf k.val).state ≠ .running then s
      else s.seqNext k.val

def execSeqLd (k : Seq) (gd ga : GReg) (imm : Imm16) : State → Host.Outcome State Fault Refusal :=
  act fun s => s.seqLoad k gd ga imm 8
def execSeqLw (k : Seq) (gd ga : GReg) (imm : Imm16) : State → Host.Outcome State Fault Refusal :=
  act fun s => s.seqLoad k gd ga imm 4
def execSeqLh (k : Seq) (gd ga : GReg) (imm : Imm16) : State → Host.Outcome State Fault Refusal :=
  act fun s => s.seqLoad k gd ga imm 2
def execSeqLb (k : Seq) (gd ga : GReg) (imm : Imm16) : State → Host.Outcome State Fault Refusal :=
  act fun s => s.seqLoad k gd ga imm 1
def execSeqSd (k : Seq) (gd ga : GReg) (imm : Imm16) : State → Host.Outcome State Fault Refusal :=
  act fun s => s.seqStore k gd ga imm 8
def execSeqSw (k : Seq) (gd ga : GReg) (imm : Imm16) : State → Host.Outcome State Fault Refusal :=
  act fun s => s.seqStore k gd ga imm 4
def execSeqSh (k : Seq) (gd ga : GReg) (imm : Imm16) : State → Host.Outcome State Fault Refusal :=
  act fun s => s.seqStore k gd ga imm 2
def execSeqSb (k : Seq) (gd ga : GReg) (imm : Imm16) : State → Host.Outcome State Fault Refusal :=
  act fun s => s.seqStore k gd ga imm 1

/-! ## Lead, credit, issue (R301, R302, R312) -/

/-- Items of an issuer on a port whose credit has not returned. -/
def State.creditsOut (s : State) (issuer : Nat) (p : Port) : Nat :=
  (s.net.filter fun n => n.issuer = issuer && n.port = p).length

/-- Every item of the list has its credit, out of `limit` for each port; a fenced port asks for none. -/
def State.haveCredit (s : State) (issuer limit : Nat) (xs : List NetItem) : Bool :=
  xs.all fun n => s.portFenced n.port n.tile ||
    decide (s.creditsOut issuer n.port + (xs.filter fun m => m.port = n.port).length ≤ limit)

/-- Every item of the list lies within LEAD; a fenced port does not ask. -/
def State.withinLead (s : State) (bound : Nat) (xs : List NetItem) : Bool :=
  xs.all fun n => s.portFenced n.port n.tile || decide (lead n.item.tag.air s.now ≤ bound)

/-- The sequencer's items can all be issued now. -/
def State.seqMayIssue (s : State) (k : Nat) (xs : List NetItem) : Bool :=
  s.haveCredit k 64 xs && s.withinLead (s.seqOf k).leadMax.toNat xs

/-- One item leaves the sequencer: to its stage, or nowhere when the island is fenced. -/
def State.seqPut (s : State) (n : NetItem) : State :=
  if s.portFenced n.port n.tile then s.bump (cSeq n.issuer 3)
  else
    let s : State := { s with net := s.net ++ [n] }
    if lead n.item.tag.air s.now ≤ 0 then s.bump (cSeq n.issuer 2) else s

/-- The later of two air times (R42). -/
def laterAir (a b : Air) : Air := if airDiff b a > 0 then b else a

/-- Records a speculative emit of own stream `j` (R312); entries rise by stream, ports within them. -/
def recordSpec (j p : Nat) (a : Air) : List SpecEntry → List SpecEntry
  | [] => [⟨j, [p], a⟩]
  | e :: es =>
    if j < e.stream then ⟨j, [p], a⟩ :: e :: es
    else if j = e.stream then ⟨j, insSorted p e.ports, laterAir e.last a⟩ :: es
    else e :: recordSpec j p a es

/-- Issues the items of an instruction and goes on. -/
def State.seqSendNow (s : State) (k : Nat) (xs : List NetItem) : State :=
  let s := xs.foldl State.seqPut s
  let q := s.seqOf k
  let spec := if q.opened then
      xs.foldl (fun l n => recordSpec (n.item.tag.stream.toNat - streamBase k) (portNum n.port) n.item.tag.air l) q.spec
    else q.spec
  (s.setSeq k { q with spec := spec }).seqNext k

/-- Issues the items, or stalls until they can be issued. -/
def State.seqSend (s : State) (k : Nat) (xs : List NetItem) : State :=
  if s.seqMayIssue k xs then s.seqSendNow k xs
  else s.setSeq k { s.seqOf k with state := .stalled, stall := .emit xs }

/-- The item of a sequencer on a port. -/
def seqNet (k : Nat) (q : SeqSt) (p : Port) (t : Tag) (body : Bytes) : NetItem :=
  ⟨k, p, portTile p k, ⟨t, body, 0⟩, q.pc.truncate 19⟩

/-- The stream of an operand register lies in the sequencer's own range (R299). -/
def ownStream (k : Nat) (v : BitVec 64) : Bool := streamBase k ≤ fld v 48 8 && fld v 48 8 ≤ streamBase k + 31

/-- The epoch of the stream that an operand register names. -/
def SeqSt.epochFor (q : SeqSt) (k : Nat) (v : BitVec 64) : BitVec 8 := q.epochOf (fld v 48 8 - streamBase k)

/-! ## EMIT (R300, R332, R339, R340) -/

/-- The access lies in the sequencer's own data memory. -/
def inSeqData (k a n : Nat) : Bool := seqData k ≤ a && a + n ≤ seqData k + 0x80000

/-- Reads an item image: its first 8 bytes and the payload, or the cause of the fault. -/
def State.readImage (s : State) (k : Seq) (kind : BitVec 6) (a : Nat) : (Nat ⊕ (BitVec 64 × Bytes)) × State :=
  if a % 8 ≠ 0 then (.inl 2, s)
  else if !inSeqData k.val a 8 then (.inl 3, s)
  else
    match s.seqRead k a 8 with
    | (.inl c, s) => (.inl c, s)
    | (.inr h, s) =>
      let w := BitVec.ofNat 64 (leNat h)
      let n := imageBytes kind (fld w 40 16)
      if 4096 < fld w 40 16 then (.inr (w, []), s)
      else if n = 0 then (.inr (w, []), s)
      else if !inSeqData k.val (a + 8) n then (.inl 3, s)
      else
        match s.seqRead k (a + 8) n with
        | (.inr b, s) => (.inr (w, b), s)
        | (.inl c, s) => (.inl c, s)

/-- EMIT up to its issue: `f` issues the item. -/
def State.seqEmitWith (s : State) (k : Seq) (gs gt : GReg) (port flags : BitVec 8) (f : SeqSt → NetItem → State → State) : State :=
  s.seqIssue k.val (!flags.getLsbD 7) fun q s =>
    let kind := flags.truncate 6
    match Machine.portOf port.toNat with
    | none => s.seqFault k.val 5
    | some p =>
      match seqKinds (k.val = 4) p with
      | none => s.seqFault k.val 5
      | some ks =>
        if kind ∉ ks then s.seqFault k.val 6
        else
          match s.readImage k kind (fld (q.reg gs) 0 40) with
          | (.inl c, s) => s.seqFault k.val c
          | (.inr (w, body), s) =>
            let v := q.reg gt
            if !ownStream k.val v then s.seqFault k.val 7
            else if fld w 33 7 ≠ 0 || 4096 < fld w 40 16 then s.seqFault k.val 8
            else f q (seqNet k.val q p (emitTag k.val kind w v (q.epochFor k.val v)) body) s

/-- EMIT: stalls for lead and credit. -/
def execSeqEmit (k : Seq) (gs gt : GReg) (port flags : BitVec 8) : State → Host.Outcome State Fault Refusal :=
  act fun s => s.seqEmitWith k gs gt port (setBit flags 6 false) fun _ n s => s.seqSend k.val [n]

/-- EMIT with TRY: issues at once, or sets C. -/
def execSeqEmitTry (k : Seq) (gs gt : GReg) (port flags : BitVec 8) : State → Host.Outcome State Fault Refusal :=
  act fun s => s.seqEmitWith k gs gt port (setBit flags 6 true) fun q n s =>
    let may := s.seqMayIssue k.val [n]
    let s := s.setSeq k.val { q with f := setBit q.f 2 (!may) }
    if may then s.seqSendNow k.val [n] else s.seqNext k.val

/-! ## BEAMSEL, COMMIT, PREP, HOP, PWR (R333-R335) -/

/-- Issues the item an instruction forms, its stream being one of the sequencer's own. -/
def State.seqForm (s : State) (k : Nat) (q : SeqSt) (p : Port) (v : BitVec 64) (t : Tag) (body : Bytes) : State :=
  if !ownStream k v then s.seqFault k 7 else s.seqSend k [seqNet k q p t body]

/-- The beam list of a BEAMSEL, or the cause of the fault. -/
def State.readList (s : State) (k : Seq) (a n : Nat) : (Nat ⊕ Bytes) × State :=
  if n = 0 then (.inr [], s) else s.seqRead k a n

def execSeqBeamsel (k : Seq) (gd ga gb : GReg) (func : BitVec 11) : State → Host.Outcome State Fault Refusal :=
  act fun s => s.seqIssue k.val (fld func 3 8 = 0) fun q s =>
    let mu := fld func 0 3
    let sym := (q.reg gb).toNat
    let r : BitVec 128 := oneSymbol (q.reg (gd + 1) ++ q.reg gd) sym
    let v := q.reg ga
    let c := s.islCarAt (dirOf (fld r 30 1)) (fld r 12 2) (fullTick (v.truncate 40) s.now)
    let n := listBytes r c.rbglog
    if k.val ≠ 4 then s.seqFault k.val 5
    else if 28 < gd.toNat then s.seqFault k.val 0xB
    else if 13 < sym || 4 < mu then s.seqFault k.val 8
    else if !recordOk r c.nrb c.rbglog || 4072 < n then s.seqFault k.val 8
    else
      match s.readList k (fld (q.reg (gd + 3)) 0 40) n with
      | (.inl x, s) => s.seqFault k.val x
      | (.inr l, s) =>
        let t := plainTag k.val kBeamSel v (q.epochFor k.val v) (24 + n)
        let t := sealTag { t with carrier := BitVec.ofNat 2 (fld r 12 2), symbol := BitVec.ofNat 4 sym, mu := BitVec.ofNat 3 mu }
        s.seqForm k.val q .bf v t (leBytes 8 0 ++ leBytes 16 r.toNat ++ l)

def execSeqCommit (k : Seq) (gd ga gb : GReg) (func : BitVec 11) : State → Host.Outcome State Fault Refusal :=
  act fun s => s.seqIssue k.val (gd = 0 && gb = 0 && fld func 8 3 = 0) fun q s =>
    let v := q.reg ga
    if k.val ≠ 4 then s.seqFault k.val 5
    else if fld func 0 2 = 0 || 4 < fld func 3 3 then s.seqFault k.val 8
    else
      let t := plainTag k.val kBeamCommit v (q.epochFor k.val v) 8
      let t := sealTag { t with bank := BitVec.ofNat 1 (fld func 2 1), mu := BitVec.ofNat 3 (fld func 3 3)
                                carrier := BitVec.ofNat 2 (fld func 6 2) }
      s.seqForm k.val q .bf v t (commitPay (fld func 0 2))

def execSeqPrep (k : Seq) (gd ga gb : GReg) (func : BitVec 11) : State → Host.Outcome State Fault Refusal :=
  act fun s => s.seqIssue k.val (gd = 0 && fld func 2 9 = 0) fun q s =>
    let v := q.reg ga
    if k.val = 4 then s.seqFault k.val 5
    else
      s.seqForm k.val q .lo v (plainTag k.val kLoCtl v (q.epochFor k.val v) 16)
        (prepPay (func.getLsbD 0) (func.getLsbD 1) (fld (q.reg gb) 0 10))

def execSeqHop (k : Seq) (gd ga gb : GReg) (func : BitVec 11) : State → Host.Outcome State Fault Refusal :=
  act fun s => s.seqIssue k.val (gd = 0 && gb = 0 && fld func 3 8 = 0) fun q s =>
    let v := q.reg ga
    if k.val = 4 then s.seqFault k.val 5
    else if fld func 1 2 = 0 then s.seqFault k.val 8
    else
      s.seqForm k.val q .lo v (plainTag k.val kLoCtl v (q.epochFor k.val v) 16) (hopPay (func.getLsbD 0) (fld func 1 2))

def execSeqPwr (k : Seq) (gd ga gb : GReg) (func : BitVec 11) : State → Host.Outcome State Fault Refusal :=
  act fun s => s.seqIssue k.val (gd = 0 && fld func 4 7 = 0) fun q s =>
    let v := q.reg ga
    if 3 < fld func 0 3 then s.seqFault k.val 8
    else
      s.seqForm k.val q .pwr v (plainTag k.val kPwrCtl v (q.epochFor k.val v) 16)
        (pwrPay (fld func 0 3) (func.getLsbD 3) (if k.val = 4 then 0xF else 2 ^ k.val) (q.reg gb))

/-! ## SQUASH (R313-R316, R336) -/

/-- The streams a squash from `t` squashes. -/
def SeqSt.squashed (q : SeqSt) (t : Air) : List SpecEntry := q.spec.filter fun e => decide (airDiff e.last t ≥ 0)

/-- The SQUASH items, in ascending port number. -/
def SeqSt.squashItems (q : SeqSt) (k : Nat) (t : Air) : List NetItem :=
  (List.range 12).flatMap fun p =>
    match Machine.portOf p with
    | none => []
    | some port => ((q.squashed t).filter fun e => p ∈ e.ports).map fun e =>
        seqNet k q port (sealTag { air := t, epoch := q.epochOf e.stream + 1, stream := BitVec.ofNat 8 (streamBase k + e.stream)
                                   kind := kSquash, source := BitVec.ofNat 4 k }) []

/-- A squash with all its items issued. -/
def State.squashNow (s : State) (k : Nat) (t : Air) : State :=
  let q := s.seqOf k
  let s := (q.squashItems k t).foldl State.seqPut s
  let q := (q.squashed t).foldl (fun (q : SeqSt) e => q.setEpoch e.stream (q.epochOf e.stream + 1)) q
  let q := { q with g := q.savedG ++ keptOf q.g, spec := [], sqcnt := q.sqcnt + 1, squashes := (s.clock :: q.squashes).take 96 }
  let q : SeqSt := q.setZncv q.savedF
  let s := s.bump (cSeq k 0)
  if q.sqcnt = 3 then
    let s := s.setSeq k { q with opened := false, ns := true, f := setBit q.f 6 true }
    ((s.bump (cSeq k 1)).signal (21 + k)).seqGoto k q.resume.toNat
  else (s.setSeq k q).seqGoto k q.resume.toNat

/-- The squash would be the 97th within 2^25 tk. -/
def State.squashBound (s : State) (q : SeqSt) : Bool :=
  match q.squashes[95]? with
  | some x => decide (s.clock < x + 2 ^ 25)
  | none => false

/-- A squash past its bound: done, or stalled for lead and credit. -/
def State.squashTry (s : State) (k : Nat) (t : Air) : State :=
  let q := s.seqOf k
  if s.seqMayIssue k (q.squashItems k t) then s.squashNow k t
  else s.setSeq k { q with state := .stalled, stall := .squash t false }

def execSeqSquash (k : Seq) (gd ga gb : GReg) (func : BitVec 11) : State → Host.Outcome State Fault Refusal :=
  act fun s => s.seqIssue k.val (gd = 0 && gb = 0 && func = 0) fun q s =>
    let t : Air := (q.reg ga).truncate 40
    if !q.opened then s.seqFault k.val 9
    else if s.squashBound q then
      (s.setSeq k.val { q with state := .stalled, stall := .squash t true }).bump (cSeq k.val 5)
    else s.squashTry k.val t

/-- SQUASH_STALL_END (R316). -/
def execSeqSquashStallEnd (k : Seq) : State → Host.Outcome State Fault Refusal :=
  act fun s =>
    let q := s.seqOf k.val
    if !s.seqIslandOn k.val || q.state ≠ .stalled then s
    else if q.refused ≠ [] then s.seqRefusal k.val
    else
      match q.stall with
      | .squash t true => if s.squashBound q then s else s.squashTry k.val t
      | _ => s

/-! ## The end of a stall (R301, R305, R326, R331) -/

/-- SEQ_STALL_END: what the stalled instruction waited for holds, and it completes. -/
def execSeqStallEnd (k : Seq) : State → Host.Outcome State Fault Refusal :=
  act fun s =>
    let q := s.seqOf k.val
    if !s.seqIslandOn k.val || q.state ≠ .stalled then s
    else if q.refused ≠ [] then s.seqRefusal k.val
    else
      match q.stall with
      | .time a bound => if lead a s.now ≤ bound then s.seqNext k.val else s
      | .emit xs => if s.seqMayIssue k.val xs then s.seqSendNow k.val xs else s
      | .squash t false => s.squashTry k.val t
      | .recv gd =>
        match q.queue with
        | x :: rest => (s.setSeq k.val (q.take (BitVec.ofNat 5 gd) x rest)).seqNext k.val
        | [] => s
      | _ => s

/-! ## The issue queues (R307, R308) -/

/-- The tiles that an item of an issue queue goes to: those its payload names, else the push's. -/
def queueTiles (p : Port) (kind : BitVec 6) (b : Bytes) (tile : Nat) : List Nat :=
  if !tilePort p then [0]
  else if kind = kSyncReset then bitsSet (pbits b 8 4) 4
  else if kind = kLoCtl then [pbits b 6 2]
  else if kind = kCoef && pbits b 0 4 ≤ 3 then [tileOfPath (pbits b 4 6)]
  else [tile]

/-- Checks the tag of a push: the cause of its discard, 0 for none. -/
def queueCheck (src : Nat) (port : Option Port) (tile : Nat) (t : Tag) : Nat :=
  match port with
  | none => 2
  | some p =>
    if !tilePort p && tile ≠ 0 then 2
    else if src ∉ kindSources t.kind || t.kind ∉ queueKinds p then 3
    else if !streamOk src t.stream.toNat then 4
    else if t.rsvd ≠ 0 || 4096 < t.length.toNat then 5
    else 0

/-- The push at the head leaves the queue. -/
def State.queuePop (s : State) (host : Bool) : State :=
  let q := s.iqOf host
  s.setIq host { q with pushes := q.pushes.drop 1, done := q.done + 1 }

/-- The push at the head is discarded. -/
def State.queueDiscard (s : State) (host : Bool) (c : Nat) : State := (s.queuePop host).iqError host c

/-- Reads bytes of an image; none when the answer is an error or poisoned. -/
def State.queueRead (s : State) (w : Initiator) (a n : Nat) : Option Bytes × State :=
  if n = 0 then (some [], s)
  else
    match s.busRead w a n with
    | (.ok b, s) => (some b, s)
    | (_, s) => (none, s)

/-- The copies of an item go to their stages; a fenced port takes nothing. -/
def State.queueSend (s : State) (host : Bool) (xs : List NetItem) : State :=
  let s := s.queuePop host
  { s with net := s.net ++ xs.filter fun n => !s.portFenced n.port n.tile }

/-- Issues or discards the push `v` at the head of a queue, or waits for credit. -/
def State.queueIssue (s : State) (host : Bool) (v : BitVec 64) : State :=
  let src := if host then 12 else 13
  let w : Initiator := if host then .host else .mgmt
  let a := fld v 0 40
  match s.queueRead w a 16 with
  | (none, s) => s.queueDiscard host 1
  | (some h, s) =>
    let t := tagFromBytes h
    let port := Machine.portOf (fld v 40 4)
    match queueCheck src port (fld v 44 2) t, port with
    | 0, some p =>
      match s.queueRead w (a + 16) (imageBytes t.kind t.length.toNat) with
      | (none, s) => s.queueDiscard host 1
      | (some b, s) =>
        let t := sealTag { t with source := BitVec.ofNat 4 src, damaged := false, warmup := false, late := false }
        let xs := (queueTiles p t.kind b (fld v 44 2)).map fun i => (⟨src, p, i, ⟨t, b, 0⟩, 0⟩ : NetItem)
        if xs.isEmpty then s.queueDiscard host 5
        else if !s.haveCredit src 16 xs then s
        else s.queueSend host xs
    | c, _ => s.queueDiscard host c

/-- ISSUE_QUEUE_ISSUE. -/
def execIssueQueueIssue (q : IssueQ) : State → Host.Outcome State Fault Refusal :=
  act fun s =>
    let host := decide (q = .hiq)
    match (s.iqOf host).pushes with
    | [] => s
    | v :: _ => if s.seqIslandOn 0 then s.queueIssue host v else s

end Sys2Proof.Machine
end

