-- ==== Sys2Proof/Machine/VcMem.lean ====
section
/-! DEFINITION. Loads and stores of the vector cores: local and remote, with their responses (R347, R348, R366-R369). -/

namespace Sys2Proof.Machine
open Sys2Proof

/-! ## Addresses and alignment (R366, R367) -/

/-- The address of a memory word with its displacement in units of `size`, modulo 2^40. -/
def VcSt.addr (x : VcSt) (ax : SField) (disp : Int) (size : Nat) : Nat :=
  (x.areg ax.toNat + BitVec.ofInt 40 (disp * size)).toNat

/-- The access lies wholly within the core's own data memory. -/
def vcLocal (n a len : Nat) : Bool := vcData n ≤ a && a + len ≤ vcData n + 0x200000

/-- The alignment that an access needs: a vector access 4 bytes in its own memory and 64 elsewhere, a scalar access its size. -/
def vcAlign (n a len : Nat) : Nat := if len = 64 then (if vcLocal n a len then 4 else 64) else len

/-- The post-modification: a[x] += o[y]. -/
def VcSt.postMod (x : VcSt) (ax oy : Nat) : VcSt := x.setA ax (x.areg ax + (x.oreg oy).signExtend 40)

/-- The access is done: post-modification, and the core moves on. -/
def State.vcAccessDone (s : State) (n ax oy : Nat) : State := (s.setVc n ((s.vcOf n).postMod ax oy)).vcDone n

/-! ## Loads (R366, R368) -/

/-- Writes what a load delivers. -/
def VcSt.writeLoad (x : VcSt) (d : VDest) (b : Bytes) : VcSt :=
  match d with
  | .vec r => x.setV r (BitVec.ofNat 512 (leNat b))
  | .scalar r size sx => x.setS r (if sx then BitVec.ofInt 64 (sfield (leNat b) (8 * size)) else BitVec.ofNat 64 (leNat b))

/-- The answer of a load reaches the core. -/
def vcLoaded (n : Nat) (d : VDest) (ax oy : Nat) (r : Access × State) : State :=
  match r with
  | (.ok b, s) => (s.setVc n ((s.vcOf n).writeLoad d b)).vcAccessDone n ax oy
  | (.error, s) => s.vcFault n 3
  | (.poisoned _, s) => s.vcFault n 4

/-- A load issues: from the core's own data memory at once, elsewhere it stalls until the response. -/
def State.vcLoad (s : State) (n : Vc) (d : VDest) (a len : Nat) (ax oy : SField) : State :=
  if a % vcAlign n.val a len ≠ 0 then s.vcFault n.val 2
  else if vcLocal n.val a len then vcLoaded n.val d ax.toNat oy.toNat (s.busRead (.vc n) a len)
  else s.setVc n.val { s.vcOf n.val with state := .stalled, stall := .load d a len ax.toNat oy.toNat }

/-- VLD. -/
def execSVld (n : Vc) (t : VField) (ax oy : SField) (disp : BitVec 12) : State → Host.Outcome State Fault Refusal :=
  act fun s => s.sIssue n.val true (.v t.toNat :: postDest ax oy) fun s =>
    s.vcLoad n (.vec t.toNat) ((s.vcOf n.val).addr ax disp.toInt 64) 64 ax oy

/-- Size of a scalar access. -/
def sSize (disp : BitVec 12) : Nat := 2 ^ fld disp 10 2

/-- SLD: t[4:1] the register, t[0] SX. -/
def execSLd (n : Vc) (t : VField) (ax oy : SField) (disp : BitVec 12) : State → Host.Outcome State Fault Refusal :=
  act fun s => s.sIssue n.val true (sDest (BitVec.ofNat 4 (fld t 1 4)) ++ postDest ax oy) fun s =>
    s.vcLoad n (.scalar (fld t 1 4) (sSize disp) (t.getLsbD 0)) ((s.vcOf n.val).addr ax (sfld disp 0 10) (sSize disp)) (sSize disp) ax oy

/-- REMOTE_LOAD_RESPONSE (R363, R368). A load is answered after the earlier stores of the core to the same destination
(R22). -/
def execRemoteLoadResponse (n : Vc) : State → Host.Outcome State Fault Refusal :=
  act fun s =>
    let x := s.vcOf n.val
    match x.stall with
    | .load d a len ax oy =>
      let same := fun (y : VStore) => accessRegion y.addr y.data.length = accessRegion a len
      if x.state ≠ .stalled || !s.vcOn n.val || x.stores.any same then s
      else { vcLoaded n.val d ax oy (s.busRead (.vc n) a len) with resp := .none }
    | _ => s

/-! ## Stores (R363, R368, R369) -/

/-- Sets or clears C by the answer of a TRY store. -/
def VcSt.tryFlag (x : VcSt) (failed : Bool) : VcSt := { x with f := setBit x.f 2 failed }

/-- The bytes that a local store of word 0 replaces are kept with it. -/
def VcSt.keeping (x : VcSt) (old : List (Nat × Byte)) : VcSt :=
  { x with word0 := x.word0.map fun w => { w with undo := if x.pc.toNat % 8 = 0 then old else w.undo } }

/-- A store to the core's own data memory: performed at once. One with TRY waits for the stores before it, as FENCE does. -/
def State.vcStoreLocal (s : State) (n : Nat) (y : VStore) (ax oy : Nat) : State :=
  let old := (List.range y.data.length).map fun i => (y.addr + i, s.byteAt (y.addr + i))
  let done := s.memWrite y.addr y.data
  let s := match done with
    | some s => s.setVc n ((s.vcOf n).keeping old)
    | none => s
  if y.try_ then
    let x := (s.vcOf n).tryFlag done.isNone
    if x.stores.isEmpty then (s.setVc n x).vcAccessDone n ax oy
    else s.setVc n { x with state := .stalled, stall := .tryStore ax oy }
  else if done.isNone then s.vcFault n 3
  else s.vcAccessDone n ax oy

/-- A remote store leaves the core; one with TRY then waits for its response. -/
def State.vcStoreRemote (s : State) (n : Nat) (y : VStore) (ax oy : Nat) : State :=
  let x := s.vcOf n
  let s := s.setVc n { x with stores := x.stores ++ [y] }
  if y.try_ then s.setVc n { s.vcOf n with state := .stalled, stall := .tryStore ax oy } else s.vcAccessDone n ax oy

/-- An aligned store: it stalls while 16 remote stores are outstanding (R363). -/
def State.vcStoreGo (s : State) (n : Nat) (y : VStore) (ax oy : Nat) : State :=
  let x := s.vcOf n
  if 16 ≤ x.stores.length then s.setVc n { x with state := .stalled, stall := .store y ax oy }
  else if vcLocal n y.addr y.data.length then s.vcStoreLocal n y ax oy
  else s.vcStoreRemote n y ax oy

def State.vcStore (s : State) (n : Nat) (y : VStore) (ax oy : SField) : State :=
  if y.addr % vcAlign n y.addr y.data.length ≠ 0 then s.vcFault n 2 else s.vcStoreGo n y ax.toNat oy.toNat

/-- VST. -/
def execSVst (n : Vc) (t : VField) (ax oy : SField) (disp : BitVec 12) : State → Host.Outcome State Fault Refusal :=
  act fun s => s.sIssue n.val true (postDest ax oy) fun s =>
    let x := s.vcOf n.val
    s.vcStore n.val ⟨x.addr ax disp.toInt 64, leBytes 64 (x.vreg t.toNat).toNat, false, x.pc⟩ ax oy

/-- SST: t[4:1] the register, t[0] TRY. -/
def execSSt (n : Vc) (t : VField) (ax oy : SField) (disp : BitVec 12) : State → Host.Outcome State Fault Refusal :=
  act fun s => s.sIssue n.val true (postDest ax oy) fun s =>
    let x := s.vcOf n.val
    s.vcStore n.val ⟨x.addr ax (sfld disp 0 10) (sSize disp), leBytes (sSize disp) (x.sreg (fld t 1 4)).toNat, t.getLsbD 0, x.pc⟩ ax oy

/-- What waits for the responses goes on: a store stalled while 16 are outstanding, a FENCE, a TRY store. -/
def State.vcResume (s : State) (n : Nat) : State :=
  let x := s.vcOf n
  if x.state ≠ .stalled then s
  else
    match x.stall with
    | .store y ax oy => s.vcStoreGo n y ax oy
    | .fence => if x.stores.isEmpty then s.vcDone n else s
    | .tryStore ax oy => if x.stores.isEmpty then s.vcAccessDone n ax oy else s
    | _ => s

/-- The core still runs: an error response to one of its stores can fault it. -/
def VcSt.active (x : VcSt) : Bool := x.state = .running || x.state = .stalled || x.state = .sleeping

/-- The core waits for the response of its TRY store. -/
def VcSt.tries (x : VcSt) : Bool :=
  match x.stall with
  | .tryStore _ _ => x.state = .stalled
  | _ => false

/-- An error response to a store without TRY: the bundle that issued it is the faulting one. Word 0 of a later bundle stands. -/
def State.vcStoreFault (s : State) (n : Nat) (pc : BitVec 20) : State :=
  let x := s.vcOf n
  let s := if x.pc.toNat / 8 = pc.toNat / 8 then s else s.setVc n { x with word0 := none }
  let s := s.vcFault n 3
  s.setVc n { s.vcOf n with faultpc := BitVec.ofNat 18 (pc.toNat / 8 * 8) }

/-- REMOTE_STORE_RESPONSE (R368, R369): the core's oldest outstanding store is performed and answered. -/
def execRemoteStoreResponse (n : Vc) : State → Host.Outcome State Fault Refusal :=
  act fun s =>
    match (s.vcOf n.val).stores with
    | [] => s
    | y :: ys =>
      if !s.vcOn n.val then s
      else
        let s := s.setVc n.val { s.vcOf n.val with stores := ys }
        let s := s.busWrite (.vc n) y.addr y.data
        let failed := decide (s.resp = .error)
        let s : State := { s with resp := .none }
        if y.try_ then (if (s.vcOf n.val).tries then s.setVc n.val ((s.vcOf n.val).tryFlag failed) else s).vcResume n.val
        else if failed && (s.vcOf n.val).active then s.vcStoreFault n.val y.pc
        else s.vcResume n.val

end Sys2Proof.Machine
end

