-- ==== Sys2Proof/Machine/Dispatch.lean ====
section
/-! DEFINITION. The dispatch of a command to its meaning: one arm per constructor of Instr. -/

namespace Sys2Proof.Machine
open Sys2Proof

/-- The effect of one command on everything but the queue. -/
def exec (i : Instr) (s : State) : Host.Outcome State Fault Refusal :=
  match i with
  | .fdData g body => Sys2Proof.Machine.execFdData g body s
  | .tdData g body => Sys2Proof.Machine.execTdData g body s
  | .sectionItem g body => Sys2Proof.Machine.execSectionItem g body s
  | .ulPartial g body => Sys2Proof.Machine.execUlPartial g body s
  | .beamSelDeclaration g body => Sys2Proof.Machine.execBeamSelDeclaration g body s
  | .soundingWindow g body => Sys2Proof.Machine.execSoundingWindow g body s
  | .beamCommit g body => Sys2Proof.Machine.execBeamCommit g body s
  | .engineCommit => Sys2Proof.Machine.execEngineCommit s
  | .fftCfg g body => Sys2Proof.Machine.execFftCfg g body s
  | .wola g body => Sys2Proof.Machine.execWola g body s
  | .carrierOn t g body => Sys2Proof.Machine.execCarrierOn t g body s
  | .carrierOff t g body => Sys2Proof.Machine.execCarrierOff t g body s
  | .carrierRetune t g body => Sys2Proof.Machine.execCarrierRetune t g body s
  | .fltSwapTxfir t g body => Sys2Proof.Machine.execFltSwapTxfir t g body s
  | .fltSwapRxfir t g body => Sys2Proof.Machine.execFltSwapRxfir t g body s
  | .fltSwapRxiq t g body => Sys2Proof.Machine.execFltSwapRxiq t g body s
  | .cfrCfg t g body => Sys2Proof.Machine.execCfrCfg t g body s
  | .dpdSwapModel t g body => Sys2Proof.Machine.execDpdSwapModel t g body s
  | .dpdSwapCorr t g body => Sys2Proof.Machine.execDpdSwapCorr t g body s
  | .sicCtlOn t g body => Sys2Proof.Machine.execSicCtlOn t g body s
  | .sicCtlOff t g body => Sys2Proof.Machine.execSicCtlOff t g body s
  | .sicCtlSwap t g body => Sys2Proof.Machine.execSicCtlSwap t g body s
  | .sicCtlSnap t g body => Sys2Proof.Machine.execSicCtlSnap t g body s
  | .gainTx t g body => Sys2Proof.Machine.execGainTx t g body s
  | .gainRx t g body => Sys2Proof.Machine.execGainRx t g body s
  | .lnaStep t g body => Sys2Proof.Machine.execLnaStep t g body s
  | .dcFreeze t g body => Sys2Proof.Machine.execDcFreeze t g body s
  | .dcRelease t g body => Sys2Proof.Machine.execDcRelease t g body s
  | .feRxon t g body => Sys2Proof.Machine.execFeRxon t g body s
  | .feRxoff t g body => Sys2Proof.Machine.execFeRxoff t g body s
  | .feLoopback t g body => Sys2Proof.Machine.execFeLoopback t g body s
  | .feLbrel t g body => Sys2Proof.Machine.execFeLbrel t g body s
  | .feRxcal t g body => Sys2Proof.Machine.execFeRxcal t g body s
  | .feTune t g body => Sys2Proof.Machine.execFeTune t g body s
  | .rffeGroup t g body => Sys2Proof.Machine.execRffeGroup t g body s
  | .loPrep t g body => Sys2Proof.Machine.execLoPrep t g body s
  | .loCal t g body => Sys2Proof.Machine.execLoCal t g body s
  | .loSwitch t g body => Sys2Proof.Machine.execLoSwitch t g body s
  | .pwrCtlActive g body => Sys2Proof.Machine.execPwrCtlActive g body s
  | .pwrCtlReed g body => Sys2Proof.Machine.execPwrCtlReed g body s
  | .pwrCtlSedge g body => Sys2Proof.Machine.execPwrCtlSedge g body s
  | .pwrCtlFen g body => Sys2Proof.Machine.execPwrCtlFen g body s
  | .captureStart g body => Sys2Proof.Machine.execCaptureStart g body s
  | .captureStop g body => Sys2Proof.Machine.execCaptureStop g body s
  | .playbackStart g body => Sys2Proof.Machine.execPlaybackStart g body s
  | .playbackStop g body => Sys2Proof.Machine.execPlaybackStop g body s
  | .marker p t g body => Sys2Proof.Machine.execMarker p t g body s
  | .stop p t g body => Sys2Proof.Machine.execStop p t g body s
  | .stopResume p t g body => Sys2Proof.Machine.execStopResume p t g body s
  | .pathtxStop p t g body => Sys2Proof.Machine.execPathtxStop p t g body s
  | .pathrxStop p t g body => Sys2Proof.Machine.execPathrxStop p t g body s
  | .squashItem p t g body => Sys2Proof.Machine.execSquashItem p t g body s
  | .coefPredistorter t g body => Sys2Proof.Machine.execCoefPredistorter t g body s
  | .coefTxCorrector t g body => Sys2Proof.Machine.execCoefTxCorrector t g body s
  | .coefRxCorrector t g body => Sys2Proof.Machine.execCoefRxCorrector t g body s
  | .coefCanceller t g body => Sys2Proof.Machine.execCoefCanceller t g body s
  | .coefFir t g body => Sys2Proof.Machine.execCoefFir t g body s
  | .coefCfrPulse t g body => Sys2Proof.Machine.execCoefCfrPulse t g body s
  | .syncReset t g body => Sys2Proof.Machine.execSyncReset t g body s
  | .itemApply p t => Sys2Proof.Machine.execItemApply p t s
  | .lateItemApply p t => Sys2Proof.Machine.execLateItemApply p t s
  | .stopTimeReached f t => Sys2Proof.Machine.execStopTimeReached f t s
  | .quiescence f t => Sys2Proof.Machine.execQuiescence f t s
  | .pathPowerDown p rx => Sys2Proof.Machine.execPathPowerDown p rx s
  | .missingDataDeadline c airtime => Sys2Proof.Machine.execMissingDataDeadline c airtime s
  | .syncResetT0 t => Sys2Proof.Machine.execSyncResetT0 t s
  | .cancellerOffTailEnd p => Sys2Proof.Machine.execCancellerOffTailEnd p s
  | .fadeEnd f => Sys2Proof.Machine.execFadeEnd f s
  | .recordLineFailure r => Sys2Proof.Machine.execRecordLineFailure r s
  | .recordRebuild r => Sys2Proof.Machine.execRecordRebuild r s
  | .dcServoStep p rail => Sys2Proof.Machine.execDcServoStep p rail s
  | .ulBlockReady b => Sys2Proof.Machine.execUlBlockReady b s
  | .holdExpiry ix => Sys2Proof.Machine.execHoldExpiry ix s
  | .soundingBlocks c winid damaged => Sys2Proof.Machine.execSoundingBlocks c winid damaged s
  | .obsEntryStart n => Sys2Proof.Machine.execObsEntryStart n s
  | .obsSnapshotStart n => Sys2Proof.Machine.execObsSnapshotStart n s
  | .obsSnapshotComplete n clip fb => Sys2Proof.Machine.execObsSnapshotComplete n clip fb s
  | .obsPowerResult n clip fb => Sys2Proof.Machine.execObsPowerResult n clip fb s
  | .sicSnapshotComplete t => Sys2Proof.Machine.execSicSnapshotComplete t s
  | .beamTableWrite w addr data => Sys2Proof.Machine.execBeamTableWrite w addr data s
  | .buildComplete d => Sys2Proof.Machine.execBuildComplete d s
  | .buildOverrun d => Sys2Proof.Machine.execBuildOverrun d s
  | .bankLive d r => Sys2Proof.Machine.execBankLive d r s
  | .bankRelease d r => Sys2Proof.Machine.execBankRelease d r s
  | .entryLineFailure d b e => Sys2Proof.Machine.execEntryLineFailure d b e s
  | .entryRefetchComplete d b e => Sys2Proof.Machine.execEntryRefetchComplete d b e s
  | .beamEcqWrite w v => Sys2Proof.Machine.execBeamEcqWrite w v s
  | .beamAlignWrite w d p v => Sys2Proof.Machine.execBeamAlignWrite w d p v s
  | .txReadinessTest t c airtime => Sys2Proof.Machine.execTxReadinessTest t c airtime s
  | .prepComplete k => Sys2Proof.Machine.execPrepComplete k s
  | .calComplete k found => Sys2Proof.Machine.execCalComplete k found s
  | .calYield k => Sys2Proof.Machine.execCalYield k s
  | .switchSpanStart t => Sys2Proof.Machine.execSwitchSpanStart t s
  | .lockLoss k => Sys2Proof.Machine.execLockLoss k s
  | .relockFailure k => Sys2Proof.Machine.execRelockFailure k s
  | .refclkLoss => Sys2Proof.Machine.execRefclkLoss s
  | .syncalCommit w k e v => Sys2Proof.Machine.execSyncalCommit w k e v s
  | .feTxenOn q airtime gnt => Sys2Proof.Machine.execFeTxenOn q airtime gnt s
  | .feTxenOff q => Sys2Proof.Machine.execFeTxenOff q s
  | .feRxenSwitch q gnt => Sys2Proof.Machine.execFeRxenSwitch q gnt s
  | .rffeGroupStart b => Sys2Proof.Machine.execRffeGroupStart b s
  | .feRffecmd w t v => Sys2Proof.Machine.execFeRffecmd w t v s
  | .rffecmdRun t rd parerr => Sys2Proof.Machine.execRffecmdRun t rd parerr s
  | .feMuteRelease w t mask => Sys2Proof.Machine.execFeMuteRelease w t mask s
  | .mutedPathResume p => Sys2Proof.Machine.execMutedPathResume p s
  | .limiterWindow p => Sys2Proof.Machine.execLimiterWindow p s
  | .limiterLevelExchange t => Sys2Proof.Machine.execLimiterLevelExchange t s
  | .limiterGainRise p => Sys2Proof.Machine.execLimiterGainRise p s
  | .dutyWindowStart => Sys2Proof.Machine.execDutyWindowStart s
  | .dutyLimitReached p => Sys2Proof.Machine.execDutyLimitReached p s
  | .rfSafeNFall => Sys2Proof.Machine.execRfSafeNFall s
  | .rfSafeNRise => Sys2Proof.Machine.execRfSafeNRise s
  | .rfSafeResume q => Sys2Proof.Machine.execRfSafeResume q s
  | .coxRequestRise c pri => Sys2Proof.Machine.execCoxRequestRise c pri s
  | .coxGrantWithdrawn c => Sys2Proof.Machine.execCoxGrantWithdrawn c s
  | .regulatoryReadFailure => Sys2Proof.Machine.execRegulatoryReadFailure s
  | .temperatureUpdate d temp => Sys2Proof.Machine.execTemperatureUpdate d temp s
  | .thermAlertN => Sys2Proof.Machine.execThermAlertN s
  | .seqAdd k gd ga gb => Sys2Proof.Machine.execSeqAdd k gd ga gb s
  | .seqSub k gd ga gb => Sys2Proof.Machine.execSeqSub k gd ga gb s
  | .seqAnd k gd ga gb => Sys2Proof.Machine.execSeqAnd k gd ga gb s
  | .seqOr k gd ga gb => Sys2Proof.Machine.execSeqOr k gd ga gb s
  | .seqXor k gd ga gb => Sys2Proof.Machine.execSeqXor k gd ga gb s
  | .seqSll k gd ga gb => Sys2Proof.Machine.execSeqSll k gd ga gb s
  | .seqSrl k gd ga gb => Sys2Proof.Machine.execSeqSrl k gd ga gb s
  | .seqSra k gd ga gb => Sys2Proof.Machine.execSeqSra k gd ga gb s
  | .seqMul k gd ga gb => Sys2Proof.Machine.execSeqMul k gd ga gb s
  | .seqSlt k gd ga gb => Sys2Proof.Machine.execSeqSlt k gd ga gb s
  | .seqSltu k gd ga gb => Sys2Proof.Machine.execSeqSltu k gd ga gb s
  | .seqMin k gd ga gb => Sys2Proof.Machine.execSeqMin k gd ga gb s
  | .seqMax k gd ga gb => Sys2Proof.Machine.execSeqMax k gd ga gb s
  | .seqLead40 k gd ga gb => Sys2Proof.Machine.execSeqLead40 k gd ga gb s
  | .seqAdd40 k gd ga gb => Sys2Proof.Machine.execSeqAdd40 k gd ga gb s
  | .seqDivu k gd ga gb => Sys2Proof.Machine.execSeqDivu k gd ga gb s
  | .seqAddi k gd ga imm => Sys2Proof.Machine.execSeqAddi k gd ga imm s
  | .seqAndi k gd ga imm => Sys2Proof.Machine.execSeqAndi k gd ga imm s
  | .seqOri k gd ga imm => Sys2Proof.Machine.execSeqOri k gd ga imm s
  | .seqXori k gd ga imm => Sys2Proof.Machine.execSeqXori k gd ga imm s
  | .seqShi k gd ga imm => Sys2Proof.Machine.execSeqShi k gd ga imm s
  | .seqSetw k gd ga imm => Sys2Proof.Machine.execSeqSetw k gd ga imm s
  | .seqShor k gd ga imm => Sys2Proof.Machine.execSeqShor k gd ga imm s
  | .seqExt k gd ga imm => Sys2Proof.Machine.execSeqExt k gd ga imm s
  | .seqIns k gd ga imm => Sys2Proof.Machine.execSeqIns k gd ga imm s
  | .seqLd k gd ga imm => Sys2Proof.Machine.execSeqLd k gd ga imm s
  | .seqLw k gd ga imm => Sys2Proof.Machine.execSeqLw k gd ga imm s
  | .seqLh k gd ga imm => Sys2Proof.Machine.execSeqLh k gd ga imm s
  | .seqLb k gd ga imm => Sys2Proof.Machine.execSeqLb k gd ga imm s
  | .seqSd k gd ga imm => Sys2Proof.Machine.execSeqSd k gd ga imm s
  | .seqSw k gd ga imm => Sys2Proof.Machine.execSeqSw k gd ga imm s
  | .seqSh k gd ga imm => Sys2Proof.Machine.execSeqSh k gd ga imm s
  | .seqSb k gd ga imm => Sys2Proof.Machine.execSeqSb k gd ga imm s
  | .seqBr k cond off => Sys2Proof.Machine.execSeqBr k cond off s
  | .seqBl k gd off => Sys2Proof.Machine.execSeqBl k gd off s
  | .seqJumpr k gd ga gb func => Sys2Proof.Machine.execSeqJumpr k gd ga gb func s
  | .seqRbz k gdhi ga imm => Sys2Proof.Machine.execSeqRbz k gdhi ga imm s
  | .seqRbnz k gdhi ga imm => Sys2Proof.Machine.execSeqRbnz k gdhi ga imm s
  | .seqAt k gd ga gb func => Sys2Proof.Machine.execSeqAt k gd ga gb func s
  | .seqWaitt k gd ga gb func => Sys2Proof.Machine.execSeqWaitt k gd ga gb func s
  | .seqMfs k gd ga sel => Sys2Proof.Machine.execSeqMfs k gd ga sel s
  | .seqMts k gd ga sel => Sys2Proof.Machine.execSeqMts k gd ga sel s
  | .seqEmit k gs gt port flags => Sys2Proof.Machine.execSeqEmit k gs gt port flags s
  | .seqEmitTry k gs gt port flags => Sys2Proof.Machine.execSeqEmitTry k gs gt port flags s
  | .seqBeamsel k gd ga gb func => Sys2Proof.Machine.execSeqBeamsel k gd ga gb func s
  | .seqCommit k gd ga gb func => Sys2Proof.Machine.execSeqCommit k gd ga gb func s
  | .seqPrep k gd ga gb func => Sys2Proof.Machine.execSeqPrep k gd ga gb func s
  | .seqHop k gd ga gb func => Sys2Proof.Machine.execSeqHop k gd ga gb func s
  | .seqPwr k gd ga gb func => Sys2Proof.Machine.execSeqPwr k gd ga gb func s
  | .seqRecv k gd ga gb func => Sys2Proof.Machine.execSeqRecv k gd ga gb func s
  | .seqRecvNb k gd ga gb func => Sys2Proof.Machine.execSeqRecvNb k gd ga gb func s
  | .seqEvRaise k gd ga gb func => Sys2Proof.Machine.execSeqEvRaise k gd ga gb func s
  | .seqEvWait k gd ga gb func => Sys2Proof.Machine.execSeqEvWait k gd ga gb func s
  | .seqEvWaitTimeout k => Sys2Proof.Machine.execSeqEvWaitTimeout k s
  | .seqStallEnd k => Sys2Proof.Machine.execSeqStallEnd k s
  | .seqCkpt k gd ga imm => Sys2Proof.Machine.execSeqCkpt k gd ga imm s
  | .seqSquash k gd ga gb func => Sys2Proof.Machine.execSeqSquash k gd ga gb func s
  | .seqSquashStallEnd k => Sys2Proof.Machine.execSeqSquashStallEnd k s
  | .seqSpecoff k gd ga gb func => Sys2Proof.Machine.execSeqSpecoff k gd ga gb func s
  | .seqHalt k gd ga gb func => Sys2Proof.Machine.execSeqHalt k gd ga gb func s
  | .refusalFault k => Sys2Proof.Machine.execRefusalFault k s
  | .seqRun w k => Sys2Proof.Machine.execSeqRun w k s
  | .seqStop w k => Sys2Proof.Machine.execSeqStop w k s
  | .seqRestart w k => Sys2Proof.Machine.execSeqRestart w k s
  | .hiqPush w v => Sys2Proof.Machine.execHiqPush w v s
  | .miqPush w v => Sys2Proof.Machine.execMiqPush w v s
  | .issueQueueIssue q => Sys2Proof.Machine.execIssueQueueIssue q s
  | .lockstepMismatch mgmt => Sys2Proof.Machine.execLockstepMismatch mgmt s
  | .vNop n dual vd va vb vf => Sys2Proof.Machine.execVNop n dual vd va vb vf s
  | .vCmac n dual vd va vb vf => Sys2Proof.Machine.execVCmac n dual vd va vb vf s
  | .vAdd n dual vd va vb vf => Sys2Proof.Machine.execVAdd n dual vd va vb vf s
  | .vConj n dual vd va vb vf => Sys2Proof.Machine.execVConj n dual vd va vb vf s
  | .vNorm n dual vd va vb vf => Sys2Proof.Machine.execVNorm n dual vd va vb vf s
  | .vExp n dual vd va vb vf => Sys2Proof.Machine.execVExp n dual vd va vb vf s
  | .vRnd n dual vd va vb vf => Sys2Proof.Machine.execVRnd n dual vd va vb vf s
  | .vRsq n dual vd va vb vf => Sys2Proof.Machine.execVRsq n dual vd va vb vf s
  | .vSplat n dual vd va vb vf => Sys2Proof.Machine.execVSplat n dual vd va vb vf s
  | .vHadd n dual vd va vb vf => Sys2Proof.Machine.execVHadd n dual vd va vb vf s
  | .vAclr n dual vd va vb vf => Sys2Proof.Machine.execVAclr n dual vd va vb vf s
  | .vMovs n dual vd va vb vf => Sys2Proof.Machine.execVMovs n dual vd va vb vf s
  | .vIns n dual vd va vb vf => Sys2Proof.Machine.execVIns n dual vd va vb vf s
  | .vAovf n dual vd va vb vf => Sys2Proof.Machine.execVAovf n dual vd va vb vf s
  | .sNop n d x y func => Sys2Proof.Machine.execSNop n d x y func s
  | .sAdd n d x y => Sys2Proof.Machine.execSAdd n d x y s
  | .sSub n d x y => Sys2Proof.Machine.execSSub n d x y s
  | .sAnd n d x y => Sys2Proof.Machine.execSAnd n d x y s
  | .sOr n d x y => Sys2Proof.Machine.execSOr n d x y s
  | .sXor n d x y => Sys2Proof.Machine.execSXor n d x y s
  | .sSll n d x y => Sys2Proof.Machine.execSSll n d x y s
  | .sSrl n d x y => Sys2Proof.Machine.execSSrl n d x y s
  | .sSra n d x y => Sys2Proof.Machine.execSSra n d x y s
  | .sMul n d x y => Sys2Proof.Machine.execSMul n d x y s
  | .sSlt n d x y => Sys2Proof.Machine.execSSlt n d x y s
  | .sSltu n d x y => Sys2Proof.Machine.execSSltu n d x y s
  | .sMin n d x y => Sys2Proof.Machine.execSMin n d x y s
  | .sMax n d x y => Sys2Proof.Machine.execSMax n d x y s
  | .sAddi n d x imm => Sys2Proof.Machine.execSAddi n d x imm s
  | .sLi n d x imm => Sys2Proof.Machine.execSLi n d x imm s
  | .sLih n d x imm => Sys2Proof.Machine.execSLih n d x imm s
  | .sMov n d x y func => Sys2Proof.Machine.execSMov n d x y func s
  | .sAaddi n d x imm => Sys2Proof.Machine.execSAaddi n d x imm s
  | .sVld n t ax oy disp => Sys2Proof.Machine.execSVld n t ax oy disp s
  | .sVst n t ax oy disp => Sys2Proof.Machine.execSVst n t ax oy disp s
  | .sLd n t ax oy disp => Sys2Proof.Machine.execSLd n t ax oy disp s
  | .sSt n t ax oy disp => Sys2Proof.Machine.execSSt n t ax oy disp s
  | .remoteLoadResponse n => Sys2Proof.Machine.execRemoteLoadResponse n s
  | .sB n cond off => Sys2Proof.Machine.execSB n cond off s
  | .sBl n cond off => Sys2Proof.Machine.execSBl n cond off s
  | .sJr n d x y func => Sys2Proof.Machine.execSJr n d x y func s
  | .sLoop n word1 d x imm => Sys2Proof.Machine.execSLoop n word1 d x imm s
  | .sMfsr n d x imm => Sys2Proof.Machine.execSMfsr n d x imm s
  | .sSev n d x y func => Sys2Proof.Machine.execSSev n d x y func s
  | .sSleep n d x y func => Sys2Proof.Machine.execSSleep n d x y func s
  | .sleepEnd n => Sys2Proof.Machine.execSleepEnd n s
  | .sFence n d x y func => Sys2Proof.Machine.execSFence n d x y func s
  | .sHalt n d x y func => Sys2Proof.Machine.execSHalt n d x y func s
  | .vcRun w n => Sys2Proof.Machine.execVcRun w n s
  | .vcStop w n => Sys2Proof.Machine.execVcStop w n s
  | .vcRestart w n => Sys2Proof.Machine.execVcRestart w n s
  | .laneGroupEnable w g v => Sys2Proof.Machine.execLaneGroupEnable w g v s
  | .laneGroupDisable w g v => Sys2Proof.Machine.execLaneGroupDisable w g v s
  | .laneIdleRequest w l v => Sys2Proof.Machine.execLaneIdleRequest w l v s
  | .pllLock g => Sys2Proof.Machine.execPllLock g s
  | .idleEntry l run => Sys2Proof.Machine.execIdleEntry l run s
  | .train l run => Sys2Proof.Machine.execTrain l run s
  | .retrain l run => Sys2Proof.Machine.execRetrain l run s
  | .signalDetect l => Sys2Proof.Machine.execSignalDetect l s
  | .fastExitLock l run => Sys2Proof.Machine.execFastExitLock l run s
  | .fastExitFail l => Sys2Proof.Machine.execFastExitFail l s
  | .trainingEnd l => Sys2Proof.Machine.execTrainingEnd l s
  | .blockLock l hdrs => Sys2Proof.Machine.execBlockLock l hdrs s
  | .acquisitionRetry l => Sys2Proof.Machine.execAcquisitionRetry l s
  | .lossOfSignal l => Sys2Proof.Machine.execLossOfSignal l s
  | .lossOfLock l range hdrs => Sys2Proof.Machine.execLossOfLock l range hdrs s
  | .portAligning p => Sys2Proof.Machine.execPortAligning p s
  | .alignWord p w seen => Sys2Proof.Machine.execAlignWord p w seen s
  | .alignSend p => Sys2Proof.Machine.execAlignSend p s
  | .lresetWord p cut w => Sys2Proof.Machine.execLresetWord p cut w s
  | .portUp p => Sys2Proof.Machine.execPortUp p s
  | .creditWord p cut w => Sys2Proof.Machine.execCreditWord p cut w s
  | .creditRefresh p => Sys2Proof.Machine.execCreditRefresh p s
  | .ackWord p cut w => Sys2Proof.Machine.execAckWord p cut w s
  | .nakWord p cut w => Sys2Proof.Machine.execNakWord p cut w s
  | .ackTimeout p v => Sys2Proof.Machine.execAckTimeout p v s
  | .creditTimeout p v => Sys2Proof.Machine.execCreditTimeout p v s
  | .vc2WaitExpiry p => Sys2Proof.Machine.execVc2WaitExpiry p s
  | .frameSend p => Sys2Proof.Machine.execFrameSend p s
  | .taggedFrame p f => Sys2Proof.Machine.execTaggedFrame p f s
  | .mgmtRead p f => Sys2Proof.Machine.execMgmtRead p f s
  | .mgmtWrite p f => Sys2Proof.Machine.execMgmtWrite p f s
  | .mgmtUpdate p f => Sys2Proof.Machine.execMgmtUpdate p f s
  | .mgmtRsp p f => Sys2Proof.Machine.execMgmtRsp p f s
  | .eventFrame p f => Sys2Proof.Machine.execEventFrame p f s
  | .bulk p f => Sys2Proof.Machine.execBulk p f s
  | .linkctl p f => Sys2Proof.Machine.execLinkctl p f s
  | .ptpMessage p native dst m => Sys2Proof.Machine.execPtpMessage p native dst m s
  | .tsyncAnnounce p f => Sys2Proof.Machine.execTsyncAnnounce p f s
  | .ethernetFrame p e => Sys2Proof.Machine.execEthernetFrame p e s
  | .pcsLinkChange p up => Sys2Proof.Machine.execPcsLinkChange p up s
  | .timeStepWrite w v => Sys2Proof.Machine.execTimeStepWrite w v s
  | .timeRearm w v => Sys2Proof.Machine.execTimeRearm w v s
  | .timeSrcChange w v => Sys2Proof.Machine.execTimeSrcChange w v s
  | .timeRateWrite w v => Sys2Proof.Machine.execTimeRateWrite w v s
  | .steeringWordPeriodic => Sys2Proof.Machine.execSteeringWordPeriodic s
  | .servoSample theta gen spansStep rate => Sys2Proof.Machine.execServoSample theta gen spansStep rate s
  | .sourceLossTimeout => Sys2Proof.Machine.execSourceLossTimeout s
  | .ptpDescriptor w v => Sys2Proof.Machine.execPtpDescriptor w v s
  | .ptpLaunch ix => Sys2Proof.Machine.execPtpLaunch ix s
  | .tsyncOutEdge => Sys2Proof.Machine.execTsyncOutEdge s
  | .tsyncInEdge => Sys2Proof.Machine.execTsyncInEdge s
  | .tsyncMissing => Sys2Proof.Machine.execTsyncMissing s
  | .ppsOutEdge => Sys2Proof.Machine.execPpsOutEdge s
  | .ppsInEdge => Sys2Proof.Machine.execPpsInEdge s
  | .ppsMissing => Sys2Proof.Machine.execPpsMissing s
  | .slowclkTick => Sys2Proof.Machine.execSlowclkTick s
  | .hostRequest r => Sys2Proof.Machine.execHostRequest r s
  | .pciePerst => Sys2Proof.Machine.execPciePerst s
  | .slotClaim ix v => Sys2Proof.Machine.execSlotClaim ix v s
  | .slotHandover ix v => Sys2Proof.Machine.execSlotHandover ix v s
  | .slotRelease ix v => Sys2Proof.Machine.execSlotRelease ix v s
  | .deviceSlotClaim w ix v => Sys2Proof.Machine.execDeviceSlotClaim w ix v s
  | .deviceSlotHandover w ix v => Sys2Proof.Machine.execDeviceSlotHandover w ix v s
  | .deviceSlotRelease w ix v => Sys2Proof.Machine.execDeviceSlotRelease w ix v s
  | .headerRepoll ix => Sys2Proof.Machine.execHeaderRepoll ix s
  | .leaseExpiry ix => Sys2Proof.Machine.execLeaseExpiry ix s
  | .memWincbaseWrite w v => Sys2Proof.Machine.execMemWincbaseWrite w v s
  | .msixUnmask v => Sys2Proof.Machine.execMsixUnmask v s
  | .svcWrite b => Sys2Proof.Machine.execSvcWrite b s
  | .svcRead b => Sys2Proof.Machine.execSvcRead b s
  | .svcStatus => Sys2Proof.Machine.execSvcStatus s
  | .dmaRing w c v => Sys2Proof.Machine.execDmaRing w c v s
  | .dmaEnable w c v => Sys2Proof.Machine.execDmaEnable w c v s
  | .dmaDisable w c v => Sys2Proof.Machine.execDmaDisable w c v s
  | .dmaResume w c v => Sys2Proof.Machine.execDmaResume w c v s
  | .dmaAbort w c v => Sys2Proof.Machine.execDmaAbort w c v s
  | .dmaHeadWrite w c v => Sys2Proof.Machine.execDmaHeadWrite w c v s
  | .burstGrant host => Sys2Proof.Machine.execBurstGrant host s
  | .descriptorComplete c => Sys2Proof.Machine.execDescriptorComplete c s
  | .waitevSignal c e => Sys2Proof.Machine.execWaitevSignal c e s
  | .waitwordPoll c => Sys2Proof.Machine.execWaitwordPoll c s
  | .dmaWaitTimeout c => Sys2Proof.Machine.execDmaWaitTimeout c s
  | .dmaErrorHalt c => Sys2Proof.Machine.execDmaErrorHalt c s
  | .scrubStep r => Sys2Proof.Machine.execScrubStep r s
  | .privilegedLapOverdue => Sys2Proof.Machine.execPrivilegedLapOverdue s
  | .nvWordWrite w addr v ok => Sys2Proof.Machine.execNvWordWrite w addr v ok s
  | .nvErase w v => Sys2Proof.Machine.execNvErase w v s
  | .captureRecord e g unit rails space => Sys2Proof.Machine.execCaptureRecord e g unit rails space s
  | .playbackRecord e => Sys2Proof.Machine.execPlaybackRecord e s
  | .eventRepeatMessage e => Sys2Proof.Machine.execEventRepeatMessage e s
  | .evPendClear w hi mask hw => Sys2Proof.Machine.execEvPendClear w hi mask hw s
  | .requestTimeout u => Sys2Proof.Machine.execRequestTimeout u s
  | .clockMonitorTrip u => Sys2Proof.Machine.execClockMonitorTrip u s
  | .selfCheckError u => Sys2Proof.Machine.execSelfCheckError u s
  | .fenceRequest w v => Sys2Proof.Machine.execFenceRequest w v s
  | .fenceRelease w v => Sys2Proof.Machine.execFenceRelease w v s
  | .watchdogKick w v => Sys2Proof.Machine.execWatchdogKick w v s
  | .watchdogExpiry => Sys2Proof.Machine.execWatchdogExpiry s
  | .pwrReqActive w v => Sys2Proof.Machine.execPwrReqActive w v s
  | .pwrReqFen w v => Sys2Proof.Machine.execPwrReqFen w v s
  | .pwrReqBog w v => Sys2Proof.Machine.execPwrReqBog w v s
  | .pwrReqPeat w v => Sys2Proof.Machine.execPwrReqPeat w v s
  | .powerEntryStep m => Sys2Proof.Machine.execPowerEntryStep m s
  | .entryRollback m => Sys2Proof.Machine.execEntryRollback m s
  | .autoReedEntry t => Sys2Proof.Machine.execAutoReedEntry t s
  | .autoReedExit t => Sys2Proof.Machine.execAutoReedExit t s
  | .wakeTick => Sys2Proof.Machine.execWakeTick s
  | .wakeN => Sys2Proof.Machine.execWakeN s
  | .exitStepReady m => Sys2Proof.Machine.execExitStepReady m s
  | .psGoodTimeout b => Sys2Proof.Machine.execPsGoodTimeout b s
  | .transitionOverrun m => Sys2Proof.Machine.execTransitionOverrun m s
  | .psGoodFall b => Sys2Proof.Machine.execPsGoodFall b s
  | .psEnRaise good => Sys2Proof.Machine.execPsEnRaise good s
  | .avsStep up => Sys2Proof.Machine.execAvsStep up s
  | .modeReqService w => Sys2Proof.Machine.execModeReqService w s
  | .modeReqMaintenance w => Sys2Proof.Machine.execModeReqMaintenance w s
  | .modeReqTest w => Sys2Proof.Machine.execModeReqTest w s
  | .modeReqWarmup w => Sys2Proof.Machine.execModeReqWarmup w s
  | .modeReqTimeout w => Sys2Proof.Machine.execModeReqTimeout w s
  | .settingsRead => Sys2Proof.Machine.execSettingsRead s
  | .calibrationComplete => Sys2Proof.Machine.execCalibrationComplete s
  | .powerOn => Sys2Proof.Machine.execPowerOn s
  | .resetPin => Sys2Proof.Machine.execResetPin s
  | .softwareReset w v => Sys2Proof.Machine.execSoftwareReset w v s
  | .bootWatchdogExpiry => Sys2Proof.Machine.execBootWatchdogExpiry s
  | .sessionOpen r m => Sys2Proof.Machine.execSessionOpen r m s
  | .sessionWrite r m => Sys2Proof.Machine.execSessionWrite r m s
  | .sessionFinish r m => Sys2Proof.Machine.execSessionFinish r m s
  | .sessionActivate r m => Sys2Proof.Machine.execSessionActivate r m s
  | .sessionConfirm r m => Sys2Proof.Machine.execSessionConfirm r m s
  | .sessionAbort r m => Sys2Proof.Machine.execSessionAbort r m s
  | .sessionStatus r m => Sys2Proof.Machine.execSessionStatus r m s
  | .sessionRead r m => Sys2Proof.Machine.execSessionRead r m s
  | .sessionFallback r m => Sys2Proof.Machine.execSessionFallback r m s
  | .sessionLockExpiry => Sys2Proof.Machine.execSessionLockExpiry s
  | .trialWindowExpiry => Sys2Proof.Machine.execTrialWindowExpiry s
  | .counterReadClear w off hw => Sys2Proof.Machine.execCounterReadClear w off hw s
  | .w1cWrite w off v hw => Sys2Proof.Machine.execW1cWrite w off v hw s
  | .wideRegisterCommit w off v => Sys2Proof.Machine.execWideRegisterCommit w off v s
  | .configRegisterWrite w off wide v => Sys2Proof.Machine.execConfigRegisterWrite w off wide v s
  | .refclkReturn => Sys2Proof.Machine.execRefclkReturn s
  | .resetNRelease recoverN => Sys2Proof.Machine.execResetNRelease recoverN s
  | .powerLoss => Sys2Proof.Machine.execPowerLoss s
  | .pciePerstNRelease => Sys2Proof.Machine.execPciePerstNRelease s
  | .pcieEndpointReady => Sys2Proof.Machine.execPcieEndpointReady s
  | .remoteStoreResponse n => Sys2Proof.Machine.execRemoteStoreResponse n s
  | .loopbackReleaseByTraffic q => Sys2Proof.Machine.execLoopbackReleaseByTraffic q s
  | .laneIdleExit w l v => Sys2Proof.Machine.execLaneIdleExit w l v s
  | .tickCounterWrap => Sys2Proof.Machine.execTickCounterWrap s

end Sys2Proof.Machine
end

