-- ==== Sys2Proof/Machine/Step.lean ====
section
/-! DEFINITION. One step: the command at the front of the queue is executed; with an empty queue one tick passes. -/

namespace Sys2Proof.Machine
open Sys2Proof

/-- Takes the command at the front of the queue and executes it on the state with the queue's rest. With no command waiting the
block idles for one tick (log entry 1). -/
def step (s : State) : Host.Outcome State Fault Refusal :=
  match s.pending with
  | [] => .next s.idle
  | c :: cs => exec c { s with pending := cs }

/-- Sequencer `k` meets the program word `w`: the instruction it spells, or a fault with cause 0x01 (R322, R323). -/
def State.runSeqWord (s : State) (k : Seq) (w : BitVec 32) : Host.Outcome State Fault Refusal :=
  match seqWord k w with
  | some c => exec c s
  | none => act (fun s => s.seqIssue k.val false fun _ s => s) s

/-- Core `n` meets word `i` of the bundle (w0, w1): the instruction it spells, or a fault with cause 0x01 (R350, R371). -/
def State.runVcWord (s : State) (n : Vc) (i : Bool) (w0 w1 : BitVec 32) : Host.Outcome State Fault Refusal :=
  match vcWord n i w0 w1 with
  | some c => exec c s
  | none => act (fun s => s.sIssue n.val false [] id) s

/-- The state with the command that a table word spells put at the front of its queue; unchanged, since no word spells one. -/
def State.withFetchWord (s : State) (nbits w : Nat) : State :=
  match decodeTableWord nbits w with
  | some c => { s with pending := c :: s.pending }
  | none => s

end Sys2Proof.Machine
end

