-- ==== Sys2Proof/Safety.lean ====
section
/-! DEFINITION. What counts as a safe run, in the terms the statements use: the one form of memory, when a stage takes
an item, when a core issues, and which commands count without power. -/

namespace Sys2Proof.Machine
open Sys2Proof

/-- Memory in its one form: bytes, valid bits and errors each listed by rising address, with no entry that an unlisted address
would read as. -/
def MemSt.wf (m : MemSt) : Bool :=
  tableWf (fun _ => (0 : Byte)) m.cells && tableWf (fun _ => false) m.valid && tableWf (fun _ => MemErr.good) m.bad

/-- The memory of the state is in its one form. -/
abbrev Memory.wf (s : State) : Prop := s.mem.wf = true

/-- The state with the last answer and outputs cleared: what a command's own effect starts from. -/
def State.fresh (s : State) : State := { s with resp := .none, out := [] }

/-- A step that went on, and its next state. -/
def goesTo (o : Host.Outcome State Fault Refusal) (t : State) : Prop := o = .next t

/-- The command completes from the state. -/
def completes (c : Instr) (s : State) : Prop := ∃ t, exec c s = .next t

/-! ## Items at their stages -/

/-- An item passes every check that a stage makes on arrival: no item that its issuer sent before it on its stream is still on the
way (R22), its island is neither fenced nor without a clock, the tag check
holds (R39), the air time is at most 2^24 tk ahead (R44), no squash (R64) and no stopped function (R68) discards it, and its
payload and tag have the form of its kind (R37, R342). -/
def State.passes (s : State) (p : Port) (t : Nat) (it : Item) : Bool :=
  !netBehind p t it s.net && !s.portFenced p t && !s.gated p t && tagCheck it.tag && decide (lead it.tag.air s.now ≤ 2 ^ 24) &&
  !(s.squashes.any fun r => r.hits p t it) &&
  (match itemFn p it with
    | some f => !(s.fnOf f (fnTile f t)).discards it.tag.air
    | none => true) &&
  payloadForm p it (s.itemShape it).1 (s.itemShape it).2 && tagFieldsOk it.tag

/-- The stage has taken the item out of the network: its issuer's credit returns (R301). -/
def State.took (s : State) (p : Port) (t : Nat) (it : Item) : State := { s with net := (takeNet p t it s.net).1 }

/-- A squash in force or a stopped function discards the item (R64, R68, R71). -/
def State.discardsItem (s : State) (p : Port) (t : Nat) (it : Item) : Bool :=
  (s.squashes.any fun r => r.hits p t it) ||
  (match itemFn p it with
    | some f => (s.fnOf f (fnTile f t)).discards it.tag.air
    | none => false)

/-- Who hears of an item that a stage does not take: its sequencer's program-fault event, else the event of R39. -/
def turnedAwayEvents (p : Port) (t src : Nat) : List Nat := if src ≤ 4 then [16 + src] else tagFailEvents p t src

/-! ## Cores that issue -/

/-- An offset that the program may continue at (R324). -/
def inProgram (t : Int) : Bool := decide (0 ≤ t ∧ t ≤ 0x7FFFC)

/-- Sequencer `k` issues the instruction at its program counter: it is powered and running, no refused item of its own waits to
fault it, and the word it fetches lies in program memory and passes its check, in both copies of the ASQ's (R297, R318, R320, R324,
R338). -/
def State.seqReady (s : State) (k : Nat) : Bool :=
  s.seqIslandOn k && (s.seqOf k).state = .running && (s.seqOf k).refused = [] && decide ((s.seqOf k).pc.toNat < 0x80000) &&
  ((checkedUnits (.seqMem k) (seqProg k + (s.seqOf k).pc.toNat) 4).all fun u => s.errAt u = .good) &&
  (!asqOwn k (seqProg k + (s.seqOf k).pc.toNat) 4 ||
    (List.range 4).all fun i => s.errAt (secondCopy (seqProg k + (s.seqOf k).pc.toNat + i)) = .good)

/-- The sequencer runs on at an offset. -/
def SeqSt.at_ (q : SeqSt) (t : Int) : SeqSt := { q with pc := BitVec.ofInt 20 t, state := .running, stall := .none }

/-- The offset of the next instruction. -/
def SeqSt.after (q : SeqSt) : Int := (q.pc.toNat : Int) + 4

/-- The sequencer runs on at the next instruction. -/
def SeqSt.next (q : SeqSt) : SeqSt := q.at_ q.after

/-- Core `n` issues a word of the bundle at its program counter: it is powered and running, and the bundle lies in program
memory and passes its check (R350, R374). -/
def State.bundleReady (s : State) (n : Nat) : Bool :=
  s.vcOn n && (s.vcOf n).state = .running && decide ((s.vcOf n).pc.toNat < 0x40000) &&
  (checkedUnits (.vcProg n) (vcProg n + (s.vcOf n).pc.toNat / 8 * 8) 8).all fun u => s.errAt u = .good

/-! ## Pins -/

/-- The commands that count without power or in reset: the supply and the reset and PERST pins. -/
def isPin (c : Instr) : Prop :=
  c = .powerOn ∨ c = .powerLoss ∨ c = .resetPin ∨ c = .resetNRelease true ∨ c = .resetNRelease false ∨ c = .pciePerst ∨
    c = .pciePerstNRelease

end Sys2Proof.Machine
end

