-- ==== Sys2Proof/Certificates/Slice0/Obligations.lean ====
section
/-! DEFINITION. The statements for the provers. First the rules: for every command, when it has its own effect and the whole
next state that effect leaves, family by family; then one statement for each family, and those that hold across families. -/

namespace Sys2Proof.Machine
open Sys2Proof

/-! ## Vocabulary -/

/-- What the spec gives one command: when it has its own effect, and the state that effect leaves. Both read the state with the
last answer and outputs cleared (State.fresh). -/
structure Rule where
  pre : State → Bool
  eff : State → State

/-- The item is not LATE, here or at an earlier stage (R46, R47). -/
def State.onTime (s : State) (p : Port) (t : Nat) (it : Item) : Bool := !it.tag.late && (s.lateBy p t it).isNone

/-- The item as it waits in the stage's queue for its own AIRTIME (R56). -/
def State.waiting (s : State) (p : Port) (t : Nat) (it : Item) : QItem :=
  ⟨p, t, it, it.tag.air, false, (takeNet p t it s.net).2⟩

/-- The item has left the network and waits in the queue. -/
def State.queued (s : State) (p : Port) (t : Nat) (it : Item) : State :=
  { s with net := (takeNet p t it s.net).1, queue := insertItem (s.waiting p t it) s.queue }

/-- A control item that passes every check of its stage, on time, and waits for its AIRTIME. -/
def queues (p : Port) (t : Nat) (it : Item) (ok : State → Bool) : Rule :=
  ⟨fun s => s.passes p t it && s.onTime p t it && ok s, fun s => s.queued p t it⟩

def always : State → Bool := fun _ => true

/-! ## Items at their stages -/

/-! ### Control items of the transmit chain (R88, R89, R93, R97, R122, R214, R343). -/

def fftCfgRule (g : Tag) (b : Bytes) : Rule :=
  queues .fft 0 (mkItem kFftCfg g b) fun _ => fftAccepted b g.mu.toNat && fftOffsetOk b g.mu.toNat

def wolaRule (g : Tag) (b : Bytes) : Rule := queues .wola 0 (mkItem kWola g b) always

def carrierOnRule (t : Tile) (g : Tag) (b : Bytes) : Rule := queues .flt t.val (mkItem kCarrier g (rowPay b 1 2 3 0)) always

def carrierOffRule (t : Tile) (g : Tag) (b : Bytes) : Rule := queues .flt t.val (mkItem kCarrier g (rowPay b 1 2 3 1)) always

def carrierRetuneRule (t : Tile) (g : Tag) (b : Bytes) : Rule :=
  queues .flt t.val (mkItem kCarrier g (rowPay b 1 2 3 2)) always

def gainTxRule (t : Tile) (g : Tag) (b : Bytes) : Rule :=
  queues .wola 0 (mkItem kGain g b) fun _ => g.source.toNat = t.val

def cfrCfgRule (t : Tile) (g : Tag) (b : Bytes) : Rule := queues .cfr t.val (mkItem kCfrCfg g b) always

/-- A DPD_SWAP of a target, from the tile's own sequencer: LASTK holds its fade exponent at once, and it waits for its AIRTIME
(R122). -/
def dpdSwapItem (target : Nat) (t : Tile) (g : Tag) (b : Bytes) : Rule :=
  let it := mkItem kDpdSwap g (setPay b 16 1 target)
  let r := queues .dpd t.val it fun _ => g.source.toNat = t.val
  ⟨r.pre, fun s => (r.eff s).setReg (rDpdcfg t.val) (setFld (s.reg (rDpdcfg t.val)) 8 4 (pbits it.body 17 4))⟩

def dpdSwapModelRule (t : Tile) (g : Tag) (b : Bytes) : Rule := dpdSwapItem 0 t g b

def dpdSwapCorrRule (t : Tile) (g : Tag) (b : Bytes) : Rule := dpdSwapItem 1 t g b

def fltSwapTxfirRule (t : Tile) (g : Tag) (b : Bytes) : Rule := queues .flt t.val (mkItem kFltSwap g (rowPay b 0 2 3 0)) always

/-! ### Control items of the receive chain and of the canceller (R152, R157, R161, R186, R214). -/

def fltSwapRxfirRule (t : Tile) (g : Tag) (b : Bytes) : Rule := queues .flt t.val (mkItem kFltSwap g (rowPay b 0 2 3 1)) always

def fltSwapRxiqRule (t : Tile) (g : Tag) (b : Bytes) : Rule := queues .flt t.val (mkItem kFltSwap g (rowPay b 0 2 3 2)) always

def gainRxRule (t : Tile) (g : Tag) (b : Bytes) : Rule :=
  queues .flt t.val (mkItem kGain g (setPay b 18 1 0)) fun _ => g.source.toNat = t.val

def dcFreezeRule (t : Tile) (g : Tag) (b : Bytes) : Rule := queues .flt t.val (mkItem kDcFreeze g (setPay b 16 1 1)) always

def dcReleaseRule (t : Tile) (g : Tag) (b : Bytes) : Rule := queues .flt t.val (mkItem kDcFreeze g (setPay b 16 1 0)) always

def sicCtlOnRule (t : Tile) (g : Tag) (b : Bytes) : Rule :=
  queues .sic t.val (mkItem kSicCtl g (setPay b 16 2 0)) fun _ => g.source.toNat = t.val

def sicCtlOffRule (t : Tile) (g : Tag) (b : Bytes) : Rule :=
  queues .sic t.val (mkItem kSicCtl g (setPay b 16 2 1)) fun _ => g.source.toNat = t.val

def sicCtlSwapRule (t : Tile) (g : Tag) (b : Bytes) : Rule :=
  queues .sic t.val (mkItem kSicCtl g (setPay b 16 2 2)) fun _ => g.source.toNat = t.val

def sicCtlSnapRule (t : Tile) (g : Tag) (b : Bytes) : Rule :=
  queues .sic t.val (mkItem kSicCtl g (setPay b 16 2 3)) fun _ => g.source.toNat = t.val

/-- An LO_CTL comes from the tile's own sequencer, or from management firmware that names the tile (R255). -/
def loOwner (t : Tile) (g : Tag) (b : Bytes) : Bool :=
  if g.source = 13 then pbits b 6 2 = t.val else g.source.toNat = t.val

/-- A COEF item of a target: it is queued on the port of its target (R345), and its record lies in the tile, once the record's check passes
(R119, R345). -/
def coefItem (target : Nat) (t : Tile) (g : Tag) (b : Bytes) : Rule :=
  let it := mkItem kCoef g (rowPay b 0 4 6 target)
  let r := coefRec t.val it.body
  queues ((coefPort target).getD .cfr) t.val it fun s => recTile r = t.val && s.recordPasses r (it.body.drop 8)

/-! ### Tuning, power and coefficient items, and markers (R40, R119, R255, R538). -/

def loPrepRule (t : Tile) (g : Tag) (b : Bytes) : Rule :=
  let it := mkItem kLoCtl g (rowPay b 0 2 3 0); queues .lo t.val it fun _ => loOwner t g it.body

def loCalRule (t : Tile) (g : Tag) (b : Bytes) : Rule :=
  let it := mkItem kLoCtl g (rowPay b 0 2 3 1); queues .lo t.val it fun _ => loOwner t g it.body

def loSwitchRule (t : Tile) (g : Tag) (b : Bytes) : Rule :=
  let it := mkItem kLoCtl g (rowPay b 0 2 3 2); queues .lo t.val it fun _ => loOwner t g it.body

def pwrCtlActiveRule (g : Tag) (b : Bytes) : Rule := queues .pwr 0 (mkItem kPwrCtl g (rowPay b 0 3 4 0)) always

def pwrCtlReedRule (g : Tag) (b : Bytes) : Rule :=
  let it := mkItem kPwrCtl g (rowPay b 0 3 4 1)
  queues .pwr 0 it fun _ => mayRequest (itemParty g.source) .reed (pbits it.body 4 4)

def pwrCtlSedgeRule (g : Tag) (b : Bytes) : Rule := queues .pwr 0 (mkItem kPwrCtl g (rowPay b 0 3 4 2)) fun _ => g.source = 4

def pwrCtlFenRule (g : Tag) (b : Bytes) : Rule := queues .pwr 0 (mkItem kPwrCtl g (rowPay b 0 3 4 3)) fun _ => g.source = 13

def markerRule (p : Port) (t : Tile) (g : Tag) (b : Bytes) : Rule := queues p (portTile p t.val) (mkItem kMarker g b) always

def coefPredistorterRule (t : Tile) (g : Tag) (b : Bytes) : Rule := coefItem 0 t g b

def coefTxCorrectorRule (t : Tile) (g : Tag) (b : Bytes) : Rule := coefItem 1 t g b

def coefRxCorrectorRule (t : Tile) (g : Tag) (b : Bytes) : Rule := coefItem 2 t g b

def coefCancellerRule (t : Tile) (g : Tag) (b : Bytes) : Rule := coefItem 3 t g b

def coefFirRule (t : Tile) (g : Tag) (b : Bytes) : Rule := coefItem 4 t g b

def coefCfrPulseRule (t : Tile) (g : Tag) (b : Bytes) : Rule := coefItem 5 t g b

/-- An FE_CTL item: queued, and what it asks for is placed at once (R270, R271, R275). -/
def feItem (flag : Nat) (t : Tile) (g : Tag) (b : Bytes) : Rule :=
  let it := mkItem kFeCtl g (setPay b flag 1 1)
  ⟨fun s => s.passes .fe t.val it && s.onTime .fe t.val it,
   fun s => (s.queued .fe t.val it).scheduleFe (s.waiting .fe t.val it)⟩

/-! ### FE_CTL items (R270-R275). -/

def feRxonRule (t : Tile) (g : Tag) (b : Bytes) : Rule := feItem 4 t g b

def feRxoffRule (t : Tile) (g : Tag) (b : Bytes) : Rule := feItem 5 t g b

def feLoopbackRule (t : Tile) (g : Tag) (b : Bytes) : Rule := feItem 8 t g b

def feLbrelRule (t : Tile) (g : Tag) (b : Bytes) : Rule := feItem 9 t g b

def feRxcalRule (t : Tile) (g : Tag) (b : Bytes) : Rule := feItem 10 t g b

def feTuneRule (t : Tile) (g : Tag) (b : Bytes) : Rule := feItem 11 t g b

def rffeGroupRule (t : Tile) (g : Tag) (b : Bytes) : Rule := feItem 12 t g b

/-- The mode lets the item in: every item that is not the baseband's, and the baseband's where the mode takes them (R553). -/
def State.admits (s : State) (g : Tag) : Bool := !(g.source = 8) || s.basebandTaken

/-! Data blocks of the baseband (R82, R104): kept for their symbol or span, and standing for the swap their tag names (R55). -/

def fdDataRule (g : Tag) (b : Bytes) : Rule :=
  let it := mkItem kFdData g b
  let c := g.carrier.toNat
  ⟨fun s => s.admits g && s.passes .bf 0 it && fdForm it && (s.fftAt .tx c (fullTick g.air s.now)).isSymStart (fullTick g.air s.now) &&
     !(s.islCarAt .tx c (fullTick g.air s.now)).tdmode &&
     !((s.declsAt c g.air).any fun d => fld d.record 0 12 = fdSect b && !declHolds d.record b) &&
     !g.late && !g.damaged && decide ((s.minLeadFor .bf 0 it 0 : Int) ≤ lead g.air s.now),
   fun s => ({ s.took .bf 0 it with queue := insertItem ⟨.bf, 0, it, g.air, false, 0⟩ s.queue } : State).tagSwap allTiles 0xFFFF 0 it.tag⟩

def tdDataRule (g : Tag) (b : Bytes) : Rule :=
  let it := mkItem kTdData g b
  let c := g.carrier.toNat
  let t := tileOfPath (tdPath b)
  ⟨fun s => s.admits g && s.passes .flt t it && tdForm it && (s.carAt t .tx c (fullTick g.air s.now)).tdmode && !g.late && !g.damaged &&
     decide (32768 ≤ lead g.air s.now) && (s.tdSpans.all fun x => !(x.path = tdPath b && x.car = c &&
       decide (airDiff g.air x.air < x.len) && decide (airDiff x.air g.air < s.tdTicks c (tdLen b) (fullTick g.air s.now)))),
   fun s =>
     let span : TdSpan := { path := tdPath b, car := c, air := g.air, len := s.tdTicks c (tdLen b) (fullTick g.air s.now)
                            iq := iqList b 8 (tdLen b), tag := it.tag }
     ({ s.took .flt t it with
        tdSpans := insertSpan span (s.tdSpans.filter fun (x : TdSpan) => decide (lead x.air s.now > -(2 ^ 26 : Int)))
        queue := insertItem ⟨.flt, t, it, g.air, false, 0⟩ s.queue } : State).tagSwap [t] (2 ^ (tdPath b % 16)) (tdPath b + 1) it.tag⟩

/-- The section record of a declaration. -/
def declRecord (b : Bytes) : BitVec 128 := sectionRecord (b.drop 8)

/-! ### Declarations, sounding windows and commits at the beamformer (R76-R78, R168, R231). -/

def beamSelDeclarationRule (g : Tag) (b : Bytes) : Rule :=
  let it := mkItem kBeamSel g (rowPay b 0 2 2 0)
  let r := declRecord it.body
  let d := dirOf (fld r 30 1)
  ⟨fun s => s.passes .bf 0 it && (s.lateBy .bf 0 it).isNone && s.declFits it &&
     decide (s.chargeOf d g.air + declCharge r ≤ 2981888),
   fun s => { s.took .bf 0 it with
     charges := tput (fun _ => 0) (windowKey d (fullTick g.air s.now)) (s.chargeOf d g.air + declCharge r) s.charges
     decls := (s.decls.filter fun x => decide (lead x.air s.now > -(2 ^ 26 : Int))) ++
       [⟨d, g.carrier.toNat, g.air, g.mu.toNat, it.tag, r, it.body.drop 24, false⟩] }⟩

def soundingWindowRule (g : Tag) (b : Bytes) : Rule :=
  let it := mkItem kBeamSel g (rowPay b 0 2 2 1)
  ⟨fun s => s.passes .bf 0 it && (s.lateBy .bf 0 it).isNone && s.winFits it &&
     decide (tget (fun _ => 0) s.srsCharges (windowKey .rx (fullTick g.air s.now)) +
       winRes it.body * popCount (winMask it.body) 64 ≤ 1048576),
   fun s =>
     let k := windowKey .rx (fullTick g.air s.now)
     { s.took .bf 0 it with
       srsCharges := tput (fun _ => 0) k (tget (fun _ => 0) s.srsCharges k + winRes it.body * popCount (winMask it.body) 64) s.srsCharges
       rx := { s.rx with wins := s.rx.wins ++ [⟨g.carrier.toNat, g.air, it.tag, it.body⟩] } }⟩

def beamCommitRule (g : Tag) (b : Bytes) : Rule :=
  let it := mkItem kBeamCommit g b
  let r := if pbit b 2 then Region.engine else .baseband
  let bank := bankOf g.bank.toNat
  ⟨fun s => s.passes .bf 0 it && !g.late &&
     ((commitDirs b).all fun d => (s.lateBy .bf 0 (commitFor it d)).isNone) &&
     ((commitDirs b).all fun d => (s.regionSt d r).fate bank = .accepted),
   fun s => (commitDirs b).foldl (fun s d => (s.commitOne d r bank g.air it.tag none).1) (s.took .bf 0 it)⟩

/-! A SECTION that link ingress takes on time goes into the queue of every sequencer its route names (R304); a partial sum of a
declared block that has not left waits for the own block (R176); an LNA step waits with its RFFE write placed (R159); a
SYNC_RESET on its air time waits for its reset tick (R218). -/

def sectionItemRule (g : Tag) (b : Bytes) : Rule :=
  let it := mkItem kSection g b
  let r := sectionRecord b
  ⟨fun s => s.admits g && s.passes .lnk 0 it && decide (16 ≤ b.length) &&
     (r.getLsbD 30 || decide ((s.ingressLead it : Int) ≤ lead g.air s.now)),
   fun s => (bitsSet (fld (s.reg64 rSectroute) (5 * (2 * fld r 12 2 + fld r 30 1)) 5) 5).foldl
     (fun s k => s.queueSection it k) (s.took .lnk 0 it)⟩

def ulPartialRule (g : Tag) (b : Bytes) : Rule :=
  let it := mkItem kUlPartial g b
  let k := partKey it
  ⟨fun s => s.passes .lnk 0 it && s.waitsPartials && partialForm it && !(s.rx.sent.contains k) &&
     (s.rx.own.all fun x => !(ulKey x.blk = k)) && (s.ulDecl k).isSome,
   fun s => { s.took .lnk 0 it with
     rx := { s.rx with parts := (s.rx.parts.filter fun (x : Item) => decide (lead x.tag.air s.now > -(2 ^ 26 : Int))) ++ [it] } }⟩

def lnaStepRule (t : Tile) (g : Tag) (b : Bytes) : Rule :=
  let it := mkItem kGain g (setPay b 18 1 1)
  let ps := tileMaskPaths t.val (pbits it.body 0 16)
  ⟨fun s => s.passes .flt t.val it && decide (g.source.toNat = t.val) && !g.late &&
     (s.fftAt .rx g.carrier.toNat (fullTick g.air s.now)).isSymStart (fullTick g.air s.now) &&
     decide ((max 16384 (8192 + s.pathsRxAdv ps) : Nat) ≤ lead g.air s.now) &&
     (s.placeLna t.val ps (fullTick g.air s.now) it.tag).2,
   fun s =>
     let (u, _) := (s.took .flt t.val it).placeLna t.val ps (fullTick g.air s.now) it.tag
     { u with queue := insertItem (s.waiting .flt t.val it) u.queue }⟩

def syncResetRule (t : Tile) (g : Tag) (b : Bytes) : Rule :=
  let it := mkItem kSyncReset g b
  let t0 := fun (s : State) => if pbit b 6 then s.gridTick (fullTick g.air s.now) else some (fullTick g.air s.now)
  let named := (if pbit b 0 then [Dir.tx] else []) ++ (if pbit b 1 then [Dir.rx] else [])
  ⟨fun s => s.passes .flt t.val it && !named.isEmpty && !g.late &&
     (named.all fun d => decide (((leadRow .flt d).1 : Int) ≤ lead g.air s.now)) &&
     (match t0 s with
       | some x => decide (x - fullTick g.air s.now ≤ 2 ^ 24)
       | none => false),
   fun s => { s.took .flt t.val it with
     rx := { s.rx with syncs := s.rx.syncs ++ [⟨t.val, ((t0 s).getD 0).toNat, named, pbits b 2 4, it.tag⟩] } }⟩

/-! ## STOP, squash, capture, and items that take effect -/

/-! A squash that is late for no carrier: at its stage everything of the stream, at or after its air time and with an older
epoch, is discarded and counted; the rule stays in force, and the item passes on (R64, R70, R127, R183, R230). -/

def squashItemRule (p : Port) (t : Tile) (g : Tag) (b : Bytes) : Rule :=
  let it := mkItem kSquash g b
  let k := portTile p t.val
  let hits := squashHits it.tag
  ⟨fun s => s.passes p k it && !g.late && (s.lateCars p k it).isEmpty,
   fun s =>
     let s := (s.took p k it).discardQueued p k fun x => hits x.item.tag
     let s := (s.squashFns p k hits).squashPend p k hits
     let s := match p with
       | .bf => ((s.discardDecls fun d => hits d.tag).discardWins fun w => hits w.tag).discardCommits fun _ c => hits c.tag
       | .cap => s.capDiscard hits
       | .flt =>
         let live := fun (y : SyncReset) => !y.dirs.isEmpty
         let gone := fun (y : SyncReset) => y.tile = k && hits y.tag
         let n := (s.rx.syncs.filter fun y => live y && gone y).length
         (({ s with rx := { s.rx with syncs := s.rx.syncs.filter fun y => live y && !gone y } } : State).bumpBy
           (domCounter .flt k .discard) n).discardSpans k fun x => hits x.tag
       | _ => s
     let r : SquashRule := ⟨p, k, g.stream, g.air, g.epoch⟩
     let s : State := if s.squashes.contains r then s else { s with squashes := s.squashes ++ [r] }
     s.emitOut (.block (portNum p) it.tag [])⟩

/-! ### STOP items and resumes (R68-R71, R106, R181) -/

/-- A STOP item: each function it names stops at the item's AIRTIME, or, LATE, at the arrival plus the minimum lead (R68, R69). -/
def stopItem (p : Port) (t : Tile) (b : Bytes) (g : Tag) : Rule :=
  let it := mkItem kStop g b
  let k := portTile p t.val
  ⟨fun s => s.passes p k it && !pbit b 0,
   fun s =>
     let late := if g.late then none else s.lateBy p k it
     let air := match late with
       | none => g.air
       | some m => airOf ((s.now.toNat : Int) + m)
     let u := match late with
       | none => s.took p k it
       | some _ => (s.took p k it).bump (domCounter p k .latecnt)
     (stopFuncs b).foldl (fun u f =>
       if isPathFn f then u.stopPaths f ⟨{ it.tag with air := air }, b⟩ else u.stopFn p k f ⟨{ it.tag with air := air }, b⟩) u⟩

def stopRule (p : Port) (t : Tile) (g : Tag) (b : Bytes) : Rule := stopItem p t (setPay b 0 1 0) g

def pathtxStopRule (p : Port) (t : Tile) (g : Tag) (b : Bytes) : Rule := stopItem p t (setPay (setPay b 0 1 0) 32 32 (2 ^ 17)) g

def pathrxStopRule (p : Port) (t : Tile) (g : Tag) (b : Bytes) : Rule := stopItem p t (setPay (setPay b 0 1 0) 32 32 (2 ^ 18)) g

/-- A resume item on time, from a source that may resume: QUIESCENT is clear at once, and the item waits for its AIRTIME (R71). -/
def stopResumeRule (p : Port) (t : Tile) (g : Tag) (b : Bytes) : Rule :=
  let it := mkItem kStop g (setPay b 0 1 1)
  let k := portTile p t.val
  ⟨fun s => s.passes p k it && s.onTime p k it && pbit it.body 0 && s.resumeAllowed k it.body g.source,
   fun s => ((resumeFns k it.body).foldl (fun s x =>
       s.setFn x.1 x.2 { s.fnOf x.1 x.2 with quiet := false, resumeAt := some g.air, resumeTag := it.tag })
     (s.took p k it)).enqueue (s.waiting p k it)⟩

/-- A start item of the capture engines: its descriptor is read and fits, and the engine is free (R506-R508). -/
def capStarts (play : Bool) (g : Tag) (b : Bytes) : Rule :=
  let it := mkItem kCapCtl g (setPay b 0 2 (if play then 2 else 0))
  let e := pbits it.body 2 4
  let tap := pbits it.body 6 8
  let a := pbits it.body 64 40
  ⟨fun s => s.passes .cap 0 it && s.onTime .cap 0 it &&
     (match (s.took .cap 0 it).readDesc a with
       | (some d, u) => !u.capBusy e && descOk tap d && u.capAdmits tap (descOf d) &&
           (!play || tapPlays tap && (u.mode.mode = .test || u.mode.mode = .maintenance))
       | (none, _) => false),
   fun s =>
     let (d, u) := (s.took .cap 0 it).readDesc a
     u.setCap e { state := .armed, play := play, tap := BitVec.ofNat 8 tap, desc := descOf (d.getD []), tag := it.tag
                  from_ := g.air, late := false }⟩

/-- A stop item for an engine that is busy (R508). -/
def capStops (play : Bool) (g : Tag) (b : Bytes) : Rule :=
  let it := mkItem kCapCtl g (setPay b 0 2 (if play then 3 else 1))
  let e := pbits it.body 2 4
  ⟨fun s => s.passes .cap 0 it && s.onTime .cap 0 it && (s.capOf e).play = play && s.capBusy e,
   fun s => (s.took .cap 0 it).setCap e { s.capOf e with stop := some it.tag }⟩

/-! ### Capture and playback items, and the records that pass (R505-R511). -/

def captureStartRule (g : Tag) (b : Bytes) : Rule := capStarts false g b

def captureStopRule (g : Tag) (b : Bytes) : Rule := capStops false g b

def playbackStartRule (g : Tag) (b : Bytes) : Rule := capStarts true g b

def playbackStopRule (g : Tag) (b : Bytes) : Rule := capStops true g b

/-- The block of a unit at an engine that has no stop time behind it, in the order of R508; at a receiver's tap the block that waits
longest (R135). The record is stored at the position the buffer gives it, from the start again where a ring buffer is full; a one-shot
buffer is not full yet. -/
def captureRecordRule (e : Cap) (g : Tag) (unit : BitVec 6) (rails : Rails) (space : Bool) : Rule :=
  ⟨fun s =>
     let x := s.capOf e.val
     match x.passing g unit.toNat rails with
     | none => false
     | some (g, k, _) =>
       !x.play && (x.state = .armed || x.state = .running) && x.serves g k && x.ahead g k &&
       decide (0 ≤ airDiff g.air x.from_) && s.tapReady x g &&
       (match x.stop with
         | some h => decide (airDiff g.air h.air < 0)
         | none => true) &&
       space && decide (recBytes x.desc ≤ x.desc.size) &&
       (x.desc.ring || x.period = some g.air || decide (x.pos + x.periodRecords g * recBytes x.desc ≤ x.desc.size)),
   fun s =>
     match (s.capOf e.val).passing g unit.toNat rails with
     | none => s
     | some (g, k, rails) =>
       let x : CapSt := { s.capOf e.val with
         state := .running, period := some g.air, unitAt := k + 1, blocks := (s.capOf e.val).blocks.drop 1 }
       let u := s.setCap e.val x
       let (h, r) := u.tapBlock x g k rails
       u.capStore e.val x (if x.pos + recBytes x.desc > x.desc.size then 0 else x.pos) (capRecord x h k r)⟩

def playbackRecordRule (e : Cap) : Rule :=
  ⟨fun s =>
     let x := s.capOf e.val
     x.play && (x.state = .armed || x.state = .running) && (s.playRead x).1.isSome,
   fun s => let (b, u) := s.playRead (s.capOf e.val); u.playIssue e.val (s.capOf e.val) (b.getD [])⟩

/-- The stage's due item, alone in what it sets, takes effect and leaves the queue (R50, R56, R57). -/
def applies (p : Port) (t : Nat) (late : Bool) : Rule :=
  ⟨fun s => !s.gated p t && !s.portFenced p t &&
     (match s.dueItem p t late with
       | some x => s.firstOfConflict x = x && !s.conflicts x
       | none => false),
   fun s => match s.dueItem p t late with
     | some x => ({ s with queue := dropItem x s.queue } : State).applyItem x
     | none => s⟩

def itemApplyRule (p : Port) (t : Tile) : Rule := applies p (portTile p t.val) false

def lateItemApplyRule (p : Port) (t : Tile) : Rule := applies p (portTile p t.val) true

/-- What four kinds of item set when they take effect: the window of a carrier (R88), the crest-factor reduction of a tile
(R97), the digital gain of paths (R89); a marker passes on unchanged (R40). -/
def appliedValues (x : QItem) (s : State) : Option State :=
  let b := x.item.body
  let c := x.item.tag.carrier.toNat
  if x.item.tag.kind = kWola then
    some { s with wolas := tput (fun _ => {}) c ⟨pbits b 0 9, pbit b 9⟩ s.wolas }
  else if x.item.tag.kind = kCfrCfg then
    let v := ⟨pbits b 0 2, pbits b 2 5, bankOf (pbits b 7 1), pbits b 8 4, BitVec.ofNat 16 (pbits b 16 16)⟩
    some { s with cfrs := tput (fun _ => {}) x.tile v s.cfrs }
  else if x.item.tag.kind = kGain then
    if pbit b 16 then none
    else some ((tileMaskPaths x.item.tag.source.toNat (pbits b 0 16)).foldl
      (fun s p => s.setGain .tx p c (BitVec.ofNat 16 (pbits b 32 16))) s)
  else if x.item.tag.kind = kMarker then some (s.emitOut (.block (portNum x.port) x.item.tag b))
  else none

/-! ### A function's stop time, its quiescence, and what follows from paths leaving service (R68, R106, R181). -/

def stopTimeReachedRule (f : FnCode) (t : Tile) : Rule :=
  let k := fnTile f.val t.val
  ⟨fun s => match (s.fnOf f.val k).stopAt with
     | some a => decide (lead a s.now ≤ 0)
     | none => false,
   fun s =>
     let x := s.fnOf f.val k
     if isPathFn f.val then
       let due := fun (y : PathStop) => y.rx = decide (f.val = 18) && decide (lead y.tag.air s.now ≤ 0)
       (s.pathStops.filter due).foldl (fun s y => s.pathsOut y.rx y.mask (fullTick y.tag.air s.now) y.tag.source)
         { s.setFn f.val k { x with stopped := true } with pathStops := s.pathStops.filter fun y => !due y }
     else
       let g := ((x.stops.find? fun y => y.tag.air = x.stopAt.getD 0).map StopReq.tag).getD x.stopTag
       let u := s.setFn f.val k { x with stopped := true, stopTag := g }
       if f.val = 19 then u.capEnd g.source else u⟩

/-- What waits on a path function's STOPs whose time lies ahead, and no other's (R106). -/
def stopWaits (f : Nat) (s : State) (y : StopReq) : Bool := isPathFn f && decide (lead y.tag.air s.now > 0)

def quiescenceRule (f : FnCode) (t : Tile) : Rule :=
  let k := fnTile f.val t.val
  ⟨fun s =>
     let x := s.fnOf f.val k
     x.stopped && x.stops.any (fun y => !stopWaits f.val s y) &&
     (if isPathFn f.val then
       (x.stops.all fun y => stopWaits f.val s y || !s.stillRuns f.val k (stopMask y.body) y.tag.air) &&
         s.pathStops.all fun y => !(y.rx = decide (f.val = 18)) || decide (lead y.tag.air s.now > 0)
      else !s.stillRuns f.val k 0 (x.stopAt.getD 0)),
   fun s =>
     let x := s.fnOf f.val k
     (s.setFn f.val k { x with quiet := x.resumeAt.isNone, stops := x.stops.filter (stopWaits f.val s) }).signalAll
       ((x.stops.filter fun y => !stopWaits f.val s y && y.event).map fun y => quietEvent y.tag.source)⟩

def pathPowerDownRule (p : Path) : Rule :=
  ⟨fun s => s.rxOut.getLsbD p.val && !s.adcOff.getLsbD p.val,
   fun s => ({ s with adcOff := s.adcOff ||| bit64 p.val } : State).safetySeq p.val true⟩

def pathPowerDownTxRule (p : Path) : Rule :=
  ⟨fun s => s.txOut.getLsbD p.val && !s.dacOff.getLsbD p.val &&
     !((s.txSpans p.val).any fun x => decide (x.1 < ((tget (fun _ => 0) s.fe.outAt p.val : Nat) : Int)) && decide ((s.now.toNat : Int) < x.2)),
   fun s => ({ s with dacOff := s.dacOff ||| bit64 p.val } : State).safetySeq p.val false⟩

def syncResetT0Rule (t : Tile) : Rule :=
  let due := fun (s : State) (y : SyncReset) => y.tile = t.val && decide (y.t0 ≤ s.now.toNat)
  ⟨fun s => s.rx.syncs.any (due s),
   fun s =>
     let df := fun (d : Dir) (c : Nat) => if (s.carOf t.val d c).on && !s.fnStopped 9 t.val then s.chainDf t.val d c else 0
     let spans := (s.rx.syncs.filter (due s)).flatMap fun y => y.dirs.flatMap fun d => (bitsSet y.cars 4).map fun c =>
       ({ tile := t.val, dir := d, car := c, lo := y.t0 - (df d c : Int), hi := y.t0 + (df d c : Int), t0 := y.t0 } : WarmSpan)
     { s with rx := { s.rx with
         syncs := s.rx.syncs.filter fun y => !due s y
         warm := (s.rx.warm.filter fun w => decide ((s.now.toNat : Int) - 2 ^ 26 < w.hi)) ++ spans } }⟩

def cancellerOffTailEndRule (p : Path) : Rule :=
  ⟨fun s => match tget (fun _ => none) s.lin.sicOff p.val with
     | some e => decide (e ≤ s.now.toNat)
     | none => false,
   fun s => (s.setSicOff p.val none).setSicOn p.val false⟩

def fadeEndRule (f : FadeId) : Rule :=
  ⟨fun s => match (s.selOf (selKey f)).fade with
     | some d => decide (d.start + 2 ^ d.k * s.fadeTick f ≤ s.now.toNat) && (s.selOf (selKey f)).pend.isNone
     | none => false,
   fun s => s.setSel (selKey f) { s.selOf (selKey f) with fade := none, pend := none }⟩

def recordLineFailureRule (r : RecId) : Rule :=
  ⟨always, fun s =>
     let u := if s.inUse r then s.damaged else s
     match r with
     | .cfr _ _ => u.setRec r { s.recOf r with lost := true }
     | _ => u.setRec r { s.recOf r with rebuilding := true }⟩

def recordRebuildRule (r : RecId) : Rule := ⟨fun s => (s.recOf r).rebuilding, fun s => s.rebuild r⟩

/-! ## Beam tables, receive results and observation -/

/-- The entries that a write of `n` bytes at an offset of a bank touches (R224). -/
def touched (off n : Nat) : List Nat := (List.range ((off + n + 271) / 272 - off / 272)).map (off / 272 + ·)

/-- A unit's register answers: its unit is not fenced, and the block of registers answers (R33, R36). -/
def State.unitTakes (s : State) (off : Nat) : Bool := !s.regFenced off && s.blocksOn

/-- A vector core writes BEAM_ECQ: an engine commit joins the queue (R239). -/
def ecqWriteRule (w : Initiator) (v : BitVec 64) : Rule :=
  let g : Tag := sealTag { air := v.truncate 40, stream := BitVec.ofNat 8 (160 + fld v 43 3), kind := kEngineCommit
                           carrier := BitVec.ofNat 2 (fld v 49 2), bank := BitVec.ofNat 1 (fld v 42 1)
                           mu := BitVec.ofNat 3 (fld v 46 3), length := 8, source := 5 }
  let core := match w with
    | .vc n => some n.val
    | _ => none
  ⟨fun s => core.isSome && s.unitTakes 0x40020 && decide (fld v 40 2 ≠ 0) && decide (fld v 46 3 ≤ 4) && decide (fld v 51 13 = 0) &&
     decide (s.beam.ecq.length < 16),
   fun s => ({ s with beam := { s.beam with ecq := s.beam.ecq ++ [⟨core.getD 0, ⟨g, leBytes 8 (fld v 40 2), 0⟩⟩] } } : State).done⟩

/-! ### An engine commit at the beamformer (R231, R240). -/

def engineCommitRule : Rule :=
  ⟨fun s => match s.beam.ecq with
     | e :: _ =>
       !s.gated .bf 0 && s.passes .bf 0 e.item &&
       ((commitDirs e.item.body).all fun d => (s.lateBy .bf 0 (commitFor e.item d)).isNone) &&
       ((commitDirs e.item.body).all fun d => (s.regionSt d .engine).fate (bankOf e.item.tag.bank.toNat) = .accepted)
     | [] => false,
   fun s => match s.beam.ecq with
     | e :: es =>
       (commitDirs e.item.body).foldl
         (fun s d => (s.commitOne d .engine (bankOf e.item.tag.bank.toNat) e.item.tag.air e.item.tag (some e.core)).1)
         (({ s with beam := { s.beam with ecq := es } } : State).took .bf 0 e.item)
     | [] => s⟩

/-! ### Beam tables: writes, builds, banks, and entries that fail their check (R227-R240, R248). -/

def beamEcqWriteRule (w : Initiator) (v : BitVec 64) : Rule := ecqWriteRule w v

def beamTableWriteRule (w : Initiator) (a : Addr) (b : Bytes) : Rule :=
  let off := fun (d : Dir) (k : Bank) => a.toNat - beamBase d k
  let written := fun (s : State) (d : Dir) (k : Bank) => do
    let u ← (s.mendEntries d k (off d k) b.length).memWrite (beamBase d k + off d k) b
    let u ← u.memWrite (s.masterAddr d k 0 + off d k) b
    u.memWrite (s.masterAddr d k 0 + off d k + 0x100000000) b
  ⟨fun s => match accessRegion a.toNat b.length with
     | some (.beam d k) =>
       s.memPowered (.beam d k) && !s.memFenced (.beam d k) && s.memPowered .dram && !s.memFenced .dram &&
       ((touched (off d k) b.length).all fun e =>
         regionTakes (s.regionOfEntry d e) w && (s.regionSt d (s.regionOfEntry d e)).bankSt k = .free) &&
       decide (s.masterAddr d k 0 + off d k + b.length ≤ 0x100000000) && (written s d k).isSome
     | _ => false,
   fun s => match accessRegion a.toNat b.length with
     | some (.beam d k) =>
       ((touched (off d k) b.length).foldl (fun u e => u.setDirty d k e true) ((written s d k).getD s)).done
     | _ => s⟩

def buildCompleteRule (d : Dir) : Rule :=
  ⟨fun s => match s.running d with
     | some (_, c) => decide (c.began + 8 * c.count ≤ s.now.toNat)
     | none => false,
   fun s => match s.running d with
     | some (r, c) =>
       let u := s.runBuild d r c c.count
       u.setRegion d r { ((u.regionSt d r).setRec c.bank c.state) with pend := some { c with built := true } }
     | none => s⟩

/-- The pending commit of a region whose build does not end by its deadline (R235). -/
def State.overruns (s : State) (d : Dir) (r : Region) : Bool :=
  match (s.regionSt d r).pend with
  | some c => !c.built && decide (lead c.air s.now ≤ (s.buildLead d c : Int)) &&
    decide (fullTick c.air s.now - s.buildLead d c < (c.began + 8 * c.count : Nat))
  | none => false

/-- An overrun is counted as late. A receive commit, and an engine's, is abandoned; a transmit one goes to the first symbol with lead,
marked LATE, and what lies before it is blank (R50, R51, R235, R240). -/
def State.overrun (s : State) (d : Dir) (r : Region) : State :=
  match (s.regionSt d r).pend with
  | none => s
  | some c =>
    let u := (s.bump (cBeam 11)).bump (cBeam 1)
    let car := c.tag.carrier.toNat
    let to_ := u.firstWithLead .tx car (u.buildLead d c + 1)
    match c.core, d with
    | some n, _ => (u.abandonCommit d r).engineLate n
    | none, .rx => u.abandonCommit d r
    | none, .tx =>
      let u := if (u.fftAt .tx car (fullTick c.air u.now)).cfg.isSome then u.blankSpan 0xFFFF allTiles car (fullTick c.air u.now) to_ else u
      u.setRegion d r { u.regionSt d r with pend := some { c with air := airOf to_, tag := sealTag { c.tag with late := true } } }

def buildOverrunRule (d : Dir) : Rule :=
  ⟨fun s => s.overruns d .baseband || s.overruns d .engine,
   fun s => ([Region.baseband, Region.engine].filter (s.overruns d)).foldl (fun s r => s.overrun d r) s⟩

/-- The commit's bank goes LIVE and the other one HELD; the downlink symbols from its time on whose data was judged before it was built
are formed with it (R85, R230). -/
def bankLiveRule (d : Dir) (r : Region) : Rule :=
  ⟨fun s => match (s.regionSt d r).pend with
     | some c => c.built &&
         decide (s.firstSymAny d c.air - (match d with | .tx => (s.buildLead d c : Int) | .rx => 0) ≤ (s.now.toNat : Int))
     | none => false,
   fun s => match (s.regionSt d r).pend with
     | some c =>
       let x := s.regionSt d r
       let x := if x.bankSt (bankOther c.bank) = .live then x.setBank (bankOther c.bank) .held else x
       let u := s.setRegion d r { (x.setBank c.bank .live) with pend := none, heldT := c.air }
       if d = .tx then u.reform s (fullTick c.air s.now) else u
     | none => s⟩

def bankReleaseRule (d : Dir) (r : Region) : Rule :=
  ⟨fun s => !(d = .rx) || decide (lead (s.regionSt d r).heldT s.now ≤ 0),
   fun s =>
     let x := s.regionSt d r
     s.setRegion d r { x with a := if x.a = .held then .free else x.a, b := if x.b = .held then .free else x.b }⟩

def entryLineFailureRule (d : Dir) (b : Bank) (e : Entry) : Rule :=
  ⟨fun s => !(s.beam.failing.contains (dirtyKey d b e.val)),
   fun s => { s with beam := { s.beam with failing := s.beam.failing ++ [dirtyKey d b e.val] } }⟩

def entryRefetchCompleteRule (d : Dir) (b : Bank) (e : Entry) : Rule :=
  let k := dirtyKey d b e.val
  ⟨fun s => s.beam.failing.contains k && (s.readEntryMaster d b e.val).1.isSome,
   fun s =>
     let u : State := { s with beam := { s.beam with failing := s.beam.failing.filter (· ≠ k) } }
     let x := s.regionSt d (s.regionOfEntry d e.val)
     let u := u.buildOne d b (x.recState b)
       ((x.bankSt b = .free || x.bankSt b = .committing) && s.isDirty d b e.val) e.val
     (u.bump (cMem 2)).signal 106⟩

def beamAlignWriteRule (d : Dir) (p : Path) (v : BitVec 32) : Rule :=
  let r := rBeamAlign (dirNum d) p.val
  let gen := rBeamAligngen (dirNum d)
  ⟨fun s => s.unitTakes 0x40400 && (s.running d).isNone,
   fun s =>
     let u := if s.reg r ≠ v then s.setReg gen (BitVec.ofNat 32 (((s.reg gen).toNat + 1) % 65536)) else s
     (u.setReg r v).done⟩

/-! At the beamformer's minimum lead a symbol's declarations are judged: a block outside them is discarded and counted, an RB that
is missing is counted and blanks the symbol, one that came twice, of blocks or of a block and playback, is counted; with none missing
the symbol is formed, and entries that contribute zero are counted (R82-R87). -/

def missingDataDeadlineRule (c : Carrier) (a : Air) : Rule :=
  let at_ := fun (s : State) => fullTick a s.now
  let m := fun (s : State) => 131072 + s.tsymOf .tx c.val (s.fftAt .tx c.val (at_ s)).mu a
  let here := fun (s : State) => processed ((s.queue.filter (isFdOf c.val a)).map QItem.item)
  let blocks := fun (s : State) => (here s).filter fun i => (s.declsAt c.val a).any fun d => declHolds d.record i.body
  let ds := fun (s : State) => (s.declsAt c.val a).filter fun d => !d.judged
  ⟨fun s => decide (lead a s.now ≤ (m s : Int)),
   fun s =>
     let outside := (here s).length - (blocks s).length
     let miss := ((ds s).map fun d => s.missing c.val (at_ s) d.record (blocks s)).sum
     let repl := ((ds s).map fun d => replacedRbs d.record (blocks s) + s.playedOver c.val (at_ s) d.record (blocks s)).sum
     let bad := ((ds s).map fun d => s.badUses d (blocks s)).sum
     let u : State := { s with
       queue := s.queue.filter fun x => !isFdOf c.val a x
       decls := s.decls.map fun d => if d ∈ ds s then { d with judged := true } else d }
     let u := ((u.bumpBy (cBeam 2) outside).bumpBy (cBeam 4) miss).bumpBy (cBeam 5) repl
     if (ds s).isEmpty then u
     else if miss = 0 then (u.countBadUses bad).keepSym (s.formSym (s.declsAt c.val a) (blocks s) c.val (at_ s))
     else u.blankSym allTiles c.val a⟩

/-! ### Layer blocks, sounding blocks and observation results (R131-R134, R151, R170, R176-R178, R197). -/

/-! A declared layer block leaves the combiner once its symbol is in: alone where no partials are awaited, with the partial that has
come, or it waits for one while the port below is up (R174, R176-R178, R185). -/

def ulBlockReadyRule (b : UlName) : Rule :=
  let k := nameKey b
  ⟨fun s => (s.ulDecl k).isSome && s.symDone b.carrier.val b.air && !(s.rx.sent.contains k) &&
     s.rx.own.all fun x => !(ulKey x.blk = k),
   fun s => match s.ulDecl k with
     | some d =>
       let (x, bad, sat) := s.ownBlock d b
       let u := ((s.countBadUses bad).bumpBy (cBeam 3) sat).checkSbfd d b
       if !s.waitsPartials then (u.sendUl x 0 (u.ulLast k)).ulSent k
       else
         match s.rx.parts.find? fun p => partKey p = k with
         | some p => ({ u with rx := { u.rx with parts := u.rx.parts.erase p } } : State).sendSum x p
         | none => if u.portUp 1 then { u with rx := { u.rx with own := u.rx.own ++ [⟨x, u.now.toNat⟩] } } else u.sendAlone x
     | none => s⟩

def holdExpiryRule (i : Nat) : Rule :=
  ⟨fun s => match s.rx.own[i]? with
     | some x => decide (x.since + s.holdTk ≤ s.now.toNat)
     | none => false,
   fun s => match s.rx.own[i]? with
     | some x => ({ s with rx := { s.rx with own := s.rx.own.eraseIdx i } } : State).sendAlone x.blk
     | none => s⟩

/-! The blocks of a sounding window's paths in service, once its symbol is in: to a vector core's ring, to the baseband, or both
(R168, R170, R171). -/

def soundingBlocksRule (c : Carrier) (winid : BitVec 4) (damaged : Bool) : Rule :=
  let find := fun (s : State) => s.rx.wins.find? fun w => w.car = c.val && pbits w.body 64 4 = winid.toNat
  ⟨fun s => match find s with
     | some w => s.symDone c.val w.air
     | none => false,
   fun s => match find s with
     | some w =>
       let ps := (bitsSet (winMask w.body) 64).filter fun p => !(s.settingsAt (fullTick w.air s.now)).rxOut.getLsbD p
       let made := ps.mapIdx fun i p => s.srsBlock w damaged p (i + 1 = ps.length)
       let u : State := { s with rx := { s.rx with wins := s.rx.wins.erase w } }
       let u := u.bumpBy (cBeam 3) (made.map Prod.snd).sum
       let u := if pbits w.body 79 2 = 1 then u
         else u.ringPut (fld (u.reg rSrsring) 0 4) (fld (u.reg rSrsbase) 0 21) (fld (u.reg rSrsring) 4 4) rSrswptr rSrsrptr (cBeam 12)
           (made.map fun x => tagBytes x.1.1 ++ x.1.2)
       if pbits w.body 79 2 = 0 then u else made.foldl (fun u x => u.sendTagged (some c.val) 2 x.1.1 x.1.2) u
     | none => s⟩

/-! A DC estimate of more than 24 LSB moves its rail's servo code by one, and the estimate with it by 32 LSB, 65,536 tk or more after
the last step (R151). -/

def dcServoStepRule (p : Path) (rail : Rail) : Rule :=
  let k := 2 * p.val + (match rail with | .I => 0 | .Q => 1)
  let x := fun (s : State) => s.dcOf p.val (s.lnaStep p.val)
  let est : State → BitVec 32 := fun s => match rail with | .I => (x s).estI | .Q => (x s).estQ
  let up : State → Bool := fun s => decide ((0 : Int) < (est s).toInt)
  let code : State → Int := fun s => (match rail with | .I => (x s).codeI | .Q => (x s).codeQ) + (if up s then 1 else -1)
  ⟨fun s => !s.dcFrozen p.val && s.servoEn (tileOfPath p.val) && decide (24 * 65536 < (est s).toInt.natAbs) &&
     (match tget (fun _ => none) s.rx.servoAt k with
       | some a => decide (a + 65536 ≤ s.now.toNat)
       | none => true) && decide (-128 ≤ code s ∧ code s ≤ 127),
   fun s =>
     let d' := if up s then est s - 0x200000 else est s + 0x200000
     let y : DcSt := match rail with
       | .I => { x s with codeI := code s, estI := d' }
       | .Q => { x s with codeQ := code s, estQ := d' }
     let u := s.setDc p.val (s.lnaStep p.val) y
     { u with rx := { u.rx with servoAt := tput (fun _ => none) k (some s.now.toNat) u.rx.servoAt } }⟩

/-! The entry that holds the present tick begins: the one before is left, a reverse entry drives its quad's coupler, and of two
entries that clash there the other's output is discarded (R131, R132, R278). -/

def obsEntryStartRule (n : Obs) : Rule :=
  let m := obsOther n.val
  ⟨fun s => match s.obsEntryNow n.val with
     | some (i, st) =>
       !((s.obsOf n.val).entry = some (i, st)) && !s.fnStopped (obsFn n.val) (n.val / 2) &&
       decide ((s.obsOf n.val).runFrom ≤ st) && s.tileOn (n.val / 2)
     | none => false,
   fun s => match s.obsEntryNow n.val with
     | some (i, st) =>
       let u := s.obsLeave n.val
       let u := u.setObs n.val { u.obsOf n.val with entry := some (i, st), snap := none, took := false }
       let u : State := if u.obsRole n.val i = 2 then
           { u with fe := { u.fe with cplRev := u.fe.cplRev ||| bit16 (quadOfPath (obsPath n.val (u.reg (rObsSched n.val i)))) } } else u
       let u := if u.obsClash n.val m && (!(u.obsOf m).took || (u.obsOf m).snap.isSome) then u.obsCut m else u
       if u.obsClash m n.val then u.obsCut n.val else u
     | none => s⟩

def obsSnapshotStartRule (n : Obs) : Rule :=
  ⟨fun s => match s.obsWord n.val with
     | some (_, st, e) => entActive e && !(s.obsOf n.val).took && (s.obsOf n.val).snap.isNone &&
         decide (st + 1024 ≤ s.now.toNat) && s.obsRuns n.val st (st + 1024)
     | none => false,
   fun s => match s.obsWord n.val with
     | some (_, st, _) => s.setObs n.val { s.obsOf n.val with snap := some (st + 1024), took := true }
     | none => s⟩

/-! A snapshot that is whole delivers the feedback samples, the path's predistorter input and its corrector output, the last two with
the flags of the transmit data they hold, and DAMAGED where a word of the receiver fails its parity (R16); in power mode, the mean power of the feedback samples, which its role carries to the
mismatch evaluation (R133, R134, R222, R279). -/

def obsSnapshotCompleteRule (n : Obs) (clip : Bool) (fb : Bytes) : Rule :=
  ⟨fun s => match s.snapEnd n.val 0 with
     | .whole _ _ _ _ => true
     | _ => false,
   fun s => match s.snapEnd n.val 0 with
     | .whole i _ s0 e =>
       let x := s.obsOf n.val
       let p := obsPath n.val e
       let hi : Int := (s0 + s.obsTk n.val : Nat)
       let fl := s.txFlags p [0, 1, 2, 3] (s.playTags 0x04 p 0 s0 hi) s0 hi
       (s.setObs n.val { x with snap := none, seqCnt := x.seqCnt + 1 }).obsDeliver n.val [
         (obsTag n.val s0 ⟨s.obsParityIn n.val s0 hi, false, false⟩ false, obsHeader n.val i 0 e clip x.seqCnt ++ slice fb 0 (4 * 2 ^ s.obsLog n.val)),
         (obsTag n.val s0 fl false, obsHeader n.val i 1 e clip x.seqCnt ++ iqBytes (s.modelIn fnsCfr p (s0 / 2 : Nat) (s.obsSamples n.val))),
         (obsTag n.val s0 fl true, obsHeader n.val i 2 e clip x.seqCnt ++
           iqBytes ((s.dpdOut p (s0 / 2 : Nat) (s.obsSamples n.val)).map Prod.fst))]
     | _ => s⟩

def obsPowerResultRule (n : Obs) (clip : Bool) (fb : Bytes) : Rule :=
  ⟨fun s => match s.snapEnd n.val 1 with
     | .whole _ _ _ _ => true
     | _ => false,
   fun s => match s.snapEnd n.val 1 with
     | .whole i _ s0 e =>
       let x := s.obsOf n.val
       let p := obsPath n.val e
       let pw := settlePower (settleSum (iqList fb 0 (2 ^ s.obsLog n.val))) (s.obsLog n.val)
       let u := (s.setObs n.val { x with snap := none, seqCnt := x.seqCnt + 1 }).obsDeliver n.val [
         (obsTag n.val s0 ⟨s.obsParityIn n.val s0 (s0 + s.obsTk n.val : Nat), false, false⟩ true,
          obsHeader n.val i 0 e clip x.seqCnt ++ leBytes 8 (pw + 2 ^ 32 * 2 ^ s.obsLog n.val))]
       if u.obsRole n.val i = 1 then
         { u with fe := { u.fe with fwd := tput (fun _ => none) p (some ⟨u.now.toNat, entAtten e, clip, BitVec.ofNat 32 pw⟩) u.fe.fwd } }
       else if u.obsRole n.val i = 2 then u.mismatch p (entAtten e) clip pw
       else u
     | _ => s⟩

def sicSnapshotCompleteRule (t : Tile) : Rule :=
  ⟨fun s => match s.snapsOf t.val with
     | x :: _ => decide (x.stop ≤ s.now.toNat)
     | [] => false,
   fun s => match s.snapsOf t.val with
     | x :: xs =>
       let cnt := tget (fun _ => 0) s.lin.snapCnt t.val
       let u := s.setSnaps t.val xs
       let u : State := { u with lin := { u.lin with snapCnt := tput (fun _ => 0) t.val (cnt + 1) u.lin.snapCnt } }
       let c := u.reg (rSiccfg t.val)
       u.ringPut (fld c 4 4) (fld (u.reg (rSicring t.val)) 0 21) (fld c 12 4) (rSicwptr t.val) (rSicrptr t.val) (cTile t.val 13)
         (s.snapBlocks x cnt)
     | [] => s⟩

/-! ## Synthesisers and front end -/

/-- A transmit symbol at its advance whose synthesizer is not ready is blanked (R259). -/
def txReadinessRule (t : Tile) (c : Carrier) (a : Air) : Rule :=
  ⟨fun s => decide (lead a s.now ≤ (s.tileTxAdv t.val : Int)) && !s.rfHeldOff && !s.isFenced t.val && !s.tileStopped t.val &&
     !s.synTxReady (s.txSynAt t.val a),
   fun s => s.blankAt t.val c.val a [cTile t.val 17] [88 + t.val]⟩

/-! ### The loss and the return of REFCLK (R263). -/

/-- The reference is lost: no synthesiser is ready, φ_dev may change from now on, event 92, TIMEOUT (R263, R264, R529). -/
def refclkLossRule : Rule :=
  ⟨always, fun s => (({ s with power := { s.power with devPhase := s.clock } } : State).synsNotReady.signal 92).enterTimeout (some 0)⟩

def refclkReturnRule : Rule := ⟨always, fun s => { s with mode := { s.mode with causes := setBit s.mode.causes 0 false } }⟩

/-! ### Synthesisers: readiness of a symbol, the ends of tuning and calibration, lock loss (R255-R265, R587). -/

def txReadinessTestRule (t : Tile) (c : Carrier) (a : Air) : Rule := txReadinessRule t c a

def prepCompleteRule (k : Syn) : Rule :=
  ⟨fun s => (s.synOf k.val).state = .tuning,
   fun s => (s.setSyn k.val { s.synOf k.val with state := .locked, ready := true, work := none, relock := false }).nextTune k.val⟩

def calCompleteRule (k : Syn) (found : CalResult) : Rule :=
  ⟨fun s => let x := s.synOf k.val
     x.work.any Tune.cal && x.state = .calibrating && !x.mustYield && x.waiting.isEmpty && found.locked &&
       x.work.all fun w => !s.calBad k.val w.entry (calWord w found),
   fun s => match (s.synOf k.val).work with
     | some w =>
       let u := (s.setCal k.val w.entry (calWord w found)).setSyn k.val
         { s.synOf k.val with state := .locked, ready := true, work := none, entry := w.entry, held := true, flo := w.flo }
       if found.spread then u.signal 94 else u
     | none => s⟩

def calYieldRule (k : Syn) : Rule :=
  ⟨fun s => (s.synOf k.val).state = .calibrating && ((s.synOf k.val).mustYield || !(s.synOf k.val).waiting.isEmpty),
   fun s =>
     let u := s.bump (cSyn k.val 1)
     if (s.synOf k.val).mustYield then u.retune k.val else (u.setSyn k.val { s.synOf k.val with work := none }).nextTune k.val⟩

/-- The span of each SWITCH whose last 394 tk have begun starts; where one names TX, the symbols and the time-domain blocks of the tile
that it touches are blanked and counted (R258). -/
def switchSpanStartRule (t : Tile) : Rule :=
  let new := fun (s : State) => (((s.switches t.val).filter fun x => decide (0 < lead x.act s.now ∧ lead x.act s.now ≤ 394)).map fun x =>
    (⟨x.act, pbit x.item.body 3, pbit x.item.body 4⟩ : SwSpan)).filter fun x => !(s.loSpans t.val).contains x
  ⟨fun s => !(new s).isEmpty,
   fun s =>
     let u := s.setLo t.val { s.loOf t.val with spans := s.loSpans t.val ++ new s }
     ((new s).filter SwSpan.tx).foldl (fun u x =>
       let hi := fullTick x.end_ u.now
       let u := (u.symsTouched t.val (hi - 394) hi).foldl (fun s y => (s.blankSym [t.val] y.1 y.2).bump (cTile t.val 17)) u
       (u.tdSpans.filter fun y => decide (tileOfPath y.path = t.val) && decide (fullTick y.air u.now < hi) &&
         decide (hi - 394 < fullTick y.air u.now + y.len)).foldl (fun s y => (s.blankTdSpan y).bump (cTile t.val 17)) u) u⟩

/-- A synthesiser that loses its lock while counting as ready relocks, where an attempt is allowed; where it transmits, what is in
flight, or tested and still to begin, is blank, and its tile's enables fall, receive enables that they held off rising (R262, R270). -/
def lockLossRule (k : Syn) : Rule :=
  let t := k.val / 2
  ⟨fun s => (s.synOf k.val).ready && decide (fld (s.reg (rSynCfg k.val)) 0 2 ≠ 0),
   fun s =>
     let u := s.setSyn k.val { s.synOf k.val with
       state := .tuning, ready := false, relock := true, work := some { cal := false, entry := (s.synOf k.val).entry }
       phaseAt := none, tunedAt := s.clock }
     let u := if (s.loOf t).tx = (k.val % 2 = 1) then
         (tileQuads t).foldl State.dropTxEn ((u.countFlight t).cutQuads false (tileQuads t))
       else u
     (u.bump (cSyn k.val 2)).signal (88 + t)⟩

/-- Every attempt has failed: the entry is SUSPECT and the synthesiser FAILED; a PREP to that entry which waits is refused and counted
(R256, R262; the model's choice, log entry 42), and what waits behind it starts. -/
def relockFailureRule (k : Syn) : Rule :=
  ⟨fun s => (s.synOf k.val).relock,
   fun s =>
     let x := s.synOf k.val
     let left := x.waiting.dropWhile fun w => !w.cal && w.entry = x.entry
     let u := ((s.setCal k.val x.entry (setBit (s.calOf k.val x.entry) 1 true)).setSyn k.val
       { x with state := .failed, ready := false, relock := false, work := none, waiting := left }).signal (88 + k.val / 2)
     (u.bumpBy (cSyn k.val 0) (x.waiting.length - left.length)).nextTune k.val⟩

def syncalCommitRule (w : Initiator) (k : Syn) (e : CalEntry) (v : BitVec 32) : Rule :=
  ⟨fun s => s.blocksOn && !s.calRefused w k.val e.val (v ++ (s.synOf k.val).staged),
   fun s => (s.setCal k.val e.val (setBit (v ++ (s.synOf k.val).staged) 1 false)).done⟩

/-! ### Enables of the front end, RFFE groups and commands (R269-R276, R143, R289-R291). -/

def feTxenOnRule (q : Quad) (a : Air) (gnt : BitVec 4) : Rule :=
  let t := quadTile q.val
  ⟨fun s => ((quadPaths q.val).any fun p => (s.liveSpans p).any fun x => x.1 = fullTick a s.now) &&
     decide (lead a s.now ≤ (s.txAdv q.val : Int)) && !s.rfHeldOff && !s.regHeld && s.tileOn t && !s.fnStopped 16 t &&
     !s.safeHeldAt q.val (fullTick a s.now) && (s.coxRefuse q.val gnt).isEmpty && !s.fe.loop.getLsbD q.val,
   fun s =>
     let u : State := { s with fe := { s.fe with txEn := s.fe.txEn ||| bit16 q.val } }
     if s.fe.rxEn.getLsbD q.val && !s.fe.rxDup.getLsbD q.val then (u.setRxEn q.val false).bump (cFe t 2) else u⟩

def feTxenOffRule (q : Quad) : Rule :=
  let near := fun (s : State) (x : Int × Int) =>
    decide (x.1 - s.txAdv q.val < s.now.toNat + s.minoff q.val) && decide ((s.now.toNat : Int) < x.2 + s.txlag q.val)
  ⟨fun s => s.fe.txEn.getLsbD q.val && (!(((quadPaths q.val).flatMap s.liveSpans).any (near s)) || s.rampedOut q.val),
   fun s =>
     let u : State := { s with fe := { s.fe with txEn := s.fe.txEn &&& ~~~bit16 q.val } }
     (if s.fe.rxWant.getLsbD q.val && !s.fe.rxDeny.getLsbD q.val then u.setRxEn q.val true else u).coxFall⟩

/-- A scheduled receive switch falls due: off, or on where no grant refuses it. While the quad transmits without DUPLEX the enable
stays low, and that is counted (R270, R290). -/
def feRxenSwitchRule (q : Quad) (gnt : BitVec 4) : Rule :=
  let due := fun (s : State) => s.fe.rxSched.find? fun x => x.quad = q.val && decide (x.at_ ≤ (s.now.toNat : Int))
  ⟨fun s => match due s with
     | some x => !x.on || (s.coxRefuse q.val gnt).isEmpty
     | none => false,
   fun s => match due s with
     | some x =>
       let u : State := { s with fe := { s.fe with
         rxSched := s.fe.rxSched.erase x, rxWant := setBit s.fe.rxWant q.val x.on, rxDeny := setBit s.fe.rxDeny q.val false
         rxDup := setBit s.fe.rxDup q.val (x.on && x.dup) } }
       if !x.on then (u.setRxEn q.val false).coxFall
       else if s.fe.txEn.getLsbD q.val && !x.dup then u.bump (cFe (quadTile q.val) 2)
       else u.setRxEn q.val true
     | none => s⟩

/-- The earliest placed group whose time has come begins: each of its frames is sent when its own span begins, the first at once (R273,
R275). -/
def rffeGroupStartRule (b : Bus) : Rule :=
  let due := fun (s : State) => (s.groupsOf b.val).find? fun g => !g.begun && decide (g.start ≤ s.now.toNat)
  ⟨fun s => (due s).isSome,
   fun s => match due s with
     | some g => (s.setGroups b.val ((s.groupsOf b.val).map fun x => if x = g then { x with begun := true } else x)).sendBus b.val
     | none => s⟩

def feRffecmdRule (w : Initiator) (t : Tile) (v : BitVec 64) : Rule :=
  ⟨fun s => (w = .host || w = .mgmt) && s.unitTakes (rFe t.val 0x30) && frameOk v true,
   fun s =>
     let u := s.done.setReg (rRfferd t.val) 0
     { u with fe := { u.fe with cmds := tput (fun _ => []) t.val (tget (fun _ => []) s.fe.cmds t.val ++ [v]) s.fe.cmds } }⟩

/-- The oldest RFFE command of a tile runs where it fits between the placed groups, which stay clear of it, and its answer stands in
RFFERD (R276). -/
def rffecmdRunRule (t : Tile) (rd : BitVec 8) (parerr : Bool) : Rule :=
  let bus := fun (v : BitVec 64) => 2 * t.val + (v.getLsbD 7).toNat
  ⟨fun s => match tget (fun _ => []) s.fe.cmds t.val with
     | v :: _ => (s.groupsOf (bus v)).all fun g =>
         !(decide (g.start < s.now.toNat + s.framesTk (bus v) [v]) && decide (s.now.toNat < g.stop))
     | [] => false,
   fun s => match tget (fun _ => []) s.fe.cmds t.val with
     | v :: vs =>
       let read := decide (4 ≤ fld v 0 3)
       let u : State := { s with fe := { s.fe with cmds := tput (fun _ => []) t.val vs s.fe.cmds } }
       let g : RffeGroup := { start := s.now.toNat, stop := s.now.toNat + s.framesTk (bus v) [v], frames := [setBit v 7 false]
                              tag := {}, begun := true, safety := true }
       let u := ((u.setGroups (bus v) (s.groupsOf (bus v) ++ [g])).sendBus (bus v)).setReg (rRfferd t.val)
         (BitVec.ofNat 32 ((if read then rd.toNat else 0) + 256 + (if read && parerr then 512 else 0)))
       if read && parerr then u.signal 100 else u
     | [] => s⟩

def loopbackReleaseByTrafficRule (q : Quad) : Rule :=
  ⟨fun s => (s.fe.loop.getLsbD q.val || s.fe.rxcal.getLsbD q.val) &&
     (match s.nextLiveOf (quadPaths q.val) s.now.toNat with
       | some n => decide (n - (1024 + s.txAdv q.val) ≤ s.now.toNat)
       | none => false),
   fun s => ({ s with fe := { s.fe with loop := s.fe.loop &&& ~~~bit16 q.val, rxcal := s.fe.rxcal &&& ~~~bit16 q.val } } : State).bump
     (cTile (quadTile q.val) 8)⟩

def coxRequestRiseRule (c : Cox) (pri : Bool) : Rule :=
  ⟨fun s => (match s.coxNext c.val with
       | some n => decide (n - s.reqAdv c.val ≤ s.now.toNat)
       | none => false) && s.coxOn c.val && !s.fe.coxReq.getLsbD c.val,
   fun s => { s with fe := { s.fe with
     coxReq := setBit s.fe.coxReq c.val true
     coxPri := setBit s.fe.coxPri c.val (pri || s.coxRxPri c.val ((s.coxNext c.val).getD 0) || (s.coxCfg c.val).getLsbD 18) } }⟩

/-- A grant withdrawn: the channel's quads that transmit ramp to zero and the rest of what is in flight is blank; those that receive
have their enable low; counted, with event 101 (R291). -/
def coxGrantWithdrawnRule (c : Cox) : Rule :=
  let on := fun (s : State) (m : BitVec 16) => (List.range 16).filter fun q => (s.coxCfg c.val).getLsbD q && m.getLsbD q
  ⟨fun s => s.coxOn c.val && s.fe.coxReq.getLsbD c.val && !((on s s.fe.txEn).isEmpty && (on s s.fe.rxEn).isEmpty),
   fun s =>
     let u := (on s s.fe.rxEn).foldl (fun s q => (s.denyRx q true).setRxEn q false) (s.cutQuads true (on s s.fe.txEn))
     ((u.bump (cCox c.val 1)).signal 101).coxFall⟩

/-- A limiter window: where the path's mean power exceeds its level, the gain of R285, in force at once. -/
def limiterWindowRule (p : Path) : Rule :=
  let d := fun (r : Bytes) => regPmax r p.val - regGext r p.val
  let sum := fun (s : State) => s.powerSum p.val s.windowEnd
  ⟨fun s => s.regRecord.isSome,
   fun s => match s.regRecord with
     | some r =>
       if regLocked r && exceeds (sum s) fullWindow (d r) then
         let (g, u) := s.roundGain (limitGain (sum s) fullWindow (d r))
         u.limSet p.val { s.limOf p.val with own := g }
       else s
     | none => s⟩

/-! The protection commands without an operand: the duty window, RF_SAFE_N, the regulatory record and THERM_ALERT_N. -/

def dutyWindowStartRule : Rule :=
  ⟨fun s => decide (s.fe.dutyAt < s.now.toNat / dutyWindow * dutyWindow),
   fun s => { s with fe := { s.fe with dutyAt := s.now.toNat / dutyWindow * dutyWindow, dutyOut := 0 } }⟩

def rfSafeNFallRule : Rule :=
  ⟨fun s => s.fe.rfSafe,
   fun s =>
     let u := (allTiles.foldl State.countFlight s).cutQuads false (List.range 16)
     let u := ({ u with fe := { u.fe with rfSafe := false, safeRise := none, safeHold := 0xFFFF } } : State).signal 98
     ((List.range 64).foldl (fun s p => s.safetySeq p false) ((List.range 16).foldl State.dropTxEn u)).coxFall⟩

def rfSafeNRiseRule : Rule :=
  ⟨fun s => !s.fe.rfSafe, fun s => { s with fe := { s.fe with rfSafe := true, safeRise := some s.now.toNat } }⟩

/-- The record in force fails its check at a read: what it forbade stays forbidden, and the device falls back (R256, R284). -/
def regulatoryReadFailureRule : Rule :=
  ⟨fun s => s.regRecord.isSome, fun s =>
     let u := (List.range 8).foldl (fun u k =>
       if u.loAllowed (u.synOf k).flo then u else u.setSyn k { u.synOf k with barred := some (u.synOf k).flo }) s
     ({ u with fe := { u.fe with regBad := true } } : State).regWatch⟩

def thermAlertNRule : Rule :=
  ⟨fun s => !s.fe.warnTold, fun s => ({ s with fe := { s.fe with warnTold := true } } : State).signal 102⟩

/-! Protection: muted paths, limiter, duty, RF_SAFE_N, the regulatory record and the die temperatures (R279-R288, R592). -/

def feMuteReleaseRule (w : Initiator) (t : Tile) (mask : BitVec 64) : Rule :=
  ⟨fun s => (w = .host || w = .mgmt) && s.unitTakes (rFe t.val 0x40),
   fun s => ((bitsSet mask.toNat 64).filter fun p => decide (tileOfPath p = t.val) && s.fe.mute.getLsbD p).foldl (fun s p =>
     { s with fe := { s.fe with mute := s.fe.mute &&& ~~~bit64 p, muteRel := tput (fun _ => 0) p s.now.toNat s.fe.muteRel } }) s.done⟩

def mutedPathResumeRule (p : Path) : Rule :=
  ⟨fun s => s.fe.silent.getLsbD p.val && !s.fe.mute.getLsbD p.val &&
     decide (s.firstSymOf (tileOfPath p.val) (tget (fun _ => 0) s.fe.muteRel p.val + 8192 + s.txAdv (quadOfPath p.val) : Nat) ≤
       (s.now.toNat : Int)),
   fun s => { s with fe := { s.fe with silent := s.fe.silent &&& ~~~bit64 p.val, muteRun := tput (fun _ => 0) p.val 0 s.fe.muteRun } }⟩

/-- A tile's level sum is exchanged; where the four sums exceed the device's total level every path's device factor follows (R285). -/
def limiterLevelExchangeRule (t : Tile) : Rule :=
  ⟨fun s => s.regRecord.isSome,
   fun s => match s.regRecord with
     | some r =>
       let u : State := { s with fe := { s.fe with sums := tput (fun _ => 0) t.val (s.tileSum r t.val) s.fe.sums } }
       let total := ((List.range 4).map fun i => tget (fun _ => 0) u.fe.sums i).sum
       if regLocked r && exceeds total (2 ^ 16) (regPtot r) then
         let (g, u) := u.roundGain (limitGain total (2 ^ 16) (regPtot r))
         (List.range 64).foldl (fun s p => s.limSet p { s.limOf p with dev := g }) u
       else u
     | none => s⟩

def limiterGainRiseRule (p : Path) : Rule :=
  ⟨fun s => (s.limOf p.val).gain ≠ 0x8000 && decide ((s.limOf p.val).at_ + 4096 ≤ s.now.toNat),
   fun s =>
     let x := s.limOf p.val
     let (own, u) := if x.own = 0x8000 then (x.own, s) else s.roundGain (risenGain x.own.toNat)
     let (dev, u) := if x.dev = 0x8000 then (x.dev, u) else u.roundGain (risenGain x.dev.toNat)
     u.setLim p.val ⟨own, dev, s.now.toNat⟩⟩

def dutyLimitReachedRule (p : Path) : Rule :=
  ⟨fun s => !s.fe.dutyOut.getLsbD p.val && (match s.regRecord with
     | some r => decide (regDuty r * dutyWindow ≤ 65536 * s.dutyTicks p.val)
     | none => false),
   fun s => (({ s with fe := { s.fe with dutyOut := s.fe.dutyOut ||| bit64 p.val } } : State).signal (4 * tileOfPath p.val + 1)).signal 99⟩

def rfSafeResumeRule (q : Quad) : Rule :=
  ⟨fun s => s.fe.safeHold.getLsbD q.val && (match s.fe.safeRise with
     | some r => decide (s.firstSymOf (quadTile q.val) (r + 8192 + s.txAdv q.val : Nat) ≤ (s.now.toNat : Int))
     | none => false),
   fun s => { s with fe := { s.fe with safeHold := s.fe.safeHold &&& ~~~bit16 q.val } }⟩

/-- A die's temperature is kept. Event 102 rises once when a die reaches the warning, and again only after all have cooled 5 degrees
below it; event 103 and TIMEOUT follow once at the shutdown limit, whose cause clears below it (R592). -/
def temperatureUpdateRule (d : Die) (temp : BitVec 12) : Rule :=
  ⟨always,
   fun s =>
     let u := s.setReg (rTsTemp d.val) (temp.zeroExtend 32)
     let hot := dies.any fun i => decide (u.warnLimit * 8 ≤ u.dieTemp i)
     let cool := dies.all fun i => decide (u.dieTemp i ≤ (u.warnLimit - 5) * 8)
     let v : State :=
       if hot && !s.fe.warnTold then ({ u with fe := { u.fe with warnTold := true } } : State).signal 102
       else if cool then { u with fe := { u.fe with warnTold := false } } else u
     if !(dies.any fun i => decide (shutLimit * 8 ≤ u.dieTemp i)) then { v.clearCause 2 with fe := { v.fe with shutTold := false } }
     else if s.fe.shutTold then v
     else (({ v with fe := { v.fe with shutTold := true } } : State).signal 103).enterTimeout (some 2)⟩

/-! ## Sequencers -/

/-- An instruction that changes registers of its sequencer alone, and goes on. -/
def seqOwn (k : Nat) (ok : SeqSt → Bool) (f : State → SeqSt → SeqSt) : Rule :=
  ⟨fun s => s.seqReady k && inProgram (s.seqOf k).after && ok (s.seqOf k), fun s => s.setSeq k (f s (s.seqOf k)).next⟩

/-- An ALU instruction: `r` into gd, Z and N from it, C and V as given (R298, R325). -/
def SeqSt.alu (q : SeqSt) (gd : GReg) (r : BitVec 64) (c v : Bool) : SeqSt := (q.setG gd r).setZncv (Machine.zncv r c v)

/-- An ALU instruction that clears C and V (R325). -/
def aluRule (k : Seq) (gd : GReg) (ok : Bool) (f : SeqSt → BitVec 64) : Rule :=
  seqOwn k.val (fun _ => ok) fun _ q => q.alu gd (f q) false false

/-- The sum or difference left what 64 signed bits hold. -/
def overflows (exact : Int) : Bool := decide (exact < -(2 ^ 63) ∨ 2 ^ 63 ≤ exact)

/-! ### The ALU instructions on two registers (R325, R327, R42). -/

def seqAddRule (k : Seq) (d a b : GReg) : Rule :=
  seqOwn k.val (fun _ => true) fun _ q =>
      q.alu d (q.reg a + q.reg b) (decide (2 ^ 64 ≤ (q.reg a).toNat + (q.reg b).toNat)) (overflows ((q.reg a).toInt + (q.reg b).toInt))

def seqSubRule (k : Seq) (d a b : GReg) : Rule :=
  seqOwn k.val (fun _ => true) fun _ q =>
      q.alu d (q.reg a - q.reg b) (decide ((q.reg a).toNat < (q.reg b).toNat)) (overflows ((q.reg a).toInt - (q.reg b).toInt))

def seqAndRule (k : Seq) (d a b : GReg) : Rule := aluRule k d true fun q => q.reg a &&& q.reg b

def seqOrRule (k : Seq) (d a b : GReg) : Rule := aluRule k d true fun q => q.reg a ||| q.reg b

def seqXorRule (k : Seq) (d a b : GReg) : Rule := aluRule k d true fun q => q.reg a ^^^ q.reg b

def seqSllRule (k : Seq) (d a b : GReg) : Rule := aluRule k d true fun q => q.reg a <<< ((q.reg b).toNat % 64)

def seqSrlRule (k : Seq) (d a b : GReg) : Rule := aluRule k d true fun q => q.reg a >>> ((q.reg b).toNat % 64)

def seqSraRule (k : Seq) (d a b : GReg) : Rule := aluRule k d true fun q => (q.reg a).sshiftRight ((q.reg b).toNat % 64)

def seqMulRule (k : Seq) (d a b : GReg) : Rule :=
  aluRule k d true fun q => BitVec.ofNat 64 ((q.reg a).toNat * (q.reg b).toNat)

def seqSltRule (k : Seq) (d a b : GReg) : Rule :=
  aluRule k d true fun q => if (q.reg a).toInt < (q.reg b).toInt then 1 else 0

def seqSltuRule (k : Seq) (d a b : GReg) : Rule :=
  aluRule k d true fun q => if (q.reg a).toNat < (q.reg b).toNat then 1 else 0

def seqMinRule (k : Seq) (d a b : GReg) : Rule :=
  aluRule k d true fun q => BitVec.ofInt 64 (min (q.reg a).toInt (q.reg b).toInt)

def seqMaxRule (k : Seq) (d a b : GReg) : Rule :=
  aluRule k d true fun q => BitVec.ofInt 64 (max (q.reg a).toInt (q.reg b).toInt)

def seqLead40Rule (k : Seq) (d a b : GReg) : Rule :=
  aluRule k d true fun q => BitVec.ofInt 64 (airDiff ((q.reg a).truncate 40) ((q.reg b).truncate 40))

def seqAdd40Rule (k : Seq) (d a b : GReg) : Rule :=
  aluRule k d true fun q => BitVec.ofNat 64 (((q.reg a).toNat + (q.reg b).toNat) % 2 ^ 40)

def seqDivuRule (k : Seq) (d a b : GReg) : Rule :=
  aluRule k d true fun q =>
      if (q.reg b).toNat = 0 then BitVec.allOnes 64 else BitVec.ofNat 64 ((q.reg a).toNat / (q.reg b).toNat)

/-! ### The instructions with an immediate (R325, R328); SETW and SHOR leave the flags. -/

def seqAddiRule (k : Seq) (d a : GReg) (imm : Imm16) : Rule :=
  seqOwn k.val (fun _ => true) fun _ q =>
      q.alu d (q.reg a + imm.signExtend 64) (decide (2 ^ 64 ≤ (q.reg a).toNat + (imm.signExtend 64).toNat))
        (overflows ((q.reg a).toInt + imm.toInt))

def seqAndiRule (k : Seq) (d a : GReg) (imm : Imm16) : Rule := aluRule k d true fun q => q.reg a &&& imm.zeroExtend 64

def seqOriRule (k : Seq) (d a : GReg) (imm : Imm16) : Rule := aluRule k d true fun q => q.reg a ||| imm.zeroExtend 64

def seqXoriRule (k : Seq) (d a : GReg) (imm : Imm16) : Rule := aluRule k d true fun q => q.reg a ^^^ imm.zeroExtend 64

def seqShiRule (k : Seq) (d a : GReg) (imm : Imm16) : Rule :=
  aluRule k d (fld imm 8 8 = 0 && fld imm 6 2 ≠ 3) fun q =>
      if fld imm 6 2 = 0 then q.reg a <<< (fld imm 0 6)
      else if fld imm 6 2 = 1 then q.reg a >>> (fld imm 0 6) else (q.reg a).sshiftRight (fld imm 0 6)

def seqSetwRule (k : Seq) (d a : GReg) (imm : Imm16) : Rule :=
  seqOwn k.val (fun _ => decide (a = 0)) fun _ q => q.setG d (imm.signExtend 64)

def seqShorRule (k : Seq) (d a : GReg) (imm : Imm16) : Rule :=
  seqOwn k.val (fun _ => true) fun _ q => q.setG d ((q.reg a <<< 16) ||| imm.zeroExtend 64)

def seqExtRule (k : Seq) (d a : GReg) (imm : Imm16) : Rule :=
  aluRule k d (extOk imm) fun q => BitVec.ofNat 64 (nbits (q.reg a).toNat (extPos imm) (extLen imm))

def seqInsRule (k : Seq) (d a : GReg) (imm : Imm16) : Rule :=
  aluRule k d (extOk imm) fun q => setFld (q.reg d) (extPos imm) (extLen imm) (q.reg a).toNat

/-- A load of `n` bytes whose address is a multiple of `n` and whose access is answered without an error (R329). -/
def loadRule (k : Seq) (gd ga : GReg) (imm : Imm16) (n : Nat) : Rule :=
  let read := fun (s : State) => s.seqRead k ((s.seqOf k.val).addr ga imm) n
  ⟨fun s => s.seqReady k.val && decide ((s.seqOf k.val).addr ga imm % n = 0) &&
     (match read s with
       | (.inr _, u) => inProgram (u.seqOf k.val).after
       | _ => false),
   fun s => match read s with
     | (.inr b, u) => u.setSeq k.val ((u.seqOf k.val).setG gd (BitVec.ofNat 64 (leNat b))).next
     | _ => s⟩

/-- A store of the low `n` bytes of gd into the sequencer's own data memory, at a multiple of `n` (R329). -/
def storeRule (k : Seq) (gd ga : GReg) (imm : Imm16) (n : Nat) : Rule :=
  let a := fun (s : State) => (s.seqOf k.val).addr ga imm
  ⟨fun s => s.seqReady k.val && inProgram (s.seqOf k.val).after && decide (a s % n = 0) && inSeqData k.val (a s) n,
   fun s =>
     let m := (List.range n).foldl (fun u i => u.mendByte (.seqMem k.val) (a s + i)) s
     let m := (List.range n).foldl (fun u i => u.markValid (a s + i)) m
     (m.setBytes (a s) (leBytes n ((s.seqOf k.val).reg gd).toNat)).setSeq k.val (s.seqOf k.val).next⟩

/-! ### Loads and stores (R329). -/

def seqLdRule (k : Seq) (d a : GReg) (imm : Imm16) : Rule := loadRule k d a imm 8

def seqLwRule (k : Seq) (d a : GReg) (imm : Imm16) : Rule := loadRule k d a imm 4

def seqLhRule (k : Seq) (d a : GReg) (imm : Imm16) : Rule := loadRule k d a imm 2

def seqLbRule (k : Seq) (d a : GReg) (imm : Imm16) : Rule := loadRule k d a imm 1

def seqSdRule (k : Seq) (d a : GReg) (imm : Imm16) : Rule := storeRule k d a imm 8

def seqSwRule (k : Seq) (d a : GReg) (imm : Imm16) : Rule := storeRule k d a imm 4

def seqShRule (k : Seq) (d a : GReg) (imm : Imm16) : Rule := storeRule k d a imm 2

def seqSbRule (k : Seq) (d a : GReg) (imm : Imm16) : Rule := storeRule k d a imm 1

/-- The sequencer goes on at `t`, which lies in program memory. -/
def goRule (k : Nat) (ok : SeqSt → Bool) (f : SeqSt → SeqSt) (t : SeqSt → Int) : Rule :=
  ⟨fun s => s.seqReady k && ok (s.seqOf k) && inProgram (t (s.seqOf k)),
   fun s => s.setSeq k ((f (s.seqOf k)).at_ (t (s.seqOf k)))⟩

/-! ### Branches (R330): BL and JUMPR write the address of the next instruction. -/

def seqBrRule (k : Seq) (cond : BitVec 5) (off : BitVec 21) : Rule :=
  goRule k.val (fun q => (seqCond q cond.toNat).isSome) id fun q =>
      if seqCond q cond.toNat = some true then (q.pc.toNat : Int) + off.toInt * 4 else q.after

def seqBlRule (k : Seq) (gd : GReg) (off : BitVec 21) : Rule :=
  goRule k.val (fun _ => decide (gd = 0)) (fun q => q.setG 31 (BitVec.ofNat 64 (q.pc.toNat + 4)))
      fun q => (q.pc.toNat : Int) + off.toInt * 4

def seqJumprRule (k : Seq) (gd ga gb : GReg) (func : BitVec 11) : Rule :=
  goRule k.val (fun q => decide (gb = 0) && decide (func = 0) && decide ((q.reg ga).toNat % 4 = 0))
      (fun q => q.setG gd (BitVec.ofNat 64 (q.pc.toNat + 4))) fun q => ((q.reg ga).toNat : Int)

def seqRbzRule (k : Seq) (gdhi : BitVec 4) (ga : GReg) (imm : Imm16) : Rule :=
  goRule k.val (fun _ => decide (gdhi = 0)) id fun q =>
      if q.reg ga = 0 then (q.pc.toNat : Int) + imm.toInt * 4 else q.after

def seqRbnzRule (k : Seq) (gdhi : BitVec 4) (ga : GReg) (imm : Imm16) : Rule :=
  goRule k.val (fun _ => decide (gdhi = 0)) id fun q =>
      if q.reg ga = 0 then q.after else (q.pc.toNat : Int) + imm.toInt * 4

/-- AT and WAITT: on if the lead is at most the bound, else stalled for it (R331). -/
def waitRule (k : Nat) (ok : Bool) (a : SeqSt → Air) (bound : SeqSt → Nat) : Rule :=
  ⟨fun s => s.seqReady k && ok && inProgram (s.seqOf k).after,
   fun s =>
     let q := s.seqOf k
     if lead (a q) s.now ≤ bound q then s.setSeq k q.next
     else s.setSeq k { q with state := .stalled, stall := .time (a q) (bound q) }⟩

/-! ### Time, special registers, sections, events and checkpoints (R299, R305, R310, R311, R317, R331, R336). -/

def seqAtRule (k : Seq) (gd ga gb : GReg) (func : BitVec 11) : Rule :=
  waitRule k.val (gd = 0 && gb = 0 && func = 0) (fun q => (q.reg ga).truncate 40) fun q => q.leadMax.toNat

def seqWaittRule (k : Seq) (gd ga gb : GReg) (func : BitVec 11) : Rule :=
  waitRule k.val (gd = 0 && gb = 0 && func = 0) (fun q => (q.reg ga).truncate 40) fun _ => 0

def seqMfsRule (k : Seq) (gd ga : GReg) (sel : Imm16) : Rule :=
  seqOwn k.val (fun _ => decide (ga = 0) && (decide (sel.toNat ≤ 3) || isEpochSel sel.toNat)) fun s q =>
    q.setG gd (if sel = 0 then s.now.zeroExtend 64
      else if sel = 1 then q.leadMax.zeroExtend 64
      else if sel = 2 then BitVec.ofNat 64 q.ckpt
      else if sel = 3 then q.f.zeroExtend 64
      else (q.epochOf (sel.toNat - 0x20)).zeroExtend 64)

def seqMtsRule (k : Seq) (gd ga : GReg) (sel : Imm16) : Rule :=
  seqOwn k.val (fun q => decide (gd = 0) && (decide (sel = 1) || decide (sel = 3) || isEpochSel sel.toNat && !q.opened)) fun _ q =>
    let v := q.reg ga
    if sel = 1 then (if 65536 ≤ v.toNat ∧ v.toNat ≤ 15728640 then { q with leadMax := v.truncate 24 } else q)
    else if sel = 3 then q.setZncv (v.truncate 4)
    else q.setEpoch (sel.toNat - 0x20) (v.truncate 8)

def seqRecvRule (k : Seq) (gd ga gb : GReg) (func : BitVec 11) : Rule :=
  seqOwn k.val (fun q => decide (ga = 0) && decide (gb = 0) && decide ((setBit func 0 false).toNat < 2) && decide (gd.toNat ≤ 28) &&
      !q.queue.isEmpty) fun _ q =>
    match q.queue with
    | x :: rest => q.take gd x rest
    | [] => q

def seqRecvNbRule (k : Seq) (gd ga gb : GReg) (func : BitVec 11) : Rule :=
  seqOwn k.val (fun _ => decide (ga = 0) && decide (gb = 0) && decide ((setBit func 0 true).toNat < 2) && decide (gd.toNat ≤ 28))
    fun _ q =>
      match q.queue with
      | x :: rest => q.take gd x rest
      | [] => { q with f := setBit q.f 4 true }

def seqEvRaiseRule (k : Seq) (gd ga gb : GReg) (func : BitVec 11) : Rule :=
  ⟨fun s => s.seqReady k.val && decide (gd = 0) && decide (gb = 0) && decide (ga = 0) && decide (fld func 1 10 = 0) &&
     inProgram ((s.signal (26 + k.val)).seqOf k.val).after,
   fun s => (s.signal (26 + k.val)).setSeq k.val ((s.signal (26 + k.val)).seqOf k.val).next⟩

def seqEvWaitRule (k : Seq) (gd ga gb : GReg) (func : BitVec 11) : Rule :=
  ⟨fun s => s.seqReady k.val && decide (gd = 0) && decide (gb = 0) && decide (fld func 1 10 = 0) && inProgram (s.seqOf k.val).after,
   fun s =>
     let q := s.seqOf k.val
     if (q.reg ga).toNat = 0 then s.setSeq k.val (SeqSt.next { q with f := setBit q.f 7 true })
     else s.setSeq k.val { q with state := .waiting, stall := .event (s.clock + (q.reg ga).toNat) s.heldEvents }⟩

def seqEvWaitTimeoutRule (k : Seq) : Rule :=
  ⟨fun s => s.seqIslandOn k.val && (s.seqOf k.val).refused = [] && inProgram (s.seqOf k.val).after && (match (s.seqOf k.val).stall with
     | .event t _ => decide (t ≤ s.clock)
     | _ => false),
   fun s => s.setSeq k.val (SeqSt.next { s.seqOf k.val with f := setBit (s.seqOf k.val).f 7 true })⟩

def seqStallEndRule (k : Seq) : Rule :=
  ⟨fun s => s.seqIslandOn k.val && (s.seqOf k.val).state = .stalled && (s.seqOf k.val).refused = [] && inProgram (s.seqOf k.val).after &&
     (match (s.seqOf k.val).stall with
       | .time a bound => decide (lead a s.now ≤ bound)
       | .emit xs => s.seqMayIssue k.val xs
       | .recv _ => !(s.seqOf k.val).queue.isEmpty
       | _ => false),
   fun s => match (s.seqOf k.val).stall, (s.seqOf k.val).queue with
     | .emit xs, _ => s.seqSendNow k.val xs
     | .recv gd, x :: rest => s.setSeq k.val ((s.seqOf k.val).take (BitVec.ofNat 5 gd) x rest).next
     | _, _ => s.setSeq k.val (s.seqOf k.val).next⟩

def seqCkptRule (k : Seq) (gd ga : GReg) (imm : Imm16) : Rule :=
  seqOwn k.val (fun _ => decide (gd = 0)) fun _ q =>
    let a : Air := (q.reg ga).truncate 40
    if q.ns && q.slot = a then q
    else
      { q with opened := true, slot := a, resume := BitVec.ofInt 19 (q.pc.toNat + imm.toInt * 4)
               sqcnt := if q.slot = a then q.sqcnt else 0, ns := if q.slot = a then q.ns else false
               savedG := savedOf q.g, savedF := q.zncv, spec := [], f := setBit q.f 6 false }

def seqSpecoffRule (k : Seq) (gd ga gb : GReg) (func : BitVec 11) : Rule :=
  seqOwn k.val (fun _ => decide (gd = 0) && decide (ga = 0) && decide (gb = 0) && decide (func = 0)) fun _ q =>
    { q with opened := false, spec := [] }

def seqHaltRule (k : Seq) (gd ga gb : GReg) (func : BitVec 11) : Rule :=
  ⟨fun s => s.seqReady k.val && decide (gd = 0) && decide (ga = 0) && decide (gb = 0) && decide (func = 0),
   fun s => s.setSeq k.val { s.seqOf k.val with
     run := false, state := .stopped, stall := .none, opened := false, spec := [], refused := [] }⟩

/-- EMIT up to its issue: the image is read, and the item has a port, a kind and a stream that the sequencer may use (R300,
R332, R339). -/
def emitChecks (s : State) (k : Seq) (gs gt : GReg) (port flags : BitVec 8) : Option (State × NetItem) :=
  let q := s.seqOf k.val
  let kind : BitVec 6 := flags.truncate 6
  match portOf port.toNat, s.readImage k kind (fld (q.reg gs) 0 40) with
  | some p, (.inr (w, body), u) =>
    if ((seqKinds (k.val = 4) p).getD []).contains kind && ownStream k.val (q.reg gt) && fld w 33 7 = 0 && fld w 40 16 ≤ 4096 then
      some (u, seqNet k.val q p (emitTag k.val kind w (q.reg gt) (q.epochFor k.val (q.reg gt))) body)
    else none
  | _, _ => none

/-- One formed item that the sequencer may issue now leaves at once (R301, R302). -/
def formRule (k : Nat) (ok : Bool) (n : State → NetItem) (own : State → Bool) : Rule :=
  ⟨fun s => s.seqReady k && ok && own s && s.seqMayIssue k [n s], fun s => s.seqSendNow k [n s]⟩

/-! ### EMIT with TRY: C clear and the item issued, or C set and nothing issued (R332). -/

def seqEmitTryRule (k : Seq) (gs gt : GReg) (port flags : BitVec 8) : Rule :=
  ⟨fun s => s.seqReady k.val && !flags.getLsbD 7 && (match emitChecks s k gs gt port (setBit flags 6 true) with
     | some (u, n) => u.seqMayIssue k.val [n] || inProgram (s.seqOf k.val).after
     | none => false),
   fun s => match emitChecks s k gs gt port (setBit flags 6 true) with
     | some (u, n) =>
       let q := s.seqOf k.val
       if u.seqMayIssue k.val [n] then (u.setSeq k.val { q with f := setBit q.f 2 false }).seqSendNow k.val [n]
       else u.setSeq k.val (SeqSt.next { q with f := setBit q.f 2 true })
     | none => s⟩

/-! ### Issuing instructions, squashes and the faults of refused items (R300-R302, R312-R316, R332-R338). -/

def seqEmitRule (k : Seq) (gs gt : GReg) (port flags : BitVec 8) : Rule :=
  ⟨fun s => s.seqReady k.val && !flags.getLsbD 7 && (match emitChecks s k gs gt port (setBit flags 6 false) with
     | some (u, n) => u.seqMayIssue k.val [n]
     | none => false),
   fun s => match emitChecks s k gs gt port (setBit flags 6 false) with
     | some (u, n) => u.seqSendNow k.val [n]
     | none => s⟩

def seqPrepRule (k : Seq) (gd ga gb : GReg) (func : BitVec 11) : Rule :=
  let q := fun (s : State) => s.seqOf k.val
  let v := fun (s : State) => (q s).reg ga
  formRule k.val (gd = 0 && fld func 2 9 = 0 && k.val ≠ 4)
    (fun s => seqNet k.val (q s) .lo (plainTag k.val kLoCtl (v s) ((q s).epochFor k.val (v s)) 16)
      (prepPay (func.getLsbD 0) (func.getLsbD 1) (fld ((q s).reg gb) 0 10)))
    fun s => ownStream k.val (v s)

def seqHopRule (k : Seq) (gd ga gb : GReg) (func : BitVec 11) : Rule :=
  let q := fun (s : State) => s.seqOf k.val
  let v := fun (s : State) => (q s).reg ga
  formRule k.val (gd = 0 && gb = 0 && fld func 3 8 = 0 && k.val ≠ 4 && fld func 1 2 ≠ 0)
    (fun s => seqNet k.val (q s) .lo (plainTag k.val kLoCtl (v s) ((q s).epochFor k.val (v s)) 16)
      (hopPay (func.getLsbD 0) (fld func 1 2)))
    fun s => ownStream k.val (v s)

def seqPwrRule (k : Seq) (gd ga gb : GReg) (func : BitVec 11) : Rule :=
  let q := fun (s : State) => s.seqOf k.val
  let v := fun (s : State) => (q s).reg ga
  formRule k.val (gd = 0 && fld func 4 7 = 0 && fld func 0 3 ≤ 3)
    (fun s => seqNet k.val (q s) .pwr (plainTag k.val kPwrCtl (v s) ((q s).epochFor k.val (v s)) 16)
      (pwrPay (fld func 0 3) (func.getLsbD 3) (if k.val = 4 then 0xF else 2 ^ k.val) ((q s).reg gb)))
    fun s => ownStream k.val (v s)

def seqCommitRule (k : Seq) (gd ga gb : GReg) (func : BitVec 11) : Rule :=
  let q := fun (s : State) => s.seqOf k.val
  let v := fun (s : State) => (q s).reg ga
  formRule k.val (gd = 0 && gb = 0 && fld func 8 3 = 0 && k.val = 4 && fld func 0 2 ≠ 0 && fld func 3 3 ≤ 4)
    (fun s =>
      let g := plainTag k.val kBeamCommit (v s) ((q s).epochFor k.val (v s)) 8
      seqNet k.val (q s) .bf (sealTag { g with bank := BitVec.ofNat 1 (fld func 2 1), mu := BitVec.ofNat 3 (fld func 3 3)
                                               carrier := BitVec.ofNat 2 (fld func 6 2) }) (commitPay (fld func 0 2)))
    fun s => ownStream k.val (v s)

def seqBeamselRule (k : Seq) (gd ga gb : GReg) (func : BitVec 11) : Rule :=
  let q := fun (s : State) => s.seqOf k.val
  let v := fun (s : State) => (q s).reg ga
  let r := fun (s : State) => oneSymbol ((q s).reg (gd + 1) ++ (q s).reg gd) ((q s).reg gb).toNat
  let c := fun (s : State) => s.islCarAt (dirOf (fld (r s) 30 1)) (fld (r s) 12 2) (fullTick ((v s).truncate 40) s.now)
  let n := fun (s : State) => listBytes (r s) (c s).rbglog
  let read := fun (s : State) => s.readList k (fld ((q s).reg (gd + 3)) 0 40) (n s)
  let item := fun (s : State) (l : Bytes) =>
    let g := plainTag k.val kBeamSel (v s) ((q s).epochFor k.val (v s)) (24 + n s)
    seqNet k.val (q s) .bf (sealTag { g with carrier := BitVec.ofNat 2 (fld (r s) 12 2)
                                             symbol := BitVec.ofNat 4 ((q s).reg gb).toNat, mu := BitVec.ofNat 3 (fld func 0 3) })
      (leBytes 8 0 ++ leBytes 16 (r s).toNat ++ l)
  ⟨fun s => s.seqReady k.val && fld func 3 8 = 0 && k.val = 4 && decide (gd.toNat ≤ 28) && decide (((q s).reg gb).toNat ≤ 13) &&
     fld func 0 3 ≤ 4 && recordOk (r s) (c s).nrb (c s).rbglog && n s ≤ 4072 && ownStream k.val (v s) &&
     (match read s with
       | (.inr l, u) => u.seqMayIssue k.val [item s l]
       | _ => false),
   fun s => match read s with
     | (.inr l, u) => u.seqSendNow k.val [item s l]
     | _ => s⟩

def seqSquashRule (k : Seq) (gd ga gb : GReg) (func : BitVec 11) : Rule :=
  let t := fun (s : State) => ((s.seqOf k.val).reg ga).truncate 40
  ⟨fun s => s.seqReady k.val && decide (gd = 0) && decide (gb = 0) && decide (func = 0) && (s.seqOf k.val).opened &&
     !s.squashBound (s.seqOf k.val) && s.seqMayIssue k.val ((s.seqOf k.val).squashItems k.val (t s)),
   fun s => s.squashNow k.val (t s)⟩

def seqSquashStallEndRule (k : Seq) : Rule :=
  ⟨fun s => s.seqIslandOn k.val && (s.seqOf k.val).state = .stalled && (s.seqOf k.val).refused = [] && !s.squashBound (s.seqOf k.val) &&
     (match (s.seqOf k.val).stall with
       | .squash t true => s.seqMayIssue k.val ((s.seqOf k.val).squashItems k.val t)
       | _ => false),
   fun s => match (s.seqOf k.val).stall with
     | .squash t _ => s.squashNow k.val t
     | _ => s⟩

def refusalFaultRule (k : Seq) : Rule :=
  ⟨fun s => s.seqIslandOn k.val && (s.seqOf k.val).refused ≠ [],
   fun s => (s.setSeq k.val { s.seqOf k.val with
     state := .faulted, cause := 0xC, faultpc := (s.seqOf k.val).refused.headD 0, opened := false, spec := []
     stall := .none, refused := [] }).signal (16 + k.val)⟩

/-- Where a sequencer starts (R296). -/
def State.seqEntry (s : State) (k : Nat) : BitVec 20 := BitVec.ofNat 20 (fld (s.reg (rSeqEntry k)) 2 17 * 4)

/-! ### Control of the sequencers and the issue queues (R296, R297, R307, R308, R337, R525). -/

/-! RUN starts a stopped sequencer with its registers as they stand; clearing it stops one that has not faulted; RESTART clears and
starts it. -/

def seqRunRule (k : Seq) : Rule :=
  ⟨fun s => s.unitTakes (0x18100 + 0x40 * k.val),
   fun s => (if (s.seqOf k.val).state = .stopped then
       s.setSeq k.val { s.seqOf k.val with run := true, state := .running, stall := .none, refused := [], pc := s.seqEntry k.val }
     else s.setSeq k.val { s.seqOf k.val with run := true }).done⟩

def seqStopRule (k : Seq) : Rule :=
  ⟨fun s => s.unitTakes (0x18100 + 0x40 * k.val),
   fun s => (if (s.seqOf k.val).state = .faulted then s.setSeq k.val { s.seqOf k.val with run := false }
     else s.setSeq k.val { s.seqOf k.val with
       run := false, state := .stopped, stall := .none, opened := false, spec := [], refused := [] }).done⟩

def seqRestartRule (k : Seq) : Rule :=
  ⟨fun s => s.unitTakes (0x18100 + 0x40 * k.val),
   fun s =>
     let q := s.seqOf k.val
     (s.setSeq k.val { run := true, state := .running, pc := s.seqEntry k.val, leadMax := q.leadMax, queue := q.queue
                       squashes := q.squashes, cause := q.cause, faultpc := q.faultpc }).done⟩

/-! A push joins the queue; one by another initiator is an error, and so are a malformed one (cause 5) and one to a full queue
(cause 6), which are counted and told in LASTERR (R307-R309). -/

def hiqPushRule (w : Initiator) (v : BitVec 64) : Rule :=
  ⟨fun s => s.unitTakes 0x18020,
   fun s =>
     let refused := fun (c : Nat) => (({ s with hiq := { s.hiq with lasterr := c } } : State).bump rHiqerr).error
     if w ≠ .host then s.error
     else if fld v 0 4 ≠ 0 || fld v 46 18 ≠ 0 then refused 5
     else if 64 ≤ s.hiq.pushes.length then refused 6
     else ({ s with hiq := { s.hiq with pushes := s.hiq.pushes ++ [v] } } : State).done⟩

def miqPushRule (w : Initiator) (v : BitVec 64) : Rule :=
  ⟨fun s => s.unitTakes 0x18030,
   fun s =>
     let refused := fun (c : Nat) => (({ s with miq := { s.miq with lasterr := c } } : State).bump rMiqerr).error
     if w ≠ .mgmt then s.error
     else if fld v 0 4 ≠ 0 || fld v 46 18 ≠ 0 then refused 5
     else if 64 ≤ s.miq.pushes.length then refused 6
     else ({ s with miq := { s.miq with pushes := s.miq.pushes ++ [v] } } : State).done⟩

def issueQueueIssueRule (q : IssueQ) : Rule :=
  let host := decide (q = .hiq)
  let src := if host then 12 else 13
  let w : Initiator := if host then .host else .mgmt
  let plan := fun (s : State) =>
    match (s.iqOf host).pushes with
    | v :: _ =>
      match s.queueRead w (fld v 0 40) 16, portOf (fld v 40 4) with
      | (some h, u), some p =>
        let t := tagFromBytes h
        match u.queueRead w (fld v 0 40 + 16) (imageBytes t.kind t.length.toNat) with
        | (some b, u) =>
          let t' := sealTag { t with source := BitVec.ofNat 4 src, damaged := false, warmup := false, late := false }
          let xs := (queueTiles p t.kind b (fld v 44 2)).map fun i => (⟨src, p, i, ⟨t', b, 0⟩, 0⟩ : NetItem)
          if queueCheck src (some p) (fld v 44 2) t = 0 && !xs.isEmpty && u.haveCredit src 16 xs then some (u, xs) else none
        | _ => none
      | _, _ => none
    | [] => none
  ⟨fun s => s.seqIslandOn 0 && (plan s).isSome,
   fun s => match plan s with
     | some (u, xs) => u.queueSend host xs
     | none => s⟩

def lockstepMismatchRule (mgmt : Bool) : Rule :=
  let u := if mgmt then 10 else 6
  ⟨fun s => !s.isFenced u, fun s => (s.signal 124).fence u 3⟩

/-! ## Vector cores -/

/-- The core's registers with a V word's write, and the sticky flags it sets (R353, R355, R361). -/
def VcSt.took (x : VcSt) (r : VRes) : VcSt :=
  let y := match r.write with
    | .none => x
    | .vec i w => x.setV i w
    | .acc i rails ovf => x.setAcc i rails ovf
    | .scalar i w => x.setS i w
  { y with stOvf := y.stOvf || r.ovf, stSat := y.stSat || r.sat, stDom := y.stDom || r.dom }

/-- A bundle is done: the V word's result is written, an overflow raises the core's event where VCn_CFG asks for it, and the
core moves on past the word at `last` (R355, R362). -/
def State.retire (s : State) (n : Nat) (y : VcSt) (r : VRes) (last : Nat) : State :=
  if r.ovf && (s.reg (rVcCfg n)).getLsbD 2 then
    let u := (s.setVc n (y.took r)).vcCause n 1
    u.setVc n ((u.vcOf n).next last)
  else s.setVc n ((y.took r).next last)

/-- A V word: word 0 of a dual-issued bundle reads its operands and waits for the S word; else it writes and the core moves on
(R362). Of a bundle that issues its words one by one, no word writes a register of the other, and what word 0 may change is kept until
the bundle is done (R350). -/
def vRule (n : Vc) (dual ok : Bool) (f : State → VcSt → VRes) : Rule :=
  ⟨fun s => s.bundleReady n.val && (s.vcOf n.val).staged.isNone && ok &&
     !(s.vcOf n.val).clash (f s (s.vcOf n.val)).write.regs,
   fun s =>
     let x := s.vcOf n.val
     if dual && x.pc.toNat % 8 = 0 then s.setVc n.val { x with staged := some (f s x) }
     else s.retire n.val (x.begin (f s x).write.regs) (f s x) x.pc.toNat⟩

def vVec (d : VField) (t : Bool) (rails : List Int) : VRes :=
  { write := .vec d.toNat (vecOf t (rails.map (satN (if t then 32 else 16)))), sat := rails.any (clampsN (if t then 32 else 16)) }

/-! ### The vector slot (R353-R361, R371, R372). -/

def vNopRule (n : Vc) (dual : Bool) (d a b : VField) (f : VfField) : Rule :=
  vRule n dual (decide (d = 0) && decide (a = 0) && decide (b = 0) && decide (f = 0)) fun _ _ => {}

def vCmacRule (n : Vc) (dual : Bool) (d a b : VField) (f : VfField) : Rule :=
  vRule n dual (accField d && vfZero f 8) fun _ x =>
      let ra := vecRails false (x.vreg a.toNat)
      let rb := vecRails false (x.vreg b.toNat)
      let ls := (List.range 16).map fun i =>
        let p := laneMul (laneOf16 ra (if f.getLsbD 4 then fld f 0 4 else i)) (laneOf16 rb i) (f.getLsbD 5) (f.getLsbD 6)
        if f.getLsbD 7 then (p, false) else macLane (x.accOvf d.toNat i) (x.accRail d.toNat i 0, x.accRail d.toNat i 1) p
      accOfLanes d.toNat ls
        (!f.getLsbD 7 && (List.range 16).any fun i => !x.accOvf d.toNat i && (ls.getD i ((0, 0), false)).2)

def vAddRule (n : Vc) (dual : Bool) (d a b : VField) (f : VfField) : Rule :=
  vRule n dual (vfZero f 2) fun _ x =>
      vVec d (f.getLsbD 0) (List.zipWith (fun p q => if f.getLsbD 1 then p - q else p + q)
        (vecRails (f.getLsbD 0) (x.vreg a.toNat)) (vecRails (f.getLsbD 0) (x.vreg b.toNat)))

def vConjRule (n : Vc) (dual : Bool) (d a : VField) (f : VfField) : Rule :=
  vRule n dual (vfZero f 1) fun _ x =>
      vVec d (f.getLsbD 0) ((vecRails (f.getLsbD 0) (x.vreg a.toNat)).zipIdx.map fun (p, i) => if i % 2 = 1 then -p else p)

def vNormRule (n : Vc) (dual : Bool) (d a b : VField) (f : VfField) : Rule :=
  vRule n dual (scalarField b && vfZero f 1) fun s x =>
      vVec d (f.getLsbD 0) ((vecRails (f.getLsbD 0) (x.vreg a.toNat)).map
        (normRail (fld (s.reg (rVcCfg n.val)) 0 2) (x.sreg b.toNat).toInt))

def vExpRule (n : Vc) (dual : Bool) (d a : VField) (f : VfField) : Rule :=
  vRule n dual (scalarField d && vfZero f 2 && (!f.getLsbD 1 || accField a)) fun _ x =>
      let w := if f.getLsbD 1 then 48 else if f.getLsbD 0 then 32 else 16
      let rails := if f.getLsbD 1 then x.accRails a.toNat else vecRails (f.getLsbD 0) (x.vreg a.toNat)
      { write := .scalar d.toNat (BitVec.ofNat 64 (rails.foldl (fun m r => min m (signBits w r)) (w - 1))) }

def vRndRule (n : Vc) (dual : Bool) (d a b : VField) (f : VfField) : Rule :=
  vRule n dual (accField a && vfZero f 9 && fld f 0 6 < 48 && (!f.getLsbD 8 || (scalarField b && fld f 0 6 = 0))) fun s x =>
    let sh := if f.getLsbD 8 then min (x.sreg b.toNat).toNat 47 else fld f 0 6
    let rails := if f.getLsbD 6 then ((x.accRails a.toNat).drop (if f.getLsbD 7 then 16 else 0)).take 16 else x.accRails a.toNat
    vVec d (f.getLsbD 6) (rails.map fun r => roundBy (fld (s.reg (rVcCfg n.val)) 0 2) r sh)

def vRsqRule (n : Vc) (dual : Bool) (d a : VField) (f : VfField) : Rule :=
  vRule n dual (vfZero f 0) fun _ x =>
      let xs := (List.range 8).map fun i => (vecRails true (x.vreg a.toNat)).getD (2 * i) 0
      let ls := xs.map fun v => if v ≤ 0 then ((0x7FFFFFFF : Int), (0 : Int)) else rsqLane v.toNat
      { write := .vec d.toNat (vecOf true (ls.flatMap fun l => [l.1, l.2])), dom := xs.any fun v => decide (v ≤ 0) }

def vSplatRule (n : Vc) (dual : Bool) (d a : VField) (f : VfField) : Rule :=
  vRule n dual (laneOk f) fun _ x =>
      let b := if f.getLsbD 4 then 64 else 32
      let l := laneImage (f.getLsbD 4) (x.vreg a.toNat) (fld f 0 4)
      { write := .vec d.toNat (BitVec.ofNat 512 (((List.range (512 / b)).map fun i => l * 2 ^ (b * i)).sum)) }

def vHaddRule (n : Vc) (dual : Bool) (d a : VField) (f : VfField) : Rule :=
  vRule n dual (accField d && accField a && vfZero f 0) fun _ x =>
      let r := (List.range 16).foldl (fun l i => macLane l.2 l.1 (x.accRail a.toNat i 0, x.accRail a.toNat i 1)) ((0, 0), false)
      accOfLanes d.toNat ((r.1, r.2 || x.accFlags a.toNat ≠ 0) :: List.replicate 15 ((0, 0), false)) r.2

def vAclrRule (n : Vc) (dual : Bool) (d : VField) (f : VfField) : Rule :=
  vRule n dual (accField d && vfZero f 0) fun _ _ =>
      { write := .acc d.toNat (List.replicate 32 0) 0 }

def vMovsRule (n : Vc) (dual : Bool) (d a : VField) (f : VfField) : Rule :=
  vRule n dual (scalarField d && laneOk f) fun _ x =>
      { write := .scalar d.toNat (BitVec.ofNat 64 (laneImage (f.getLsbD 4) (x.vreg a.toNat) (fld f 0 4))) }

def vInsRule (n : Vc) (dual : Bool) (d a : VField) (f : VfField) : Rule :=
  vRule n dual (scalarField a && laneOk f) fun _ x =>
      let b := if f.getLsbD 4 then 64 else 32
      { write := .vec d.toNat (setFld (x.vreg d.toNat) (b * fld f 0 4) b (x.sreg a.toNat).toNat) }

def vAovfRule (n : Vc) (dual : Bool) (d a : VField) (f : VfField) : Rule :=
  vRule n dual (scalarField d && accField a && vfZero f 0) fun _ x =>
      { write := .scalar d.toNat ((x.accFlags a.toNat).zeroExtend 64) }

/-- An S word that changes registers of its core alone: it writes, then the V word of its bundle, then the core moves on. -/
def sRule (n : Vc) (ok : VcSt → Bool) (dst : List VReg) (f : State → VcSt → VcSt) : Rule :=
  ⟨fun s => s.bundleReady n.val && ok (s.vcOf n.val) && !(s.vcOf n.val).clash dst,
   fun s =>
     let x := s.vcOf n.val
     s.retire n.val (f s (x.begin dst)) (x.staged.getD {}) x.sAddr⟩

/-- The S word of core `n` has begun, which may write the registers `dst`. -/
def State.begun (s : State) (n : Nat) (dst : List VReg) : State := s.setVc n ((s.vcOf n).begin dst)

/-- An ALU word: `r` into s[d], Z and N from it, C and V as given (R354, R373). -/
def VcSt.alu (x : VcSt) (d : SField) (r : BitVec 64) (c v : Bool) : VcSt := { x.setS d.toNat r with f := zncv r c v }

/-- An ALU word that clears C and V (R373). -/
def sAluRule (n : Vc) (d : SField) (f : VcSt → BitVec 64) : Rule :=
  sRule n (fun _ => true) (sDest d) fun _ x => x.alu d (f x) false false

/-! ### The scalar ALU (R354, R373). -/

def sAddRule (n : Vc) (d x y : SField) : Rule :=
  sRule n (fun _ => true) (sDest d) fun _ c =>
      c.alu d (c.sreg x.toNat + c.sreg y.toNat) (decide (2 ^ 64 ≤ (c.sreg x.toNat).toNat + (c.sreg y.toNat).toNat))
        (overflows ((c.sreg x.toNat).toInt + (c.sreg y.toNat).toInt))

def sSubRule (n : Vc) (d x y : SField) : Rule :=
  sRule n (fun _ => true) (sDest d) fun _ c =>
      c.alu d (c.sreg x.toNat - c.sreg y.toNat) (decide ((c.sreg x.toNat).toNat < (c.sreg y.toNat).toNat))
        (overflows ((c.sreg x.toNat).toInt - (c.sreg y.toNat).toInt))

def sAddiRule (n : Vc) (d x : SField) (imm : BitVec 17) : Rule :=
  sRule n (fun _ => true) (sDest d) fun _ c =>
      c.alu d (c.sreg x.toNat + imm.signExtend 64) (decide (2 ^ 64 ≤ (c.sreg x.toNat).toNat + (imm.signExtend 64).toNat))
        (overflows ((c.sreg x.toNat).toInt + imm.toInt))

def sAndRule (n : Vc) (d x y : SField) : Rule := sAluRule n d fun c => c.sreg x.toNat &&& c.sreg y.toNat

def sOrRule (n : Vc) (d x y : SField) : Rule := sAluRule n d fun c => c.sreg x.toNat ||| c.sreg y.toNat

def sXorRule (n : Vc) (d x y : SField) : Rule := sAluRule n d fun c => c.sreg x.toNat ^^^ c.sreg y.toNat

def sSllRule (n : Vc) (d x y : SField) : Rule := sAluRule n d fun c => c.sreg x.toNat <<< ((c.sreg y.toNat).toNat % 64)

def sSrlRule (n : Vc) (d x y : SField) : Rule := sAluRule n d fun c => c.sreg x.toNat >>> ((c.sreg y.toNat).toNat % 64)

def sSraRule (n : Vc) (d x y : SField) : Rule :=
  sAluRule n d fun c => (c.sreg x.toNat).sshiftRight ((c.sreg y.toNat).toNat % 64)

def sMulRule (n : Vc) (d x y : SField) : Rule :=
  sAluRule n d fun c => BitVec.ofNat 64 ((c.sreg x.toNat).toNat * (c.sreg y.toNat).toNat)

def sSltRule (n : Vc) (d x y : SField) : Rule :=
  sAluRule n d fun c => if (c.sreg x.toNat).toInt < (c.sreg y.toNat).toInt then 1 else 0

def sSltuRule (n : Vc) (d x y : SField) : Rule :=
  sAluRule n d fun c => if (c.sreg x.toNat).toNat < (c.sreg y.toNat).toNat then 1 else 0

def sMinRule (n : Vc) (d x y : SField) : Rule :=
  sAluRule n d fun c => BitVec.ofInt 64 (min (c.sreg x.toNat).toInt (c.sreg y.toNat).toInt)

def sMaxRule (n : Vc) (d x y : SField) : Rule :=
  sAluRule n d fun c => BitVec.ofInt 64 (max (c.sreg x.toNat).toInt (c.sreg y.toNat).toInt)

/-! ### Moves of the scalar slot (R352, R354, R373). -/

def sNopRule (n : Vc) (d x y : SField) (func : BitVec 13) : Rule :=
  sRule n (fun _ => decide (d = 0) && decide (x = 0) && decide (y = 0) && decide (func = 0)) [] fun _ c => c

def sLiRule (n : Vc) (d x : SField) (imm : BitVec 17) : Rule :=
  sRule n (fun _ => decide (x = 0)) (sDest d) fun _ c => c.setS d.toNat (imm.signExtend 64)

def sLihRule (n : Vc) (d x : SField) (imm : BitVec 17) : Rule :=
  sRule n (fun _ => decide (x = 0) && !imm.getLsbD 16) (sDest d) fun _ c =>
      c.setS d.toNat ((c.sreg d.toNat <<< 16) ||| imm.zeroExtend 64)

def sMovRule (n : Vc) (d x y : SField) (func : BitVec 13) : Rule :=
  let to_ := fld func 0 2
  let from_ := fld func 2 2
  sRule n (fun _ => decide (y = 0) && decide (func.toNat < 16) && decide (to_ ≠ 3) && decide (from_ ≠ 3))
    (movDest to_ d) fun _ c =>
      let v : BitVec 64 := if from_ = 0 then c.sreg x.toNat
        else if from_ = 1 then (c.areg x.toNat).zeroExtend 64 else (c.oreg x.toNat).signExtend 64
      if to_ = 0 then c.setS d.toNat v else if to_ = 1 then c.setA d.toNat (v.truncate 40) else c.setO d.toNat (v.truncate 32)

def sAaddiRule (n : Vc) (d x : SField) (imm : BitVec 17) : Rule :=
  sRule n (fun _ => true) [.a d.toNat] fun _ c => c.setA d.toNat (c.areg x.toNat + imm.signExtend 40)

def sMfsrRule (n : Vc) (d : SField) (imm : BitVec 17) : Rule :=
  sRule n (fun _ => decide (imm.toNat ≤ 4)) (sDest d) fun s c =>
      c.setS d.toNat (BitVec.ofNat 64 (
        if imm = 0 then s.now.toNat else if imm = 1 then n.val else if imm = 2 then cyclesOf (s.clock - c.runAt)
        else if imm = 3 then (c.loops[0]?.map VLoop.left).getD 0 else (c.loops[1]?.map VLoop.left).getD 0))

/-- A load into `d`: from the core's own data memory at once, with the post-modification of its address register; from
elsewhere the core stalls until the response (R366, R368). -/
def vcLoadRule (n : Vc) (d : VDest) (dst : List VReg) (a : VcSt → Nat) (len : Nat) (ax oy : SField) : Rule :=
  ⟨fun s =>
     let x := s.vcOf n.val
     s.bundleReady n.val && !x.clash (dst ++ postDest ax oy) && decide (a x % vcAlign n.val (a x) len = 0) &&
     (!vcLocal n.val (a x) len || (match (s.begun n.val (dst ++ postDest ax oy)).busRead (.vc n) (a x) len with
       | (.ok _, _) => true
       | _ => false)),
   fun s =>
     let x := s.vcOf n.val
     let z := s.begun n.val (dst ++ postDest ax oy)
     if vcLocal n.val (a x) len then
       match z.busRead (.vc n) (a x) len with
       | (.ok b, u) =>
         let y := ((u.vcOf n.val).writeLoad d b).postMod ax.toNat oy.toNat
         u.retire n.val y (y.staged.getD {}) y.sAddr
       | _ => s
     else s.setVc n.val { z.vcOf n.val with state := .stalled, stall := .load d (a x) len ax.toNat oy.toNat }⟩

/-- A store without TRY, while fewer than 16 are outstanding: into the core's own data memory at once; elsewhere it becomes
outstanding, and the core goes on (R363, R367, R368). -/
def vcStoreRule (n : Vc) (plain : Bool) (a : VcSt → Nat) (data : VcSt → Bytes) (ax oy : SField) : Rule :=
  ⟨fun s =>
     let x := s.vcOf n.val
     s.bundleReady n.val && plain && !x.clash (postDest ax oy) && decide (a x % vcAlign n.val (a x) (data x).length = 0) &&
     decide (x.stores.length < 16) &&
     (!vcLocal n.val (a x) (data x).length || ((s.begun n.val (postDest ax oy)).memWrite (a x) (data x)).isSome),
   fun s =>
     let x := s.vcOf n.val
     let z := s.begun n.val (postDest ax oy)
     let u := if vcLocal n.val (a x) (data x).length then
         let m := (z.memWrite (a x) (data x)).getD z
         m.setVc n.val ((m.vcOf n.val).keeping ((List.range (data x).length).map fun i => (a x + i, s.byteAt (a x + i))))
       else z.setVc n.val { z.vcOf n.val with stores := x.stores ++ [⟨a x, data x, false, x.pc⟩] }
     let y := (u.vcOf n.val).postMod ax.toNat oy.toNat
     u.retire n.val y (y.staged.getD {}) y.sAddr⟩

/-! ### Loads, stores and their responses (R366-R369). -/

def sVldRule (n : Vc) (t : VField) (ax oy : SField) (disp : BitVec 12) : Rule :=
  vcLoadRule n (.vec t.toNat) [.v t.toNat] (fun x => x.addr ax disp.toInt 64) 64 ax oy

def sLdRule (n : Vc) (t : VField) (ax oy : SField) (disp : BitVec 12) : Rule :=
  vcLoadRule n (.scalar (fld t 1 4) (sSize disp) (t.getLsbD 0)) (sDest (BitVec.ofNat 4 (fld t 1 4)))
    (fun x => x.addr ax (sfld disp 0 10) (sSize disp)) (sSize disp) ax oy

def sVstRule (n : Vc) (t : VField) (ax oy : SField) (disp : BitVec 12) : Rule :=
  vcStoreRule n true (fun x => x.addr ax disp.toInt 64) (fun x => leBytes 64 (x.vreg t.toNat).toNat) ax oy

def sStRule (n : Vc) (t : VField) (ax oy : SField) (disp : BitVec 12) : Rule :=
  vcStoreRule n (!t.getLsbD 0) (fun x => x.addr ax (sfld disp 0 10) (sSize disp))
    (fun x => leBytes (sSize disp) (x.sreg (fld t 1 4)).toNat) ax oy

def remoteLoadResponseRule (n : Vc) : Rule :=
  ⟨fun s => (s.vcOf n.val).state = .stalled && s.vcOn n.val &&
     (match (s.vcOf n.val).stall with
       | .load _ a len _ _ => !((s.vcOf n.val).stores.any fun y => accessRegion y.addr y.data.length = accessRegion a len) &&
         (match s.busRead (.vc n) a len with
         | (.ok _, _) => true
         | _ => false)
       | _ => false),
   fun s => match (s.vcOf n.val).stall with
     | .load d a len ax oy => (match s.busRead (.vc n) a len with
       | (.ok b, u) =>
         let y := ((u.vcOf n.val).writeLoad d b).postMod ax oy
         { u.retire n.val y (y.staged.getD {}) y.sAddr with resp := .none }
       | _ => s)
     | _ => s⟩

def remoteStoreResponseRule (n : Vc) : Rule :=
  let u := fun (s : State) => match (s.vcOf n.val).stores with
    | y :: ys => (s.setVc n.val { s.vcOf n.val with stores := ys }).busWrite (.vc n) y.addr y.data
    | [] => s
  ⟨fun s => s.vcOn n.val && (match (s.vcOf n.val).stores with
     | y :: _ => !y.try_
     | [] => false) && (u s).resp ≠ .error && ((u s).vcOf n.val).state ≠ .stalled,
   fun s => { u s with resp := .none }⟩

/-- A taken branch to `t`, a multiple of 4 within program memory: the V word of the bundle writes, loops that the branch leaves
end (R364, R365). -/
def State.branched (s : State) (n : Nat) (y : VcSt) (t : Nat) : State :=
  let u := match y.staged with
    | some r => (s.setVc n y).vcApply n r
    | none => s.setVc n y
  let z := u.vcOf n
  u.setVc n { z with pc := BitVec.ofNat 20 t, loops := (dropLoops z.loops.reverse t).reverse }.atBoundary

def goodTarget (t : Int) : Bool := decide (t % 4 = 0) && decide (0 ≤ t ∧ t ≤ 0x3FFFC)

/-! ### Branches, loops and waits of the scalar slot, and control of a core (R349-R351, R364, R365, R369, R374). -/

def sBRule (n : Vc) (cond : BitVec 5) (off : BitVec 20) : Rule :=
  ⟨fun s =>
     let x := s.vcOf n.val
     s.bundleReady n.val && (aluCond x.f cond.toNat).isSome &&
     (aluCond x.f cond.toNat ≠ some true || goodTarget ((x.sAddr : Int) + off.toInt * 4)),
   fun s =>
     let x := s.vcOf n.val
     if aluCond x.f cond.toNat = some true then s.branched n.val (x.begin []) ((x.sAddr : Int) + off.toInt * 4).toNat
     else s.retire n.val (x.begin []) (x.staged.getD {}) x.sAddr⟩

def sBlRule (n : Vc) (cond : BitVec 5) (off : BitVec 20) : Rule :=
  ⟨fun s =>
     let x := s.vcOf n.val
     s.bundleReady n.val && decide (cond = 0) && !x.clash [.s 15] && goodTarget ((x.sAddr : Int) + off.toInt * 4),
   fun s =>
     let x := s.vcOf n.val
     s.branched n.val ((x.begin [.s 15]).setS 15 (BitVec.ofNat 64 ((x.sAddr / 8 + 1) * 8))) ((x.sAddr : Int) + off.toInt * 4).toNat⟩

def sJrRule (n : Vc) (d x y : SField) (func : BitVec 13) : Rule :=
  ⟨fun s => s.bundleReady n.val && decide (d = 0) && decide (y = 0) && decide (func = 0) &&
     goodTarget ((s.vcOf n.val).sreg x.toNat).toNat,
   fun s => s.branched n.val ((s.vcOf n.val).begin []) ((s.vcOf n.val).sreg x.toNat).toNat⟩

def sLoopRule (n : Vc) (w1 : Bool) (d x : SField) (imm : BitVec 17) : Rule :=
  ⟨fun s =>
     let c := s.vcOf n.val
     s.bundleReady n.val && decide (d = 0) && w1 && decide (c.sAddr % 8 = 4) && decide (imm.toNat % 2 = 0) &&
     decide (imm ≠ 0) && (decide (c.loops.length < 2) || decide ((c.sreg x.toNat).toNat = 0)),
   fun s =>
     let c := s.vcOf n.val
     let last := c.sAddr + imm.toNat * 4
     let u := s.retire n.val (c.begin []) (c.staged.getD {}) c.sAddr
     let y := u.vcOf n.val
     if (c.sreg x.toNat).toNat = 0 then u.setVc n.val (y.next last)
     else u.setVc n.val { y with loops := y.loops ++ [⟨c.sAddr + 4, last, (c.sreg x.toNat).toNat⟩] }⟩

/-- SEV sets its cause and raises the core's event, once with an overflow of its bundle's V word, and the core moves on (R351). -/
def sSevRule (n : Vc) (d x y : SField) (func : BitVec 13) : Rule :=
  ⟨fun s => s.bundleReady n.val && decide (d = 0) && decide (x = 0) && decide (y = 0) && decide (func = 0),
   fun s =>
     let c := s.vcOf n.val
     let u := s.setVc n.val { c.begin [] with evcause := setBit c.evcause 2 true }
     let u := if (c.staged.getD {}).ovf && (s.reg (rVcCfg n.val)).getLsbD 2 then u else u.signal (32 + n.val)
     u.retire n.val (u.vcOf n.val) (c.staged.getD {}) c.sAddr⟩

def sSleepRule (n : Vc) (x : SField) : Rule :=
  ⟨fun s => s.bundleReady n.val,
   fun s =>
     let c := s.vcOf n.val
     let u := s.retire n.val (c.begin []) (c.staged.getD {}) c.sAddr
     if (c.sreg x.toNat).toNat = 0 || (u.vcOf n.val).state ≠ .running then u
     else u.setVc n.val { u.vcOf n.val with state := .sleeping, sleepTo := u.clock + ticksOfCycles (c.sreg x.toNat).toNat }⟩

def sleepEndRule (n : Vc) : Rule :=
  ⟨fun s => (s.vcOf n.val).state = .sleeping && decide ((s.vcOf n.val).sleepTo ≤ s.clock) && s.vcOn n.val,
   fun s => s.setVc n.val { s.vcOf n.val with state := .running }⟩

def sFenceRule (n : Vc) (d x y : SField) (func : BitVec 13) : Rule :=
  ⟨fun s => s.bundleReady n.val && decide (d = 0) && decide (x = 0) && decide (y = 0) && decide (func = 0),
   fun s =>
     let c := s.vcOf n.val
     if c.stores.isEmpty then s.retire n.val (c.begin []) (c.staged.getD {}) c.sAddr
     else s.setVc n.val { c.begin [] with state := .stalled, stall := .fence }⟩

def sHaltRule (n : Vc) : Rule :=
  ⟨fun s => s.bundleReady n.val,
   fun s =>
     let c := s.vcOf n.val
     let u := s.retire n.val (c.begin []) (c.staged.getD {}) c.sAddr
     u.setVc n.val { u.vcOf n.val with run := false }.atBoundary⟩

/-! RUN starts a stopped core with its registers as they stand; clearing it stops one that has not faulted at the end of a
bundle whose word 0 has issued, else at once, a bundle stalled at that moment being abandoned unexecuted; RESTART clears and starts
it, and the stores already issued complete (R349, R350). -/

/-- Where a core starts. -/
def State.vcEntry (s : State) (n : Nat) : BitVec 20 := BitVec.ofNat 20 (fld (s.reg (rVcEntry n)) 2 16 * 4)

def vcRunRule (n : Vc) : Rule :=
  ⟨fun s => s.unitTakes (0x1A000 + 0x40 * n.val),
   fun s => (if (s.vcOf n.val).state = .stopped then
       s.setVc n.val { s.vcOf n.val with
         run := true, state := .running, pc := s.vcEntry n.val, loops := [], staged := none, word0 := none, stall := .none, runAt := s.clock }
     else s.setVc n.val { s.vcOf n.val with run := true }).done⟩

def vcStopRule (n : Vc) : Rule :=
  ⟨fun s => s.unitTakes (0x1A000 + 0x40 * n.val),
   fun s => (if (s.vcOf n.val).state = .faulted || (s.vcOf n.val).midBundle then s.setVc n.val { s.vcOf n.val with run := false }
     else (s.vcUndo n.val).setVc n.val
       { (s.vcUndo n.val).vcOf n.val with run := false, state := .stopped, staged := none, stall := .none }).done⟩

def vcRestartRule (n : Vc) : Rule :=
  ⟨fun s => s.unitTakes (0x1A000 + 0x40 * n.val),
   fun s => (s.setVc n.val { run := true, state := .running, pc := s.vcEntry n.val
                             stores := (s.vcOf n.val).stores, runAt := s.clock }).done⟩

/-! ## Serial lanes and link ports -/

/-! ### Lane groups and lanes (R378, R381-R389, R398). -/

def laneGroupEnableRule (g : Group) (v : BitVec 32) : Rule :=
  let new := fun (s : State) => gcfgValue (s.reg (rLaneGcfg g.val)) (setBit v 4 true)
  ⟨fun s => s.unitTakes (rLaneGcfg g.val) && !(s.reg (rLaneGcfg g.val)).getLsbD 4 && (new s).getLsbD 4 && s.gcfgOk g.val (s.reg (rLaneGcfg g.val)) (new s),
   fun s => ((s.setReg (rLaneGcfg g.val) (new s)).startPll g.val).done⟩

def laneGroupDisableRule (g : Group) (v : BitVec 32) : Rule :=
  let new := fun (s : State) => gcfgValue (s.reg (rLaneGcfg g.val)) (setBit v 4 false)
  ⟨fun s => s.unitTakes (rLaneGcfg g.val) && (s.reg (rLaneGcfg g.val)).getLsbD 4 && !(new s).getLsbD 4 && s.gcfgOk g.val (s.reg (rLaneGcfg g.val)) (new s),
   fun s =>
     let u := (groupLanes g.val).foldl (fun s l => (s.laneDown l).idleLane l) s
     let u := (groupLanes g.val).foldl (fun s l =>
       s.setLane l { s.laneOf l with sigdet := false, cdrlock := false, blocklock := false, expidle := false, acq := false
                                     fastRx := none, needFull := true, shCnt := 0, shBad := 0, looped := [] })
       { u with pllLock := setBit u.pllLock g.val false }
     (u.setReg (rLaneGcfg g.val) (new s)).done⟩

def laneIdleRequestRule (l : Lane) (v : BitVec 32) : Rule :=
  let new := fun (s : State) => maskIn (s.reg (rLaneCtrl l.val)) (setBit v 2 true) 0x000FFF0F
  ⟨fun s => s.unitTakes (rLaneCtrl l.val) && !(s.reg (rLaneCtrl l.val)).getLsbD 2 && (new s).getLsbD 2,
   fun s =>
     let u := s.setReg (rLaneCtrl l.val) (new s)
     if u.groupRole (l.val / 8) = 3 then u.done
     else match (u.laneOf l.val).tx with
       | .training _ => if (u.laneOf l.val).retrain then (u.setLane l.val { u.laneOf l.val with idlePend := true }).done else (u.idleLane l.val).done
       | _ => (u.idleLane l.val).done⟩

def laneIdleExitRule (l : Lane) (v : BitVec 32) : Rule :=
  let new := fun (s : State) => maskIn (s.reg (rLaneCtrl l.val)) (setBit v 2 false) 0x000FFF0F
  ⟨fun s => s.unitTakes (rLaneCtrl l.val) && (s.reg (rLaneCtrl l.val)).getLsbD 2 && !(new s).getLsbD 2,
   fun s =>
     let u := s.setReg (rLaneCtrl l.val) (new s)
     if u.groupRole (l.val / 8) = 3 then u.done
     else ((u.wakeLane l.val).updLane l.val fun x => { x with idlePend := false }).done⟩

def pllLockRule (g : Group) : Rule :=
  ⟨fun s => s.groupOn g.val && !s.pllLock.getLsbD g.val && s.laneRail,
   fun s => (groupLanes g.val).foldl (fun s l =>
     let u := s.setLane l { s.laneOf l with needFull := true, acq := true, acqAt := s.clock }
     if u.heldIdle l then u else u.wakeLane l) { s with pllLock := setBit s.pllLock g.val true }⟩

/-! Blocks of the lane layer as the descrambler gives them: IDLE_ENTRY announces an idle; a TRAIN block of another index is counted;
RETRAIN asks for a full training at once (R379-R381, R384, R386, R389). -/

def idleEntryRule (l : Lane) (run : LineRun) : Rule :=
  let u := fun (s : State) => (s.gotBlock l.val 0xD4 run).2
  ⟨fun s => (u s).rxOpen l.val && ((u s).laneOf l.val).blocklock && (s.gotBlock l.val 0xD4 run).1.isSome,
   fun s => (u s).setLane l.val { (u s).laneOf l.val with expidle := true }⟩

def trainRule (l : Lane) (run : LineRun) : Rule :=
  let u := fun (s : State) => (s.gotBlock l.val 0xD2 run).2
  ⟨fun s => (u s).rxOpen l.val && (s.gotBlock l.val 0xD2 run).1.any fun b => decide (b % 8 ≠ l.val % 8),
   fun s => ((u s).bump (cLane l.val 4)).signal (64 + l.val / 8)⟩

def retrainRule (l : Lane) (run : LineRun) : Rule :=
  let got := fun (s : State) => (s.gotBlock l.val 0xD6 run).2
  ⟨fun s => (got s).rxOpen l.val && (s.gotBlock l.val 0xD6 run).1.isSome,
   fun s =>
     let s := got s
     if s.txAllowed l.val then
       let u := s.trainLane l.val
       u.setLane l.val { u.laneOf l.val with idlePend := s.heldIdle l.val, retrain := true }
     else s.setLane l.val { s.laneOf l.val with fastOk := false }⟩

/-- Signal on a receiver that had none: after a reported loss the lane trains again; a fast exit begins where the idle was announced,
else full acquisition; with WAKE the device wakes too (R385, R387, R396, R397). -/
def signalDetectRule (l : Lane) : Rule :=
  ⟨fun s => s.groupOn (l.val / 8) && !(s.laneOf l.val).sigdet && s.signalCan l.val,
   fun s =>
     let u := if s.laneNative l.val && (s.laneOf l.val).needFull && !(s.laneOf l.val).acq then s.trainAgain l.val else s
     let x := u.laneOf l.val
     let u :=
       if x.sigdet || !u.signalCan l.val then u
       else if u.laneNative l.val && x.expidle && !x.needFull && !x.owesTx && !x.owesRx then
         u.setLane l.val { x with sigdet := true, cdrlock := true, expidle := false, fastRx := some u.clock }
       else u.setLane l.val { x with
         sigdet := true, expidle := false, acq := true, acqAt := u.clock, fastRx := none, shCnt := 0, shBad := 0 }
     if (s.reg (rLaneCtrl l.val)).getLsbD 3 then u.wakeFromLow 3 l.val else u⟩

def fastExitLockRule (l : Lane) (run : LineRun) : Rule :=
  let u := fun (s : State) => (s.lineIn l.val run).2
  ⟨fun s => ((u s).laneOf l.val).fastRx.isSome && ((u s).laneOf l.val).sigdet && decide ((s.lineIn l.val run).1.length = 4) &&
     (s.lineIn l.val run).1.all fun b => (b.lane 0xD2).isSome,
   fun s => (u s).setLane l.val { (u s).laneOf l.val with blocklock := true, fastRx := none, shCnt := 0, shBad := 0 }⟩

def fastExitFailRule (l : Lane) : Rule :=
  ⟨fun s => match (s.laneOf l.val).fastRx with
     | some t => decide (t + s.blockTk (l.val / 8) (s.nominalBurst (l.val / 8) + 64) ≤ s.clock)
     | none => false,
   fun s =>
     let u := s.setLane l.val { s.laneOf l.val with
       fastfail := true, fastRx := none, acq := true, acqAt := s.clock, cdrlock := false, needFull := true, shCnt := 0, shBad := 0 }
     let u := ((u.bump (cLane l.val 3)).signal (64 + l.val / 8)).wakeLane l.val
     if (u.laneOf l.val).tx = .idle then u
     else
       let u := u.sendBlock l.val 1 0xD6
       if u.heldIdle l.val then u.retrainLane l.val else u⟩

def trainingEndRule (l : Lane) : Rule :=
  ⟨fun s => match (s.laneOf l.val).tx with
     | .training t => decide (t + 65536 ≤ s.clock)
     | .burst t => decide (t + s.blockTk (l.val / 8) (s.burstBlocks (l.val / 8)) ≤ s.clock)
     | _ => false,
   fun s =>
     let x := s.laneOf l.val
     let u := s.setLane l.val { x with tx := .data, retrain := false, owesTx := x.owesTx && !x.trains }
     if (s.laneOf l.val).idlePend then u.idleLane l.val else u⟩

/-- Sync headers of a full acquisition: 64 valid ones in a row give block lock and end it (R382). -/
def blockLockRule (l : Lane) (hdrs : List SyncHeader) : Rule :=
  ⟨fun s => (s.laneOf l.val).acq && (s.laneOf l.val).sigdet && s.groupOn (l.val / 8) && !s.prbsOn l.val,
   fun s =>
     let u := s.headers l.val hdrs
     if (u.laneOf l.val).blocklock then u.setLane l.val { u.laneOf l.val with acq := false, cdrlock := true, needFull := false, owesRx := false }
     else u⟩

def acquisitionRetryRule (l : Lane) : Rule :=
  ⟨fun s => (s.laneOf l.val).acq && decide ((s.laneOf l.val).acqAt + 65536 ≤ s.clock),
   fun s => (s.setLane l.val { s.laneOf l.val with acqAt := s.clock }).bump (cLane l.val 3)⟩

def lossOfSignalRule (l : Lane) : Rule :=
  ⟨fun s => s.groupOn (l.val / 8) && (s.laneOf l.val).sigdet,
   fun s =>
     let x := s.laneOf l.val
     let y := { x with sigdet := false, cdrlock := false, blocklock := false, fastRx := none, shCnt := 0, shBad := 0 }
     if x.expidle then s.setLane l.val y
     else
       (((s.setLane l.val { y with los := true, acq := false, needFull := true, owesTx := true, owesRx := true }).bump
         (cLane l.val 2)).signal (64 + l.val / 8)).laneDown l.val⟩

/-- The loop leaves its range, or the sync headers that come in lose the block lock: counted, told, the lane is down, and its own
transmitter trains, whose way back is a full acquisition (R382, R387, R388). -/
def lossOfLockRule (l : Lane) (range : Bool) (hdrs : List SyncHeader) : Rule :=
  let u := fun (s : State) => if (s.laneOf l.val).blocklock && !s.prbsOn l.val then s.headers l.val hdrs else s
  ⟨fun s => s.groupOn (l.val / 8) && (s.laneOf l.val).cdrlock &&
     (range || (s.laneOf l.val).blocklock && !((u s).laneOf l.val).blocklock),
   fun s =>
     let v := u s
     let v := ((((v.setLane l.val { v.laneOf l.val with
       cdrlock := false, blocklock := false, fastRx := none, lol := true, acq := true, acqAt := v.clock, needFull := true, shCnt := 0
       shBad := 0 }).bump (cLane l.val 3)).signal (64 + l.val / 8)).laneDown l.val)
     if v.laneNative l.val then v.trainAgain l.val else v⟩

/-! ### Link ports: alignment, reset, credits, acknowledgements, timeouts and egress (R400-R417, R429). -/

def portAligningRule (p : LPort) : Rule :=
  ⟨fun s => (s.portOf p.val).state = .down && !s.isFenced 8 && !(s.portLanes p.val).isEmpty &&
     (if p.val ≤ 1 then (s.portLanes p.val).all fun l => (s.laneOf l).blocklock else (s.portOf p.val).pcs),
   fun s => if p.val ≤ 1 then s.setPort p.val { s.portOf p.val with state := .aligning } else s.enterInit p.val⟩

/-- What comes in at a port, where it can: as presented, or in a near-end loop the same thing that the port has sent (R390). -/
def takenIn (p : LPort) (o : State → Out) (r : Rule) : Rule :=
  ⟨fun s => (s.portIn p.val (o s)).any r.pre,
   fun s => match s.portIn p.val (o s) with
     | some t => r.eff t
     | none => s⟩

def wordTaken (p : LPort) (w : BitVec 64) (r : Rule) : Rule := takenIn p (fun _ => .word p.val w) r

/-- A frame that comes in: as it stands on a native port, in the Ethernet frame that carries it on another. -/
def frameTaken (p : LPort) (f : Frame) (r : Rule) : Rule :=
  takenIn p (fun s => if p.val ≤ 1 then .frame p.val f.hdr f.body else .ether p.val (s.etherOf p.val f.hdr f.body)) r

def alignWordRule (p : LPort) (w : BitVec 64) (seen : AlignSeen) : Rule :=
  wordTaken p w ⟨fun s =>
     let x := s.portOf p.val
     decide (p.val ≤ 1) && (s.portLanes p.val).contains seen.lane.val && fld w 0 8 = 0x4B && wordOk w && x.state = .aligning &&
     decide (seen.skew ≤ 32) && !x.aligned.contains seen.lane.val,
   fun s =>
     let x := s.portOf p.val
     let al := x.aligned ++ [seen.lane.val]
     if al.length < (s.portLanes p.val).length then s.setPort p.val { x with aligned := al }
     else if x.periods = 0 then s.setPort p.val { x with aligned := [], periods := 1 }
     else s.enterInit p.val⟩

def alignSendRule (p : LPort) : Rule :=
  ⟨fun s => decide (p.val ≤ 1) && (s.portOf p.val).state ≠ .down,
   fun s =>
     let u := s.setPort p.val { s.portOf p.val with alignCnt := (s.portOf p.val).alignCnt + 1 }
     (u.portLanes p.val).zipIdx.foldl (fun u l =>
       let w := mkWord 0x4B (l.2 + 2 ^ 8 * (s.portOf p.val).alignCnt.toNat)
       (u.portOut p.val (.word p.val w)).laneBlock l.1 (controlBlock w)) u⟩

/-! A sound control word of its type, which has cut off the frame it came in ahead of (R401, R402, R407, R408, R414, R415). -/

def lresetWordRule (p : LPort) (cut : Bool) (w : BitVec 64) : Rule :=
  wordTaken p w ⟨fun s => decide (fld w 0 8 = 0x78) && wordOk w && decide (((s.cutFrame p.val cut).portOf p.val).state ≠ .down),
   fun s =>
     let u := s.cutFrame p.val cut
     match (u.portOf p.val).state with
     | .init => u.setPort p.val { u.portOf p.val with lresetRx := true }
     | .up =>
       let v := u.linkReset p.val
       v.setPort p.val { v.portOf p.val with lresetRx := true }
     | _ => u⟩

def portUpRule (p : LPort) : Rule :=
  ⟨fun s => let x := s.portOf p.val
     x.state = .init && x.lresetRx && decide (8 ≤ x.lresetTx) && (List.range 4).all fun v => (s.vlOf p.val v).credit,
   fun s =>
     let u := (List.range 4).foldl (fun s v => s.setVl p.val v { s.vlOf p.val v with ackFrom := s.clock, grew := s.clock }) s
     u.setPort p.val { u.portOf p.val with state := .up }⟩

def creditWordRule (p : LPort) (cut : Bool) (w : BitVec 64) : Rule :=
  let u := fun (s : State) => s.cutFrame p.val cut
  wordTaken p w ⟨fun s => (((u s).portOf p.val).state = .init || ((u s).portOf p.val).state = .up) && fld w 0 8 = 0x55 && wordOk w,
   fun s =>
     let x := (u s).vlOf p.val (fld w 8 2)
     let g := BitVec.ofNat 32 (fld w 16 32)
     (u s).setVl p.val (fld w 8 2) { x with credit := true, grant := g, grew := if g = x.grant then x.grew else (u s).clock }⟩

def creditRefreshRule (p : LPort) : Rule :=
  ⟨fun s => (s.portOf p.val).state = .init || (s.portOf p.val).state = .up,
   fun s =>
     let s := s.freeHeld p.val
     let x := s.portOf p.val
     s.setPort p.val { x with
       words := x.words ++ (List.range 4).map fun v => creditWordOf v (s.vlOf p.val v).own
       credSent := s.clock }⟩

def ackWordRule (p : LPort) (cut : Bool) (w : BitVec 64) : Rule :=
  wordTaken p w ⟨fun s => (s.cutFrame p.val cut).portUp p.val && fld w 0 8 = 0x66 && wordOk w && !w.getLsbD 10 && fld w 8 2 ≠ 2,
   fun s => (s.cutFrame p.val cut).ackUpTo p.val (fld w 8 2) (BitVec.ofNat 16 (fld w 16 16) + 1)⟩

/-- The sender goes back to its oldest frame not acknowledged; in place of the 16th time in a run the link is reset (R415). -/
def State.backToOldest (s : State) (p v : Nat) : State :=
  let x := s.vlOf p v
  if 15 ≤ x.goback then (s.bump (cPort p 2)).linkReset p
  else (s.bump (cPort p 2)).setVl p v { x with resend := x.unacked.length, goback := x.goback + 1, ackFrom := s.clock }

def nakWordRule (p : LPort) (cut : Bool) (w : BitVec 64) : Rule :=
  wordTaken p w ⟨fun s => (s.cutFrame p.val cut).portUp p.val && fld w 0 8 = 0x66 && wordOk w && w.getLsbD 10 && fld w 8 2 ≠ 2,
   fun s => ((s.cutFrame p.val cut).ackUpTo p.val (fld w 8 2) (BitVec.ofNat 16 (fld w 16 16))).backToOldest p.val (fld w 8 2)⟩

def ackTimeoutRule (p : LPort) (v : VChan) : Rule :=
  ⟨fun s => s.portUp p.val && decide (v.val ≠ 2) && !(s.vlOf p.val v.val).unacked.isEmpty &&
     decide ((s.vlOf p.val v.val).ackFrom + s.ackTo ≤ s.clock),
   fun s => s.backToOldest p.val v.val⟩

def creditTimeoutRule (p : LPort) (v : VChan) : Rule :=
  ⟨fun s => s.portUp p.val && decide (v.val ≠ 2) && (match (s.vlOf p.val v.val).queue.head? with
     | some f => !(s.vlOf p.val v.val).hasCredit (frameUnits f.body.length) &&
         decide (max (s.vlOf p.val v.val).grew f.ready + s.credTo ≤ s.clock)
     | none => false),
   fun s => (s.signal 69).linkReset p.val⟩

def vc2WaitExpiryRule (p : LPort) : Rule :=
  ⟨fun s => match (s.vlOf p.val 2).queue with
     | f :: _ => !(s.vlOf p.val 2).hasCredit (frameUnits f.body.length) && decide (f.ready + s.vc2Wait ≤ s.clock)
     | [] => false,
   fun s => (s.setVl p.val 2 { s.vlOf p.val 2 with queue := (s.vlOf p.val 2).queue.drop 1 }).bump (cPort p.val 5)⟩

/-- Link control words leave first, then a frame of VC1, then one of the VC that the round robin serves, which shares are noted for
(R412, R413). -/
def frameSendRule (p : LPort) : Rule :=
  ⟨fun s => let x := s.portOf p.val
     (x.state = .init || x.state = .up) &&
     (!x.words.isEmpty || x.state = .up && ((s.vlOf p.val 1).maySend 1 || (s.pickVc p.val).isSome)),
   fun s =>
     let x := s.portOf p.val
     if !x.words.isEmpty then
       (s.setPort p.val { x with words := [], lresetTx := x.lresetTx + (x.words.filter fun w => fld w 0 8 = 0x78).length }).sendWords
         p.val x.words
     else if (s.vlOf p.val 1).maySend 1 then (s.sendVc p.val 1).1
     else match s.pickVc p.val with
       | some v =>
         let others := [2, 0, 3].filter fun u => u ≠ v && (s.vlOf p.val u).maySend u
         let (u, n) := s.sendVc p.val v
         let y := u.portOf p.val
         let r := tput (fun _ => 0) v (tget (fun _ => 0) y.round v + n * 8 / vcWeight v) y.round
         let r' := others.foldl (fun r u => tput (fun _ => 0) (8 + u) (tget (fun _ => 0) r (8 + u) + 1) r) (tput (fun _ => 0) (8 + v) 0 r)
         u.setPort p.val { y with round := r' }
       | none => s⟩

def pcsLinkChangeRule (p : LPort) (up : Bool) : Rule :=
  ⟨fun s => decide (2 ≤ p.val) && s.ethEnabled (p.val - 2) && (s.portOf p.val).pcs ≠ up,
   fun s =>
     let u := s.setPort p.val { s.portOf p.val with pcs := up }
     (if up then u else u.portDown p.val).signal (74 + (p.val - 2) / 8)⟩

/-- A sound frame of the expected SEQ on a reliable VC is acknowledged and its units are freed; on VC2 a SEQ that is not the expected
one is counted (R408, R413, R414, R417). -/
def State.acceptedFrame (s : State) (p : Nat) (f : Frame) : State :=
  let x := s.vlOf p f.vc
  let own := x.own + BitVec.ofNat 32 (frameUnits f.body.length)
  if f.vc = 2 then (if f.seq = x.rxSeq then s else s.bump (cPort p 4)).setVl p 2 { x with rxSeq := f.seq + 1 }
  else
    (((s.setVl p f.vc { x with rxSeq := x.rxSeq + 1, nak := none }).queueWords p [ackWordOf f.vc false x.rxSeq]).setVl p f.vc
      { x with rxSeq := x.rxSeq + 1, nak := none, own := own }).queueWords p [creditWordOf f.vc own]

/-- A sound frame of type `ty` from upstream, addressed to this device alone (R402-R406, R419). -/
def State.toDevice (s : State) (p : Nat) (f : Frame) (ty : Nat) : Bool :=
  s.portUp p && f.crcGood && f.type = ty && f.formOk && p ≠ 1 && !f.up && !f.bcast && f.dest = s.devIdx

/-- Such a frame, in sequence on a reliable VC (R413). -/
def State.addressed (s : State) (p : Nat) (f : Frame) (ty : Nat) : Bool :=
  s.toDevice p f ty && f.vc ≠ 2 && f.seq = (s.vlOf p f.vc).rxSeq

/-- A management request that R421 and R422 let through. -/
def State.mgmtTakes (s : State) (f : Frame) (op : Nat) : Bool :=
  let h := leNat (f.body.take 16)
  (s.reg rLanePortcfg).getLsbD 4 && decide (s.mgmtWaiting < 64) && mgmtForm h (f.body.drop 16) && nbits h 0 8 = op &&
  (op = 2 || !touchesNv (nbits h 32 40) (nbits h 16 13))

/-- A management request that is let through, with event 70 (R420, R421). -/
def mgmtRule (p : LPort) (f : Frame) (op : Nat) (k : State → State) : Rule :=
  frameTaken p f ⟨fun s => s.addressed p.val f 2 && ((s.acceptedFrame p.val f).signal 70).mgmtTakes f op,
   fun s => k ((s.acceptedFrame p.val f).signal 70)⟩

/-! ### Received frames (R404, R413-R424, R427, R428, R442, R448, R569). -/

def taggedFrameRule (p : LPort) (f : Frame) : Rule :=
  frameTaken p f ⟨fun s => s.toDevice p.val f 1 && (f.vc = 2 || f.seq = (s.vlOf p.val f.vc).rxSeq),
   fun s =>
     let u := (s.acceptedFrame p.val f).consumeTagged p.val f.body
     if f.vc = 2 && u.portUp p.val then u.freeVc2 p.val (frameUnits f.body.length) else u⟩

def mgmtReadRule (p : LPort) (f : Frame) : Rule := mgmtRule p f 0 fun u => u.mgmtDoRead (leNat (f.body.take 16))

def mgmtWriteRule (p : LPort) (f : Frame) : Rule :=
  mgmtRule p f 1 fun u => u.mgmtDoWrite (leNat (f.body.take 16)) (f.body.drop 16)

def mgmtUpdateRule (p : LPort) (f : Frame) : Rule :=
  mgmtRule p f 2 fun u => u.mgmtDoUpdate (leNat (f.body.take 16)) (f.body.drop 16)

def mgmtRspRule (p : LPort) (f : Frame) : Rule := frameTaken p f ⟨fun s => s.addressed p.val f 3, fun s => s.acceptedFrame p.val f⟩

def eventFrameRule (p : LPort) (f : Frame) : Rule := frameTaken p f ⟨fun s => s.addressed p.val f 4, fun s => s.acceptedFrame p.val f⟩

def bulkRule (p : LPort) (f : Frame) : Rule := frameTaken p f ⟨fun s => s.addressed p.val f 5, fun s => s.acceptedFrame p.val f⟩

def linkctlRule (p : LPort) (f : Frame) : Rule :=
  let n := f.body.length
  frameTaken p f ⟨fun s => ((s.portOf p.val).state = .init || (s.portOf p.val).state = .up) && f.crcGood && f.type = 0x0F && decide (2 ≤ p.val) &&
     fld f.hdr 20 4 = 0 && fld f.hdr 38 2 = 0 && fld f.hdr 56 8 = 0 && fld f.hdr 24 14 = n && f.vc = 0 && decide (f.seq = 0) &&
     n % 8 = 0 && decide (8 ≤ n ∧ n ≤ 128),
   fun s => (List.range (n / 8)).foldl (fun s i => s.takeWord p.val (BitVec.ofNat 64 (leNat (slice f.body (8 * i) 8)))) s⟩

def tsyncAnnounceRule (p : LPort) (f : Frame) : Rule :=
  frameTaken p f ⟨fun s => s.portUp p.val && f.crcGood && f.type = 6 && f.vc = 2 && f.seq = (s.vlOf p.val 2).rxSeq && f.formOk && p.val ≠ 1 && !f.up &&
     !f.bcast && f.dest = s.devIdx && pbits f.body 0 8 = 1,
   fun s =>
     let u := s.setVl p.val 2 { s.vlOf p.val 2 with rxSeq := f.seq + 1 }
     ({ u with time := { s.time with announced := some (pbits f.body 64 64) } } : State).freeVc2 p.val (frameUnits f.body.length)⟩

def ethernetFrameRule (p : LPort) (e : EthFrame) : Rule :=
  takenIn p (fun s => if nearLoop (s.portLoop p.val) && e.etype = 0x88F7 then .ptp p.val e.payload else .ether p.val e) ⟨fun s => decide (2 ≤ p.val) && s.ethEnabled (p.val - 2) && (s.portOf p.val).pcs && e.fcsGood && decide (64 ≤ e.octets) &&
     decide (e.octets ≤ 9216) && e.dst = BitVec.ofNat 48 (fld (s.reg64 rLaneMac) 0 48) &&
     e.etype = BitVec.ofNat 16 (fld (s.reg (rLaneEthcfg ((p.val - 2) / 8))) 16 16) && s.vlanOk ((p.val - 2) / 8) e.vlan,
   fun s => s.frameIn p.val (cypelOf e.payload)⟩

/-- A message of IEEE 1588 comes in, by Annex E or in a TIME frame of a native port, whose units of VC2 are freed. -/
def ptpMessageRule (p : LPort) (native : Bool) (dst : BitVec 48) (m : Bytes) : Rule :=
  let n := 8 + m.length
  let hdr := if p.val = 1 then linkHdr 6 2 1 0 0 0 n else linkHdr 6 2 0 1 0 0 n
  if native then
    ⟨fun s => s.portUp p.val && (s.portIn p.val (.frame p.val (setFld hdr 40 16 (s.vlOf p.val 2).rxSeq.toNat) (timeBody 0 m))).isSome,
     fun s =>
       let x := s.vlOf p.val 2
       match s.portIn p.val (.frame p.val (setFld hdr 40 16 x.rxSeq.toNat) (timeBody 0 m)) with
       | some t =>
         let u := (t.setVl p.val 2 { x with rxSeq := x.rxSeq + 1 }).freeUnits p.val 2 (frameUnits n)
         if p.val = 1 then u.ptpUp hdr m else (u.ptpDown m).ptpTake p.val true dst m
       | none => s⟩
  else
    takenIn p (fun _ => .ptp p.val m)
      ⟨fun s => decide (2 ≤ p.val) && s.ethEnabled (p.val - 2) && (s.portOf p.val).pcs, fun s => s.annexE p.val dst m⟩

/-! ## Device time -/

/-- Device time moves by `d`, STEPGEN increments, samples are dropped, every frame awaiting its launch is discarded and
counted, and the filter chains hold what their history gives no more (R434, R443). -/
def State.stepped (s : State) (d : Int) : State :=
  (List.range (s.time.waits.filter fun w => w.launch.isSome).length).foldl (fun u _ => (u.bump (cTime 2)).signal 86)
    { (s.setX (s.x + d)).forgetChains with time := { s.time with
        stepgen := s.time.stepgen + 1, samples := [], waits := s.time.waits.filter fun w => w.launch.isNone } }

/-- A step of X: where a streaming stage is not quiescent it is refused with event 83 (R45, R434). -/
def State.stepTo (s : State) (d : Int) : State := if s.allQuiet then s.stepped d else s.signal 83

/-- RATE takes a value, within 200 ppm; where it changes it and STEER is set, a steering word with the next SEQ goes out
(R437, R438). -/
def State.rated (s : State) (v : BitVec 40) : State :=
  let r := BitVec.ofInt 40 (max (-56294995342) (min 56294995342 v.toInt))
  if r = s.time.rate then s
  else
    let u : State := { s with time := { s.time with rate := r } }
    if (s.reg rTimeCfg).getLsbD 2 then
      { u.emitOut (.steer u.steerWord) with time := { u.time with seq := u.time.seq + 1, wordAt := u.clock } }
    else u

/-- The steering word that leaves every second (R437). -/
def steeringWordRule : Rule :=
  ⟨fun s => decide (s.time.wordAt + 3932160000 ≤ s.clock) && (s.reg rTimeCfg).getLsbD 2,
   fun s => { s.emitOut (.steer s.steerWord) with time := { s.time with seq := s.time.seq + 1, wordAt := s.clock } }⟩

/-- One tick of SLOWCLK: 120,000 tk (R452). -/
def slowclkRule : Rule :=
  ⟨fun s => s.atOrBelow .bog, fun s => { s.setX (s.x + 120000 : Nat) with clock := s.clock + 120000 }⟩

/-- The tick counter wraps (R433); the filter chains take that tick's samples where the counter runs on the reference (R452). -/
def tickWrapRule : Rule :=
  ⟨fun s => decide (s.now = BitVec.allOnes 56),
   fun s => { (if s.atOrBelow .bog then s else s.chainTick) with now := 0, wrap := s.wrap + 1, clock := s.clock + 1 }⟩

/-! What time itself does: the periodic steering word, a SLOWCLK tick, the wrap of the tick counter (R433, R437, R452). -/

def steeringWordPeriodicRule : Rule := steeringWordRule

def slowclkTickRule : Rule := slowclkRule

def tickCounterWrapRule : Rule := tickWrapRule

/-! ### Steps, sources, rates and the counter (R433-R439, R452, R454). -/

def timeStepWriteRule (w : Initiator) (v : BitVec 64) : Rule :=
  ⟨always, fun s => if w = .mgmt then (s.stepTo v.toInt).done else s.error⟩

def timeRearmRule (v : BitVec 32) : Rule :=
  ⟨always, fun s => (if v.getLsbD 0 then ({ s with time := { s.time with servo := .unlocked, samples := [] } } : State) else s).done⟩

def timeSrcChangeRule (v : BitVec 32) : Rule :=
  ⟨always, fun s =>
    let old := s.reg rTimeCfg
    let new := timeCfgValue old v
    let u := s.setReg rTimeCfg new
    (if fld old 0 2 ≠ fld new 0 2 then ({ u with time := { u.time with servo := .unlocked, samples := [] } } : State) else u).done⟩

def timeRateWriteRule (w : Initiator) (v : BitVec 64) : Rule :=
  ⟨always, fun s => if w = .mgmt then (s.rated (v.truncate 40)).done else s.error⟩

/-- The samples that a servo in UNLOCKED keeps: the last QUAL of them. -/
def State.lastSamples (s : State) (theta : Int) : List Int :=
  let l := s.time.samples ++ [theta]
  l.drop (l.length - s.qual)

/-- QUAL samples whose distance from their median is at most a quarter of JUMP (R439). -/
def State.qualified (s : State) (l : List Int) : Bool :=
  decide (s.qual ≤ l.length) && l.all fun x => decide (4 * (x - median l).natAbs ≤ s.jump)

/-! ### The servo: samples, lock, holdover and the loss of the source (R439, R450, R451). -/

/-- One offset sample: `extra` joins a first step, which with SRC 2 uses TIME_TOD up, and `rate` is what the loop makes of the sample (R439, R451). -/
def State.sampled (s : State) (theta extra : Int) (rate : BitVec 40) : State :=
  match s.time.servo with
  | .unlocked =>
    let l := s.lastSamples theta
    if !s.qualified l then { s with time := { s.time with samples := l, validAt := s.clock } }
    else if s.allQuiet then
      let u := (s.stepped (extra - median l)).signal 80
      { u with time := { u.time with
          servo := .locked, samples := [], validAt := u.clock, todUsed := u.time.todUsed || s.timeSrc = 2 } }
    else
      let u := s.signal 83
      { u with time := { u.time with samples := [] } }
  | .locked =>
    if theta.natAbs ≤ s.jump then ({ s with time := { s.time with validAt := s.clock } } : State).rated rate
    else ((s.bump (cTime 0)).signal 81).toHoldover
  | .holdover =>
    if theta.natAbs ≤ s.jump then
      let u : State := { s with time := { s.time with samples := s.time.samples ++ [theta], validAt := s.clock } }
      if s.time.samples.length + 1 < s.qual then u
      else ({ u with time := { u.time with servo := .locked, samples := [] } } : State).rated rate
    else ({ s with time := { s.time with samples := [] } } : State).bump (cTime 0)

def servoSampleRule (theta : Int) (gen : BitVec 4) (spansStep : Bool) (rate : BitVec 40) : Rule :=
  ⟨always, fun s =>
     if !spansStep && gen = s.time.stepgen && decide (s.timeSrc = 1 ∨ s.timeSrc = 2) then s.sampled theta 0 rate else s⟩

def sourceLossTimeoutRule : Rule :=
  ⟨fun s => s.time.servo = .locked && s.timeSrc ≠ 3 && decide (s.time.validAt + 245760000 * max 1 s.time.lossto.toNat ≤ s.clock),
   fun s => (s.signal 82).toHoldover⟩

def ppsOutEdgeRule : Rule :=
  ⟨fun s => decide (s.x % 3932160000 = 0) && (s.reg rTimeCfg).getLsbD 6 &&
     (s.time.servo ≠ .unlocked || (s.reg rTimeCfg).getLsbD 7),
   fun s => s.emitOut (.pulse 1 (3932160 * max 1 (fld (s.reg rTimeCfg) 16 8)))⟩

def ppsInEdgeRule : Rule :=
  ⟨always, fun s =>
     let l : Int := (s.x : Int) - (s.reg rTimePpsindly).toInt
     let u := s.setReg64 rTimePpsin ((BitVec.ofInt 56 l).zeroExtend 64)
     let u : State := { u with time := { u.time with ppsAt := u.clock } }
     let sec : Int := (l + 1966080000) / 3932160000 * 3932160000
     let tod : Nat := fld (s.reg64 rTimeTod) 0 48 * 3932160000
     if s.timeSrc = 2 then u.draw.2.sampled (l - sec) (if s.time.todUsed then 0 else tod - sec) (u.draw.1.truncate 40) else u⟩

def ppsMissingRule : Rule :=
  ⟨fun s => decide (s.timeSrc = 2) && decide (s.time.ppsAt + 5898240000 ≤ s.clock),
   fun s => if (s.signal 87).time.servo = .locked then ((s.signal 87).signal 82).toHoldover else s.signal 87⟩

/-- The descriptor of one PTP frame to send has the form of R443. -/
def ptpWellFormed (d : Bytes) : Bool :=
  decide (pbits d 0 6 ≤ 33) && pbits d 9 7 = 0 && decide (44 ≤ pbits d 32 9) && decide (pbits d 32 9 ≤ 256) && pbits d 41 23 = 0 &&
  pbits d 104 24 = 0 && pbits d 184 72 = 0

/-- One descriptor as the device takes it: its frame waits; one whose launch is too near or too far is discarded and counted; one
of another form, or whose message cannot be read, is dropped (R443). -/
def State.ptpTook (s : State) (d : Bytes) : State :=
  match s.memRead (pbits d 64 40) (pbits d 32 9) with
  | (.ok m, u) =>
    let far := lead (BitVec.ofNat 40 (pbits d 128 56)) s.now
    if !ptpWellFormed d then u
    else if pbit d 8 && decide (far ≤ 1024 ∨ 2 ^ 24 < far) then (u.bump (cTime 2)).signal 86
    else
      let launch := if pbit d 8 then some (BitVec.ofNat 56 (pbits d 128 56)) else none
      { u with time := { u.time with waits := u.time.waits ++ [⟨pbits d 0 6, pbit d 6, pbit d 7, launch, pbits d 16 16, m, none⟩] } }
  | (_, u) => u

/-! ### PTP frames in and out, TSYNC edges (R441-R449, R546). -/

def ptpDescriptorRule (v : BitVec 32) : Rule :=
  ⟨always, fun s =>
     let r := fld (s.reg rTimeTxrptr) 0 5
     let base := 0x1000000000 + 32 * fld (s.reg rTimeTxbase) 5 18
     let took := fun (u : State) (i : Nat) => match u.memRead (base + 32 * ((r + i) % 32)) 32 with
       | (.ok d, u) => u.ptpTook d
       | (_, u) => u
     let u := (List.range ((fld v 0 5 + 32 - r) % 32)).foldl took (s.setReg rTimeTxwptr (BitVec.ofNat 32 (fld v 0 5)))
     (u.setReg rTimeTxrptr (BitVec.ofNat 32 (fld v 0 5))).done⟩

def ptpLaunchRule (i : Nat) : Rule :=
  let due := fun (s : State) (w : PtpWait) => match w.launch with
    | some t => decide (lead (t.truncate 40) s.now ≤ 0)
    | none => true
  let carried := fun (w : PtpWait) => decide (w.port ≤ 1)
  let units := fun (w : PtpWait) => frameUnits (8 + w.msg.length)
  let ready := fun (s : State) (w : PtpWait) =>
    if carried w then s.portUp w.port && (s.vlOf w.port 2).hasCredit (units w) else s.ethEnabled (w.port - 2) && (s.portOf w.port).pcs
  ⟨fun s => match s.time.waits[i]? with
     | some w => due s w && (ready s w || w.launch.isSome)
     | none => false,
   fun s => match s.time.waits[i]? with
     | none => s
     | some w =>
       let tsqen := (s.reg rTimeCfg).getLsbD 3
       let m := match w.came with
         | some c => if syncOrReq w.msg then addCorrection w.msg (corrUnits ((s.clock - c : Nat) : Int)) else w.msg
         | none => if w.onestep || (syncOrReq w.msg && !tsqen) then addCorrection w.msg (oneStepUnits s.x w.msg) else w.msg
       let vl := s.vlOf w.port 2
       let u : State := { s with time := { s.time with waits := s.time.waits.eraseIdx i } }
       let u := if carried w then
           (u.putFrame w.port ⟨s.timeHdr w.port (8 + w.msg.length), leBytes 8 0 ++ m, s.clock⟩ vl.txSeq).setVl w.port 2
             { vl with txSeq := vl.txSeq + 1, used := vl.used + BitVec.ofNat 32 (units w) }
         else u.portOut w.port (.ptp w.port m)
       if !ready s w then
         (({ s with time := { s.time with waits := s.time.waits.eraseIdx i } } : State).bump (cTime 2)).signal 86
       else if w.tsreq && tsqen then u.stampEntry w else u⟩

def tsyncOutEdgeRule : Rule :=
  ⟨fun s => s.tsyncOut && decide (s.tsyncPeriod ≠ 0) && decide (s.now.toNat % s.tsyncPeriod = 0),
   fun s =>
     let u := s.emitOut (.pulse 0 64)
     let u : State := { u.setReg64 rTimeTsynclat (s.now.zeroExtend 64) with time := { u.time with tsyncV := true } }
     let b := leBytes 8 1 ++ leBytes 8 (u.x + s.tsyncPeriod)
     if u.portUp 1 then u.egress 1 (linkHdr 6 2 0 1 0 0 16) b else u⟩

/-- An edge at TSYNC_IN, latched at tick `l`; with SRC 3 it is held against the announced tick or the grid, and a first announced
edge sets the time (R449). -/
def State.edgeTaken (s : State) (l : Int) : State :=
  let u := s.setReg64 rTimeTsynclat ((BitVec.ofInt 56 l).zeroExtend 64)
  let u : State := { u with time := { u.time with tsyncV := true, edge := some l.toNat, edgeAt := s.clock, announced := none } }
  let want : Option Nat := match s.time.announced with
    | some x => some x
    | none => s.time.edge.map fun p => p + s.tsyncPeriod
  if s.timeSrc ≠ 3 then u
  else match s.time.servo, s.time.announced, want with
    | .unlocked, some x, _ =>
      if u.allQuiet then
        let y := (u.stepped ((x : Int) - l)).signal 80
        { y with time := { y.time with servo := .locked, samples := [], edge := some x } }
      else u.signal 83
    | .locked, _, some x => if 2 < (l - (x : Int)).natAbs then ({ (u.bump (cTime 3)).signal 84 with time := { ((u.bump (cTime 3)).signal 84).time with servo := .holdover, samples := [] } } : State) else u
    | _, _, _ => u

/-- With PWR_WAKECFG.TSYNC the edge also wakes the device (R546). -/
def tsyncInEdgeRule : Rule :=
  ⟨always, fun s =>
     let u := s.edgeTaken ((s.x : Int) - s.tsyncDly)
     if (s.reg rPwrWakecfg).getLsbD 1 then u.wakeFromLow 5 0 else u⟩

def tsyncMissingRule : Rule :=
  ⟨fun s => decide (s.timeSrc = 3) && s.time.servo = .locked && decide (s.time.edgeAt + s.tsyncPeriod + 64 ≤ s.clock),
   fun s => { s.signal 84 with time := { (s.signal 84).time with servo := .holdover, samples := [] } }⟩

/-! ## Host, slots and DMA -/

/-- The host's window that a request names, and its BAR holds the whole request (R455). -/
def inWindow (r : HostReq) : Bool :=
  (decide (r.win = .winA) || decide (r.win = .winB) || decide (r.win = .winC)) &&
  decide (r.off.toNat + (if r.write then r.data.length else r.len) ≤ winSize r.win)

/-! Requests of the host and its endpoint (R456, R458-R461, R471). Two of them are levels of pins, and stand in pinRules. -/

def hostRequestRule (r : HostReq) : Rule :=
  let read := fun (s : State) => s.busRead .host (s.winBase r.win + r.off.toNat) r.len
  let written := fun (s : State) => s.hostPut (hostPieces (s.winBase r.win + r.off.toNat) r)
  ⟨fun s => s.pcie.perstN && !s.atOrBelow .bog && s.pcie.ready && inWindow r &&
     (if r.write then (written s).1.isNone
      else decide (r.len ≠ 0) && (match read s with
        | (.error, _) => false
        | _ => true)),
   fun s =>
     if r.write then (if r.posted then { (written s).2 with resp := .none } else (written s).2.done)
     else match read s with
       | (.ok b, u) => { u with resp := .data b }
       | (.poisoned b, u) => { u with resp := .poisoned b }
       | (.error, u) => u⟩

def pcieEndpointReadyRule : Rule :=
  ⟨fun s => s.pcie.perstN && !s.atOrBelow .bog, fun s =>
     (List.range 128).foldl State.flushVector { s with pcie := { s.pcie with ready := true } }⟩

def msixUnmaskRule (v : MsixVec) : Rule :=
  ⟨fun s => s.unitTakes (rMsix v.val 0), fun s =>
     let u := s.setReg (rMsix v.val 3) (setBit (s.reg (rMsix v.val 3)) 0 false)
     if s.pcie.pba.getLsbD v.val && s.pcie.msixEn && !s.pcie.fmask && !(u.reg (rMsix v.val 3)).getLsbD 0 && u.pcieUp then
       (({ u with pcie := { u.pcie with pba := u.pcie.pba &&& ~~~(1#128 <<< v.val) } } : State).emitOut (.msix v.val)).done
     else u.done⟩

def memWincbaseWriteRule (v : BitVec 32) : Rule :=
  ⟨fun s => s.unitTakes rMemWincbase && decide (fld v 0 12 ≤ 3584), fun s => (s.setReg rMemWincbase (v &&& 0xFFF)).done⟩

/-- A service transaction of `n` data bytes at `a`, with its checksum where it carries data (R472). -/
def svcForm (b : Bytes) (op a n : Nat) : Bool :=
  decide (8 ≤ b.length) && pbits b 0 8 = op && pbits b 8 40 = a && pbits b 48 16 = n && a % 4 = 0 && n % 4 = 0 &&
  decide (4 ≤ n) && decide (n ≤ 4096)

/-! ### The service SPI (R472). -/

def svcWriteRule (b : Bytes) : Rule :=
  let a := pbits b 8 40
  let n := pbits b 48 16
  let w := fun (s : State) => s.piecesWrite .spi a ((b.drop 8).take n) (busPieces a n)
  ⟨fun s => !s.isFenced 9 && s.svcServed && svcForm b 2 a n && decide (b.length = 12 + n) &&
     decide ((crc32c (b.take (8 + n))).toNat = leNat (b.drop (8 + n))) && (w s).1,
   fun s => { (w s).2 with svc := 0, resp := .status 0 [] }⟩

def svcReadRule (b : Bytes) : Rule :=
  let a := pbits b 8 40
  let n := pbits b 48 16
  let r := fun (s : State) => s.piecesRead .spi (busPieces a n)
  ⟨fun s => !s.isFenced 9 && s.svcServed && svcForm b 3 a n && (r s).1.isSome,
   fun s => match r s with
     | (some d, u) => { u with svc := 0, resp := .status 0 (0xA5 :: d ++ leBytes 4 (crc32c d).toNat) }
     | (none, _) => s⟩

def svcStatusRule : Rule := ⟨fun s => !s.isFenced 9, fun s => { s with resp := .data [BitVec.ofNat 8 s.svc] }⟩

/-- The slot's SEQ and LENGTH as a write to its flag gives them. -/
def slotSeq (v : BitVec 64) : BitVec 16 := BitVec.ofNat 16 (fld v 16 16)
def slotLen (v : BitVec 64) : BitVec 15 := BitVec.ofNat 15 (fld v 32 15)

/-- A device initiator owns a slot whose hand-over is complete. -/
def State.deviceOwns (s : State) (w : Initiator) (i : Nat) : Bool :=
  s.unitTakes (0x10800 + 8 * i) && s.slotsOn && isDeviceInit w && (s.slotOf i).owner = .device && !(s.slotOf i).pend

/-! ### Slots of the shared window (R463-R466). -/

def slotClaimRule (i : Slot) : Rule :=
  ⟨fun s => s.unitTakes (0x10800 + 8 * i.val) && s.slotsOn && (s.slotOf i.val).owner = .free,
   fun s => (s.setSlot i.val { s.slotOf i.val with owner := .host, since := s.clock, holder := none }).done⟩

def slotHandoverRule (i : Slot) (v : BitVec 64) : Rule :=
  ⟨fun s => s.unitTakes (0x10800 + 8 * i.val) && s.slotsOn && (s.slotOf i.val).owner = .host && slotSeq v ≠ (s.slotOf i.val).seq,
   fun s =>
     let x : SlotSt := { s.slotOf i.val with
       owner := .device, pend := true, seq := slotSeq v, length := slotLen v, since := s.clock, polls := 0, holder := none }
     if (s.setSlot i.val x).headerSeq i.val = some (slotSeq v).toNat then
       ((s.setSlot i.val { x with pend := false }).setReady i.val true).done
     else (s.setSlot i.val x).done⟩

def slotReleaseRule (i : Slot) : Rule :=
  ⟨fun s => s.unitTakes (0x10800 + 8 * i.val) && s.slotsOn && (s.slotOf i.val).owner = .host,
   fun s => ((s.setSlot i.val { s.slotOf i.val with owner := .free, torn := false }).setReady i.val false).done⟩

def deviceSlotClaimRule (w : Initiator) (i : Slot) : Rule :=
  ⟨fun s => s.unitTakes (0x10800 + 8 * i.val) && s.slotsOn && isDeviceInit w && (s.slotOf i.val).owner = .free,
   fun s => ((s.setSlot i.val { s.slotOf i.val with owner := .device, torn := false, holder := some w }).setReady i.val false).done⟩

def deviceSlotHandoverRule (w : Initiator) (i : Slot) (v : BitVec 64) : Rule :=
  ⟨fun s => s.deviceOwns w i.val && slotSeq v = (s.slotOf i.val).seq + 1,
   fun s => ((s.setSlot i.val { s.slotOf i.val with
     owner := .host, seq := slotSeq v, length := slotLen v, since := s.clock, holder := none }).setReady i.val false).done⟩

def deviceSlotReleaseRule (w : Initiator) (i : Slot) : Rule :=
  ⟨fun s => s.deviceOwns w i.val,
   fun s => ((s.setSlot i.val { s.slotOf i.val with owner := .free, torn := false, holder := none }).setReady i.val false).done⟩

def headerRepollRule (i : Slot) : Rule :=
  ⟨fun s => (s.slotOf i.val).pend && decide ((s.slotOf i.val).since + 3932 * ((s.slotOf i.val).polls + 1) ≤ s.clock),
   fun s =>
     let x := s.slotOf i.val
     if s.headerSeq i.val = some x.seq.toNat then (s.setSlot i.val { x with pend := false }).setReady i.val true
     else if x.polls < 7 then s.setSlot i.val { x with polls := x.polls + 1 }
     else ((s.setSlot i.val { x with pend := false, torn := true, owner := .host, since := s.clock, polls := 0 }).bump
       (cSlot 1)).signal 127⟩

def leaseExpiryRule (i : Slot) : Rule :=
  ⟨fun s => (s.slotOf i.val).owner = .host && decide ((s.slotOf i.val).since + s.leaseTk ≤ s.clock) && !s.atOrBelow .bog,
   fun s => ((s.setSlot i.val { s.slotOf i.val with owner := .free }).bump (cSlot 2)).signal 126⟩

/-- The channel is reachable, and stands in a state. -/
def State.dmaIn (s : State) (c : DmaCh) (x : DmaState) : Bool := s.unitTakes (0xC100 + 0x40 * c.val) && s.dmaOn && decide ((s.dmaOf c.val).state = x)

/-- The channel's work of the current descriptor begins (R481, R483). -/
def State.dmaBegun (s : State) (c : Nat) : State :=
  let x := { s.dmaOf c with cause := 0, errHost := false }
  if dType x.desc = 0 then s.setDma c { x with state := .running }
  else s.setDma c { x with
    state := .waiting, began := s.clock, pollAt := s.clock, evSeen := (s.evOf (dSrc x.desc % 128)).seen }

/-- PRIO and EN of DMAn_CTRL as a write leaves them (R489). -/
def State.dmaCtrl (s : State) (c : Nat) (v : BitVec 32) (en : Bool) : State := s.setReg (rDma c 0) (setBit v 0 en &&& 0x7)

/-- A descriptor completes: DONECNT and, with IRQ, the completion event (R486). -/
def State.dmaDone (s : State) (c : Nat) : State :=
  let u := s.setReg (rDma c 0x28) (s.reg (rDma c 0x28) + 1)
  if dIrq (s.dmaOf c).desc then u.signal (48 + c / 4) else u

/-- The link word of the descriptor, read again: END is still set, so the chain rests on its tail (R481). -/
def State.dmaTail (s : State) (c : Nat) : Option State :=
  let u := s.setDma c { s.dmaOf c with seen := (s.dmaOf c).dbcnt }
  match u.dmaRead (u.dmaCur c + 24) 8 with
  | (.inr l, u) => if linkEnd l then some (u.setDma c { u.dmaOf c with state := .endwait }) else none
  | (.inl _, _) => none

/-! ### Channels (R474, R479, R481, R483-R489). -/

def dmaRingRule (c : DmaCh) : Rule :=
  ⟨fun s => s.unitTakes (0xC100 + 0x40 * c.val) && !(s.dmaSplit && decide (16 ≤ c.val)) && (s.dmaOf c.val).state = .idle && !s.dmaEn c.val,
   fun s => ((s.setDma c.val { s.dmaOf c.val with dbcnt := (s.dmaOf c.val).dbcnt + 1, rung := true }).dmaOrder c.val).done⟩

def dmaEnableRule (c : DmaCh) (v : BitVec 32) : Rule :=
  ⟨fun s => s.dmaIn c .paused && !s.dmaEn c.val, fun s => ((s.dmaCtrl c.val v true).dmaBegun c.val).done⟩

def dmaDisableRule (c : DmaCh) (v : BitVec 32) : Rule :=
  ⟨fun s => s.unitTakes (0xC100 + 0x40 * c.val) && decide ((s.dmaOf c.val).state = .running ∨ (s.dmaOf c.val).state = .waiting),
   fun s => ((s.dmaCtrl c.val v false).setDma c.val { s.dmaOf c.val with state := .paused }).done⟩

def dmaResumeRule (c : DmaCh) (v : BitVec 32) : Rule :=
  ⟨fun s => s.dmaIn c .halted && (s.dmaOf c.val).at_ = .copy && v.getLsbD 0 && s.dmaEn c.val,
   fun s => ((s.dmaCtrl c.val v true).setDma c.val { s.dmaOf c.val with state := .running, cause := 0, errHost := false }).done⟩

def dmaAbortRule (c : DmaCh) (v : BitVec 32) : Rule :=
  ⟨fun s => s.dmaIn c .halted && !v.getLsbD 0,
   fun s =>
     let u := ((s.dmaCtrl c.val v false).setDma c.val { dbcnt := (s.dmaOf c.val).dbcnt, seen := (s.dmaOf c.val).dbcnt }).bump (rDma c.val 0x30)
     ({ u with dmaArb := { u.dmaArb with
          buf := u.dmaArb.buf.filter fun b => b.chan ≠ c.val, order := u.dmaArb.order.filter fun k => k ≠ c.val } } : State).done⟩

def dmaHeadWriteRule (c : DmaCh) (v : BitVec 64) : Rule :=
  ⟨fun s => s.unitTakes (0xC100 + 0x40 * c.val) && fld v 0 40 % 32 = 0 && decide ((s.dmaOf c.val).state = .idle),
   fun s => (s.setReg64 (rDma c.val 8) (BitVec.ofNat 64 (fld v 0 40))).done⟩

def burstGrantRule (host : Bytes) : Rule :=
  ⟨fun s => s.dmaOn && !s.dmaSplit && s.dmaGrant.isSome,
   fun s => match s.dmaGrant with
     | some (c, level) => { (({ s with dmaArb := { s.dmaArb with
         slot := (s.dmaArb.slot + 1) % 15
         last := tput (fun _ => 0) level ((c + 1) % 32) s.dmaArb.last } } : State).dmaBurst (Fin.ofNat 32 c) host) with resp := .none }
     | none => s⟩

def waitwordPollRule (c : DmaCh) : Rule :=
  let x := fun (s : State) => s.dmaOf c.val
  let read := fun (s : State) => s.busRead (.dma c) (dSrc (x s).desc) 4
  let hit := fun (s : State) (b : Bytes) =>
    decide (BitVec.ofNat 32 (leNat b) &&& BitVec.ofNat 32 (dDst (x s).desc / 2 ^ 32) = BitVec.ofNat 32 (dDst (x s).desc))
  ⟨fun s => s.pollDue c.val && (match read s with
     | (.ok b, _) => !hit s b
     | _ => false),
   fun s => match read s with
     | (.ok _, u) => u.setDma c.val { x s with pollAt := (x s).began + 1024 * ((u.clock - (x s).began) / 1024 + 1) }
     | _ => s⟩

def descriptorCompleteRule (c : DmaCh) : Rule :=
  ⟨fun s => s.dmaOn && (s.dmaOf c.val).state = .running && decide (dSrcLen (s.dmaOf c.val).desc ≤ (s.dmaOf c.val).moved) &&
     linkEnd (dLink (s.dmaOf c.val).desc) && ((s.dmaDone c.val).dmaTail c.val).isSome,
   fun s => ((s.dmaDone c.val).dmaTail c.val).getD s⟩

def waitevSignalRule (c : DmaCh) (e : Event) : Rule :=
  ⟨fun s => s.dmaOn && (s.dmaOf c.val).state = .waiting && s.waitSignalled (s.dmaOf c.val) && dSrc (s.dmaOf c.val).desc = e.val &&
     linkEnd (dLink (s.dmaOf c.val).desc) && ((s.dmaDone c.val).dmaTail c.val).isSome,
   fun s => ((s.dmaDone c.val).dmaTail c.val).getD s⟩

def dmaWaitTimeoutRule (c : DmaCh) : Rule :=
  let x := fun (s : State) => s.dmaOf c.val
  ⟨fun s => s.dmaOn && (x s).state = .waiting && dLength (x s).desc ≠ 0 && decide ((x s).began + 1024 * dLength (x s).desc ≤ s.clock) &&
     !s.waitSignalled (x s) && dToHalt (x s).desc,
   fun s =>
     let u := s.setDma c.val { x s with state := .halted, cause := 5, at_ := .wait, errHost := false }
     (u.setReg64 (rDma c.val 0x18) (BitVec.ofNat 64 (if dType (x s).desc = 2 then dSrc (x s).desc else s.dmaCur c.val))).signal
       (56 + c.val / 4)⟩

def dmaErrorHaltRule (c : DmaCh) : Rule :=
  let x := fun (s : State) => s.dmaOf c.val
  ⟨fun s => s.dmaOn && s.pollDue c.val && (match s.busRead (.dma c) (dSrc (x s).desc) 4 with
     | (.error, u) => decide ((u.dmaOf c.val).state = .waiting)
     | _ => false),
   fun s => match s.busRead (.dma c) (dSrc (x s).desc) 4 with
     | (.error, u) =>
       let t := u.setDma c.val { u.dmaOf c.val with state := .halted, cause := 1, at_ := .wait, errHost := false }
       { (t.setReg64 (rDma c.val 0x18) (BitVec.ofNat 64 (dSrc (x s).desc))).signal (56 + c.val / 4) with resp := .none }
     | _ => s⟩

/-! ## Memory, events, faults and power -/

/-- The word of the store may be written: it is one, outside the wear counters, and the controller answers (R503). -/
def State.storeTakes (s : State) (a n : Nat) : Bool := s.storeOn && nvWritable a n

/-- The wear counter of a block counts, saturating; where it stands at NV_WEARTHR or above, event 110 is raised once for the block
(R504). -/
def State.worn (s : State) (a : Nat) : State :=
  let n := min (leNat (s.bytesAt (wearAddr a) 4) + 1) 0xFFFFFFFF
  let b := (a - nvBase) / 4096
  let u := (s.markValid (wearAddr a)).setBytes (wearAddr a) (leBytes 4 n)
  if n < (s.reg rNvWearthr).toNat || tget (fun _ => false) s.mem.wearTold b then u
  else ({ u with mem := { u.mem with wearTold := tput (fun _ => false) b true u.mem.wearTold } } : State).signal 110

/-- A word as it is programmed: without errors, written, its value in place (R504). -/
def State.programmed (s : State) (a : Nat) (v : BitVec 64) : State :=
  (((List.range 8).foldl (fun u i => u.setErr (a + i) .good) s).markValid a).setBytes a (leBytes 8 v.toNat)

/-- A block as it is erased: no word of it written, without errors; it reads as zero (R498, R504). -/
def State.erased (s : State) (a : Nat) : State :=
  { s with mem := { s.mem with
    cells := tdrop (fun k => decide (a ≤ k ∧ k < a + 4096)) s.mem.cells
    bad := tdrop (fun k => decide (a ≤ k ∧ k < a + 4096)) s.mem.bad
    valid := tdrop (fun k => decide (a ≤ 8 * k ∧ 8 * k < a + 4096)) s.mem.valid } }

/-- Number of the line that a walk reads next, and the region its address names. -/
def State.walkLine (s : State) (w : ScrubWalk) : Nat := tget (fun _ => 0) s.mem.scrubPos (walkNum w)
def walkRegion (a : Nat) : MRegion := (accessRegion a 64).getD .rom

/-- What a walk of bytes does to one of them: a correction is rewritten, and outside the store counted; an uncorrectable one is logged
with event 105 (R493, R500). -/
def State.byteWalked (s : State) (nv : Bool) (a : Nat) : State :=
  match s.errAt a with
  | .good => s
  | .correctable => (s.corrected a).setErr a .good
  | .failing => if nv then (s.latchAddr rMemUeaddr a).signal 105 else ((s.bump (cMem 1)).latchAddr rMemUeaddr a).signal 105

/-- The same of the byte's copy in the ASQ's other half (R318). -/
def State.copyWalked (s : State) (a : Nat) : State :=
  match s.errAt (secondCopy a) with
  | .good => s
  | .correctable => (s.corrected a).setErr (secondCopy a) .good
  | .failing => s.poisonRead a

/-- A word of the store on the idle walk, where it is written: a rewrite counts under wear (R501, R504). -/
def State.wordWalked (s : State) (a : Nat) : State :=
  if !s.isValid a then s
  else
    let u := (List.range 8).foldl (fun u k => u.byteWalked true (a + k)) s
    if (List.range 8).any fun k => s.errAt (a + k) = .correctable then u.worn a else u

/-- The line at `a` on a walk. An uncorrectable line of DRAM is repaired from its mirror, with event 106, or logged in MEM_UEADDR, with
event 105; class C and the privileged regions are walked byte by byte; a line that is off, fenced or never written is skipped (R495,
R500). -/
def State.lineWalked (s : State) (w : ScrubWalk) (a : Nat) : State :=
  match accessRegion a 64 with
  | none => s
  | some r =>
    if !s.memPowered r || s.memFenced r then s
    else match w with
      | .privileged => (List.range 8).foldl (fun u j => u.wordWalked (a + 8 * j)) s
      | .classC =>
        if !s.isValid a then s
        else (List.range 64).foldl (fun u k =>
          let v := u.byteWalked false (a + k)
          if r = .seqMem 4 then v.copyWalked (a + k) else v) s
      | .classD =>
        if !s.isValid a || s.errAt a ≠ .failing then s
        else if r = .dram ∧ s.mirrored a ∧ s.errAt (otherStack a) ≠ .failing then
          (((s.setErr a .good).setBytes a (s.bytesAt (otherStack a) 64)).bump (cMem 2)).signal 106
        else (s.latchAddr rMemUeaddr a).signal 105

/-- The walk's position moves on; the end of a lap records its length in units of 1,024 tk (R502). -/
def State.walkMoved (s : State) (w : ScrubWalk) (i : Nat) : State :=
  if i + 1 < walkLines w then
    { s with mem := { s.mem with scrubPos := tput (fun _ => 0) (walkNum w) (i + 1) s.mem.scrubPos } }
  else
    let lap := (s.clock - tget (fun _ => 0) s.mem.lapStart (walkNum w)) / 1024
    let u := s.setReg (rMemLap (walkNum w)) (BitVec.ofNat 32 (min lap 0xFFFFFFFF))
    { u with mem := { u.mem with
        scrubPos := tput (fun _ => 0) (walkNum w) 0 u.mem.scrubPos
        lapStart := tput (fun _ => 0) (walkNum w) s.clock u.mem.lapStart
        lapLate := if w = .privileged then false else u.mem.lapLate } }

/-! ### The scrubber and the non-volatile store (R500-R504). -/

/-- A step of a walk: as many lines as its rate gives, the idle walk one; each is walked, and the position moves on (R500, R502). -/
def scrubStepRule (w : ScrubWalk) : Rule :=
  let line := fun (u : State) =>
    match walkAddr w (u.walkLine w) with
    | none => u.walkMoved w (u.walkLine w)
    | some a => (u.lineWalked w a).walkMoved w (u.walkLine w)
  ⟨always, fun s => (List.range (s.walkRate w)).foldl (fun u _ => line u) s⟩

def privilegedLapOverdueRule : Rule :=
  ⟨fun s => decide (3932160000 * max 1 (fld (s.reg rMemScrub) 16 16) < s.clock - tget (fun _ => 0) s.mem.lapStart 2) && !s.mem.lapLate,
   fun s => ({ s with mem := { s.mem with lapLate := true } } : State).signal 109⟩

/-- Management firmware programs a word of the store: it is read back, and the wear of its block counts; where the read-back disagrees
the old content stays, NV_STAT.PFAIL and event 110 report it. A word of the regulatory region joins the record being appended while a
locked record is in force, and is judged with the region else. A word that the store does not take, or of another initiator, is an error
(R26, R282, R504). The error response to a word whose read-back disagrees, its count under wear, and the gathering of a record's words
are the model's choice (log entry 10). -/
def nvWordWriteRule (w : Initiator) (a : Addr) (v : BitVec 64) (ok : Bool) : Rule :=
  ⟨always, fun s =>
     if w ≠ .mgmt ∨ !s.storeTakes a.toNat 8 then s.error
     else if !ok then
       let u := s.worn a.toNat
       ((u.setReg rNvStat (setBit (u.reg rNvStat) 0 true)).signal 110).error
     else
       let u := (s.programmed a.toNat v).worn a.toNat
       if nvBase + 0x10000 ≤ a.toNat then u.done
       else match s.lockedRecord with
         | some r => s.stageWord r a.toNat (leBytes 8 v.toNat)
         | none => ({ u with fe := { u.fe with regBad := false } } : State).regWatch.done⟩

/-- An erase of a block of the store: a slot that holds a locked record refuses it with event 99; the regulatory region is judged anew
where no locked record is in force; a block that the store does not take is an error (R282, R504). -/
def nvEraseRule (v : BitVec 64) : Rule :=
  let a := 4096 * fld v 12 28
  ⟨fun s => s.unitTakes 0x9000, fun s =>
     if !v.getLsbD 0 then s.done
     else if !s.storeTakes a 4096 then s.error
     else
       let u := (s.erased a).worn a
       if nvBase + 0x10000 ≤ a then u.done
       else match s.lockedRecord with
         | some _ => if s.slotLocked ((a - nvBase) / 4096) then (s.signal 99).error else u.done
         | none => u.regWatch.done⟩

/-! ### Events and their register (R24, R519, R528). -/

def eventRepeatMessageRule (e : Event) : Rule :=
  ⟨fun s => (s.evOf e.val).flight.isSome,
   fun s =>
     let r := s.evOf e.val
     if r.rep = 0 then s.setEv e.val { r with flight := none }
     else (s.setEv e.val { r with flight := some (s.reg (rEvRoute e.val)), rep := 0 }).deliver e.val (s.reg (rEvRoute e.val)) r.rep.toNat⟩

def evPendClearRule (hi : Bool) (mask hw : BitVec 64) : Rule :=
  let base := if hi then 64 else 0
  ⟨always, fun s => ((bitsSet hw.toNat 64).map (base + ·)).foldl State.signal
     ({ s with evPend := s.evPend &&& ~~~((mask.zeroExtend 128) <<< base) } : State).done⟩

def watchdogKickRule (v : BitVec 32) : Rule :=
  ⟨always, fun s =>
     let old := s.reg rEvWdog
     ({ s.setReg rEvWdog (setBit (setFld old 0 16 (fld v 0 16)) 24 (old.getLsbD 24 || v.getLsbD 24)) with wdogAt := s.clock } : State).done⟩

/-- Unit `u` is fenced with a cause: its items go, its slots are free, EV_FENCED and EV_FAULTLOG hold it, event 125, and its own
fail-safe state (R521-R523, R535). -/
def State.fencedFor (s : State) (u cause : Nat) : State :=
  let t := (s.fenceItems u cause).freeSlotsOf (unitHolds u)
  let t := (({ t with
    fenced := setBit t.fenced u true
    faultlog := BitVec.ofNat 64 (u + 2 ^ 5 * cause + 2 ^ 8 * fld t.faultlog 8 8 + 2 ^ 16 * (t.now.toNat % 2 ^ 48)) } : State).signal 125).fenceUnit u
  if u = 10 then t.restartMgmt else t

/-- A unit of R521 that is not fenced. -/
def State.fenceable (s : State) (u : Nat) : Bool := !unitReserved u && !s.isFenced u

/-- The watchdog period runs out: event 123, and the fence of unit 10 (R528). -/
def watchdogRule : Rule :=
  ⟨fun s => (s.reg rEvWdog).getLsbD 24 && !s.isFenced 10 && decide (s.wdogAt + s.wdogPeriod ≤ s.clock),
   fun s => (s.signal 123).fencedFor 10 4⟩

/-! ### Faults, fences and releases (R521-R528). -/

def watchdogExpiryRule : Rule := watchdogRule

def requestTimeoutRule (u : FUnit) : Rule := ⟨fun s => s.fenceable u.val, fun s => s.fencedFor u.val 0⟩

def clockMonitorTripRule (u : FUnit) : Rule := ⟨fun s => s.fenceable u.val, fun s => s.fencedFor u.val 1⟩

def selfCheckErrorRule (u : FUnit) : Rule := ⟨fun s => s.fenceable u.val, fun s => s.fencedFor u.val 2⟩

/-! EV_FENCE takes management firmware alone and no reserved unit; a unit that is fenced stays so, and one that is not, unit 7 and
unit 9 are not released. -/

def fenceRequestRule (w : Initiator) (v : BitVec 32) : Rule :=
  let u := fld v 0 5
  ⟨always, fun s =>
     if w ≠ .mgmt ∨ unitReserved u then s.error else if s.isFenced u then s.done else (s.fencedFor u 5).done⟩

def fenceReleaseRule (w : Initiator) (v : BitVec 32) : Rule :=
  let u := fld v 0 5
  ⟨fun _ => !v.getLsbD 8,
   fun s =>
     if w ≠ .mgmt ∨ unitReserved u ∨ !s.isFenced u ∨ u = 7 ∨ u = 9 then s.error
     else ({ s.resetUnit u with fenced := setBit s.fenced u false } : State).done⟩

/-- A write of PWR_REQ that its party may make, with its wake tick far enough away (R538, R539, R552). -/
def powerReq (w : Initiator) (v : BitVec 32) (target : PState) : Rule :=
  let tick := fun (s : State) => (BitVec.ofNat 56 (fld (s.reg64 rPwrWaketime) 0 56) : BitVec 56)
  let armed := fun (s : State) => if v.getLsbD 3 then ({ s with power := { s.power with armed := true, wakeTick := tick s } } : State) else s
  ⟨fun s => (match initParty w with
     | some p => mayRequest p target 15
     | none => false) &&
     !(v.getLsbD 3 && decide ((tick s).toNat < s.now.toNat + entryBound target + exitBound target)),
   fun s => match initParty w with
     | some p => ((armed s).request target p 15).done
     | none => s⟩

/-! ### Requests, entries, rollbacks and exits of the power ladder (R536-R549). -/

def pwrReqActiveRule (w : Initiator) (v : BitVec 32) : Rule := powerReq w v .active

def pwrReqFenRule (w : Initiator) (v : BitVec 32) : Rule := powerReq w v .fen

def pwrReqBogRule (w : Initiator) (v : BitVec 32) : Rule := powerReq w v .bog

def pwrReqPeatRule (w : Initiator) (v : BitVec 32) : Rule := powerReq w v .peat

def powerEntryStepRule (m : PMach) : Rule :=
  ⟨fun s => match (s.pmOf m).trans with
     | .entry target step => decide (step ≠ 13) && (decide (step ≠ 1) || !s.tailsRun m) && (decide (step ≠ 4) || !s.coresWait) &&
         (decide (step ≠ 9) || s.calsRun.isEmpty) && (s.refuser target step).isNone &&
         (!(step = 1 || step = 3 || step = 5 || step = 7) || ((s.entryDo target step).pmOf m).abort.isNone)
     | _ => false,
   fun s => match (s.pmOf m).trans with
     | .entry target step =>
       let u := s.entryDo target step
       u.setPm m { u.pmOf m with
         trans := .entry target (nextEntryStep target step), stepAt := u.clock
         began := if step = 1 then u.clock else (u.pmOf m).began }
     | _ => s⟩

def entryRollbackRule (m : PMach) : Rule :=
  ⟨fun s => (match (s.pmOf m).trans with
     | .rollback _ => true
     | _ => false) && !(s.pmOf m).auto && (s.pmOf m).abort.isNone && (s.pmOf m).pend.isNone,
   fun s => ((s.setPm m { s.pmOf m with trans := .none, abort := none, auto := false, late := false }).bump (cPwr 1)).signal 113⟩

def autoReedEntryRule (t : Tile) : Rule :=
  ⟨fun s => (s.reg (rPwrcfg t.val)).getLsbD 0 && (s.tilePower t.val).state = .active && (s.tilePower t.val).trans = .none &&
     !s.atOrBelow .sedge && !s.tileNeeds t.val (1024 * max 1 (fld (s.reg (rPwrcfg t.val)) 8 8)),
   fun s => s.setTilePower t.val { s.tilePower t.val with
     trans := .entry .reed 1, began := s.clock, stepAt := s.clock, abort := none, auto := true, forced := false, late := false }⟩

def autoReedExitRule (t : Tile) : Rule :=
  ⟨fun s => (s.tilePower t.val).auto && (s.tilePower t.val).state = .reed && (s.tilePower t.val).trans = .none &&
     s.tileNeeds t.val (1966 + s.tileTxAdv t.val),
   fun s => s.setTilePower t.val { s.tilePower t.val with
     trans := .exit 4, began := s.clock, stepAt := s.clock, abort := none, late := false }⟩

def exitStepReadyRule : Rule :=
  ⟨fun s => match s.power.dev.trans with
     | .exit step => s.exitReady step && decide (step < 4) && !(step = 3 && (s.power.dev.state = .fen || s.power.dev.state = .bog))
     | _ => false,
   fun s => match s.power.dev.trans with
     | .exit step => s.setPm .device { s.power.dev with trans := .exit (step + 1), stepAt := s.clock, late := false }
     | _ => s⟩

def exitStepReadyTileRule (t : Tile) : Rule :=
  ⟨fun s => (match (s.tilePower t.val).trans with
     | .exit _ => true
     | _ => false) && s.atOrBelow .sedge && !(s.tilePower t.val).auto && (s.tilePower t.val).pend.isNone,
   fun s => (s.setTilePower t.val { s.tilePower t.val with
     state := .active, trans := .none, abort := none, auto := false, late := false }).signal 114⟩

def transitionOverrunRule (m : PMach) : Rule :=
  ⟨fun s => !(s.pmOf m).late && (match (s.pmOf m).trans with
     | .entry target _ => decide ((s.pmOf m).began + entryBound target < s.clock)
     | .exit step => decide ((s.pmOf m).stepAt + exitStepBound (s.pmOf m).state step < s.clock)
     | _ => false),
   fun s => match (s.pmOf m).trans with
     | .entry _ _ => (s.setPm m { s.pmOf m with late := true, abort := some ((s.pmOf m).abort.getD 0) }).signal 118
     | _ => (s.setPm m { s.pmOf m with late := true }).signal 118⟩

/-! ### Wakes and supplies (R387, R537, R546-R550, R592, R596-R599). -/

def wakeTickRule : Rule :=
  ⟨fun s => s.power.armed && decide (s.power.wakeTick.toNat ≤ s.now.toNat + s.wakeLead +
     (if pstateNum s.power.dev.wakeFrom < 3 then 0 else 119999)),
   fun s => ({ s with power := { s.power with armed := false } } : State).wake 1 0⟩

def wakeNRule : Rule :=
  ⟨fun s => s.power.dev.trans = .none && s.power.dev.state ≠ .active,
   fun s =>
     let d := s.power.dev
     let w := if d.auto then s.power.lastwake else BitVec.ofNat 64 (2 + 2 ^ 9 * pstateNum d.state + 2 ^ 16 * (s.now.toNat % 2 ^ 48))
     { s with power := { s.power with
         lastwake := w
         dev := { d with trans := .exit (firstExitStep d.state), began := s.clock, stepAt := s.clock, abort := none, late := false } } }⟩

def psEnRaiseRule (good : BitVec 8) : Rule :=
  let seen := fun (s : State) => s.power.psGood ||| (good &&& s.power.psEn)
  ⟨fun s => s.raising && s.power.psEn &&& ~~~(seen s) = 0,
   fun s =>
     let u : State := { s with
       power := { s.power with psGood := seen s }, mode := { s.mode with causes := setBit s.mode.causes 1 false } }
     match raiseOrder.find? fun b => !(seen s).getLsbD b with
     | some b => if s.power.psEn.getLsbD b then u
       else { u with power := { u.power with psEn := setBit s.power.psEn b true, psEnAt := tput (fun _ => 0) b s.clock s.power.psEnAt } }
     | none => u⟩

def psGoodFallRule (b : RailBit) : Rule :=
  ⟨fun s => s.power.psGood.getLsbD b.val,
   fun s =>
     let u : State := { s with power := { s.power with psGood := setBit s.power.psGood b.val false } }
     let u := if b.val = 6 then u.lanesOff else u
     if s.power.psEn.getLsbD b.val then (u.signal 116).enterTimeout (some 1) else u⟩

def psGoodTimeoutRule (b : RailBit) : Rule :=
  ⟨fun s => s.power.psEn.getLsbD b.val && !s.power.psGood.getLsbD b.val && !s.mode.causes.getLsbD 1 &&
     decide (tget (fun _ => 0) s.power.psEnAt b.val + s.goodLimit b.val ≤ s.clock),
   fun s => (s.signal 116).enterTimeout (some 1)⟩

def avsStepRule (up : Bool) : Rule :=
  let next := fun (s : State) => if up then min 40 (s.power.avsCode.toNat + 1) else s.power.avsCode.toNat - 1
  ⟨fun s => next s ≠ s.power.avsCode.toNat && decide (s.power.avsAt + 65536 ≤ s.clock) && !s.atOrBelow .bog,
   fun s =>
     let u : State := { s with power := { s.power with avsCode := BitVec.ofNat 6 (next s), avsAt := s.clock } }
     if next s = 0 ∨ next s = 40 then u.signal 117 else u⟩

/-! ## Modes, update sessions, registers and pins -/

/-- A mode request that the host or management firmware may make from the present mode, with no transition running (R554). -/
def State.mayChange (s : State) (w : Initiator) (m : Mode) : Bool :=
  (w = .host || w = .mgmt) && s.power.dev.trans = .none && s.modeAllows m

/-! ### Modes, boot and resets (R553-R563). -/

def modeReqServiceRule (w : Initiator) : Rule :=
  ⟨fun s => s.mayChange w .service, fun s => ({ s with mode := { s.mode with mode := .service } } : State).done⟩

def modeReqMaintenanceRule (w : Initiator) : Rule :=
  ⟨fun s => s.mayChange w .maintenance, fun s => ({ s with mode := { s.mode with mode := .maintenance } } : State).done⟩

def modeReqTestRule (w : Initiator) : Rule :=
  ⟨fun s => s.mayChange w .test, fun s => ({ s with mode := { s.mode with mode := .test } } : State).done⟩

def modeReqWarmupRule (w : Initiator) : Rule :=
  ⟨fun s => s.mayChange w .warmup,
   fun s =>
     let u : State := { s with mode := { s.mode with mode := .warmup, calDone := false, noreg := s.regHeld } }
     (if s.mode.mode = .test then u.clearLoops else u.restoreRx).done⟩

def modeReqTimeoutRule (w : Initiator) : Rule :=
  ⟨fun s => s.mayChange w .timeout,
   fun s =>
     let u := (List.range 16).foldl (fun u q => u.setRxEn q false) ({ s with mode := { s.mode with mode := .timeout } } : State)
     ({ u with fe := { u.fe with txEn := 0 } } : State).done⟩

def settingsReadRule : Rule :=
  let good := fun (s : State) => s.areaOk s.curArea && Config.settingsGood (s.areaContent s.curArea)
  ⟨fun s => s.mode.mode = .boot && s.mgmtOn && s.mode.causes = 0 && !s.sess.trial,
   fun s =>
     let u : State := { s with mode := { s.mode with bootcnt := 0 }, sess := { s.sess with unread := !good s } }
     let u := if good s then u else u.signal 120
     { u with mode := { u.mode with mode := .warmup, calDone := false, noreg := u.regHeld } }⟩

def calibrationCompleteRule : Rule :=
  ⟨fun s => s.mode.mode = .warmup && !s.sess.unread && !s.regHeld && s.mgmtOn,
   fun s => { s with mode := { s.mode with
     mode := if (s.reg rModeCfg).getLsbD 1 then .service else .warmup, calDone := true, noreg := false } }⟩

def softwareResetRule (w : Initiator) (v : BitVec 32) : Rule :=
  ⟨fun _ => fld v 8 8 = 0xA5 && (w = .host || w = .mgmt), fun s => (s.resetLogic 2).bootRom false⟩

def bootWatchdogExpiryRule : Rule :=
  ⟨fun s => s.mode.mode = .boot && decide (s.mode.bootAt + s.bootwdTk ≤ s.clock), fun s => (s.resetLogic 3).bootRom false⟩

/-! ### Pins that count in every state of the block: the supply, RESET_N and PERST_N (R456, R556-R559). -/

def powerOnRule : Rule := ⟨fun s => !s.powered, fun s => { s.resetAll with powered := true, inReset := true }⟩

def powerLossRule : Rule := ⟨always, fun s => { s.resetAll with powered := false, inReset := true }⟩

def resetPinRule : Rule := ⟨fun s => s.alive, fun s => { s.resetLogic 1 with inReset := true }⟩

def resetNReleaseRule (recoverN : Bool) : Rule :=
  ⟨fun s => s.powered && s.inReset, fun s => ({ s with inReset := false } : State).bootRom (!recoverN)⟩

def pciePerstRule : Rule := ⟨always, fun s => { s with pcie := { perstN := false } }⟩

def pciePerstNReleaseRule : Rule := ⟨always, fun s => { s with pcie := { s.pcie with perstN := true } }⟩

/-- The message comes from the holder of the open session (R571). -/
def State.fromHolder (s : State) (r : Route) (m : SessMsg) (client : BitVec 32) : Bool :=
  s.mgmtOn && m.zero = 0 && s.sess.state ≠ .none && s.sess.route = r && s.sess.client = client

/-- The message comes while no session is open. -/
def State.unheld (s : State) (m : SessMsg) : Bool := s.mgmtOn && m.zero = 0 && s.sess.state = .none

/-- The holder's message restarts the lock's 60 s (R572). -/
def State.heard (s : State) : State := { s with sess := { s.sess with lastAt := s.clock } }

/-- From anyone while no session is open, else from the holder: what the sender's session leaves. -/
def State.byHolder (s : State) (r : Route) (m : SessMsg) : Option State :=
  if s.unheld m then some s else if s.fromHolder r m m.client then some s.heard else none

/-! ### Messages of update sessions, and their timers (R566-R582). -/

def sessionOpenRule (r : Route) (m : SessMsg) : Rule :=
  let kind := pbits m.data 0 2
  let exp := pbit m.data 2
  ⟨fun s => s.unheld m && m.crc = crc32c m.data && decide (m.data.length = 8) && kind ≠ 3 && (!exp || kind = 1) &&
     pbits m.data 3 29 = 0 && s.openAllowed kind exp,
   fun s =>
     let u := s.openSession r (BitVec.ofNat 32 (pbits m.data 32 32)) kind exp
     u.answer r m 0 u.sess.number []⟩

def sessionWriteRule (r : Route) (m : SessMsg) : Rule :=
  let o := m.offset.toNat
  let n := m.len.toNat
  ⟨fun s => s.fromHolder r m m.client && s.sess.state = .receiving && !s.sess.export_ && o % 4096 = 0 && n % 8 = 0 &&
     n ≠ 0 && decide (n ≤ 4096) && decide (m.data.length = n) && decide (o + n ≤ payLimit s.sess.kind) && m.crc = crc32c m.data,
   fun s =>
     let u : State := { s.heard with sess := { s.heard.sess with blocks := tput (fun _ => []) o m.data s.sess.blocks } }
     let u := if s.sess.kind = 0 && s.mode.mode = .recovery then u.programWords (slotBase s.sess.target + o) (wordsOf m.data) else u
     u.answer r m 0 u.sess.blocks.length []⟩

def sessionFinishRule (r : Route) (m : SessMsg) : Rule :=
  let n := m.len.toNat
  ⟨fun s => s.fromHolder r m m.client && s.sess.state = .receiving && !s.sess.export_ && decide (n ≤ payLimit s.sess.kind) &&
     (s.sess.kind ≠ 2 || n = 4096) && blocksWhole s.sess.blocks n,
   fun s =>
     let (st, chk, u) := s.heard.finish (payloadOf s.sess.blocks n)
     (if st = 0 then ({ u with sess := { u.sess with state := .verified } } : State) else u).answer r m st chk []⟩

def sessionActivateRule (r : Route) (m : SessMsg) : Rule :=
  ⟨fun s => s.fromHolder r m m.client && s.sess.state = .verified && s.sess.kind = 0 && decide (s.mode.mode ≠ .recovery),
   fun s =>
     let u := (s.heard.putBoot { s.bootRec.setSt s.sess.target 2 with tried := false, src := routeCode r }).answer r m 0 0 []
     let u : State := { u with sess := { u.sess with trialSecs := max 1 (fld (u.reg rUpdTrial) 0 16) } }
     { (u.resetLogic 2).bootRom false with resp := u.resp }⟩

def sessionConfirmRule (r : Route) (m : SessMsg) : Rule :=
  let i := fun (s : State) => s.mode.slot.toNat
  ⟨fun s => (s.byHolder r m).isSome && s.sess.trial && (s.mode.mode = .warmup || s.mode.mode = .service || s.mode.mode = .maintenance) &&
     !s.sess.unread && nbits s.bootRec.area 1 1 = s.curArea && (s.bootRec.st (1 - i s) ≠ 3),
   fun s => match s.byHolder r m with
     | some t =>
       let u := t.putBoot { s.bootRec.setSt (i s) 3 with tried := false, area := s.curArea }
       let ver := imgSecver (u.bytesAt (slotBase (i s)) 32)
       let u := if fld (u.reg rUpdSecver) 0 16 < ver then u.setReg rUpdSecver (BitVec.ofNat 32 ver) else u
       let u : State := { u with sess := { u.sess with trial := false } }
       u.answer r m 0 (u.reg rUpdSecver).toNat []
     | none => s⟩

def sessionAbortRule (r : Route) (m : SessMsg) : Rule :=
  ⟨fun s => s.fromHolder r m m.client,
   fun s => ({ s.heard with sess := { s.heard.sess with state := .none, blocks := [], export_ := false } } : State).answer r m 0 0 []⟩

def sessionStatusRule (r : Route) (m : SessMsg) : Rule :=
  ⟨fun s => s.unheld m, fun s => s.answer r m 0 (s.updStat.toNat + 2 ^ 32 * s.sess.client.toNat) []⟩

def sessionReadRule (r : Route) (m : SessMsg) : Rule :=
  let o := m.offset.toNat
  let n := m.len.toNat
  ⟨fun s => s.fromHolder r m m.client && s.sess.state = .receiving && s.sess.export_ && decide (n ≤ 4096) && decide (o + n ≤ 2097088),
   fun s =>
     let area := if s.sess.trial && !s.sess.unread then s.trialArea else s.curArea
     let d := slice (s.areaContent area) o n
     s.heard.answer r m 0 (2 ^ 64 * (crc32c d).toNat) d⟩

def sessionFallbackRule (r : Route) (m : SessMsg) : Rule :=
  ⟨fun s => (s.byHolder r m).isSome && s.sess.trial,
   fun s => match s.byHolder r m with
     | some t => let u := t.answer r m 0 0 []; { u.endTrial with resp := u.resp }
     | none => s⟩

def sessionLockExpiryRule : Rule :=
  ⟨fun s => s.sess.state ≠ .none && decide (s.sess.lastAt + 235929600000 ≤ s.clock) && s.mgmtOn,
   fun s => ({ s with sess := { s.sess with state := .none, blocks := [], export_ := false } } : State).signal 120⟩

def trialWindowExpiryRule : Rule :=
  ⟨fun s => s.sess.trial && decide (s.sess.trialAt + 3932160000 * s.sess.trialSecs ≤ s.clock) && decide (s.mode.mode ≠ .dormant),
   fun s => (s.signal 121).endTrial⟩

/-! Registers: counters that a read clears, bits that a write of 1 clears, a 128-bit register committed by its high half, and the
configuration of a tile (R11, R13, R25, R34, R585). -/

def counterReadClearRule (off : RegOff) (hw : Bool) : Rule :=
  ⟨fun s => isCounter off.toNat && off.toNat % 4 = 0 && s.blockOn off.toNat && !s.regFenced off.toNat,
   fun s =>
     let u : State := { s.setReg off.toNat 0 with resp := .data (leBytes 4 (s.reg off.toNat).toNat) }
     if hw then u.setReg off.toNat 1 else u⟩

/-- The place of a register of an array: `some i` where the offset is that of its `i`-th member. -/
def nth (base stride count field off : Nat) : Option Nat :=
  if base ≤ off && off < base + stride * count && off % stride = field then some ((off - base) / stride) else none

/-- Each 1 written clears its bit, and a bit that hardware sets in the same cycle stays set: the pending events, whose occurrences
count besides, the lanes' LOS, LOL and FASTFAIL, the vector cores' overflow, saturation and domain flags and their event causes,
CALFAIL, TSQOVF with its register's LOSSTO, NV_STAT, and the muted paths, which a 1 releases (R11, R13, R268, R280, R375, R398, R454,
R516). -/
def State.clearedBits (s : State) (off : Nat) (v hw : BitVec 64) : Option State :=
  let b := fun (x : Bool) (i : Nat) => x && !(v.getLsbD i && !hw.getLsbD i) || hw.getLsbD i
  let pend := fun (base : Nat) =>
    (bitsSet hw.toNat 64).foldl (fun s i => s.signal (base + i)) ({ s with
      evPend := s.evPend &&& ~~~(((v &&& ~~~hw).zeroExtend 128) <<< base) } : State).done
  if off = 0x4000 then some (pend 0)
  else if off = 0x4008 then some (pend 64)
  else if off = rTimeStat then
    some ({ s with time := { s.time with lossto := BitVec.ofNat 8 (fld (v &&& ~~~hw) 8 8), tsqovf := b s.time.tsqovf 6 } } : State).done
  else if off = rNvStat then some (s.setReg rNvStat (setBit (s.reg rNvStat) 0 (b ((s.reg rNvStat).getLsbD 0) 0))).done
  else if let some t := nth 0xA0000 0x4000 4 0x40 off then
    let free := (bitsSet (v &&& ~~~hw).toNat 64).filter fun p => decide (tileOfPath p = t) && s.fe.mute.getLsbD p
    let u := free.foldl (fun u p => { u with fe := { u.fe with mute := u.fe.mute &&& ~~~bit64 p, muteRel := tput (fun _ => 0) p s.now.toNat u.fe.muteRel } }) s.done
    some { u with fe := { u.fe with mute := u.fe.mute ||| (hw &&& (0xFFFF#64 <<< (16 * t))) } }
  else match nth 0x15000 64 32 4 off, nth 0x1A000 64 16 0x10 off, nth 0x1A000 64 16 0xC off, nth 0x1D000 32 8 0 off with
    | some l, _, _, _ =>
      let x := s.laneOf l
      some (s.setLane l { x with los := b x.los 5, lol := b x.lol 6, fastfail := b x.fastfail 7 }).done
    | _, some n, _, _ =>
      let x := s.vcOf n
      some (s.setVc n { x with stOvf := b x.stOvf 3, stSat := b x.stSat 4, stDom := b x.stDom 5 }).done
    | _, _, some n, _ =>
      let x := s.vcOf n
      some (s.setVc n { x with evcause := x.evcause &&& ~~~((v &&& ~~~hw).truncate 4) ||| hw.truncate 4 }).done
    | _, _, _, some k =>
      let x := s.synOf k
      some (s.setSyn k { x with calFail := b x.calFail 18 }).done
    | _, _, _, _ => none

def w1cWriteRule (off : RegOff) (v hw : BitVec 64) : Rule :=
  ⟨fun s => (s.clearedBits off.toNat v hw).isSome && s.blockOn off.toNat && !s.regFenced off.toNat,
   fun s => (s.clearedBits off.toNat v hw).getD s⟩

def wideRegisterCommitRule (off : RegOff) (v : BitVec 64) : Rule :=
  let n := (off.toNat - 0x50000) / 0x1000
  ⟨fun s => decide (0x50000 ≤ off.toNat ∧ off.toNat < 0x58000 ∧ off.toNat % 0x1000 = 0x128) && s.blocksOn && !s.regFenced off.toNat && s.fnQuiet 16 (n / 2),
   fun s => ((s.setReg64 (rObsMmrole n) (s.reg64 (rMmStage n))).setReg64 (rObsMmrole n + 8) v).done⟩

def configRegisterWriteRule (off : RegOff) (wide : Bool) (v : BitVec 64) : Rule :=
  ⟨fun s => decide (0x60000 ≤ off.toNat ∧ off.toNat < 0xA0000 ∧ off.toNat % 4 = 0) && !wide && s.blocksOn && !s.regFenced off.toNat &&
     (match rwRowOf off.toNat with
       | some r => !r.wide && s.writeAllowed r off.toNat (v.truncate 32)
       | none => false),
   fun s => match rwRowOf off.toNat with
     | some r =>
       let old := s.reg off.toNat
       ((s.setReg off.toNat (fieldRules off.toNat old (maskIn old (v.truncate 32) r.mask))).afterWrite off.toNat).done
     | none => s⟩

/-! ## The whole block, and rules that hold across families -/

/-- What becomes of the item of a control command that its stage, clocked and not fenced, does not take, where no item issued before
it to the same place is still on its way (R22): a failed tag check (R39),
an air time more than 2^24 tk ahead (R44), a squash or a stopped function (R64, R68), a payload or a tag of the wrong form (R342,
R338). The item leaves the network in each case. -/
def Untaken (c : Instr) (p : Port) (t : Nat) (it : Item) : Prop :=
  ∀ s : State, s.alive = true → netBehind p t it s.net = false → s.portFenced p t = false → s.gated p t = false →
    let u := s.fresh.took p t it
    let src := it.tag.source.toNat
    let early := decide (2 ^ 24 < lead it.tag.air s.now)
    let formed := payloadForm p it (s.itemShape it).1 (s.itemShape it).2 && tagFieldsOk it.tag
    (tagCheck it.tag = false → exec c s = .next ((u.bump (domCounter p t .tagerr)).signalAll (tagFailEvents p t src))) ∧
    (tagCheck it.tag = true → early = true →
      exec c s = .next ((u.bump (domCounter p t .cfgerr)).signalAll (turnedAwayEvents p t src))) ∧
    (tagCheck it.tag = true → early = false → s.discardsItem p t it = true → exec c s = .next (u.bump (domCounter p t .discard))) ∧
    (tagCheck it.tag = true → early = false → s.discardsItem p t it = false → formed = false →
      exec c s = .next ((u.bump (refusalCounter p t)).refuseSeq it.tag.source (takeNet p t it s.net).2))

/-- The same for a record of a target: it goes to the port of that target, on the tile of its command (R345). -/
def UntakenCoef (c : Instr) (target : Nat) (t : Tile) (g : Tag) (b : Bytes) : Prop :=
  let it := mkItem kCoef g (rowPay b 0 4 6 target)
  Untaken c ((coefPort target).getD .cfr) t.val it

/-- Every function the STOP item names is to stop at air time `a`: a path removal waits at every tile that holds a path of its mask,
beside those received before; any other function takes the time, and discards what it holds from `a` on (R68, R70, R106, R181). -/
def State.stopsAt (s : State) (p : Port) (k : Nat) (it : Item) (a : Air) : State :=
  let x : StopReq := ⟨{ it.tag with air := a }, it.body⟩
  let waits := fun (s : State) (f t : Nat) => s.setFn f t { s.fnOf f t with stops := (s.fnOf f t).stops ++ [x], byReset := false }
  (stopFuncs it.body).foldl (fun s f =>
    if isPathFn f then
      (maskTiles (stopMask it.body)).foldl (fun s t => waits s f t)
        { s with pathStops := s.pathStops ++ [⟨f = 18, stopMask it.body, x.tag⟩] }
    else if (s.fnOf f (fnTile f k)).quiet then (if pbit it.body 1 then s.signal (quietEvent it.tag.source) else s)
    else (waits s f (fnTile f k)).discardFrom p k f a) s

/-- A STOP that passes every check of its stage: on time its functions stop at its AIRTIME; LATE it is counted, and they stop at the
arrival plus the minimum lead (R68, R69). -/
def StopsInTime (c : Instr) (p : Port) (k : Nat) (it : Item) : Prop :=
  ∀ s : State, s.alive = true → s.fresh.passes p k it = true → pbit it.body 0 = false → it.tag.late = false →
    (s.lateBy p k it = none → exec c s = .next ((s.fresh.took p k it).stopsAt p k it it.tag.air)) ∧
    (∀ m, s.lateBy p k it = some m →
      exec c s = .next (((s.fresh.took p k it).bump (domCounter p k .latecnt)).stopsAt p k it (airOf ((s.now.toNat : Int) + m))))

/-- A receive control item that passes every check of its stage and is LATE there is counted and dropped (R51). -/
def DroppedLate (c : Instr) (p : Port) (t : Nat) (it : Item) : Prop :=
  ∀ (s : State) (m : Nat), s.alive = true → s.fresh.passes p t it = true → it.tag.source.toNat = t → it.tag.late = false →
    s.lateBy p t it = some m → exec c s = .next ((s.fresh.took p t it).bump (domCounter p t .latecnt))

/-- With no checkpoint of sequencer `k` open the command adds nothing to the speculation record (R312, R317). -/
def NotSpeculative (k : Seq) (c : Instr) : Prop :=
  ∀ s t : State, (s.seqOf k.val).opened = false → goesTo (exec c s) t → ∀ e ∈ (t.seqOf k.val).spec, e ∈ (s.seqOf k.val).spec

/-- With power and out of reset, wherever the premises of the rule hold, the command answers the next state the rule gives. -/
def Runs (c : Instr) (r : Rule) : Prop :=
  ∀ s : State, s.alive = true → r.pre s.fresh = true → exec c s = .next (r.eff s.fresh)

/-- The same, powered or not: the commands of the pins. -/
def RunsAlways (c : Instr) (r : Rule) : Prop :=
  ∀ s : State, r.pre s.fresh = true → exec c s = .next (r.eff s.fresh)

end Sys2Proof.Machine

open Sys2Proof Sys2Proof.Machine

/-! ## Every command by its family -/

/-- Control items of the transmit chain, on time, are queued at their stage (R56, R88, R89, R93, R97, R122, R214, R343). -/
def Obligations.TransmitControlItems : Prop :=
  (∀ (g : Tag) (b : Bytes), Runs (.fftCfg g b) (fftCfgRule g b)) ∧
  (∀ (g : Tag) (b : Bytes), Runs (.wola g b) (wolaRule g b)) ∧
  (∀ (t : Tile) (g : Tag) (b : Bytes), Runs (.carrierOn t g b) (carrierOnRule t g b)) ∧
  (∀ (t : Tile) (g : Tag) (b : Bytes), Runs (.carrierOff t g b) (carrierOffRule t g b)) ∧
  (∀ (t : Tile) (g : Tag) (b : Bytes), Runs (.carrierRetune t g b) (carrierRetuneRule t g b)) ∧
  (∀ (t : Tile) (g : Tag) (b : Bytes), Runs (.gainTx t g b) (gainTxRule t g b)) ∧
  (∀ (t : Tile) (g : Tag) (b : Bytes), Runs (.cfrCfg t g b) (cfrCfgRule t g b)) ∧
  (∀ (t : Tile) (g : Tag) (b : Bytes), Runs (.dpdSwapModel t g b) (dpdSwapModelRule t g b)) ∧
  (∀ (t : Tile) (g : Tag) (b : Bytes), Runs (.dpdSwapCorr t g b) (dpdSwapCorrRule t g b)) ∧
  (∀ (t : Tile) (g : Tag) (b : Bytes), Runs (.fltSwapTxfir t g b) (fltSwapTxfirRule t g b))

/-- Control items of the receive chain and of the canceller, on time, are queued at their stage (R56, R152, R157, R161, R186,
R214). -/
def Obligations.ReceiveControlItems : Prop :=
  (∀ (t : Tile) (g : Tag) (b : Bytes), Runs (.fltSwapRxfir t g b) (fltSwapRxfirRule t g b)) ∧
  (∀ (t : Tile) (g : Tag) (b : Bytes), Runs (.fltSwapRxiq t g b) (fltSwapRxiqRule t g b)) ∧
  (∀ (t : Tile) (g : Tag) (b : Bytes), Runs (.gainRx t g b) (gainRxRule t g b)) ∧
  (∀ (t : Tile) (g : Tag) (b : Bytes), Runs (.dcFreeze t g b) (dcFreezeRule t g b)) ∧
  (∀ (t : Tile) (g : Tag) (b : Bytes), Runs (.dcRelease t g b) (dcReleaseRule t g b)) ∧
  (∀ (t : Tile) (g : Tag) (b : Bytes), Runs (.sicCtlOn t g b) (sicCtlOnRule t g b)) ∧
  (∀ (t : Tile) (g : Tag) (b : Bytes), Runs (.sicCtlOff t g b) (sicCtlOffRule t g b)) ∧
  (∀ (t : Tile) (g : Tag) (b : Bytes), Runs (.sicCtlSwap t g b) (sicCtlSwapRule t g b)) ∧
  (∀ (t : Tile) (g : Tag) (b : Bytes), Runs (.sicCtlSnap t g b) (sicCtlSnapRule t g b))

/-- Tuning, power and coefficient items, and markers, on time, are queued at their stage (R40, R56, R119, R255, R345, R538). -/
def Obligations.SystemControlItems : Prop :=
  (∀ (t : Tile) (g : Tag) (b : Bytes), Runs (.loPrep t g b) (loPrepRule t g b)) ∧
  (∀ (t : Tile) (g : Tag) (b : Bytes), Runs (.loCal t g b) (loCalRule t g b)) ∧
  (∀ (t : Tile) (g : Tag) (b : Bytes), Runs (.loSwitch t g b) (loSwitchRule t g b)) ∧
  (∀ (g : Tag) (b : Bytes), Runs (.pwrCtlActive g b) (pwrCtlActiveRule g b)) ∧
  (∀ (g : Tag) (b : Bytes), Runs (.pwrCtlReed g b) (pwrCtlReedRule g b)) ∧
  (∀ (g : Tag) (b : Bytes), Runs (.pwrCtlSedge g b) (pwrCtlSedgeRule g b)) ∧
  (∀ (g : Tag) (b : Bytes), Runs (.pwrCtlFen g b) (pwrCtlFenRule g b)) ∧
  (∀ (p : Port) (t : Tile) (g : Tag) (b : Bytes), Runs (.marker p t g b) (markerRule p t g b)) ∧
  (∀ (t : Tile) (g : Tag) (b : Bytes), Runs (.coefPredistorter t g b) (coefPredistorterRule t g b)) ∧
  (∀ (t : Tile) (g : Tag) (b : Bytes), Runs (.coefTxCorrector t g b) (coefTxCorrectorRule t g b)) ∧
  (∀ (t : Tile) (g : Tag) (b : Bytes), Runs (.coefRxCorrector t g b) (coefRxCorrectorRule t g b)) ∧
  (∀ (t : Tile) (g : Tag) (b : Bytes), Runs (.coefCanceller t g b) (coefCancellerRule t g b)) ∧
  (∀ (t : Tile) (g : Tag) (b : Bytes), Runs (.coefFir t g b) (coefFirRule t g b)) ∧
  (∀ (t : Tile) (g : Tag) (b : Bytes), Runs (.coefCfrPulse t g b) (coefCfrPulseRule t g b))

/-- FE_CTL items are queued, and what they ask for is placed at once (R143, R158, R269, R270, R271, R272, R275). -/
def Obligations.FrontEndItems : Prop :=
  (∀ (t : Tile) (g : Tag) (b : Bytes), Runs (.feRxon t g b) (feRxonRule t g b)) ∧
  (∀ (t : Tile) (g : Tag) (b : Bytes), Runs (.feRxoff t g b) (feRxoffRule t g b)) ∧
  (∀ (t : Tile) (g : Tag) (b : Bytes), Runs (.feLoopback t g b) (feLoopbackRule t g b)) ∧
  (∀ (t : Tile) (g : Tag) (b : Bytes), Runs (.feLbrel t g b) (feLbrelRule t g b)) ∧
  (∀ (t : Tile) (g : Tag) (b : Bytes), Runs (.feRxcal t g b) (feRxcalRule t g b)) ∧
  (∀ (t : Tile) (g : Tag) (b : Bytes), Runs (.feTune t g b) (feTuneRule t g b)) ∧
  (∀ (t : Tile) (g : Tag) (b : Bytes), Runs (.rffeGroup t g b) (rffeGroupRule t g b))

/-- Data blocks of the baseband wait for their symbol or span (R55, R82, R102, R104, R553). -/
def Obligations.DataItems : Prop :=
  (∀ (g : Tag) (b : Bytes), Runs (.fdData g b) (fdDataRule g b)) ∧
  (∀ (g : Tag) (b : Bytes), Runs (.tdData g b) (tdDataRule g b))

/-- Declarations, sounding windows and commits at the beamformer (R76, R77, R78, R168, R169, R231). -/
def Obligations.BeamItems : Prop :=
  (∀ (g : Tag) (b : Bytes), Runs (.beamSelDeclaration g b) (beamSelDeclarationRule g b)) ∧
  (∀ (g : Tag) (b : Bytes), Runs (.soundingWindow g b) (soundingWindowRule g b)) ∧
  (∀ (g : Tag) (b : Bytes), Runs (.beamCommit g b) (beamCommitRule g b))

/-- Sections, partial sums, LNA steps and reset points on arrival (R159, R176, R218, R304). -/
def Obligations.IngressItems : Prop :=
  (∀ (g : Tag) (b : Bytes), Runs (.sectionItem g b) (sectionItemRule g b)) ∧
  (∀ (g : Tag) (b : Bytes), Runs (.ulPartial g b) (ulPartialRule g b)) ∧
  (∀ (t : Tile) (g : Tag) (b : Bytes), Runs (.lnaStep t g b) (lnaStepRule t g b)) ∧
  (∀ (t : Tile) (g : Tag) (b : Bytes), Runs (.syncReset t g b) (syncResetRule t g b))

/-- STOP items, resumes and squashes (R64, R66, R68, R69, R70, R71, R106, R181, R183). -/
def Obligations.StopAndSquashItems : Prop :=
  (∀ (p : Port) (t : Tile) (g : Tag) (b : Bytes), Runs (.stop p t g b) (stopRule p t g b)) ∧
  (∀ (p : Port) (t : Tile) (g : Tag) (b : Bytes), Runs (.pathtxStop p t g b) (pathtxStopRule p t g b)) ∧
  (∀ (p : Port) (t : Tile) (g : Tag) (b : Bytes), Runs (.pathrxStop p t g b) (pathrxStopRule p t g b)) ∧
  (∀ (p : Port) (t : Tile) (g : Tag) (b : Bytes), Runs (.stopResume p t g b) (stopResumeRule p t g b)) ∧
  (∀ (p : Port) (t : Tile) (g : Tag) (b : Bytes), Runs (.squashItem p t g b) (squashItemRule p t g b))

/-- Capture and playback: start, stop, and the records that pass (R505, R506, R507, R508, R509, R510, R511). -/
def Obligations.CaptureAndPlayback : Prop :=
  (∀ (g : Tag) (b : Bytes), Runs (.captureStart g b) (captureStartRule g b)) ∧
  (∀ (g : Tag) (b : Bytes), Runs (.captureStop g b) (captureStopRule g b)) ∧
  (∀ (g : Tag) (b : Bytes), Runs (.playbackStart g b) (playbackStartRule g b)) ∧
  (∀ (g : Tag) (b : Bytes), Runs (.playbackStop g b) (playbackStopRule g b)) ∧
  (∀ (e : Cap) (g : Tag) (unit : BitVec 6) (rails : Rails) (space : Bool), Runs (.captureRecord e g unit rails space) (captureRecordRule e g unit rails space)) ∧
  (∀ (e : Cap), Runs (.playbackRecord e) (playbackRecordRule e))

/-- The due item of a stage takes effect and leaves the queue (R50, R56, R57). -/
def Obligations.ItemsTakeEffect : Prop :=
  (∀ (p : Port) (t : Tile), Runs (.itemApply p t) (itemApplyRule p t)) ∧
  (∀ (p : Port) (t : Tile), Runs (.lateItemApply p t) (lateItemApplyRule p t))

/-- Stop times, quiescence, path removals, reset points, fades and records (R68, R106, R123, R138, R181, R187, R218, R220). -/
def Obligations.StopProgress : Prop :=
  (∀ (f : FnCode) (t : Tile), Runs (.stopTimeReached f t) (stopTimeReachedRule f t)) ∧
  (∀ (f : FnCode) (t : Tile), Runs (.quiescence f t) (quiescenceRule f t)) ∧
  (∀ (p : Path), Runs (.pathPowerDown p true) (pathPowerDownRule p)) ∧
  (∀ (p : Path), Runs (.pathPowerDown p false) (pathPowerDownTxRule p)) ∧
  (∀ (t : Tile), Runs (.syncResetT0 t) (syncResetT0Rule t)) ∧
  (∀ (p : Path), Runs (.cancellerOffTailEnd p) (cancellerOffTailEndRule p)) ∧
  (∀ (f : FadeId), Runs (.fadeEnd f) (fadeEndRule f)) ∧
  (∀ (r : RecId), Runs (.recordLineFailure r) (recordLineFailureRule r)) ∧
  (∀ (r : RecId), Runs (.recordRebuild r) (recordRebuildRule r))

/-- Beam tables: writes, engine commits, builds, banks, and entries that fail their check (R82, R83, R84, R85, R227, R230, R231,
R235, R236, R239, R240, R248). -/
def Obligations.BeamTables : Prop :=
  (∀ (w : Initiator) (v : BitVec 64), Runs (.beamEcqWrite w v) (beamEcqWriteRule w v)) ∧
  (∀ (w : Initiator) (a : Addr) (b : Bytes), Runs (.beamTableWrite w a b) (beamTableWriteRule w a b)) ∧
  (∀ (d : Dir), Runs (.buildComplete d) (buildCompleteRule d)) ∧
  (∀ (d : Dir), Runs (.buildOverrun d) (buildOverrunRule d)) ∧
  (∀ (d : Dir) (r : Region), Runs (.bankLive d r) (bankLiveRule d r)) ∧
  (∀ (d : Dir) (r : Region), Runs (.bankRelease d r) (bankReleaseRule d r)) ∧
  (∀ (d : Dir) (b : Bank) (e : Entry), Runs (.entryLineFailure d b e) (entryLineFailureRule d b e)) ∧
  (∀ (d : Dir) (b : Bank) (e : Entry), Runs (.entryRefetchComplete d b e) (entryRefetchCompleteRule d b e)) ∧
  (∀ (w : Initiator) (d : Dir) (p : Path) (v : BitVec 32), Runs (.beamAlignWrite w d p v) (beamAlignWriteRule d p v)) ∧
  (∀ (c : Carrier) (a : Air), Runs (.missingDataDeadline c a) (missingDataDeadlineRule c a)) ∧
  Runs .engineCommit engineCommitRule

/-- Layer blocks, sounding blocks, servo steps and observation results (R131, R132, R133, R134, R151, R170, R176, R177, R178,
R185, R197, R279). -/
def Obligations.ReceiveResults : Prop :=
  (∀ (b : UlName), Runs (.ulBlockReady b) (ulBlockReadyRule b)) ∧
  (∀ (i : Nat), Runs (.holdExpiry i) (holdExpiryRule i)) ∧
  (∀ (c : Carrier) (winid : BitVec 4) (damaged : Bool), Runs (.soundingBlocks c winid damaged) (soundingBlocksRule c winid damaged)) ∧
  (∀ (p : Path) (rail : Rail), Runs (.dcServoStep p rail) (dcServoStepRule p rail)) ∧
  (∀ (n : Obs), Runs (.obsEntryStart n) (obsEntryStartRule n)) ∧
  (∀ (n : Obs), Runs (.obsSnapshotStart n) (obsSnapshotStartRule n)) ∧
  (∀ (n : Obs) (clip : Bool) (fb : Bytes), Runs (.obsSnapshotComplete n clip fb) (obsSnapshotCompleteRule n clip fb)) ∧
  (∀ (n : Obs) (clip : Bool) (fb : Bytes), Runs (.obsPowerResult n clip fb) (obsPowerResultRule n clip fb)) ∧
  (∀ (t : Tile), Runs (.sicSnapshotComplete t) (sicSnapshotCompleteRule t))

/-- Synthesisers: readiness, ends of tuning and calibration, lock loss and REFCLK (R255, R256, R257, R258, R259, R260, R261, R263,
R264, R265, R587). -/
def Obligations.Synthesisers : Prop :=
  (∀ (t : Tile) (c : Carrier) (a : Air), Runs (.txReadinessTest t c a) (txReadinessTestRule t c a)) ∧
  (∀ (k : Syn), Runs (.prepComplete k) (prepCompleteRule k)) ∧
  (∀ (k : Syn) (found : CalResult), Runs (.calComplete k found) (calCompleteRule k found)) ∧
  (∀ (k : Syn), Runs (.calYield k) (calYieldRule k)) ∧
  (∀ (t : Tile), Runs (.switchSpanStart t) (switchSpanStartRule t)) ∧
  (∀ (k : Syn), Runs (.lockLoss k) (lockLossRule k)) ∧
  (∀ (k : Syn), Runs (.relockFailure k) (relockFailureRule k)) ∧
  (∀ (w : Initiator) (k : Syn) (e : CalEntry) (v : BitVec 32), Runs (.syncalCommit w k e v) (syncalCommitRule w k e v)) ∧
  Runs .refclkLoss refclkLossRule ∧
  Runs .refclkReturn refclkReturnRule

/-- Transmit and receive enables, RFFE groups and commands, coexistence (R143, R269, R270, R272, R275, R276, R289, R290, R291). -/
def Obligations.FrontEndEnables : Prop :=
  (∀ (q : Quad) (a : Air) (gnt : BitVec 4), Runs (.feTxenOn q a gnt) (feTxenOnRule q a gnt)) ∧
  (∀ (q : Quad), Runs (.feTxenOff q) (feTxenOffRule q)) ∧
  (∀ (q : Quad) (gnt : BitVec 4), Runs (.feRxenSwitch q gnt) (feRxenSwitchRule q gnt)) ∧
  (∀ (b : Bus), Runs (.rffeGroupStart b) (rffeGroupStartRule b)) ∧
  (∀ (w : Initiator) (t : Tile) (v : BitVec 64), Runs (.feRffecmd w t v) (feRffecmdRule w t v)) ∧
  (∀ (t : Tile) (rd : BitVec 8) (parerr : Bool), Runs (.rffecmdRun t rd parerr) (rffecmdRunRule t rd parerr)) ∧
  (∀ (q : Quad), Runs (.loopbackReleaseByTraffic q) (loopbackReleaseByTrafficRule q)) ∧
  (∀ (c : Cox) (pri : Bool), Runs (.coxRequestRise c pri) (coxRequestRiseRule c pri)) ∧
  (∀ (c : Cox), Runs (.coxGrantWithdrawn c) (coxGrantWithdrawnRule c))

/-- Muted paths, limiter, duty, RF_SAFE_N, the regulatory record and the die temperatures (R279, R280, R281, R284, R285, R286,
R287, R288, R592). -/
def Obligations.Protection : Prop :=
  (∀ (p : Path), Runs (.limiterWindow p) (limiterWindowRule p)) ∧
  (∀ (w : Initiator) (t : Tile) (mask : BitVec 64), Runs (.feMuteRelease w t mask) (feMuteReleaseRule w t mask)) ∧
  (∀ (p : Path), Runs (.mutedPathResume p) (mutedPathResumeRule p)) ∧
  (∀ (t : Tile), Runs (.limiterLevelExchange t) (limiterLevelExchangeRule t)) ∧
  (∀ (p : Path), Runs (.limiterGainRise p) (limiterGainRiseRule p)) ∧
  (∀ (p : Path), Runs (.dutyLimitReached p) (dutyLimitReachedRule p)) ∧
  (∀ (q : Quad), Runs (.rfSafeResume q) (rfSafeResumeRule q)) ∧
  (∀ (d : Die) (temp : BitVec 12), Runs (.temperatureUpdate d temp) (temperatureUpdateRule d temp)) ∧
  Runs .dutyWindowStart dutyWindowStartRule ∧
  Runs .rfSafeNFall rfSafeNFallRule ∧
  Runs .rfSafeNRise rfSafeNRiseRule ∧
  Runs .regulatoryReadFailure regulatoryReadFailureRule ∧
  Runs .thermAlertN thermAlertNRule

/-- Sequencer ALU instructions on two registers: result and flags (R42, R298, R325, R327). -/
def Obligations.SequencerAlu : Prop :=
  (∀ (k : Seq) (d a b : GReg), Runs (.seqAdd k d a b) (seqAddRule k d a b)) ∧
  (∀ (k : Seq) (d a b : GReg), Runs (.seqSub k d a b) (seqSubRule k d a b)) ∧
  (∀ (k : Seq) (d a b : GReg), Runs (.seqAnd k d a b) (seqAndRule k d a b)) ∧
  (∀ (k : Seq) (d a b : GReg), Runs (.seqOr k d a b) (seqOrRule k d a b)) ∧
  (∀ (k : Seq) (d a b : GReg), Runs (.seqXor k d a b) (seqXorRule k d a b)) ∧
  (∀ (k : Seq) (d a b : GReg), Runs (.seqSll k d a b) (seqSllRule k d a b)) ∧
  (∀ (k : Seq) (d a b : GReg), Runs (.seqSrl k d a b) (seqSrlRule k d a b)) ∧
  (∀ (k : Seq) (d a b : GReg), Runs (.seqSra k d a b) (seqSraRule k d a b)) ∧
  (∀ (k : Seq) (d a b : GReg), Runs (.seqMul k d a b) (seqMulRule k d a b)) ∧
  (∀ (k : Seq) (d a b : GReg), Runs (.seqSlt k d a b) (seqSltRule k d a b)) ∧
  (∀ (k : Seq) (d a b : GReg), Runs (.seqSltu k d a b) (seqSltuRule k d a b)) ∧
  (∀ (k : Seq) (d a b : GReg), Runs (.seqMin k d a b) (seqMinRule k d a b)) ∧
  (∀ (k : Seq) (d a b : GReg), Runs (.seqMax k d a b) (seqMaxRule k d a b)) ∧
  (∀ (k : Seq) (d a b : GReg), Runs (.seqLead40 k d a b) (seqLead40Rule k d a b)) ∧
  (∀ (k : Seq) (d a b : GReg), Runs (.seqAdd40 k d a b) (seqAdd40Rule k d a b)) ∧
  (∀ (k : Seq) (d a b : GReg), Runs (.seqDivu k d a b) (seqDivuRule k d a b))

/-- Sequencer instructions with an immediate, EXT and INS (R298, R325, R328). -/
def Obligations.SequencerImmediates : Prop :=
  (∀ (k : Seq) (d a : GReg) (imm : Imm16), Runs (.seqAddi k d a imm) (seqAddiRule k d a imm)) ∧
  (∀ (k : Seq) (d a : GReg) (imm : Imm16), Runs (.seqAndi k d a imm) (seqAndiRule k d a imm)) ∧
  (∀ (k : Seq) (d a : GReg) (imm : Imm16), Runs (.seqOri k d a imm) (seqOriRule k d a imm)) ∧
  (∀ (k : Seq) (d a : GReg) (imm : Imm16), Runs (.seqXori k d a imm) (seqXoriRule k d a imm)) ∧
  (∀ (k : Seq) (d a : GReg) (imm : Imm16), Runs (.seqShi k d a imm) (seqShiRule k d a imm)) ∧
  (∀ (k : Seq) (d a : GReg) (imm : Imm16), Runs (.seqSetw k d a imm) (seqSetwRule k d a imm)) ∧
  (∀ (k : Seq) (d a : GReg) (imm : Imm16), Runs (.seqShor k d a imm) (seqShorRule k d a imm)) ∧
  (∀ (k : Seq) (d a : GReg) (imm : Imm16), Runs (.seqExt k d a imm) (seqExtRule k d a imm)) ∧
  (∀ (k : Seq) (d a : GReg) (imm : Imm16), Runs (.seqIns k d a imm) (seqInsRule k d a imm))

/-- Sequencer loads and stores (R29, R329). -/
def Obligations.SequencerMemory : Prop :=
  (∀ (k : Seq) (d a : GReg) (imm : Imm16), Runs (.seqLd k d a imm) (seqLdRule k d a imm)) ∧
  (∀ (k : Seq) (d a : GReg) (imm : Imm16), Runs (.seqLw k d a imm) (seqLwRule k d a imm)) ∧
  (∀ (k : Seq) (d a : GReg) (imm : Imm16), Runs (.seqLh k d a imm) (seqLhRule k d a imm)) ∧
  (∀ (k : Seq) (d a : GReg) (imm : Imm16), Runs (.seqLb k d a imm) (seqLbRule k d a imm)) ∧
  (∀ (k : Seq) (d a : GReg) (imm : Imm16), Runs (.seqSd k d a imm) (seqSdRule k d a imm)) ∧
  (∀ (k : Seq) (d a : GReg) (imm : Imm16), Runs (.seqSw k d a imm) (seqSwRule k d a imm)) ∧
  (∀ (k : Seq) (d a : GReg) (imm : Imm16), Runs (.seqSh k d a imm) (seqShRule k d a imm)) ∧
  (∀ (k : Seq) (d a : GReg) (imm : Imm16), Runs (.seqSb k d a imm) (seqSbRule k d a imm))

/-- Sequencer branches (R324, R330). -/
def Obligations.SequencerBranches : Prop :=
  (∀ (k : Seq) (cond : BitVec 5) (off : BitVec 21), Runs (.seqBr k cond off) (seqBrRule k cond off)) ∧
  (∀ (k : Seq) (gd : GReg) (off : BitVec 21), Runs (.seqBl k gd off) (seqBlRule k gd off)) ∧
  (∀ (k : Seq) (gd ga gb : GReg) (func : BitVec 11), Runs (.seqJumpr k gd ga gb func) (seqJumprRule k gd ga gb func)) ∧
  (∀ (k : Seq) (gdhi : BitVec 4) (ga : GReg) (imm : Imm16), Runs (.seqRbz k gdhi ga imm) (seqRbzRule k gdhi ga imm)) ∧
  (∀ (k : Seq) (gdhi : BitVec 4) (ga : GReg) (imm : Imm16), Runs (.seqRbnz k gdhi ga imm) (seqRbnzRule k gdhi ga imm))

/-- Sequencer time, special registers, sections, events and checkpoints (R299, R305, R310, R311, R317, R331, R336). -/
def Obligations.SequencerSystem : Prop :=
  (∀ (k : Seq) (gd ga gb : GReg) (func : BitVec 11), Runs (.seqAt k gd ga gb func) (seqAtRule k gd ga gb func)) ∧
  (∀ (k : Seq) (gd ga gb : GReg) (func : BitVec 11), Runs (.seqWaitt k gd ga gb func) (seqWaittRule k gd ga gb func)) ∧
  (∀ (k : Seq) (gd ga : GReg) (sel : Imm16), Runs (.seqMfs k gd ga sel) (seqMfsRule k gd ga sel)) ∧
  (∀ (k : Seq) (gd ga : GReg) (sel : Imm16), Runs (.seqMts k gd ga sel) (seqMtsRule k gd ga sel)) ∧
  (∀ (k : Seq) (gd ga gb : GReg) (func : BitVec 11), Runs (.seqRecv k gd ga gb func) (seqRecvRule k gd ga gb func)) ∧
  (∀ (k : Seq) (gd ga gb : GReg) (func : BitVec 11), Runs (.seqRecvNb k gd ga gb func) (seqRecvNbRule k gd ga gb func)) ∧
  (∀ (k : Seq) (gd ga gb : GReg) (func : BitVec 11), Runs (.seqEvRaise k gd ga gb func) (seqEvRaiseRule k gd ga gb func)) ∧
  (∀ (k : Seq) (gd ga gb : GReg) (func : BitVec 11), Runs (.seqEvWait k gd ga gb func) (seqEvWaitRule k gd ga gb func)) ∧
  (∀ (k : Seq), Runs (.seqEvWaitTimeout k) (seqEvWaitTimeoutRule k)) ∧
  (∀ (k : Seq), Runs (.seqStallEnd k) (seqStallEndRule k)) ∧
  (∀ (k : Seq) (gd ga : GReg) (imm : Imm16), Runs (.seqCkpt k gd ga imm) (seqCkptRule k gd ga imm)) ∧
  (∀ (k : Seq) (gd ga gb : GReg) (func : BitVec 11), Runs (.seqSpecoff k gd ga gb func) (seqSpecoffRule k gd ga gb func)) ∧
  (∀ (k : Seq) (gd ga gb : GReg) (func : BitVec 11), Runs (.seqHalt k gd ga gb func) (seqHaltRule k gd ga gb func))

/-- Issuing instructions, squashes and the faults of refused items (R300, R301, R302, R312, R313, R315, R316, R332, R333, R334,
R338). -/
def Obligations.SequencerIssue : Prop :=
  (∀ (k : Seq) (gs gt : GReg) (port flags : BitVec 8), Runs (.seqEmit k gs gt port flags) (seqEmitRule k gs gt port flags)) ∧
  (∀ (k : Seq) (gd ga gb : GReg) (func : BitVec 11), Runs (.seqPrep k gd ga gb func) (seqPrepRule k gd ga gb func)) ∧
  (∀ (k : Seq) (gd ga gb : GReg) (func : BitVec 11), Runs (.seqHop k gd ga gb func) (seqHopRule k gd ga gb func)) ∧
  (∀ (k : Seq) (gd ga gb : GReg) (func : BitVec 11), Runs (.seqPwr k gd ga gb func) (seqPwrRule k gd ga gb func)) ∧
  (∀ (k : Seq) (gd ga gb : GReg) (func : BitVec 11), Runs (.seqCommit k gd ga gb func) (seqCommitRule k gd ga gb func)) ∧
  (∀ (k : Seq) (gd ga gb : GReg) (func : BitVec 11), Runs (.seqBeamsel k gd ga gb func) (seqBeamselRule k gd ga gb func)) ∧
  (∀ (k : Seq) (gd ga gb : GReg) (func : BitVec 11), Runs (.seqSquash k gd ga gb func) (seqSquashRule k gd ga gb func)) ∧
  (∀ (k : Seq), Runs (.seqSquashStallEnd k) (seqSquashStallEndRule k)) ∧
  (∀ (k : Seq), Runs (.refusalFault k) (refusalFaultRule k)) ∧
  (∀ (k : Seq) (gs gt : GReg) (port flags : BitVec 8), Runs (.seqEmitTry k gs gt port flags) (seqEmitTryRule k gs gt port flags))

/-- Control of the sequencers, the issue queues and lockstep (R296, R297, R307, R308, R337, R525). -/
def Obligations.SequencerControl : Prop :=
  (∀ (w : Initiator) (k : Seq), Runs (.seqRun w k) (seqRunRule k)) ∧
  (∀ (w : Initiator) (k : Seq), Runs (.seqStop w k) (seqStopRule k)) ∧
  (∀ (w : Initiator) (k : Seq), Runs (.seqRestart w k) (seqRestartRule k)) ∧
  (∀ (w : Initiator) (v : BitVec 64), Runs (.hiqPush w v) (hiqPushRule w v)) ∧
  (∀ (w : Initiator) (v : BitVec 64), Runs (.miqPush w v) (miqPushRule w v)) ∧
  (∀ (q : IssueQ), Runs (.issueQueueIssue q) (issueQueueIssueRule q)) ∧
  (∀ (mgmt : Bool), Runs (.lockstepMismatch mgmt) (lockstepMismatchRule mgmt))

/-- The vector slot: result, saturation and overflow of each operation (R353, R355, R356, R357, R358, R359, R360, R361, R362,
R371, R372). -/
def Obligations.VectorSlot : Prop :=
  (∀ (n : Vc) (dual : Bool) (d a b : VField) (f : VfField), Runs (.vNop n dual d a b f) (vNopRule n dual d a b f)) ∧
  (∀ (n : Vc) (dual : Bool) (d a b : VField) (f : VfField), Runs (.vCmac n dual d a b f) (vCmacRule n dual d a b f)) ∧
  (∀ (n : Vc) (dual : Bool) (d a b : VField) (f : VfField), Runs (.vAdd n dual d a b f) (vAddRule n dual d a b f)) ∧
  (∀ (n : Vc) (dual : Bool) (d a vb : VField) (f : VfField), Runs (.vConj n dual d a vb f) (vConjRule n dual d a f)) ∧
  (∀ (n : Vc) (dual : Bool) (d a b : VField) (f : VfField), Runs (.vNorm n dual d a b f) (vNormRule n dual d a b f)) ∧
  (∀ (n : Vc) (dual : Bool) (d a vb : VField) (f : VfField), Runs (.vExp n dual d a vb f) (vExpRule n dual d a f)) ∧
  (∀ (n : Vc) (dual : Bool) (d a b : VField) (f : VfField), Runs (.vRnd n dual d a b f) (vRndRule n dual d a b f)) ∧
  (∀ (n : Vc) (dual : Bool) (d a vb : VField) (f : VfField), Runs (.vRsq n dual d a vb f) (vRsqRule n dual d a f)) ∧
  (∀ (n : Vc) (dual : Bool) (d a vb : VField) (f : VfField), Runs (.vSplat n dual d a vb f) (vSplatRule n dual d a f)) ∧
  (∀ (n : Vc) (dual : Bool) (d a vb : VField) (f : VfField), Runs (.vHadd n dual d a vb f) (vHaddRule n dual d a f)) ∧
  (∀ (n : Vc) (dual : Bool) (d va vb : VField) (f : VfField), Runs (.vAclr n dual d va vb f) (vAclrRule n dual d f)) ∧
  (∀ (n : Vc) (dual : Bool) (d a vb : VField) (f : VfField), Runs (.vMovs n dual d a vb f) (vMovsRule n dual d a f)) ∧
  (∀ (n : Vc) (dual : Bool) (d a vb : VField) (f : VfField), Runs (.vIns n dual d a vb f) (vInsRule n dual d a f)) ∧
  (∀ (n : Vc) (dual : Bool) (d a vb : VField) (f : VfField), Runs (.vAovf n dual d a vb f) (vAovfRule n dual d a f))

/-- The scalar ALU of a vector core: result and flags (R354, R362, R373). -/
def Obligations.ScalarAlu : Prop :=
  (∀ (n : Vc) (d x y : SField), Runs (.sAdd n d x y) (sAddRule n d x y)) ∧
  (∀ (n : Vc) (d x y : SField), Runs (.sSub n d x y) (sSubRule n d x y)) ∧
  (∀ (n : Vc) (d x : SField) (imm : BitVec 17), Runs (.sAddi n d x imm) (sAddiRule n d x imm)) ∧
  (∀ (n : Vc) (d x y : SField), Runs (.sAnd n d x y) (sAndRule n d x y)) ∧
  (∀ (n : Vc) (d x y : SField), Runs (.sOr n d x y) (sOrRule n d x y)) ∧
  (∀ (n : Vc) (d x y : SField), Runs (.sXor n d x y) (sXorRule n d x y)) ∧
  (∀ (n : Vc) (d x y : SField), Runs (.sSll n d x y) (sSllRule n d x y)) ∧
  (∀ (n : Vc) (d x y : SField), Runs (.sSrl n d x y) (sSrlRule n d x y)) ∧
  (∀ (n : Vc) (d x y : SField), Runs (.sSra n d x y) (sSraRule n d x y)) ∧
  (∀ (n : Vc) (d x y : SField), Runs (.sMul n d x y) (sMulRule n d x y)) ∧
  (∀ (n : Vc) (d x y : SField), Runs (.sSlt n d x y) (sSltRule n d x y)) ∧
  (∀ (n : Vc) (d x y : SField), Runs (.sSltu n d x y) (sSltuRule n d x y)) ∧
  (∀ (n : Vc) (d x y : SField), Runs (.sMin n d x y) (sMinRule n d x y)) ∧
  (∀ (n : Vc) (d x y : SField), Runs (.sMax n d x y) (sMaxRule n d x y))

/-- Moves of the scalar slot, between the scalar, address and offset registers (R352, R354, R362, R373). -/
def Obligations.ScalarMoves : Prop :=
  (∀ (n : Vc) (d x y : SField) (func : BitVec 13), Runs (.sNop n d x y func) (sNopRule n d x y func)) ∧
  (∀ (n : Vc) (d x : SField) (imm : BitVec 17), Runs (.sLi n d x imm) (sLiRule n d x imm)) ∧
  (∀ (n : Vc) (d x : SField) (imm : BitVec 17), Runs (.sLih n d x imm) (sLihRule n d x imm)) ∧
  (∀ (n : Vc) (d x y : SField) (func : BitVec 13), Runs (.sMov n d x y func) (sMovRule n d x y func)) ∧
  (∀ (n : Vc) (d x : SField) (imm : BitVec 17), Runs (.sAaddi n d x imm) (sAaddiRule n d x imm)) ∧
  (∀ (n : Vc) (d x : SField) (imm : BitVec 17), Runs (.sMfsr n d x imm) (sMfsrRule n d imm))

/-- Loads and stores of a vector core, and their responses (R366, R367, R368, R369). -/
def Obligations.VectorCoreMemory : Prop :=
  (∀ (n : Vc) (t : VField) (ax oy : SField) (disp : BitVec 12), Runs (.sVld n t ax oy disp) (sVldRule n t ax oy disp)) ∧
  (∀ (n : Vc) (t : VField) (ax oy : SField) (disp : BitVec 12), Runs (.sLd n t ax oy disp) (sLdRule n t ax oy disp)) ∧
  (∀ (n : Vc) (t : VField) (ax oy : SField) (disp : BitVec 12), Runs (.sVst n t ax oy disp) (sVstRule n t ax oy disp)) ∧
  (∀ (n : Vc) (t : VField) (ax oy : SField) (disp : BitVec 12), Runs (.sSt n t ax oy disp) (sStRule n t ax oy disp)) ∧
  (∀ (n : Vc), Runs (.remoteLoadResponse n) (remoteLoadResponseRule n)) ∧
  (∀ (n : Vc), Runs (.remoteStoreResponse n) (remoteStoreResponseRule n))

/-- Branches, loops and waits of the scalar slot, and control of a core (R349, R350, R351, R364, R365, R369, R374). -/
def Obligations.VectorCoreControl : Prop :=
  (∀ (n : Vc) (cond : BitVec 5) (off : BitVec 20), Runs (.sB n cond off) (sBRule n cond off)) ∧
  (∀ (n : Vc) (cond : BitVec 5) (off : BitVec 20), Runs (.sBl n cond off) (sBlRule n cond off)) ∧
  (∀ (n : Vc) (d x y : SField) (func : BitVec 13), Runs (.sJr n d x y func) (sJrRule n d x y func)) ∧
  (∀ (n : Vc) (w1 : Bool) (d x : SField) (imm : BitVec 17), Runs (.sLoop n w1 d x imm) (sLoopRule n w1 d x imm)) ∧
  (∀ (n : Vc) (d x y : SField) (func : BitVec 13), Runs (.sSev n d x y func) (sSevRule n d x y func)) ∧
  (∀ (n : Vc) (d x y : SField) (func : BitVec 13), Runs (.sSleep n d x y func) (sSleepRule n x)) ∧
  (∀ (n : Vc), Runs (.sleepEnd n) (sleepEndRule n)) ∧
  (∀ (n : Vc) (d x y : SField) (func : BitVec 13), Runs (.sFence n d x y func) (sFenceRule n d x y func)) ∧
  (∀ (n : Vc) (d x y : SField) (func : BitVec 13), Runs (.sHalt n d x y func) (sHaltRule n)) ∧
  (∀ (w : Initiator) (n : Vc), Runs (.vcRun w n) (vcRunRule n)) ∧
  (∀ (w : Initiator) (n : Vc), Runs (.vcStop w n) (vcStopRule n)) ∧
  (∀ (w : Initiator) (n : Vc), Runs (.vcRestart w n) (vcRestartRule n))

/-- Lane groups and lanes: enabling, idle, training, acquisition and loss (R378, R379, R381, R382, R383, R384, R385, R386, R387,
R388, R389, R398). -/
def Obligations.LaneGroups : Prop :=
  (∀ (w : Initiator) (g : Group) (v : BitVec 32), Runs (.laneGroupEnable w g v) (laneGroupEnableRule g v)) ∧
  (∀ (w : Initiator) (g : Group) (v : BitVec 32), Runs (.laneGroupDisable w g v) (laneGroupDisableRule g v)) ∧
  (∀ (w : Initiator) (l : Lane) (v : BitVec 32), Runs (.laneIdleRequest w l v) (laneIdleRequestRule l v)) ∧
  (∀ (w : Initiator) (l : Lane) (v : BitVec 32), Runs (.laneIdleExit w l v) (laneIdleExitRule l v)) ∧
  (∀ (g : Group), Runs (.pllLock g) (pllLockRule g)) ∧
  (∀ (l : Lane) (run : LineRun), Runs (.idleEntry l run) (idleEntryRule l run)) ∧
  (∀ (l : Lane) (run : LineRun), Runs (.train l run) (trainRule l run)) ∧
  (∀ (l : Lane) (run : LineRun), Runs (.retrain l run) (retrainRule l run)) ∧
  (∀ (l : Lane), Runs (.signalDetect l) (signalDetectRule l)) ∧
  (∀ (l : Lane) (run : LineRun), Runs (.fastExitLock l run) (fastExitLockRule l run)) ∧
  (∀ (l : Lane), Runs (.fastExitFail l) (fastExitFailRule l)) ∧
  (∀ (l : Lane), Runs (.trainingEnd l) (trainingEndRule l)) ∧
  (∀ (l : Lane) (hdrs : List SyncHeader), Runs (.blockLock l hdrs) (blockLockRule l hdrs)) ∧
  (∀ (l : Lane), Runs (.acquisitionRetry l) (acquisitionRetryRule l)) ∧
  (∀ (l : Lane), Runs (.lossOfSignal l) (lossOfSignalRule l)) ∧
  (∀ (l : Lane) (range : Bool) (hdrs : List SyncHeader), Runs (.lossOfLock l range hdrs) (lossOfLockRule l range hdrs))

/-- Link ports: alignment, reset, credits, acknowledgements, timeouts and egress (R400, R401, R402, R405, R407, R408, R409, R410,
R411, R412, R415, R429). -/
def Obligations.LinkPorts : Prop :=
  (∀ (p : LPort), Runs (.portAligning p) (portAligningRule p)) ∧
  (∀ (p : LPort) (w : BitVec 64) (seen : AlignSeen), Runs (.alignWord p w seen) (alignWordRule p w seen)) ∧
  (∀ (p : LPort), Runs (.alignSend p) (alignSendRule p)) ∧
  (∀ (p : LPort) (cut : Bool) (w : BitVec 64), Runs (.lresetWord p cut w) (lresetWordRule p cut w)) ∧
  (∀ (p : LPort), Runs (.portUp p) (portUpRule p)) ∧
  (∀ (p : LPort) (cut : Bool) (w : BitVec 64), Runs (.creditWord p cut w) (creditWordRule p cut w)) ∧
  (∀ (p : LPort), Runs (.creditRefresh p) (creditRefreshRule p)) ∧
  (∀ (p : LPort) (cut : Bool) (w : BitVec 64), Runs (.ackWord p cut w) (ackWordRule p cut w)) ∧
  (∀ (p : LPort) (cut : Bool) (w : BitVec 64), Runs (.nakWord p cut w) (nakWordRule p cut w)) ∧
  (∀ (p : LPort) (v : VChan), Runs (.ackTimeout p v) (ackTimeoutRule p v)) ∧
  (∀ (p : LPort) (v : VChan), Runs (.creditTimeout p v) (creditTimeoutRule p v)) ∧
  (∀ (p : LPort), Runs (.vc2WaitExpiry p) (vc2WaitExpiryRule p)) ∧
  (∀ (p : LPort), Runs (.frameSend p) (frameSendRule p)) ∧
  (∀ (p : LPort) (up : Bool), Runs (.pcsLinkChange p up) (pcsLinkChangeRule p up))

/-- Received frames: what each type does at the device (R404, R413, R414, R416, R418, R420, R421, R423, R424, R427, R442, R448).
-/
def Obligations.ReceivedFrames : Prop :=
  (∀ (p : LPort) (f : Frame), Runs (.taggedFrame p f) (taggedFrameRule p f)) ∧
  (∀ (p : LPort) (f : Frame), Runs (.mgmtRead p f) (mgmtReadRule p f)) ∧
  (∀ (p : LPort) (f : Frame), Runs (.mgmtWrite p f) (mgmtWriteRule p f)) ∧
  (∀ (p : LPort) (f : Frame), Runs (.mgmtUpdate p f) (mgmtUpdateRule p f)) ∧
  (∀ (p : LPort) (f : Frame), Runs (.mgmtRsp p f) (mgmtRspRule p f)) ∧
  (∀ (p : LPort) (f : Frame), Runs (.eventFrame p f) (eventFrameRule p f)) ∧
  (∀ (p : LPort) (f : Frame), Runs (.bulk p f) (bulkRule p f)) ∧
  (∀ (p : LPort) (f : Frame), Runs (.linkctl p f) (linkctlRule p f)) ∧
  (∀ (p : LPort) (f : Frame), Runs (.tsyncAnnounce p f) (tsyncAnnounceRule p f)) ∧
  (∀ (p : LPort) (e : EthFrame), Runs (.ethernetFrame p e) (ethernetFrameRule p e)) ∧
  (∀ (p : LPort) (native : Bool) (dst : BitVec 48) (m : Bytes), Runs (.ptpMessage p native dst m) (ptpMessageRule p native dst m))

/-- Time: steps, rates, sources, the steering word and the counter (R433, R434, R435, R436, R437, R438, R452, R454). -/
def Obligations.TimeRegisters : Prop :=
  (∀ (w : Initiator) (v : BitVec 64), Runs (.timeStepWrite w v) (timeStepWriteRule w v)) ∧
  (∀ (w : Initiator) (v : BitVec 32), Runs (.timeRearm w v) (timeRearmRule v)) ∧
  (∀ (w : Initiator) (v : BitVec 32), Runs (.timeSrcChange w v) (timeSrcChangeRule v)) ∧
  (∀ (w : Initiator) (v : BitVec 64), Runs (.timeRateWrite w v) (timeRateWriteRule w v)) ∧
  Runs .steeringWordPeriodic steeringWordPeriodicRule ∧
  Runs .slowclkTick slowclkTickRule ∧
  Runs .tickCounterWrap tickCounterWrapRule

/-- The servo: samples, lock, holdover and the loss of the source (R439, R440, R450, R451). -/
def Obligations.TimeServo : Prop :=
  (∀ (theta : Int) (gen : BitVec 4) (spansStep : Bool) (rate : BitVec 40), Runs (.servoSample theta gen spansStep rate) (servoSampleRule theta gen spansStep rate)) ∧
  Runs .sourceLossTimeout sourceLossTimeoutRule ∧
  Runs .ppsOutEdge ppsOutEdgeRule ∧
  Runs .ppsInEdge ppsInEdgeRule ∧
  Runs .ppsMissing ppsMissingRule

/-- PTP frames in and out, and TSYNC edges (R441, R442, R443, R444, R446, R447, R448, R449). -/
def Obligations.PtpAndTsync : Prop :=
  (∀ (w : Initiator) (v : BitVec 32), Runs (.ptpDescriptor w v) (ptpDescriptorRule v)) ∧
  (∀ (i : Nat), Runs (.ptpLaunch i) (ptpLaunchRule i)) ∧
  Runs .tsyncOutEdge tsyncOutEdgeRule ∧
  Runs .tsyncInEdge tsyncInEdgeRule ∧
  Runs .tsyncMissing tsyncMissingRule

/-- Requests of the host, its endpoint, and the service SPI (R456, R458, R459, R460, R461, R471, R472). -/
def Obligations.HostAndService : Prop :=
  (∀ (b : Bytes), Runs (.svcWrite b) (svcWriteRule b)) ∧
  (∀ (b : Bytes), Runs (.svcRead b) (svcReadRule b)) ∧
  Runs .svcStatus svcStatusRule ∧
  (∀ (r : HostReq), Runs (.hostRequest r) (hostRequestRule r)) ∧
  Runs .pcieEndpointReady pcieEndpointReadyRule ∧
  (∀ (v : MsixVec), Runs (.msixUnmask v) (msixUnmaskRule v)) ∧
  (∀ (w : Initiator) (v : BitVec 32), Runs (.memWincbaseWrite w v) (memWincbaseWriteRule v))

/-- Slots of the shared window: claims, hand-overs, releases and leases (R462, R463, R464, R465, R466, R467). -/
def Obligations.SharedSlots : Prop :=
  (∀ (i : Slot) (v : BitVec 64), Runs (.slotClaim i v) (slotClaimRule i)) ∧
  (∀ (i : Slot) (v : BitVec 64), Runs (.slotHandover i v) (slotHandoverRule i v)) ∧
  (∀ (i : Slot) (v : BitVec 64), Runs (.slotRelease i v) (slotReleaseRule i)) ∧
  (∀ (w : Initiator) (i : Slot) (v : BitVec 64), Runs (.deviceSlotClaim w i v) (deviceSlotClaimRule w i)) ∧
  (∀ (w : Initiator) (i : Slot) (v : BitVec 64), Runs (.deviceSlotHandover w i v) (deviceSlotHandoverRule w i v)) ∧
  (∀ (w : Initiator) (i : Slot) (v : BitVec 64), Runs (.deviceSlotRelease w i v) (deviceSlotReleaseRule w i)) ∧
  (∀ (i : Slot), Runs (.headerRepoll i) (headerRepollRule i)) ∧
  (∀ (i : Slot), Runs (.leaseExpiry i) (leaseExpiryRule i))

/-- DMA channels: doorbells, descriptors, copies, waits, pause, resume and split bursts (R474, R476, R479, R481, R483, R484, R485,
R486, R487, R488, R489). -/
def Obligations.DmaChannels : Prop :=
  (∀ (w : Initiator) (c : DmaCh) (v : BitVec 32), Runs (.dmaRing w c v) (dmaRingRule c)) ∧
  (∀ (w : Initiator) (c : DmaCh) (v : BitVec 32), Runs (.dmaEnable w c v) (dmaEnableRule c v)) ∧
  (∀ (w : Initiator) (c : DmaCh) (v : BitVec 32), Runs (.dmaDisable w c v) (dmaDisableRule c v)) ∧
  (∀ (w : Initiator) (c : DmaCh) (v : BitVec 32), Runs (.dmaResume w c v) (dmaResumeRule c v)) ∧
  (∀ (w : Initiator) (c : DmaCh) (v : BitVec 32), Runs (.dmaAbort w c v) (dmaAbortRule c v)) ∧
  (∀ (w : Initiator) (c : DmaCh) (v : BitVec 64), Runs (.dmaHeadWrite w c v) (dmaHeadWriteRule c v)) ∧
  (∀ (host : Bytes), Runs (.burstGrant host) (burstGrantRule host)) ∧
  (∀ (c : DmaCh), Runs (.waitwordPoll c) (waitwordPollRule c)) ∧
  (∀ (c : DmaCh), Runs (.descriptorComplete c) (descriptorCompleteRule c)) ∧
  (∀ (c : DmaCh) (e : Event), Runs (.waitevSignal c e) (waitevSignalRule c e)) ∧
  (∀ (c : DmaCh), Runs (.dmaWaitTimeout c) (dmaWaitTimeoutRule c)) ∧
  (∀ (c : DmaCh), Runs (.dmaErrorHalt c) (dmaErrorHaltRule c))

/-- The scrubber, the non-volatile store, event messages, and the EVENT register (R24, R282, R500, R501, R502, R503, R504, R519,
R528). -/
def Obligations.MemoryAndEvents : Prop :=
  (∀ (e : Event), Runs (.eventRepeatMessage e) (eventRepeatMessageRule e)) ∧
  (∀ (w : Initiator) (hi : Bool) (mask hw : BitVec 64), Runs (.evPendClear w hi mask hw) (evPendClearRule hi mask hw)) ∧
  (∀ (w : Initiator) (v : BitVec 32), Runs (.watchdogKick w v) (watchdogKickRule v)) ∧
  (∀ (w : ScrubWalk), Runs (.scrubStep w) (scrubStepRule w)) ∧
  Runs .privilegedLapOverdue privilegedLapOverdueRule ∧
  (∀ (w : Initiator) (addr : Addr) (v : BitVec 64) (ok : Bool), Runs (.nvWordWrite w addr v ok) (nvWordWriteRule w addr v ok)) ∧
  (∀ (w : Initiator) (v : BitVec 64), Runs (.nvErase w v) (nvEraseRule v))

/-- Faults, fences, releases and the watchdog (R521, R522, R523, R524, R525, R526, R527, R528, R535). -/
def Obligations.FaultsAndFences : Prop :=
  Runs .watchdogExpiry watchdogExpiryRule ∧
  (∀ (u : FUnit), Runs (.requestTimeout u) (requestTimeoutRule u)) ∧
  (∀ (u : FUnit), Runs (.clockMonitorTrip u) (clockMonitorTripRule u)) ∧
  (∀ (u : FUnit), Runs (.selfCheckError u) (selfCheckErrorRule u)) ∧
  (∀ (w : Initiator) (v : BitVec 32), Runs (.fenceRequest w v) (fenceRequestRule w v)) ∧
  (∀ (w : Initiator) (v : BitVec 32), Runs (.fenceRelease w v) (fenceReleaseRule w v))

/-- Requests, entries, refusals, rollbacks and exits of the power ladder (R536, R538, R539, R540, R541, R542, R543, R544, R545,
R549). -/
def Obligations.PowerLadder : Prop :=
  (∀ (w : Initiator) (v : BitVec 32), Runs (.pwrReqActive w v) (pwrReqActiveRule w v)) ∧
  (∀ (w : Initiator) (v : BitVec 32), Runs (.pwrReqFen w v) (pwrReqFenRule w v)) ∧
  (∀ (w : Initiator) (v : BitVec 32), Runs (.pwrReqBog w v) (pwrReqBogRule w v)) ∧
  (∀ (w : Initiator) (v : BitVec 32), Runs (.pwrReqPeat w v) (pwrReqPeatRule w v)) ∧
  (∀ (m : PMach), Runs (.powerEntryStep m) (powerEntryStepRule m)) ∧
  (∀ (m : PMach), Runs (.entryRollback m) (entryRollbackRule m)) ∧
  (∀ (t : Tile), Runs (.autoReedEntry t) (autoReedEntryRule t)) ∧
  (∀ (t : Tile), Runs (.autoReedExit t) (autoReedExitRule t)) ∧
  Runs (.exitStepReady .device) exitStepReadyRule ∧
  (∀ (t : Tile), Runs (.exitStepReady (.tile t)) (exitStepReadyTileRule t)) ∧
  (∀ (m : PMach), Runs (.transitionOverrun m) (transitionOverrunRule m))

/-- Wakes, supply rails and voltage scaling (R537, R546, R547, R548, R592, R596, R597, R598, R599). -/
def Obligations.WakesAndSupplies : Prop :=
  Runs .wakeTick wakeTickRule ∧
  Runs .wakeN wakeNRule ∧
  (∀ (good : BitVec 8), Runs (.psEnRaise good) (psEnRaiseRule good)) ∧
  (∀ (b : RailBit), Runs (.psGoodFall b) (psGoodFallRule b)) ∧
  (∀ (b : RailBit), Runs (.psGoodTimeout b) (psGoodTimeoutRule b)) ∧
  (∀ (up : Bool), Runs (.avsStep up) (avsStepRule up))

/-- Operating modes, boot and resets (R553, R554, R555, R556, R559, R560, R561, R562, R563). -/
def Obligations.ModesAndResets : Prop :=
  (∀ (w : Initiator), Runs (.modeReqService w) (modeReqServiceRule w)) ∧
  (∀ (w : Initiator), Runs (.modeReqMaintenance w) (modeReqMaintenanceRule w)) ∧
  (∀ (w : Initiator), Runs (.modeReqTest w) (modeReqTestRule w)) ∧
  (∀ (w : Initiator), Runs (.modeReqWarmup w) (modeReqWarmupRule w)) ∧
  (∀ (w : Initiator), Runs (.modeReqTimeout w) (modeReqTimeoutRule w)) ∧
  Runs .settingsRead settingsReadRule ∧
  Runs .calibrationComplete calibrationCompleteRule ∧
  (∀ (w : Initiator) (v : BitVec 32), Runs (.softwareReset w v) (softwareResetRule w v)) ∧
  Runs .bootWatchdogExpiry bootWatchdogExpiryRule

/-- The supply and reset pins count in every state of the block (R456, R551, R556, R557, R558, R559). -/
def Obligations.PinsInEveryState : Prop :=
  RunsAlways .powerOn powerOnRule ∧
  RunsAlways .powerLoss powerLossRule ∧
  RunsAlways .resetPin resetPinRule ∧
  (∀ (recoverN : Bool), RunsAlways (.resetNRelease recoverN) (resetNReleaseRule recoverN)) ∧
  RunsAlways .pciePerst pciePerstRule ∧
  RunsAlways .pciePerstNRelease pciePerstNReleaseRule

/-- Messages of update sessions, and their timers (R566, R567, R568, R569, R570, R571, R572, R575, R577, R580, R582). -/
def Obligations.UpdateSessions : Prop :=
  (∀ (r : Route) (m : SessMsg), Runs (.sessionOpen r m) (sessionOpenRule r m)) ∧
  (∀ (r : Route) (m : SessMsg), Runs (.sessionWrite r m) (sessionWriteRule r m)) ∧
  (∀ (r : Route) (m : SessMsg), Runs (.sessionFinish r m) (sessionFinishRule r m)) ∧
  (∀ (r : Route) (m : SessMsg), Runs (.sessionActivate r m) (sessionActivateRule r m)) ∧
  (∀ (r : Route) (m : SessMsg), Runs (.sessionConfirm r m) (sessionConfirmRule r m)) ∧
  (∀ (r : Route) (m : SessMsg), Runs (.sessionAbort r m) (sessionAbortRule r m)) ∧
  (∀ (r : Route) (m : SessMsg), Runs (.sessionStatus r m) (sessionStatusRule r m)) ∧
  (∀ (r : Route) (m : SessMsg), Runs (.sessionRead r m) (sessionReadRule r m)) ∧
  (∀ (r : Route) (m : SessMsg), Runs (.sessionFallback r m) (sessionFallbackRule r m)) ∧
  Runs .sessionLockExpiry sessionLockExpiryRule ∧
  Runs .trialWindowExpiry trialWindowExpiryRule

/-- Registers: counters read and cleared, write-1 bits, high halves, and tile configuration (R11, R13, R25, R34, R36, R105, R268,
R280, R375, R398, R516, R585). -/
def Obligations.RegisterAccess : Prop :=
  (∀ (w : Initiator) (off : RegOff) (hw : Bool), Runs (.counterReadClear w off hw) (counterReadClearRule off hw)) ∧
  (∀ (w : Initiator) (off : RegOff) (v hw : BitVec 64), Runs (.w1cWrite w off v hw) (w1cWriteRule off v hw)) ∧
  (∀ (w : Initiator) (off : RegOff) (v : BitVec 64), Runs (.wideRegisterCommit w off v) (wideRegisterCommitRule off v)) ∧
  (∀ (w : Initiator) (off : RegOff) (wide : Bool) (v : BitVec 64), Runs (.configRegisterWrite w off wide v) (configRegisterWriteRule off wide v))

/-! ## The whole block, and rules that hold across families -/

/-- A step with a command at the front of the queue is that command on the state with the queue's rest. -/
def Obligations.StepRunsFront : Prop :=
  ∀ (c : Instr) (cs : List Instr) (s : State), step { s with pending := c :: cs } = exec c { s with pending := cs }

/-- With no command waiting the block idles for one tick: the model's choice (log entry 1). -/
def Obligations.EmptyQueueIdles : Prop := ∀ s : State, s.pending = [] → step s = .next s.idle

/-- Every command answers a next state from every state: no command stops the block. -/
def Obligations.EveryCommandAnswers : Prop := ∀ (c : Instr) (s : State), completes c s

/-- A command changes nothing of the queue of the commands behind it. -/
def Obligations.CommandsLeaveTheQueue : Prop := ∀ (c : Instr) (s t : State), goesTo (exec c s) t → t.pending = s.pending

/-- Every step keeps memory in its one form: addresses rising, and no entry equal to what an unlisted address reads as. -/
def Obligations.StepsKeepMemoryForm : Prop := ∀ s t : State, Memory.wf s → goesTo (step s) t → Memory.wf t

/-- Memory has that form at reset, where it lists nothing. -/
def Obligations.ResetMemoryForm : Prop := Memory.wf State.reset ∧ State.reset.mem.cells = []

/-- What reset leaves: every sequencer stopped, its registers, flags and EPOCHs zero, LEAD 0x780000 and no checkpoint open (R296,
R299); every vector core stopped (R349); every STOP function but the path removals stopped, quiescent and resumable by any source,
and no path out of service (R589); no event pending and no unit fenced (R535). -/
def Obligations.ResetState : Prop :=
  let s := State.reset
  (∀ k : Seq, (s.seqOf k.val).state = .stopped ∧ (s.seqOf k.val).leadMax = 0x780000 ∧ (s.seqOf k.val).f = 0 ∧
    (s.seqOf k.val).opened = false ∧ (∀ j, (s.seqOf k.val).epochOf j = 0) ∧ (∀ r, (s.seqOf k.val).reg r = 0)) ∧
  (∀ n : Vc, (s.vcOf n.val).state = .stopped) ∧
  (∀ f : Fin 32, ∀ t : Tile, s.fnOf f.val t.val =
    if f.val = 17 ∨ f.val = 18 then { stopped := false, quiet := false, byReset := false }
    else { stopped := true, quiet := true, byReset := true }) ∧
  s.txOut = 0 ∧ s.rxOut = 0 ∧ s.evPend = 0 ∧ s.fenced = 0 ∧ s.pending = []

/-- Without power or in reset only the supply and the reset pins count: every other command leaves the state as it is, with no
answer and no output (R271, R556-R558). -/
def Obligations.SilentWithoutPower : Prop :=
  ∀ (c : Instr) (s : State), s.alive = false → ¬ isPin c → exec c s = .next s.fresh

/-- What a stage does with a control item that it does not take: a failed tag check (R39), an air time more than 2^24 tk ahead
(R44), a squash or a stopped function (R64, R68), a payload or a tag of the wrong form (R342). The item leaves the network in
each case. -/
def Obligations.UntakenItems : Prop :=
  (∀ (g : Tag) (b : Bytes), Untaken (.fftCfg g b) .fft 0 (mkItem kFftCfg g b)) ∧
  (∀ (g : Tag) (b : Bytes), Untaken (.wola g b) .wola 0 (mkItem kWola g b)) ∧
  (∀ (t : Tile) (g : Tag) (b : Bytes), Untaken (.carrierOn t g b) .flt t.val (mkItem kCarrier g (rowPay b 1 2 3 0))) ∧
  (∀ (t : Tile) (g : Tag) (b : Bytes), Untaken (.carrierOff t g b) .flt t.val (mkItem kCarrier g (rowPay b 1 2 3 1))) ∧
  (∀ (t : Tile) (g : Tag) (b : Bytes), Untaken (.carrierRetune t g b) .flt t.val (mkItem kCarrier g (rowPay b 1 2 3 2))) ∧
  (∀ (t : Tile) (g : Tag) (b : Bytes), Untaken (.gainTx t g b) .wola 0 (mkItem kGain g b)) ∧
  (∀ (t : Tile) (g : Tag) (b : Bytes), Untaken (.cfrCfg t g b) .cfr t.val (mkItem kCfrCfg g b)) ∧
  (∀ (t : Tile) (g : Tag) (b : Bytes), Untaken (.dpdSwapModel t g b) .dpd t.val (mkItem kDpdSwap g (setPay b 16 1 0))) ∧
  (∀ (t : Tile) (g : Tag) (b : Bytes), Untaken (.dpdSwapCorr t g b) .dpd t.val (mkItem kDpdSwap g (setPay b 16 1 1))) ∧
  (∀ (t : Tile) (g : Tag) (b : Bytes), Untaken (.fltSwapTxfir t g b) .flt t.val (mkItem kFltSwap g (rowPay b 0 2 3 0))) ∧
  (∀ (t : Tile) (g : Tag) (b : Bytes), Untaken (.fltSwapRxfir t g b) .flt t.val (mkItem kFltSwap g (rowPay b 0 2 3 1))) ∧
  (∀ (t : Tile) (g : Tag) (b : Bytes), Untaken (.fltSwapRxiq t g b) .flt t.val (mkItem kFltSwap g (rowPay b 0 2 3 2))) ∧
  (∀ (t : Tile) (g : Tag) (b : Bytes), Untaken (.gainRx t g b) .flt t.val (mkItem kGain g (setPay b 18 1 0))) ∧
  (∀ (t : Tile) (g : Tag) (b : Bytes), Untaken (.dcFreeze t g b) .flt t.val (mkItem kDcFreeze g (setPay b 16 1 1))) ∧
  (∀ (t : Tile) (g : Tag) (b : Bytes), Untaken (.dcRelease t g b) .flt t.val (mkItem kDcFreeze g (setPay b 16 1 0))) ∧
  (∀ (t : Tile) (g : Tag) (b : Bytes), Untaken (.sicCtlOn t g b) .sic t.val (mkItem kSicCtl g (setPay b 16 2 0))) ∧
  (∀ (t : Tile) (g : Tag) (b : Bytes), Untaken (.sicCtlOff t g b) .sic t.val (mkItem kSicCtl g (setPay b 16 2 1))) ∧
  (∀ (t : Tile) (g : Tag) (b : Bytes), Untaken (.sicCtlSwap t g b) .sic t.val (mkItem kSicCtl g (setPay b 16 2 2))) ∧
  (∀ (t : Tile) (g : Tag) (b : Bytes), Untaken (.sicCtlSnap t g b) .sic t.val (mkItem kSicCtl g (setPay b 16 2 3))) ∧
  (∀ (t : Tile) (g : Tag) (b : Bytes), Untaken (.loPrep t g b) .lo t.val (mkItem kLoCtl g (rowPay b 0 2 3 0))) ∧
  (∀ (t : Tile) (g : Tag) (b : Bytes), Untaken (.loCal t g b) .lo t.val (mkItem kLoCtl g (rowPay b 0 2 3 1))) ∧
  (∀ (t : Tile) (g : Tag) (b : Bytes), Untaken (.loSwitch t g b) .lo t.val (mkItem kLoCtl g (rowPay b 0 2 3 2))) ∧
  (∀ (g : Tag) (b : Bytes), Untaken (.pwrCtlActive g b) .pwr 0 (mkItem kPwrCtl g (rowPay b 0 3 4 0))) ∧
  (∀ (g : Tag) (b : Bytes), Untaken (.pwrCtlReed g b) .pwr 0 (mkItem kPwrCtl g (rowPay b 0 3 4 1))) ∧
  (∀ (g : Tag) (b : Bytes), Untaken (.pwrCtlSedge g b) .pwr 0 (mkItem kPwrCtl g (rowPay b 0 3 4 2))) ∧
  (∀ (g : Tag) (b : Bytes), Untaken (.pwrCtlFen g b) .pwr 0 (mkItem kPwrCtl g (rowPay b 0 3 4 3))) ∧
  (∀ (t : Tile) (g : Tag) (b : Bytes), Untaken (.feRxon t g b) .fe t.val (mkItem kFeCtl g (setPay b 4 1 1))) ∧
  (∀ (t : Tile) (g : Tag) (b : Bytes), Untaken (.feRxoff t g b) .fe t.val (mkItem kFeCtl g (setPay b 5 1 1))) ∧
  (∀ (t : Tile) (g : Tag) (b : Bytes), Untaken (.feLoopback t g b) .fe t.val (mkItem kFeCtl g (setPay b 8 1 1))) ∧
  (∀ (t : Tile) (g : Tag) (b : Bytes), Untaken (.feLbrel t g b) .fe t.val (mkItem kFeCtl g (setPay b 9 1 1))) ∧
  (∀ (t : Tile) (g : Tag) (b : Bytes), Untaken (.feRxcal t g b) .fe t.val (mkItem kFeCtl g (setPay b 10 1 1))) ∧
  (∀ (t : Tile) (g : Tag) (b : Bytes), Untaken (.feTune t g b) .fe t.val (mkItem kFeCtl g (setPay b 11 1 1))) ∧
  (∀ (t : Tile) (g : Tag) (b : Bytes), Untaken (.rffeGroup t g b) .fe t.val (mkItem kFeCtl g (setPay b 12 1 1))) ∧
  (∀ (p : Port) (t : Tile) (g : Tag) (b : Bytes), Untaken (.marker p t g b) p (portTile p t.val) (mkItem kMarker g b)) ∧
  (∀ (g : Tag) (b : Bytes), Untaken (.soundingWindow g b) .bf 0 (mkItem kBeamSel g (rowPay b 0 2 2 1))) ∧
  (∀ (g : Tag) (b : Bytes), Untaken (.beamCommit g b) .bf 0 (mkItem kBeamCommit g b)) ∧
  (∀ (t : Tile) (g : Tag) (b : Bytes), Untaken (.syncReset t g b) .flt t.val (mkItem kSyncReset g b)) ∧
  (∀ (p : Port) (t : Tile) (g : Tag) (b : Bytes), Untaken (.stop p t g b) p (portTile p t.val) (mkItem kStop g (setPay b 0 1 0))) ∧
  (∀ (p : Port) (t : Tile) (g : Tag) (b : Bytes), Untaken (.stopResume p t g b) p (portTile p t.val) (mkItem kStop g (setPay b 0 1 1))) ∧
  (∀ (p : Port) (t : Tile) (g : Tag) (b : Bytes), Untaken (.squashItem p t g b) p (portTile p t.val) (mkItem kSquash g b)) ∧
  (∀ (t : Tile) (g : Tag) (b : Bytes), UntakenCoef (.coefPredistorter t g b) 0 t g b) ∧
  (∀ (t : Tile) (g : Tag) (b : Bytes), UntakenCoef (.coefTxCorrector t g b) 1 t g b) ∧
  (∀ (t : Tile) (g : Tag) (b : Bytes), UntakenCoef (.coefRxCorrector t g b) 2 t g b) ∧
  (∀ (t : Tile) (g : Tag) (b : Bytes), UntakenCoef (.coefCanceller t g b) 3 t g b) ∧
  (∀ (t : Tile) (g : Tag) (b : Bytes), UntakenCoef (.coefFir t g b) 4 t g b) ∧
  (∀ (t : Tile) (g : Tag) (b : Bytes), UntakenCoef (.coefCfrPulse t g b) 5 t g b)

/-- A STOP that is on time stops its functions at its AIRTIME; a late one is counted, and stops them at the arrival plus the
minimum lead (R69). -/
def Obligations.StopTimes : Prop :=
  (∀ (p : Port) (t : Tile) (g : Tag) (b : Bytes), StopsInTime (.stop p t g b) p (portTile p t.val) (mkItem kStop g (setPay b 0 1 0))) ∧
  (∀ (p : Port) (t : Tile) (g : Tag) (b : Bytes), StopsInTime (.pathtxStop p t g b) p (portTile p t.val) (mkItem kStop g (setPay (setPay b 0 1 0) 32 32 (2 ^ 17)))) ∧
  (∀ (p : Port) (t : Tile) (g : Tag) (b : Bytes), StopsInTime (.pathrxStop p t g b) p (portTile p t.val) (mkItem kStop g (setPay (setPay b 0 1 0) 32 32 (2 ^ 18))))

/-- Epoch e is older than E when ((E - e) mod 256) lies in 1-127; an item whose epoch is not older stays (R63). -/
def Obligations.EpochOrder : Prop :=
  (∀ e E : BitVec 8, older e E = true ↔ 1 ≤ (E.toNat + 256 - e.toNat) % 256 ∧ (E.toNat + 256 - e.toNat) % 256 ≤ 127) ∧
  (∀ g x : Tag, (g.epoch.toNat + 256 - x.epoch.toNat) % 256 = 0 ∨ 128 ≤ (g.epoch.toNat + 256 - x.epoch.toNat) % 256 →
    squashHits g x = false)

/-- SPECOFF closes the checkpoint and keeps SQCNT, SLOT and NS; the fallback closes it; with none open no emit is recorded as
speculative, and SQUASH is a program fault of cause 0x09 (R317). -/
def Obligations.ClosedCheckpoint : Prop :=
  (∀ (k : Seq) (s : State), s.alive = true → s.fresh.seqReady k.val = true → inProgram (s.seqOf k.val).after = true →
    ∃ t, goesTo (exec (.seqSpecoff k 0 0 0 0) s) t ∧ (t.seqOf k.val).opened = false ∧ (t.seqOf k.val).sqcnt = (s.seqOf k.val).sqcnt ∧
      (t.seqOf k.val).slot = (s.seqOf k.val).slot ∧ (t.seqOf k.val).ns = (s.seqOf k.val).ns) ∧
  (∀ (k : Seq) (a : GReg) (s : State), s.alive = true → s.fresh.seqReady k.val = true → (s.seqOf k.val).opened = true →
    s.squashBound (s.seqOf k.val) = false → (s.seqOf k.val).sqcnt = 2 →
    s.fresh.seqMayIssue k.val ((s.seqOf k.val).squashItems k.val (((s.seqOf k.val).reg a).truncate 40)) = true →
    ∃ t, goesTo (exec (.seqSquash k 0 a 0 0) s) t ∧ (t.seqOf k.val).opened = false) ∧
  (∀ (k : Seq) (gs gt : GReg) (port flags : BitVec 8), NotSpeculative k (.seqEmit k gs gt port flags)) ∧
  (∀ (k : Seq) (gs gt : GReg) (port flags : BitVec 8), NotSpeculative k (.seqEmitTry k gs gt port flags)) ∧
  (∀ (k : Seq) (gd ga gb : GReg) (func : BitVec 11), NotSpeculative k (.seqPrep k gd ga gb func)) ∧
  (∀ (k : Seq) (gd ga gb : GReg) (func : BitVec 11), NotSpeculative k (.seqHop k gd ga gb func)) ∧
  (∀ (k : Seq) (gd ga gb : GReg) (func : BitVec 11), NotSpeculative k (.seqPwr k gd ga gb func)) ∧
  (∀ (k : Seq) (gd ga gb : GReg) (func : BitVec 11), NotSpeculative k (.seqCommit k gd ga gb func)) ∧
  (∀ (k : Seq) (gd ga gb : GReg) (func : BitVec 11), NotSpeculative k (.seqBeamsel k gd ga gb func)) ∧
  (∀ (k : Seq) (a : GReg) (s : State), s.alive = true → s.fresh.seqReady k.val = true → (s.seqOf k.val).opened = false →
    exec (.seqSquash k 0 a 0 0) s = .next (s.fresh.seqFault k.val 0x09))

/-- What four kinds of item set when they take effect: WOLA the window of its carrier (R88), CFR_CFG the crest-factor reduction of
its tile (R97), a transmit GAIN the digital gain of its paths (R89), and a MARKER passes on (R40). -/
def Obligations.AppliedParameters : Prop :=
  ∀ (x : QItem) (s t : State), appliedValues x s = some t → s.applyItem x = t

/-- A receive control item that is LATE at its stage is dropped and counted; the settings in effect stay (R51). -/
def Obligations.LateReceiveItems : Prop :=
  (∀ (t : Tile) (g : Tag) (b : Bytes), DroppedLate (.fltSwapRxfir t g b) .flt t.val (mkItem kFltSwap g (rowPay b 0 2 3 1))) ∧
  (∀ (t : Tile) (g : Tag) (b : Bytes), DroppedLate (.fltSwapRxiq t g b) .flt t.val (mkItem kFltSwap g (rowPay b 0 2 3 2))) ∧
  (∀ (t : Tile) (g : Tag) (b : Bytes), DroppedLate (.gainRx t g b) .flt t.val (mkItem kGain g (setPay b 18 1 0))) ∧
  (∀ (t : Tile) (g : Tag) (b : Bytes), DroppedLate (.dcFreeze t g b) .flt t.val (mkItem kDcFreeze g (setPay b 16 1 1))) ∧
  (∀ (t : Tile) (g : Tag) (b : Bytes), DroppedLate (.dcRelease t g b) .flt t.val (mkItem kDcFreeze g (setPay b 16 1 0))) ∧
  (∀ (t : Tile) (g : Tag) (b : Bytes), DroppedLate (.sicCtlOn t g b) .sic t.val (mkItem kSicCtl g (setPay b 16 2 0))) ∧
  (∀ (t : Tile) (g : Tag) (b : Bytes), DroppedLate (.sicCtlOff t g b) .sic t.val (mkItem kSicCtl g (setPay b 16 2 1))) ∧
  (∀ (t : Tile) (g : Tag) (b : Bytes), DroppedLate (.sicCtlSwap t g b) .sic t.val (mkItem kSicCtl g (setPay b 16 2 2))) ∧
  (∀ (t : Tile) (g : Tag) (b : Bytes), DroppedLate (.sicCtlSnap t g b) .sic t.val (mkItem kSicCtl g (setPay b 16 2 3))) ∧
  (∀ (t : Tile) (g : Tag) (b : Bytes), feRxOnly (setPay b 4 1 1) = true → DroppedLate (.feRxon t g b) .fe t.val (mkItem kFeCtl g (setPay b 4 1 1))) ∧
  (∀ (t : Tile) (g : Tag) (b : Bytes), feRxOnly (setPay b 5 1 1) = true → DroppedLate (.feRxoff t g b) .fe t.val (mkItem kFeCtl g (setPay b 5 1 1))) ∧
  (∀ (t : Tile) (g : Tag) (b : Bytes), feRxOnly (setPay b 10 1 1) = true → DroppedLate (.feRxcal t g b) .fe t.val (mkItem kFeCtl g (setPay b 10 1 1))) ∧
  (∀ (t : Tile) (g : Tag) (b : Bytes), pbit (setPay b 1 2 0) 0 = true → DroppedLate (.carrierOn t g b) .flt t.val (mkItem kCarrier g (rowPay b 1 2 3 0))) ∧
  (∀ (t : Tile) (g : Tag) (b : Bytes), pbit (setPay b 1 2 1) 0 = true → DroppedLate (.carrierOff t g b) .flt t.val (mkItem kCarrier g (rowPay b 1 2 3 1))) ∧
  (∀ (t : Tile) (g : Tag) (b : Bytes), pbit (setPay b 1 2 2) 0 = true → DroppedLate (.carrierRetune t g b) .flt t.val (mkItem kCarrier g (rowPay b 1 2 3 2)))

/-- Every occurrence of an event sets its pending bit and adds one to its counter, which holds at its maximum; one that comes while
a message is in flight adds one to the repeat count, which saturates at 255 (R24, R105, R516). -/
def Obligations.EventOccurrences : Prop :=
  ∀ (s : State) (e : Fin 128),
    let u := s.signal e.val
    u.evPend = s.evPend ||| (1#128 <<< e.val) ∧
    (u.reg (rEvCnt e.val)).toNat = min ((s.reg (rEvCnt e.val)).toNat + 1) 0xFFFFFFFF ∧
    ((s.evOf e.val).flight.isSome = true →
      (u.evOf e.val).rep.toNat = min ((s.evOf e.val).rep.toNat + 1) 255 ∧ (u.evOf e.val).flight = (s.evOf e.val).flight)
end

