-- ==== Sys2Proof/Laws/Table.lean ====
section
/-! SUPPORT. The laws of sparse tables: reading after writing, which hold of every table, and the canonical form that every
table operation keeps. -/

namespace Sys2Proof.Machine
open Sys2Proof

variable {α : Type} {d : Nat → α}

/-! ## Reading -/

@[simp] theorem tget_nil {k : Nat} : tget d [] k = d k := rfl

theorem tget_tdrop_self {k : Nat} {m : Table α} : tget d (tdrop (· = k) m) k = d k := by
  induction m with
  | nil => rfl
  | cons e m ih =>
    obtain ⟨j, v⟩ := e
    simp only [tdrop, List.filter_cons]
    split
    · rename_i h
      simp only [tget]
      rw [if_neg (by simpa using h)]
      exact ih
    · exact ih

/-- A key outside the dropped ones reads as it did. -/
theorem tget_tdrop {p : Nat → Bool} {j : Nat} {m : Table α} (hj : p j = false) : tget d (tdrop p m) j = tget d m j := by
  induction m with
  | nil => rfl
  | cons e m ih =>
    obtain ⟨i, v⟩ := e
    simp only [tdrop, List.filter_cons]
    split
    · simp only [tget]
      split
      · rfl
      · exact ih
    · rename_i h
      have hi : i ≠ j := by
        rintro rfl
        simp [hj] at h
      simp only [tget, hi, if_false]
      exact ih

theorem tget_tins_self {k : Nat} {v : α} {m : Table α} (h : ∀ e ∈ m, e.1 ≠ k) : tget d (tins k v m) k = v := by
  induction m with
  | nil => simp [tins, tget]
  | cons e m ih =>
    obtain ⟨j, w⟩ := e
    simp only [tins]
    split
    · simp [tget]
    · have hj : j ≠ k := h (j, w) (by simp)
      simp only [tget, hj, if_false]
      exact ih fun e he => h e (by simp [he])

theorem tget_tins_ne {j k : Nat} {v : α} {m : Table α} (hj : j ≠ k) : tget d (tins k v m) j = tget d m j := by
  induction m with
  | nil => simp [tins, tget, Ne.symm hj]
  | cons e m ih =>
    obtain ⟨i, w⟩ := e
    simp only [tins]
    split
    · simp [tget, Ne.symm hj]
    · simp only [tget, ih]

theorem ne_of_mem_tdrop {k : Nat} {m : Table α} : ∀ e ∈ tdrop (· = k) m, e.1 ≠ k := by
  intro e he
  simp only [tdrop, List.mem_filter] at he
  simpa using he.2

variable [DecidableEq α]

/-- The written key reads back. -/
@[simp] theorem tget_tput {k : Nat} {v : α} {m : Table α} : tget d (tput d k v m) k = v := by
  unfold tput
  split
  · rename_i h
    rw [tget_tdrop_self, h]
  · exact tget_tins_self ne_of_mem_tdrop

/-- Every other key reads as it did. -/
theorem tget_tput_ne {j k : Nat} {v : α} {m : Table α} (hj : j ≠ k) : tget d (tput d k v m) j = tget d m j := by
  have h : tget d (tdrop (· = k) m) j = tget d m j := tget_tdrop (by simpa using hj)
  unfold tput
  split
  · exact h
  · rw [tget_tins_ne hj, h]

omit [DecidableEq α] in
theorem tdrop_tins {k : Nat} {v : α} {m : Table α} : tdrop (· = k) (tins k v m) = tdrop (· = k) m := by
  induction m with
  | nil => simp [tins, tdrop]
  | cons e m ih =>
    obtain ⟨j, w⟩ := e
    simp only [tins]
    split
    · simp [tdrop]
    · simp only [tdrop, List.filter_cons] at ih ⊢
      rw [ih]

omit [DecidableEq α] in
theorem tdrop_tdrop {p : Nat → Bool} {m : Table α} : tdrop p (tdrop p m) = tdrop p m := by
  simp [tdrop]

/-- A second write of a key replaces the first. -/
@[simp] theorem tput_tput {k : Nat} {v w : α} {m : Table α} : tput d k w (tput d k v m) = tput d k w m := by
  have h : tdrop (· = k) (tput d k v m) = tdrop (· = k) m := by
    unfold tput
    split
    · exact tdrop_tdrop
    · rw [tdrop_tins, tdrop_tdrop]
  unfold tput at h ⊢
  rw [h]

/-! ## The canonical form -/

theorem tabove_mono {lo lo' : Nat} {m : Table α} (h : tabove d lo m = true) (hl : lo' ≤ lo) : tabove d lo' m = true := by
  cases m with
  | nil => rfl
  | cons e m =>
    obtain ⟨j, v⟩ := e
    simp only [tabove, Bool.and_eq_true, decide_eq_true_eq] at h ⊢
    exact ⟨⟨by omega, h.1.2⟩, h.2⟩

theorem tableWf_of_tabove {lo : Nat} {m : Table α} (h : tabove d lo m = true) : tableWf d m = true := by
  cases m with
  | nil => rfl
  | cons e m =>
    obtain ⟨j, v⟩ := e
    simp only [tabove, tableWf, Bool.and_eq_true, decide_eq_true_eq] at h ⊢
    exact ⟨h.1.2, h.2⟩

@[simp] theorem tableWf_nil : tableWf d [] = true := rfl

theorem tabove_tdrop {lo : Nat} {p : Nat → Bool} {m : Table α} (h : tabove d lo m = true) : tabove d lo (tdrop p m) = true := by
  induction m generalizing lo with
  | nil => rfl
  | cons e m ih =>
    obtain ⟨j, v⟩ := e
    simp only [tabove, Bool.and_eq_true, decide_eq_true_eq] at h
    simp only [tdrop, List.filter_cons]
    split
    · simp only [tabove, Bool.and_eq_true, decide_eq_true_eq]
      exact ⟨h.1, ih h.2⟩
    · exact tabove_mono (ih h.2) (by omega)

/-- Dropping keys keeps the canonical form. -/
theorem tableWf_tdrop {p : Nat → Bool} {m : Table α} (h : tableWf d m = true) : tableWf d (tdrop p m) = true := by
  cases m with
  | nil => rfl
  | cons e m =>
    obtain ⟨j, v⟩ := e
    simp only [tableWf, Bool.and_eq_true, decide_eq_true_eq] at h
    simp only [tdrop, List.filter_cons]
    split
    · simp only [tableWf, Bool.and_eq_true, decide_eq_true_eq]
      exact ⟨h.1, tabove_tdrop h.2⟩
    · exact tableWf_of_tabove (tabove_tdrop h.2)

theorem tabove_tins {lo k : Nat} {v : α} {m : Table α} (h : tabove d lo m = true) (hlo : lo < k) (hv : v ≠ d k)
    (hm : ∀ e ∈ m, e.1 ≠ k) : tabove d lo (tins k v m) = true := by
  induction m generalizing lo with
  | nil => simp [tins, tabove, hlo, hv]
  | cons e m ih =>
    obtain ⟨j, w⟩ := e
    have hj : j ≠ k := hm (j, w) (by simp)
    have h' := h
    simp only [tabove, Bool.and_eq_true, decide_eq_true_eq] at h
    simp only [tins]
    split
    · rename_i hk
      simp only [tabove, Bool.and_eq_true, decide_eq_true_eq]
      exact ⟨⟨hlo, hv⟩, ⟨hk, h.1.2⟩, h.2⟩
    · simp only [tabove, Bool.and_eq_true, decide_eq_true_eq]
      exact ⟨h.1, ih h.2 (by omega) fun e he => hm e (by simp [he])⟩

theorem tableWf_tins {k : Nat} {v : α} {m : Table α} (h : tableWf d m = true) (hv : v ≠ d k) (hm : ∀ e ∈ m, e.1 ≠ k) :
    tableWf d (tins k v m) = true := by
  cases m with
  | nil => simp [tins, tableWf, tabove, hv]
  | cons e m =>
    obtain ⟨j, w⟩ := e
    have hj : j ≠ k := hm (j, w) (by simp)
    simp only [tableWf, Bool.and_eq_true, decide_eq_true_eq] at h
    simp only [tins]
    split
    · rename_i hk
      simp only [tableWf, tabove, Bool.and_eq_true, decide_eq_true_eq]
      exact ⟨hv, ⟨hk, h.1⟩, h.2⟩
    · simp only [tableWf, Bool.and_eq_true, decide_eq_true_eq]
      exact ⟨h.1, tabove_tins h.2 (by omega) hv fun e he => hm e (by simp [he])⟩

/-- Writing a key keeps the canonical form. -/
theorem tableWf_tput {k : Nat} {v : α} {m : Table α} (h : tableWf d m = true) : tableWf d (tput d k v m) = true := by
  unfold tput
  split
  · exact tableWf_tdrop h
  · rename_i hv
    exact tableWf_tins (tableWf_tdrop h) hv ne_of_mem_tdrop

end Sys2Proof.Machine
end

