-- ==== Sys2Proof/Laws/Kept.lean ====
section
/-! SUPPORT. What every operation of the block keeps: the one form of memory, and the queue of waiting commands. Here the
predicate, its laws for record updates, choices, folds and pairs, and the operations that write memory themselves; the other
operations follow in the files beside it, one lemma for each. -/

namespace Sys2Proof.Machine
open Sys2Proof

/-- The queue is `q.1`, and memory is in its one form if `q.2` asks for it: with `true` both are kept, with `false` the
queue alone. -/
def Kept (q : List Instr × Bool) (s : State) : Prop := (q.2 = true → s.mem.wf = true) ∧ s.pending = q.1

/-- The outcome, if it is a next state, is kept. -/
def KeptOut (q : List Instr × Bool) (o : Host.Outcome State Fault Refusal) : Prop := ∀ t, o = .next t → Kept q t

variable {q : List Instr × Bool}

theorem kept_self {s : State} (h : Memory.wf s) : Kept (s.pending, true) s := ⟨fun _ => h, rfl⟩
theorem kept_queue (s : State) : Kept (s.pending, false) s := ⟨fun e => (by cases e), rfl⟩
theorem Kept.wf {s : State} {l : List Instr} (h : Kept (l, true) s) : Memory.wf s := h.1 rfl
theorem Kept.queue {s : State} (h : Kept q s) : s.pending = q.1 := h.2

theorem MemSt.wf_iff (m : MemSt) : m.wf = true ↔ tableWf (fun _ => (0 : Byte)) m.cells = true ∧
    tableWf (fun _ => false) m.valid = true ∧ tableWf (fun _ => MemErr.good) m.bad = true := by
  simp [MemSt.wf, and_assoc]

/-- An update of fields other than memory and the queue keeps. -/
theorem Kept.upd {s : State}
    {v0 : Nat} {v1 : Resp} {v2 : List Out} {v3 : BitVec 56} {v4 : BitVec 32} {v5 : Bool} {v6 : Bool} {v7 : Table
    (BitVec 32)} {v8 : Table EvRec} {v9 : BitVec 128} {v10 : List QItem} {v11 : List NetItem} {v12 : Table FnSt}
    {v13 : List PathStop} {v14 : List SquashRule} {v15 : BitVec 64} {v16 : BitVec 64} {v17 : Table SeqSt} {v18 :
    IssueSt} {v19 : IssueSt} {v20 : Table PortLink} {v21 : Table VcLink} {v22 : BitVec 32} {v23 : BitVec 64} {v24 :
    ModeSt} {v25 : PowerSt} {v26 : PcieSt} {v27 : Table FftSt} {v28 : Table CarSt} {v29 : Table CarSt} {v30 : Table
    WolaSt} {v31 : Table CfrSt} {v32 : Table (BitVec 16)} {v33 : Table Nat} {v34 : Table Nat} {v35 : List Decl} {v36
    : List Blanked} {v37 : List TdSpan} {v38 : BitVec 64} {v39 : BitVec 64} {v40 : List ListRef} {v41 : Nat} {v42 :
    LinSt} {v43 : Table SynSt} {v44 : Table (BitVec 128)} {v45 : Table LoSel} {v46 : FeSt} {v47 : BeamSt} {v48 :
    Nat} {v49 : RxSt} {v50 : TimeSt} {v51 : Table LaneSt} {v52 : BitVec 4} {v53 : Table Nat} {v54 : Table Nat} {v55
    : Table CapSt} {v56 : Table SlotSt} {v57 : BitVec 256} {v58 : Table DmaSt} {v59 : DmaArb} {v60 : Nat} {v61 :
    Option Nat} {v62 : Table VcSt} {v63 : SessSt} {v64 : Nat} {v65 : ChainSt}
    (h : Kept q s) : Kept q { s with
      free := v0, resp := v1, out := v2, now := v3, wrap := v4, powered := v5, inReset := v6, regs := v7, events
      := v8, evPend := v9, queue := v10, net := v11, fns := v12, pathStops := v13, squashes := v14, txOut := v15,
      rxOut := v16, seqs := v17, hiq := v18, miq := v19, ports := v20, vlinks := v21, fenced := v22, faultlog :=
      v23, mode := v24, power := v25, pcie := v26, ffts := v27, cars := v28, islCars := v29, wolas := v30, cfrs :=
      v31, gains := v32, charges := v33, srsCharges := v34, decls := v35, blanked := v36, tdSpans := v37, dacOff
      := v38, adcOff := v39, lists := v40, listPtr := v41, lin := v42, syns := v43, synCal := v44, loSel := v45,
      fe := v46, beam := v47, clock := v48, rx := v49, time := v50, lanes := v51, pllLock := v52, pllAt := v53,
      pllRate := v54, caps := v55, slots := v56, slotReady := v57, dma := v58, dmaArb := v59, wdogAt := v60,
      mgmtRestart := v61, vcs := v62, sess := v63, svc := v64, chain := v65 } := h

/-- So does an update that leaves memory's bytes, valid bits and errors. -/
theorem Kept.updMem {s : State} {c : Nat} {p l : Table Nat} {z : Bool} {w : Table Bool} {r : Table Byte}
    {v0 : Nat} {v1 : Resp} {v2 : List Out} {v3 : BitVec 56} {v4 : BitVec 32} {v5 : Bool} {v6 : Bool} {v7 : Table
    (BitVec 32)} {v8 : Table EvRec} {v9 : BitVec 128} {v10 : List QItem} {v11 : List NetItem} {v12 : Table FnSt}
    {v13 : List PathStop} {v14 : List SquashRule} {v15 : BitVec 64} {v16 : BitVec 64} {v17 : Table SeqSt} {v18 :
    IssueSt} {v19 : IssueSt} {v20 : Table PortLink} {v21 : Table VcLink} {v22 : BitVec 32} {v23 : BitVec 64} {v24 :
    ModeSt} {v25 : PowerSt} {v26 : PcieSt} {v27 : Table FftSt} {v28 : Table CarSt} {v29 : Table CarSt} {v30 : Table
    WolaSt} {v31 : Table CfrSt} {v32 : Table (BitVec 16)} {v33 : Table Nat} {v34 : Table Nat} {v35 : List Decl} {v36
    : List Blanked} {v37 : List TdSpan} {v38 : BitVec 64} {v39 : BitVec 64} {v40 : List ListRef} {v41 : Nat} {v42 :
    LinSt} {v43 : Table SynSt} {v44 : Table (BitVec 128)} {v45 : Table LoSel} {v46 : FeSt} {v47 : BeamSt} {v48 :
    Nat} {v49 : RxSt} {v50 : TimeSt} {v51 : Table LaneSt} {v52 : BitVec 4} {v53 : Table Nat} {v54 : Table Nat} {v55
    : Table CapSt} {v56 : Table SlotSt} {v57 : BitVec 256} {v58 : Table DmaSt} {v59 : DmaArb} {v60 : Nat} {v61 :
    Option Nat} {v62 : Table VcSt} {v63 : SessSt} {v64 : Nat} {v65 : ChainSt}
    (h : Kept q s) : Kept q { s with
      mem := { cells := s.mem.cells, valid := s.mem.valid, bad := s.mem.bad, corrections := c, scrubPos := p, lapStart := l,
               lapLate := z, wearTold := w, regStage := r }
      free := v0, resp := v1, out := v2, now := v3, wrap := v4, powered := v5, inReset := v6, regs := v7, events
      := v8, evPend := v9, queue := v10, net := v11, fns := v12, pathStops := v13, squashes := v14, txOut := v15,
      rxOut := v16, seqs := v17, hiq := v18, miq := v19, ports := v20, vlinks := v21, fenced := v22, faultlog :=
      v23, mode := v24, power := v25, pcie := v26, ffts := v27, cars := v28, islCars := v29, wolas := v30, cfrs :=
      v31, gains := v32, charges := v33, srsCharges := v34, decls := v35, blanked := v36, tdSpans := v37, dacOff
      := v38, adcOff := v39, lists := v40, listPtr := v41, lin := v42, syns := v43, synCal := v44, loSel := v45,
      fe := v46, beam := v47, clock := v48, rx := v49, time := v50, lanes := v51, pllLock := v52, pllAt := v53,
      pllRate := v54, caps := v55, slots := v56, slotReady := v57, dma := v58, dmaArb := v59, wdogAt := v60,
      mgmtRestart := v61, vcs := v62, sess := v63, svc := v64, chain := v65 } := h

/-- So does one that loses parts of memory. -/
theorem Kept.drop {s : State} {f g k : Nat → Bool} {c : Nat} {p l : Table Nat} {z : Bool} {w : Table Bool} {r : Table Byte}
    {v0 : Nat} {v1 : Resp} {v2 : List Out} {v3 : BitVec 56} {v4 : BitVec 32} {v5 : Bool} {v6 : Bool} {v7 : Table
    (BitVec 32)} {v8 : Table EvRec} {v9 : BitVec 128} {v10 : List QItem} {v11 : List NetItem} {v12 : Table FnSt}
    {v13 : List PathStop} {v14 : List SquashRule} {v15 : BitVec 64} {v16 : BitVec 64} {v17 : Table SeqSt} {v18 :
    IssueSt} {v19 : IssueSt} {v20 : Table PortLink} {v21 : Table VcLink} {v22 : BitVec 32} {v23 : BitVec 64} {v24 :
    ModeSt} {v25 : PowerSt} {v26 : PcieSt} {v27 : Table FftSt} {v28 : Table CarSt} {v29 : Table CarSt} {v30 : Table
    WolaSt} {v31 : Table CfrSt} {v32 : Table (BitVec 16)} {v33 : Table Nat} {v34 : Table Nat} {v35 : List Decl} {v36
    : List Blanked} {v37 : List TdSpan} {v38 : BitVec 64} {v39 : BitVec 64} {v40 : List ListRef} {v41 : Nat} {v42 :
    LinSt} {v43 : Table SynSt} {v44 : Table (BitVec 128)} {v45 : Table LoSel} {v46 : FeSt} {v47 : BeamSt} {v48 :
    Nat} {v49 : RxSt} {v50 : TimeSt} {v51 : Table LaneSt} {v52 : BitVec 4} {v53 : Table Nat} {v54 : Table Nat} {v55
    : Table CapSt} {v56 : Table SlotSt} {v57 : BitVec 256} {v58 : Table DmaSt} {v59 : DmaArb} {v60 : Nat} {v61 :
    Option Nat} {v62 : Table VcSt} {v63 : SessSt} {v64 : Nat} {v65 : ChainSt}
    (h : Kept q s) : Kept q { s with
      mem := { cells := tdrop f s.mem.cells, valid := tdrop g s.mem.valid, bad := tdrop k s.mem.bad, corrections := c,
               scrubPos := p, lapStart := l, lapLate := z, wearTold := w, regStage := r }
      free := v0, resp := v1, out := v2, now := v3, wrap := v4, powered := v5, inReset := v6, regs := v7, events
      := v8, evPend := v9, queue := v10, net := v11, fns := v12, pathStops := v13, squashes := v14, txOut := v15,
      rxOut := v16, seqs := v17, hiq := v18, miq := v19, ports := v20, vlinks := v21, fenced := v22, faultlog :=
      v23, mode := v24, power := v25, pcie := v26, ffts := v27, cars := v28, islCars := v29, wolas := v30, cfrs :=
      v31, gains := v32, charges := v33, srsCharges := v34, decls := v35, blanked := v36, tdSpans := v37, dacOff
      := v38, adcOff := v39, lists := v40, listPtr := v41, lin := v42, syns := v43, synCal := v44, loSel := v45,
      fe := v46, beam := v47, clock := v48, rx := v49, time := v50, lanes := v51, pllLock := v52, pllAt := v53,
      pllRate := v54, caps := v55, slots := v56, slotReady := v57, dma := v58, dmaArb := v59, wdogAt := v60,
      mgmtRestart := v61, vcs := v62, sess := v63, svc := v64, chain := v65 } := by
  refine ⟨fun e => ?_, h.2⟩
  have hw := (MemSt.wf_iff _).1 (h.1 e)
  exact (MemSt.wf_iff _).2 ⟨tableWf_tdrop hw.1, tableWf_tdrop hw.2.1, tableWf_tdrop hw.2.2⟩

theorem kept_ite {c : Prop} {_ : Decidable c} {a b : State} (ha : Kept q a) (hb : Kept q b) : Kept q (if c then a else b) := by
  split <;> assumption

theorem kept_ite_p1 {α : Type} {c : Prop} {_ : Decidable c} {a b : State × α} (ha : Kept q a.1) (hb : Kept q b.1) :
    Kept q (if c then a else b).1 := by
  split <;> assumption

theorem kept_ite_p2 {α : Type} {c : Prop} {_ : Decidable c} {a b : α × State} (ha : Kept q a.2) (hb : Kept q b.2) :
    Kept q (if c then a else b).2 := by
  split <;> assumption

theorem kept_ite_p22 {α β : Type} {c : Prop} {_ : Decidable c} {a b : α × β × State} (ha : Kept q a.2.2)
    (hb : Kept q b.2.2) : Kept q (if c then a else b).2.2 := by
  split <;> assumption

theorem foldl_keeps {β γ : Type} {P : β → Prop} {f : β → γ → β} {b : β} {l : List γ} (hb : P b)
    (hf : ∀ s x, P s → P (f s x)) : P (l.foldl f b) := by
  induction l generalizing b with
  | nil => exact hb
  | cons x l ih => exact ih (hf b x hb)

theorem kept_foldl {γ : Type} {f : State → γ → State} {s : State} {l : List γ} (hs : Kept q s)
    (hf : ∀ s x, Kept q s → Kept q (f s x)) : Kept q (l.foldl f s) := foldl_keeps hs hf

theorem kept_p2 {α : Type} {p : α × State} {a : α} {s : State} (e : p = (a, s)) (h : Kept q p.2) : Kept q s := by
  subst e; exact h
theorem kept_p1 {α : Type} {p : State × α} {a : α} {s : State} (e : p = (s, a)) (h : Kept q p.1) : Kept q s := by
  subst e; exact h
theorem kept_p22 {α β : Type} {p : α × β × State} {a : α} {b : β} {s : State} (e : p = (a, b, s)) (h : Kept q p.2.2) :
    Kept q s := by
  subst e; exact h
theorem kept_osome {o : Option State} {s : State} (e : o = some s) (h : ∀ t, o = some t → Kept q t) : Kept q s := h s e
theorem kept_op2 {α : Type} {o : Option (α × State)} {a : α} {s : State} (e : o = some (a, s))
    (h : ∀ t, o = some t → Kept q t.2) : Kept q s := h (a, s) e
theorem kept_getD {o : Option State} {s : State} (h : ∀ t, o = some t → Kept q t) (hs : Kept q s) : Kept q (o.getD s) := by
  cases o with
  | none => exact hs
  | some t => exact h t rfl
theorem kept_bind {o : Option State} {f : State → Option State} (h : ∀ t, o = some t → Kept q t)
    (hf : ∀ s, Kept q s → ∀ t, f s = some t → Kept q t) : ∀ t, (o >>= f) = some t → Kept q t := by
  intro t e
  cases o with
  | none => simp at e
  | some s => exact hf s (h s rfl) t (by simpa using e)

/-- A command's meaning keeps when what it does in the running block keeps. -/
theorem kept_act {f : State → State} (hf : ∀ s, Kept q s → Kept q (f s)) {s : State} (h : Kept q s) : KeptOut q (act f s) := by
  have h' : Kept q { s with resp := .none, out := [] } := h
  intro t e
  unfold act at e
  dsimp only at e
  split at e
  · cases e; exact hf _ h'
  · cases e; exact h'

theorem kept_actAlways {f : State → State} (hf : ∀ s, Kept q s → Kept q (f s)) {s : State} (h : Kept q s) :
    KeptOut q (actAlways f s) := by
  have h' : Kept q { s with resp := .none, out := [] } := h
  intro t e
  cases e
  exact hf _ h'

/-! ## The operations that write memory -/

theorem kept_setByte {s : State} {a : Nat} {v : Byte} (h : Kept q s) : Kept q (s.setByte a v) := by
  refine ⟨fun e => ?_, h.2⟩
  have hw := (MemSt.wf_iff _).1 (h.1 e)
  rw [MemSt.wf_iff]
  dsimp only [State.setByte]
  exact ⟨tableWf_tput hw.1, hw.2⟩

theorem kept_setBytes {s : State} {a : Nat} {b : Bytes} (h : Kept q s) : Kept q (s.setBytes a b) := by
  induction b generalizing s a with
  | nil => exact h
  | cons v b ih => exact ih (kept_setByte h)

theorem kept_markValid {s : State} {a : Nat} (h : Kept q s) : Kept q (s.markValid a) := by
  refine ⟨fun e => ?_, h.2⟩
  have hw := (MemSt.wf_iff _).1 (h.1 e)
  rw [MemSt.wf_iff]
  dsimp only [State.markValid]
  exact ⟨hw.1, tableWf_tput hw.2.1, hw.2.2⟩

theorem kept_setErr {s : State} {a : Nat} {e : MemErr} (h : Kept q s) : Kept q (s.setErr a e) := by
  refine ⟨fun e => ?_, h.2⟩
  have hw := (MemSt.wf_iff _).1 (h.1 e)
  rw [MemSt.wf_iff]
  dsimp only [State.setErr]
  exact ⟨hw.1, hw.2.1, tableWf_tput hw.2.2⟩

end Sys2Proof.Machine
end

