-- ==== Sys2Proof/Laws/KeptOps.lean ====
section
/-! SUPPORT. The operations of Machine/Ops.lean keep the form of memory and the queue. -/

namespace Sys2Proof.Machine
open Sys2Proof

variable {q : List Instr × Bool}

theorem kept_error {a0 : State} (h1 : Kept q a0) : Kept q (State.error a0) := by
  unfold State.error
  exact Kept.upd h1

theorem kept_setReg {a0 : State} {a1 : ℕ} {a2 : BitVec 32} (h1 : Kept q a0) : Kept q (State.setReg a0 a1 a2) := by
  unfold State.setReg
  exact Kept.upd h1

theorem kept_done {a0 : State} (h1 : Kept q a0) : Kept q (State.done a0) := by
  unfold State.done
  exact Kept.upd h1

theorem kept_bumpBy {a0 : State} {a1 : ℕ} {a2 : ℕ} (h1 : Kept q a0) : Kept q (State.bumpBy a0 a1 a2) := by
  unfold State.bumpBy
  exact kept_setReg h1

theorem kept_bump {a0 : State} {a1 : ℕ} (h1 : Kept q a0) : Kept q (State.bump a0 a1) := by
  unfold State.bump
  exact kept_bumpBy h1

theorem kept_setEv {a0 : State} {a1 : ℕ} {a2 : EvRec} (h1 : Kept q a0) : Kept q (State.setEv a0 a1 a2) := by
  unfold State.setEv
  exact Kept.upd h1

theorem kept_emitOut {a0 : State} {a1 : Out} (h1 : Kept q a0) : Kept q (State.emitOut a0 a1) := by
  unfold State.emitOut
  exact Kept.upd h1

theorem kept_msix {a0 : State} {a1 : ℕ} (h1 : Kept q a0) : Kept q (State.msix a0 a1) := by
  unfold State.msix
  exact kept_ite (kept_emitOut h1) (Kept.upd h1)

theorem kept_setVl {a0 : State} {a1 : ℕ} {a2 : ℕ} {a3 : VcLink} (h1 : Kept q a0) : Kept q (State.setVl a0 a1 a2 a3) := by
  unfold State.setVl
  exact Kept.upd h1

theorem kept_egress {a0 : State} {a1 : ℕ} {a2 : BitVec 64} {a3 : Bytes} (h1 : Kept q a0) : Kept q (State.egress a0 a1 a2 a3) := by
  unfold State.egress
  extract_lets -lift -underBinder -merge -useContext +onlyGivenNames s1
  try clear_value s1
  extract_lets -lift -underBinder -merge -useContext +onlyGivenNames s2
  try clear_value s2
  exact kept_setVl h1

theorem kept_sendUp {a0 : State} {a1 : Option ℕ} {a2 : BitVec 64} {a3 : Bytes} (h1 : Kept q a0) : Kept q (State.sendUp a0 a1 a2 a3) := by
  unfold State.sendUp
  extract_lets -lift -underBinder -merge -useContext +onlyGivenNames s1
  try clear_value s1
  exact kept_ite (kept_egress h1) (kept_bump h1)

theorem kept_sendOwn {a0 : State} {a1 : Option ℕ} {a2 : ℕ} {a3 : ℕ} {a4 : Bytes} (h1 : Kept q a0) : Kept q (State.sendOwn a0 a1 a2 a3 a4) := by
  unfold State.sendOwn
  exact kept_sendUp h1

theorem kept_setSeq {a0 : State} {a1 : ℕ} {a2 : SeqSt} (h1 : Kept q a0) : Kept q (State.setSeq a0 a1 a2) := by
  unfold State.setSeq
  exact Kept.upd h1

theorem kept_wakeSeq {a0 : State} {a1 : ℕ} {a2 : ℕ} (h1 : Kept q a0) : Kept q (State.wakeSeq a0 a1 a2) := by
  unfold State.wakeSeq
  extract_lets -lift -underBinder -merge -useContext +onlyGivenNames s1
  try clear_value s1
  split
  · exact kept_ite h1 (kept_setSeq h1)
  · exact h1

theorem kept_deliver {a0 : State} {a1 : ℕ} {a2 : BitVec 32} {a3 : ℕ} (h1 : Kept q a0) : Kept q (State.deliver a0 a1 a2 a3) := by
  unfold State.deliver
  extract_lets -lift -underBinder -merge -useContext +onlyGivenNames s1
  have k2 : Kept q s1 := by unfold s1; exact kept_ite (kept_msix h1) h1
  clear_value s1
  extract_lets -lift -underBinder -merge -useContext +onlyGivenNames s3
  have k4 : Kept q s3 := by unfold s3; exact kept_ite (kept_sendOwn k2) k2
  clear_value s3
  refine kept_foldl ?_ ?_
  · exact k4
  · intro s5 x7 k6
    exact kept_wakeSeq k6

theorem kept_signal {a0 : State} {a1 : ℕ} (h1 : Kept q a0) : Kept q (State.signal a0 a1) := by
  unfold State.signal
  extract_lets -lift -underBinder -merge -useContext +onlyGivenNames s1
  have k2 : Kept q s1 := by unfold s1; exact Kept.upd h1
  clear_value s1
  extract_lets -lift -underBinder -merge -useContext +onlyGivenNames s3
  have k4 : Kept q s3 := by unfold s3; exact kept_bump k2
  clear_value s3
  extract_lets -lift -underBinder -merge -useContext +onlyGivenNames s5
  try clear_value s5
  split
  · exact kept_setEv k4
  · extract_lets -lift -underBinder -merge -useContext +onlyGivenNames s8
    try clear_value s8
    exact kept_deliver (kept_setEv k4)

theorem kept_setSyn {a0 : State} {a1 : ℕ} {a2 : SynSt} (h1 : Kept q a0) : Kept q (State.setSyn a0 a1 a2) := by
  unfold State.setSyn
  exact Kept.upd h1

theorem kept_setReg64 {a0 : State} {a1 : ℕ} {a2 : BitVec 64} (h1 : Kept q a0) : Kept q (State.setReg64 a0 a1 a2) := by
  unfold State.setReg64
  exact kept_setReg (kept_setReg h1)

theorem kept_latchAddr {a0 : State} {a1 : ℕ} {a2 : ℕ} (h1 : Kept q a0) : Kept q (State.latchAddr a0 a1 a2) := by
  unfold State.latchAddr
  exact kept_setReg64 h1

theorem kept_corrected {a0 : State} {a1 : ℕ} (h1 : Kept q a0) : Kept q (State.corrected a0 a1) := by
  unfold State.corrected
  extract_lets -lift -underBinder -merge -useContext +onlyGivenNames s1
  have k2 : Kept q s1 := by unfold s1; exact kept_latchAddr (kept_bump h1)
  clear_value s1
  extract_lets -lift -underBinder -merge -useContext +onlyGivenNames s3
  try clear_value s3
  exact kept_ite k2 (kept_ite (kept_signal (Kept.updMem k2)) (Kept.updMem k2))

theorem kept_checkUnit {a0 : MRegion} {a1 : State × Bool} {a2 : ℕ} (h2 : Kept q a1.1) : Kept q (State.checkUnit a0 a1 a2).1 := by
  unfold State.checkUnit
  split
  · rename_i y1 y3
    have k2 : Kept q y1 := h2
    split
    · exact k2
    · exact kept_ite_p1 (kept_corrected k2) k2
    · refine kept_ite_p1 ?_ ?_
      · extract_lets -lift -underBinder -merge -useContext +onlyGivenNames s8
        have k9 : Kept q s8 := by unfold s8; exact kept_setErr k2
        clear_value s8
        extract_lets -lift -underBinder -merge -useContext +onlyGivenNames s10
        have k11 : Kept q s10 := by unfold s10; exact kept_setBytes k9
        clear_value s10
        exact kept_signal (kept_bump k11)
      · exact k2

theorem kept_poisonRead {a0 : State} {a1 : ℕ} (h1 : Kept q a0) : Kept q (State.poisonRead a0 a1) := by
  unfold State.poisonRead
  exact kept_signal (kept_latchAddr (kept_bump h1))

theorem kept_memRead {a0 : State} {a1 : ℕ} {a2 : ℕ} (h1 : Kept q a0) : Kept q (State.memRead a0 a1 a2).2 := by
  unfold State.memRead
  split
  · exact h1
  · refine kept_ite_p2 ?_ ?_
    · exact h1
    · refine kept_ite_p2 ?_ ?_
      · exact h1
      · extract_lets -lift -underBinder -merge -useContext +onlyGivenNames s3
        have k4 : Kept q s3 := by unfold s3; exact kept_ite (kept_signal (kept_latchAddr h1)) h1
        clear_value s3
        split
        · rename_i y5 y7 e8
          have k6 : Kept q y5 := kept_p1 e8 (by
              refine foldl_keeps (P := fun (p : State × _) => Kept q p.1) ?_ ?_
              · exact k4
              · intro s9 x11 k10
                beta_reduce
                exact kept_checkUnit k10
              )
          exact kept_ite_p2 (kept_poisonRead k6) k6

theorem kept_setCal {a0 : State} {a1 : ℕ} {a2 : ℕ} {a3 : BitVec 128} (h1 : Kept q a0) : Kept q (State.setCal a0 a1 a2 a3) := by
  unfold State.setCal
  exact Kept.upd h1

theorem kept_checkCopy {a0 : State × Bool} {a1 : ℕ} (h1 : Kept q a0.1) : Kept q (State.checkCopy a0 a1).1 := by
  unfold State.checkCopy
  split
  · exact h1
  · exact kept_corrected h1
  · exact h1

theorem kept_setPort {a0 : State} {a1 : ℕ} {a2 : PortLink} (h1 : Kept q a0) : Kept q (State.setPort a0 a1 a2) := by
  unfold State.setPort
  exact Kept.upd h1

theorem kept_mendByte {a0 : State} {a1 : MRegion} {a2 : ℕ} (h1 : Kept q a0) : Kept q (State.mendByte a0 a1 a2) := by
  unfold State.mendByte
  exact kept_setErr (kept_ite (kept_setErr h1) h1)

theorem kept_memWrite {s : State} {a : Nat} {b : Bytes} (h : Kept q s) : ∀ t, s.memWrite a b = some t → Kept q t := by
  intro t e
  unfold State.memWrite at e
  split at e
  · cases e
  · split at e
    · cases e
    · dsimp only at e
      split at e
      · cases e
      · cases e
        refine kept_setBytes (kept_foldl (kept_foldl h ?_) fun s i k => kept_markValid k)
        intro s u k
        exact kept_ite (kept_mendByte k) (kept_ite (kept_checkUnit (kept_ite (kept_setErr k) k)) k)

theorem kept_putBytes {a0 : State} {a1 : ℕ} {a2 : Bytes} (h1 : Kept q a0) : Kept q (State.putBytes a0 a1 a2) := by
  unfold State.putBytes
  exact kept_getD (kept_memWrite h1) h1

theorem kept_signalAll {a0 : State} {a1 : List ℕ} (h1 : Kept q a0) : Kept q (State.signalAll a0 a1) := by
  unfold State.signalAll
  refine kept_foldl ?_ ?_
  · exact h1
  · intro s1 x3 k2
    exact kept_signal k2

theorem kept_setLo {a0 : State} {a1 : ℕ} {a2 : LoSel} (h1 : Kept q a0) : Kept q (State.setLo a0 a1 a2) := by
  unfold State.setLo
  exact Kept.upd h1

theorem kept_startPll {a0 : State} {a1 : ℕ} (h1 : Kept q a0) : Kept q (State.startPll a0 a1) := by
  unfold State.startPll
  extract_lets -lift -underBinder -merge -useContext +onlyGivenNames s1
  try clear_value s1
  extract_lets -lift -underBinder -merge -useContext +onlyGivenNames s2
  extract_lets -lift -underBinder -merge -useContext +onlyGivenNames s3
  have k4 : ∀ a0 a1, Kept q a0 → Kept q (s3 a0 a1) := by
    unfold s3
    intro s5 s7 k6
    exact Kept.upd k6
  clear_value s3
  extract_lets -lift -underBinder -merge -useContext +onlyGivenNames s8
  have k9 : Kept q s8 := by
    unfold s8
    refine kept_ite ?_ ?_
    · refine kept_foldl ?_ ?_
      · exact h1
      · intro s10 x12 k11
        exact k4 _ _ k11
    · exact h1
  clear_value s8
  exact Kept.upd k9

theorem kept_setVc {a0 : State} {a1 : ℕ} {a2 : VcSt} (h1 : Kept q a0) : Kept q (State.setVc a0 a1 a2) := by
  unfold State.setVc
  exact Kept.upd h1

theorem kept_vcCause {a0 : State} {a1 : ℕ} {a2 : ℕ} (h1 : Kept q a0) : Kept q (State.vcCause a0 a1 a2) := by
  unfold State.vcCause
  extract_lets -lift -underBinder -merge -useContext +onlyGivenNames s1
  try clear_value s1
  exact kept_signal (kept_setVc h1)

theorem kept_draw {a0 : State} (h1 : Kept q a0) : Kept q (State.draw a0).2 := by
  unfold State.draw
  exact Kept.upd h1

theorem kept_setTilePower {a0 : State} {a1 : ℕ} {a2 : PMachine} (h1 : Kept q a0) : Kept q (State.setTilePower a0 a1 a2) := by
  unfold State.setTilePower
  exact Kept.upd h1

theorem kept_setFn {a0 : State} {a1 : ℕ} {a2 : ℕ} {a3 : FnSt} (h1 : Kept q a0) : Kept q (State.setFn a0 a1 a2 a3) := by
  unfold State.setFn
  exact Kept.upd h1

theorem kept_drawn {a0 : State} (h1 : Kept q a0) : Kept q (State.drawn a0) := by
  unfold State.drawn
  exact Kept.upd h1

end Sys2Proof.Machine
end

