-- ==== Sys2Proof/Laws/KeptGrid.lean ====
section
/-! SUPPORT. The operations of Machine/Grid.lean keep the form of memory and the queue. -/

namespace Sys2Proof.Machine
open Sys2Proof

variable {q : List Instr × Bool}

theorem kept_setGain {a0 : State} {a1 : Dir} {a2 : ℕ} {a3 : ℕ} {a4 : BitVec 16} (h1 : Kept q a0) : Kept q (State.setGain a0 a1 a2 a3 a4) := by
  unfold State.setGain
  exact Kept.upd h1

theorem kept_setFft {a0 : State} {a1 : Dir} {a2 : ℕ} {a3 : FftSt} (h1 : Kept q a0) : Kept q (State.setFft a0 a1 a2 a3) := by
  unfold State.setFft
  exact Kept.upd h1

theorem kept_setIslCar {a0 : State} {a1 : Dir} {a2 : ℕ} {a3 : CarSt} (h1 : Kept q a0) : Kept q (State.setIslCar a0 a1 a2 a3) := by
  unfold State.setIslCar
  exact Kept.upd h1

theorem kept_setCar {a0 : State} {a1 : ℕ} {a2 : Dir} {a3 : ℕ} {a4 : CarSt} (h1 : Kept q a0) : Kept q (State.setCar a0 a1 a2 a3 a4) := by
  unfold State.setCar
  exact Kept.upd h1

end Sys2Proof.Machine
end

