-- ==== Sys2Proof/Laws/KeptItems.lean ====
section
/-! SUPPORT. The operations of Machine/Items.lean keep the form of memory and the queue. -/

namespace Sys2Proof.Machine
open Sys2Proof

variable {q : List Instr × Bool}

theorem kept_blankTo {a0 : BitVec 16} {a1 : ℤ} {a2 : ℤ} {a3 : State} {a4 : List ℕ} {a5 : ℕ} {a6 : Air} (h4 : Kept q a3) : Kept q (State.blankTo a0 a1 a2 a3 a4 a5 a6) := by
  unfold State.blankTo
  refine kept_foldl ?_ ?_
  · exact h4
  · intro s1 x3 k2
    extract_lets -lift -underBinder -merge -useContext +onlyGivenNames s4
    try clear_value s4
    refine kept_ite ?_ ?_
    · exact kept_ite k2 (Kept.upd k2)
    · extract_lets -lift -underBinder -merge -useContext +onlyGivenNames s5
      try clear_value s5
      exact kept_signal (kept_bump (Kept.upd k2))

theorem kept_blankSpan {a0 : State} {a1 : BitVec 16} {a2 : List ℕ} {a3 : ℕ} {a4 : ℤ} {a5 : ℤ} (h1 : Kept q a0) : Kept q (State.blankSpan a0 a1 a2 a3 a4 a5) := by
  unfold State.blankSpan
  refine kept_foldl ?_ ?_
  · exact h1
  · intro s1 x3 k2
    exact kept_blankTo k2

theorem kept_enqueue {a0 : State} {a1 : QItem} (h1 : Kept q a0) : Kept q (State.enqueue a0 a1) := by
  unfold State.enqueue
  exact Kept.upd h1

theorem kept_blankFrom {a0 : BitVec 16} {a1 : ℤ} {a2 : State} {a3 : List ℕ} {a4 : ℕ} {a5 : Air} (h3 : Kept q a2) : Kept q (State.blankFrom a0 a1 a2 a3 a4 a5) := by
  unfold State.blankFrom
  exact kept_blankTo h3

theorem kept_repeatOnly {a0 : State} {a1 : ℕ} (h1 : Kept q a0) : Kept q (State.repeatOnly a0 a1) := by
  unfold State.repeatOnly
  extract_lets -lift -underBinder -merge -useContext +onlyGivenNames s1
  try clear_value s1
  split
  · exact kept_setEv h1
  · exact h1

theorem kept_refuseSeq {a0 : State} {a1 : BitVec 4} {a2 : BitVec 19} (h1 : Kept q a0) : Kept q (State.refuseSeq a0 a1 a2) := by
  unfold State.refuseSeq
  refine kept_ite ?_ ?_
  · extract_lets -lift -underBinder -merge -useContext +onlyGivenNames s1
    try clear_value s1
    exact kept_ite (kept_repeatOnly h1) (kept_setSeq h1)
  · exact h1

theorem kept_refuse {a0 : State} {a1 : Port} {a2 : ℕ} {a3 : Item} {a4 : BitVec 19} (h1 : Kept q a0) : Kept q (State.refuse a0 a1 a2 a3 a4) := by
  unfold State.refuse
  exact kept_refuseSeq (kept_bump h1)

theorem kept_arrive {a0 : State} {a1 : Port} {a2 : ℕ} {a3 : Item} {a4 : BitVec 19 → State → State} (h1 : Kept q a0) (h5 : ∀ x0 x1, Kept q x1 → Kept q (a4 x0 x1)) : Kept q (State.arrive a0 a1 a2 a3 a4) := by
  unfold State.arrive
  split
  · split
    · exact h1
    · exact h5 _ _ (Kept.upd h1)
    · exact kept_signalAll (kept_bump (Kept.upd h1))
    · exact kept_signalAll (kept_bump (Kept.upd h1))
    · exact kept_ite (Kept.upd h1) (kept_bump (Kept.upd h1))
    · exact kept_refuse (Kept.upd h1)

theorem kept_blankLate {a0 : State} {a1 : Port} {a2 : ℕ} {a3 : Item} {a4 : ℕ} {a5 : ℤ} (h1 : Kept q a0) : Kept q (State.blankLate a0 a1 a2 a3 a4 a5) := by
  unfold State.blankLate
  split
  · extract_lets -lift -underBinder -merge -useContext +onlyGivenNames s3
    try clear_value s3
    refine kept_foldl ?_ ?_
    · exact h1
    · intro s4 x6 k5
      exact kept_blankSpan k5

theorem kept_lateTx {a0 : State} {a1 : Port} {a2 : ℕ} {a3 : ℕ} {a4 : Item} {a5 : BitVec 19} (h1 : Kept q a0) : Kept q (State.lateTx a0 a1 a2 a3 a4 a5).1 := by
  unfold State.lateTx
  extract_lets -lift -underBinder -merge -useContext +onlyGivenNames s1
  try clear_value s1
  extract_lets -lift -underBinder -merge -useContext +onlyGivenNames s2
  try clear_value s2
  extract_lets -lift -underBinder -merge -useContext +onlyGivenNames s3
  try clear_value s3
  split
  · refine kept_ite_p1 ?_ ?_
    · extract_lets -lift -underBinder -merge -useContext +onlyGivenNames s5
      try clear_value s5
      exact kept_blankLate h1
    · exact h1
  · exact h1

theorem kept_placeCtl {a0 : State} {a1 : Port} {a2 : ℕ} {a3 : Item} {a4 : BitVec 19} (h1 : Kept q a0) : Kept q (State.placeCtl a0 a1 a2 a3 a4).1 := by
  unfold State.placeCtl
  split
  · exact h1
  · extract_lets -lift -underBinder -merge -useContext +onlyGivenNames s3
    have k4 : Kept q s3 := by unfold s3; exact kept_bump h1
    clear_value s3
    refine kept_ite_p1 ?_ ?_
    · exact k4
    · refine kept_ite_p1 ?_ ?_
      · exact k4
      · refine kept_ite_p1 ?_ ?_
        · split
          · rename_i y5 y7 e8
            have k6 : Kept q y5 := kept_p1 e8 (kept_lateTx k4)
            exact k6
        · exact k4

theorem kept_queueCtl {a0 : State} {a1 : Port} {a2 : ℕ} {a3 : Item} {a4 : BitVec 19} (h1 : Kept q a0) : Kept q (State.queueCtl a0 a1 a2 a3 a4) := by
  unfold State.queueCtl
  split
  · rename_i y1 y3 e4
    have k2 : Kept q y1 := kept_p1 e4 (kept_placeCtl h1)
    exact kept_enqueue k2
  · rename_i y5 e7
    have k6 : Kept q y5 := kept_p1 e7 (kept_placeCtl h1)
    exact k6

theorem kept_arriveCtl {a0 : State} {a1 : Port} {a2 : ℕ} {a3 : Item} (h1 : Kept q a0) : Kept q (State.arriveCtl a0 a1 a2 a3) := by
  unfold State.arriveCtl
  exact kept_arrive h1 (fun _  _ k3 => kept_queueCtl k3)

theorem kept_arriveIf {a0 : State} {a1 : Port} {a2 : ℕ} {a3 : Item} {a4 : State → Bool} (h1 : Kept q a0) : Kept q (State.arriveIf a0 a1 a2 a3 a4) := by
  unfold State.arriveIf
  exact kept_arrive h1 (fun _  _ k3 => kept_ite (kept_queueCtl k3) (kept_refuse k3))

theorem kept_blankBy {a0 : BitVec 16} {a1 : State} {a2 : List ℕ} {a3 : ℕ} {a4 : Air} (h2 : Kept q a1) : Kept q (State.blankBy a0 a1 a2 a3 a4) := by
  unfold State.blankBy
  exact kept_blankFrom h2

theorem kept_blankSym {a0 : State} {a1 : List ℕ} {a2 : ℕ} {a3 : Air} (h1 : Kept q a0) : Kept q (State.blankSym a0 a1 a2 a3) := by
  unfold State.blankSym
  exact kept_blankBy h1

theorem kept_refuseAs {a0 : State} {a1 : ℕ} {a2 : Port} {a3 : ℕ} {a4 : BitVec 4} {a5 : BitVec 19} (h1 : Kept q a0) : Kept q (State.refuseAs a0 a1 a2 a3 a4 a5) := by
  unfold State.refuseAs
  extract_lets -lift -underBinder -merge -useContext +onlyGivenNames s1
  have k2 : Kept q s1 := by unfold s1; exact kept_bump h1
  clear_value s1
  exact kept_ite (kept_refuseSeq k2) (kept_signalAll k2)

theorem kept_sendTagged {a0 : State} {a1 : Option ℕ} {a2 : ℕ} {a3 : Tag} {a4 : Bytes} (h1 : Kept q a0) : Kept q (State.sendTagged a0 a1 a2 a3 a4) := by
  unfold State.sendTagged
  exact kept_ite (kept_bump h1) (kept_sendOwn h1)

end Sys2Proof.Machine
end

