-- ==== Sys2Proof/Laws/KeptTx.lean ====
section
/-! SUPPORT. The operations of Machine/Tx.lean keep the form of memory and the queue. -/

namespace Sys2Proof.Machine
open Sys2Proof

variable {q : List Instr × Bool}

theorem kept_cutQuads {a0 : State} {a1 : Bool} {a2 : List ℕ} (h1 : Kept q a0) : Kept q (State.cutQuads a0 a1 a2) := by
  unfold State.cutQuads
  extract_lets -lift -underBinder -merge -useContext +onlyGivenNames s1
  try clear_value s1
  extract_lets -lift -underBinder -merge -useContext +onlyGivenNames s2
  try clear_value s2
  extract_lets -lift -underBinder -merge -useContext +onlyGivenNames s3
  try clear_value s3
  extract_lets -lift -underBinder -merge -useContext +onlyGivenNames s4
  try clear_value s4
  exact Kept.upd h1

theorem kept_blankTd {a0 : State} {a1 : ℕ} (h1 : Kept q a0) : Kept q (State.blankTd a0 a1) := by
  unfold State.blankTd
  exact kept_signal (kept_bump h1)

theorem kept_countFlight {a0 : State} {a1 : ℕ} (h1 : Kept q a0) : Kept q (State.countFlight a0 a1) := by
  unfold State.countFlight
  extract_lets -lift -underBinder -merge -useContext +onlyGivenNames s1
  have k2 : Kept q s1 := by
    unfold s1
    refine kept_foldl ?_ ?_
    · exact h1
    · intro s6 x8 k7
      exact kept_blankFrom k7
  clear_value s1
  refine kept_foldl ?_ ?_
  · exact k2
  · intro s3 x5 k4
    exact kept_blankTd k4

theorem kept_arriveCarrier {a0 : State} {a1 : Tile} {a2 : Tag} {a3 : Bytes} {a4 : ℕ} (h1 : Kept q a0) : Kept q (State.arriveCarrier a0 a1 a2 a3 a4) := by
  unfold State.arriveCarrier
  exact kept_arriveCtl h1

theorem kept_execCarrierRetune {a0 : Tile} {a1 : Tag} {a2 : Bytes} {s : State} (h : Kept q s) : KeptOut q (execCarrierRetune a0 a1 a2 s) := by
  unfold execCarrierRetune
  exact kept_act (fun _ k2 => kept_arriveCarrier k2) h

theorem kept_declMissing {a0 : State} {a1 : Dir} {a2 : Item} (h1 : Kept q a0) : Kept q (State.declMissing a0 a1 a2) := by
  unfold State.declMissing
  split
  · exact kept_bump h1
  · refine kept_ite ?_ ?_
    · split
      · exact kept_blankSym h1
      · exact h1
    · exact h1

theorem kept_admitDecl {a0 : State} {a1 : Item} (h1 : Kept q a0) : Kept q (State.admitDecl a0 a1) := by
  unfold State.admitDecl
  extract_lets -lift -underBinder -merge -useContext +onlyGivenNames s1
  try clear_value s1
  extract_lets -lift -underBinder -merge -useContext +onlyGivenNames s2
  try clear_value s2
  refine kept_ite ?_ ?_
  · exact kept_declMissing (kept_bump h1)
  · extract_lets -lift -underBinder -merge -useContext +onlyGivenNames s3
    try clear_value s3
    exact kept_ite (kept_declMissing (kept_bump h1)) (Kept.upd h1)

theorem kept_takeDecl {a0 : State} {a1 : Item} (h1 : Kept q a0) : Kept q (State.takeDecl a0 a1) := by
  unfold State.takeDecl
  extract_lets -lift -underBinder -merge -useContext +onlyGivenNames s1
  try clear_value s1
  split
  · exact kept_admitDecl h1
  · extract_lets -lift -underBinder -merge -useContext +onlyGivenNames s4
    have k5 : Kept q s4 := by unfold s4; exact kept_bump h1
    clear_value s4
    split
    · exact kept_declMissing k5
    · extract_lets -lift -underBinder -merge -useContext +onlyGivenNames s8
      try clear_value s8
      exact kept_admitDecl (kept_blankLate k5)

theorem kept_queueSection {a0 : State} {a1 : Item} {a2 : ℕ} (h1 : Kept q a0) : Kept q (State.queueSection a0 a1 a2) := by
  unfold State.queueSection
  extract_lets -lift -underBinder -merge -useContext +onlyGivenNames s1
  try clear_value s1
  extract_lets -lift -underBinder -merge -useContext +onlyGivenNames s2
  try clear_value s2
  extract_lets -lift -underBinder -merge -useContext +onlyGivenNames s3
  try clear_value s3
  refine kept_ite ?_ ?_
  · exact kept_signal (kept_bump h1)
  · extract_lets -lift -underBinder -merge -useContext +onlyGivenNames s4
    try clear_value s4
    extract_lets -lift -underBinder -merge -useContext +onlyGivenNames s5
    try clear_value s5
    extract_lets -lift -underBinder -merge -useContext +onlyGivenNames s6
    have k7 : Kept q s6 := by unfold s6; exact kept_putBytes h1
    clear_value s6
    extract_lets -lift -underBinder -merge -useContext +onlyGivenNames s8
    have k9 : Kept q s8 := by unfold s8; exact kept_ite h1 (Kept.upd k7)
    clear_value s8
    exact kept_setSeq k9

theorem kept_applyFftCfg {a0 : State} {a1 : QItem} (h1 : Kept q a0) : Kept q (State.applyFftCfg a0 a1) := by
  unfold State.applyFftCfg
  extract_lets -lift -underBinder -merge -useContext +onlyGivenNames s1
  try clear_value s1
  extract_lets -lift -underBinder -merge -useContext +onlyGivenNames s2
  try clear_value s2
  extract_lets -lift -underBinder -merge -useContext +onlyGivenNames s3
  try clear_value s3
  extract_lets -lift -underBinder -merge -useContext +onlyGivenNames s4
  try clear_value s4
  extract_lets -lift -underBinder -merge -useContext +onlyGivenNames s5
  try clear_value s5
  extract_lets -lift -underBinder -merge -useContext +onlyGivenNames s6
  try clear_value s6
  exact kept_ite (kept_enqueue (kept_bump h1)) (kept_setFft h1)

theorem kept_applyWola {a0 : State} {a1 : QItem} (h1 : Kept q a0) : Kept q (State.applyWola a0 a1) := by
  unfold State.applyWola
  extract_lets -lift -underBinder -merge -useContext +onlyGivenNames s1
  try clear_value s1
  exact Kept.upd h1

theorem kept_carConflict {a0 : State} {a1 : ℕ} {a2 : Dir} {a3 : ℕ} {a4 : CarSt} (h1 : Kept q a0) : Kept q (State.carConflict a0 a1 a2 a3 a4) := by
  unfold State.carConflict
  exact kept_ite (kept_bump h1) h1

theorem kept_applyCarrier {a0 : State} {a1 : QItem} {a2 : ℕ} (h1 : Kept q a0) : Kept q (State.applyCarrier a0 a1 a2) := by
  unfold State.applyCarrier
  extract_lets -lift -underBinder -merge -useContext +onlyGivenNames s1
  try clear_value s1
  extract_lets -lift -underBinder -merge -useContext +onlyGivenNames s2
  try clear_value s2
  extract_lets -lift -underBinder -merge -useContext +onlyGivenNames s3
  try clear_value s3
  extract_lets -lift -underBinder -merge -useContext +onlyGivenNames s4
  try clear_value s4
  extract_lets -lift -underBinder -merge -useContext +onlyGivenNames s5
  try clear_value s5
  extract_lets -lift -underBinder -merge -useContext +onlyGivenNames s6
  try clear_value s6
  extract_lets -lift -underBinder -merge -useContext +onlyGivenNames s7
  try clear_value s7
  extract_lets -lift -underBinder -merge -useContext +onlyGivenNames s8
  have k9 : ∀ a0 a1, Kept q a0 → Kept q (s8 a0 a1) := by
    unfold s8
    intro s10 s12 k11
    exact kept_ite k11 (kept_setIslCar k11)
  clear_value s8
  refine kept_ite ?_ ?_
  · exact kept_enqueue (kept_bump h1)
  · refine kept_ite ?_ ?_
    · exact kept_refuse h1
    · refine kept_ite ?_ ?_
      · extract_lets -lift -underBinder -merge -useContext +onlyGivenNames s13
        have k14 : Kept q s13 := by unfold s13; exact kept_ite (kept_setCar h1) h1
        clear_value s13
        extract_lets -lift -underBinder -merge -useContext +onlyGivenNames s15
        have k16 : Kept q s15 := by unfold s15; exact kept_ite (kept_carConflict k14) k14
        clear_value s15
        extract_lets -lift -underBinder -merge -useContext +onlyGivenNames s17
        try clear_value s17
        exact kept_ite (k9 _ _ k16) k16
      · exact kept_ite (k9 _ _ (kept_carConflict (kept_setCar h1))) (kept_refuse h1)

theorem kept_applyCfrCfg {a0 : State} {a1 : QItem} (h1 : Kept q a0) : Kept q (State.applyCfrCfg a0 a1) := by
  unfold State.applyCfrCfg
  extract_lets -lift -underBinder -merge -useContext +onlyGivenNames s1
  try clear_value s1
  extract_lets -lift -underBinder -merge -useContext +onlyGivenNames s2
  try clear_value s2
  exact Kept.upd h1

theorem kept_applyGainTx {a0 : State} {a1 : QItem} (h1 : Kept q a0) : Kept q (State.applyGainTx a0 a1) := by
  unfold State.applyGainTx
  extract_lets -lift -underBinder -merge -useContext +onlyGivenNames s1
  try clear_value s1
  refine kept_foldl ?_ ?_
  · exact h1
  · intro s2 x4 k3
    exact kept_setGain k3

theorem kept_blankBlock {a0 : State} {a1 : Item} (h1 : Kept q a0) : Kept q (State.blankBlock a0 a1) := by
  unfold State.blankBlock
  exact kept_blankSym h1

theorem kept_tagSwap {a0 : State} {a1 : List ℕ} {a2 : ℕ} {a3 : ℕ} {a4 : Tag} (h1 : Kept q a0) : Kept q (State.tagSwap a0 a1 a2 a3 a4) := by
  unfold State.tagSwap
  extract_lets -lift -underBinder -merge -useContext +onlyGivenNames s1
  try clear_value s1
  extract_lets -lift -underBinder -merge -useContext +onlyGivenNames s2
  try clear_value s2
  extract_lets -lift -underBinder -merge -useContext +onlyGivenNames s3
  have k4 : Kept q s3 := by unfold s3; exact Kept.upd h1
  clear_value s3
  refine kept_ite ?_ ?_
  · exact k4
  · refine kept_foldl ?_ ?_
    · exact k4
    · intro s5 x7 k6
      exact kept_ite (kept_enqueue k6) k6

theorem kept_takeFd {a0 : State} {a1 : ℕ} {a2 : Item} (h1 : Kept q a0) : Kept q (State.takeFd a0 a1 a2) := by
  unfold State.takeFd
  extract_lets -lift -underBinder -merge -useContext +onlyGivenNames s1
  try clear_value s1
  extract_lets -lift -underBinder -merge -useContext +onlyGivenNames s2
  try clear_value s2
  refine kept_ite ?_ ?_
  · exact kept_bump h1
  · extract_lets -lift -underBinder -merge -useContext +onlyGivenNames s3
    try clear_value s3
    extract_lets -lift -underBinder -merge -useContext +onlyGivenNames s4
    have k5 : Kept q s4 := by unfold s4; exact kept_ite (kept_bump h1) h1
    clear_value s4
    extract_lets -lift -underBinder -merge -useContext +onlyGivenNames s6
    have k7 : Kept q s6 := by unfold s6; exact kept_ite (kept_blankBlock k5) k5
    clear_value s6
    exact kept_ite (kept_tagSwap (kept_enqueue k7)) k7

theorem kept_takeTd {a0 : State} {a1 : ℕ} {a2 : Item} (h1 : Kept q a0) : Kept q (State.takeTd a0 a1 a2) := by
  unfold State.takeTd
  extract_lets -lift -underBinder -merge -useContext +onlyGivenNames s1
  try clear_value s1
  extract_lets -lift -underBinder -merge -useContext +onlyGivenNames s2
  try clear_value s2
  extract_lets -lift -underBinder -merge -useContext +onlyGivenNames s3
  try clear_value s3
  extract_lets -lift -underBinder -merge -useContext +onlyGivenNames s4
  try clear_value s4
  refine kept_ite ?_ ?_
  · exact kept_blankTd (kept_bump h1)
  · extract_lets -lift -underBinder -merge -useContext +onlyGivenNames s5
    try clear_value s5
    extract_lets -lift -underBinder -merge -useContext +onlyGivenNames s6
    have k7 : Kept q s6 := by unfold s6; exact kept_ite (kept_bump h1) h1
    clear_value s6
    refine kept_ite ?_ ?_
    · exact kept_blankTd k7
    · extract_lets -lift -underBinder -merge -useContext +onlyGivenNames s8
      try clear_value s8
      extract_lets -lift -underBinder -merge -useContext +onlyGivenNames s9
      try clear_value s9
      extract_lets -lift -underBinder -merge -useContext +onlyGivenNames s10
      have k11 : Kept q s10 := by unfold s10; exact kept_ite (kept_bump k7) k7
      clear_value s10
      extract_lets -lift -underBinder -merge -useContext +onlyGivenNames s12
      try clear_value s12
      extract_lets -lift -underBinder -merge -useContext +onlyGivenNames s13
      try clear_value s13
      extract_lets -lift -underBinder -merge -useContext +onlyGivenNames s14
      have k15 : Kept q s14 := by unfold s14; exact Kept.upd k11
      clear_value s14
      exact kept_tagSwap (kept_enqueue k15)

theorem kept_blankSection {a0 : State} {a1 : Item} (h1 : Kept q a0) : Kept q (State.blankSection a0 a1) := by
  unfold State.blankSection
  extract_lets -lift -underBinder -merge -useContext +onlyGivenNames s1
  try clear_value s1
  refine kept_ite ?_ ?_
  · exact h1
  · extract_lets -lift -underBinder -merge -useContext +onlyGivenNames s2
    try clear_value s2
    refine kept_foldl ?_ ?_
    · exact h1
    · intro s3 x5 k4
      exact kept_blankSym k4

theorem kept_takeSection {a0 : State} {a1 : Item} (h1 : Kept q a0) : Kept q (State.takeSection a0 a1) := by
  unfold State.takeSection
  refine kept_ite ?_ ?_
  · exact kept_signal (kept_bump h1)
  · extract_lets -lift -underBinder -merge -useContext +onlyGivenNames s1
    try clear_value s1
    extract_lets -lift -underBinder -merge -useContext +onlyGivenNames s2
    try clear_value s2
    extract_lets -lift -underBinder -merge -useContext +onlyGivenNames s3
    try clear_value s3
    extract_lets -lift -underBinder -merge -useContext +onlyGivenNames s4
    have k5 : Kept q s4 := by unfold s4; exact kept_ite (kept_blankSection (kept_bump h1)) h1
    clear_value s4
    extract_lets -lift -underBinder -merge -useContext +onlyGivenNames s6
    try clear_value s6
    refine kept_foldl ?_ ?_
    · exact k5
    · intro s7 x9 k8
      exact kept_queueSection k8

theorem kept_execCfrCfg {a0 : Tile} {a1 : Tag} {a2 : Bytes} {s : State} (h : Kept q s) : KeptOut q (execCfrCfg a0 a1 a2 s) := by
  unfold execCfrCfg
  exact kept_act (fun _ k2 => kept_arriveCtl k2) h

theorem kept_execWola {a0 : Tag} {a1 : Bytes} {s : State} (h : Kept q s) : KeptOut q (execWola a0 a1 s) := by
  unfold execWola
  exact kept_act (fun _ k2 => kept_arriveCtl k2) h

theorem kept_execCarrierOn {a0 : Tile} {a1 : Tag} {a2 : Bytes} {s : State} (h : Kept q s) : KeptOut q (execCarrierOn a0 a1 a2 s) := by
  unfold execCarrierOn
  exact kept_act (fun _ k2 => kept_arriveCarrier k2) h

theorem kept_fromBaseband {a0 : State} {a1 : Item} {a2 : State → State} (h1 : Kept q a0) (h3 : ∀ x0, Kept q x0 → Kept q (a2 x0)) : Kept q (State.fromBaseband a0 a1 a2) := by
  unfold State.fromBaseband
  exact kept_ite (kept_bump h1) (h3 _ h1)

theorem kept_execSectionItem {a0 : Tag} {a1 : Bytes} {s : State} (h : Kept q s) : KeptOut q (execSectionItem a0 a1 s) := by
  unfold execSectionItem
  refine kept_act ?_ h
  intro s3 k4
  extract_lets -lift -underBinder -merge -useContext +onlyGivenNames s5
  try clear_value s5
  exact kept_fromBaseband k4 (fun _ k7 => kept_arrive k7 (fun _  _ k10 => kept_takeSection k10))

theorem kept_execCarrierOff {a0 : Tile} {a1 : Tag} {a2 : Bytes} {s : State} (h : Kept q s) : KeptOut q (execCarrierOff a0 a1 a2 s) := by
  unfold execCarrierOff
  exact kept_act (fun _ k2 => kept_arriveCarrier k2) h

theorem kept_execGainTx {a0 : Tile} {a1 : Tag} {a2 : Bytes} {s : State} (h : Kept q s) : KeptOut q (execGainTx a0 a1 a2 s) := by
  unfold execGainTx
  refine kept_act ?_ h
  intro s3 k4
  extract_lets -lift -underBinder -merge -useContext +onlyGivenNames s5
  try clear_value s5
  exact kept_arriveIf k4

theorem kept_execFdData {a0 : Tag} {a1 : Bytes} {s : State} (h : Kept q s) : KeptOut q (execFdData a0 a1 s) := by
  unfold execFdData
  refine kept_act ?_ h
  intro s3 k4
  extract_lets -lift -underBinder -merge -useContext +onlyGivenNames s5
  try clear_value s5
  exact kept_fromBaseband k4 (fun _ k7 => kept_arrive k7 (fun _  _ k10 => kept_takeFd k10))

theorem kept_execTdData {a0 : Tag} {a1 : Bytes} {s : State} (h : Kept q s) : KeptOut q (execTdData a0 a1 s) := by
  unfold execTdData
  refine kept_act ?_ h
  intro s3 k4
  extract_lets -lift -underBinder -merge -useContext +onlyGivenNames s5
  try clear_value s5
  exact kept_fromBaseband k4 (fun _ k7 => kept_arrive k7 (fun _  _ k10 => kept_takeTd k10))

theorem kept_execFftCfg {a0 : Tag} {a1 : Bytes} {s : State} (h : Kept q s) : KeptOut q (execFftCfg a0 a1 s) := by
  unfold execFftCfg
  refine kept_act ?_ h
  intro s3 k4
  extract_lets -lift -underBinder -merge -useContext +onlyGivenNames s5
  try clear_value s5
  exact kept_arrive k4 (fun _  _ k8 => kept_ite (kept_queueCtl k8) (kept_bump k8))

theorem kept_execBeamSelDeclaration {a0 : Tag} {a1 : Bytes} {s : State} (h : Kept q s) : KeptOut q (execBeamSelDeclaration a0 a1 s) := by
  unfold execBeamSelDeclaration
  refine kept_act ?_ h
  intro s3 k4
  extract_lets -lift -underBinder -merge -useContext +onlyGivenNames s5
  try clear_value s5
  extract_lets -lift -underBinder -merge -useContext +onlyGivenNames s6
  try clear_value s6
  extract_lets -lift -underBinder -merge -useContext +onlyGivenNames s7
  try clear_value s7
  extract_lets -lift -underBinder -merge -useContext +onlyGivenNames s8
  have k9 : Kept q s8 := by unfold s8; exact kept_arrive k4 (fun _  _ k15 => kept_takeDecl k15)
  clear_value s8
  split
  · exact kept_declMissing k9
  · exact kept_ite (kept_declMissing k9) k9
  · exact k9

end Sys2Proof.Machine
end

