-- ==== Sys2Proof/Laws/KeptWake.lean ====
section
/-! SUPPORT. The operations of Machine/Wake.lean keep the form of memory and the queue. -/

namespace Sys2Proof.Machine
open Sys2Proof

variable {q : List Instr × Bool}

theorem kept_setPm {a0 : State} {a1 : PMach} {a2 : PMachine} (h1 : Kept q a0) : Kept q (State.setPm a0 a1 a2) := by
  unfold State.setPm
  split
  · exact Kept.upd h1
  · exact kept_setTilePower h1

theorem kept_beginExit {a0 : State} {a1 : PMach} {a2 : ℕ} {a3 : ℕ} (h1 : Kept q a0) : Kept q (State.beginExit a0 a1 a2 a3) := by
  unfold State.beginExit
  extract_lets -lift -underBinder -merge -useContext +onlyGivenNames s1
  try clear_value s1
  extract_lets -lift -underBinder -merge -useContext +onlyGivenNames s2
  try clear_value s2
  extract_lets -lift -underBinder -merge -useContext +onlyGivenNames s3
  try clear_value s3
  extract_lets -lift -underBinder -merge -useContext +onlyGivenNames s4
  have k5 : Kept q s4 := by unfold s4; exact kept_ite h1 (Kept.upd h1)
  clear_value s4
  exact kept_setPm k5

theorem kept_wakeOne {a0 : State} {a1 : PMach} {a2 : ℕ} {a3 : ℕ} (h1 : Kept q a0) : Kept q (State.wakeOne a0 a1 a2 a3) := by
  unfold State.wakeOne
  extract_lets -lift -underBinder -merge -useContext +onlyGivenNames s1
  try clear_value s1
  split
  · exact kept_setPm h1
  · exact kept_ite h1 (kept_beginExit h1)
  · exact h1

theorem kept_wake {a0 : State} {a1 : ℕ} {a2 : ℕ} (h1 : Kept q a0) : Kept q (State.wake a0 a1 a2) := by
  unfold State.wake
  extract_lets -lift -underBinder -merge -useContext +onlyGivenNames s1
  try clear_value s1
  refine kept_ite ?_ ?_
  · exact kept_wakeOne h1
  · refine kept_foldl ?_ ?_
    · exact h1
    · intro s2 x4 k3
      exact kept_ite k3 (kept_wakeOne k3)

theorem kept_hostWake {a0 : State} (h1 : Kept q a0) : Kept q (State.hostWake a0) := by
  unfold State.hostWake
  exact kept_ite (kept_wake h1) h1

theorem kept_setPend {a0 : State} {a1 : PMach} {a2 : PState} {a3 : PReq} (h1 : Kept q a0) : Kept q (State.setPend a0 a1 a2 a3) := by
  unfold State.setPend
  extract_lets -lift -underBinder -merge -useContext +onlyGivenNames s1
  try clear_value s1
  extract_lets -lift -underBinder -merge -useContext +onlyGivenNames s2
  have k3 : Kept q s2 := by unfold s2; exact kept_ite (kept_signal (kept_bump h1)) h1
  clear_value s2
  exact kept_setPm k3

theorem kept_beginEntry {a0 : State} {a1 : PMach} {a2 : PState} {a3 : Bool} (h1 : Kept q a0) : Kept q (State.beginEntry a0 a1 a2 a3) := by
  unfold State.beginEntry
  extract_lets -lift -underBinder -merge -useContext +onlyGivenNames s1
  try clear_value s1
  exact kept_setPm h1

theorem kept_requestOne {a0 : State} {a1 : PMach} {a2 : PState} {a3 : PReq} (h1 : Kept q a0) : Kept q (State.requestOne a0 a1 a2 a3) := by
  unfold State.requestOne
  extract_lets -lift -underBinder -merge -useContext +onlyGivenNames s1
  try clear_value s1
  split
  · refine kept_ite ?_ ?_
    · exact h1
    · refine kept_ite ?_ ?_
      · extract_lets -lift -underBinder -merge -useContext +onlyGivenNames s4
        have k5 : Kept q s4 := by unfold s4; exact kept_ite h1 (kept_setPend h1)
        clear_value s4
        exact kept_wakeOne k5
      · exact kept_setPend h1
  · exact kept_setPend h1
  · exact kept_setPend h1
  · refine kept_ite ?_ ?_
    · exact kept_ite (kept_beginEntry h1) h1
    · refine kept_ite ?_ ?_
      · exact kept_beginEntry h1
      · extract_lets -lift -underBinder -merge -useContext +onlyGivenNames s9
        have k10 : Kept q s9 := by unfold s9; exact kept_ite h1 (kept_setPend h1)
        clear_value s9
        exact kept_beginExit k10

theorem kept_requestReed {a0 : State} {a1 : PMach} {a2 : PReq} (h1 : Kept q a0) : Kept q (State.requestReed a0 a1 a2) := by
  unfold State.requestReed
  exact kept_ite (kept_setPm h1) (kept_requestOne h1)

theorem kept_request {a0 : State} {a1 : PState} {a2 : PReq} {a3 : ℕ} (h1 : Kept q a0) : Kept q (State.request a0 a1 a2 a3) := by
  unfold State.request
  extract_lets -lift -underBinder -merge -useContext +onlyGivenNames s1
  try clear_value s1
  split
  · refine kept_foldl ?_ ?_
    · exact h1
    · intro s3 x5 k4
      exact kept_requestReed k4
  · extract_lets -lift -underBinder -merge -useContext +onlyGivenNames s7
    try clear_value s7
    refine kept_ite ?_ ?_
    · exact kept_requestOne h1
    · refine kept_foldl ?_ ?_
      · exact h1
      · intro s8 x10 k9
        exact kept_requestOne k9
  · exact kept_requestOne h1

theorem kept_armWake {a0 : State} {a1 : BitVec 56} (h1 : Kept q a0) : Kept q (State.armWake a0 a1) := by
  unfold State.armWake
  exact Kept.upd h1

theorem kept_regDo {s : State} {w : Initiator} {f : State → State} (h : Kept q s) (hf : ∀ s, Kept q s → Kept q (f s)) :
    Kept q (s.regDo w f) := by
  unfold State.regDo
  exact kept_ite (hf _ h) (kept_error (kept_ite (kept_hostWake h) h))

theorem kept_regAct {w : Initiator} {f : State → State} (hf : ∀ s, Kept q s → Kept q (f s)) {s : State} (h : Kept q s) :
    KeptOut q (regAct w f s) := kept_act (fun _ k => kept_regDo k hf) h

theorem kept_unitAct {w : Initiator} {off : Nat} {f : State → State} (hf : ∀ s, Kept q s → Kept q (f s)) {s : State} (h : Kept q s) :
    KeptOut q (unitAct w off f s) := kept_act (fun _ k => kept_ite (kept_error k) (kept_regDo k hf)) h

theorem kept_wakeFromLow {a0 : State} {a1 : ℕ} {a2 : ℕ} (h1 : Kept q a0) : Kept q (State.wakeFromLow a0 a1 a2) := by
  unfold State.wakeFromLow
  split
  · exact kept_wake h1
  · exact kept_wake h1
  · exact kept_wake h1
  · exact h1

end Sys2Proof.Machine
end

