-- ==== Sys2Proof/Laws/KeptBeam.lean ====
section
/-! SUPPORT. The operations of Machine/Beam.lean keep the form of memory and the queue. -/

namespace Sys2Proof.Machine
open Sys2Proof

variable {q : List Instr × Bool}

theorem kept_writeAlign {a0 : State} {a1 : Dir} {a2 : ℕ} {a3 : BitVec 32} (h1 : Kept q a0) : Kept q (State.writeAlign a0 a1 a2 a3) := by
  unfold State.writeAlign
  refine kept_ite ?_ ?_
  · exact kept_error h1
  · extract_lets -lift -underBinder -merge -useContext +onlyGivenNames s1
    try clear_value s1
    extract_lets -lift -underBinder -merge -useContext +onlyGivenNames s2
    try clear_value s2
    extract_lets -lift -underBinder -merge -useContext +onlyGivenNames s3
    have k4 : Kept q s3 := by unfold s3; exact kept_ite (kept_setReg h1) h1
    clear_value s3
    exact kept_done (kept_setReg k4)

theorem kept_execBeamAlignWrite {a0 : Initiator} {a1 : Dir} {a2 : Path} {a3 : BitVec 32} {s : State} (h : Kept q s) : KeptOut q (execBeamAlignWrite a0 a1 a2 a3 s) := by
  unfold execBeamAlignWrite
  exact kept_unitAct (fun _ k2 => kept_writeAlign k2) h

theorem kept_setDirty {a0 : State} {a1 : Dir} {a2 : Bank} {a3 : ℕ} {a4 : Bool} (h1 : Kept q a0) : Kept q (State.setDirty a0 a1 a2 a3 a4) := by
  unfold State.setDirty
  exact Kept.upd h1

theorem kept_readEntryMaster {a0 : State} {a1 : Dir} {a2 : Bank} {a3 : ℕ} (h1 : Kept q a0) : Kept q (State.readEntryMaster a0 a1 a2 a3).2 := by
  unfold State.readEntryMaster
  split
  · rename_i y1 y2 e4
    have k3 : Kept q y2 := kept_p2 e4 (kept_memRead h1)
    exact k3
  · rename_i y5 y6 _ e8
    have k7 : Kept q y6 := kept_p2 e8 (kept_memRead h1)
    exact k7

theorem kept_putEntry {a0 : State} {a1 : Dir} {a2 : Bank} {a3 : ℕ} {a4 : Bytes} (h1 : Kept q a0) : Kept q (State.putEntry a0 a1 a2 a3 a4) := by
  unfold State.putEntry
  extract_lets -lift -underBinder -merge -useContext +onlyGivenNames s1
  try clear_value s1
  extract_lets -lift -underBinder -merge -useContext +onlyGivenNames s2
  have k3 : Kept q s2 := by
    unfold s2
    refine kept_foldl ?_ ?_
    · exact h1
    · intro s4 x6 k5
      exact kept_markValid (kept_setErr k5)
  clear_value s2
  exact kept_setBytes k3

theorem kept_buildOne {a0 : State} {a1 : Dir} {a2 : Bank} {a3 : BuildState} {a4 : Bool} {a5 : ℕ} (h1 : Kept q a0) : Kept q (State.buildOne a0 a1 a2 a3 a4 a5) := by
  unfold State.buildOne
  split
  · rename_i y1 e3
    have k2 : Kept q y1 := kept_p2 e3 (kept_readEntryMaster h1)
    exact kept_putEntry k2
  · rename_i y4 y5 e7
    have k6 : Kept q y5 := kept_p2 e7 (kept_readEntryMaster h1)
    refine kept_ite ?_ ?_
    · exact kept_putEntry k6
    · split
      · extract_lets -lift -underBinder -merge -useContext +onlyGivenNames s11
        have k12 : Kept q s11 := by unfold s11; exact kept_bumpBy (kept_putEntry k6)
        clear_value s11
        exact kept_ite (kept_bump k12) k12

theorem kept_runBuild {a0 : State} {a1 : Dir} {a2 : Region} {a3 : BeamCommit} {a4 : ℕ} (h1 : Kept q a0) : Kept q (State.runBuild a0 a1 a2 a3 a4) := by
  unfold State.runBuild
  refine kept_foldl ?_ ?_
  · exact h1
  · intro s1 x3 k2
    exact kept_setDirty (kept_buildOne k2)

theorem kept_setRegion {a0 : State} {a1 : Dir} {a2 : Region} {a3 : RegionSt} (h1 : Kept q a0) : Kept q (State.setRegion a0 a1 a2 a3) := by
  unfold State.setRegion
  exact Kept.upd h1

theorem kept_abandonCommit {a0 : State} {a1 : Dir} {a2 : Region} (h1 : Kept q a0) : Kept q (State.abandonCommit a0 a1 a2) := by
  unfold State.abandonCommit
  extract_lets -lift -underBinder -merge -useContext +onlyGivenNames s1
  try clear_value s1
  split
  · exact h1
  · extract_lets -lift -underBinder -merge -useContext +onlyGivenNames s4
    have k5 : Kept q s4 := by unfold s4; exact kept_ite h1 (kept_runBuild h1)
    clear_value s4
    exact kept_setRegion k5

theorem kept_execEntryLineFailure {a0 : Dir} {a1 : Bank} {a2 : Entry} {s : State} (h : Kept q s) : KeptOut q (execEntryLineFailure a0 a1 a2 s) := by
  unfold execEntryLineFailure
  refine kept_act ?_ h
  intro s3 k4
  extract_lets -lift -underBinder -merge -useContext +onlyGivenNames s5
  try clear_value s5
  exact kept_ite k4 (Kept.upd k4)

theorem kept_writeEcq {a0 : State} {a1 : Initiator} {a2 : BitVec 64} (h1 : Kept q a0) : Kept q (State.writeEcq a0 a1 a2) := by
  unfold State.writeEcq
  split
  · refine kept_ite ?_ ?_
    · exact kept_error (kept_bump h1)
    · extract_lets -lift -underBinder -merge -useContext +onlyGivenNames s2
      try clear_value s2
      exact kept_done (Kept.upd h1)
  · exact kept_error h1

theorem kept_refetchEntry {a0 : State} {a1 : Dir} {a2 : Bank} {a3 : ℕ} (h1 : Kept q a0) : Kept q (State.refetchEntry a0 a1 a2 a3) := by
  unfold State.refetchEntry
  extract_lets -lift -underBinder -merge -useContext +onlyGivenNames s1
  try clear_value s1
  extract_lets -lift -underBinder -merge -useContext +onlyGivenNames s2
  try clear_value s2
  extract_lets -lift -underBinder -merge -useContext +onlyGivenNames s3
  try clear_value s3
  extract_lets -lift -underBinder -merge -useContext +onlyGivenNames s4
  have k5 : Kept q s4 := by unfold s4; exact kept_buildOne h1
  clear_value s4
  exact kept_ite k5 (kept_signal (kept_bump k5))

theorem kept_mendEntries {a0 : State} {a1 : Dir} {a2 : Bank} {a3 : ℕ} {a4 : ℕ} (h1 : Kept q a0) : Kept q (State.mendEntries a0 a1 a2 a3 a4) := by
  unfold State.mendEntries
  extract_lets -lift -underBinder -merge -useContext +onlyGivenNames s1
  try clear_value s1
  extract_lets -lift -underBinder -merge -useContext +onlyGivenNames s2
  try clear_value s2
  extract_lets -lift -underBinder -merge -useContext +onlyGivenNames s3
  try clear_value s3
  refine kept_foldl ?_ ?_
  · exact h1
  · intro s4 x6 k5
    exact kept_refetchEntry k5

theorem kept_beamWrite {a0 : State} {a1 : Initiator} {a2 : Dir} {a3 : Bank} {a4 : ℕ} {a5 : Bytes} (h1 : Kept q a0) : Kept q (State.beamWrite a0 a1 a2 a3 a4 a5) := by
  unfold State.beamWrite
  extract_lets -lift -underBinder -merge -useContext +onlyGivenNames s1
  try clear_value s1
  extract_lets -lift -underBinder -merge -useContext +onlyGivenNames s2
  try clear_value s2
  extract_lets -lift -underBinder -merge -useContext +onlyGivenNames s3
  try clear_value s3
  extract_lets -lift -underBinder -merge -useContext +onlyGivenNames s4
  have k5 : Kept q s4 := by unfold s4; exact kept_ite (kept_mendEntries h1) h1
  clear_value s4
  extract_lets -lift -underBinder -merge -useContext +onlyGivenNames s6
  have k7 : ∀ t, s6 = some t → Kept q t := by unfold s6; exact kept_bind (kept_memWrite k5) (fun _ k17 => kept_bind (kept_memWrite k17) (fun _ k19 => kept_memWrite k19))
  clear_value s6
  split
  · rename_i y8 _
    have k9 : Kept q y8 := k7 _ rfl
    refine kept_done ?_
    · refine kept_foldl ?_ ?_
      · exact k9
      · intro s11 x13 k12
        exact kept_setDirty k12
  · exact kept_error (kept_bump k5)

theorem kept_execBeamTableWrite {a0 : Initiator} {a1 : Addr} {a2 : Bytes} {s : State} (h : Kept q s) : KeptOut q (execBeamTableWrite a0 a1 a2 s) := by
  unfold execBeamTableWrite
  refine kept_act ?_ h
  intro s3 k4
  split
  · exact kept_ite (kept_error k4) (kept_beamWrite k4)
  · exact kept_error k4

theorem kept_restoreBeams {a0 : State} (h1 : Kept q a0) : Kept q (State.restoreBeams a0) := by
  unfold State.restoreBeams
  refine kept_foldl ?_ ?_
  · exact h1
  · intro s1 x3 k2
    refine kept_foldl ?_ ?_
    · exact k2
    · intro s4 x6 k5
      extract_lets -lift -underBinder -merge -useContext +onlyGivenNames s7
      try clear_value s7
      extract_lets -lift -underBinder -merge -useContext +onlyGivenNames s8
      try clear_value s8
      refine kept_foldl ?_ ?_
      · exact k5
      · intro s9 x11 k10
        exact kept_buildOne k10

theorem kept_commitOne {a0 : State} {a1 : Dir} {a2 : Region} {a3 : Bank} {a4 : Air} {a5 : Tag} {a6 : Option ℕ} (h1 : Kept q a0) : Kept q (State.commitOne a0 a1 a2 a3 a4 a5 a6).1 := by
  unfold State.commitOne
  extract_lets -lift -underBinder -merge -useContext +onlyGivenNames s1
  try clear_value s1
  split
  · extract_lets -lift -underBinder -merge -useContext +onlyGivenNames s3
    try clear_value s3
    extract_lets -lift -underBinder -merge -useContext +onlyGivenNames s4
    try clear_value s4
    extract_lets -lift -underBinder -merge -useContext +onlyGivenNames s5
    try clear_value s5
    extract_lets -lift -underBinder -merge -useContext +onlyGivenNames s6
    try clear_value s6
    exact kept_setRegion h1
  · exact h1

theorem kept_takeCommit {a0 : State} {a1 : Item} {a2 : BitVec 19} (h1 : Kept q a0) : Kept q (State.takeCommit a0 a1 a2) := by
  unfold State.takeCommit
  extract_lets -lift -underBinder -merge -useContext +onlyGivenNames s1
  try clear_value s1
  refine kept_foldl ?_ ?_
  · exact h1
  · intro s2 x4 k3
    split
    · rename_i y5 e7
      have k6 : Kept q y5 := kept_p1 e7 (kept_placeCtl k3)
      exact k6
    · rename_i y8 y10 e11
      have k9 : Kept q y8 := kept_p1 e11 (kept_placeCtl k3)
      split
      · rename_i y12 e14
        have k13 : Kept q y12 := kept_p1 e14 (kept_commitOne k9)
        exact kept_refuseSeq (kept_bump k13)
      · rename_i y15 y17 _ e18
        have k16 : Kept q y15 := kept_p1 e18 (kept_commitOne k9)
        exact k16

theorem kept_execBeamCommit {a0 : Tag} {a1 : Bytes} {s : State} (h : Kept q s) : KeptOut q (execBeamCommit a0 a1 s) := by
  unfold execBeamCommit
  refine kept_act ?_ h
  intro s3 k4
  extract_lets -lift -underBinder -merge -useContext +onlyGivenNames s5
  try clear_value s5
  exact kept_arrive k4 (fun _  _ k8 => kept_takeCommit k8)

theorem kept_execBuildComplete {a0 : Dir} {s : State} (h : Kept q s) : KeptOut q (execBuildComplete a0 s) := by
  unfold execBuildComplete
  refine kept_act ?_ h
  intro s3 k4
  split
  · exact k4
  · refine kept_ite ?_ ?_
    · exact k4
    · extract_lets -lift -underBinder -merge -useContext +onlyGivenNames s8
      have k9 : Kept q s8 := by unfold s8; exact kept_runBuild k4
      clear_value s8
      extract_lets -lift -underBinder -merge -useContext +onlyGivenNames s10
      try clear_value s10
      exact kept_setRegion k9

theorem kept_execEntryRefetchComplete {a0 : Dir} {a1 : Bank} {a2 : Entry} {s : State} (h : Kept q s) : KeptOut q (execEntryRefetchComplete a0 a1 a2 s) := by
  unfold execEntryRefetchComplete
  refine kept_act ?_ h
  intro s3 k4
  extract_lets -lift -underBinder -merge -useContext +onlyGivenNames s5
  try clear_value s5
  refine kept_ite ?_ ?_
  · exact k4
  · extract_lets -lift -underBinder -merge -useContext +onlyGivenNames s6
    try clear_value s6
    extract_lets -lift -underBinder -merge -useContext +onlyGivenNames s7
    have k8 : Kept q s7 := by unfold s7; exact Kept.upd k4
    clear_value s7
    exact kept_refetchEntry k8

theorem kept_execBankRelease {a0 : Dir} {a1 : Region} {s : State} (h : Kept q s) : KeptOut q (execBankRelease a0 a1 s) := by
  unfold execBankRelease
  refine kept_act ?_ h
  intro s3 k4
  extract_lets -lift -underBinder -merge -useContext +onlyGivenNames s5
  try clear_value s5
  refine kept_ite ?_ ?_
  · exact k4
  · extract_lets -lift -underBinder -merge -useContext +onlyGivenNames s6
    try clear_value s6
    extract_lets -lift -underBinder -merge -useContext +onlyGivenNames s7
    try clear_value s7
    exact kept_setRegion k4

theorem kept_execBeamEcqWrite {a0 : Initiator} {a1 : BitVec 64} {s : State} (h : Kept q s) : KeptOut q (execBeamEcqWrite a0 a1 s) := by
  unfold execBeamEcqWrite
  exact kept_unitAct (fun _ k2 => kept_writeEcq k2) h

theorem kept_engineLate {a0 : State} {a1 : ℕ} (h1 : Kept q a0) : Kept q (State.engineLate a0 a1) := by
  unfold State.engineLate
  exact kept_vcCause (kept_bump h1)

theorem kept_goLive {a0 : State} {a1 : Dir} {a2 : Region} {a3 : BeamCommit} (h1 : Kept q a0) : Kept q (State.goLive a0 a1 a2 a3) := by
  unfold State.goLive
  extract_lets -lift -underBinder -merge -useContext +onlyGivenNames s1
  try clear_value s1
  extract_lets -lift -underBinder -merge -useContext +onlyGivenNames s2
  try clear_value s2
  extract_lets -lift -underBinder -merge -useContext +onlyGivenNames s3
  try clear_value s3
  exact kept_setRegion h1

theorem kept_execBuildOverrun {a0 : Dir} {s : State} (h : Kept q s) : KeptOut q (execBuildOverrun a0 s) := by
  unfold execBuildOverrun
  refine kept_act ?_ h
  intro s3 k4
  extract_lets -lift -underBinder -merge -useContext +onlyGivenNames s5
  try clear_value s5
  refine kept_foldl ?_ ?_
  · exact k4
  · intro s6 x8 k7
    split
    · exact k7
    · extract_lets -lift -underBinder -merge -useContext +onlyGivenNames s11
      have k12 : Kept q s11 := by unfold s11; exact kept_bump (kept_bump k7)
      clear_value s11
      split
      · exact kept_engineLate (kept_abandonCommit k12)
      · exact kept_abandonCommit k12
      · extract_lets -lift -underBinder -merge -useContext +onlyGivenNames s17
        try clear_value s17
        extract_lets -lift -underBinder -merge -useContext +onlyGivenNames s18
        try clear_value s18
        extract_lets -lift -underBinder -merge -useContext +onlyGivenNames s19
        try clear_value s19
        extract_lets -lift -underBinder -merge -useContext +onlyGivenNames s20
        have k21 : Kept q s20 := by unfold s20; exact kept_ite (kept_blankSpan k12) k12
        clear_value s20
        exact kept_setRegion k21

theorem kept_execEngineCommit {s : State} (h : Kept q s) : KeptOut q (execEngineCommit s) := by
  unfold execEngineCommit
  refine kept_act ?_ h
  intro s3 k4
  split
  · exact k4
  · refine kept_ite ?_ ?_
    · exact k4
    · extract_lets -lift -underBinder -merge -useContext +onlyGivenNames s8
      try clear_value s8
      extract_lets -lift -underBinder -merge -useContext +onlyGivenNames s9
      have k10 : Kept q s9 := by unfold s9; exact Kept.upd k4
      clear_value s9
      refine kept_arrive k10 ?_
      · intro s17 s18 k19
        refine kept_foldl ?_ ?_
        · exact k19
        · intro s20 x22 k21
          refine kept_ite ?_ ?_
          · exact kept_engineLate (kept_bump k21)
          · split
            · rename_i y23 e25
              have k24 : Kept q y23 := kept_p1 e25 (kept_commitOne k21)
              exact kept_engineLate (kept_bump k24)
            · rename_i y26 y28 _ e29
              have k27 : Kept q y26 := kept_p1 e29 (kept_commitOne k21)
              exact k27

end Sys2Proof.Machine
end

