-- ==== Sys2Proof/Laws/KeptEvents.lean ====
section
/-! SUPPORT. The operations of Machine/Events.lean keep the form of memory and the queue. -/

namespace Sys2Proof.Machine
open Sys2Proof

variable {q : List Instr × Bool}

theorem kept_badKick {a0 : State} (h1 : Kept q a0) : Kept q (badKick a0) := by
  unfold badKick
  exact Kept.upd h1

theorem kept_writeWdog {a0 : State} {a1 : BitVec 32} (h1 : Kept q a0) : Kept q (State.writeWdog a0 a1) := by
  unfold State.writeWdog
  extract_lets -lift -underBinder -merge -useContext +onlyGivenNames s1
  try clear_value s1
  refine kept_ite ?_ ?_
  · exact kept_badKick h1
  · extract_lets -lift -underBinder -merge -useContext +onlyGivenNames s2
    try clear_value s2
    extract_lets -lift -underBinder -merge -useContext +onlyGivenNames s3
    have k4 : Kept q s3 := by unfold s3; exact kept_setReg h1
    clear_value s3
    exact kept_ite (Kept.upd k4) k4

theorem kept_writeEvPend {a0 : State} {a1 : Bool} {a2 : BitVec 64} (h1 : Kept q a0) : Kept q (State.writeEvPend a0 a1 a2) := by
  unfold State.writeEvPend
  extract_lets -lift -underBinder -merge -useContext +onlyGivenNames s1
  try clear_value s1
  exact kept_done (Kept.upd h1)

theorem kept_execEventRepeatMessage {a0 : Event} {s : State} (h : Kept q s) : KeptOut q (execEventRepeatMessage a0 s) := by
  unfold execEventRepeatMessage
  refine kept_act ?_ h
  intro s3 k4
  extract_lets -lift -underBinder -merge -useContext +onlyGivenNames s5
  try clear_value s5
  split
  · exact k4
  · refine kept_ite ?_ ?_
    · exact kept_setEv k4
    · extract_lets -lift -underBinder -merge -useContext +onlyGivenNames s8
      try clear_value s8
      exact kept_deliver (kept_setEv k4)

theorem kept_execEvPendClear {a0 : Initiator} {a1 : Bool} {a2 : BitVec 64} {a3 : BitVec 64} {s : State} (h : Kept q s) : KeptOut q (execEvPendClear a0 a1 a2 a3 s) := by
  unfold execEvPendClear
  refine kept_act ?_ h
  intro s3 k4
  extract_lets -lift -underBinder -merge -useContext +onlyGivenNames s5
  try clear_value s5
  extract_lets -lift -underBinder -merge -useContext +onlyGivenNames s6
  try clear_value s6
  exact kept_signalAll (kept_writeEvPend k4)

theorem kept_execWatchdogKick {a0 : Initiator} {a1 : BitVec 32} {s : State} (h : Kept q s) : KeptOut q (execWatchdogKick a0 a1 s) := by
  unfold execWatchdogKick
  refine kept_act ?_ h
  intro s3 k4
  extract_lets -lift -underBinder -merge -useContext +onlyGivenNames s5
  try clear_value s5
  exact kept_done (kept_writeWdog k4)

end Sys2Proof.Machine
end

