-- ==== Sys2Proof/Laws/KeptSlots.lean ====
section
/-! SUPPORT. The operations of Machine/Slots.lean keep the form of memory and the queue. -/

namespace Sys2Proof.Machine
open Sys2Proof

variable {q : List Instr × Bool}

theorem kept_setReady {a0 : State} {a1 : ℕ} {a2 : Bool} (h1 : Kept q a0) : Kept q (State.setReady a0 a1 a2) := by
  unfold State.setReady
  exact Kept.upd h1

theorem kept_setSlot {a0 : State} {a1 : ℕ} {a2 : SlotSt} (h1 : Kept q a0) : Kept q (State.setSlot a0 a1 a2) := by
  unfold State.setSlot
  exact Kept.upd h1

theorem kept_freeSlotsOf {a0 : State} {a1 : Initiator → Bool} (h1 : Kept q a0) : Kept q (State.freeSlotsOf a0 a1) := by
  unfold State.freeSlotsOf
  refine kept_foldl ?_ ?_
  · exact h1
  · intro s1 x3 k2
    split
    · exact kept_ite (kept_setReady (kept_setSlot k2)) k2
    · exact k2

theorem kept_flushVector {a0 : State} {a1 : ℕ} (h1 : Kept q a0) : Kept q (State.flushVector a0 a1) := by
  unfold State.flushVector
  exact kept_ite (kept_emitOut (Kept.upd h1)) h1

theorem kept_ignoreSlot {a0 : State} {a1 : Initiator} (h1 : Kept q a0) : Kept q (State.ignoreSlot a0 a1) := by
  unfold State.ignoreSlot
  extract_lets -lift -underBinder -merge -useContext +onlyGivenNames s1
  have k2 : Kept q s1 := by unfold s1; exact kept_bump h1
  clear_value s1
  exact kept_ite (kept_error k2) (kept_done k2)

theorem kept_slotAccept {a0 : State} {a1 : ℕ} (h1 : Kept q a0) : Kept q (State.slotAccept a0 a1) := by
  unfold State.slotAccept
  exact kept_setReady (kept_setSlot h1)

theorem kept_writeSlotFlag {a0 : State} {a1 : Initiator} {a2 : ℕ} {a3 : BitVec 64} (h1 : Kept q a0) : Kept q (State.writeSlotFlag a0 a1 a2 a3) := by
  unfold State.writeSlotFlag
  extract_lets -lift -underBinder -merge -useContext +onlyGivenNames s1
  try clear_value s1
  extract_lets -lift -underBinder -merge -useContext +onlyGivenNames s2
  try clear_value s2
  extract_lets -lift -underBinder -merge -useContext +onlyGivenNames s3
  try clear_value s3
  extract_lets -lift -underBinder -merge -useContext +onlyGivenNames s4
  try clear_value s4
  refine kept_ite ?_ ?_
  · split
    · exact kept_done (kept_setSlot h1)
    · refine kept_ite ?_ ?_
      · exact kept_ignoreSlot h1
      · extract_lets -lift -underBinder -merge -useContext +onlyGivenNames s7
        have k8 : Kept q s7 := by unfold s7; exact kept_setSlot h1
        clear_value s7
        exact kept_done (kept_ite (kept_slotAccept k8) k8)
    · exact kept_done (kept_setReady (kept_setSlot h1))
    · exact kept_ignoreSlot h1
  · refine kept_ite ?_ ?_
    · split
      · exact kept_done (kept_setReady (kept_setSlot h1))
      · exact kept_ite (kept_ignoreSlot h1) (kept_done (kept_setReady (kept_setSlot h1)))
      · exact kept_ite (kept_ignoreSlot h1) (kept_done (kept_setReady (kept_setSlot h1)))
      · exact kept_ignoreSlot h1
    · exact kept_ignoreSlot h1

theorem kept_slotRow {a0 : State} {a1 : Initiator} {a2 : ℕ} {a3 : BitVec 64} {a4 : ℕ} (h1 : Kept q a0) : Kept q (State.slotRow a0 a1 a2 a3 a4) := by
  unfold State.slotRow
  exact kept_ite (kept_writeSlotFlag h1) (kept_error h1)

theorem kept_execSlotClaim {a0 : Slot} {a1 : BitVec 64} {s : State} (h : Kept q s) : KeptOut q (execSlotClaim a0 a1 s) := by
  unfold execSlotClaim
  exact kept_unitAct (fun _ k2 => kept_slotRow k2) h

theorem kept_writeWincbase {a0 : State} {a1 : BitVec 32} (h1 : Kept q a0) : Kept q (State.writeWincbase a0 a1) := by
  unfold State.writeWincbase
  exact kept_ite (kept_done (kept_setReg h1)) (kept_error h1)

theorem kept_execMsixUnmask {a0 : MsixVec} {s : State} (h : Kept q s) : KeptOut q (execMsixUnmask a0 s) := by
  unfold execMsixUnmask
  exact kept_unitAct (fun _ k2 => kept_done (kept_flushVector (kept_setReg k2))) h

theorem kept_execDeviceSlotClaim {a0 : Initiator} {a1 : Slot} {a2 : BitVec 64} {s : State} (h : Kept q s) : KeptOut q (execDeviceSlotClaim a0 a1 a2 s) := by
  unfold execDeviceSlotClaim
  exact kept_unitAct (fun _ k2 => kept_ite (kept_slotRow k2) (kept_ignoreSlot k2)) h

theorem kept_restartLeases {a0 : State} (h1 : Kept q a0) : Kept q (State.restartLeases a0) := by
  unfold State.restartLeases
  refine kept_foldl ?_ ?_
  · exact h1
  · intro s1 x3 k2
    exact kept_ite (kept_setSlot k2) k2

theorem kept_execPciePerstNRelease {s : State} (h : Kept q s) : KeptOut q (execPciePerstNRelease s) := by
  unfold execPciePerstNRelease
  exact kept_actAlways (fun _ k2 => Kept.upd k2) h

theorem kept_flushVectors {a0 : State} (h1 : Kept q a0) : Kept q (State.flushVectors a0) := by
  unfold State.flushVectors
  refine kept_foldl ?_ ?_
  · exact h1
  · intro s1 x3 k2
    exact kept_flushVector k2

theorem kept_execPcieEndpointReady {s : State} (h : Kept q s) : KeptOut q (execPcieEndpointReady s) := by
  unfold execPcieEndpointReady
  exact kept_act (fun _ k2 => kept_ite (kept_flushVectors (Kept.upd k2)) k2) h

theorem kept_execDeviceSlotRelease {a0 : Initiator} {a1 : Slot} {a2 : BitVec 64} {s : State} (h : Kept q s) : KeptOut q (execDeviceSlotRelease a0 a1 a2 s) := by
  unfold execDeviceSlotRelease
  exact kept_unitAct (fun _ k2 => kept_ite (kept_slotRow k2) (kept_ignoreSlot k2)) h

theorem kept_execLeaseExpiry {a0 : Slot} {s : State} (h : Kept q s) : KeptOut q (execLeaseExpiry a0 s) := by
  unfold execLeaseExpiry
  refine kept_act ?_ h
  intro s3 k4
  extract_lets -lift -underBinder -merge -useContext +onlyGivenNames s5
  try clear_value s5
  exact kept_ite k4 (kept_signal (kept_bump (kept_setSlot k4)))

theorem kept_resetPcie {a0 : State} {a1 : Bool} (h1 : Kept q a0) : Kept q (State.resetPcie a0 a1) := by
  unfold State.resetPcie
  exact Kept.upd h1

theorem kept_execDeviceSlotHandover {a0 : Initiator} {a1 : Slot} {a2 : BitVec 64} {s : State} (h : Kept q s) : KeptOut q (execDeviceSlotHandover a0 a1 a2 s) := by
  unfold execDeviceSlotHandover
  exact kept_unitAct (fun _ k2 => kept_ite (kept_slotRow k2) (kept_ignoreSlot k2)) h

theorem kept_execHeaderRepoll {a0 : Slot} {s : State} (h : Kept q s) : KeptOut q (execHeaderRepoll a0 s) := by
  unfold execHeaderRepoll
  refine kept_act ?_ h
  intro s3 k4
  extract_lets -lift -underBinder -merge -useContext +onlyGivenNames s5
  try clear_value s5
  refine kept_ite ?_ ?_
  · exact k4
  · refine kept_ite ?_ ?_
    · exact kept_slotAccept k4
    · refine kept_ite ?_ ?_
      · exact kept_setSlot k4
      · extract_lets -lift -underBinder -merge -useContext +onlyGivenNames s6
        have k7 : Kept q s6 := by unfold s6; exact kept_setSlot k4
        clear_value s6
        exact kept_signal (kept_bump k7)

theorem kept_execPciePerst {s : State} (h : Kept q s) : KeptOut q (execPciePerst s) := by
  unfold execPciePerst
  exact kept_actAlways (fun _ k2 => kept_resetPcie k2) h

theorem kept_execSlotRelease {a0 : Slot} {a1 : BitVec 64} {s : State} (h : Kept q s) : KeptOut q (execSlotRelease a0 a1 s) := by
  unfold execSlotRelease
  exact kept_unitAct (fun _ k2 => kept_slotRow k2) h

theorem kept_execSlotHandover {a0 : Slot} {a1 : BitVec 64} {s : State} (h : Kept q s) : KeptOut q (execSlotHandover a0 a1 s) := by
  unfold execSlotHandover
  exact kept_unitAct (fun _ k2 => kept_slotRow k2) h

theorem kept_clearSlots {a0 : State} (h1 : Kept q a0) : Kept q (State.clearSlots a0) := by
  unfold State.clearSlots
  exact Kept.upd h1

theorem kept_execMemWincbaseWrite {a0 : Initiator} {a1 : BitVec 32} {s : State} (h : Kept q s) : KeptOut q (execMemWincbaseWrite a0 a1 s) := by
  unfold execMemWincbaseWrite
  exact kept_unitAct (fun _ k2 => kept_writeWincbase k2) h

end Sys2Proof.Machine
end

