-- ==== Sys2Proof/Laws/KeptLockstep.lean ====
section
/-! SUPPORT. The operations of Machine/Lockstep.lean keep the form of memory and the queue. -/

namespace Sys2Proof.Machine
open Sys2Proof

variable {q : List Instr × Bool}

theorem kept_dropSections {a0 : State} {a1 : ℕ} (h1 : Kept q a0) : Kept q (State.dropSections a0 a1) := by
  unfold State.dropSections
  refine kept_foldl ?_ ?_
  · exact h1
  · intro s1 x3 k2
    exact kept_setSeq k2

theorem kept_fenceItems {a0 : State} {a1 : ℕ} {a2 : ℕ} (h1 : Kept q a0) : Kept q (State.fenceItems a0 a1 a2) := by
  unfold State.fenceItems
  extract_lets -lift -underBinder -merge -useContext +onlyGivenNames s1
  try clear_value s1
  extract_lets -lift -underBinder -merge -useContext +onlyGivenNames s2
  have k3 : Kept q s2 := by unfold s2; exact Kept.upd h1
  clear_value s2
  exact kept_ite (Kept.upd k3) k3

theorem kept_sever {a0 : State} {a1 : ℕ} {a2 : ℕ} (h1 : Kept q a0) : Kept q (State.sever a0 a1 a2) := by
  unfold State.sever
  extract_lets -lift -underBinder -merge -useContext +onlyGivenNames s1
  have k2 : Kept q s1 := by unfold s1; exact kept_freeSlotsOf (kept_fenceItems h1)
  clear_value s1
  exact kept_signal (Kept.upd k2)

theorem kept_asqMismatch {a0 : State} (h1 : Kept q a0) : Kept q (State.asqMismatch a0) := by
  unfold State.asqMismatch
  exact kept_ite h1 (kept_dropSections (kept_sever (kept_signal h1)))

end Sys2Proof.Machine
end

