-- ==== Sys2Proof/Laws/KeptDc.lean ====
section
/-! SUPPORT. The operations of Machine/Dc.lean keep the form of memory and the queue. -/

namespace Sys2Proof.Machine
open Sys2Proof

variable {q : List Instr × Bool}

theorem kept_dcZero {a0 : State} {a1 : ℕ} (h1 : Kept q a0) : Kept q (State.dcZero a0 a1) := by
  unfold State.dcZero
  exact Kept.upd h1

theorem kept_setDc {a0 : State} {a1 : ℕ} {a2 : ℕ} {a3 : DcSt} (h1 : Kept q a0) : Kept q (State.setDc a0 a1 a2 a3) := by
  unfold State.setDc
  exact Kept.upd h1

theorem kept_dcRejudge {a0 : State} {a1 : ℕ} (h1 : Kept q a0) : Kept q (State.dcRejudge a0 a1) := by
  unfold State.dcRejudge
  refine kept_foldl ?_ ?_
  · exact h1
  · intro s1 x3 k2
    refine kept_foldl ?_ ?_
    · exact k2
    · intro s4 x6 k5
      extract_lets -lift -underBinder -merge -useContext +onlyGivenNames s7
      try clear_value s7
      exact kept_ite k5 (kept_setDc k5)

theorem kept_dcSample {a0 : State} {a1 : ℕ} (h1 : Kept q a0) : Kept q (State.dcSample a0 a1) := by
  unfold State.dcSample
  extract_lets -lift -underBinder -merge -useContext +onlyGivenNames s1
  try clear_value s1
  extract_lets -lift -underBinder -merge -useContext +onlyGivenNames s2
  try clear_value s2
  extract_lets -lift -underBinder -merge -useContext +onlyGivenNames s3
  try clear_value s3
  extract_lets -lift -underBinder -merge -useContext +onlyGivenNames s4
  have k5 : Kept q s4 := by unfold s4; exact Kept.upd h1
  clear_value s4
  refine kept_ite ?_ ?_
  · exact k5
  · extract_lets -lift -underBinder -merge -useContext +onlyGivenNames s6
    try clear_value s6
    extract_lets -lift -underBinder -merge -useContext +onlyGivenNames s7
    try clear_value s7
    extract_lets -lift -underBinder -merge -useContext +onlyGivenNames s8
    try clear_value s8
    split
    · split
      · extract_lets -lift -underBinder -merge -useContext +onlyGivenNames s13
        have k14 : Kept q s13 := by unfold s13; exact kept_ite k5 (kept_setDc k5)
        clear_value s13
        extract_lets -lift -underBinder -merge -useContext +onlyGivenNames s15
        try clear_value s15
        extract_lets -lift -underBinder -merge -useContext +onlyGivenNames s16
        have k17 : Kept q s16 := by unfold s16; exact Kept.upd k14
        clear_value s16
        exact kept_bumpBy k17

theorem kept_dcTick {a0 : State} (h1 : Kept q a0) : Kept q (State.dcTick a0) := by
  unfold State.dcTick
  refine kept_ite ?_ ?_
  · exact h1
  · refine kept_foldl ?_ ?_
    · exact h1
    · intro s1 x3 k2
      refine kept_foldl ?_ ?_
      · exact k2
      · intro s4 x6 k5
        exact kept_dcSample k5

end Sys2Proof.Machine
end

