-- ==== Sys2Proof/Laws/KeptCoef.lean ====
section
/-! SUPPORT. The operations of Machine/Coef.lean keep the form of memory and the queue. -/

namespace Sys2Proof.Machine
open Sys2Proof

variable {q : List Instr × Bool}

theorem kept_setRec {a0 : State} {a1 : RecId} {a2 : Rec} (h1 : Kept q a0) : Kept q (State.setRec a0 a1 a2) := by
  unfold State.setRec
  exact Kept.upd h1

theorem kept_arriveCoef {a0 : State} {a1 : ℕ} {a2 : Tile} {a3 : Tag} {a4 : Bytes} (h1 : Kept q a0) : Kept q (State.arriveCoef a0 a1 a2 a3 a4) := by
  unfold State.arriveCoef
  extract_lets -lift -underBinder -merge -useContext +onlyGivenNames s1
  try clear_value s1
  extract_lets -lift -underBinder -merge -useContext +onlyGivenNames s2
  try clear_value s2
  extract_lets -lift -underBinder -merge -useContext +onlyGivenNames s3
  try clear_value s3
  exact kept_arrive h1 (fun _  _ k6 => kept_ite (kept_refuse k6) (kept_ite (kept_queueCtl k6) (kept_refuseAs k6)))

theorem kept_execCoefCanceller {a0 : Tile} {a1 : Tag} {a2 : Bytes} {s : State} (h : Kept q s) : KeptOut q (execCoefCanceller a0 a1 a2 s) := by
  unfold execCoefCanceller
  exact kept_act (fun _ k2 => kept_arriveCoef k2) h

theorem kept_setSel {a0 : State} {a1 : ℕ} {a2 : SelSt} (h1 : Kept q a0) : Kept q (State.setSel a0 a1 a2) := by
  unfold State.setSel
  exact Kept.upd h1

theorem kept_swapOne {a0 : State} {a1 : FadeId} {a2 : ℕ} {a3 : Bank} {a4 : ℕ} {a5 : ℕ} {a6 : Tag} {a7 : BitVec 19} (h1 : Kept q a0) : Kept q (State.swapOne a0 a1 a2 a3 a4 a5 a6 a7) := by
  unfold State.swapOne
  extract_lets -lift -underBinder -merge -useContext +onlyGivenNames s1
  try clear_value s1
  extract_lets -lift -underBinder -merge -useContext +onlyGivenNames s2
  try clear_value s2
  refine kept_ite ?_ ?_
  · exact h1
  · refine kept_ite ?_ ?_
    · exact kept_refuseAs h1
    · split
      · extract_lets -lift -underBinder -merge -useContext +onlyGivenNames s4
        have k5 : Kept q s4 := by unfold s4; exact kept_ite (kept_bump h1) h1
        clear_value s4
        exact kept_setSel k5
      · exact kept_setSel h1

theorem kept_applyFltSwap {a0 : State} {a1 : QItem} (h1 : Kept q a0) : Kept q (State.applyFltSwap a0 a1) := by
  unfold State.applyFltSwap
  extract_lets -lift -underBinder -merge -useContext +onlyGivenNames s1
  try clear_value s1
  extract_lets -lift -underBinder -merge -useContext +onlyGivenNames s2
  try clear_value s2
  refine kept_ite ?_ ?_
  · refine kept_foldl ?_ ?_
    · exact h1
    · intro s3 x5 k4
      exact kept_setSel k4
  · exact kept_swapOne h1

theorem kept_applyDpdSwap {a0 : State} {a1 : QItem} (h1 : Kept q a0) : Kept q (State.applyDpdSwap a0 a1) := by
  unfold State.applyDpdSwap
  extract_lets -lift -underBinder -merge -useContext +onlyGivenNames s1
  try clear_value s1
  extract_lets -lift -underBinder -merge -useContext +onlyGivenNames s2
  try clear_value s2
  extract_lets -lift -underBinder -merge -useContext +onlyGivenNames s3
  extract_lets -lift -underBinder -merge -useContext +onlyGivenNames s4
  try clear_value s4
  refine kept_foldl ?_ ?_
  · exact h1
  · intro s5 x7 k6
    extract_lets -lift -underBinder -merge -useContext +onlyGivenNames s8
    try clear_value s8
    exact kept_ite (kept_swapOne k6) (kept_swapOne k6)

theorem kept_applyCoef {a0 : State} {a1 : QItem} (h1 : Kept q a0) : Kept q (State.applyCoef a0 a1) := by
  unfold State.applyCoef
  extract_lets -lift -underBinder -merge -useContext +onlyGivenNames s1
  try clear_value s1
  exact kept_ite (kept_refuseAs h1) (kept_setRec h1)

theorem kept_noMaster {a0 : State} (h1 : Kept q a0) : Kept q (State.noMaster a0) := by
  unfold State.noMaster
  exact kept_signal (kept_bump h1)

theorem kept_readMaster {a0 : State} {a1 : RecId} (h1 : Kept q a0) : Kept q (State.readMaster a0 a1).2 := by
  unfold State.readMaster
  split
  · split
    · rename_i y4 y5 e7
      have k6 : Kept q y5 := kept_p2 e7 (kept_memRead h1)
      split
      · exact kept_ite_p2 k6 (kept_noMaster k6)
      · exact k6
    · rename_i y10 y11 e13
      have k12 : Kept q y11 := kept_p2 e13 (kept_memRead h1)
      exact k12
    · rename_i y14 e16
      have k15 : Kept q y14 := kept_p2 e16 (kept_memRead h1)
      exact kept_noMaster k15

theorem kept_rebuild {a0 : State} {a1 : RecId} (h1 : Kept q a0) : Kept q (State.rebuild a0 a1) := by
  unfold State.rebuild
  split
  · rename_i y1 y2 e4
    have k3 : Kept q y2 := kept_p2 e4 (kept_readMaster h1)
    exact kept_signal (kept_bump (kept_setRec k3))
  · rename_i y5 e7
    have k6 : Kept q y5 := kept_p2 e7 (kept_readMaster h1)
    exact kept_setRec k6

theorem kept_arriveFltSwap {a0 : State} {a1 : ℕ} {a2 : Tile} {a3 : Tag} {a4 : Bytes} (h1 : Kept q a0) : Kept q (State.arriveFltSwap a0 a1 a2 a3 a4) := by
  unfold State.arriveFltSwap
  exact kept_arriveCtl h1

theorem kept_execFltSwapTxfir {a0 : Tile} {a1 : Tag} {a2 : Bytes} {s : State} (h : Kept q s) : KeptOut q (execFltSwapTxfir a0 a1 a2 s) := by
  unfold execFltSwapTxfir
  exact kept_act (fun _ k2 => kept_arriveFltSwap k2) h

theorem kept_execFltSwapRxfir {a0 : Tile} {a1 : Tag} {a2 : Bytes} {s : State} (h : Kept q s) : KeptOut q (execFltSwapRxfir a0 a1 a2 s) := by
  unfold execFltSwapRxfir
  exact kept_act (fun _ k2 => kept_arriveFltSwap k2) h

theorem kept_arriveDpdSwap {a0 : State} {a1 : ℕ} {a2 : Tile} {a3 : Tag} {a4 : Bytes} (h1 : Kept q a0) : Kept q (State.arriveDpdSwap a0 a1 a2 a3 a4) := by
  unfold State.arriveDpdSwap
  extract_lets -lift -underBinder -merge -useContext +onlyGivenNames s1
  try clear_value s1
  exact kept_arrive h1 (fun _  _ k4 => kept_ite (kept_queueCtl (kept_setReg k4)) (kept_refuse k4))

theorem kept_execDpdSwapCorr {a0 : Tile} {a1 : Tag} {a2 : Bytes} {s : State} (h : Kept q s) : KeptOut q (execDpdSwapCorr a0 a1 a2 s) := by
  unfold execDpdSwapCorr
  exact kept_act (fun _ k2 => kept_arriveDpdSwap k2) h

theorem kept_execCoefCfrPulse {a0 : Tile} {a1 : Tag} {a2 : Bytes} {s : State} (h : Kept q s) : KeptOut q (execCoefCfrPulse a0 a1 a2 s) := by
  unfold execCoefCfrPulse
  exact kept_act (fun _ k2 => kept_arriveCoef k2) h

theorem kept_execCoefRxCorrector {a0 : Tile} {a1 : Tag} {a2 : Bytes} {s : State} (h : Kept q s) : KeptOut q (execCoefRxCorrector a0 a1 a2 s) := by
  unfold execCoefRxCorrector
  exact kept_act (fun _ k2 => kept_arriveCoef k2) h

theorem kept_execDpdSwapModel {a0 : Tile} {a1 : Tag} {a2 : Bytes} {s : State} (h : Kept q s) : KeptOut q (execDpdSwapModel a0 a1 a2 s) := by
  unfold execDpdSwapModel
  exact kept_act (fun _ k2 => kept_arriveDpdSwap k2) h

theorem kept_execFadeEnd {a0 : FadeId} {s : State} (h : Kept q s) : KeptOut q (execFadeEnd a0 s) := by
  unfold execFadeEnd
  refine kept_act ?_ h
  intro s3 k4
  extract_lets -lift -underBinder -merge -useContext +onlyGivenNames s5
  try clear_value s5
  split
  · exact k4
  · extract_lets -lift -underBinder -merge -useContext +onlyGivenNames s8
    try clear_value s8
    refine kept_ite ?_ ?_
    · exact k4
    · extract_lets -lift -underBinder -merge -useContext +onlyGivenNames s9
      have k10 : Kept q s9 := by unfold s9; exact kept_setSel k4
      clear_value s9
      split
      · exact k10
      · exact kept_swapOne k10

theorem kept_execCoefPredistorter {a0 : Tile} {a1 : Tag} {a2 : Bytes} {s : State} (h : Kept q s) : KeptOut q (execCoefPredistorter a0 a1 a2 s) := by
  unfold execCoefPredistorter
  exact kept_act (fun _ k2 => kept_arriveCoef k2) h

theorem kept_execCoefFir {a0 : Tile} {a1 : Tag} {a2 : Bytes} {s : State} (h : Kept q s) : KeptOut q (execCoefFir a0 a1 a2 s) := by
  unfold execCoefFir
  exact kept_act (fun _ k2 => kept_arriveCoef k2) h

theorem kept_execCoefTxCorrector {a0 : Tile} {a1 : Tag} {a2 : Bytes} {s : State} (h : Kept q s) : KeptOut q (execCoefTxCorrector a0 a1 a2 s) := by
  unfold execCoefTxCorrector
  exact kept_act (fun _ k2 => kept_arriveCoef k2) h

theorem kept_execRecordRebuild {a0 : RecId} {s : State} (h : Kept q s) : KeptOut q (execRecordRebuild a0 s) := by
  unfold execRecordRebuild
  exact kept_act (fun _ k2 => kept_ite (kept_rebuild k2) k2) h

theorem kept_execFltSwapRxiq {a0 : Tile} {a1 : Tag} {a2 : Bytes} {s : State} (h : Kept q s) : KeptOut q (execFltSwapRxiq a0 a1 a2 s) := by
  unfold execFltSwapRxiq
  exact kept_act (fun _ k2 => kept_arriveFltSwap k2) h

theorem kept_damaged {a0 : State} (h1 : Kept q a0) : Kept q (State.damaged a0) := by
  unfold State.damaged
  exact kept_signal (kept_bump h1)

theorem kept_execRecordLineFailure {a0 : RecId} {s : State} (h : Kept q s) : KeptOut q (execRecordLineFailure a0 s) := by
  unfold execRecordLineFailure
  refine kept_act ?_ h
  intro s3 k4
  extract_lets -lift -underBinder -merge -useContext +onlyGivenNames s5
  try clear_value s5
  extract_lets -lift -underBinder -merge -useContext +onlyGivenNames s6
  have k7 : Kept q s6 := by unfold s6; exact kept_ite (kept_damaged k4) k4
  clear_value s6
  split
  · exact kept_setRec k7
  · exact kept_setRec k7

end Sys2Proof.Machine
end

