-- ==== Sys2Proof/Laws/KeptRegulatory.lean ====
section
/-! SUPPORT. The operations of Machine/Regulatory.lean keep the form of memory and the queue. -/

namespace Sys2Proof.Machine
open Sys2Proof

variable {q : List Instr × Bool}

theorem kept_regWatch {a0 : State} (h1 : Kept q a0) : Kept q (State.regWatch a0) := by
  unfold State.regWatch
  exact kept_ite (kept_ite h1 (kept_signal (Kept.upd h1))) (Kept.upd h1)

end Sys2Proof.Machine
end

