-- ==== Sys2Proof/Laws/KeptSynth.lean ====
section
/-! SUPPORT. The operations of Machine/Synth.lean keep the form of memory and the queue. -/

namespace Sys2Proof.Machine
open Sys2Proof

variable {q : List Instr × Bool}

theorem kept_setRxEn {a0 : State} {a1 : ℕ} {a2 : Bool} (h1 : Kept q a0) : Kept q (State.setRxEn a0 a1 a2) := by
  unfold State.setRxEn
  exact kept_ite (Kept.upd h1) (Kept.upd h1)

theorem kept_synsNotReady {a0 : State} (h1 : Kept q a0) : Kept q (State.synsNotReady a0) := by
  unfold State.synsNotReady
  refine kept_foldl ?_ ?_
  · exact h1
  · intro s1 x3 k2
    exact kept_setSyn k2

theorem kept_setTxEn {a0 : State} {a1 : ℕ} {a2 : Bool} (h1 : Kept q a0) : Kept q (State.setTxEn a0 a1 a2) := by
  unfold State.setTxEn
  exact Kept.upd h1

theorem kept_dropTxEn {a0 : State} {a1 : ℕ} (h1 : Kept q a0) : Kept q (State.dropTxEn a0 a1) := by
  unfold State.dropTxEn
  extract_lets -lift -underBinder -merge -useContext +onlyGivenNames s1
  have k2 : Kept q s1 := by unfold s1; exact kept_setTxEn h1
  clear_value s1
  exact kept_ite (kept_setRxEn k2) k2

theorem kept_startTune {a0 : State} {a1 : ℕ} {a2 : Tune} {a3 : ℕ} (h1 : Kept q a0) : Kept q (State.startTune a0 a1 a2 a3) := by
  unfold State.startTune
  extract_lets -lift -underBinder -merge -useContext +onlyGivenNames s1
  try clear_value s1
  extract_lets -lift -underBinder -merge -useContext +onlyGivenNames s2
  try clear_value s2
  exact kept_ite (kept_setSyn h1) (kept_setSyn h1)

theorem kept_nextTune {a0 : State} {a1 : ℕ} (h1 : Kept q a0) : Kept q (State.nextTune a0 a1) := by
  unfold State.nextTune
  extract_lets -lift -underBinder -merge -useContext +onlyGivenNames s1
  try clear_value s1
  split
  · exact h1
  · exact kept_startTune (kept_setSyn h1)

theorem kept_relockFails {a0 : State} {a1 : ℕ} (h1 : Kept q a0) : Kept q (State.relockFails a0 a1) := by
  unfold State.relockFails
  extract_lets -lift -underBinder -merge -useContext +onlyGivenNames s1
  try clear_value s1
  extract_lets -lift -underBinder -merge -useContext +onlyGivenNames s2
  try clear_value s2
  extract_lets -lift -underBinder -merge -useContext +onlyGivenNames s3
  have k4 : Kept q s3 := by unfold s3; exact kept_setCal h1
  clear_value s3
  extract_lets -lift -underBinder -merge -useContext +onlyGivenNames s5
  have k6 : Kept q s5 := by unfold s5; exact kept_signal (kept_setSyn k4)
  clear_value s5
  exact kept_nextTune (kept_bumpBy k6)

theorem kept_execLockLoss {a0 : Syn} {s : State} (h : Kept q s) : KeptOut q (execLockLoss a0 s) := by
  unfold execLockLoss
  refine kept_act ?_ h
  intro s3 k4
  extract_lets -lift -underBinder -merge -useContext +onlyGivenNames s5
  try clear_value s5
  extract_lets -lift -underBinder -merge -useContext +onlyGivenNames s6
  try clear_value s6
  refine kept_ite ?_ ?_
  · extract_lets -lift -underBinder -merge -useContext +onlyGivenNames s7
    have k8 : Kept q s7 := by unfold s7; exact kept_setSyn k4
    clear_value s7
    extract_lets -lift -underBinder -merge -useContext +onlyGivenNames s9
    have k10 : Kept q s9 := by
      unfold s9
      refine kept_ite ?_ ?_
      · refine kept_foldl ?_ ?_
        · exact kept_cutQuads (kept_countFlight k8)
        · intro s13 x15 k14
          exact kept_dropTxEn k14
      · exact k8
    clear_value s9
    extract_lets -lift -underBinder -merge -useContext +onlyGivenNames s11
    have k12 : Kept q s11 := by unfold s11; exact kept_signal (kept_bump k10)
    clear_value s11
    exact kept_ite (kept_relockFails k12) k12
  · exact k4

theorem kept_tune {a0 : State} {a1 : ℕ} {a2 : Tune} {a3 : ℤ} (h1 : Kept q a0) : Kept q (State.tune a0 a1 a2 a3) := by
  unfold State.tune
  extract_lets -lift -underBinder -merge -useContext +onlyGivenNames s1
  try clear_value s1
  split
  · exact kept_setSyn h1
  · exact kept_startTune h1

theorem kept_arriveLo {a0 : State} {a1 : ℕ} {a2 : Tile} {a3 : Tag} {a4 : Bytes} (h1 : Kept q a0) : Kept q (State.arriveLo a0 a1 a2 a3 a4) := by
  unfold State.arriveLo
  extract_lets -lift -underBinder -merge -useContext +onlyGivenNames s1
  try clear_value s1
  exact kept_arriveIf h1

theorem kept_blankTdSpan {a0 : State} {a1 : TdSpan} (h1 : Kept q a0) : Kept q (State.blankTdSpan a0 a1) := by
  unfold State.blankTdSpan
  exact kept_blankTd (Kept.upd h1)

theorem kept_blankSwitch {a0 : State} {a1 : ℕ} {a2 : ℤ} (h1 : Kept q a0) : Kept q (State.blankSwitch a0 a1 a2) := by
  unfold State.blankSwitch
  extract_lets -lift -underBinder -merge -useContext +onlyGivenNames s1
  have k2 : Kept q s1 := by
    unfold s1
    refine kept_foldl ?_ ?_
    · exact h1
    · intro s6 x8 k7
      exact kept_bump (kept_blankSym k7)
  clear_value s1
  refine kept_foldl ?_ ?_
  · exact k2
  · intro s3 x5 k4
    exact kept_bump (kept_blankTdSpan k4)

theorem kept_execSwitchSpanStart {a0 : Tile} {s : State} (h : Kept q s) : KeptOut q (execSwitchSpanStart a0 s) := by
  unfold execSwitchSpanStart
  refine kept_act ?_ h
  intro s3 k4
  extract_lets -lift -underBinder -merge -useContext +onlyGivenNames s5
  try clear_value s5
  extract_lets -lift -underBinder -merge -useContext +onlyGivenNames s6
  try clear_value s6
  extract_lets -lift -underBinder -merge -useContext +onlyGivenNames s7
  have k8 : Kept q s7 := by unfold s7; exact kept_setLo k4
  clear_value s7
  refine kept_foldl ?_ ?_
  · exact k8
  · intro s9 x11 k10
    exact kept_blankSwitch k10

theorem kept_commitCal {a0 : State} {a1 : Initiator} {a2 : ℕ} {a3 : ℕ} {a4 : BitVec 32} (h1 : Kept q a0) : Kept q (State.commitCal a0 a1 a2 a3 a4) := by
  unfold State.commitCal
  extract_lets -lift -underBinder -merge -useContext +onlyGivenNames s1
  try clear_value s1
  exact kept_ite (kept_error (kept_bump h1)) (kept_done (kept_setCal h1))

theorem kept_execSyncalCommit {a0 : Initiator} {a1 : Syn} {a2 : CalEntry} {a3 : BitVec 32} {s : State} (h : Kept q s) : KeptOut q (execSyncalCommit a0 a1 a2 a3 s) := by
  unfold execSyncalCommit
  exact kept_regAct (fun _ k2 => kept_commitCal k2) h

theorem kept_refuseLo {a0 : State} {a1 : ℕ} {a2 : BitVec 4} {a3 : BitVec 19} {a4 : Bool} (h1 : Kept q a0) : Kept q (State.refuseLo a0 a1 a2 a3 a4) := by
  unfold State.refuseLo
  extract_lets -lift -underBinder -merge -useContext +onlyGivenNames s1
  have k2 : Kept q s1 := by unfold s1; exact kept_refuseSeq (kept_bump h1)
  clear_value s1
  exact kept_ite (kept_signal k2) k2

theorem kept_applyPrep {a0 : State} {a1 : ℕ} {a2 : QItem} (h1 : Kept q a0) : Kept q (State.applyPrep a0 a1 a2) := by
  unfold State.applyPrep
  extract_lets -lift -underBinder -merge -useContext +onlyGivenNames s1
  try clear_value s1
  extract_lets -lift -underBinder -merge -useContext +onlyGivenNames s2
  try clear_value s2
  extract_lets -lift -underBinder -merge -useContext +onlyGivenNames s3
  try clear_value s3
  extract_lets -lift -underBinder -merge -useContext +onlyGivenNames s4
  try clear_value s4
  exact kept_ite (kept_refuseLo h1) (kept_ite (kept_refuseLo h1) (kept_ite (kept_refuseLo h1) (kept_tune h1)))

theorem kept_applyCal {a0 : State} {a1 : ℕ} {a2 : QItem} (h1 : Kept q a0) : Kept q (State.applyCal a0 a1 a2) := by
  unfold State.applyCal
  extract_lets -lift -underBinder -merge -useContext +onlyGivenNames s1
  try clear_value s1
  extract_lets -lift -underBinder -merge -useContext +onlyGivenNames s2
  try clear_value s2
  exact kept_ite (kept_refuseLo h1) (kept_ite (kept_refuseLo h1) (kept_tune h1))

theorem kept_applySwitch {a0 : State} {a1 : ℕ} {a2 : QItem} (h1 : Kept q a0) : Kept q (State.applySwitch a0 a1 a2) := by
  unfold State.applySwitch
  extract_lets -lift -underBinder -merge -useContext +onlyGivenNames s1
  try clear_value s1
  extract_lets -lift -underBinder -merge -useContext +onlyGivenNames s2
  try clear_value s2
  extract_lets -lift -underBinder -merge -useContext +onlyGivenNames s3
  try clear_value s3
  extract_lets -lift -underBinder -merge -useContext +onlyGivenNames s4
  try clear_value s4
  refine kept_ite ?_ ?_
  · exact kept_refuseLo h1
  · extract_lets -lift -underBinder -merge -useContext +onlyGivenNames s5
    have k6 : Kept q s5 := by unfold s5; exact kept_setLo h1
    clear_value s5
    exact kept_ite (kept_setSyn k6) k6

theorem kept_applyLoCtl {a0 : State} {a1 : QItem} (h1 : Kept q a0) : Kept q (State.applyLoCtl a0 a1) := by
  unfold State.applyLoCtl
  extract_lets -lift -underBinder -merge -useContext +onlyGivenNames s1
  try clear_value s1
  split
  · exact kept_applyPrep h1
  · exact kept_applyCal h1
  · exact kept_applySwitch h1

theorem kept_execLoCal {a0 : Tile} {a1 : Tag} {a2 : Bytes} {s : State} (h : Kept q s) : KeptOut q (execLoCal a0 a1 a2 s) := by
  unfold execLoCal
  exact kept_act (fun _ k2 => kept_arriveLo k2) h

theorem kept_retune {a0 : State} {a1 : ℕ} (h1 : Kept q a0) : Kept q (State.retune a0 a1) := by
  unfold State.retune
  extract_lets -lift -underBinder -merge -useContext +onlyGivenNames s1
  try clear_value s1
  split
  · exact kept_startTune (kept_setSyn h1)
  · exact kept_nextTune (kept_setSyn h1)

theorem kept_execCalYield {a0 : Syn} {s : State} (h : Kept q s) : KeptOut q (execCalYield a0 s) := by
  unfold execCalYield
  refine kept_act ?_ h
  intro s3 k4
  extract_lets -lift -underBinder -merge -useContext +onlyGivenNames s5
  try clear_value s5
  refine kept_ite ?_ ?_
  · extract_lets -lift -underBinder -merge -useContext +onlyGivenNames s6
    have k7 : Kept q s6 := by unfold s6; exact kept_bump k4
    clear_value s6
    exact kept_ite (kept_retune k7) (kept_nextTune (kept_setSyn k7))
  · exact k4

theorem kept_blankAt {a0 : State} {a1 : ℕ} {a2 : ℕ} {a3 : Air} {a4 : List ℕ} {a5 : List ℕ} (h1 : Kept q a0) : Kept q (State.blankAt a0 a1 a2 a3 a4 a5) := by
  unfold State.blankAt
  extract_lets -lift -underBinder -merge -useContext +onlyGivenNames s1
  try clear_value s1
  extract_lets -lift -underBinder -merge -useContext +onlyGivenNames s2
  have k3 : Kept q s2 := by unfold s2; exact kept_ite (kept_blankSym h1) h1
  clear_value s2
  extract_lets -lift -underBinder -merge -useContext +onlyGivenNames s4
  have k5 : Kept q s4 := by
    unfold s4
    refine kept_foldl ?_ ?_
    · exact k3
    · intro s12 x14 k13
      exact kept_blankTdSpan k13
  clear_value s4
  refine kept_foldl ?_ ?_
  · refine kept_foldl ?_ ?_
    · exact k5
    · intro s9 x11 k10
      exact kept_bumpBy k10
  · intro s6 x8 k7
    exact kept_signalAll k7

theorem kept_execTxReadinessTest {a0 : Tile} {a1 : Carrier} {a2 : Air} {s : State} (h : Kept q s) : KeptOut q (execTxReadinessTest a0 a1 a2 s) := by
  unfold execTxReadinessTest
  refine kept_act ?_ h
  intro s3 k4
  refine kept_ite ?_ ?_
  · exact k4
  · extract_lets -lift -underBinder -merge -useContext +onlyGivenNames s5
    try clear_value s5
    refine kept_ite ?_ ?_
    · exact kept_ite k4 (kept_blankAt k4)
    · refine kept_ite ?_ ?_
      · exact kept_blankAt k4
      · split
        · extract_lets -lift -underBinder -merge -useContext +onlyGivenNames s7
          try clear_value s7
          exact kept_ite k4 (kept_blankAt k4)
        · exact k4

theorem kept_execPrepComplete {a0 : Syn} {s : State} (h : Kept q s) : KeptOut q (execPrepComplete a0 s) := by
  unfold execPrepComplete
  refine kept_act ?_ h
  intro s3 k4
  extract_lets -lift -underBinder -merge -useContext +onlyGivenNames s5
  try clear_value s5
  exact kept_ite (kept_nextTune (kept_setSyn k4)) k4

theorem kept_execLoSwitch {a0 : Tile} {a1 : Tag} {a2 : Bytes} {s : State} (h : Kept q s) : KeptOut q (execLoSwitch a0 a1 a2 s) := by
  unfold execLoSwitch
  exact kept_act (fun _ k2 => kept_arriveLo k2) h

theorem kept_execRelockFailure {a0 : Syn} {s : State} (h : Kept q s) : KeptOut q (execRelockFailure a0 s) := by
  unfold execRelockFailure
  exact kept_act (fun _ k2 => kept_ite (kept_relockFails k2) k2) h

theorem kept_execLoPrep {a0 : Tile} {a1 : Tag} {a2 : Bytes} {s : State} (h : Kept q s) : KeptOut q (execLoPrep a0 a1 a2 s) := by
  unfold execLoPrep
  exact kept_act (fun _ k2 => kept_arriveLo k2) h

theorem kept_execCalComplete {a0 : Syn} {a1 : CalResult} {s : State} (h : Kept q s) : KeptOut q (execCalComplete a0 a1 s) := by
  unfold execCalComplete
  refine kept_act ?_ h
  intro s3 k4
  extract_lets -lift -underBinder -merge -useContext +onlyGivenNames s5
  try clear_value s5
  split
  · refine kept_ite ?_ ?_
    · refine kept_ite ?_ ?_
      · exact kept_retune (kept_signal (kept_setSyn k4))
      · refine kept_ite ?_ ?_
        · exact kept_retune (kept_bump k4)
        · extract_lets -lift -underBinder -merge -useContext +onlyGivenNames s7
          have k8 : Kept q s7 := by unfold s7; exact kept_setSyn (kept_setCal k4)
          clear_value s7
          exact kept_ite (kept_signal k8) k8
    · exact k4
  · exact k4

theorem kept_execRegulatoryReadFailure {s : State} (h : Kept q s) : KeptOut q (execRegulatoryReadFailure s) := by
  unfold execRegulatoryReadFailure
  refine kept_act ?_ h
  intro s3 k4
  split
  · exact k4
  · extract_lets -lift -underBinder -merge -useContext +onlyGivenNames s7
    have k8 : Kept q s7 := by
      unfold s7
      refine kept_foldl ?_ ?_
      · exact k4
      · intro s9 x11 k10
        exact kept_ite k10 (kept_setSyn k10)
    clear_value s7
    exact kept_regWatch (Kept.upd k8)

end Sys2Proof.Machine
end

