-- ==== Sys2Proof/Laws/KeptFrontEnd.lean ====
section
/-! SUPPORT. The operations of Machine/FrontEnd.lean keep the form of memory and the queue. -/

namespace Sys2Proof.Machine
open Sys2Proof

variable {q : List Instr × Bool}

theorem kept_setGroups {a0 : State} {a1 : ℕ} {a2 : List RffeGroup} (h1 : Kept q a0) : Kept q (State.setGroups a0 a1 a2) := by
  unfold State.setGroups
  exact Kept.upd h1

theorem kept_writeRffecmd {a0 : State} {a1 : Initiator} {a2 : ℕ} {a3 : BitVec 64} (h1 : Kept q a0) : Kept q (State.writeRffecmd a0 a1 a2 a3) := by
  unfold State.writeRffecmd
  refine kept_ite ?_ ?_
  · exact kept_error h1
  · extract_lets -lift -underBinder -merge -useContext +onlyGivenNames s1
    have k2 : Kept q s1 := by unfold s1; exact kept_done h1
    clear_value s1
    refine kept_ite ?_ ?_
    · extract_lets -lift -underBinder -merge -useContext +onlyGivenNames s3
      have k4 : Kept q s3 := by unfold s3; exact kept_setReg k2
      clear_value s3
      exact Kept.upd k4
    · exact kept_signal (kept_bump k2)

theorem kept_writeMute {a0 : State} {a1 : Initiator} {a2 : ℕ} {a3 : BitVec 64} (h1 : Kept q a0) : Kept q (State.writeMute a0 a1 a2 a3) := by
  unfold State.writeMute
  refine kept_ite ?_ ?_
  · exact kept_error h1
  · refine kept_foldl ?_ ?_
    · exact kept_done h1
    · intro s1 x3 k2
      exact Kept.upd k2

theorem kept_applyFeCtl {a0 : State} {a1 : QItem} (h1 : Kept q a0) : Kept q (State.applyFeCtl a0 a1) := by
  unfold State.applyFeCtl
  extract_lets -lift -underBinder -merge -useContext +onlyGivenNames s1
  try clear_value s1
  refine kept_foldl ?_ ?_
  · exact h1
  · intro s2 x4 k3
    extract_lets -lift -underBinder -merge -useContext +onlyGivenNames s5
    try clear_value s5
    extract_lets -lift -underBinder -merge -useContext +onlyGivenNames s6
    have k7 : Kept q s6 := by unfold s6; exact kept_ite (Kept.upd k3) k3
    clear_value s6
    refine kept_ite ?_ ?_
    · refine kept_ite ?_ ?_
      · exact kept_bump k7
      · extract_lets -lift -underBinder -merge -useContext +onlyGivenNames s8
        try clear_value s8
        extract_lets -lift -underBinder -merge -useContext +onlyGivenNames s9
        have k10 : Kept q s9 := by unfold s9; exact Kept.upd k7
        clear_value s9
        exact kept_ite (kept_dropTxEn k10) k10
    · exact k7

theorem kept_coxFall {a0 : State} (h1 : Kept q a0) : Kept q (State.coxFall a0) := by
  unfold State.coxFall
  refine kept_foldl ?_ ?_
  · exact h1
  · intro s1 x3 k2
    extract_lets -lift -underBinder -merge -useContext +onlyGivenNames s4
    try clear_value s4
    exact kept_ite (Kept.upd k2) k2

theorem kept_skipBad {a0 : State} {a1 : ℕ} {a2 : List (BitVec 64)} (h1 : Kept q a0) : Kept q (State.skipBad a0 a1 a2).1 := by
  unfold State.skipBad
  extract_lets -lift -underBinder -merge -useContext +onlyGivenNames s1
  try clear_value s1
  extract_lets -lift -underBinder -merge -useContext +onlyGivenNames s2
  try clear_value s2
  exact kept_ite h1 (kept_signal (kept_bumpBy h1))

theorem kept_missGroup {a0 : State} {a1 : ℕ} (h1 : Kept q a0) : Kept q (State.missGroup a0 a1) := by
  unfold State.missGroup
  exact kept_signal (kept_bump h1)

theorem kept_sendFrames {a0 : State} {a1 : ℕ} {a2 : RffeGroup} (h1 : Kept q a0) : Kept q (State.sendFrames a0 a1 a2).1 := by
  unfold State.sendFrames
  refine kept_ite_p1 ?_ ?_
  · exact h1
  · dsimp only
    refine kept_foldl ?_ ?_
    · exact h1
    · intro s1 x3 k2
      exact kept_emitOut k2

theorem kept_sendBus {a0 : State} {a1 : ℕ} (h1 : Kept q a0) : Kept q (State.sendBus a0 a1) := by
  unfold State.sendBus
  refine kept_ite ?_ ?_
  · exact h1
  · split
    · rename_i y1 y3 e4
      have k2 : Kept q y1 := kept_p1 e4 (by
          refine foldl_keeps (P := fun (p : State × _) => Kept q p.1) ?_ ?_
          · exact h1
          · intro s5 x7 k6
            beta_reduce
            split
            · rename_i y8 y10 e11
              have k9 : Kept q y8 := kept_p1 e11 (kept_sendFrames k6)
              exact k9
          )
      exact kept_setGroups k2

theorem kept_safetySeq {a0 : State} {a1 : ℕ} {a2 : Bool} (h1 : Kept q a0) : Kept q (State.safetySeq a0 a1 a2) := by
  unfold State.safetySeq
  extract_lets -lift -underBinder -merge -useContext +onlyGivenNames s1
  try clear_value s1
  extract_lets -lift -underBinder -merge -useContext +onlyGivenNames s2
  try clear_value s2
  extract_lets -lift -underBinder -merge -useContext +onlyGivenNames s3
  try clear_value s3
  split
  · rename_i y4 y6 e7
    have k5 : Kept q y4 := kept_p1 e7 (kept_skipBad h1)
    refine kept_ite ?_ ?_
    · exact k5
    · extract_lets -lift -underBinder -merge -useContext +onlyGivenNames s8
      try clear_value s8
      extract_lets -lift -underBinder -merge -useContext +onlyGivenNames s9
      try clear_value s9
      extract_lets -lift -underBinder -merge -useContext +onlyGivenNames s10
      try clear_value s10
      extract_lets -lift -underBinder -merge -useContext +onlyGivenNames s11
      try clear_value s11
      extract_lets -lift -underBinder -merge -useContext +onlyGivenNames s12
      try clear_value s12
      extract_lets -lift -underBinder -merge -useContext +onlyGivenNames s13
      have k14 : Kept q s13 := by
        unfold s13
        refine kept_foldl ?_ ?_
        · exact k5
        · intro s15 x17 k16
          exact kept_missGroup k16
      clear_value s13
      exact kept_sendBus (kept_setGroups k14)

theorem kept_execRfSafeNFall {s : State} (h : Kept q s) : KeptOut q (execRfSafeNFall s) := by
  unfold execRfSafeNFall
  refine kept_act ?_ h
  intro s3 k4
  refine kept_ite ?_ ?_
  · exact k4
  · extract_lets -lift -underBinder -merge -useContext +onlyGivenNames s5
    have k6 : Kept q s5 := by
      unfold s5
      refine kept_cutQuads ?_
      · refine kept_foldl ?_ ?_
        · exact k4
        · intro s18 x20 k19
          exact kept_countFlight k19
    clear_value s5
    extract_lets -lift -underBinder -merge -useContext +onlyGivenNames s7
    try clear_value s7
    extract_lets -lift -underBinder -merge -useContext +onlyGivenNames s8
    have k9 : Kept q s8 := by unfold s8; exact kept_signal (Kept.upd k6)
    clear_value s8
    extract_lets -lift -underBinder -merge -useContext +onlyGivenNames s10
    have k11 : Kept q s10 := by
      unfold s10
      refine kept_foldl ?_ ?_
      · exact k9
      · intro s15 x17 k16
        exact kept_dropTxEn k16
    clear_value s10
    refine kept_coxFall ?_
    · refine kept_foldl ?_ ?_
      · exact k11
      · intro s12 x14 k13
        exact kept_safetySeq k13

theorem kept_mutePath {a0 : State} {a1 : ℕ} (h1 : Kept q a0) : Kept q (State.mutePath a0 a1) := by
  unfold State.mutePath
  extract_lets -lift -underBinder -merge -useContext +onlyGivenNames s1
  try clear_value s1
  extract_lets -lift -underBinder -merge -useContext +onlyGivenNames s2
  try clear_value s2
  extract_lets -lift -underBinder -merge -useContext +onlyGivenNames s3
  have k4 : Kept q s3 := by unfold s3; exact kept_signal (Kept.upd h1)
  clear_value s3
  exact kept_ite (kept_safetySeq k4) k4

theorem kept_execDutyLimitReached {a0 : Path} {s : State} (h : Kept q s) : KeptOut q (execDutyLimitReached a0 s) := by
  unfold execDutyLimitReached
  refine kept_act ?_ h
  intro s3 k4
  split
  · exact k4
  · exact kept_ite (kept_signal (kept_signal (Kept.upd k4))) k4

theorem kept_placeGroup {a0 : State} {a1 : ℕ} {a2 : ℤ} {a3 : List (BitVec 64)} {a4 : Tag} (h1 : Kept q a0) : Kept q (State.placeGroup a0 a1 a2 a3 a4).1 := by
  unfold State.placeGroup
  extract_lets -lift -underBinder -merge -useContext +onlyGivenNames s1
  try clear_value s1
  split
  · rename_i y2 y4 e5
    have k3 : Kept q y2 := kept_p1 e5 (kept_skipBad h1)
    extract_lets -lift -underBinder -merge -useContext +onlyGivenNames s6
    try clear_value s6
    extract_lets -lift -underBinder -merge -useContext +onlyGivenNames s7
    try clear_value s7
    extract_lets -lift -underBinder -merge -useContext +onlyGivenNames s8
    try clear_value s8
    extract_lets -lift -underBinder -merge -useContext +onlyGivenNames s9
    try clear_value s9
    exact kept_ite_p1 k3 (kept_ite_p1 (kept_missGroup k3) (kept_setGroups k3))

theorem kept_scheduleFe {a0 : State} {a1 : QItem} (h1 : Kept q a0) : Kept q (State.scheduleFe a0 a1) := by
  unfold State.scheduleFe
  extract_lets -lift -underBinder -merge -useContext +onlyGivenNames s1
  try clear_value s1
  extract_lets -lift -underBinder -merge -useContext +onlyGivenNames s2
  try clear_value s2
  extract_lets -lift -underBinder -merge -useContext +onlyGivenNames s3
  try clear_value s3
  extract_lets -lift -underBinder -merge -useContext +onlyGivenNames s4
  try clear_value s4
  extract_lets -lift -underBinder -merge -useContext +onlyGivenNames s5
  try clear_value s5
  extract_lets -lift -underBinder -merge -useContext +onlyGivenNames s6
  have k7 : Kept q s6 := by unfold s6; exact Kept.upd h1
  clear_value s6
  extract_lets -lift -underBinder -merge -useContext +onlyGivenNames s8
  have k9 : Kept q s8 := by
    unfold s8
    refine kept_ite ?_ ?_
    · refine kept_foldl ?_ ?_
      · exact k7
      · intro s10 x12 k11
        split
        · exact kept_placeGroup k11
        · exact k11
    · exact k7
  clear_value s8
  exact kept_ite (kept_placeGroup k9) k9

theorem kept_arriveFe {a0 : State} {a1 : ℕ} {a2 : Tile} {a3 : Tag} {a4 : Bytes} (h1 : Kept q a0) : Kept q (State.arriveFe a0 a1 a2 a3 a4) := by
  unfold State.arriveFe
  extract_lets -lift -underBinder -merge -useContext +onlyGivenNames s1
  try clear_value s1
  refine kept_arrive h1 ?_
  · intro s8 s9 k10
    split
    · rename_i y11 y13 e14
      have k12 : Kept q y11 := kept_p1 e14 (kept_placeCtl k10)
      exact kept_scheduleFe (kept_enqueue k12)
    · rename_i y15 e17
      have k16 : Kept q y15 := kept_p1 e17 (kept_placeCtl k10)
      exact k16

theorem kept_execRffeGroup {a0 : Tile} {a1 : Tag} {a2 : Bytes} {s : State} (h : Kept q s) : KeptOut q (execRffeGroup a0 a1 a2 s) := by
  unfold execRffeGroup
  exact kept_act (fun _ k2 => kept_arriveFe k2) h

theorem kept_execRfSafeNRise {s : State} (h : Kept q s) : KeptOut q (execRfSafeNRise s) := by
  unfold execRfSafeNRise
  exact kept_act (fun _ k2 => kept_ite k2 (Kept.upd k2)) h

theorem kept_rffeTick {a0 : State} (h1 : Kept q a0) : Kept q (State.rffeTick a0) := by
  unfold State.rffeTick
  refine kept_foldl ?_ ?_
  · exact h1
  · intro s1 x3 k2
    exact kept_sendBus k2

theorem kept_dutyTick {a0 : State} (h1 : Kept q a0) : Kept q (State.dutyTick a0) := by
  unfold State.dutyTick
  extract_lets -lift -underBinder -merge -useContext +onlyGivenNames s1
  try clear_value s1
  exact Kept.upd h1

theorem kept_blankQuad {a0 : State} {a1 : ℕ} {a2 : Air} (h1 : Kept q a0) : Kept q (State.blankQuad a0 a1 a2) := by
  unfold State.blankQuad
  exact Kept.upd h1

theorem kept_execFeTxenOff {a0 : Quad} {s : State} (h : Kept q s) : KeptOut q (execFeTxenOff a0 s) := by
  unfold execFeTxenOff
  refine kept_act ?_ h
  intro s3 k4
  extract_lets -lift -underBinder -merge -useContext +onlyGivenNames s5
  try clear_value s5
  exact kept_ite (kept_coxFall (kept_dropTxEn k4)) (kept_coxFall k4)

theorem kept_execFeTune {a0 : Tile} {a1 : Tag} {a2 : Bytes} {s : State} (h : Kept q s) : KeptOut q (execFeTune a0 a1 a2 s) := by
  unfold execFeTune
  exact kept_act (fun _ k2 => kept_arriveFe k2) h

theorem kept_execPathPowerDown {a0 : Path} {a1 : Bool} {s : State} (h : Kept q s) : KeptOut q (execPathPowerDown a0 a1 s) := by
  unfold execPathPowerDown
  refine kept_act ?_ h
  intro s3 k4
  refine kept_ite ?_ ?_
  · exact kept_ite (kept_safetySeq (Kept.upd k4)) k4
  · extract_lets -lift -underBinder -merge -useContext +onlyGivenNames s5
    try clear_value s5
    extract_lets -lift -underBinder -merge -useContext +onlyGivenNames s6
    try clear_value s6
    exact kept_ite (kept_safetySeq (Kept.upd k4)) k4

theorem kept_execFeLbrel {a0 : Tile} {a1 : Tag} {a2 : Bytes} {s : State} (h : Kept q s) : KeptOut q (execFeLbrel a0 a1 a2 s) := by
  unfold execFeLbrel
  exact kept_act (fun _ k2 => kept_arriveFe k2) h

theorem kept_roundGain {a0 : State} {a1 : ℕ} (h1 : Kept q a0) : Kept q (State.roundGain a0 a1).2 := by
  unfold State.roundGain
  split
  · rename_i y1 y2 e4
    have k3 : Kept q y2 := kept_p2 e4 (kept_draw h1)
    exact k3

theorem kept_setLim {a0 : State} {a1 : ℕ} {a2 : LimSt} (h1 : Kept q a0) : Kept q (State.setLim a0 a1 a2) := by
  unfold State.setLim
  exact Kept.upd h1

theorem kept_execLimiterGainRise {a0 : Path} {s : State} (h : Kept q s) : KeptOut q (execLimiterGainRise a0 s) := by
  unfold execLimiterGainRise
  refine kept_act ?_ h
  intro s3 k4
  extract_lets -lift -underBinder -merge -useContext +onlyGivenNames s5
  try clear_value s5
  refine kept_ite ?_ ?_
  · split
    · rename_i y6 y7 e9
      have k8 : Kept q y7 := kept_p2 e9 (kept_ite_p2 k4 (kept_roundGain k4))
      split
      · rename_i y10 y11 e13
        have k12 : Kept q y11 := kept_p2 e13 (kept_ite_p2 k8 (kept_roundGain k8))
        exact kept_setLim k12
  · exact k4

theorem kept_blankHeld {a0 : State} {a1 : ℕ} {a2 : Air} (h1 : Kept q a0) : Kept q (State.blankHeld a0 a1 a2) := by
  unfold State.blankHeld
  extract_lets -lift -underBinder -merge -useContext +onlyGivenNames s1
  try clear_value s1
  extract_lets -lift -underBinder -merge -useContext +onlyGivenNames s2
  have k3 : Kept q s2 := by
    unfold s2
    refine kept_foldl ?_ ?_
    · exact kept_blankQuad h1
    · intro s7 x9 k8
      exact kept_blankBy k8
  clear_value s2
  refine kept_foldl ?_ ?_
  · exact k3
  · intro s4 x6 k5
    exact kept_blankTd k5

theorem kept_execFeTxenOn {a0 : Quad} {a1 : Air} {a2 : BitVec 4} {s : State} (h : Kept q s) : KeptOut q (execFeTxenOn a0 a1 a2 s) := by
  unfold execFeTxenOn
  refine kept_act ?_ h
  intro s3 k4
  extract_lets -lift -underBinder -merge -useContext +onlyGivenNames s5
  try clear_value s5
  extract_lets -lift -underBinder -merge -useContext +onlyGivenNames s6
  try clear_value s6
  refine kept_ite ?_ ?_
  · exact k4
  · refine kept_ite ?_ ?_
    · exact kept_blankHeld k4
    · extract_lets -lift -underBinder -merge -useContext +onlyGivenNames s7
      try clear_value s7
      refine kept_ite ?_ ?_
      · refine kept_signal ?_
        · refine kept_foldl ?_ ?_
          · exact kept_blankQuad k4
          · intro s8 x10 k9
            exact kept_bump k9
      · refine kept_ite ?_ ?_
        · exact k4
        · extract_lets -lift -underBinder -merge -useContext +onlyGivenNames s11
          have k12 : Kept q s11 := by unfold s11; exact kept_setTxEn k4
          clear_value s11
          exact kept_ite (kept_bump (kept_setRxEn k12)) k12

theorem kept_execFeRffecmd {a0 : Initiator} {a1 : Tile} {a2 : BitVec 64} {s : State} (h : Kept q s) : KeptOut q (execFeRffecmd a0 a1 a2 s) := by
  unfold execFeRffecmd
  exact kept_unitAct (fun _ k2 => kept_writeRffecmd k2) h

theorem kept_execMutedPathResume {a0 : Path} {s : State} (h : Kept q s) : KeptOut q (execMutedPathResume a0 s) := by
  unfold execMutedPathResume
  refine kept_act ?_ h
  intro s3 k4
  split
  · exact kept_ite (Kept.upd k4) k4
  · exact k4

theorem kept_execRffecmdRun {a0 : Tile} {a1 : BitVec 8} {a2 : Bool} {s : State} (h : Kept q s) : KeptOut q (execRffecmdRun a0 a1 a2 s) := by
  unfold execRffecmdRun
  refine kept_act ?_ h
  intro s3 k4
  split
  · exact k4
  · extract_lets -lift -underBinder -merge -useContext +onlyGivenNames s8
    try clear_value s8
    extract_lets -lift -underBinder -merge -useContext +onlyGivenNames s9
    try clear_value s9
    refine kept_ite ?_ ?_
    · exact k4
    · extract_lets -lift -underBinder -merge -useContext +onlyGivenNames s10
      try clear_value s10
      extract_lets -lift -underBinder -merge -useContext +onlyGivenNames s11
      have k12 : Kept q s11 := by unfold s11; exact Kept.upd k4
      clear_value s11
      extract_lets -lift -underBinder -merge -useContext +onlyGivenNames s13
      try clear_value s13
      extract_lets -lift -underBinder -merge -useContext +onlyGivenNames s14
      try clear_value s14
      extract_lets -lift -underBinder -merge -useContext +onlyGivenNames s15
      have k16 : Kept q s15 := by unfold s15; exact kept_sendBus (kept_setGroups k12)
      clear_value s15
      extract_lets -lift -underBinder -merge -useContext +onlyGivenNames s17
      try clear_value s17
      extract_lets -lift -underBinder -merge -useContext +onlyGivenNames s18
      have k19 : Kept q s18 := by unfold s18; exact kept_setReg k16
      clear_value s18
      exact kept_ite (kept_signal k19) k19

theorem kept_execDutyWindowStart {s : State} (h : Kept q s) : KeptOut q (execDutyWindowStart s) := by
  unfold execDutyWindowStart
  refine kept_act ?_ h
  intro s3 k4
  extract_lets -lift -underBinder -merge -useContext +onlyGivenNames s5
  try clear_value s5
  exact kept_ite (Kept.upd k4) k4

theorem kept_execLoopbackReleaseByTraffic {a0 : Quad} {s : State} (h : Kept q s) : KeptOut q (execLoopbackReleaseByTraffic a0 s) := by
  unfold execLoopbackReleaseByTraffic
  refine kept_act ?_ h
  intro s3 k4
  refine kept_ite ?_ ?_
  · split
    · exact kept_ite (kept_bump (Kept.upd k4)) k4
    · exact k4
  · exact k4

theorem kept_execFeRxcal {a0 : Tile} {a1 : Tag} {a2 : Bytes} {s : State} (h : Kept q s) : KeptOut q (execFeRxcal a0 a1 a2 s) := by
  unfold execFeRxcal
  exact kept_act (fun _ k2 => kept_arriveFe k2) h

theorem kept_execRfSafeResume {a0 : Quad} {s : State} (h : Kept q s) : KeptOut q (execRfSafeResume a0 s) := by
  unfold execRfSafeResume
  exact kept_act (fun _ k2 => kept_ite (Kept.upd k2) k2) h

theorem kept_denyRx {a0 : State} {a1 : ℕ} {a2 : Bool} (h1 : Kept q a0) : Kept q (State.denyRx a0 a1 a2) := by
  unfold State.denyRx
  exact Kept.upd h1

theorem kept_execFeRxenSwitch {a0 : Quad} {a1 : BitVec 4} {s : State} (h : Kept q s) : KeptOut q (execFeRxenSwitch a0 a1 s) := by
  unfold execFeRxenSwitch
  refine kept_act ?_ h
  intro s3 k4
  split
  · exact k4
  · extract_lets -lift -underBinder -merge -useContext +onlyGivenNames s7
    try clear_value s7
    extract_lets -lift -underBinder -merge -useContext +onlyGivenNames s8
    have k9 : Kept q s8 := by unfold s8; exact Kept.upd k4
    clear_value s8
    refine kept_ite ?_ ?_
    · exact kept_coxFall (kept_setRxEn (kept_denyRx (Kept.upd k9)))
    · extract_lets -lift -underBinder -merge -useContext +onlyGivenNames s10
      try clear_value s10
      refine kept_ite ?_ ?_
      · refine kept_signal ?_
        · refine kept_denyRx ?_
          · refine kept_foldl ?_ ?_
            · exact k9
            · intro s11 x13 k12
              exact kept_bump k12
      · extract_lets -lift -underBinder -merge -useContext +onlyGivenNames s14
        have k15 : Kept q s14 := by unfold s14; exact kept_denyRx k9
        clear_value s14
        extract_lets -lift -underBinder -merge -useContext +onlyGivenNames s16
        try clear_value s16
        extract_lets -lift -underBinder -merge -useContext +onlyGivenNames s17
        have k18 : Kept q s17 := by unfold s17; exact Kept.upd k15
        clear_value s17
        exact kept_ite (kept_bump k18) (kept_setRxEn k18)

theorem kept_execCoxGrantWithdrawn {a0 : Cox} {s : State} (h : Kept q s) : KeptOut q (execCoxGrantWithdrawn a0 s) := by
  unfold execCoxGrantWithdrawn
  refine kept_act ?_ h
  intro s3 k4
  extract_lets -lift -underBinder -merge -useContext +onlyGivenNames s5
  try clear_value s5
  extract_lets -lift -underBinder -merge -useContext +onlyGivenNames s6
  try clear_value s6
  extract_lets -lift -underBinder -merge -useContext +onlyGivenNames s7
  try clear_value s7
  refine kept_ite ?_ ?_
  · extract_lets -lift -underBinder -merge -useContext +onlyGivenNames s8
    have k9 : Kept q s8 := by
      unfold s8
      refine kept_foldl ?_ ?_
      · exact kept_cutQuads k4
      · intro s10 x12 k11
        exact kept_setRxEn (kept_denyRx k11)
    clear_value s8
    exact kept_coxFall (kept_signal (kept_bump k9))
  · exact k4

theorem kept_limSet {a0 : State} {a1 : ℕ} {a2 : LimSt} (h1 : Kept q a0) : Kept q (State.limSet a0 a1 a2) := by
  unfold State.limSet
  extract_lets -lift -underBinder -merge -useContext +onlyGivenNames s1
  try clear_value s1
  extract_lets -lift -underBinder -merge -useContext +onlyGivenNames s2
  have k3 : Kept q s2 := by unfold s2; exact kept_setLim h1
  clear_value s2
  exact kept_ite (kept_signal (kept_bump k3)) k3

theorem kept_execFeMuteRelease {a0 : Initiator} {a1 : Tile} {a2 : BitVec 64} {s : State} (h : Kept q s) : KeptOut q (execFeMuteRelease a0 a1 a2 s) := by
  unfold execFeMuteRelease
  exact kept_unitAct (fun _ k2 => kept_writeMute k2) h

theorem kept_execCoxRequestRise {a0 : Cox} {a1 : Bool} {s : State} (h : Kept q s) : KeptOut q (execCoxRequestRise a0 a1 s) := by
  unfold execCoxRequestRise
  refine kept_act ?_ h
  intro s3 k4
  split
  · exact kept_ite (Kept.upd k4) k4
  · exact k4

theorem kept_execRffeGroupStart {a0 : Bus} {s : State} (h : Kept q s) : KeptOut q (execRffeGroupStart a0 s) := by
  unfold execRffeGroupStart
  refine kept_act ?_ h
  intro s3 k4
  split
  · exact k4
  · exact kept_sendBus (kept_setGroups k4)

theorem kept_execFeLoopback {a0 : Tile} {a1 : Tag} {a2 : Bytes} {s : State} (h : Kept q s) : KeptOut q (execFeLoopback a0 a1 a2 s) := by
  unfold execFeLoopback
  exact kept_act (fun _ k2 => kept_arriveFe k2) h

theorem kept_execFeRxon {a0 : Tile} {a1 : Tag} {a2 : Bytes} {s : State} (h : Kept q s) : KeptOut q (execFeRxon a0 a1 a2 s) := by
  unfold execFeRxon
  exact kept_act (fun _ k2 => kept_arriveFe k2) h

theorem kept_execFeRxoff {a0 : Tile} {a1 : Tag} {a2 : Bytes} {s : State} (h : Kept q s) : KeptOut q (execFeRxoff a0 a1 a2 s) := by
  unfold execFeRxoff
  exact kept_act (fun _ k2 => kept_arriveFe k2) h

end Sys2Proof.Machine
end

