-- ==== Sys2Proof/Laws/KeptTxChain.lean ====
section
/-! SUPPORT. The operations of Machine/TxChain.lean keep the form of memory and the queue. -/

namespace Sys2Proof.Machine
open Sys2Proof

variable {q : List Instr × Bool}

theorem kept_countBadUses {a0 : State} {a1 : ℕ} (h1 : Kept q a0) : Kept q (State.countBadUses a0 a1) := by
  unfold State.countBadUses
  exact kept_ite h1 (kept_signalAll (kept_bumpBy h1))

theorem kept_transformSyms {a0 : State} (h1 : Kept q a0) : Kept q (State.transformSyms a0) := by
  unfold State.transformSyms
  extract_lets -lift -underBinder -merge -useContext +onlyGivenNames s1
  try clear_value s1
  extract_lets -lift -underBinder -merge -useContext +onlyGivenNames s2
  try clear_value s2
  exact kept_bumpBy (Kept.upd h1)

theorem kept_keepSym {a0 : State} {a1 : TxSym} (h1 : Kept q a0) : Kept q (State.keepSym a0 a1) := by
  unfold State.keepSym
  extract_lets -lift -underBinder -merge -useContext +onlyGivenNames s1
  try clear_value s1
  exact Kept.upd h1

theorem kept_judgeSym {a0 : State} {a1 : ℕ} {a2 : Air} (h1 : Kept q a0) : Kept q (State.judgeSym a0 a1 a2) := by
  unfold State.judgeSym
  extract_lets -lift -underBinder -merge -useContext +onlyGivenNames s1
  try clear_value s1
  extract_lets -lift -underBinder -merge -useContext +onlyGivenNames s2
  try clear_value s2
  extract_lets -lift -underBinder -merge -useContext +onlyGivenNames s3
  try clear_value s3
  extract_lets -lift -underBinder -merge -useContext +onlyGivenNames s4
  try clear_value s4
  extract_lets -lift -underBinder -merge -useContext +onlyGivenNames s5
  try clear_value s5
  extract_lets -lift -underBinder -merge -useContext +onlyGivenNames s6
  try clear_value s6
  extract_lets -lift -underBinder -merge -useContext +onlyGivenNames s7
  try clear_value s7
  extract_lets -lift -underBinder -merge -useContext +onlyGivenNames s8
  try clear_value s8
  extract_lets -lift -underBinder -merge -useContext +onlyGivenNames s9
  have k10 : Kept q s9 := by unfold s9; exact Kept.upd h1
  clear_value s9
  extract_lets -lift -underBinder -merge -useContext +onlyGivenNames s11
  have k12 : Kept q s11 := by unfold s11; exact kept_bumpBy (kept_bumpBy (kept_bumpBy k10))
  clear_value s11
  exact kept_ite k12 (kept_ite (kept_keepSym (kept_countBadUses k12)) (kept_blankSym k12))

theorem kept_execMissingDataDeadline {a0 : Carrier} {a1 : Air} {s : State} (h : Kept q s) : KeptOut q (execMissingDataDeadline a0 a1 s) := by
  unfold execMissingDataDeadline
  refine kept_act ?_ h
  intro s3 k4
  extract_lets -lift -underBinder -merge -useContext +onlyGivenNames s5
  try clear_value s5
  exact kept_ite k4 (kept_judgeSym k4)

theorem kept_reform {a0 : State} {a1 : State} {a2 : ℤ} (h1 : Kept q a0) (h2 : Kept q a1) : Kept q (State.reform a0 a1 a2) := by
  unfold State.reform
  extract_lets -lift -underBinder -merge -useContext +onlyGivenNames s1
  try clear_value s1
  extract_lets -lift -underBinder -merge -useContext +onlyGivenNames s2
  try clear_value s2
  extract_lets -lift -underBinder -merge -useContext +onlyGivenNames s3
  try clear_value s3
  exact kept_countBadUses (Kept.upd h1)

theorem kept_execBankLive {a0 : Dir} {a1 : Region} {s : State} (h : Kept q s) : KeptOut q (execBankLive a0 a1 s) := by
  unfold execBankLive
  refine kept_act ?_ h
  intro s3 k4
  split
  · exact k4
  · extract_lets -lift -underBinder -merge -useContext +onlyGivenNames s7
    try clear_value s7
    exact kept_ite k4 (kept_ite (kept_reform (kept_goLive k4) k4) (kept_goLive k4))

end Sys2Proof.Machine
end

