-- ==== Sys2Proof/Laws/KeptPredist.lean ====
section
/-! SUPPORT. The operations of Machine/Predist.lean keep the form of memory and the queue. -/

namespace Sys2Proof.Machine
open Sys2Proof

variable {q : List Instr × Bool}

theorem kept_execLimiterWindow {a0 : Path} {s : State} (h : Kept q s) : KeptOut q (execLimiterWindow a0 s) := by
  unfold execLimiterWindow
  refine kept_act ?_ h
  intro s3 k4
  split
  · exact k4
  · extract_lets -lift -underBinder -merge -useContext +onlyGivenNames s7
    try clear_value s7
    extract_lets -lift -underBinder -merge -useContext +onlyGivenNames s8
    try clear_value s8
    refine kept_ite ?_ ?_
    · split
      · rename_i y9 y10 e12
        have k11 : Kept q y10 := kept_p2 e12 (kept_roundGain k4)
        exact kept_limSet k11
    · exact k4

theorem kept_execLimiterLevelExchange {a0 : Tile} {s : State} (h : Kept q s) : KeptOut q (execLimiterLevelExchange a0 s) := by
  unfold execLimiterLevelExchange
  refine kept_act ?_ h
  intro s3 k4
  split
  · exact k4
  · extract_lets -lift -underBinder -merge -useContext +onlyGivenNames s7
    try clear_value s7
    extract_lets -lift -underBinder -merge -useContext +onlyGivenNames s8
    have k9 : Kept q s8 := by unfold s8; exact Kept.upd k4
    clear_value s8
    extract_lets -lift -underBinder -merge -useContext +onlyGivenNames s10
    try clear_value s10
    refine kept_ite ?_ ?_
    · split
      · rename_i y11 y12 e14
        have k13 : Kept q y12 := kept_p2 e14 (kept_roundGain k9)
        refine kept_foldl ?_ ?_
        · exact k13
        · intro s15 x17 k16
          exact kept_limSet k16
    · exact k9

end Sys2Proof.Machine
end

