-- ==== Sys2Proof/Laws/KeptObs.lean ====
section
/-! SUPPORT. The operations of Machine/Obs.lean keep the form of memory and the queue. -/

namespace Sys2Proof.Machine
open Sys2Proof

variable {q : List Instr × Bool}

theorem kept_setSnaps {a0 : State} {a1 : ℕ} {a2 : List SnapSt} (h1 : Kept q a0) : Kept q (State.setSnaps a0 a1 a2) := by
  unfold State.setSnaps
  exact Kept.upd h1

theorem kept_startSnap {a0 : State} {a1 : ℕ} {a2 : ℕ} {a3 : Air} (h1 : Kept q a0) : Kept q (State.startSnap a0 a1 a2 a3) := by
  unfold State.startSnap
  split
  · exact h1
  · extract_lets -lift -underBinder -merge -useContext +onlyGivenNames s4
    try clear_value s4
    exact kept_ite (kept_bump h1) (kept_setSnaps h1)

theorem kept_setObs {a0 : State} {a1 : ℕ} {a2 : ObsSt} (h1 : Kept q a0) : Kept q (State.setObs a0 a1 a2) := by
  unfold State.setObs
  exact Kept.upd h1

theorem kept_obsCut {a0 : State} {a1 : ℕ} (h1 : Kept q a0) : Kept q (State.obsCut a0 a1) := by
  unfold State.obsCut
  exact kept_bump (kept_setObs h1)

theorem kept_obsLeave {a0 : State} {a1 : ℕ} (h1 : Kept q a0) : Kept q (State.obsLeave a0 a1) := by
  unfold State.obsLeave
  split
  · exact h1
  · extract_lets -lift -underBinder -merge -useContext +onlyGivenNames s5
    have k6 : Kept q s5 := by unfold s5; exact kept_ite (kept_obsCut h1) h1
    clear_value s5
    extract_lets -lift -underBinder -merge -useContext +onlyGivenNames s7
    try clear_value s7
    exact kept_ite (Kept.upd k6) k6

theorem kept_setSicOn {a0 : State} {a1 : ℕ} {a2 : Bool} (h1 : Kept q a0) : Kept q (State.setSicOn a0 a1 a2) := by
  unfold State.setSicOn
  exact Kept.upd h1

theorem kept_setSicOff {a0 : State} {a1 : ℕ} {a2 : Option ℕ} (h1 : Kept q a0) : Kept q (State.setSicOff a0 a1 a2) := by
  unfold State.setSicOff
  exact Kept.upd h1

theorem kept_sicEnds {a0 : State} {a1 : ℕ} {a2 : ℕ} (h1 : Kept q a0) : Kept q (State.sicEnds a0 a1 a2) := by
  unfold State.sicEnds
  exact kept_setSicOff h1

theorem kept_applySicCtl {a0 : State} {a1 : QItem} (h1 : Kept q a0) : Kept q (State.applySicCtl a0 a1) := by
  unfold State.applySicCtl
  extract_lets -lift -underBinder -merge -useContext +onlyGivenNames s1
  try clear_value s1
  extract_lets -lift -underBinder -merge -useContext +onlyGivenNames s2
  try clear_value s2
  extract_lets -lift -underBinder -merge -useContext +onlyGivenNames s3
  try clear_value s3
  extract_lets -lift -underBinder -merge -useContext +onlyGivenNames s4
  try clear_value s4
  split
  · refine kept_foldl ?_ ?_
    · exact h1
    · intro s6 x8 k7
      exact kept_setSicOn k7
  · refine kept_foldl ?_ ?_
    · exact h1
    · intro s10 x12 k11
      refine kept_ite ?_ ?_
      · exact k11
      · split
        · exact kept_sicEnds k11
        · exact kept_setSicOn (kept_setSicOff k11)
  · refine kept_foldl ?_ ?_
    · exact h1
    · intro s16 x18 k17
      exact kept_swapOne k17
  · exact kept_startSnap h1

theorem kept_toCapture {a0 : State} {a1 : ℕ} {a2 : List (Tag × Bytes)} (h1 : Kept q a0) : Kept q (State.toCapture a0 a1 a2) := by
  unfold State.toCapture
  extract_lets -lift -underBinder -merge -useContext +onlyGivenNames s1
  try clear_value s1
  extract_lets -lift -underBinder -merge -useContext +onlyGivenNames s2
  try clear_value s2
  exact Kept.upd h1

theorem kept_ringBytes {s : State} {base size o : Nat} {b : Bytes} (h : Kept q s) :
    ∀ t, s.ringBytes base size o b = some t → Kept q t := by
  unfold State.ringBytes
  refine kept_bind (kept_memWrite h) fun u k => ?_
  split
  · exact kept_memWrite k
  · intro t e; cases e; exact k

theorem kept_ringPut {s : State} {core base log wptr rptr drop : Nat} {bs : List Bytes} (h : Kept q s) :
    Kept q (s.ringPut core base log wptr rptr drop bs) := by
  unfold State.ringPut
  dsimp only
  split
  · rename_i u e
    split at e
    · exact kept_setReg (kept_ringBytes h _ e)
    · cases e
  · exact kept_bump h

theorem kept_obsDeliver {a0 : State} {a1 : ℕ} {a2 : List (Tag × Bytes)} (h1 : Kept q a0) : Kept q (State.obsDeliver a0 a1 a2) := by
  unfold State.obsDeliver
  extract_lets -lift -underBinder -merge -useContext +onlyGivenNames s1
  try clear_value s1
  exact kept_ite (kept_toCapture h1) (kept_ringPut h1)

theorem kept_mismatch {a0 : State} {a1 : ℕ} {a2 : ℕ} {a3 : Bool} {a4 : ℕ} (h1 : Kept q a0) : Kept q (State.mismatch a0 a1 a2 a3 a4) := by
  unfold State.mismatch
  extract_lets -lift -underBinder -merge -useContext +onlyGivenNames s1
  try clear_value s1
  extract_lets -lift -underBinder -merge -useContext +onlyGivenNames s2
  try clear_value s2
  split
  · exact h1
  · refine kept_ite ?_ ?_
    · exact kept_bump h1
    · refine kept_ite ?_ ?_
      · exact h1
      · extract_lets -lift -underBinder -merge -useContext +onlyGivenNames s5
        try clear_value s5
        split
        · rename_i y6 y7 e9
          have k8 : Kept q y7 := kept_p2 e9 (by
              refine kept_ite_p2 ?_ ?_
              · split
                · rename_i y10 y11 e13
                  have k12 : Kept q y11 := kept_p2 e13 (kept_draw h1)
                  exact k12
              · exact h1
              )
          extract_lets -lift -underBinder -merge -useContext +onlyGivenNames s14
          have k15 : Kept q s14 := by unfold s14; exact kept_ite (kept_signal k8) k8
          clear_value s14
          extract_lets -lift -underBinder -merge -useContext +onlyGivenNames s16
          try clear_value s16
          extract_lets -lift -underBinder -merge -useContext +onlyGivenNames s17
          try clear_value s17
          extract_lets -lift -underBinder -merge -useContext +onlyGivenNames s18
          have k19 : Kept q s18 := by unfold s18; exact Kept.upd k15
          clear_value s18
          exact kept_ite (kept_mutePath k19) k19

theorem kept_execObsPowerResult {a0 : Obs} {a1 : Bool} {a2 : Bytes} {s : State} (h : Kept q s) : KeptOut q (execObsPowerResult a0 a1 a2 s) := by
  unfold execObsPowerResult
  refine kept_act ?_ h
  intro s3 k4
  split
  · exact k4
  · exact kept_obsCut k4
  · extract_lets -lift -underBinder -merge -useContext +onlyGivenNames s11
    try clear_value s11
    extract_lets -lift -underBinder -merge -useContext +onlyGivenNames s12
    try clear_value s12
    extract_lets -lift -underBinder -merge -useContext +onlyGivenNames s13
    try clear_value s13
    extract_lets -lift -underBinder -merge -useContext +onlyGivenNames s14
    try clear_value s14
    extract_lets -lift -underBinder -merge -useContext +onlyGivenNames s15
    have k16 : Kept q s15 := by unfold s15; exact kept_setObs k4
    clear_value s15
    extract_lets -lift -underBinder -merge -useContext +onlyGivenNames s17
    have k18 : Kept q s17 := by unfold s17; exact kept_obsDeliver k16
    clear_value s17
    split
    · exact Kept.upd k18
    · exact kept_mismatch k18
    · exact k18

theorem kept_arriveSic {a0 : State} {a1 : ℕ} {a2 : Tile} {a3 : Tag} {a4 : Bytes} (h1 : Kept q a0) : Kept q (State.arriveSic a0 a1 a2 a3 a4) := by
  unfold State.arriveSic
  extract_lets -lift -underBinder -merge -useContext +onlyGivenNames s1
  try clear_value s1
  exact kept_arriveIf h1

theorem kept_execSicCtlSnap {a0 : Tile} {a1 : Tag} {a2 : Bytes} {s : State} (h : Kept q s) : KeptOut q (execSicCtlSnap a0 a1 a2 s) := by
  unfold execSicCtlSnap
  exact kept_act (fun _ k2 => kept_arriveSic k2) h

theorem kept_execCancellerOffTailEnd {a0 : Path} {s : State} (h : Kept q s) : KeptOut q (execCancellerOffTailEnd a0 s) := by
  unfold execCancellerOffTailEnd
  refine kept_act ?_ h
  intro s3 k4
  split
  · exact kept_ite (kept_setSicOn (kept_setSicOff k4)) k4
  · exact k4

theorem kept_execSicCtlOff {a0 : Tile} {a1 : Tag} {a2 : Bytes} {s : State} (h : Kept q s) : KeptOut q (execSicCtlOff a0 a1 a2 s) := by
  unfold execSicCtlOff
  exact kept_act (fun _ k2 => kept_arriveSic k2) h

theorem kept_execSicCtlOn {a0 : Tile} {a1 : Tag} {a2 : Bytes} {s : State} (h : Kept q s) : KeptOut q (execSicCtlOn a0 a1 a2 s) := by
  unfold execSicCtlOn
  exact kept_act (fun _ k2 => kept_arriveSic k2) h

theorem kept_execObsSnapshotStart {a0 : Obs} {s : State} (h : Kept q s) : KeptOut q (execObsSnapshotStart a0 s) := by
  unfold execObsSnapshotStart
  refine kept_act ?_ h
  intro s3 k4
  extract_lets -lift -underBinder -merge -useContext +onlyGivenNames s5
  try clear_value s5
  split
  · exact kept_ite (kept_setObs k4) k4
  · exact k4

theorem kept_execObsSnapshotComplete {a0 : Obs} {a1 : Bool} {a2 : Bytes} {s : State} (h : Kept q s) : KeptOut q (execObsSnapshotComplete a0 a1 a2 s) := by
  unfold execObsSnapshotComplete
  refine kept_act ?_ h
  intro s3 k4
  split
  · exact k4
  · exact kept_obsCut k4
  · extract_lets -lift -underBinder -merge -useContext +onlyGivenNames s11
    try clear_value s11
    extract_lets -lift -underBinder -merge -useContext +onlyGivenNames s12
    try clear_value s12
    extract_lets -lift -underBinder -merge -useContext +onlyGivenNames s13
    try clear_value s13
    extract_lets -lift -underBinder -merge -useContext +onlyGivenNames s14
    try clear_value s14
    extract_lets -lift -underBinder -merge -useContext +onlyGivenNames s15
    try clear_value s15
    extract_lets -lift -underBinder -merge -useContext +onlyGivenNames s16
    try clear_value s16
    extract_lets -lift -underBinder -merge -useContext +onlyGivenNames s17
    try clear_value s17
    extract_lets -lift -underBinder -merge -useContext +onlyGivenNames s18
    try clear_value s18
    exact kept_obsDeliver (kept_setObs k4)

theorem kept_execSicCtlSwap {a0 : Tile} {a1 : Tag} {a2 : Bytes} {s : State} (h : Kept q s) : KeptOut q (execSicCtlSwap a0 a1 a2 s) := by
  unfold execSicCtlSwap
  exact kept_act (fun _ k2 => kept_arriveSic k2) h

theorem kept_execSicSnapshotComplete {a0 : Tile} {s : State} (h : Kept q s) : KeptOut q (execSicSnapshotComplete a0 s) := by
  unfold execSicSnapshotComplete
  refine kept_act ?_ h
  intro s3 k4
  split
  · exact k4
  · refine kept_ite ?_ ?_
    · exact k4
    · extract_lets -lift -underBinder -merge -useContext +onlyGivenNames s8
      try clear_value s8
      extract_lets -lift -underBinder -merge -useContext +onlyGivenNames s9
      try clear_value s9
      extract_lets -lift -underBinder -merge -useContext +onlyGivenNames s10
      have k11 : Kept q s10 := by unfold s10; exact kept_setSnaps k4
      clear_value s10
      extract_lets -lift -underBinder -merge -useContext +onlyGivenNames s12
      try clear_value s12
      extract_lets -lift -underBinder -merge -useContext +onlyGivenNames s13
      have k14 : Kept q s13 := by unfold s13; exact Kept.upd k11
      clear_value s13
      extract_lets -lift -underBinder -merge -useContext +onlyGivenNames s15
      try clear_value s15
      exact kept_ringPut k14

theorem kept_execObsEntryStart {a0 : Obs} {s : State} (h : Kept q s) : KeptOut q (execObsEntryStart a0 s) := by
  unfold execObsEntryStart
  refine kept_act ?_ h
  intro s3 k4
  extract_lets -lift -underBinder -merge -useContext +onlyGivenNames s5
  try clear_value s5
  split
  · exact k4
  · refine kept_ite ?_ ?_
    · exact k4
    · extract_lets -lift -underBinder -merge -useContext +onlyGivenNames s9
      have k10 : Kept q s9 := by unfold s9; exact kept_obsLeave k4
      clear_value s9
      extract_lets -lift -underBinder -merge -useContext +onlyGivenNames s11
      try clear_value s11
      extract_lets -lift -underBinder -merge -useContext +onlyGivenNames s12
      have k13 : Kept q s12 := by unfold s12; exact kept_setObs k10
      clear_value s12
      extract_lets -lift -underBinder -merge -useContext +onlyGivenNames s14
      try clear_value s14
      extract_lets -lift -underBinder -merge -useContext +onlyGivenNames s15
      try clear_value s15
      extract_lets -lift -underBinder -merge -useContext +onlyGivenNames s16
      have k17 : Kept q s16 := by unfold s16; exact kept_ite (Kept.upd k13) k13
      clear_value s16
      extract_lets -lift -underBinder -merge -useContext +onlyGivenNames s18
      try clear_value s18
      extract_lets -lift -underBinder -merge -useContext +onlyGivenNames s19
      have k20 : Kept q s19 := by unfold s19; exact kept_ite (kept_obsCut k17) k17
      clear_value s19
      exact kept_ite (kept_obsCut k20) k20

end Sys2Proof.Machine
end

