-- ==== Sys2Proof/Laws/KeptRx.lean ====
section
/-! SUPPORT. The operations of Machine/Rx.lean keep the form of memory and the queue. -/

namespace Sys2Proof.Machine
open Sys2Proof

variable {q : List Instr × Bool}

theorem kept_ulSent {a0 : State} {a1 : UlKey} (h1 : Kept q a0) : Kept q (State.ulSent a0 a1) := by
  unfold State.ulSent
  exact Kept.upd h1

theorem kept_sendUl {a0 : State} {a1 : UlBlock} {a2 : ℕ} {a3 : Bool} (h1 : Kept q a0) : Kept q (State.sendUl a0 a1 a2 a3) := by
  unfold State.sendUl
  extract_lets -lift -underBinder -merge -useContext +onlyGivenNames s1
  extract_lets -lift -underBinder -merge -useContext +onlyGivenNames s2
  try clear_value s2
  extract_lets -lift -underBinder -merge -useContext +onlyGivenNames s3
  try clear_value s3
  extract_lets -lift -underBinder -merge -useContext +onlyGivenNames s4
  try clear_value s4
  extract_lets -lift -underBinder -merge -useContext +onlyGivenNames s5
  try clear_value s5
  split
  · extract_lets -lift -underBinder -merge -useContext +onlyGivenNames s8
    try clear_value s8
    extract_lets -lift -underBinder -merge -useContext +onlyGivenNames s9
    try clear_value s9
    exact kept_sendTagged (kept_bumpBy h1)

theorem kept_sendAlone {a0 : State} {a1 : UlBlock} (h1 : Kept q a0) : Kept q (State.sendAlone a0 a1) := by
  unfold State.sendAlone
  exact kept_ulSent (kept_sendUl (kept_bump h1))

theorem kept_flushHolds {a0 : State} (h1 : Kept q a0) : Kept q (State.flushHolds a0) := by
  unfold State.flushHolds
  refine kept_foldl ?_ ?_
  · exact Kept.upd h1
  · intro s1 x3 k2
    exact kept_sendAlone k2

theorem kept_applyGainRx {a0 : State} {a1 : QItem} (h1 : Kept q a0) : Kept q (State.applyGainRx a0 a1) := by
  unfold State.applyGainRx
  extract_lets -lift -underBinder -merge -useContext +onlyGivenNames s1
  try clear_value s1
  refine kept_foldl ?_ ?_
  · exact h1
  · intro s2 x4 k3
    extract_lets -lift -underBinder -merge -useContext +onlyGivenNames s5
    have k6 : Kept q s5 := by unfold s5; exact kept_ite (kept_setGain k3) k3
    clear_value s5
    exact kept_ite (Kept.upd k6) k6

theorem kept_applyDcFreeze {a0 : State} {a1 : QItem} (h1 : Kept q a0) : Kept q (State.applyDcFreeze a0 a1) := by
  unfold State.applyDcFreeze
  extract_lets -lift -underBinder -merge -useContext +onlyGivenNames s1
  try clear_value s1
  extract_lets -lift -underBinder -merge -useContext +onlyGivenNames s2
  try clear_value s2
  refine kept_foldl ?_ ?_
  · exact h1
  · intro s3 x5 k4
    exact Kept.upd k4

theorem kept_passPartial {a0 : State} {a1 : Item} (h1 : Kept q a0) : Kept q (State.passPartial a0 a1) := by
  unfold State.passPartial
  extract_lets -lift -underBinder -merge -useContext +onlyGivenNames s1
  try clear_value s1
  extract_lets -lift -underBinder -merge -useContext +onlyGivenNames s2
  try clear_value s2
  refine kept_ite ?_ ?_
  · exact kept_sendOwn h1
  · extract_lets -lift -underBinder -merge -useContext +onlyGivenNames s3
    try clear_value s3
    extract_lets -lift -underBinder -merge -useContext +onlyGivenNames s4
    have k5 : Kept q s4 := by unfold s4; exact kept_bumpBy h1
    clear_value s4
    exact kept_sendUl k5

theorem kept_checkSbfd {a0 : State} {a1 : Decl} {a2 : UlName} (h1 : Kept q a0) : Kept q (State.checkSbfd a0 a1 a2) := by
  unfold State.checkSbfd
  exact kept_ite (kept_bump h1) h1

theorem kept_sendSum {a0 : State} {a1 : UlBlock} {a2 : Item} (h1 : Kept q a0) : Kept q (State.sendSum a0 a1 a2) := by
  unfold State.sendSum
  extract_lets -lift -underBinder -merge -useContext +onlyGivenNames s1
  try clear_value s1
  extract_lets -lift -underBinder -merge -useContext +onlyGivenNames s2
  try clear_value s2
  extract_lets -lift -underBinder -merge -useContext +onlyGivenNames s3
  try clear_value s3
  exact kept_ulSent (kept_sendUl (kept_bumpBy h1))

theorem kept_execUlBlockReady {a0 : UlName} {s : State} (h : Kept q s) : KeptOut q (execUlBlockReady a0 s) := by
  unfold execUlBlockReady
  refine kept_act ?_ h
  intro s3 k4
  split
  · exact k4
  · refine kept_ite ?_ ?_
    · exact k4
    · split
      · extract_lets -lift -underBinder -merge -useContext +onlyGivenNames s10
        have k11 : Kept q s10 := by unfold s10; exact kept_checkSbfd (kept_bumpBy (kept_countBadUses k4))
        clear_value s10
        refine kept_ite ?_ ?_
        · exact kept_ulSent (kept_sendUl k11)
        · split
          · exact kept_sendSum (Kept.upd k11)
          · exact kept_ite (Kept.upd k11) (kept_sendAlone k11)

theorem kept_takePartial {a0 : State} {a1 : Item} (h1 : Kept q a0) : Kept q (State.takePartial a0 a1) := by
  unfold State.takePartial
  extract_lets -lift -underBinder -merge -useContext +onlyGivenNames s1
  try clear_value s1
  refine kept_ite ?_ ?_
  · exact kept_bump h1
  · refine kept_ite ?_ ?_
    · exact kept_bump h1
    · refine kept_ite ?_ ?_
      · exact kept_bump h1
      · split
        · exact kept_sendSum (Kept.upd h1)
        · exact kept_ite (Kept.upd h1) (kept_passPartial h1)

theorem kept_execDcServoStep {a0 : Path} {a1 : Rail} {s : State} (h : Kept q s) : KeptOut q (execDcServoStep a0 a1 s) := by
  unfold execDcServoStep
  refine kept_act ?_ h
  intro s3 k4
  extract_lets -lift -underBinder -merge -useContext +onlyGivenNames s5
  try clear_value s5
  extract_lets -lift -underBinder -merge -useContext +onlyGivenNames s6
  try clear_value s6
  extract_lets -lift -underBinder -merge -useContext +onlyGivenNames s7
  try clear_value s7
  extract_lets -lift -underBinder -merge -useContext +onlyGivenNames s8
  try clear_value s8
  extract_lets -lift -underBinder -merge -useContext +onlyGivenNames s9
  try clear_value s9
  refine kept_ite ?_ ?_
  · exact k4
  · extract_lets -lift -underBinder -merge -useContext +onlyGivenNames s10
    try clear_value s10
    extract_lets -lift -underBinder -merge -useContext +onlyGivenNames s11
    try clear_value s11
    extract_lets -lift -underBinder -merge -useContext +onlyGivenNames s12
    try clear_value s12
    refine kept_ite ?_ ?_
    · exact kept_bump k4
    · extract_lets -lift -underBinder -merge -useContext +onlyGivenNames s13
      try clear_value s13
      extract_lets -lift -underBinder -merge -useContext +onlyGivenNames s14
      try clear_value s14
      extract_lets -lift -underBinder -merge -useContext +onlyGivenNames s15
      have k16 : Kept q s15 := by unfold s15; exact kept_setDc k4
      clear_value s15
      exact Kept.upd k16

theorem kept_execGainRx {a0 : Tile} {a1 : Tag} {a2 : Bytes} {s : State} (h : Kept q s) : KeptOut q (execGainRx a0 a1 a2 s) := by
  unfold execGainRx
  refine kept_act ?_ h
  intro s3 k4
  extract_lets -lift -underBinder -merge -useContext +onlyGivenNames s5
  try clear_value s5
  exact kept_arriveIf k4

theorem kept_takeWindow {a0 : State} {a1 : Item} (h1 : Kept q a0) : Kept q (State.takeWindow a0 a1) := by
  unfold State.takeWindow
  extract_lets -lift -underBinder -merge -useContext +onlyGivenNames s1
  try clear_value s1
  refine kept_ite ?_ ?_
  · exact kept_bump h1
  · refine kept_ite ?_ ?_
    · exact kept_bump h1
    · extract_lets -lift -underBinder -merge -useContext +onlyGivenNames s2
      try clear_value s2
      exact kept_ite (kept_bump h1) (Kept.upd h1)

theorem kept_execSoundingWindow {a0 : Tag} {a1 : Bytes} {s : State} (h : Kept q s) : KeptOut q (execSoundingWindow a0 a1 s) := by
  unfold execSoundingWindow
  refine kept_act ?_ h
  intro s3 k4
  extract_lets -lift -underBinder -merge -useContext +onlyGivenNames s5
  try clear_value s5
  exact kept_arrive k4 (fun _  _ k8 => kept_takeWindow k8)

theorem kept_execHoldExpiry {a0 : ℕ} {s : State} (h : Kept q s) : KeptOut q (execHoldExpiry a0 s) := by
  unfold execHoldExpiry
  refine kept_act ?_ h
  intro s3 k4
  split
  · exact k4
  · exact kept_ite k4 (kept_sendAlone (Kept.upd k4))

theorem kept_lnaFrame {a0 : State} {a1 : ℕ} (h1 : Kept q a0) : Kept q (State.lnaFrame a0 a1).2 := by
  unfold State.lnaFrame
  split
  · rename_i y1 y2 e4
    have k3 : Kept q y2 := kept_p2 e4 (kept_draw h1)
    exact k3

theorem kept_placeLna {a0 : State} {a1 : ℕ} {a2 : List ℕ} {a3 : ℤ} {a4 : Tag} (h1 : Kept q a0) : Kept q (State.placeLna a0 a1 a2 a3 a4).1 := by
  unfold State.placeLna
  refine foldl_keeps (P := fun (p : State × _) => Kept q p.1) ?_ ?_
  · exact h1
  · intro s1 x3 k2
    beta_reduce
    split
    · rename_i y4 y5 y6 e8
      have k7 : Kept q y6 := kept_p2 e8 (kept_lnaFrame k2)
      split
      · rename_i y9 y11 e12
        have k10 : Kept q y9 := kept_p1 e12 (kept_placeGroup k7)
        exact k10

theorem kept_takeLna {a0 : State} {a1 : ℕ} {a2 : Item} {a3 : BitVec 19} (h1 : Kept q a0) : Kept q (State.takeLna a0 a1 a2 a3) := by
  unfold State.takeLna
  extract_lets -lift -underBinder -merge -useContext +onlyGivenNames s1
  try clear_value s1
  extract_lets -lift -underBinder -merge -useContext +onlyGivenNames s2
  try clear_value s2
  refine kept_ite ?_ ?_
  · exact kept_refuse h1
  · refine kept_ite ?_ ?_
    · exact kept_bump h1
    · split
      · rename_i y3 e5
        have k4 : Kept q y3 := kept_p1 e5 (kept_placeLna h1)
        exact kept_enqueue k4
      · rename_i y6 e8
        have k7 : Kept q y6 := kept_p1 e8 (kept_placeLna h1)
        exact kept_bump (Kept.upd h1)

theorem kept_arriveDc {a0 : State} {a1 : ℕ} {a2 : Tile} {a3 : Tag} {a4 : Bytes} (h1 : Kept q a0) : Kept q (State.arriveDc a0 a1 a2 a3 a4) := by
  unfold State.arriveDc
  exact kept_arriveCtl h1

theorem kept_execDcFreeze {a0 : Tile} {a1 : Tag} {a2 : Bytes} {s : State} (h : Kept q s) : KeptOut q (execDcFreeze a0 a1 a2 s) := by
  unfold execDcFreeze
  exact kept_act (fun _ k2 => kept_arriveDc k2) h

theorem kept_execLnaStep {a0 : Tile} {a1 : Tag} {a2 : Bytes} {s : State} (h : Kept q s) : KeptOut q (execLnaStep a0 a1 a2 s) := by
  unfold execLnaStep
  refine kept_act ?_ h
  intro s3 k4
  extract_lets -lift -underBinder -merge -useContext +onlyGivenNames s5
  try clear_value s5
  exact kept_arrive k4 (fun _  _ k8 => kept_takeLna k8)

theorem kept_execUlPartial {a0 : Tag} {a1 : Bytes} {s : State} (h : Kept q s) : KeptOut q (execUlPartial a0 a1 s) := by
  unfold execUlPartial
  refine kept_act ?_ h
  intro s3 k4
  extract_lets -lift -underBinder -merge -useContext +onlyGivenNames s5
  try clear_value s5
  exact kept_arrive k4 (fun _  _ k8 => kept_takePartial k8)

theorem kept_execDcRelease {a0 : Tile} {a1 : Tag} {a2 : Bytes} {s : State} (h : Kept q s) : KeptOut q (execDcRelease a0 a1 a2 s) := by
  unfold execDcRelease
  exact kept_act (fun _ k2 => kept_arriveDc k2) h

theorem kept_execSoundingBlocks {a0 : Carrier} {a1 : BitVec 4} {a2 : Bool} {s : State} (h : Kept q s) : KeptOut q (execSoundingBlocks a0 a1 a2 s) := by
  unfold execSoundingBlocks
  refine kept_act ?_ h
  intro s3 k4
  split
  · exact k4
  · refine kept_ite ?_ ?_
    · exact k4
    · extract_lets -lift -underBinder -merge -useContext +onlyGivenNames s7
      try clear_value s7
      extract_lets -lift -underBinder -merge -useContext +onlyGivenNames s8
      try clear_value s8
      extract_lets -lift -underBinder -merge -useContext +onlyGivenNames s9
      try clear_value s9
      extract_lets -lift -underBinder -merge -useContext +onlyGivenNames s10
      try clear_value s10
      extract_lets -lift -underBinder -merge -useContext +onlyGivenNames s11
      try clear_value s11
      extract_lets -lift -underBinder -merge -useContext +onlyGivenNames s12
      have k13 : Kept q s12 := by unfold s12; exact Kept.upd k4
      clear_value s12
      extract_lets -lift -underBinder -merge -useContext +onlyGivenNames s14
      have k15 : Kept q s14 := by unfold s14; exact kept_bumpBy k13
      clear_value s14
      extract_lets -lift -underBinder -merge -useContext +onlyGivenNames s16
      try clear_value s16
      extract_lets -lift -underBinder -merge -useContext +onlyGivenNames s17
      have k18 : Kept q s17 := by unfold s17; exact kept_ite k15 (kept_ringPut k15)
      clear_value s17
      refine kept_ite ?_ ?_
      · exact k18
      · refine kept_foldl ?_ ?_
        · exact k18
        · intro s19 x21 k20
          exact kept_sendTagged k20

end Sys2Proof.Machine
end

