-- ==== Sys2Proof/Laws/KeptCapture.lean ====
section
/-! SUPPORT. The operations of Machine/Capture.lean keep the form of memory and the queue. -/

namespace Sys2Proof.Machine
open Sys2Proof

variable {q : List Instr × Bool}

theorem kept_setCap {a0 : State} {a1 : ℕ} {a2 : CapSt} (h1 : Kept q a0) : Kept q (State.setCap a0 a1 a2) := by
  unfold State.setCap
  exact Kept.upd h1

theorem kept_putPlay {a0 : State} {a1 : PlayBlk} (h1 : Kept q a0) : Kept q (State.putPlay a0 a1) := by
  unfold State.putPlay
  extract_lets -lift -underBinder -merge -useContext +onlyGivenNames s1
  try clear_value s1
  refine kept_ite ?_ ?_
  · extract_lets -lift -underBinder -merge -useContext +onlyGivenNames s2
    try clear_value s2
    extract_lets -lift -underBinder -merge -useContext +onlyGivenNames s3
    try clear_value s3
    refine kept_foldl ?_ ?_
    · exact h1
    · intro s4 x6 k5
      exact kept_blankSpan k5
  · extract_lets -lift -underBinder -merge -useContext +onlyGivenNames s7
    try clear_value s7
    exact Kept.upd h1

theorem kept_playIssue {a0 : State} {a1 : ℕ} {a2 : CapSt} {a3 : Bytes} (h1 : Kept q a0) : Kept q (State.playIssue a0 a1 a2 a3) := by
  unfold State.playIssue
  extract_lets -lift -underBinder -merge -useContext +onlyGivenNames s1
  try clear_value s1
  extract_lets -lift -underBinder -merge -useContext +onlyGivenNames s2
  try clear_value s2
  extract_lets -lift -underBinder -merge -useContext +onlyGivenNames s3
  try clear_value s3
  extract_lets -lift -underBinder -merge -useContext +onlyGivenNames s4
  try clear_value s4
  extract_lets -lift -underBinder -merge -useContext +onlyGivenNames s5
  try clear_value s5
  extract_lets -lift -underBinder -merge -useContext +onlyGivenNames s6
  try clear_value s6
  extract_lets -lift -underBinder -merge -useContext +onlyGivenNames s7
  try clear_value s7
  refine kept_ite ?_ ?_
  · exact kept_setCap h1
  · extract_lets -lift -underBinder -merge -useContext +onlyGivenNames s8
    try clear_value s8
    refine kept_ite ?_ ?_
    · extract_lets -lift -underBinder -merge -useContext +onlyGivenNames s9
      try clear_value s9
      extract_lets -lift -underBinder -merge -useContext +onlyGivenNames s10
      try clear_value s10
      extract_lets -lift -underBinder -merge -useContext +onlyGivenNames s11
      try clear_value s11
      exact kept_putPlay (kept_emitOut (kept_setCap h1))
    · exact kept_setCap h1

theorem kept_capDiscard {a0 : State} {a1 : Tag → Bool} (h1 : Kept q a0) : Kept q (State.capDiscard a0 a1) := by
  unfold State.capDiscard
  refine kept_foldl ?_ ?_
  · exact h1
  · intro s1 x3 k2
    extract_lets -lift -underBinder -merge -useContext +onlyGivenNames s4
    try clear_value s4
    refine kept_ite ?_ ?_
    · exact kept_bump (kept_setCap k2)
    · split
      · exact kept_ite (kept_bump (kept_setCap k2)) k2
      · exact k2

theorem kept_capDone {a0 : State} {a1 : ℕ} (h1 : Kept q a0) : Kept q (State.capDone a0 a1) := by
  unfold State.capDone
  exact kept_signal (kept_setCap h1)

theorem kept_capEnd {a0 : State} {a1 : BitVec 4} (h1 : Kept q a0) : Kept q (State.capEnd a0 a1) := by
  unfold State.capEnd
  refine kept_foldl ?_ ?_
  · exact h1
  · intro s1 x3 k2
    extract_lets -lift -underBinder -merge -useContext +onlyGivenNames s4
    try clear_value s4
    exact kept_ite (kept_setCap k2) k2

theorem kept_capPass {a0 : State} {a1 : ℕ} {a2 : CapSt} (h1 : Kept q a0) : Kept q (State.capPass a0 a1 a2) := by
  unfold State.capPass
  exact kept_ite (kept_setCap h1) h1

theorem kept_capStore {a0 : State} {a1 : ℕ} {a2 : CapSt} {a3 : ℕ} {a4 : Bytes} (h1 : Kept q a0) : Kept q (State.capStore a0 a1 a2 a3 a4) := by
  unfold State.capStore
  split
  · exact kept_signal (kept_bump h1)
  · rename_i y2 e4
    have k3 : Kept q y2 := kept_osome e4 (kept_memWrite h1)
    extract_lets -lift -underBinder -merge -useContext +onlyGivenNames s5
    have k6 : Kept q s5 := by unfold s5; exact kept_setCap k3
    clear_value s5
    exact kept_ite k6 (kept_putBytes k6)

theorem kept_capTake {a0 : State} {a1 : ℕ} {a2 : CapSt} {a3 : Tag} {a4 : ℕ} {a5 : Rails} {a6 : Bool} (h1 : Kept q a0) : Kept q (State.capTake a0 a1 a2 a3 a4 a5 a6) := by
  unfold State.capTake
  refine kept_ite ?_ ?_
  · exact h1
  · refine kept_ite ?_ ?_
    · exact kept_setCap h1
    · extract_lets -lift -underBinder -merge -useContext +onlyGivenNames s1
      try clear_value s1
      extract_lets -lift -underBinder -merge -useContext +onlyGivenNames s2
      try clear_value s2
      extract_lets -lift -underBinder -merge -useContext +onlyGivenNames s3
      try clear_value s3
      extract_lets -lift -underBinder -merge -useContext +onlyGivenNames s4
      have k5 : Kept q s4 := by unfold s4; exact kept_setCap h1
      clear_value s4
      refine kept_ite ?_ ?_
      · exact kept_capDone k5
      · refine kept_ite ?_ ?_
        · exact kept_signal (kept_bump k5)
        · extract_lets -lift -underBinder -merge -useContext +onlyGivenNames s6
          try clear_value s6
          split
          · exact kept_capStore k5

theorem kept_execCaptureRecord {a0 : Cap} {a1 : Tag} {a2 : BitVec 6} {a3 : Rails} {a4 : Bool} {s : State} (h : Kept q s) : KeptOut q (execCaptureRecord a0 a1 a2 a3 a4 s) := by
  unfold execCaptureRecord
  refine kept_act ?_ h
  intro s3 k4
  extract_lets -lift -underBinder -merge -useContext +onlyGivenNames s5
  try clear_value s5
  split
  · exact k4
  · exact kept_capPass (kept_capTake k4)

theorem kept_readDesc {a0 : State} {a1 : ℕ} (h1 : Kept q a0) : Kept q (State.readDesc a0 a1).2 := by
  unfold State.readDesc
  refine kept_ite_p2 ?_ ?_
  · exact h1
  · split
    · rename_i y1 y2 e4
      have k3 : Kept q y2 := kept_p2 e4 (kept_memRead h1)
      exact k3
    · rename_i y5 y6 _ e8
      have k7 : Kept q y6 := kept_p2 e8 (kept_memRead h1)
      exact k7

theorem kept_refuseCap {a0 : State} {a1 : Item} {a2 : BitVec 19} (h1 : Kept q a0) : Kept q (State.refuseCap a0 a1 a2) := by
  unfold State.refuseCap
  exact kept_refuseSeq (kept_signal (kept_bump h1))

theorem kept_capStart {a0 : State} {a1 : Bool} {a2 : Item} {a3 : BitVec 19} (h1 : Kept q a0) : Kept q (State.capStart a0 a1 a2 a3) := by
  unfold State.capStart
  extract_lets -lift -underBinder -merge -useContext +onlyGivenNames s1
  try clear_value s1
  extract_lets -lift -underBinder -merge -useContext +onlyGivenNames s2
  try clear_value s2
  extract_lets -lift -underBinder -merge -useContext +onlyGivenNames s3
  try clear_value s3
  extract_lets -lift -underBinder -merge -useContext +onlyGivenNames s4
  try clear_value s4
  extract_lets -lift -underBinder -merge -useContext +onlyGivenNames s5
  have k6 : Kept q s5 := by unfold s5; exact kept_ite (kept_bump h1) h1
  clear_value s5
  split
  · rename_i y7 e9
    have k8 : Kept q y7 := kept_p2 e9 (kept_readDesc k6)
    exact kept_refuseCap k8
  · rename_i y10 y11 e13
    have k12 : Kept q y11 := kept_p2 e13 (kept_readDesc k6)
    exact kept_ite (kept_refuseCap k12) (kept_setCap k12)

theorem kept_capStop {a0 : State} {a1 : Bool} {a2 : Item} (h1 : Kept q a0) : Kept q (State.capStop a0 a1 a2) := by
  unfold State.capStop
  extract_lets -lift -underBinder -merge -useContext +onlyGivenNames s1
  try clear_value s1
  extract_lets -lift -underBinder -merge -useContext +onlyGivenNames s2
  try clear_value s2
  extract_lets -lift -underBinder -merge -useContext +onlyGivenNames s3
  have k4 : Kept q s3 := by unfold s3; exact kept_ite (kept_bump h1) h1
  clear_value s3
  exact kept_ite (kept_setCap k4) k4

theorem kept_arriveCap {a0 : State} {a1 : ℕ} {a2 : Tag} {a3 : Bytes} (h1 : Kept q a0) : Kept q (State.arriveCap a0 a1 a2 a3) := by
  unfold State.arriveCap
  extract_lets -lift -underBinder -merge -useContext +onlyGivenNames s1
  try clear_value s1
  exact kept_arrive h1 (fun _  _ k4 => kept_ite (kept_capStart k4) (kept_capStop k4))

theorem kept_execPlaybackStart {a0 : Tag} {a1 : Bytes} {s : State} (h : Kept q s) : KeptOut q (execPlaybackStart a0 a1 s) := by
  unfold execPlaybackStart
  exact kept_act (fun _ k2 => kept_arriveCap k2) h

theorem kept_playRead {a0 : State} {a1 : CapSt} (h1 : Kept q a0) : Kept q (State.playRead a0 a1).2 := by
  unfold State.playRead
  refine kept_ite_p2 ?_ ?_
  · exact h1
  · split
    · rename_i y1 y2 e4
      have k3 : Kept q y2 := kept_p2 e4 (kept_memRead h1)
      exact kept_ite_p2 k3 k3
    · rename_i y5 y6 _ e8
      have k7 : Kept q y6 := kept_p2 e8 (kept_memRead h1)
      exact k7

theorem kept_playWrap {a0 : State} {a1 : ℕ} {a2 : CapSt} (h1 : Kept q a0) : Kept q (State.playWrap a0 a1 a2) := by
  unfold State.playWrap
  split
  · exact kept_setCap h1
  · exact kept_capDone h1

theorem kept_execPlaybackRecord {a0 : Cap} {s : State} (h : Kept q s) : KeptOut q (execPlaybackRecord a0 s) := by
  unfold execPlaybackRecord
  refine kept_act ?_ h
  intro s3 k4
  extract_lets -lift -underBinder -merge -useContext +onlyGivenNames s5
  try clear_value s5
  refine kept_ite ?_ ?_
  · exact k4
  · split
    · rename_i y6 y7 e9
      have k8 : Kept q y7 := kept_p2 e9 (kept_playRead k4)
      exact kept_playIssue k8
    · rename_i y10 e12
      have k11 : Kept q y10 := kept_p2 e12 (kept_playRead k4)
      extract_lets -lift -underBinder -merge -useContext +onlyGivenNames s13
      have k14 : Kept q s13 := by unfold s13; exact kept_playWrap k11
      clear_value s13
      extract_lets -lift -underBinder -merge -useContext +onlyGivenNames s15
      try clear_value s15
      refine kept_ite ?_ ?_
      · exact k14
      · split
        · rename_i y16 y17 e19
          have k18 : Kept q y17 := kept_p2 e19 (kept_playRead k14)
          exact kept_playIssue k18
        · rename_i y20 e22
          have k21 : Kept q y20 := kept_p2 e22 (kept_playRead k14)
          exact kept_capDone k21

theorem kept_execPlaybackStop {a0 : Tag} {a1 : Bytes} {s : State} (h : Kept q s) : KeptOut q (execPlaybackStop a0 a1 s) := by
  unfold execPlaybackStop
  exact kept_act (fun _ k2 => kept_arriveCap k2) h

theorem kept_execCaptureStop {a0 : Tag} {a1 : Bytes} {s : State} (h : Kept q s) : KeptOut q (execCaptureStop a0 a1 s) := by
  unfold execCaptureStop
  exact kept_act (fun _ k2 => kept_arriveCap k2) h

theorem kept_execCaptureStart {a0 : Tag} {a1 : Bytes} {s : State} (h : Kept q s) : KeptOut q (execCaptureStart a0 a1 s) := by
  unfold execCaptureStart
  exact kept_act (fun _ k2 => kept_arriveCap k2) h

end Sys2Proof.Machine
end

