-- ==== Sys2Proof/Laws/KeptDma.lean ====
section
/-! SUPPORT. The operations of Machine/Dma.lean keep the form of memory and the queue. -/

namespace Sys2Proof.Machine
open Sys2Proof

variable {q : List Instr × Bool}

theorem kept_setDma {a0 : State} {a1 : ℕ} {a2 : DmaSt} (h1 : Kept q a0) : Kept q (State.setDma a0 a1 a2) := by
  unfold State.setDma
  exact Kept.upd h1

theorem kept_dmaStart {a0 : State} {a1 : ℕ} (h1 : Kept q a0) : Kept q (State.dmaStart a0 a1) := by
  unfold State.dmaStart
  extract_lets -lift -underBinder -merge -useContext +onlyGivenNames s1
  try clear_value s1
  extract_lets -lift -underBinder -merge -useContext +onlyGivenNames s2
  try clear_value s2
  exact kept_ite (kept_setDma h1) (kept_setDma h1)

theorem kept_dmaRead {a0 : State} {a1 : ℕ} {a2 : ℕ} (h1 : Kept q a0) : Kept q (State.dmaRead a0 a1 a2).2 := by
  unfold State.dmaRead
  split
  · rename_i y1 y2 e4
    have k3 : Kept q y2 := kept_p2 e4 (kept_memRead h1)
    exact k3
  · rename_i y5 e7
    have k6 : Kept q y5 := kept_p2 e7 (kept_memRead h1)
    exact k6
  · rename_i y8 y9 e11
    have k10 : Kept q y9 := kept_p2 e11 (kept_memRead h1)
    exact k10

theorem kept_dmaHalt {a0 : State} {a1 : ℕ} {a2 : ℕ} {a3 : DmaAt} {a4 : ℕ} {a5 : Bool} (h1 : Kept q a0) : Kept q (State.dmaHalt a0 a1 a2 a3 a4 a5) := by
  unfold State.dmaHalt
  extract_lets -lift -underBinder -merge -useContext +onlyGivenNames s1
  try clear_value s1
  extract_lets -lift -underBinder -merge -useContext +onlyGivenNames s2
  have k3 : Kept q s2 := by unfold s2; exact kept_setDma h1
  clear_value s2
  exact kept_signal (kept_setReg64 k3)

theorem kept_dmaFetch {a0 : State} {a1 : ℕ} {a2 : ℕ} (h1 : Kept q a0) : Kept q (State.dmaFetch a0 a1 a2) := by
  unfold State.dmaFetch
  extract_lets -lift -underBinder -merge -useContext +onlyGivenNames s1
  have k2 : Kept q s1 := by unfold s1; exact kept_setReg64 h1
  clear_value s1
  split
  · rename_i y3 y4 e6
    have k5 : Kept q y4 := kept_p2 e6 (kept_dmaRead k2)
    exact kept_dmaHalt k5
  · rename_i y7 y8 e10
    have k9 : Kept q y8 := kept_p2 e10 (kept_dmaRead k2)
    extract_lets -lift -underBinder -merge -useContext +onlyGivenNames s11
    try clear_value s11
    extract_lets -lift -underBinder -merge -useContext +onlyGivenNames s12
    have k13 : Kept q s12 := by unfold s12; exact kept_setDma k9
    clear_value s12
    exact kept_ite (kept_dmaStart k13) (kept_dmaHalt k13)

theorem kept_dmaAppend {a0 : State} {a1 : ℕ} (h1 : Kept q a0) : Kept q (State.dmaAppend a0 a1) := by
  unfold State.dmaAppend
  extract_lets -lift -underBinder -merge -useContext +onlyGivenNames s1
  try clear_value s1
  extract_lets -lift -underBinder -merge -useContext +onlyGivenNames s2
  have k3 : Kept q s2 := by unfold s2; exact kept_setDma h1
  clear_value s2
  split
  · rename_i y4 y5 e7
    have k6 : Kept q y5 := kept_p2 e7 (kept_dmaRead k3)
    exact kept_dmaHalt k6
  · rename_i y8 y9 e11
    have k10 : Kept q y9 := kept_p2 e11 (kept_dmaRead k3)
    exact kept_ite (kept_setDma k10) (kept_ite (kept_dmaFetch k10) (kept_dmaHalt k10))

theorem kept_dmaKick {a0 : State} {a1 : ℕ} (h1 : Kept q a0) : Kept q (State.dmaKick a0 a1) := by
  unfold State.dmaKick
  extract_lets -lift -underBinder -merge -useContext +onlyGivenNames s1
  try clear_value s1
  refine kept_ite ?_ ?_
  · exact h1
  · split
    · exact kept_ite (kept_dmaFetch (kept_setDma h1)) h1
    · exact kept_ite (kept_dmaAppend h1) h1
    · exact h1

theorem kept_dmaGo {a0 : State} {a1 : ℕ} (h1 : Kept q a0) : Kept q (State.dmaGo a0 a1) := by
  unfold State.dmaGo
  exact kept_ite (kept_dmaStart h1) (kept_dmaKick h1)

theorem kept_dmaWake {a0 : State} (h1 : Kept q a0) : Kept q (State.dmaWake a0) := by
  unfold State.dmaWake
  refine kept_foldl ?_ ?_
  · exact h1
  · intro s1 x3 k2
    exact kept_ite (kept_dmaGo k2) k2

theorem kept_dmaAbort {a0 : State} {a1 : ℕ} (h1 : Kept q a0) : Kept q (State.dmaAbort a0 a1) := by
  unfold State.dmaAbort
  extract_lets -lift -underBinder -merge -useContext +onlyGivenNames s1
  try clear_value s1
  extract_lets -lift -underBinder -merge -useContext +onlyGivenNames s2
  have k3 : Kept q s2 := by unfold s2; exact kept_setDma h1
  clear_value s2
  extract_lets -lift -underBinder -merge -useContext +onlyGivenNames s4
  have k5 : Kept q s4 := by unfold s4; exact kept_bump k3
  clear_value s4
  exact Kept.upd k5

theorem kept_dmaPause {a0 : State} {a1 : ℕ} (h1 : Kept q a0) : Kept q (State.dmaPause a0 a1) := by
  unfold State.dmaPause
  extract_lets -lift -underBinder -merge -useContext +onlyGivenNames s1
  try clear_value s1
  exact kept_ite (kept_setDma h1) h1

theorem kept_dmaReissue {a0 : State} {a1 : ℕ} (h1 : Kept q a0) : Kept q (State.dmaReissue a0 a1) := by
  unfold State.dmaReissue
  extract_lets -lift -underBinder -merge -useContext +onlyGivenNames s1
  try clear_value s1
  extract_lets -lift -underBinder -merge -useContext +onlyGivenNames s2
  have k3 : Kept q s2 := by unfold s2; exact kept_setDma h1
  clear_value s2
  extract_lets -lift -underBinder -merge -useContext +onlyGivenNames s4
  have k5 : Kept q s4 := by
    unfold s4
    split
    · exact kept_dmaFetch k3
    · exact kept_dmaAppend k3
    · exact kept_setDma k3
    · exact kept_dmaStart k3
  clear_value s4
  exact kept_ite k5 (kept_dmaPause k5)

theorem kept_writeDmaCtrl {a0 : State} {a1 : ℕ} {a2 : BitVec 32} (h1 : Kept q a0) : Kept q (State.writeDmaCtrl a0 a1 a2) := by
  unfold State.writeDmaCtrl
  extract_lets -lift -underBinder -merge -useContext +onlyGivenNames s1
  try clear_value s1
  extract_lets -lift -underBinder -merge -useContext +onlyGivenNames s2
  have k3 : Kept q s2 := by unfold s2; exact kept_setReg h1
  clear_value s2
  extract_lets -lift -underBinder -merge -useContext +onlyGivenNames s4
  have k5 : Kept q s4 := by unfold s4; exact kept_ite (kept_ite (kept_dmaAbort k3) (kept_ite (kept_dmaReissue k3) k3)) k3
  clear_value s4
  exact kept_ite (kept_ite k5 (kept_dmaGo k5)) (kept_dmaPause k5)

theorem kept_dmaOrder {a0 : State} {a1 : ℕ} (h1 : Kept q a0) : Kept q (State.dmaOrder a0 a1) := by
  unfold State.dmaOrder
  exact kept_ite h1 (Kept.upd h1)

theorem kept_writeDoorbell {a0 : State} {a1 : ℕ} {a2 : BitVec 32} (h1 : Kept q a0) : Kept q (State.writeDoorbell a0 a1 a2) := by
  unfold State.writeDoorbell
  refine kept_ite ?_ ?_
  · exact h1
  · extract_lets -lift -underBinder -merge -useContext +onlyGivenNames s1
    try clear_value s1
    exact kept_dmaKick (kept_dmaOrder (kept_setDma h1))

theorem kept_writeDmaHead {a0 : State} {a1 : ℕ} {a2 : BitVec 64} (h1 : Kept q a0) : Kept q (State.writeDmaHead a0 a1 a2) := by
  unfold State.writeDmaHead
  extract_lets -lift -underBinder -merge -useContext +onlyGivenNames s1
  try clear_value s1
  refine kept_ite ?_ ?_
  · exact kept_error h1
  · extract_lets -lift -underBinder -merge -useContext +onlyGivenNames s2
    have k3 : Kept q s2 := by unfold s2; exact kept_setReg64 h1
    clear_value s2
    exact kept_done (kept_ite (kept_setDma k3) k3)

theorem kept_execDmaEnable {a0 : Initiator} {a1 : DmaCh} {a2 : BitVec 32} {s : State} (h : Kept q s) : KeptOut q (execDmaEnable a0 a1 a2 s) := by
  unfold execDmaEnable
  exact kept_unitAct (fun _ k2 => kept_done (kept_writeDmaCtrl k2)) h

theorem kept_dmaComplete {a0 : State} {a1 : ℕ} (h1 : Kept q a0) : Kept q (State.dmaComplete a0 a1) := by
  unfold State.dmaComplete
  extract_lets -lift -underBinder -merge -useContext +onlyGivenNames s1
  try clear_value s1
  extract_lets -lift -underBinder -merge -useContext +onlyGivenNames s2
  have k3 : Kept q s2 := by unfold s2; exact kept_setReg h1
  clear_value s2
  extract_lets -lift -underBinder -merge -useContext +onlyGivenNames s4
  have k5 : Kept q s4 := by unfold s4; exact kept_ite (kept_signal k3) k3
  clear_value s4
  exact kept_ite (kept_dmaAppend k5) (kept_dmaFetch k5)

theorem kept_dmaSleep {a0 : State} (h1 : Kept q a0) : Kept q (State.dmaSleep a0) := by
  unfold State.dmaSleep
  refine kept_foldl ?_ ?_
  · exact h1
  · intro s1 x3 k2
    exact kept_dmaPause k2

theorem kept_dmaClear {a0 : State} (h1 : Kept q a0) : Kept q (State.dmaClear a0) := by
  unfold State.dmaClear
  exact Kept.upd h1

theorem kept_execDmaWaitTimeout {a0 : DmaCh} {s : State} (h : Kept q s) : KeptOut q (execDmaWaitTimeout a0 s) := by
  unfold execDmaWaitTimeout
  refine kept_act ?_ h
  intro s3 k4
  extract_lets -lift -underBinder -merge -useContext +onlyGivenNames s5
  try clear_value s5
  exact kept_ite k4 (kept_ite (kept_dmaComplete k4) (kept_ite (kept_dmaHalt k4) (kept_dmaComplete (kept_bump k4))))

theorem kept_execDmaHeadWrite {a0 : Initiator} {a1 : DmaCh} {a2 : BitVec 64} {s : State} (h : Kept q s) : KeptOut q (execDmaHeadWrite a0 a1 a2 s) := by
  unfold execDmaHeadWrite
  exact kept_unitAct (fun _ k2 => kept_writeDmaHead k2) h

theorem kept_execDescriptorComplete {a0 : DmaCh} {s : State} (h : Kept q s) : KeptOut q (execDescriptorComplete a0 s) := by
  unfold execDescriptorComplete
  refine kept_act ?_ h
  intro s3 k4
  extract_lets -lift -underBinder -merge -useContext +onlyGivenNames s5
  try clear_value s5
  exact kept_ite (kept_dmaComplete k4) k4

theorem kept_execWaitevSignal {a0 : DmaCh} {a1 : Event} {s : State} (h : Kept q s) : KeptOut q (execWaitevSignal a0 a1 s) := by
  unfold execWaitevSignal
  refine kept_act ?_ h
  intro s3 k4
  extract_lets -lift -underBinder -merge -useContext +onlyGivenNames s5
  try clear_value s5
  exact kept_ite (kept_dmaComplete k4) k4

theorem kept_execDmaResume {a0 : Initiator} {a1 : DmaCh} {a2 : BitVec 32} {s : State} (h : Kept q s) : KeptOut q (execDmaResume a0 a1 a2 s) := by
  unfold execDmaResume
  exact kept_unitAct (fun _ k2 => kept_done (kept_writeDmaCtrl k2)) h

theorem kept_execDmaRing {a0 : Initiator} {a1 : DmaCh} {a2 : BitVec 32} {s : State} (h : Kept q s) : KeptOut q (execDmaRing a0 a1 a2 s) := by
  unfold execDmaRing
  exact kept_unitAct (fun _ k2 => kept_done (kept_writeDoorbell k2)) h

theorem kept_execDmaDisable {a0 : Initiator} {a1 : DmaCh} {a2 : BitVec 32} {s : State} (h : Kept q s) : KeptOut q (execDmaDisable a0 a1 a2 s) := by
  unfold execDmaDisable
  exact kept_unitAct (fun _ k2 => kept_done (kept_writeDmaCtrl k2)) h

theorem kept_execDmaAbort {a0 : Initiator} {a1 : DmaCh} {a2 : BitVec 32} {s : State} (h : Kept q s) : KeptOut q (execDmaAbort a0 a1 a2 s) := by
  unfold execDmaAbort
  exact kept_unitAct (fun _ k2 => kept_done (kept_writeDmaCtrl k2)) h

end Sys2Proof.Machine
end

