-- ==== Sys2Proof/Laws/KeptMemory.lean ====
section
/-! SUPPORT. The operations of Machine/Memory.lean keep the form of memory and the queue. -/

namespace Sys2Proof.Machine
open Sys2Proof

variable {q : List Instr × Bool}

theorem kept_wearUp {a0 : State} {a1 : ℕ} (h1 : Kept q a0) : Kept q (State.wearUp a0 a1) := by
  unfold State.wearUp
  extract_lets -lift -underBinder -merge -useContext +onlyGivenNames s1
  try clear_value s1
  extract_lets -lift -underBinder -merge -useContext +onlyGivenNames s2
  have k3 : Kept q s2 := by unfold s2; exact kept_setBytes (kept_markValid h1)
  clear_value s2
  extract_lets -lift -underBinder -merge -useContext +onlyGivenNames s4
  try clear_value s4
  exact kept_ite (kept_signal (Kept.updMem k3)) k3

theorem kept_programWord {a0 : State} {a1 : ℕ} {a2 : Bytes} (h1 : Kept q a0) : Kept q (State.programWord a0 a1 a2) := by
  unfold State.programWord
  extract_lets -lift -underBinder -merge -useContext +onlyGivenNames s1
  have k2 : Kept q s1 := by
    unfold s1
    refine kept_foldl ?_ ?_
    · exact h1
    · intro s3 x5 k4
      exact kept_setErr k4
  clear_value s1
  exact kept_wearUp (kept_setBytes (kept_markValid k2))

theorem kept_programWords {s : State} {a : Nat} {b : List Bytes} (h : Kept q s) : Kept q (s.programWords a b) := by
  induction b generalizing s a with
  | nil => exact h
  | cons v b ih => exact ih (kept_programWord h)

theorem kept_refuseAppend {a0 : State} (h1 : Kept q a0) : Kept q (State.refuseAppend a0) := by
  unfold State.refuseAppend
  exact kept_error (kept_signal h1)

theorem kept_appendRecord {a0 : State} {a1 : Bytes} {a2 : ℕ} {a3 : Bytes} (h1 : Kept q a0) : Kept q (State.appendRecord a0 a1 a2 a3) := by
  unfold State.appendRecord
  refine kept_ite ?_ ?_
  · extract_lets -lift -underBinder -merge -useContext +onlyGivenNames s1
    have k2 : Kept q s1 := by unfold s1; exact kept_programWords h1
    clear_value s1
    exact kept_done (kept_regWatch (Kept.upd k2))
  · exact kept_refuseAppend h1

theorem kept_eraseBlock {s : State} {a : Nat} (h : Kept q s) : Kept q (s.eraseBlock a) := by
  unfold State.eraseBlock
  exact kept_wearUp (Kept.drop h)

theorem kept_writeNvCtrl {a0 : State} {a1 : BitVec 64} (h1 : Kept q a0) : Kept q (State.writeNvCtrl a0 a1) := by
  unfold State.writeNvCtrl
  extract_lets -lift -underBinder -merge -useContext +onlyGivenNames s1
  try clear_value s1
  refine kept_ite ?_ ?_
  · exact kept_done h1
  · refine kept_ite ?_ ?_
    · exact kept_error h1
    · refine kept_ite ?_ ?_
      · split
        · exact kept_ite (kept_refuseAppend h1) (kept_done (kept_eraseBlock h1))
        · exact kept_done (kept_regWatch (kept_eraseBlock h1))
      · exact kept_done (kept_eraseBlock h1)

theorem kept_setStage {a0 : State} {a1 : Table Byte} (h1 : Kept q a0) : Kept q (State.setStage a0 a1) := by
  unfold State.setStage
  exact Kept.updMem h1

theorem kept_stageWord {a0 : State} {a1 : Bytes} {a2 : ℕ} {a3 : Bytes} (h1 : Kept q a0) : Kept q (State.stageWord a0 a1 a2 a3) := by
  unfold State.stageWord
  extract_lets -lift -underBinder -merge -useContext +onlyGivenNames s1
  try clear_value s1
  refine kept_ite ?_ ?_
  · exact kept_refuseAppend h1
  · extract_lets -lift -underBinder -merge -useContext +onlyGivenNames s2
    try clear_value s2
    refine kept_ite ?_ ?_
    · extract_lets -lift -underBinder -merge -useContext +onlyGivenNames s3
      try clear_value s3
      extract_lets -lift -underBinder -merge -useContext +onlyGivenNames s4
      try clear_value s4
      exact kept_appendRecord (kept_setStage h1)
    · exact kept_done (kept_setStage h1)

theorem kept_nvWrite {a0 : State} {a1 : ℕ} {a2 : Bytes} {a3 : Bool} (h1 : Kept q a0) : Kept q (State.nvWrite a0 a1 a2 a3) := by
  unfold State.nvWrite
  refine kept_ite ?_ ?_
  · exact kept_error h1
  · refine kept_ite ?_ ?_
    · extract_lets -lift -underBinder -merge -useContext +onlyGivenNames s1
      have k2 : Kept q s1 := by unfold s1; exact kept_wearUp h1
      clear_value s1
      exact kept_error (kept_signal (kept_setReg k2))
    · refine kept_ite ?_ ?_
      · split
        · exact kept_stageWord h1
        · extract_lets -lift -underBinder -merge -useContext +onlyGivenNames s5
          have k6 : Kept q s5 := by unfold s5; exact kept_programWord h1
          clear_value s5
          exact kept_done (kept_regWatch (Kept.upd k6))
      · exact kept_done (kept_programWord h1)

theorem kept_execNvWordWrite {a0 : Initiator} {a1 : Addr} {a2 : BitVec 64} {a3 : Bool} {s : State} (h : Kept q s) : KeptOut q (execNvWordWrite a0 a1 a2 a3 s) := by
  unfold execNvWordWrite
  exact kept_act (fun _ k2 => kept_ite (kept_nvWrite k2) (kept_error k2)) h

theorem kept_scrubByte {a0 : State} {a1 : Bool} {a2 : ℕ} (h1 : Kept q a0) : Kept q (State.scrubByte a0 a1 a2) := by
  unfold State.scrubByte
  split
  · exact h1
  · exact kept_setErr (kept_checkUnit h1)
  · extract_lets -lift -underBinder -merge -useContext +onlyGivenNames s4
    have k5 : Kept q s4 := by unfold s4; exact kept_ite h1 (kept_bump h1)
    clear_value s4
    exact kept_signal (kept_latchAddr k5)

theorem kept_execNvErase {a0 : Initiator} {a1 : BitVec 64} {s : State} (h : Kept q s) : KeptOut q (execNvErase a0 a1 s) := by
  unfold execNvErase
  exact kept_unitAct (fun _ k2 => kept_writeNvCtrl k2) h

theorem kept_scrubCopy {a0 : State} {a1 : MRegion} {a2 : ℕ} (h1 : Kept q a0) : Kept q (State.scrubCopy a0 a1 a2) := by
  unfold State.scrubCopy
  refine kept_ite ?_ ?_
  · exact h1
  · split
    · exact h1
    · exact kept_setErr (kept_corrected h1)
    · exact kept_poisonRead h1

theorem kept_scrubLine {a0 : State} {a1 : ScrubWalk} {a2 : ℕ} (h1 : Kept q a0) : Kept q (State.scrubLine a0 a1 a2) := by
  unfold State.scrubLine
  split
  · exact h1
  · split
    · exact h1
    · refine kept_ite ?_ ?_
      · exact h1
      · split
        · refine kept_ite ?_ ?_
          · exact h1
          · split
            · rename_i y6 y8 e9
              have k7 : Kept q y6 := kept_p1 e9 (kept_checkUnit h1)
              exact kept_ite (kept_signal (kept_latchAddr k7)) k7
        · refine kept_ite ?_ ?_
          · refine kept_foldl ?_ ?_
            · exact h1
            · intro s11 x13 k12
              exact kept_scrubCopy (kept_scrubByte k12)
          · exact h1
        · refine kept_foldl ?_ ?_
          · exact h1
          · intro s15 x17 k16
            extract_lets -lift -underBinder -merge -useContext +onlyGivenNames s18
            try clear_value s18
            refine kept_ite ?_ ?_
            · exact k16
            · extract_lets -lift -underBinder -merge -useContext +onlyGivenNames s19
              try clear_value s19
              extract_lets -lift -underBinder -merge -useContext +onlyGivenNames s20
              have k21 : Kept q s20 := by
                unfold s20
                refine kept_foldl ?_ ?_
                · exact k16
                · intro s22 x24 k23
                  exact kept_scrubByte k23
              clear_value s20
              exact kept_ite (kept_wearUp k21) k21

theorem kept_walkOn {a0 : State} {a1 : ScrubWalk} (h1 : Kept q a0) : Kept q (State.walkOn a0 a1) := by
  unfold State.walkOn
  extract_lets -lift -underBinder -merge -useContext +onlyGivenNames s1
  try clear_value s1
  extract_lets -lift -underBinder -merge -useContext +onlyGivenNames s2
  try clear_value s2
  extract_lets -lift -underBinder -merge -useContext +onlyGivenNames s3
  have k4 : Kept q s3 := by unfold s3; exact kept_scrubLine h1
  clear_value s3
  refine kept_ite ?_ ?_
  · exact Kept.updMem k4
  · extract_lets -lift -underBinder -merge -useContext +onlyGivenNames s5
    try clear_value s5
    extract_lets -lift -underBinder -merge -useContext +onlyGivenNames s6
    have k7 : Kept q s6 := by unfold s6; exact kept_setReg k4
    clear_value s6
    exact Kept.updMem k7

theorem kept_execScrubStep {a0 : ScrubWalk} {s : State} (h : Kept q s) : KeptOut q (execScrubStep a0 s) := by
  unfold execScrubStep
  refine kept_act ?_ h
  intro s3 k4
  refine kept_foldl ?_ ?_
  · exact k4
  · intro s5 x7 k6
    exact kept_walkOn k6

theorem kept_execPrivilegedLapOverdue {s : State} (h : Kept q s) : KeptOut q (execPrivilegedLapOverdue s) := by
  unfold execPrivilegedLapOverdue
  exact kept_act (fun _ k2 => kept_ite (kept_signal (Kept.updMem k2)) k2) h

end Sys2Proof.Machine
end

