-- ==== Sys2Proof/Laws/KeptBoot.lean ====
section
/-! SUPPORT. The operations of Machine/Boot.lean keep the form of memory and the queue. -/

namespace Sys2Proof.Machine
open Sys2Proof

variable {q : List Instr × Bool}

theorem kept_putBoot {a0 : State} {a1 : BootRec} (h1 : Kept q a0) : Kept q (State.putBoot a0 a1) := by
  unfold State.putBoot
  extract_lets -lift -underBinder -merge -useContext +onlyGivenNames s1
  try clear_value s1
  exact kept_programWords h1

theorem kept_enterRecovery {a0 : State} (h1 : Kept q a0) : Kept q (State.enterRecovery a0) := by
  unfold State.enterRecovery
  exact kept_startPll (kept_setReg (Kept.upd h1))

theorem kept_bootChoice {a0 : State} (h1 : Kept q a0) : Kept q (State.bootChoice a0).2.2 := by
  unfold State.bootChoice
  extract_lets -lift -underBinder -merge -useContext +onlyGivenNames s1
  try clear_value s1
  split
  · exact kept_ite_p22 (kept_signal (kept_putBoot h1)) (kept_putBoot h1)
  · exact h1

theorem kept_bootSlot {a0 : State} {a1 : ℕ} {a2 : Bool} (h1 : Kept q a0) : Kept q (State.bootSlot a0 a1 a2) := by
  unfold State.bootSlot
  exact Kept.upd h1

theorem kept_bootRom {a0 : State} {a1 : Bool} (h1 : Kept q a0) : Kept q (State.bootRom a0 a1) := by
  unfold State.bootRom
  extract_lets -lift -underBinder -merge -useContext +onlyGivenNames s1
  have k2 : Kept q s1 := by unfold s1; exact kept_regWatch h1
  clear_value s1
  refine kept_ite ?_ ?_
  · exact kept_enterRecovery k2
  · split
    · rename_i y3 y4 y5 e7
      have k6 : Kept q y5 := kept_p22 e7 (kept_bootChoice k2)
      exact kept_ite (kept_bootSlot k6) (kept_ite (kept_bootSlot (kept_signal k6)) (kept_enterRecovery k6))

theorem kept_resetLogic {s : State} {cause : Nat} (h : Kept q s) : Kept q (s.resetLogic cause) := by
  unfold State.resetLogic
  exact Kept.drop h

theorem kept_selfReset {a0 : State} {a1 : ℕ} (h1 : Kept q a0) : Kept q (State.selfReset a0 a1) := by
  unfold State.selfReset
  exact kept_bootRom (kept_resetLogic h1)

theorem kept_resetAll {a0 : State} (h1 : Kept q a0) : Kept q (State.resetAll a0) := by
  unfold State.resetAll
  extract_lets -lift -underBinder -merge -useContext +onlyGivenNames s1
  have k2 : Kept q s1 := by unfold s1; exact kept_resetLogic h1
  clear_value s1
  exact Kept.upd k2

end Sys2Proof.Machine
end

