-- ==== Sys2Proof/Laws/KeptLanes.lean ====
section
/-! SUPPORT. The operations of Machine/Lanes.lean keep the form of memory and the queue. -/

namespace Sys2Proof.Machine
open Sys2Proof

variable {q : List Instr × Bool}

theorem kept_setLane {a0 : State} {a1 : ℕ} {a2 : LaneSt} (h1 : Kept q a0) : Kept q (State.setLane a0 a1 a2) := by
  unfold State.setLane
  exact Kept.upd h1

theorem kept_updLane {a0 : State} {a1 : ℕ} {a2 : LaneSt → LaneSt} (h1 : Kept q a0) : Kept q (State.updLane a0 a1 a2) := by
  unfold State.updLane
  exact kept_setLane h1

theorem kept_laneBlock {a0 : State} {a1 : ℕ} {a2 : Block66} (h1 : Kept q a0) : Kept q (State.laneBlock a0 a1 a2) := by
  unfold State.laneBlock
  split
  · extract_lets -lift -underBinder -merge -useContext +onlyGivenNames s3
    try clear_value s3
    extract_lets -lift -underBinder -merge -useContext +onlyGivenNames s4
    try clear_value s4
    extract_lets -lift -underBinder -merge -useContext +onlyGivenNames s5
    have k6 : Kept q s5 := by unfold s5; exact kept_setLane h1
    clear_value s5
    exact kept_ite k6 (kept_emitOut k6)

theorem kept_sendBlock {a0 : State} {a1 : ℕ} {a2 : ℕ} {a3 : ℕ} (h1 : Kept q a0) : Kept q (State.sendBlock a0 a1 a2 a3) := by
  unfold State.sendBlock
  refine kept_ite ?_ ?_
  · exact h1
  · extract_lets -lift -underBinder -merge -useContext +onlyGivenNames s1
    have k2 : Kept q s1 := by
      unfold s1
      refine kept_foldl ?_ ?_
      · exact h1
      · intro s3 x5 k4
        exact kept_laneBlock k4
    clear_value s1
    exact kept_ite (kept_updLane k2) k2

theorem kept_trainLane {a0 : State} {a1 : ℕ} (h1 : Kept q a0) : Kept q (State.trainLane a0 a1) := by
  unfold State.trainLane
  extract_lets -lift -underBinder -merge -useContext +onlyGivenNames s1
  have k2 : Kept q s1 := by unfold s1; exact kept_sendBlock h1
  clear_value s1
  extract_lets -lift -underBinder -merge -useContext +onlyGivenNames s3
  have k4 : Kept q s3 := by unfold s3; exact kept_ite (kept_emitOut k2) k2
  clear_value s3
  exact kept_updLane k4

theorem kept_wakeLane {a0 : State} {a1 : ℕ} (h1 : Kept q a0) : Kept q (State.wakeLane a0 a1) := by
  unfold State.wakeLane
  extract_lets -lift -underBinder -merge -useContext +onlyGivenNames s1
  try clear_value s1
  exact kept_ite h1 (kept_ite (kept_updLane (kept_sendBlock h1)) (kept_trainLane h1))

theorem kept_execPllLock {a0 : Group} {s : State} (h : Kept q s) : KeptOut q (execPllLock a0 s) := by
  unfold execPllLock
  refine kept_act ?_ h
  intro s3 k4
  refine kept_ite ?_ ?_
  · exact k4
  · extract_lets -lift -underBinder -merge -useContext +onlyGivenNames s5
    have k6 : Kept q s5 := by unfold s5; exact Kept.upd k4
    clear_value s5
    refine kept_foldl ?_ ?_
    · exact k6
    · intro s7 x9 k8
      extract_lets -lift -underBinder -merge -useContext +onlyGivenNames s10
      try clear_value s10
      extract_lets -lift -underBinder -merge -useContext +onlyGivenNames s11
      have k12 : Kept q s11 := by unfold s11; exact kept_setLane k8
      clear_value s11
      exact kept_ite k12 (kept_wakeLane k12)

theorem kept_partnerLost {a0 : State} {a1 : ℕ} {a2 : Bool} {a3 : Bool} (h1 : Kept q a0) : Kept q (State.partnerLost a0 a1 a2 a3) := by
  unfold State.partnerLost
  extract_lets -lift -underBinder -merge -useContext +onlyGivenNames s1
  try clear_value s1
  extract_lets -lift -underBinder -merge -useContext +onlyGivenNames s2
  try clear_value s2
  extract_lets -lift -underBinder -merge -useContext +onlyGivenNames s3
  have k4 : Kept q s3 := by unfold s3; exact kept_setPort (kept_signal h1)
  clear_value s3
  extract_lets -lift -underBinder -merge -useContext +onlyGivenNames s5
  have k6 : Kept q s5 := by
    unfold s5
    refine kept_foldl ?_ ?_
    · exact k4
    · intro s9 x11 k10
      exact kept_sendOwn k10
  clear_value s5
  extract_lets -lift -underBinder -merge -useContext +onlyGivenNames s7
  have k8 : Kept q s7 := by unfold s7; exact kept_ite (kept_ite (kept_flushHolds k6) k6) h1
  clear_value s7
  exact kept_ite (kept_signal k8) k8

theorem kept_portDown {a0 : State} {a1 : ℕ} (h1 : Kept q a0) : Kept q (State.portDown a0 a1) := by
  unfold State.portDown
  extract_lets -lift -underBinder -merge -useContext +onlyGivenNames s1
  try clear_value s1
  refine kept_ite ?_ ?_
  · exact h1
  · extract_lets -lift -underBinder -merge -useContext +onlyGivenNames s2
    try clear_value s2
    extract_lets -lift -underBinder -merge -useContext +onlyGivenNames s3
    have k4 : Kept q s3 := by unfold s3; exact kept_setPort h1
    clear_value s3
    extract_lets -lift -underBinder -merge -useContext +onlyGivenNames s5
    have k6 : Kept q s5 := by
      unfold s5
      refine kept_foldl ?_ ?_
      · exact k4
      · intro s7 x9 k8
        exact kept_setVl k8
    clear_value s5
    exact kept_partnerLost k6

theorem kept_laneDown {a0 : State} {a1 : ℕ} (h1 : Kept q a0) : Kept q (State.laneDown a0 a1) := by
  unfold State.laneDown
  split
  · exact kept_portDown h1
  · exact h1

theorem kept_laneEvent {a0 : State} {a1 : ℕ} (h1 : Kept q a0) : Kept q (State.laneEvent a0 a1) := by
  unfold State.laneEvent
  exact kept_signal h1

theorem kept_execLossOfSignal {a0 : Lane} {s : State} (h : Kept q s) : KeptOut q (execLossOfSignal a0 s) := by
  unfold execLossOfSignal
  refine kept_act ?_ h
  intro s3 k4
  extract_lets -lift -underBinder -merge -useContext +onlyGivenNames s5
  try clear_value s5
  refine kept_ite ?_ ?_
  · exact k4
  · extract_lets -lift -underBinder -merge -useContext +onlyGivenNames s6
    try clear_value s6
    refine kept_ite ?_ ?_
    · exact kept_setLane k4
    · extract_lets -lift -underBinder -merge -useContext +onlyGivenNames s7
      have k8 : Kept q s7 := by unfold s7; exact kept_setLane k4
      clear_value s7
      exact kept_laneDown (kept_laneEvent (kept_bump k8))

theorem kept_idleLane {a0 : State} {a1 : ℕ} (h1 : Kept q a0) : Kept q (State.idleLane a0 a1) := by
  unfold State.idleLane
  split
  · exact h1
  · exact kept_updLane (kept_sendBlock h1)

theorem kept_writeGcfg {a0 : State} {a1 : ℕ} {a2 : BitVec 32} (h1 : Kept q a0) : Kept q (State.writeGcfg a0 a1 a2) := by
  unfold State.writeGcfg
  extract_lets -lift -underBinder -merge -useContext +onlyGivenNames s1
  try clear_value s1
  extract_lets -lift -underBinder -merge -useContext +onlyGivenNames s2
  try clear_value s2
  refine kept_ite ?_ ?_
  · exact kept_error h1
  · extract_lets -lift -underBinder -merge -useContext +onlyGivenNames s3
    have k4 : Kept q s3 := by
      unfold s3
      refine kept_foldl ?_ ?_
      · exact h1
      · intro s13 x15 k14
        exact kept_idleLane (kept_laneDown k14)
    clear_value s3
    extract_lets -lift -underBinder -merge -useContext +onlyGivenNames s5
    have k6 : Kept q s5 := by
      unfold s5
      refine kept_ite ?_ ?_
      · refine kept_foldl ?_ ?_
        · exact Kept.upd k4
        · intro s9 x11 k10
          extract_lets -lift -underBinder -merge -useContext +onlyGivenNames s12
          try clear_value s12
          exact kept_setLane k10
      · exact h1
    clear_value s5
    extract_lets -lift -underBinder -merge -useContext +onlyGivenNames s7
    have k8 : Kept q s7 := by unfold s7; exact kept_setReg k6
    clear_value s7
    exact kept_done (kept_ite (kept_startPll k8) k8)

theorem kept_execLaneGroupEnable {a0 : Initiator} {a1 : Group} {a2 : BitVec 32} {s : State} (h : Kept q s) : KeptOut q (execLaneGroupEnable a0 a1 a2 s) := by
  unfold execLaneGroupEnable
  exact kept_unitAct (fun _ k2 => kept_writeGcfg k2) h

theorem kept_lanesOff {a0 : State} (h1 : Kept q a0) : Kept q (State.lanesOff a0) := by
  unfold State.lanesOff
  extract_lets -lift -underBinder -merge -useContext +onlyGivenNames s1
  have k2 : Kept q s1 := by
    unfold s1
    refine kept_foldl ?_ ?_
    · exact h1
    · intro s3 x5 k4
      extract_lets -lift -underBinder -merge -useContext +onlyGivenNames s6
      have k7 : Kept q s6 := by unfold s6; exact kept_laneDown k4
      clear_value s6
      extract_lets -lift -underBinder -merge -useContext +onlyGivenNames s8
      try clear_value s8
      exact kept_setLane k7
  clear_value s1
  exact Kept.upd k2

theorem kept_askIdle {a0 : State} {a1 : ℕ} (h1 : Kept q a0) : Kept q (State.askIdle a0 a1) := by
  unfold State.askIdle
  extract_lets -lift -underBinder -merge -useContext +onlyGivenNames s1
  try clear_value s1
  split
  · exact kept_ite (kept_setLane h1) (kept_idleLane h1)
  · exact kept_idleLane h1

theorem kept_writeLaneCtrl {a0 : State} {a1 : ℕ} {a2 : BitVec 32} (h1 : Kept q a0) : Kept q (State.writeLaneCtrl a0 a1 a2) := by
  unfold State.writeLaneCtrl
  extract_lets -lift -underBinder -merge -useContext +onlyGivenNames s1
  try clear_value s1
  extract_lets -lift -underBinder -merge -useContext +onlyGivenNames s2
  try clear_value s2
  extract_lets -lift -underBinder -merge -useContext +onlyGivenNames s3
  have k4 : Kept q s3 := by unfold s3; exact kept_setReg h1
  clear_value s3
  extract_lets -lift -underBinder -merge -useContext +onlyGivenNames s5
  have k6 : Kept q s5 := by
    unfold s5
    refine kept_ite ?_ ?_
    · exact k4
    · refine kept_ite ?_ ?_
      · exact kept_askIdle k4
      · refine kept_ite ?_ ?_
        · exact kept_setLane (kept_wakeLane k4)
        · exact k4
  clear_value s5
  exact kept_done k6

theorem kept_execTrainingEnd {a0 : Lane} {s : State} (h : Kept q s) : KeptOut q (execTrainingEnd a0 s) := by
  unfold execTrainingEnd
  refine kept_act ?_ h
  intro s3 k4
  extract_lets -lift -underBinder -merge -useContext +onlyGivenNames s5
  try clear_value s5
  extract_lets -lift -underBinder -merge -useContext +onlyGivenNames s6
  try clear_value s6
  refine kept_ite ?_ ?_
  · exact k4
  · extract_lets -lift -underBinder -merge -useContext +onlyGivenNames s7
    have k8 : Kept q s7 := by unfold s7; exact kept_setLane k4
    clear_value s7
    exact kept_ite (kept_idleLane k8) k8

theorem kept_portIn {s : State} {p : Nat} {o : Out} (h : Kept q s) : ∀ t, s.portIn p o = some t → Kept q t := by
  intro t e
  unfold State.portIn at e
  split at e
  · cases e
  · split at e
    · cases e; exact h
    · split at e
      · split at e
        · split at e
          · cases e; exact kept_setPort h
          · cases e
        · cases e
      · cases e; exact kept_emitOut h

theorem kept_streamBlocks {a0 : State} {a1 : ℕ} {a2 : List Block66} (h1 : Kept q a0) : Kept q (State.streamBlocks a0 a1 a2) := by
  unfold State.streamBlocks
  extract_lets -lift -underBinder -merge -useContext +onlyGivenNames s1
  try clear_value s1
  refine kept_ite ?_ ?_
  · exact h1
  · extract_lets -lift -underBinder -merge -useContext +onlyGivenNames s2
    try clear_value s2
    extract_lets -lift -underBinder -merge -useContext +onlyGivenNames s3
    try clear_value s3
    extract_lets -lift -underBinder -merge -useContext +onlyGivenNames s4
    have k5 : Kept q s4 := by unfold s4; exact kept_setPort h1
    clear_value s4
    refine kept_foldl ?_ ?_
    · exact k5
    · intro s6 x8 k7
      exact kept_laneBlock k7

theorem kept_portOut {a0 : State} {a1 : ℕ} {a2 : Out} (h1 : Kept q a0) : Kept q (State.portOut a0 a1 a2) := by
  unfold State.portOut
  exact kept_ite h1 (kept_ite (kept_emitOut h1) (kept_ite (kept_setPort h1) h1))

theorem kept_sendFrame {a0 : State} {a1 : ℕ} {a2 : BitVec 64} {a3 : Bytes} (h1 : Kept q a0) : Kept q (State.sendFrame a0 a1 a2 a3) := by
  unfold State.sendFrame
  refine kept_ite ?_ ?_
  · exact kept_streamBlocks (kept_portOut h1)
  · extract_lets -lift -underBinder -merge -useContext +onlyGivenNames s1
    have k2 : Kept q s1 := by unfold s1; exact kept_ite (kept_emitOut h1) h1
    clear_value s1
    exact kept_portOut k2

theorem kept_execLaneGroupDisable {a0 : Initiator} {a1 : Group} {a2 : BitVec 32} {s : State} (h : Kept q s) : KeptOut q (execLaneGroupDisable a0 a1 a2 s) := by
  unfold execLaneGroupDisable
  exact kept_unitAct (fun _ k2 => kept_writeGcfg k2) h

theorem kept_lineIn {a0 : State} {a1 : ℕ} {a2 : LineRun} (h1 : Kept q a0) : Kept q (State.lineIn a0 a1 a2).2 := by
  unfold State.lineIn
  extract_lets -lift -underBinder -merge -useContext +onlyGivenNames s1
  try clear_value s1
  refine kept_ite_p2 ?_ ?_
  · exact h1
  · refine kept_ite_p2 ?_ ?_
    · extract_lets -lift -underBinder -merge -useContext +onlyGivenNames s2
      try clear_value s2
      extract_lets -lift -underBinder -merge -useContext +onlyGivenNames s3
      try clear_value s3
      extract_lets -lift -underBinder -merge -useContext +onlyGivenNames s4
      try clear_value s4
      exact kept_setLane h1
    · dsimp only
      refine kept_foldl ?_ ?_
      · exact h1
      · intro s5 x7 k6
        exact kept_emitOut k6

theorem kept_execLaneIdleExit {a0 : Initiator} {a1 : Lane} {a2 : BitVec 32} {s : State} (h : Kept q s) : KeptOut q (execLaneIdleExit a0 a1 a2 s) := by
  unfold execLaneIdleExit
  exact kept_unitAct (fun _ k2 => kept_writeLaneCtrl k2) h

theorem kept_retrainLane {a0 : State} {a1 : ℕ} (h1 : Kept q a0) : Kept q (State.retrainLane a0 a1) := by
  unfold State.retrainLane
  refine kept_ite ?_ ?_
  · extract_lets -lift -underBinder -merge -useContext +onlyGivenNames s1
    try clear_value s1
    extract_lets -lift -underBinder -merge -useContext +onlyGivenNames s2
    have k3 : Kept q s2 := by unfold s2; exact kept_trainLane h1
    clear_value s2
    exact kept_setLane k3
  · exact kept_setLane h1

theorem kept_execFastExitFail {a0 : Lane} {s : State} (h : Kept q s) : KeptOut q (execFastExitFail a0 s) := by
  unfold execFastExitFail
  refine kept_act ?_ h
  intro s3 k4
  extract_lets -lift -underBinder -merge -useContext +onlyGivenNames s5
  try clear_value s5
  split
  · exact k4
  · refine kept_ite ?_ ?_
    · exact k4
    · extract_lets -lift -underBinder -merge -useContext +onlyGivenNames s8
      have k9 : Kept q s8 := by unfold s8; exact kept_setLane k4
      clear_value s8
      extract_lets -lift -underBinder -merge -useContext +onlyGivenNames s10
      have k11 : Kept q s10 := by unfold s10; exact kept_wakeLane (kept_laneEvent (kept_bump k9))
      clear_value s10
      refine kept_ite ?_ ?_
      · exact k11
      · extract_lets -lift -underBinder -merge -useContext +onlyGivenNames s12
        have k13 : Kept q s12 := by unfold s12; exact kept_sendBlock k11
        clear_value s12
        exact kept_ite (kept_retrainLane k13) k13

theorem kept_headers {a0 : State} {a1 : ℕ} {a2 : List SyncHeader} (h1 : Kept q a0) : Kept q (State.headers a0 a1 a2) := by
  unfold State.headers
  extract_lets -lift -underBinder -merge -useContext +onlyGivenNames s1
  try clear_value s1
  extract_lets -lift -underBinder -merge -useContext +onlyGivenNames s2
  try clear_value s2
  exact kept_bumpBy (kept_setLane h1)

theorem kept_execBlockLock {a0 : Lane} {a1 : List SyncHeader} {s : State} (h : Kept q s) : KeptOut q (execBlockLock a0 a1 s) := by
  unfold execBlockLock
  refine kept_act ?_ h
  intro s3 k4
  extract_lets -lift -underBinder -merge -useContext +onlyGivenNames s5
  try clear_value s5
  refine kept_ite ?_ ?_
  · exact k4
  · extract_lets -lift -underBinder -merge -useContext +onlyGivenNames s6
    have k7 : Kept q s6 := by unfold s6; exact kept_headers k4
    clear_value s6
    exact kept_ite (kept_updLane k7) k7

theorem kept_gotBlock {a0 : State} {a1 : ℕ} {a2 : ℕ} {a3 : LineRun} (h1 : Kept q a0) : Kept q (State.gotBlock a0 a1 a2 a3).2 := by
  unfold State.gotBlock
  split
  · rename_i y1 y2 e4
    have k3 : Kept q y2 := kept_p2 e4 (kept_lineIn h1)
    exact k3

theorem kept_execRetrain {a0 : Lane} {a1 : LineRun} {s : State} (h : Kept q s) : KeptOut q (execRetrain a0 a1 s) := by
  unfold execRetrain
  refine kept_act ?_ h
  intro s3 k4
  split
  · rename_i y5 y6 e8
    have k7 : Kept q y6 := kept_p2 e8 (kept_gotBlock k4)
    exact kept_ite (kept_retrainLane k7) k7

theorem kept_execAcquisitionRetry {a0 : Lane} {s : State} (h : Kept q s) : KeptOut q (execAcquisitionRetry a0 s) := by
  unfold execAcquisitionRetry
  refine kept_act ?_ h
  intro s3 k4
  extract_lets -lift -underBinder -merge -useContext +onlyGivenNames s5
  try clear_value s5
  exact kept_ite (kept_bump (kept_setLane k4)) k4

theorem kept_trainAgain {a0 : State} {a1 : ℕ} (h1 : Kept q a0) : Kept q (State.trainAgain a0 a1) := by
  unfold State.trainAgain
  split
  · exact kept_updLane h1
  · exact h1
  · exact kept_ite (kept_trainLane h1) h1

theorem kept_execLossOfLock {a0 : Lane} {a1 : Bool} {a2 : List SyncHeader} {s : State} (h : Kept q s) : KeptOut q (execLossOfLock a0 a1 a2 s) := by
  unfold execLossOfLock
  refine kept_act ?_ h
  intro s3 k4
  extract_lets -lift -underBinder -merge -useContext +onlyGivenNames s5
  try clear_value s5
  refine kept_ite ?_ ?_
  · exact k4
  · extract_lets -lift -underBinder -merge -useContext +onlyGivenNames s6
    have k7 : Kept q s6 := by unfold s6; exact kept_ite (kept_headers k4) k4
    clear_value s6
    refine kept_ite ?_ ?_
    · exact k7
    · extract_lets -lift -underBinder -merge -useContext +onlyGivenNames s8
      try clear_value s8
      extract_lets -lift -underBinder -merge -useContext +onlyGivenNames s9
      have k10 : Kept q s9 := by unfold s9; exact kept_setLane k7
      clear_value s9
      extract_lets -lift -underBinder -merge -useContext +onlyGivenNames s11
      have k12 : Kept q s11 := by unfold s11; exact kept_laneDown (kept_laneEvent (kept_bump k10))
      clear_value s11
      exact kept_ite (kept_trainAgain k12) k12

theorem kept_signalOn {a0 : State} {a1 : ℕ} (h1 : Kept q a0) : Kept q (State.signalOn a0 a1) := by
  unfold State.signalOn
  extract_lets -lift -underBinder -merge -useContext +onlyGivenNames s1
  have k2 : Kept q s1 := by unfold s1; exact kept_ite (kept_trainAgain h1) h1
  clear_value s1
  extract_lets -lift -underBinder -merge -useContext +onlyGivenNames s3
  try clear_value s3
  exact kept_ite k2 (kept_ite (kept_setLane k2) (kept_setLane k2))

theorem kept_execTrain {a0 : Lane} {a1 : LineRun} {s : State} (h : Kept q s) : KeptOut q (execTrain a0 a1 s) := by
  unfold execTrain
  refine kept_act ?_ h
  intro s3 k4
  split
  · rename_i y5 e7
    have k6 : Kept q y5 := kept_p2 e7 (kept_gotBlock k4)
    exact k6
  · rename_i y8 y9 e11
    have k10 : Kept q y9 := kept_p2 e11 (kept_gotBlock k4)
    exact kept_ite k10 (kept_laneEvent (kept_bump k10))

theorem kept_sendWords {a0 : State} {a1 : ℕ} {a2 : List (BitVec 64)} (h1 : Kept q a0) : Kept q (State.sendWords a0 a1 a2) := by
  unfold State.sendWords
  refine kept_ite ?_ ?_
  · refine kept_streamBlocks ?_
    · refine kept_foldl ?_ ?_
      · exact h1
      · intro s1 x3 k2
        exact kept_portOut k2
  · extract_lets -lift -underBinder -merge -useContext +onlyGivenNames s4
    have k5 : Kept q s4 := by
      unfold s4
      refine kept_ite ?_ ?_
      · refine kept_foldl ?_ ?_
        · exact h1
        · intro s10 x12 k11
          exact kept_emitOut k11
      · exact h1
    clear_value s4
    refine kept_foldl ?_ ?_
    · exact k5
    · intro s6 x8 k7
      extract_lets -lift -underBinder -merge -useContext +onlyGivenNames s9
      try clear_value s9
      exact kept_sendFrame k7

theorem kept_execLaneIdleRequest {a0 : Initiator} {a1 : Lane} {a2 : BitVec 32} {s : State} (h : Kept q s) : KeptOut q (execLaneIdleRequest a0 a1 a2 s) := by
  unfold execLaneIdleRequest
  exact kept_unitAct (fun _ k2 => kept_writeLaneCtrl k2) h

theorem kept_execFastExitLock {a0 : Lane} {a1 : LineRun} {s : State} (h : Kept q s) : KeptOut q (execFastExitLock a0 a1 s) := by
  unfold execFastExitLock
  refine kept_act ?_ h
  intro s3 k4
  split
  · rename_i y5 y6 e8
    have k7 : Kept q y6 := kept_p2 e8 (kept_lineIn k4)
    extract_lets -lift -underBinder -merge -useContext +onlyGivenNames s9
    try clear_value s9
    exact kept_ite (kept_setLane k7) k7

theorem kept_execIdleEntry {a0 : Lane} {a1 : LineRun} {s : State} (h : Kept q s) : KeptOut q (execIdleEntry a0 a1 s) := by
  unfold execIdleEntry
  refine kept_act ?_ h
  intro s3 k4
  extract_lets -lift -underBinder -merge -useContext +onlyGivenNames s5
  try clear_value s5
  split
  · rename_i y6 y7 e9
    have k8 : Kept q y7 := kept_p2 e9 (kept_gotBlock k4)
    exact kept_ite (kept_updLane k8) k8

end Sys2Proof.Machine
end

