-- ==== Sys2Proof/Laws/KeptModes.lean ====
section
/-! SUPPORT. The operations of Machine/Modes.lean keep the form of memory and the queue. -/

namespace Sys2Proof.Machine
open Sys2Proof

variable {q : List Instr × Bool}

theorem kept_enterTimeout {a0 : State} {a1 : Option ℕ} (h1 : Kept q a0) : Kept q (State.enterTimeout a0 a1) := by
  unfold State.enterTimeout
  extract_lets -lift -underBinder -merge -useContext +onlyGivenNames s1
  have k2 : Kept q s1 := by
    unfold s1
    split
    · exact Kept.upd h1
    · exact h1
  clear_value s1
  extract_lets -lift -underBinder -merge -useContext +onlyGivenNames s3
  have k4 : Kept q s3 := by
    unfold s3
    split
    · exact k2
    · exact k2
    · exact Kept.upd k2
  clear_value s3
  extract_lets -lift -underBinder -merge -useContext +onlyGivenNames s5
  have k6 : Kept q s5 := by
    unfold s5
    refine kept_foldl ?_ ?_
    · exact k4
    · intro s7 x9 k8
      exact kept_setRxEn k8
  clear_value s5
  exact Kept.upd k6

theorem kept_execRefclkLoss {s : State} (h : Kept q s) : KeptOut q (execRefclkLoss s) := by
  unfold execRefclkLoss
  exact kept_act (fun _ k2 => kept_enterTimeout (kept_signal (kept_synsNotReady (Kept.upd k2)))) h

theorem kept_putArea {a0 : State} {a1 : ℕ} {a2 : ℕ} {a3 : ℕ} {a4 : ℕ} {a5 : Bytes} (h1 : Kept q a0) : Kept q (State.putArea a0 a1 a2 a3 a4 a5) := by
  unfold State.putArea
  extract_lets -lift -underBinder -merge -useContext +onlyGivenNames s1
  try clear_value s1
  extract_lets -lift -underBinder -merge -useContext +onlyGivenNames s2
  try clear_value s2
  exact kept_programWords h1

theorem kept_markArea {a0 : State} {a1 : ℕ} {a2 : ℕ} (h1 : Kept q a0) : Kept q (State.markArea a0 a1 a2) := by
  unfold State.markArea
  extract_lets -lift -underBinder -merge -useContext +onlyGivenNames s1
  try clear_value s1
  exact kept_putArea h1

theorem kept_writeRst {a0 : State} {a1 : Initiator} {a2 : BitVec 32} (h1 : Kept q a0) : Kept q (State.writeRst a0 a1 a2) := by
  unfold State.writeRst
  exact kept_ite (kept_done h1) (kept_ite (kept_selfReset h1) (kept_error h1))

theorem kept_setMode {a0 : State} {a1 : Mode} (h1 : Kept q a0) : Kept q (State.setMode a0 a1) := by
  unfold State.setMode
  split
  · exact Kept.upd h1
  · exact Kept.upd h1

theorem kept_clearLoops {a0 : State} (h1 : Kept q a0) : Kept q (State.clearLoops a0) := by
  unfold State.clearLoops
  refine kept_foldl ?_ ?_
  · exact h1
  · intro s1 x3 k2
    exact kept_setReg k2

theorem kept_restoreRx {a0 : State} (h1 : Kept q a0) : Kept q (State.restoreRx a0) := by
  unfold State.restoreRx
  refine kept_foldl ?_ ?_
  · exact h1
  · intro s1 x3 k2
    exact kept_ite (kept_setRxEn k2) k2

theorem kept_modeReq {a0 : State} {a1 : Initiator} {a2 : Mode} (h1 : Kept q a0) : Kept q (State.modeReq a0 a1 a2) := by
  unfold State.modeReq
  refine kept_ite ?_ ?_
  · exact kept_error h1
  · split
    · exact kept_done (kept_enterTimeout h1)
    · extract_lets -lift -underBinder -merge -useContext +onlyGivenNames s3
      try clear_value s3
      extract_lets -lift -underBinder -merge -useContext +onlyGivenNames s4
      have k5 : Kept q s4 := by unfold s4; exact kept_setMode h1
      clear_value s4
      exact kept_done (kept_ite (kept_clearLoops k5) (kept_restoreRx k5))
    · exact kept_done (kept_setMode h1)

theorem kept_writeModeCtrl {a0 : State} {a1 : Initiator} {a2 : BitVec 32} (h1 : Kept q a0) : Kept q (State.writeModeCtrl a0 a1 a2) := by
  unfold State.writeModeCtrl
  refine kept_ite ?_ ?_
  · exact kept_writeRst h1
  · refine kept_ite ?_ ?_
    · exact kept_done h1
    · split
      · exact kept_modeReq h1
      · exact kept_modeReq h1
      · exact kept_modeReq h1
      · exact kept_modeReq h1
      · exact kept_modeReq h1
      · exact kept_error h1

theorem kept_execResetPin {s : State} (h : Kept q s) : KeptOut q (execResetPin s) := by
  unfold execResetPin
  refine kept_actAlways ?_ h
  intro s3 k4
  refine kept_ite ?_ ?_
  · extract_lets -lift -underBinder -merge -useContext +onlyGivenNames s5
    have k6 : Kept q s5 := by unfold s5; exact kept_resetLogic k4
    clear_value s5
    exact Kept.upd k6
  · exact k4

theorem kept_execBootWatchdogExpiry {s : State} (h : Kept q s) : KeptOut q (execBootWatchdogExpiry s) := by
  unfold execBootWatchdogExpiry
  exact kept_act (fun _ k2 => kept_ite (kept_selfReset k2) k2) h

theorem kept_execModeReqService {a0 : Initiator} {s : State} (h : Kept q s) : KeptOut q (execModeReqService a0 s) := by
  unfold execModeReqService
  exact kept_act (fun _ k2 => kept_modeReq k2) h

theorem kept_execResetNRelease {a0 : Bool} {s : State} (h : Kept q s) : KeptOut q (execResetNRelease a0 s) := by
  unfold execResetNRelease
  exact kept_actAlways (fun _ k2 => kept_ite (kept_bootRom (Kept.upd k2)) k2) h

theorem kept_execSoftwareReset {a0 : Initiator} {a1 : BitVec 32} {s : State} (h : Kept q s) : KeptOut q (execSoftwareReset a0 a1 s) := by
  unfold execSoftwareReset
  exact kept_act (fun _ k2 => kept_writeRst k2) h

theorem kept_clearCause {a0 : State} {a1 : ℕ} (h1 : Kept q a0) : Kept q (State.clearCause a0 a1) := by
  unfold State.clearCause
  exact Kept.upd h1

theorem kept_execThermAlertN {s : State} (h : Kept q s) : KeptOut q (execThermAlertN s) := by
  unfold execThermAlertN
  exact kept_act (fun _ k2 => kept_ite k2 (kept_signal (Kept.upd k2))) h

theorem kept_execModeReqMaintenance {a0 : Initiator} {s : State} (h : Kept q s) : KeptOut q (execModeReqMaintenance a0 s) := by
  unfold execModeReqMaintenance
  exact kept_act (fun _ k2 => kept_modeReq k2) h

theorem kept_execCalibrationComplete {s : State} (h : Kept q s) : KeptOut q (execCalibrationComplete s) := by
  unfold execCalibrationComplete
  refine kept_act ?_ h
  intro s3 k4
  refine kept_ite ?_ ?_
  · exact k4
  · extract_lets -lift -underBinder -merge -useContext +onlyGivenNames s5
    try clear_value s5
    extract_lets -lift -underBinder -merge -useContext +onlyGivenNames s6
    have k7 : Kept q s6 := by unfold s6; exact Kept.upd k4
    clear_value s6
    exact kept_ite (kept_setMode k7) k7

theorem kept_execModeReqTest {a0 : Initiator} {s : State} (h : Kept q s) : KeptOut q (execModeReqTest a0 s) := by
  unfold execModeReqTest
  exact kept_act (fun _ k2 => kept_modeReq k2) h

theorem kept_execPowerOn {s : State} (h : Kept q s) : KeptOut q (execPowerOn s) := by
  unfold execPowerOn
  refine kept_actAlways ?_ h
  intro s3 k4
  refine kept_ite ?_ ?_
  · exact k4
  · extract_lets -lift -underBinder -merge -useContext +onlyGivenNames s5
    have k6 : Kept q s5 := by unfold s5; exact kept_resetAll k4
    clear_value s5
    exact Kept.upd k6

theorem kept_execModeReqWarmup {a0 : Initiator} {s : State} (h : Kept q s) : KeptOut q (execModeReqWarmup a0 s) := by
  unfold execModeReqWarmup
  exact kept_act (fun _ k2 => kept_modeReq k2) h

theorem kept_convertSettings {a0 : State} (h1 : Kept q a0) : Kept q (State.convertSettings a0) := by
  unfold State.convertSettings
  extract_lets -lift -underBinder -merge -useContext +onlyGivenNames s1
  try clear_value s1
  extract_lets -lift -underBinder -merge -useContext +onlyGivenNames s2
  try clear_value s2
  extract_lets -lift -underBinder -merge -useContext +onlyGivenNames s3
  have k4 : Kept q s3 := by unfold s3; exact kept_putArea h1
  clear_value s3
  extract_lets -lift -underBinder -merge -useContext +onlyGivenNames s5
  try clear_value s5
  exact kept_putBoot k4

theorem kept_execPowerLoss {s : State} (h : Kept q s) : KeptOut q (execPowerLoss s) := by
  unfold execPowerLoss
  refine kept_actAlways ?_ h
  intro s3 k4
  extract_lets -lift -underBinder -merge -useContext +onlyGivenNames s5
  have k6 : Kept q s5 := by unfold s5; exact kept_resetAll k4
  clear_value s5
  exact Kept.upd k6

theorem kept_execTemperatureUpdate {a0 : Die} {a1 : BitVec 12} {s : State} (h : Kept q s) : KeptOut q (execTemperatureUpdate a0 a1 s) := by
  unfold execTemperatureUpdate
  refine kept_act ?_ h
  intro s3 k4
  extract_lets -lift -underBinder -merge -useContext +onlyGivenNames s5
  have k6 : Kept q s5 := by unfold s5; exact kept_setReg k4
  clear_value s5
  extract_lets -lift -underBinder -merge -useContext +onlyGivenNames s7
  try clear_value s7
  extract_lets -lift -underBinder -merge -useContext +onlyGivenNames s8
  try clear_value s8
  extract_lets -lift -underBinder -merge -useContext +onlyGivenNames s9
  try clear_value s9
  extract_lets -lift -underBinder -merge -useContext +onlyGivenNames s10
  try clear_value s10
  extract_lets -lift -underBinder -merge -useContext +onlyGivenNames s11
  try clear_value s11
  extract_lets -lift -underBinder -merge -useContext +onlyGivenNames s12
  have k13 : Kept q s12 := by unfold s12; exact kept_ite (kept_signal (Kept.upd k6)) (kept_ite (Kept.upd k6) k6)
  clear_value s12
  refine kept_ite ?_ ?_
  · exact kept_ite k13 (kept_enterTimeout (kept_signal (Kept.upd k13)))
  · extract_lets -lift -underBinder -merge -useContext +onlyGivenNames s14
    have k15 : Kept q s14 := by unfold s14; exact kept_clearCause k13
    clear_value s14
    exact Kept.upd k15

theorem kept_execRefclkReturn {s : State} (h : Kept q s) : KeptOut q (execRefclkReturn s) := by
  unfold execRefclkReturn
  exact kept_act (fun _ k2 => kept_clearCause k2) h

theorem kept_execSettingsRead {s : State} (h : Kept q s) : KeptOut q (execSettingsRead s) := by
  unfold execSettingsRead
  refine kept_act ?_ h
  intro s3 k4
  refine kept_ite ?_ ?_
  · exact k4
  · extract_lets -lift -underBinder -merge -useContext +onlyGivenNames s5
    try clear_value s5
    extract_lets -lift -underBinder -merge -useContext +onlyGivenNames s6
    try clear_value s6
    extract_lets -lift -underBinder -merge -useContext +onlyGivenNames s7
    try clear_value s7
    extract_lets -lift -underBinder -merge -useContext +onlyGivenNames s8
    have k9 : Kept q s8 := by unfold s8; exact Kept.upd k4
    clear_value s8
    extract_lets -lift -underBinder -merge -useContext +onlyGivenNames s10
    have k11 : Kept q s10 := by unfold s10; exact kept_ite (kept_ite (kept_convertSettings k9) k9) (kept_signal k9)
    clear_value s10
    exact kept_ite (kept_setMode k11) (kept_enterTimeout (kept_setMode k11))

theorem kept_execModeReqTimeout {a0 : Initiator} {s : State} (h : Kept q s) : KeptOut q (execModeReqTimeout a0 s) := by
  unfold execModeReqTimeout
  exact kept_act (fun _ k2 => kept_modeReq k2) h

end Sys2Proof.Machine
end

