-- ==== Sys2Proof/Laws/KeptSeq.lean ====
section
/-! SUPPORT. The operations of Machine/Seq.lean keep the form of memory and the queue. -/

namespace Sys2Proof.Machine
open Sys2Proof

variable {q : List Instr × Bool}

theorem kept_seqFaultAt {a0 : State} {a1 : ℕ} {a2 : ℕ} {a3 : BitVec 19} (h1 : Kept q a0) : Kept q (State.seqFaultAt a0 a1 a2 a3) := by
  unfold State.seqFaultAt
  extract_lets -lift -underBinder -merge -useContext +onlyGivenNames s1
  try clear_value s1
  exact kept_signal (kept_setSeq h1)

theorem kept_seqRefusal {a0 : State} {a1 : ℕ} (h1 : Kept q a0) : Kept q (State.seqRefusal a0 a1) := by
  unfold State.seqRefusal
  split
  · exact h1
  · exact kept_seqFaultAt h1

theorem kept_seqGoto {a0 : State} {a1 : ℕ} {a2 : ℤ} (h1 : Kept q a0) : Kept q (State.seqGoto a0 a1 a2) := by
  unfold State.seqGoto
  extract_lets -lift -underBinder -merge -useContext +onlyGivenNames s1
  try clear_value s1
  extract_lets -lift -underBinder -merge -useContext +onlyGivenNames s2
  have k3 : Kept q s2 := by unfold s2; exact kept_setSeq h1
  clear_value s2
  exact kept_ite (kept_seqFaultAt k3) k3

theorem kept_seqNext {a0 : State} {a1 : ℕ} (h1 : Kept q a0) : Kept q (State.seqNext a0 a1) := by
  unfold State.seqNext
  exact kept_seqGoto h1

theorem kept_execSeqEvWaitTimeout {a0 : Seq} {s : State} (h : Kept q s) : KeptOut q (execSeqEvWaitTimeout a0 s) := by
  unfold execSeqEvWaitTimeout
  refine kept_act ?_ h
  intro s3 k4
  extract_lets -lift -underBinder -merge -useContext +onlyGivenNames s5
  try clear_value s5
  split
  · exact kept_ite k4 (kept_ite (kept_seqRefusal k4) (kept_seqNext (kept_setSeq k4)))
  · exact k4

theorem kept_secondHalf {a0 : State} {a1 : ℕ} {a2 : ℕ} {a3 : ℕ} (h1 : Kept q a0) : Kept q (State.secondHalf a0 a1 a2 a3).1 := by
  unfold State.secondHalf
  refine kept_ite_p1 ?_ ?_
  · refine foldl_keeps (P := fun (p : State × _) => Kept q p.1) ?_ ?_
    · exact h1
    · intro s1 x3 k2
      beta_reduce
      exact kept_checkCopy k2
  · exact h1

theorem kept_seqFetch {a0 : State} {a1 : ℕ} (h1 : Kept q a0) : Kept q (State.seqFetch a0 a1).2 := by
  unfold State.seqFetch
  extract_lets -lift -underBinder -merge -useContext +onlyGivenNames s1
  try clear_value s1
  refine kept_ite_p2 ?_ ?_
  · exact h1
  · extract_lets -lift -underBinder -merge -useContext +onlyGivenNames s2
    try clear_value s2
    split
    · rename_i y3 y5 e6
      have k4 : Kept q y3 := kept_p1 e6 (by
          refine foldl_keeps (P := fun (p : State × _) => Kept q p.1) ?_ ?_
          · exact h1
          · intro s7 x9 k8
            beta_reduce
            exact kept_checkUnit k8
          )
      split
      · rename_i y10 y12 e13
        have k11 : Kept q y10 := kept_p1 e13 (kept_secondHalf k4)
        exact kept_ite_p2 (kept_poisonRead k11) k11

theorem kept_seqFault {a0 : State} {a1 : ℕ} {a2 : ℕ} (h1 : Kept q a0) : Kept q (State.seqFault a0 a1 a2) := by
  unfold State.seqFault
  exact kept_ite (kept_asqMismatch h1) (kept_seqFaultAt h1)

theorem kept_seqIssue {a0 : State} {a1 : ℕ} {a2 : Bool} {a3 : SeqSt → State → State} (h1 : Kept q a0) (h4 : ∀ x0 x1, Kept q x1 → Kept q (a3 x0 x1)) : Kept q (State.seqIssue a0 a1 a2 a3) := by
  unfold State.seqIssue
  refine kept_ite ?_ ?_
  · exact h1
  · refine kept_ite ?_ ?_
    · exact kept_seqRefusal h1
    · split
      · rename_i y1 y2 e4
        have k3 : Kept q y2 := kept_p2 e4 (kept_seqFetch h1)
        exact kept_seqFault k3
      · rename_i y5 e7
        have k6 : Kept q y5 := kept_p2 e7 (kept_seqFetch h1)
        exact kept_ite (h4 _ _ k6) (kept_seqFault k6)

theorem kept_seqReg {a0 : State} {a1 : ℕ} {a2 : Bool} {a3 : SeqSt → SeqSt} (h1 : Kept q a0) : Kept q (State.seqReg a0 a1 a2 a3) := by
  unfold State.seqReg
  exact kept_seqIssue h1 (fun _  _ k3 => kept_seqNext (kept_setSeq k3))

theorem kept_seqAlu {a0 : State} {a1 : ℕ} {a2 : GReg} {a3 : SeqSt → BitVec 64} {a4 : SeqSt → BitVec 64} {a5 : Bool} {a6 : BitVec 64 → BitVec 64 → BitVec 64 × BitVec 4} (h1 : Kept q a0) : Kept q (State.seqAlu a0 a1 a2 a3 a4 a5 a6) := by
  unfold State.seqAlu
  exact kept_seqReg h1

theorem kept_seqRR {a0 : State} {a1 : ℕ} {a2 : GReg} {a3 : GReg} {a4 : GReg} {a5 : BitVec 64 → BitVec 64 → BitVec 64 × BitVec 4} (h1 : Kept q a0) : Kept q (State.seqRR a0 a1 a2 a3 a4 a5) := by
  unfold State.seqRR
  exact kept_seqAlu h1

theorem kept_execSeqSll {a0 : Seq} {a1 : GReg} {a2 : GReg} {a3 : GReg} {s : State} (h : Kept q s) : KeptOut q (execSeqSll a0 a1 a2 a3 s) := by
  unfold execSeqSll
  exact kept_act (fun _ k2 => kept_seqRR k2) h

theorem kept_execSeqJumpr {a0 : Seq} {a1 : GReg} {a2 : GReg} {a3 : GReg} {a4 : BitVec 11} {s : State} (h : Kept q s) : KeptOut q (execSeqJumpr a0 a1 a2 a3 a4 s) := by
  unfold execSeqJumpr
  refine kept_act ?_ h
  intro s6 k7
  refine kept_seqIssue k7 ?_
  · intro s14 s15 k16
    extract_lets -lift -underBinder -merge -useContext +onlyGivenNames s17
    try clear_value s17
    exact kept_ite (kept_seqFault k16) (kept_seqGoto (kept_setSeq k16))

theorem kept_seqStart {a0 : State} {a1 : ℕ} {a2 : SeqSt} (h1 : Kept q a0) : Kept q (State.seqStart a0 a1 a2) := by
  unfold State.seqStart
  exact kept_setSeq h1

theorem kept_seqRestart {a0 : State} {a1 : ℕ} (h1 : Kept q a0) : Kept q (State.seqRestart a0 a1) := by
  unfold State.seqRestart
  extract_lets -lift -underBinder -merge -useContext +onlyGivenNames s1
  try clear_value s1
  extract_lets -lift -underBinder -merge -useContext +onlyGivenNames s2
  try clear_value s2
  exact kept_seqStart h1

theorem kept_seqRun {a0 : State} {a1 : ℕ} (h1 : Kept q a0) : Kept q (State.seqRun a0 a1) := by
  unfold State.seqRun
  extract_lets -lift -underBinder -merge -useContext +onlyGivenNames s1
  try clear_value s1
  exact kept_ite (kept_seqStart h1) (kept_setSeq h1)

theorem kept_seqStop {a0 : State} {a1 : ℕ} (h1 : Kept q a0) : Kept q (State.seqStop a0 a1) := by
  unfold State.seqStop
  extract_lets -lift -underBinder -merge -useContext +onlyGivenNames s1
  try clear_value s1
  exact kept_ite (kept_setSeq h1) (kept_setSeq h1)

theorem kept_writeSeqCtrl {a0 : State} {a1 : ℕ} {a2 : BitVec 32} (h1 : Kept q a0) : Kept q (State.writeSeqCtrl a0 a1 a2) := by
  unfold State.writeSeqCtrl
  exact kept_done (kept_ite (kept_seqRestart h1) (kept_ite (kept_seqRun h1) (kept_seqStop h1)))

theorem kept_execSeqLead40 {a0 : Seq} {a1 : GReg} {a2 : GReg} {a3 : GReg} {s : State} (h : Kept q s) : KeptOut q (execSeqLead40 a0 a1 a2 a3 s) := by
  unfold execSeqLead40
  exact kept_act (fun _ k2 => kept_seqRR k2) h

theorem kept_execSeqSltu {a0 : Seq} {a1 : GReg} {a2 : GReg} {a3 : GReg} {s : State} (h : Kept q s) : KeptOut q (execSeqSltu a0 a1 a2 a3 s) := by
  unfold execSeqSltu
  exact kept_act (fun _ k2 => kept_seqRR k2) h

theorem kept_execSeqSetw {a0 : Seq} {a1 : GReg} {a2 : GReg} {a3 : Imm16} {s : State} (h : Kept q s) : KeptOut q (execSeqSetw a0 a1 a2 a3 s) := by
  unfold execSeqSetw
  exact kept_act (fun _ k2 => kept_seqReg k2) h

theorem kept_execSeqExt {a0 : Seq} {a1 : GReg} {a2 : GReg} {a3 : Imm16} {s : State} (h : Kept q s) : KeptOut q (execSeqExt a0 a1 a2 a3 s) := by
  unfold execSeqExt
  exact kept_act (fun _ k2 => kept_seqAlu k2) h

theorem kept_execSeqAnd {a0 : Seq} {a1 : GReg} {a2 : GReg} {a3 : GReg} {s : State} (h : Kept q s) : KeptOut q (execSeqAnd a0 a1 a2 a3 s) := by
  unfold execSeqAnd
  exact kept_act (fun _ k2 => kept_seqRR k2) h

theorem kept_execSeqAdd40 {a0 : Seq} {a1 : GReg} {a2 : GReg} {a3 : GReg} {s : State} (h : Kept q s) : KeptOut q (execSeqAdd40 a0 a1 a2 a3 s) := by
  unfold execSeqAdd40
  exact kept_act (fun _ k2 => kept_seqRR k2) h

theorem kept_seqWait {a0 : State} {a1 : ℕ} {a2 : Air} {a3 : ℕ} (h1 : Kept q a0) : Kept q (State.seqWait a0 a1 a2 a3) := by
  unfold State.seqWait
  exact kept_ite (kept_seqNext h1) (kept_setSeq h1)

theorem kept_seqRecv {a0 : State} {a1 : ℕ} {a2 : GReg} {a3 : GReg} {a4 : GReg} {a5 : BitVec 11} {a6 : Bool} (h1 : Kept q a0) : Kept q (State.seqRecv a0 a1 a2 a3 a4 a5 a6) := by
  unfold State.seqRecv
  refine kept_seqIssue h1 ?_
  · intro s7 s8 k9
    refine kept_ite ?_ ?_
    · exact kept_seqFault k9
    · split
      · exact kept_seqNext (kept_setSeq k9)
      · exact kept_ite (kept_seqNext (kept_setSeq k9)) (kept_setSeq k9)

theorem kept_execSeqRecvNb {a0 : Seq} {a1 : GReg} {a2 : GReg} {a3 : GReg} {a4 : BitVec 11} {s : State} (h : Kept q s) : KeptOut q (execSeqRecvNb a0 a1 a2 a3 a4 s) := by
  unfold execSeqRecvNb
  exact kept_act (fun _ k2 => kept_seqRecv k2) h

theorem kept_seqRbr {a0 : State} {a1 : ℕ} {a2 : BitVec 4} {a3 : GReg} {a4 : Imm16} {a5 : Bool} (h1 : Kept q a0) : Kept q (State.seqRbr a0 a1 a2 a3 a4 a5) := by
  unfold State.seqRbr
  exact kept_seqIssue h1 (fun _  _ k3 => kept_ite (kept_seqGoto k3) (kept_seqNext k3))

theorem kept_execSeqRbnz {a0 : Seq} {a1 : BitVec 4} {a2 : GReg} {a3 : Imm16} {s : State} (h : Kept q s) : KeptOut q (execSeqRbnz a0 a1 a2 a3 s) := by
  unfold execSeqRbnz
  exact kept_act (fun _ k2 => kept_seqRbr k2) h

theorem kept_execSeqRestart {a0 : Initiator} {a1 : Seq} {s : State} (h : Kept q s) : KeptOut q (execSeqRestart a0 a1 s) := by
  unfold execSeqRestart
  exact kept_unitAct (fun _ k2 => kept_writeSeqCtrl k2) h

theorem kept_execSeqMin {a0 : Seq} {a1 : GReg} {a2 : GReg} {a3 : GReg} {s : State} (h : Kept q s) : KeptOut q (execSeqMin a0 a1 a2 a3 s) := by
  unfold execSeqMin
  exact kept_act (fun _ k2 => kept_seqRR k2) h

theorem kept_execSeqAddi {a0 : Seq} {a1 : GReg} {a2 : GReg} {a3 : Imm16} {s : State} (h : Kept q s) : KeptOut q (execSeqAddi a0 a1 a2 a3 s) := by
  unfold execSeqAddi
  exact kept_act (fun _ k2 => kept_seqAlu k2) h

theorem kept_execSeqHalt {a0 : Seq} {a1 : GReg} {a2 : GReg} {a3 : GReg} {a4 : BitVec 11} {s : State} (h : Kept q s) : KeptOut q (execSeqHalt a0 a1 a2 a3 a4 s) := by
  unfold execSeqHalt
  exact kept_act (fun _ k2 => kept_seqIssue k2 (fun _  _ k5 => kept_seqStop k5)) h

theorem kept_execSeqShi {a0 : Seq} {a1 : GReg} {a2 : GReg} {a3 : Imm16} {s : State} (h : Kept q s) : KeptOut q (execSeqShi a0 a1 a2 a3 s) := by
  unfold execSeqShi
  exact kept_act (fun _ k2 => kept_seqAlu k2) h

theorem kept_execSeqDivu {a0 : Seq} {a1 : GReg} {a2 : GReg} {a3 : GReg} {s : State} (h : Kept q s) : KeptOut q (execSeqDivu a0 a1 a2 a3 s) := by
  unfold execSeqDivu
  exact kept_act (fun _ k2 => kept_seqRR k2) h

theorem kept_execSeqBl {a0 : Seq} {a1 : GReg} {a2 : BitVec 21} {s : State} (h : Kept q s) : KeptOut q (execSeqBl a0 a1 a2 s) := by
  unfold execSeqBl
  exact kept_act (fun _ k2 => kept_seqIssue k2 (fun _  _ k5 => kept_seqGoto (kept_setSeq k5))) h

theorem kept_execSeqOri {a0 : Seq} {a1 : GReg} {a2 : GReg} {a3 : Imm16} {s : State} (h : Kept q s) : KeptOut q (execSeqOri a0 a1 a2 a3 s) := by
  unfold execSeqOri
  exact kept_act (fun _ k2 => kept_seqAlu k2) h

theorem kept_execSeqOr {a0 : Seq} {a1 : GReg} {a2 : GReg} {a3 : GReg} {s : State} (h : Kept q s) : KeptOut q (execSeqOr a0 a1 a2 a3 s) := by
  unfold execSeqOr
  exact kept_act (fun _ k2 => kept_seqRR k2) h

theorem kept_execSeqSub {a0 : Seq} {a1 : GReg} {a2 : GReg} {a3 : GReg} {s : State} (h : Kept q s) : KeptOut q (execSeqSub a0 a1 a2 a3 s) := by
  unfold execSeqSub
  exact kept_act (fun _ k2 => kept_seqRR k2) h

theorem kept_execSeqXor {a0 : Seq} {a1 : GReg} {a2 : GReg} {a3 : GReg} {s : State} (h : Kept q s) : KeptOut q (execSeqXor a0 a1 a2 a3 s) := by
  unfold execSeqXor
  exact kept_act (fun _ k2 => kept_seqRR k2) h

theorem kept_execSeqSra {a0 : Seq} {a1 : GReg} {a2 : GReg} {a3 : GReg} {s : State} (h : Kept q s) : KeptOut q (execSeqSra a0 a1 a2 a3 s) := by
  unfold execSeqSra
  exact kept_act (fun _ k2 => kept_seqRR k2) h

theorem kept_execSeqRecv {a0 : Seq} {a1 : GReg} {a2 : GReg} {a3 : GReg} {a4 : BitVec 11} {s : State} (h : Kept q s) : KeptOut q (execSeqRecv a0 a1 a2 a3 a4 s) := by
  unfold execSeqRecv
  exact kept_act (fun _ k2 => kept_seqRecv k2) h

theorem kept_execSeqMax {a0 : Seq} {a1 : GReg} {a2 : GReg} {a3 : GReg} {s : State} (h : Kept q s) : KeptOut q (execSeqMax a0 a1 a2 a3 s) := by
  unfold execSeqMax
  exact kept_act (fun _ k2 => kept_seqRR k2) h

theorem kept_execSeqSrl {a0 : Seq} {a1 : GReg} {a2 : GReg} {a3 : GReg} {s : State} (h : Kept q s) : KeptOut q (execSeqSrl a0 a1 a2 a3 s) := by
  unfold execSeqSrl
  exact kept_act (fun _ k2 => kept_seqRR k2) h

theorem kept_execSeqRbz {a0 : Seq} {a1 : BitVec 4} {a2 : GReg} {a3 : Imm16} {s : State} (h : Kept q s) : KeptOut q (execSeqRbz a0 a1 a2 a3 s) := by
  unfold execSeqRbz
  exact kept_act (fun _ k2 => kept_seqRbr k2) h

theorem kept_execRefusalFault {a0 : Seq} {s : State} (h : Kept q s) : KeptOut q (execRefusalFault a0 s) := by
  unfold execRefusalFault
  exact kept_act (fun _ k2 => kept_ite (kept_seqRefusal k2) k2) h

theorem kept_execSeqStop {a0 : Initiator} {a1 : Seq} {s : State} (h : Kept q s) : KeptOut q (execSeqStop a0 a1 s) := by
  unfold execSeqStop
  exact kept_unitAct (fun _ k2 => kept_writeSeqCtrl k2) h

theorem kept_execSeqBr {a0 : Seq} {a1 : BitVec 5} {a2 : BitVec 21} {s : State} (h : Kept q s) : KeptOut q (execSeqBr a0 a1 a2 s) := by
  unfold execSeqBr
  exact kept_act (fun _ k2 => kept_seqIssue k2 (fun _  _ k5 => kept_ite (kept_seqGoto k5) (kept_seqNext k5))) h

theorem kept_execSeqSlt {a0 : Seq} {a1 : GReg} {a2 : GReg} {a3 : GReg} {s : State} (h : Kept q s) : KeptOut q (execSeqSlt a0 a1 a2 a3 s) := by
  unfold execSeqSlt
  exact kept_act (fun _ k2 => kept_seqRR k2) h

theorem kept_execSeqSpecoff {a0 : Seq} {a1 : GReg} {a2 : GReg} {a3 : GReg} {a4 : BitVec 11} {s : State} (h : Kept q s) : KeptOut q (execSeqSpecoff a0 a1 a2 a3 a4 s) := by
  unfold execSeqSpecoff
  exact kept_act (fun _ k2 => kept_seqReg k2) h

theorem kept_execSeqMul {a0 : Seq} {a1 : GReg} {a2 : GReg} {a3 : GReg} {s : State} (h : Kept q s) : KeptOut q (execSeqMul a0 a1 a2 a3 s) := by
  unfold execSeqMul
  exact kept_act (fun _ k2 => kept_seqRR k2) h

theorem kept_execSeqAt {a0 : Seq} {a1 : GReg} {a2 : GReg} {a3 : GReg} {a4 : BitVec 11} {s : State} (h : Kept q s) : KeptOut q (execSeqAt a0 a1 a2 a3 a4 s) := by
  unfold execSeqAt
  exact kept_act (fun _ k2 => kept_seqIssue k2 (fun _  _ k5 => kept_seqWait k5)) h

theorem kept_execSeqRun {a0 : Initiator} {a1 : Seq} {s : State} (h : Kept q s) : KeptOut q (execSeqRun a0 a1 s) := by
  unfold execSeqRun
  exact kept_unitAct (fun _ k2 => kept_writeSeqCtrl k2) h

theorem kept_execSeqAdd {a0 : Seq} {a1 : GReg} {a2 : GReg} {a3 : GReg} {s : State} (h : Kept q s) : KeptOut q (execSeqAdd a0 a1 a2 a3 s) := by
  unfold execSeqAdd
  exact kept_act (fun _ k2 => kept_seqRR k2) h

theorem kept_execSeqCkpt {a0 : Seq} {a1 : GReg} {a2 : GReg} {a3 : Imm16} {s : State} (h : Kept q s) : KeptOut q (execSeqCkpt a0 a1 a2 a3 s) := by
  unfold execSeqCkpt
  exact kept_act (fun _ k2 => kept_seqReg k2) h

theorem kept_execSeqAndi {a0 : Seq} {a1 : GReg} {a2 : GReg} {a3 : Imm16} {s : State} (h : Kept q s) : KeptOut q (execSeqAndi a0 a1 a2 a3 s) := by
  unfold execSeqAndi
  exact kept_act (fun _ k2 => kept_seqAlu k2) h

theorem kept_execSeqIns {a0 : Seq} {a1 : GReg} {a2 : GReg} {a3 : Imm16} {s : State} (h : Kept q s) : KeptOut q (execSeqIns a0 a1 a2 a3 s) := by
  unfold execSeqIns
  exact kept_act (fun _ k2 => kept_seqAlu k2) h

theorem kept_execSeqShor {a0 : Seq} {a1 : GReg} {a2 : GReg} {a3 : Imm16} {s : State} (h : Kept q s) : KeptOut q (execSeqShor a0 a1 a2 a3 s) := by
  unfold execSeqShor
  exact kept_act (fun _ k2 => kept_seqReg k2) h

theorem kept_execSeqEvWait {a0 : Seq} {a1 : GReg} {a2 : GReg} {a3 : GReg} {a4 : BitVec 11} {s : State} (h : Kept q s) : KeptOut q (execSeqEvWait a0 a1 a2 a3 a4 s) := by
  unfold execSeqEvWait
  refine kept_act ?_ h
  intro s6 k7
  refine kept_seqIssue k7 ?_
  · intro s14 s15 k16
    extract_lets -lift -underBinder -merge -useContext +onlyGivenNames s17
    try clear_value s17
    exact kept_ite (kept_seqNext (kept_setSeq k16)) (kept_setSeq k16)

theorem kept_execSeqMfs {a0 : Seq} {a1 : GReg} {a2 : GReg} {a3 : Imm16} {s : State} (h : Kept q s) : KeptOut q (execSeqMfs a0 a1 a2 a3 s) := by
  unfold execSeqMfs
  refine kept_act ?_ h
  intro s3 k4
  extract_lets -lift -underBinder -merge -useContext +onlyGivenNames s5
  try clear_value s5
  exact kept_seqReg k4

theorem kept_execSeqMts {a0 : Seq} {a1 : GReg} {a2 : GReg} {a3 : Imm16} {s : State} (h : Kept q s) : KeptOut q (execSeqMts a0 a1 a2 a3 s) := by
  unfold execSeqMts
  refine kept_act ?_ h
  intro s3 k4
  extract_lets -lift -underBinder -merge -useContext +onlyGivenNames s5
  try clear_value s5
  refine kept_seqIssue k4 ?_
  · intro s12 s13 k14
    extract_lets -lift -underBinder -merge -useContext +onlyGivenNames s15
    try clear_value s15
    refine kept_ite ?_ ?_
    · exact kept_seqFault k14
    · extract_lets -lift -underBinder -merge -useContext +onlyGivenNames s16
      try clear_value s16
      exact kept_seqNext (kept_setSeq k14)

theorem kept_execSeqXori {a0 : Seq} {a1 : GReg} {a2 : GReg} {a3 : Imm16} {s : State} (h : Kept q s) : KeptOut q (execSeqXori a0 a1 a2 a3 s) := by
  unfold execSeqXori
  exact kept_act (fun _ k2 => kept_seqAlu k2) h

theorem kept_execSeqEvRaise {a0 : Seq} {a1 : GReg} {a2 : GReg} {a3 : GReg} {a4 : BitVec 11} {s : State} (h : Kept q s) : KeptOut q (execSeqEvRaise a0 a1 a2 a3 a4 s) := by
  unfold execSeqEvRaise
  exact kept_act (fun _ k2 => kept_seqIssue k2 (fun _  _ k5 => kept_seqNext (kept_signal k5))) h

theorem kept_execSeqWaitt {a0 : Seq} {a1 : GReg} {a2 : GReg} {a3 : GReg} {a4 : BitVec 11} {s : State} (h : Kept q s) : KeptOut q (execSeqWaitt a0 a1 a2 a3 a4 s) := by
  unfold execSeqWaitt
  exact kept_act (fun _ k2 => kept_seqIssue k2 (fun _  _ k5 => kept_seqWait k5)) h

end Sys2Proof.Machine
end

