-- ==== Sys2Proof/Laws/KeptLink.lean ====
section
/-! SUPPORT. The operations of Machine/Link.lean keep the form of memory and the queue. -/

namespace Sys2Proof.Machine
open Sys2Proof

variable {q : List Instr × Bool}

theorem kept_execPortUp {a0 : LPort} {s : State} (h : Kept q s) : KeptOut q (execPortUp a0 s) := by
  unfold execPortUp
  refine kept_act ?_ h
  intro s3 k4
  extract_lets -lift -underBinder -merge -useContext +onlyGivenNames s5
  try clear_value s5
  refine kept_ite ?_ ?_
  · extract_lets -lift -underBinder -merge -useContext +onlyGivenNames s6
    have k7 : Kept q s6 := by
      unfold s6
      refine kept_foldl ?_ ?_
      · exact k4
      · intro s8 x10 k9
        exact kept_setVl k9
    clear_value s6
    exact kept_setPort k7
  · exact k4

theorem kept_protErr {a0 : State} {a1 : ℕ} (h1 : Kept q a0) : Kept q (State.protErr a0 a1) := by
  unfold State.protErr
  exact kept_signal (kept_bump h1)

theorem kept_takeCredit {a0 : State} {a1 : ℕ} {a2 : BitVec 64} (h1 : Kept q a0) : Kept q (State.takeCredit a0 a1 a2) := by
  unfold State.takeCredit
  extract_lets -lift -underBinder -merge -useContext +onlyGivenNames s1
  try clear_value s1
  extract_lets -lift -underBinder -merge -useContext +onlyGivenNames s2
  try clear_value s2
  extract_lets -lift -underBinder -merge -useContext +onlyGivenNames s3
  try clear_value s3
  exact kept_setVl h1

theorem kept_lostReplies {a0 : State} {a1 : ℕ} (h1 : Kept q a0) : Kept q (State.lostReplies a0 a1) := by
  unfold State.lostReplies
  refine kept_ite ?_ ?_
  · exact h1
  · extract_lets -lift -underBinder -merge -useContext +onlyGivenNames s1
    try clear_value s1
    extract_lets -lift -underBinder -merge -useContext +onlyGivenNames s2
    try clear_value s2
    extract_lets -lift -underBinder -merge -useContext +onlyGivenNames s3
    try clear_value s3
    extract_lets -lift -underBinder -merge -useContext +onlyGivenNames s4
    try clear_value s4
    extract_lets -lift -underBinder -merge -useContext +onlyGivenNames s5
    try clear_value s5
    exact kept_setPort (kept_setVl h1)

theorem kept_queueWords {a0 : State} {a1 : ℕ} {a2 : List (BitVec 64)} (h1 : Kept q a0) : Kept q (State.queueWords a0 a1 a2) := by
  unfold State.queueWords
  extract_lets -lift -underBinder -merge -useContext +onlyGivenNames s1
  try clear_value s1
  exact kept_setPort h1

theorem kept_sendCredits {a0 : State} {a1 : ℕ} (h1 : Kept q a0) : Kept q (State.sendCredits a0 a1) := by
  unfold State.sendCredits
  extract_lets -lift -underBinder -merge -useContext +onlyGivenNames s1
  have k2 : Kept q s1 := by unfold s1; exact kept_queueWords h1
  clear_value s1
  exact kept_setPort k2

theorem kept_enterInit {a0 : State} {a1 : ℕ} (h1 : Kept q a0) : Kept q (State.enterInit a0 a1) := by
  unfold State.enterInit
  extract_lets -lift -underBinder -merge -useContext +onlyGivenNames s1
  have k2 : Kept q s1 := by
    unfold s1
    refine kept_foldl ?_ ?_
    · exact h1
    · intro s6 x8 k7
      exact kept_setVl k7
  clear_value s1
  extract_lets -lift -underBinder -merge -useContext +onlyGivenNames s3
  try clear_value s3
  extract_lets -lift -underBinder -merge -useContext +onlyGivenNames s4
  have k5 : Kept q s4 := by unfold s4; exact kept_setPort k2
  clear_value s4
  exact kept_sendCredits k5

theorem kept_linkReset {a0 : State} {a1 : ℕ} (h1 : Kept q a0) : Kept q (State.linkReset a0 a1) := by
  unfold State.linkReset
  extract_lets -lift -underBinder -merge -useContext +onlyGivenNames s1
  try clear_value s1
  extract_lets -lift -underBinder -merge -useContext +onlyGivenNames s2
  try clear_value s2
  extract_lets -lift -underBinder -merge -useContext +onlyGivenNames s3
  have k4 : Kept q s3 := by unfold s3; exact kept_lostReplies (kept_signal (kept_bump h1))
  clear_value s3
  exact kept_partnerLost (kept_enterInit k4)

theorem kept_goBack {a0 : State} {a1 : ℕ} {a2 : ℕ} (h1 : Kept q a0) : Kept q (State.goBack a0 a1 a2) := by
  unfold State.goBack
  extract_lets -lift -underBinder -merge -useContext +onlyGivenNames s1
  try clear_value s1
  extract_lets -lift -underBinder -merge -useContext +onlyGivenNames s2
  have k3 : Kept q s2 := by unfold s2; exact kept_bump h1
  clear_value s2
  exact kept_ite (kept_linkReset k3) (kept_setVl k3)

theorem kept_ackUpTo {a0 : State} {a1 : ℕ} {a2 : ℕ} {a3 : BitVec 16} (h1 : Kept q a0) : Kept q (State.ackUpTo a0 a1 a2 a3) := by
  unfold State.ackUpTo
  extract_lets -lift -underBinder -merge -useContext +onlyGivenNames s1
  try clear_value s1
  extract_lets -lift -underBinder -merge -useContext +onlyGivenNames s2
  try clear_value s2
  extract_lets -lift -underBinder -merge -useContext +onlyGivenNames s3
  try clear_value s3
  refine kept_ite ?_ ?_
  · extract_lets -lift -underBinder -merge -useContext +onlyGivenNames s4
    try clear_value s4
    exact kept_setVl h1
  · exact h1

theorem kept_takeAck {a0 : State} {a1 : ℕ} {a2 : BitVec 64} (h1 : Kept q a0) : Kept q (State.takeAck a0 a1 a2) := by
  unfold State.takeAck
  extract_lets -lift -underBinder -merge -useContext +onlyGivenNames s1
  try clear_value s1
  extract_lets -lift -underBinder -merge -useContext +onlyGivenNames s2
  try clear_value s2
  exact kept_ite h1 (kept_ite (kept_goBack (kept_ackUpTo h1)) (kept_ackUpTo h1))

theorem kept_takeLreset {a0 : State} {a1 : ℕ} (h1 : Kept q a0) : Kept q (State.takeLreset a0 a1) := by
  unfold State.takeLreset
  split
  · exact kept_setPort h1
  · extract_lets -lift -underBinder -merge -useContext +onlyGivenNames s3
    have k4 : Kept q s3 := by unfold s3; exact kept_linkReset h1
    clear_value s3
    exact kept_setPort k4
  · exact h1

theorem kept_freeUnits {a0 : State} {a1 : ℕ} {a2 : ℕ} {a3 : ℕ} (h1 : Kept q a0) : Kept q (State.freeUnits a0 a1 a2 a3) := by
  unfold State.freeUnits
  extract_lets -lift -underBinder -merge -useContext +onlyGivenNames s1
  try clear_value s1
  extract_lets -lift -underBinder -merge -useContext +onlyGivenNames s2
  try clear_value s2
  exact kept_queueWords (kept_setVl h1)

theorem kept_freeHeld {a0 : State} {a1 : ℕ} (h1 : Kept q a0) : Kept q (State.freeHeld a0 a1) := by
  unfold State.freeHeld
  extract_lets -lift -underBinder -merge -useContext +onlyGivenNames s1
  try clear_value s1
  exact kept_ite h1 (kept_freeUnits (kept_setVl h1))

theorem kept_putFrame {a0 : State} {a1 : ℕ} {a2 : TxFrame} {a3 : BitVec 16} (h1 : Kept q a0) : Kept q (State.putFrame a0 a1 a2 a3) := by
  unfold State.putFrame
  exact kept_sendFrame h1

theorem kept_freeVc2 {a0 : State} {a1 : ℕ} {a2 : ℕ} (h1 : Kept q a0) : Kept q (State.freeVc2 a0 a1 a2) := by
  unfold State.freeVc2
  extract_lets -lift -underBinder -merge -useContext +onlyGivenNames s1
  try clear_value s1
  exact kept_freeHeld (kept_setVl h1)

theorem kept_execCreditTimeout {a0 : LPort} {a1 : VChan} {s : State} (h : Kept q s) : KeptOut q (execCreditTimeout a0 a1 s) := by
  unfold execCreditTimeout
  refine kept_act ?_ h
  intro s3 k4
  extract_lets -lift -underBinder -merge -useContext +onlyGivenNames s5
  try clear_value s5
  split
  · exact kept_ite (kept_linkReset (kept_signal k4)) k4
  · exact k4

theorem kept_execAlignSend {a0 : LPort} {s : State} (h : Kept q s) : KeptOut q (execAlignSend a0 s) := by
  unfold execAlignSend
  refine kept_act ?_ h
  intro s3 k4
  extract_lets -lift -underBinder -merge -useContext +onlyGivenNames s5
  try clear_value s5
  refine kept_ite ?_ ?_
  · exact k4
  · extract_lets -lift -underBinder -merge -useContext +onlyGivenNames s6
    have k7 : Kept q s6 := by unfold s6; exact kept_setPort k4
    clear_value s6
    refine kept_foldl ?_ ?_
    · exact k7
    · intro s8 x10 k9
      extract_lets -lift -underBinder -merge -useContext +onlyGivenNames s11
      try clear_value s11
      exact kept_laneBlock (kept_portOut k9)

theorem kept_wordIn {a0 : State} {a1 : ℕ} {a2 : BitVec 64} {a3 : State → State} (h1 : Kept q a0) (h4 : ∀ x0, Kept q x0 → Kept q (a3 x0)) : Kept q (State.wordIn a0 a1 a2 a3) := by
  unfold State.wordIn
  split
  · rename_i y1 e3
    have k2 : Kept q y1 := kept_osome e3 (kept_portIn h1)
    exact h4 _ k2
  · exact h1

theorem kept_execAckTimeout {a0 : LPort} {a1 : VChan} {s : State} (h : Kept q s) : KeptOut q (execAckTimeout a0 a1 s) := by
  unfold execAckTimeout
  refine kept_act ?_ h
  intro s3 k4
  extract_lets -lift -underBinder -merge -useContext +onlyGivenNames s5
  try clear_value s5
  exact kept_ite (kept_goBack k4) k4

theorem kept_cutFrame {a0 : State} {a1 : ℕ} {a2 : Bool} (h1 : Kept q a0) : Kept q (State.cutFrame a0 a1 a2) := by
  unfold State.cutFrame
  exact kept_ite (kept_protErr h1) h1

theorem kept_execVc2WaitExpiry {a0 : LPort} {s : State} (h : Kept q s) : KeptOut q (execVc2WaitExpiry a0 s) := by
  unfold execVc2WaitExpiry
  refine kept_act ?_ h
  intro s3 k4
  extract_lets -lift -underBinder -merge -useContext +onlyGivenNames s5
  try clear_value s5
  split
  · exact kept_ite (kept_bump (kept_setVl k4)) k4
  · exact k4

theorem kept_execCreditRefresh {a0 : LPort} {s : State} (h : Kept q s) : KeptOut q (execCreditRefresh a0 s) := by
  unfold execCreditRefresh
  refine kept_act ?_ h
  intro s3 k4
  split
  · exact kept_sendCredits (kept_freeHeld k4)
  · exact kept_sendCredits (kept_freeHeld k4)
  · exact k4

theorem kept_sendVc {a0 : State} {a1 : ℕ} {a2 : ℕ} (h1 : Kept q a0) : Kept q (State.sendVc a0 a1 a2).1 := by
  unfold State.sendVc
  extract_lets -lift -underBinder -merge -useContext +onlyGivenNames s1
  try clear_value s1
  refine kept_ite_p1 ?_ ?_
  · split
    · exact kept_putFrame (kept_setVl h1)
    · exact h1
  · split
    · extract_lets -lift -underBinder -merge -useContext +onlyGivenNames s6
      try clear_value s6
      extract_lets -lift -underBinder -merge -useContext +onlyGivenNames s7
      try clear_value s7
      extract_lets -lift -underBinder -merge -useContext +onlyGivenNames s8
      try clear_value s8
      exact kept_putFrame (kept_setVl h1)
    · exact h1

theorem kept_execCreditWord {a0 : LPort} {a1 : Bool} {a2 : BitVec 64} {s : State} (h : Kept q s) : KeptOut q (execCreditWord a0 a1 a2 s) := by
  unfold execCreditWord
  refine kept_act ?_ h
  intro s5 k6
  refine kept_wordIn k6 ?_
  · intro s11 k12
    extract_lets -lift -underBinder -merge -useContext +onlyGivenNames s13
    have k14 : Kept q s13 := by unfold s13; exact kept_cutFrame k12
    clear_value s13
    split
    · exact kept_ite (kept_protErr k14) (kept_takeCredit k14)
    · exact kept_ite (kept_protErr k14) (kept_takeCredit k14)
    · exact k14

theorem kept_execPcsLinkChange {a0 : LPort} {a1 : Bool} {s : State} (h : Kept q s) : KeptOut q (execPcsLinkChange a0 a1 s) := by
  unfold execPcsLinkChange
  refine kept_act ?_ h
  intro s3 k4
  refine kept_ite ?_ ?_
  · exact k4
  · extract_lets -lift -underBinder -merge -useContext +onlyGivenNames s5
    try clear_value s5
    extract_lets -lift -underBinder -merge -useContext +onlyGivenNames s6
    have k7 : Kept q s6 := by unfold s6; exact kept_setPort k4
    clear_value s6
    extract_lets -lift -underBinder -merge -useContext +onlyGivenNames s8
    have k9 : Kept q s8 := by unfold s8; exact kept_ite k7 (kept_portDown k7)
    clear_value s8
    exact kept_signal k9

theorem kept_execAckWord {a0 : LPort} {a1 : Bool} {a2 : BitVec 64} {s : State} (h : Kept q s) : KeptOut q (execAckWord a0 a1 a2 s) := by
  unfold execAckWord
  refine kept_act ?_ h
  intro s5 k6
  refine kept_wordIn k6 ?_
  · intro s11 k12
    extract_lets -lift -underBinder -merge -useContext +onlyGivenNames s13
    have k14 : Kept q s13 := by unfold s13; exact kept_cutFrame k12
    clear_value s13
    exact kept_ite k14 (kept_ite (kept_protErr k14) (kept_takeAck k14))

theorem kept_execNakWord {a0 : LPort} {a1 : Bool} {a2 : BitVec 64} {s : State} (h : Kept q s) : KeptOut q (execNakWord a0 a1 a2 s) := by
  unfold execNakWord
  refine kept_act ?_ h
  intro s5 k6
  refine kept_wordIn k6 ?_
  · intro s11 k12
    extract_lets -lift -underBinder -merge -useContext +onlyGivenNames s13
    have k14 : Kept q s13 := by unfold s13; exact kept_cutFrame k12
    clear_value s13
    exact kept_ite k14 (kept_ite (kept_protErr k14) (kept_takeAck k14))

theorem kept_execAlignWord {a0 : LPort} {a1 : BitVec 64} {a2 : AlignSeen} {s : State} (h : Kept q s) : KeptOut q (execAlignWord a0 a1 a2 s) := by
  unfold execAlignWord
  refine kept_act ?_ h
  intro s5 k6
  refine kept_wordIn k6 ?_
  · intro s11 k12
    extract_lets -lift -underBinder -merge -useContext +onlyGivenNames s13
    try clear_value s13
    extract_lets -lift -underBinder -merge -useContext +onlyGivenNames s14
    try clear_value s14
    refine kept_ite ?_ ?_
    · exact k12
    · refine kept_ite ?_ ?_
      · exact kept_protErr k12
      · split
        · exact k12
        · extract_lets -lift -underBinder -merge -useContext +onlyGivenNames s17
          have k18 : ∀ a0, Kept q (s17 a0) := by
            unfold s17
            intro s19
            exact kept_ite (kept_bump (kept_setPort k12)) (kept_setPort k12)
          clear_value s17
          refine kept_ite ?_ ?_
          · exact k18 _
          · refine kept_ite ?_ ?_
            · exact k18 _
            · extract_lets -lift -underBinder -merge -useContext +onlyGivenNames s20
              try clear_value s20
              exact kept_ite (kept_setPort k12) (kept_ite (kept_setPort k12) (kept_enterInit k12))
        · exact kept_ite (kept_portDown k12) k12

theorem kept_execFrameSend {a0 : LPort} {s : State} (h : Kept q s) : KeptOut q (execFrameSend a0 s) := by
  unfold execFrameSend
  refine kept_act ?_ h
  intro s3 k4
  extract_lets -lift -underBinder -merge -useContext +onlyGivenNames s5
  try clear_value s5
  refine kept_ite ?_ ?_
  · exact k4
  · refine kept_ite ?_ ?_
    · extract_lets -lift -underBinder -merge -useContext +onlyGivenNames s6
      try clear_value s6
      exact kept_sendWords (kept_setPort k4)
    · refine kept_ite ?_ ?_
      · exact k4
      · refine kept_ite ?_ ?_
        · exact kept_sendVc k4
        · split
          · exact k4
          · extract_lets -lift -underBinder -merge -useContext +onlyGivenNames s9
            try clear_value s9
            split
            · rename_i y10 y12 e13
              have k11 : Kept q y10 := kept_p1 e13 (kept_sendVc k4)
              extract_lets -lift -underBinder -merge -useContext +onlyGivenNames s14
              try clear_value s14
              extract_lets -lift -underBinder -merge -useContext +onlyGivenNames s15
              try clear_value s15
              extract_lets -lift -underBinder -merge -useContext +onlyGivenNames s16
              try clear_value s16
              exact kept_setPort k11

theorem kept_execPortAligning {a0 : LPort} {s : State} (h : Kept q s) : KeptOut q (execPortAligning a0 s) := by
  unfold execPortAligning
  refine kept_act ?_ h
  intro s3 k4
  extract_lets -lift -underBinder -merge -useContext +onlyGivenNames s5
  try clear_value s5
  extract_lets -lift -underBinder -merge -useContext +onlyGivenNames s6
  try clear_value s6
  exact kept_ite k4 (kept_ite (kept_ite (kept_setPort k4) k4) (kept_ite (kept_enterInit k4) k4))

theorem kept_execLresetWord {a0 : LPort} {a1 : Bool} {a2 : BitVec 64} {s : State} (h : Kept q s) : KeptOut q (execLresetWord a0 a1 a2 s) := by
  unfold execLresetWord
  refine kept_act ?_ h
  intro s5 k6
  refine kept_wordIn k6 ?_
  · intro s11 k12
    extract_lets -lift -underBinder -merge -useContext +onlyGivenNames s13
    have k14 : Kept q s13 := by unfold s13; exact kept_cutFrame k12
    clear_value s13
    exact kept_ite k14 (kept_ite (kept_protErr k14) (kept_takeLreset k14))

end Sys2Proof.Machine
end

