-- ==== Sys2Proof/Laws/KeptStops.lean ====
section
/-! SUPPORT. The operations of Machine/Stops.lean keep the form of memory and the queue. -/

namespace Sys2Proof.Machine
open Sys2Proof

variable {q : List Instr × Bool}

theorem kept_discardPlaced {a0 : State} {a1 : ℕ} {a2 : List Tag} (h1 : Kept q a0) : Kept q (State.discardPlaced a0 a1 a2) := by
  unfold State.discardPlaced
  extract_lets -lift -underBinder -merge -useContext +onlyGivenNames s1
  try clear_value s1
  extract_lets -lift -underBinder -merge -useContext +onlyGivenNames s2
  have k3 : Kept q s2 := by unfold s2; exact Kept.upd h1
  clear_value s2
  refine kept_foldl ?_ ?_
  · exact k3
  · intro s4 x6 k5
    exact kept_setGroups k5

theorem kept_discardQueued {a0 : State} {a1 : Port} {a2 : ℕ} {a3 : QItem → Bool} (h1 : Kept q a0) : Kept q (State.discardQueued a0 a1 a2 a3) := by
  unfold State.discardQueued
  extract_lets -lift -underBinder -merge -useContext +onlyGivenNames s1
  try clear_value s1
  extract_lets -lift -underBinder -merge -useContext +onlyGivenNames s2
  try clear_value s2
  extract_lets -lift -underBinder -merge -useContext +onlyGivenNames s3
  have k4 : Kept q s3 := by unfold s3; exact kept_bumpBy (Kept.upd h1)
  clear_value s3
  exact kept_ite (kept_discardPlaced k4) k4

theorem kept_discardDecls {a0 : State} {a1 : Decl → Bool} (h1 : Kept q a0) : Kept q (State.discardDecls a0 a1) := by
  unfold State.discardDecls
  extract_lets -lift -underBinder -merge -useContext +onlyGivenNames s1
  try clear_value s1
  extract_lets -lift -underBinder -merge -useContext +onlyGivenNames s2
  have k3 : Kept q s2 := by unfold s2; exact kept_bumpBy (Kept.upd h1)
  clear_value s2
  exact kept_bumpBy k3

theorem kept_discardWins {a0 : State} {a1 : SrsWin → Bool} (h1 : Kept q a0) : Kept q (State.discardWins a0 a1) := by
  unfold State.discardWins
  extract_lets -lift -underBinder -merge -useContext +onlyGivenNames s1
  try clear_value s1
  exact kept_bumpBy (Kept.upd h1)

theorem kept_discardCommits {a0 : State} {a1 : Dir → BeamCommit → Bool} (h1 : Kept q a0) : Kept q (State.discardCommits a0 a1) := by
  unfold State.discardCommits
  refine kept_foldl ?_ ?_
  · exact h1
  · intro s1 x3 k2
    refine kept_foldl ?_ ?_
    · exact k2
    · intro s4 x6 k5
      split
      · exact kept_ite (kept_bump (kept_abandonCommit k5)) k5
      · exact k5

theorem kept_discardSpans {a0 : State} {a1 : ℕ} {a2 : TdSpan → Bool} (h1 : Kept q a0) : Kept q (State.discardSpans a0 a1 a2) := by
  unfold State.discardSpans
  exact Kept.upd h1

theorem kept_discardFrom {a0 : State} {a1 : Port} {a2 : ℕ} {a3 : ℕ} {a4 : Air} (h1 : Kept q a0) : Kept q (State.discardFrom a0 a1 a2 a3 a4) := by
  unfold State.discardFrom
  extract_lets -lift -underBinder -merge -useContext +onlyGivenNames s1
  try clear_value s1
  extract_lets -lift -underBinder -merge -useContext +onlyGivenNames s2
  have k3 : Kept q s2 := by unfold s2; exact kept_discardQueued h1
  clear_value s2
  split
  · exact kept_discardDecls k3
  · extract_lets -lift -underBinder -merge -useContext +onlyGivenNames s6
    try clear_value s6
    exact kept_discardDecls (kept_bumpBy (Kept.upd k3))
  · exact kept_discardWins k3
  · exact kept_discardCommits k3
  · exact kept_discardSpans k3
  · exact kept_capDiscard k3
  · exact k3

theorem kept_pathsIn {a0 : State} {a1 : Bool} {a2 : BitVec 64} (h1 : Kept q a0) : Kept q (State.pathsIn a0 a1 a2) := by
  unfold State.pathsIn
  refine kept_ite ?_ ?_
  · refine kept_foldl ?_ ?_
    · exact Kept.upd h1
    · intro s1 x3 k2
      exact kept_dcZero k2
  · exact Kept.upd h1

theorem kept_applyResume {a0 : State} {a1 : QItem} (h1 : Kept q a0) : Kept q (State.applyResume a0 a1) := by
  unfold State.applyResume
  extract_lets -lift -underBinder -merge -useContext +onlyGivenNames s1
  try clear_value s1
  extract_lets -lift -underBinder -merge -useContext +onlyGivenNames s2
  have k3 : Kept q s2 := by
    unfold s2
    refine kept_foldl ?_ ?_
    · exact h1
    · intro s7 x9 k8
      extract_lets -lift -underBinder -merge -useContext +onlyGivenNames s10
      try clear_value s10
      extract_lets -lift -underBinder -merge -useContext +onlyGivenNames s11
      try clear_value s11
      extract_lets -lift -underBinder -merge -useContext +onlyGivenNames s12
      try clear_value s12
      extract_lets -lift -underBinder -merge -useContext +onlyGivenNames s13
      try clear_value s13
      extract_lets -lift -underBinder -merge -useContext +onlyGivenNames s14
      have k15 : Kept q s14 := by unfold s14; exact kept_ite (kept_setObs k8) k8
      clear_value s14
      exact kept_setFn k15
  clear_value s2
  refine kept_foldl ?_ ?_
  · exact k3
  · intro s4 x6 k5
    exact kept_ite (kept_pathsIn k5) k5

theorem kept_passMarker {a0 : State} {a1 : QItem} (h1 : Kept q a0) : Kept q (State.passMarker a0 a1) := by
  unfold State.passMarker
  exact kept_emitOut h1

theorem kept_execQuiescence {a0 : FnCode} {a1 : Tile} {s : State} (h : Kept q s) : KeptOut q (execQuiescence a0 a1 s) := by
  unfold execQuiescence
  refine kept_act ?_ h
  intro s3 k4
  extract_lets -lift -underBinder -merge -useContext +onlyGivenNames s5
  try clear_value s5
  extract_lets -lift -underBinder -merge -useContext +onlyGivenNames s6
  try clear_value s6
  extract_lets -lift -underBinder -merge -useContext +onlyGivenNames s7
  try clear_value s7
  extract_lets -lift -underBinder -merge -useContext +onlyGivenNames s8
  try clear_value s8
  extract_lets -lift -underBinder -merge -useContext +onlyGivenNames s9
  try clear_value s9
  refine kept_ite ?_ ?_
  · exact k4
  · extract_lets -lift -underBinder -merge -useContext +onlyGivenNames s10
    have k11 : Kept q s10 := by unfold s10; exact kept_setFn k4
    clear_value s10
    exact kept_signalAll k11

theorem kept_takeResume {a0 : State} {a1 : Port} {a2 : ℕ} {a3 : Item} {a4 : BitVec 19} (h1 : Kept q a0) : Kept q (State.takeResume a0 a1 a2 a3 a4) := by
  unfold State.takeResume
  extract_lets -lift -underBinder -merge -useContext +onlyGivenNames s1
  try clear_value s1
  refine kept_ite ?_ ?_
  · exact kept_refuse h1
  · split
    · rename_i y2 y3 y4 e6
      have k5 : Kept q y4 := kept_p22 e6 (by
          split
          · exact h1
          · exact kept_bump h1
          )
      extract_lets -lift -underBinder -merge -useContext +onlyGivenNames s9
      have k10 : Kept q s9 := by
        unfold s9
        refine kept_foldl ?_ ?_
        · exact k5
        · intro s11 x13 k12
          extract_lets -lift -underBinder -merge -useContext +onlyGivenNames s14
          try clear_value s14
          exact kept_setFn k12
      clear_value s9
      exact kept_enqueue k10

theorem kept_stopPaths {a0 : State} {a1 : ℕ} {a2 : StopReq} (h1 : Kept q a0) : Kept q (State.stopPaths a0 a1 a2) := by
  unfold State.stopPaths
  extract_lets -lift -underBinder -merge -useContext +onlyGivenNames s1
  try clear_value s1
  extract_lets -lift -underBinder -merge -useContext +onlyGivenNames s2
  have k3 : Kept q s2 := by unfold s2; exact Kept.upd h1
  clear_value s2
  refine kept_foldl ?_ ?_
  · exact k3
  · intro s4 x6 k5
    extract_lets -lift -underBinder -merge -useContext +onlyGivenNames s7
    try clear_value s7
    exact kept_setFn k5

theorem kept_stopFn {a0 : State} {a1 : Port} {a2 : ℕ} {a3 : ℕ} {a4 : StopReq} (h1 : Kept q a0) : Kept q (State.stopFn a0 a1 a2 a3 a4) := by
  unfold State.stopFn
  extract_lets -lift -underBinder -merge -useContext +onlyGivenNames s1
  try clear_value s1
  extract_lets -lift -underBinder -merge -useContext +onlyGivenNames s2
  try clear_value s2
  exact kept_ite (kept_ite (kept_signal h1) h1) (kept_discardFrom (kept_setFn h1))

theorem kept_takeStop {a0 : State} {a1 : Port} {a2 : ℕ} {a3 : Item} (h1 : Kept q a0) : Kept q (State.takeStop a0 a1 a2 a3) := by
  unfold State.takeStop
  split
  · rename_i y1 y2 e4
    have k3 : Kept q y2 := kept_p2 e4 (by
        split
        · exact h1
        · exact kept_bump h1
        )
    extract_lets -lift -underBinder -merge -useContext +onlyGivenNames s7
    try clear_value s7
    extract_lets -lift -underBinder -merge -useContext +onlyGivenNames s8
    try clear_value s8
    refine kept_foldl ?_ ?_
    · exact k3
    · intro s9 x11 k10
      exact kept_ite (kept_stopPaths k10) (kept_stopFn k10)

theorem kept_arriveStop {a0 : State} {a1 : Port} {a2 : ℕ} {a3 : Item} (h1 : Kept q a0) : Kept q (State.arriveStop a0 a1 a2 a3) := by
  unfold State.arriveStop
  exact kept_arrive h1 (fun _  _ k3 => kept_ite (kept_takeResume k3) (kept_takeStop k3))

theorem kept_execPathrxStop {a0 : Port} {a1 : Tile} {a2 : Tag} {a3 : Bytes} {s : State} (h : Kept q s) : KeptOut q (execPathrxStop a0 a1 a2 a3 s) := by
  unfold execPathrxStop
  exact kept_act (fun _ k2 => kept_arriveStop k2) h

theorem kept_squashFns {a0 : State} {a1 : Port} {a2 : ℕ} {a3 : Tag → Bool} (h1 : Kept q a0) : Kept q (State.squashFns a0 a1 a2 a3) := by
  unfold State.squashFns
  extract_lets -lift -underBinder -merge -useContext +onlyGivenNames s1
  try clear_value s1
  extract_lets -lift -underBinder -merge -useContext +onlyGivenNames s2
  try clear_value s2
  extract_lets -lift -underBinder -merge -useContext +onlyGivenNames s3
  have k4 : Kept q s3 := by
    unfold s3
    refine kept_foldl ?_ ?_
    · exact h1
    · intro s7 x9 k8
      exact kept_setFn k8
  clear_value s3
  extract_lets -lift -underBinder -merge -useContext +onlyGivenNames s5
  have k6 : Kept q s5 := by unfold s5; exact kept_bumpBy k4
  clear_value s5
  exact kept_ite (Kept.upd k6) k6

theorem kept_squashBeam {a0 : State} {a1 : Tag} {a2 : List ℕ} (h1 : Kept q a0) : Kept q (State.squashBeam a0 a1 a2) := by
  unfold State.squashBeam
  extract_lets -lift -underBinder -merge -useContext +onlyGivenNames s1
  try clear_value s1
  extract_lets -lift -underBinder -merge -useContext +onlyGivenNames s2
  try clear_value s2
  extract_lets -lift -underBinder -merge -useContext +onlyGivenNames s3
  try clear_value s3
  extract_lets -lift -underBinder -merge -useContext +onlyGivenNames s4
  try clear_value s4
  extract_lets -lift -underBinder -merge -useContext +onlyGivenNames s5
  have k6 : Kept q s5 := by unfold s5; exact kept_discardWins (kept_discardDecls h1)
  clear_value s5
  exact Kept.upd k6

theorem kept_execPathtxStop {a0 : Port} {a1 : Tile} {a2 : Tag} {a3 : Bytes} {s : State} (h : Kept q s) : KeptOut q (execPathtxStop a0 a1 a2 a3 s) := by
  unfold execPathtxStop
  exact kept_act (fun _ k2 => kept_arriveStop k2) h

theorem kept_squashPend {a0 : State} {a1 : Port} {a2 : ℕ} {a3 : Tag → Bool} (h1 : Kept q a0) : Kept q (State.squashPend a0 a1 a2 a3) := by
  unfold State.squashPend
  extract_lets -lift -underBinder -merge -useContext +onlyGivenNames s1
  try clear_value s1
  refine kept_foldl ?_ ?_
  · exact h1
  · intro s2 x4 k3
    extract_lets -lift -underBinder -merge -useContext +onlyGivenNames s5
    try clear_value s5
    split
    · exact kept_ite (kept_bump (kept_setSel k3)) k3
    · exact k3

theorem kept_squashSyncs {a0 : State} {a1 : ℕ} {a2 : Tag} {a3 : Bool} (h1 : Kept q a0) : Kept q (State.squashSyncs a0 a1 a2 a3) := by
  unfold State.squashSyncs
  extract_lets -lift -underBinder -merge -useContext +onlyGivenNames s1
  try clear_value s1
  extract_lets -lift -underBinder -merge -useContext +onlyGivenNames s2
  try clear_value s2
  exact kept_bumpBy (Kept.upd h1)

theorem kept_takeSquash {a0 : State} {a1 : Port} {a2 : ℕ} {a3 : Item} (h1 : Kept q a0) : Kept q (State.takeSquash a0 a1 a2 a3) := by
  unfold State.takeSquash
  extract_lets -lift -underBinder -merge -useContext +onlyGivenNames s1
  try clear_value s1
  extract_lets -lift -underBinder -merge -useContext +onlyGivenNames s2
  try clear_value s2
  extract_lets -lift -underBinder -merge -useContext +onlyGivenNames s3
  try clear_value s3
  extract_lets -lift -underBinder -merge -useContext +onlyGivenNames s4
  try clear_value s4
  extract_lets -lift -underBinder -merge -useContext +onlyGivenNames s5
  try clear_value s5
  extract_lets -lift -underBinder -merge -useContext +onlyGivenNames s6
  try clear_value s6
  extract_lets -lift -underBinder -merge -useContext +onlyGivenNames s7
  have k8 : Kept q s7 := by unfold s7; exact kept_ite h1 (kept_bump h1)
  clear_value s7
  extract_lets -lift -underBinder -merge -useContext +onlyGivenNames s9
  have k10 : Kept q s9 := by unfold s9; exact kept_discardQueued k8
  clear_value s9
  extract_lets -lift -underBinder -merge -useContext +onlyGivenNames s11
  have k12 : Kept q s11 := by unfold s11; exact kept_squashPend (kept_squashFns k10)
  clear_value s11
  extract_lets -lift -underBinder -merge -useContext +onlyGivenNames s13
  have k14 : Kept q s13 := by
    unfold s13
    split
    · exact kept_discardCommits (kept_squashBeam k12)
    · exact kept_capDiscard k12
    · exact kept_discardSpans (kept_squashSyncs k12)
    · exact k12
  clear_value s13
  extract_lets -lift -underBinder -merge -useContext +onlyGivenNames s15
  have k16 : Kept q s15 := by
    unfold s15
    refine kept_foldl ?_ ?_
    · exact k14
    · intro s20 x22 k21
      exact kept_ite (kept_blankSpan k21) k21
  clear_value s15
  extract_lets -lift -underBinder -merge -useContext +onlyGivenNames s17
  try clear_value s17
  extract_lets -lift -underBinder -merge -useContext +onlyGivenNames s18
  have k19 : Kept q s18 := by unfold s18; exact kept_ite k16 (Kept.upd k16)
  clear_value s18
  exact kept_emitOut k19

theorem kept_pathsOut {a0 : State} {a1 : Bool} {a2 : BitVec 64} {a3 : ℤ} {a4 : BitVec 4} (h1 : Kept q a0) : Kept q (State.pathsOut a0 a1 a2 a3 a4) := by
  unfold State.pathsOut
  extract_lets -lift -underBinder -merge -useContext +onlyGivenNames s1
  try clear_value s1
  extract_lets -lift -underBinder -merge -useContext +onlyGivenNames s2
  try clear_value s2
  extract_lets -lift -underBinder -merge -useContext +onlyGivenNames s3
  have k4 : Kept q s3 := by unfold s3; exact kept_ite (Kept.upd h1) (Kept.upd h1)
  clear_value s3
  extract_lets -lift -underBinder -merge -useContext +onlyGivenNames s5
  try clear_value s5
  extract_lets -lift -underBinder -merge -useContext +onlyGivenNames s6
  have k7 : Kept q s6 := by unfold s6; exact Kept.upd k4
  clear_value s6
  exact kept_signalAll k7

theorem kept_execStopResume {a0 : Port} {a1 : Tile} {a2 : Tag} {a3 : Bytes} {s : State} (h : Kept q s) : KeptOut q (execStopResume a0 a1 a2 a3 s) := by
  unfold execStopResume
  exact kept_act (fun _ k2 => kept_arriveStop k2) h

theorem kept_execStop {a0 : Port} {a1 : Tile} {a2 : Tag} {a3 : Bytes} {s : State} (h : Kept q s) : KeptOut q (execStop a0 a1 a2 a3 s) := by
  unfold execStop
  exact kept_act (fun _ k2 => kept_arriveStop k2) h

theorem kept_execStopTimeReached {a0 : FnCode} {a1 : Tile} {s : State} (h : Kept q s) : KeptOut q (execStopTimeReached a0 a1 s) := by
  unfold execStopTimeReached
  refine kept_act ?_ h
  intro s3 k4
  extract_lets -lift -underBinder -merge -useContext +onlyGivenNames s5
  try clear_value s5
  extract_lets -lift -underBinder -merge -useContext +onlyGivenNames s6
  try clear_value s6
  split
  · exact k4
  · refine kept_ite ?_ ?_
    · exact k4
    · refine kept_ite ?_ ?_
      · extract_lets -lift -underBinder -merge -useContext +onlyGivenNames s9
        try clear_value s9
        extract_lets -lift -underBinder -merge -useContext +onlyGivenNames s10
        have k11 : Kept q s10 := by unfold s10; exact kept_setFn k4
        clear_value s10
        refine kept_foldl ?_ ?_
        · exact Kept.upd k11
        · intro s12 x14 k13
          exact kept_pathsOut k13
      · extract_lets -lift -underBinder -merge -useContext +onlyGivenNames s15
        try clear_value s15
        extract_lets -lift -underBinder -merge -useContext +onlyGivenNames s16
        have k17 : Kept q s16 := by unfold s16; exact kept_setFn k4
        clear_value s16
        exact kept_ite (kept_capEnd k17) k17

theorem kept_execSquashItem {a0 : Port} {a1 : Tile} {a2 : Tag} {a3 : Bytes} {s : State} (h : Kept q s) : KeptOut q (execSquashItem a0 a1 a2 a3 s) := by
  unfold execSquashItem
  refine kept_act ?_ h
  intro s3 k4
  extract_lets -lift -underBinder -merge -useContext +onlyGivenNames s5
  try clear_value s5
  exact kept_arrive k4 (fun _  _ k8 => kept_takeSquash k8)

theorem kept_execMarker {a0 : Port} {a1 : Tile} {a2 : Tag} {a3 : Bytes} {s : State} (h : Kept q s) : KeptOut q (execMarker a0 a1 a2 a3 s) := by
  unfold execMarker
  exact kept_act (fun _ k2 => kept_arriveCtl k2) h

end Sys2Proof.Machine
end

