-- ==== Sys2Proof/Laws/KeptSettle.lean ====
section
/-! SUPPORT. The operations of Machine/Settle.lean keep the form of memory and the queue. -/

namespace Sys2Proof.Machine
open Sys2Proof

variable {q : List Instr × Bool}

theorem kept_forgetChains {a0 : State} (h1 : Kept q a0) : Kept q (State.forgetChains a0) := by
  unfold State.forgetChains
  exact Kept.upd h1

theorem kept_noteSettings {a0 : State} (h1 : Kept q a0) : Kept q (State.noteSettings a0) := by
  unfold State.noteSettings
  extract_lets -lift -underBinder -merge -useContext +onlyGivenNames s1
  try clear_value s1
  refine kept_ite ?_ ?_
  · exact h1
  · split
    · exact Kept.upd h1

theorem kept_setTdNext {a0 : State} {a1 : ℕ} {a2 : ℕ} {a3 : Option ℤ} (h1 : Kept q a0) : Kept q (State.setTdNext a0 a1 a2 a3) := by
  unfold State.setTdNext
  exact Kept.upd h1

theorem kept_tdBlock {a0 : State} {a1 : ℕ} {a2 : ℕ} (h1 : Kept q a0) : Kept q (State.tdBlock a0 a1 a2) := by
  unfold State.tdBlock
  extract_lets -lift -underBinder -merge -useContext +onlyGivenNames s1
  try clear_value s1
  split
  · extract_lets -lift -underBinder -merge -useContext +onlyGivenNames s3
    try clear_value s3
    exact kept_ite (kept_setTdNext h1) h1
  · extract_lets -lift -underBinder -merge -useContext +onlyGivenNames s5
    try clear_value s5
    extract_lets -lift -underBinder -merge -useContext +onlyGivenNames s6
    try clear_value s6
    refine kept_ite ?_ ?_
    · exact kept_setTdNext h1
    · refine kept_ite ?_ ?_
      · exact h1
      · extract_lets -lift -underBinder -merge -useContext +onlyGivenNames s7
        have k8 : Kept q s7 := by unfold s7; exact kept_setTdNext h1
        clear_value s7
        refine kept_ite ?_ ?_
        · exact k8
        · extract_lets -lift -underBinder -merge -useContext +onlyGivenNames s9
          try clear_value s9
          extract_lets -lift -underBinder -merge -useContext +onlyGivenNames s10
          try clear_value s10
          extract_lets -lift -underBinder -merge -useContext +onlyGivenNames s11
          try clear_value s11
          extract_lets -lift -underBinder -merge -useContext +onlyGivenNames s12
          try clear_value s12
          exact kept_sendTagged k8

theorem kept_tdBlocks {a0 : State} (h1 : Kept q a0) : Kept q (State.tdBlocks a0) := by
  unfold State.tdBlocks
  refine kept_ite ?_ ?_
  · exact h1
  · refine kept_foldl ?_ ?_
    · exact h1
    · intro s1 x3 k2
      refine kept_foldl ?_ ?_
      · exact k2
      · intro s4 x6 k5
        exact kept_tdBlock k5

theorem kept_txWordLost {a0 : State} {a1 : ℕ} (h1 : Kept q a0) : Kept q (State.txWordLost a0 a1) := by
  unfold State.txWordLost
  extract_lets -lift -underBinder -merge -useContext +onlyGivenNames s1
  try clear_value s1
  extract_lets -lift -underBinder -merge -useContext +onlyGivenNames s2
  have k3 : Kept q s2 := by
    unfold s2
    refine kept_foldl ?_ ?_
    · exact h1
    · intro s8 x10 k9
      exact kept_blankFrom k9
  clear_value s2
  extract_lets -lift -underBinder -merge -useContext +onlyGivenNames s4
  try clear_value s4
  refine kept_foldl ?_ ?_
  · exact Kept.upd k3
  · intro s5 x7 k6
    exact kept_blankTd k6

theorem kept_txWords {a0 : State} (h1 : Kept q a0) : Kept q (State.txWords a0) := by
  unfold State.txWords
  extract_lets -lift -underBinder -merge -useContext +onlyGivenNames s1
  try clear_value s1
  refine kept_ite ?_ ?_
  · exact h1
  · refine kept_foldl ?_ ?_
    · exact h1
    · intro s2 x4 k3
      exact kept_txWordLost k3

theorem kept_prbsChecks {a0 : State} (h1 : Kept q a0) : Kept q (State.prbsChecks a0) := by
  unfold State.prbsChecks
  extract_lets -lift -underBinder -merge -useContext +onlyGivenNames s1
  have k2 : Kept q s1 := by
    unfold s1
    refine kept_foldl ?_ ?_
    · exact h1
    · intro s6 x8 k7
      exact kept_emitOut k7
  clear_value s1
  refine kept_foldl ?_ ?_
  · exact k2
  · intro s3 x5 k4
    exact kept_bumpBy k4

theorem kept_settleRx {a0 : State} {a1 : ℤ} {a2 : ℕ} (h1 : Kept q a0) : Kept q (State.settleRx a0 a1 a2) := by
  unfold State.settleRx
  extract_lets -lift -underBinder -merge -useContext +onlyGivenNames s1
  try clear_value s1
  extract_lets -lift -underBinder -merge -useContext +onlyGivenNames s2
  try clear_value s2
  extract_lets -lift -underBinder -merge -useContext +onlyGivenNames s3
  try clear_value s3
  extract_lets -lift -underBinder -merge -useContext +onlyGivenNames s4
  try clear_value s4
  exact kept_bumpBy h1

theorem kept_settleTx {a0 : State} {a1 : ℤ} {a2 : ℕ} (h1 : Kept q a0) : Kept q (State.settleTx a0 a1 a2) := by
  unfold State.settleTx
  extract_lets -lift -underBinder -merge -useContext +onlyGivenNames s1
  try clear_value s1
  extract_lets -lift -underBinder -merge -useContext +onlyGivenNames s2
  try clear_value s2
  extract_lets -lift -underBinder -merge -useContext +onlyGivenNames s3
  try clear_value s3
  extract_lets -lift -underBinder -merge -useContext +onlyGivenNames s4
  try clear_value s4
  extract_lets -lift -underBinder -merge -useContext +onlyGivenNames s5
  have k6 : Kept q s5 := by unfold s5; exact kept_bumpBy h1
  clear_value s5
  extract_lets -lift -underBinder -merge -useContext +onlyGivenNames s7
  have k8 : Kept q s7 := by unfold s7; exact kept_ite h1 (kept_bumpBy (kept_bumpBy k6))
  clear_value s7
  extract_lets -lift -underBinder -merge -useContext +onlyGivenNames s9
  have k10 : Kept q s9 := by unfold s9; exact kept_bumpBy k8
  clear_value s9
  extract_lets -lift -underBinder -merge -useContext +onlyGivenNames s11
  try clear_value s11
  exact kept_ite k10 (kept_emitOut k10)

theorem kept_settleCar {a0 : State} {a1 : ℤ} {a2 : ℕ} {a3 : ℕ} (h1 : Kept q a0) : Kept q (State.settleCar a0 a1 a2 a3) := by
  unfold State.settleCar
  extract_lets -lift -underBinder -merge -useContext +onlyGivenNames s1
  try clear_value s1
  exact kept_ite h1 (kept_bumpBy h1)

theorem kept_settleSym {a0 : State} {a1 : ℕ} {a2 : ℤ} (h1 : Kept q a0) : Kept q (State.settleSym a0 a1 a2) := by
  unfold State.settleSym
  split
  · extract_lets -lift -underBinder -merge -useContext +onlyGivenNames s3
    try clear_value s3
    extract_lets -lift -underBinder -merge -useContext +onlyGivenNames s4
    try clear_value s4
    extract_lets -lift -underBinder -merge -useContext +onlyGivenNames s5
    try clear_value s5
    extract_lets -lift -underBinder -merge -useContext +onlyGivenNames s6
    try clear_value s6
    extract_lets -lift -underBinder -merge -useContext +onlyGivenNames s7
    have k8 : Kept q s7 := by unfold s7; exact kept_bumpBy h1
    clear_value s7
    refine kept_foldl ?_ ?_
    · exact k8
    · intro s9 x11 k10
      exact kept_bump k10

theorem kept_settleTails {a0 : State} {a1 : ℤ} {a2 : ℕ} (h1 : Kept q a0) : Kept q (State.settleTails a0 a1 a2) := by
  unfold State.settleTails
  extract_lets -lift -underBinder -merge -useContext +onlyGivenNames s1
  try clear_value s1
  refine kept_ite ?_ ?_
  · exact h1
  · extract_lets -lift -underBinder -merge -useContext +onlyGivenNames s2
    try clear_value s2
    extract_lets -lift -underBinder -merge -useContext +onlyGivenNames s3
    try clear_value s3
    exact kept_bumpBy h1

theorem kept_settle {a0 : State} {a1 : ℤ} (h1 : Kept q a0) : Kept q (State.settle a0 a1) := by
  unfold State.settle
  extract_lets -lift -underBinder -merge -useContext +onlyGivenNames s1
  try clear_value s1
  extract_lets -lift -underBinder -merge -useContext +onlyGivenNames s2
  have k3 : Kept q s2 := by
    unfold s2
    refine kept_foldl ?_ ?_
    · exact h1
    · intro s18 x20 k19
      exact kept_settleRx (kept_settleTx k19)
  clear_value s2
  extract_lets -lift -underBinder -merge -useContext +onlyGivenNames s4
  have k5 : Kept q s4 := by
    unfold s4
    refine kept_foldl ?_ ?_
    · exact k3
    · intro s12 x14 k13
      refine kept_foldl ?_ ?_
      · exact k13
      · intro s15 x17 k16
        exact kept_settleCar k16
  clear_value s4
  refine kept_foldl ?_ ?_
  · exact k5
  · intro s6 x8 k7
    refine kept_foldl ?_ ?_
    · exact kept_settleTails k7
    · intro s9 x11 k10
      exact kept_settleSym k10

theorem kept_chainTick {a0 : State} (h1 : Kept q a0) : Kept q (State.chainTick a0) := by
  unfold State.chainTick
  extract_lets -lift -underBinder -merge -useContext +onlyGivenNames s1
  have k2 : Kept q s1 := by unfold s1; exact kept_tdBlocks (kept_transformSyms (kept_rffeTick (kept_dutyTick (kept_dcTick (kept_txWords (kept_noteSettings h1))))))
  clear_value s1
  extract_lets -lift -underBinder -merge -useContext +onlyGivenNames s3
  have k4 : Kept q s3 := by unfold s3; exact kept_ite (kept_prbsChecks k2) k2
  clear_value s3
  extract_lets -lift -underBinder -merge -useContext +onlyGivenNames s5
  try clear_value s5
  exact kept_ite (kept_settle k4) k4

end Sys2Proof.Machine
end

