-- ==== Sys2Proof/Laws/KeptTime.lean ====
section
/-! SUPPORT. The operations of Machine/Time.lean keep the form of memory and the queue. -/

namespace Sys2Proof.Machine
open Sys2Proof

variable {q : List Instr × Bool}

theorem kept_setServo {a0 : State} {a1 : Servo} (h1 : Kept q a0) : Kept q (State.setServo a0 a1) := by
  unfold State.setServo
  exact Kept.upd h1

theorem kept_tsyncBad {a0 : State} (h1 : Kept q a0) : Kept q (State.tsyncBad a0) := by
  unfold State.tsyncBad
  exact kept_setServo (kept_signal h1)

theorem kept_execTsyncMissing {s : State} (h : Kept q s) : KeptOut q (execTsyncMissing s) := by
  unfold execTsyncMissing
  exact kept_act (fun _ k2 => kept_ite (kept_tsyncBad k2) k2) h

theorem kept_setX {a0 : State} {a1 : ℤ} (h1 : Kept q a0) : Kept q (State.setX a0 a1) := by
  unfold State.setX
  exact Kept.upd h1

theorem kept_count {a0 : State} {a1 : ℕ} (h1 : Kept q a0) : Kept q (State.count a0 a1) := by
  unfold State.count
  extract_lets -lift -underBinder -merge -useContext +onlyGivenNames s1
  have k2 : Kept q s1 := by unfold s1; exact kept_setX h1
  clear_value s1
  exact Kept.upd k2

theorem kept_execSlowclkTick {s : State} (h : Kept q s) : KeptOut q (execSlowclkTick s) := by
  unfold execSlowclkTick
  exact kept_act (fun _ k2 => kept_ite (kept_count k2) k2) h

theorem kept_launchMiss {a0 : State} (h1 : Kept q a0) : Kept q (State.launchMiss a0) := by
  unfold State.launchMiss
  exact kept_signal (kept_bump h1)

theorem kept_stepTime {a0 : State} {a1 : ℤ} (h1 : Kept q a0) : Kept q (State.stepTime a0 a1).1 := by
  unfold State.stepTime
  refine kept_ite_p1 ?_ ?_
  · exact kept_signal h1
  · extract_lets -lift -underBinder -merge -useContext +onlyGivenNames s1
    try clear_value s1
    extract_lets -lift -underBinder -merge -useContext +onlyGivenNames s2
    have k3 : Kept q s2 := by unfold s2; exact kept_forgetChains (kept_setX h1)
    clear_value s2
    extract_lets -lift -underBinder -merge -useContext +onlyGivenNames s4
    try clear_value s4
    extract_lets -lift -underBinder -merge -useContext +onlyGivenNames s5
    have k6 : Kept q s5 := by unfold s5; exact Kept.upd k3
    clear_value s5
    dsimp only
    refine kept_foldl ?_ ?_
    · exact k6
    · intro s7 x9 k8
      exact kept_launchMiss k8

theorem kept_steer {a0 : State} (h1 : Kept q a0) : Kept q (State.steer a0) := by
  unfold State.steer
  refine kept_ite ?_ ?_
  · extract_lets -lift -underBinder -merge -useContext +onlyGivenNames s1
    have k2 : Kept q s1 := by unfold s1; exact kept_emitOut h1
    clear_value s1
    exact Kept.upd k2
  · exact h1

theorem kept_setRate {a0 : State} {a1 : BitVec 40} (h1 : Kept q a0) : Kept q (State.setRate a0 a1) := by
  unfold State.setRate
  extract_lets -lift -underBinder -merge -useContext +onlyGivenNames s1
  try clear_value s1
  exact kept_ite h1 (kept_steer (Kept.upd h1))

theorem kept_toHoldover {a0 : State} (h1 : Kept q a0) : Kept q (State.toHoldover a0) := by
  unfold State.toHoldover
  split
  · rename_i y1 y2 e4
    have k3 : Kept q y2 := kept_p2 e4 (kept_draw h1)
    exact kept_setRate (kept_setServo k3)

theorem kept_sample {a0 : State} {a1 : ℤ} {a2 : ℤ} {a3 : BitVec 40} (h1 : Kept q a0) : Kept q (State.sample a0 a1 a2 a3) := by
  unfold State.sample
  extract_lets -lift -underBinder -merge -useContext +onlyGivenNames s1
  try clear_value s1
  split
  · extract_lets -lift -underBinder -merge -useContext +onlyGivenNames s3
    try clear_value s3
    extract_lets -lift -underBinder -merge -useContext +onlyGivenNames s4
    try clear_value s4
    extract_lets -lift -underBinder -merge -useContext +onlyGivenNames s5
    try clear_value s5
    refine kept_ite ?_ ?_
    · exact Kept.upd h1
    · split
      · rename_i y6 e8
        have k7 : Kept q y6 := kept_p1 e8 (kept_stepTime h1)
        extract_lets -lift -underBinder -merge -useContext +onlyGivenNames s9
        have k10 : Kept q s9 := by unfold s9; exact kept_setServo (kept_signal k7)
        clear_value s9
        exact Kept.upd k10
      · rename_i y11 e13
        have k12 : Kept q y11 := kept_p1 e13 (kept_stepTime h1)
        exact Kept.upd k12
  · exact kept_ite (kept_setRate (Kept.upd h1)) (kept_toHoldover (kept_signal (kept_bump h1)))
  · refine kept_ite ?_ ?_
    · extract_lets -lift -underBinder -merge -useContext +onlyGivenNames s16
      try clear_value s16
      extract_lets -lift -underBinder -merge -useContext +onlyGivenNames s17
      try clear_value s17
      extract_lets -lift -underBinder -merge -useContext +onlyGivenNames s18
      have k19 : Kept q s18 := by unfold s18; exact Kept.upd h1
      clear_value s18
      exact kept_ite k19 (kept_setRate (kept_setServo k19))
    · exact kept_bump (Kept.upd h1)

theorem kept_writeTimeCfg {a0 : State} {a1 : BitVec 32} (h1 : Kept q a0) : Kept q (State.writeTimeCfg a0 a1) := by
  unfold State.writeTimeCfg
  extract_lets -lift -underBinder -merge -useContext +onlyGivenNames s1
  try clear_value s1
  extract_lets -lift -underBinder -merge -useContext +onlyGivenNames s2
  try clear_value s2
  extract_lets -lift -underBinder -merge -useContext +onlyGivenNames s3
  have k4 : Kept q s3 := by unfold s3; exact kept_setReg h1
  clear_value s3
  exact kept_done (kept_ite (kept_setServo k4) k4)

theorem kept_writeTimeCtrl {a0 : State} {a1 : BitVec 32} (h1 : Kept q a0) : Kept q (State.writeTimeCtrl a0 a1) := by
  unfold State.writeTimeCtrl
  exact kept_done (kept_ite (kept_setServo h1) h1)

theorem kept_readPtp {a0 : State} {a1 : Bytes} (h1 : Kept q a0) : Kept q (State.readPtp a0 a1) := by
  unfold State.readPtp
  extract_lets -lift -underBinder -merge -useContext +onlyGivenNames s1
  try clear_value s1
  split
  · rename_i y2 y3 e5
    have k4 : Kept q y3 := kept_p2 e5 (kept_memRead h1)
    split
    · extract_lets -lift -underBinder -merge -useContext +onlyGivenNames s7
      try clear_value s7
      extract_lets -lift -underBinder -merge -useContext +onlyGivenNames s8
      try clear_value s8
      extract_lets -lift -underBinder -merge -useContext +onlyGivenNames s9
      try clear_value s9
      exact kept_ite k4 (kept_ite (kept_launchMiss k4) (Kept.upd k4))
    · exact k4

theorem kept_writeTxwptr {a0 : State} {a1 : BitVec 32} (h1 : Kept q a0) : Kept q (State.writeTxwptr a0 a1) := by
  unfold State.writeTxwptr
  extract_lets -lift -underBinder -merge -useContext +onlyGivenNames s1
  try clear_value s1
  extract_lets -lift -underBinder -merge -useContext +onlyGivenNames s2
  try clear_value s2
  extract_lets -lift -underBinder -merge -useContext +onlyGivenNames s3
  try clear_value s3
  extract_lets -lift -underBinder -merge -useContext +onlyGivenNames s4
  have k5 : Kept q s4 := by unfold s4; exact kept_setReg h1
  clear_value s4
  extract_lets -lift -underBinder -merge -useContext +onlyGivenNames s6
  have k7 : Kept q s6 := by
    unfold s6
    refine kept_foldl ?_ ?_
    · exact k5
    · intro s8 x10 k9
      split
      · rename_i y11 y12 e14
        have k13 : Kept q y12 := kept_p2 e14 (kept_memRead k9)
        exact kept_readPtp k13
      · rename_i y15 y16 _ e18
        have k17 : Kept q y16 := kept_p2 e18 (kept_memRead k9)
        exact k17
  clear_value s6
  exact kept_done (kept_setReg k7)

theorem kept_writeTimeRate {a0 : State} {a1 : Initiator} {a2 : BitVec 64} (h1 : Kept q a0) : Kept q (State.writeTimeRate a0 a1 a2) := by
  unfold State.writeTimeRate
  split
  · exact kept_done (kept_setRate h1)
  · exact kept_error h1

theorem kept_writeTimeStep {a0 : State} {a1 : Initiator} {a2 : BitVec 64} (h1 : Kept q a0) : Kept q (State.writeTimeStep a0 a1 a2) := by
  unfold State.writeTimeStep
  split
  · exact kept_done (kept_stepTime h1)
  · exact kept_error h1

theorem kept_execPpsOutEdge {s : State} (h : Kept q s) : KeptOut q (execPpsOutEdge s) := by
  unfold execPpsOutEdge
  refine kept_act ?_ h
  intro s3 k4
  extract_lets -lift -underBinder -merge -useContext +onlyGivenNames s5
  try clear_value s5
  exact kept_ite (kept_emitOut k4) k4

theorem kept_timeAfterBog {a0 : State} (h1 : Kept q a0) : Kept q (State.timeAfterBog a0) := by
  unfold State.timeAfterBog
  extract_lets -lift -underBinder -merge -useContext +onlyGivenNames s1
  have k2 : Kept q s1 := by unfold s1; exact kept_setServo h1
  clear_value s1
  exact Kept.upd k2

theorem kept_ptpUp {a0 : State} {a1 : BitVec 64} {a2 : Bytes} (h1 : Kept q a0) : Kept q (State.ptpUp a0 a1 a2) := by
  unfold State.ptpUp
  refine kept_ite ?_ ?_
  · extract_lets -lift -underBinder -merge -useContext +onlyGivenNames s1
    try clear_value s1
    exact kept_ite (Kept.upd h1) (kept_bump h1)
  · exact kept_sendUp h1

theorem kept_ptpTake {a0 : State} {a1 : ℕ} {a2 : Bool} {a3 : BitVec 48} {a4 : Bytes} (h1 : Kept q a0) : Kept q (State.ptpTake a0 a1 a2 a3 a4) := by
  unfold State.ptpTake
  exact kept_ite (kept_emitOut h1) (kept_bump h1)

theorem kept_execSyncResetT0 {a0 : Tile} {s : State} (h : Kept q s) : KeptOut q (execSyncResetT0 a0 s) := by
  unfold execSyncResetT0
  refine kept_act ?_ h
  intro s3 k4
  extract_lets -lift -underBinder -merge -useContext +onlyGivenNames s5
  try clear_value s5
  extract_lets -lift -underBinder -merge -useContext +onlyGivenNames s6
  try clear_value s6
  extract_lets -lift -underBinder -merge -useContext +onlyGivenNames s7
  try clear_value s7
  extract_lets -lift -underBinder -merge -useContext +onlyGivenNames s8
  try clear_value s8
  exact Kept.upd k4

theorem kept_tick {a0 : State} (h1 : Kept q a0) : Kept q (State.tick a0) := by
  unfold State.tick
  exact kept_count (kept_ite h1 (kept_chainTick h1))

theorem kept_ptpDown {a0 : State} {a1 : Bytes} (h1 : Kept q a0) : Kept q (State.ptpDown a0 a1) := by
  unfold State.ptpDown
  extract_lets -lift -underBinder -merge -useContext +onlyGivenNames s1
  try clear_value s1
  exact kept_ite (kept_egress h1) (kept_bump h1)

theorem kept_annexE {a0 : State} {a1 : ℕ} {a2 : BitVec 48} {a3 : Bytes} (h1 : Kept q a0) : Kept q (State.annexE a0 a1 a2 a3) := by
  unfold State.annexE
  exact kept_ptpTake (kept_ite (kept_ptpDown h1) h1)

theorem kept_execPtpMessage {a0 : LPort} {a1 : Bool} {a2 : BitVec 48} {a3 : Bytes} {s : State} (h : Kept q s) : KeptOut q (execPtpMessage a0 a1 a2 a3 s) := by
  unfold execPtpMessage
  refine kept_act ?_ h
  intro s3 k4
  refine kept_ite ?_ ?_
  · refine kept_ite ?_ ?_
    · exact k4
    · split
      · rename_i y5 e7
        have k6 : Kept q y5 := kept_osome e7 (kept_portIn k4)
        exact kept_annexE k6
      · exact k4
  · refine kept_ite ?_ ?_
    · exact k4
    · extract_lets -lift -underBinder -merge -useContext +onlyGivenNames s9
      try clear_value s9
      extract_lets -lift -underBinder -merge -useContext +onlyGivenNames s10
      try clear_value s10
      extract_lets -lift -underBinder -merge -useContext +onlyGivenNames s11
      try clear_value s11
      split
      · exact k4
      · rename_i y13 e15
        have k14 : Kept q y13 := kept_osome e15 (kept_portIn k4)
        extract_lets -lift -underBinder -merge -useContext +onlyGivenNames s16
        have k17 : Kept q s16 := by unfold s16; exact kept_freeUnits (kept_setVl k14)
        clear_value s16
        exact kept_ite (kept_ptpUp k17) (kept_ptpTake (kept_ptpDown k17))

theorem kept_execServoSample {a0 : ℤ} {a1 : BitVec 4} {a2 : Bool} {a3 : BitVec 40} {s : State} (h : Kept q s) : KeptOut q (execServoSample a0 a1 a2 a3 s) := by
  unfold execServoSample
  exact kept_act (fun _ k2 => kept_ite k2 (kept_sample k2)) h

theorem kept_latchEdge {a0 : State} {a1 : BitVec 56} (h1 : Kept q a0) : Kept q (State.latchEdge a0 a1) := by
  unfold State.latchEdge
  extract_lets -lift -underBinder -merge -useContext +onlyGivenNames s1
  have k2 : Kept q s1 := by unfold s1; exact kept_setReg64 h1
  clear_value s1
  exact Kept.upd k2

theorem kept_tsyncEdge {a0 : State} (h1 : Kept q a0) : Kept q (State.tsyncEdge a0) := by
  unfold State.tsyncEdge
  extract_lets -lift -underBinder -merge -useContext +onlyGivenNames s1
  try clear_value s1
  extract_lets -lift -underBinder -merge -useContext +onlyGivenNames s2
  try clear_value s2
  extract_lets -lift -underBinder -merge -useContext +onlyGivenNames s3
  try clear_value s3
  extract_lets -lift -underBinder -merge -useContext +onlyGivenNames s4
  try clear_value s4
  extract_lets -lift -underBinder -merge -useContext +onlyGivenNames s5
  have k6 : Kept q s5 := by unfold s5; exact kept_latchEdge h1
  clear_value s5
  extract_lets -lift -underBinder -merge -useContext +onlyGivenNames s7
  try clear_value s7
  extract_lets -lift -underBinder -merge -useContext +onlyGivenNames s8
  have k9 : Kept q s8 := by unfold s8; exact Kept.upd k6
  clear_value s8
  refine kept_ite ?_ ?_
  · exact k9
  · split
    · split
      · rename_i y11 e13
        have k12 : Kept q y11 := kept_p1 e13 (kept_stepTime k9)
        extract_lets -lift -underBinder -merge -useContext +onlyGivenNames s14
        have k15 : Kept q s14 := by unfold s14; exact kept_setServo (kept_signal k12)
        clear_value s14
        exact Kept.upd k15
      · rename_i y16 e18
        have k17 : Kept q y16 := kept_p1 e18 (kept_stepTime k9)
        exact k17
    · extract_lets -lift -underBinder -merge -useContext +onlyGivenNames s20
      try clear_value s20
      split
      · exact kept_ite (kept_tsyncBad (kept_bump k9)) k9
      · exact k9
    · exact k9

theorem kept_execTsyncInEdge {s : State} (h : Kept q s) : KeptOut q (execTsyncInEdge s) := by
  unfold execTsyncInEdge
  refine kept_act ?_ h
  intro s3 k4
  extract_lets -lift -underBinder -merge -useContext +onlyGivenNames s5
  have k6 : Kept q s5 := by unfold s5; exact kept_tsyncEdge k4
  clear_value s5
  exact kept_ite (kept_wakeFromLow k6) k6

theorem kept_execPtpDescriptor {a0 : Initiator} {a1 : BitVec 32} {s : State} (h : Kept q s) : KeptOut q (execPtpDescriptor a0 a1 s) := by
  unfold execPtpDescriptor
  exact kept_act (fun _ k2 => kept_writeTxwptr k2) h

theorem kept_takeSync {a0 : State} {a1 : ℕ} {a2 : Item} (h1 : Kept q a0) : Kept q (State.takeSync a0 a1 a2) := by
  unfold State.takeSync
  extract_lets -lift -underBinder -merge -useContext +onlyGivenNames s1
  try clear_value s1
  extract_lets -lift -underBinder -merge -useContext +onlyGivenNames s2
  try clear_value s2
  extract_lets -lift -underBinder -merge -useContext +onlyGivenNames s3
  try clear_value s3
  split
  · exact kept_bump h1
  · refine kept_ite ?_ ?_
    · exact kept_bump h1
    · extract_lets -lift -underBinder -merge -useContext +onlyGivenNames s6
      try clear_value s6
      extract_lets -lift -underBinder -merge -useContext +onlyGivenNames s7
      try clear_value s7
      extract_lets -lift -underBinder -merge -useContext +onlyGivenNames s8
      have k9 : Kept q s8 := by
        unfold s8
        refine kept_foldl ?_ ?_
        · exact h1
        · intro s11 x13 k12
          exact kept_signal (kept_bump k12)
      clear_value s8
      extract_lets -lift -underBinder -merge -useContext +onlyGivenNames s10
      try clear_value s10
      exact kept_ite k9 (Kept.upd k9)

theorem kept_execPpsInEdge {s : State} (h : Kept q s) : KeptOut q (execPpsInEdge s) := by
  unfold execPpsInEdge
  refine kept_act ?_ h
  intro s3 k4
  extract_lets -lift -underBinder -merge -useContext +onlyGivenNames s5
  try clear_value s5
  extract_lets -lift -underBinder -merge -useContext +onlyGivenNames s6
  have k7 : Kept q s6 := by unfold s6; exact kept_setReg64 k4
  clear_value s6
  extract_lets -lift -underBinder -merge -useContext +onlyGivenNames s8
  try clear_value s8
  extract_lets -lift -underBinder -merge -useContext +onlyGivenNames s9
  have k10 : Kept q s9 := by unfold s9; exact Kept.upd k7
  clear_value s9
  refine kept_ite ?_ ?_
  · exact k10
  · extract_lets -lift -underBinder -merge -useContext +onlyGivenNames s11
    try clear_value s11
    split
    · rename_i y12 y13 e15
      have k14 : Kept q y13 := kept_p2 e15 (kept_draw k10)
      extract_lets -lift -underBinder -merge -useContext +onlyGivenNames s16
      try clear_value s16
      exact kept_sample k14

theorem kept_execSteeringWordPeriodic {s : State} (h : Kept q s) : KeptOut q (execSteeringWordPeriodic s) := by
  unfold execSteeringWordPeriodic
  exact kept_act (fun _ k2 => kept_ite (kept_steer k2) k2) h

theorem kept_execTsyncOutEdge {s : State} (h : Kept q s) : KeptOut q (execTsyncOutEdge s) := by
  unfold execTsyncOutEdge
  refine kept_act ?_ h
  intro s3 k4
  extract_lets -lift -underBinder -merge -useContext +onlyGivenNames s5
  try clear_value s5
  refine kept_ite ?_ ?_
  · exact k4
  · extract_lets -lift -underBinder -merge -useContext +onlyGivenNames s6
    have k7 : Kept q s6 := by unfold s6; exact kept_latchEdge (kept_emitOut k4)
    clear_value s6
    extract_lets -lift -underBinder -merge -useContext +onlyGivenNames s8
    try clear_value s8
    exact kept_ite (kept_egress k7) k7

theorem kept_execTimeSrcChange {a0 : Initiator} {a1 : BitVec 32} {s : State} (h : Kept q s) : KeptOut q (execTimeSrcChange a0 a1 s) := by
  unfold execTimeSrcChange
  exact kept_act (fun _ k2 => kept_writeTimeCfg k2) h

theorem kept_stampEntry {a0 : State} {a1 : PtpWait} (h1 : Kept q a0) : Kept q (State.stampEntry a0 a1) := by
  unfold State.stampEntry
  refine kept_ite ?_ ?_
  · exact kept_signal (Kept.upd h1)
  · extract_lets -lift -underBinder -merge -useContext +onlyGivenNames s1
    try clear_value s1
    extract_lets -lift -underBinder -merge -useContext +onlyGivenNames s2
    try clear_value s2
    extract_lets -lift -underBinder -merge -useContext +onlyGivenNames s3
    have k4 : Kept q s3 := by
      unfold s3
      refine kept_foldl ?_ ?_
      · exact h1
      · intro s7 x9 k8
        exact kept_setReg k8
    clear_value s3
    extract_lets -lift -underBinder -merge -useContext +onlyGivenNames s5
    have k6 : Kept q s5 := by unfold s5; exact kept_setReg k4
    clear_value s5
    exact Kept.upd k6

theorem kept_execPtpLaunch {a0 : ℕ} {s : State} (h : Kept q s) : KeptOut q (execPtpLaunch a0 s) := by
  unfold execPtpLaunch
  refine kept_act ?_ h
  intro s3 k4
  split
  · exact k4
  · extract_lets -lift -underBinder -merge -useContext +onlyGivenNames s7
    try clear_value s7
    extract_lets -lift -underBinder -merge -useContext +onlyGivenNames s8
    try clear_value s8
    extract_lets -lift -underBinder -merge -useContext +onlyGivenNames s9
    try clear_value s9
    extract_lets -lift -underBinder -merge -useContext +onlyGivenNames s10
    try clear_value s10
    refine kept_ite ?_ ?_
    · exact k4
    · extract_lets -lift -underBinder -merge -useContext +onlyGivenNames s11
      try clear_value s11
      extract_lets -lift -underBinder -merge -useContext +onlyGivenNames s12
      have k13 : Kept q s12 := by unfold s12; exact Kept.upd k4
      clear_value s12
      refine kept_ite ?_ ?_
      · exact kept_launchMiss k13
      · extract_lets -lift -underBinder -merge -useContext +onlyGivenNames s14
        try clear_value s14
        extract_lets -lift -underBinder -merge -useContext +onlyGivenNames s15
        try clear_value s15
        extract_lets -lift -underBinder -merge -useContext +onlyGivenNames s16
        have k17 : Kept q s16 := by unfold s16; exact kept_putFrame k13
        clear_value s16
        extract_lets -lift -underBinder -merge -useContext +onlyGivenNames s18
        have k19 : Kept q s18 := by unfold s18; exact kept_ite (kept_setVl k17) (kept_portOut k13)
        clear_value s18
        exact kept_ite (kept_stampEntry k19) k19

theorem kept_execSyncReset {a0 : Tile} {a1 : Tag} {a2 : Bytes} {s : State} (h : Kept q s) : KeptOut q (execSyncReset a0 a1 a2 s) := by
  unfold execSyncReset
  refine kept_act ?_ h
  intro s3 k4
  extract_lets -lift -underBinder -merge -useContext +onlyGivenNames s5
  try clear_value s5
  exact kept_arrive k4 (fun _  _ k8 => kept_takeSync k8)

theorem kept_execTimeRearm {a0 : Initiator} {a1 : BitVec 32} {s : State} (h : Kept q s) : KeptOut q (execTimeRearm a0 a1 s) := by
  unfold execTimeRearm
  exact kept_act (fun _ k2 => kept_writeTimeCtrl k2) h

theorem kept_execSourceLossTimeout {s : State} (h : Kept q s) : KeptOut q (execSourceLossTimeout s) := by
  unfold execSourceLossTimeout
  exact kept_act (fun _ k2 => kept_ite (kept_toHoldover (kept_signal k2)) k2) h

theorem kept_execPpsMissing {s : State} (h : Kept q s) : KeptOut q (execPpsMissing s) := by
  unfold execPpsMissing
  refine kept_act ?_ h
  intro s3 k4
  refine kept_ite ?_ ?_
  · extract_lets -lift -underBinder -merge -useContext +onlyGivenNames s5
    have k6 : Kept q s5 := by unfold s5; exact kept_signal k4
    clear_value s5
    exact kept_ite (kept_toHoldover (kept_signal k6)) k6
  · exact k4

theorem kept_idle {a0 : State} (h1 : Kept q a0) : Kept q (State.idle a0) := by
  unfold State.idle
  exact kept_ite (kept_tick (Kept.upd h1)) h1

theorem kept_execTimeStepWrite {a0 : Initiator} {a1 : BitVec 64} {s : State} (h : Kept q s) : KeptOut q (execTimeStepWrite a0 a1 s) := by
  unfold execTimeStepWrite
  exact kept_act (fun _ k2 => kept_writeTimeStep k2) h

theorem kept_execTickCounterWrap {s : State} (h : Kept q s) : KeptOut q (execTickCounterWrap s) := by
  unfold execTickCounterWrap
  exact kept_act (fun _ k2 => kept_ite (kept_tick k2) k2) h

theorem kept_execTimeRateWrite {a0 : Initiator} {a1 : BitVec 64} {s : State} (h : Kept q s) : KeptOut q (execTimeRateWrite a0 a1 s) := by
  unfold execTimeRateWrite
  exact kept_act (fun _ k2 => kept_writeTimeRate k2) h

end Sys2Proof.Machine
end

