-- ==== Sys2Proof/Laws/KeptVc.lean ====
section
/-! SUPPORT. The operations of Machine/Vc.lean keep the form of memory and the queue. -/

namespace Sys2Proof.Machine
open Sys2Proof

variable {q : List Instr × Bool}

theorem kept_vcFetch {a0 : State} {a1 : ℕ} (h1 : Kept q a0) : Kept q (State.vcFetch a0 a1).2 := by
  unfold State.vcFetch
  extract_lets -lift -underBinder -merge -useContext +onlyGivenNames s1
  try clear_value s1
  refine kept_ite_p2 ?_ ?_
  · exact h1
  · split
    · rename_i y2 y4 e5
      have k3 : Kept q y2 := kept_p1 e5 (by
          refine foldl_keeps (P := fun (p : State × _) => Kept q p.1) ?_ ?_
          · exact h1
          · intro s6 x8 k7
            beta_reduce
            exact kept_checkUnit k7
          )
      exact kept_ite_p2 (kept_poisonRead k3) k3

theorem kept_vcUndo {a0 : State} {a1 : ℕ} (h1 : Kept q a0) : Kept q (State.vcUndo a0 a1) := by
  unfold State.vcUndo
  extract_lets -lift -underBinder -merge -useContext +onlyGivenNames s1
  try clear_value s1
  extract_lets -lift -underBinder -merge -useContext +onlyGivenNames s2
  have k3 : Kept q s2 := by
    unfold s2
    split
    · exact h1
    · refine kept_foldl ?_ ?_
      · exact h1
      · intro s6 x8 k7
        exact kept_setByte k7
  clear_value s2
  exact kept_setVc k3

theorem kept_vcFault {a0 : State} {a1 : ℕ} {a2 : ℕ} (h1 : Kept q a0) : Kept q (State.vcFault a0 a1 a2) := by
  unfold State.vcFault
  extract_lets -lift -underBinder -merge -useContext +onlyGivenNames s1
  have k2 : Kept q s1 := by unfold s1; exact kept_vcUndo h1
  clear_value s1
  extract_lets -lift -underBinder -merge -useContext +onlyGivenNames s3
  try clear_value s3
  exact kept_vcCause (kept_setVc k2)

theorem kept_sIssue {a0 : State} {a1 : ℕ} {a2 : Bool} {a3 : List VReg} {a4 : State → State} (h1 : Kept q a0) (h5 : ∀ x0, Kept q x0 → Kept q (a4 x0)) : Kept q (State.sIssue a0 a1 a2 a3 a4) := by
  unfold State.sIssue
  refine kept_ite ?_ ?_
  · exact h1
  · split
    · rename_i y1 y2 e4
      have k3 : Kept q y2 := kept_p2 e4 (kept_vcFetch h1)
      exact kept_vcFault k3
    · rename_i y5 e7
      have k6 : Kept q y5 := kept_p2 e7 (kept_vcFetch h1)
      exact kept_ite (kept_vcFault k6) (kept_ite (kept_vcFault k6) (h5 _ (kept_setVc k6)))

theorem kept_vcFence {a0 : State} {a1 : ℕ} (h1 : Kept q a0) : Kept q (State.vcFence a0 a1) := by
  unfold State.vcFence
  exact kept_vcFault h1

theorem kept_vcStart {a0 : State} {a1 : ℕ} {a2 : VcSt} (h1 : Kept q a0) : Kept q (State.vcStart a0 a1 a2) := by
  unfold State.vcStart
  exact kept_setVc h1

theorem kept_vcRestart {a0 : State} {a1 : ℕ} (h1 : Kept q a0) : Kept q (State.vcRestart a0 a1) := by
  unfold State.vcRestart
  exact kept_vcStart h1

theorem kept_vcRun {a0 : State} {a1 : ℕ} (h1 : Kept q a0) : Kept q (State.vcRun a0 a1) := by
  unfold State.vcRun
  extract_lets -lift -underBinder -merge -useContext +onlyGivenNames s1
  try clear_value s1
  exact kept_ite (kept_vcStart h1) (kept_setVc h1)

theorem kept_vcStop {a0 : State} {a1 : ℕ} (h1 : Kept q a0) : Kept q (State.vcStop a0 a1) := by
  unfold State.vcStop
  extract_lets -lift -underBinder -merge -useContext +onlyGivenNames s1
  try clear_value s1
  refine kept_ite ?_ ?_
  · exact kept_setVc h1
  · extract_lets -lift -underBinder -merge -useContext +onlyGivenNames s2
    have k3 : Kept q s2 := by unfold s2; exact kept_vcUndo h1
    clear_value s2
    exact kept_setVc k3

theorem kept_writeVcCtrl {a0 : State} {a1 : ℕ} {a2 : BitVec 32} (h1 : Kept q a0) : Kept q (State.writeVcCtrl a0 a1 a2) := by
  unfold State.writeVcCtrl
  exact kept_ite (kept_vcRestart h1) (kept_ite (kept_vcRun h1) (kept_vcStop h1))

theorem kept_vcApply {a0 : State} {a1 : ℕ} {a2 : VRes} (h1 : Kept q a0) : Kept q (State.vcApply a0 a1 a2) := by
  unfold State.vcApply
  extract_lets -lift -underBinder -merge -useContext +onlyGivenNames s1
  try clear_value s1
  extract_lets -lift -underBinder -merge -useContext +onlyGivenNames s2
  try clear_value s2
  extract_lets -lift -underBinder -merge -useContext +onlyGivenNames s3
  have k4 : Kept q s3 := by unfold s3; exact kept_setVc h1
  clear_value s3
  exact kept_ite (kept_vcCause k4) k4

theorem kept_vIssue {a0 : State} {a1 : ℕ} {a2 : Bool} {a3 : Bool} {a4 : VcSt → VRes} (h1 : Kept q a0) : Kept q (State.vIssue a0 a1 a2 a3 a4) := by
  unfold State.vIssue
  refine kept_ite ?_ ?_
  · exact h1
  · split
    · rename_i y1 y2 e4
      have k3 : Kept q y2 := kept_p2 e4 (kept_vcFetch h1)
      exact kept_vcFault k3
    · rename_i y5 e7
      have k6 : Kept q y5 := kept_p2 e7 (kept_vcFetch h1)
      extract_lets -lift -underBinder -merge -useContext +onlyGivenNames s8
      try clear_value s8
      extract_lets -lift -underBinder -merge -useContext +onlyGivenNames s9
      try clear_value s9
      refine kept_ite ?_ ?_
      · exact kept_vcFault k6
      · refine kept_ite ?_ ?_
        · exact kept_vcFault k6
        · refine kept_ite ?_ ?_
          · exact kept_setVc k6
          · extract_lets -lift -underBinder -merge -useContext +onlyGivenNames s10
            have k11 : Kept q s10 := by unfold s10; exact kept_vcApply (kept_setVc k6)
            clear_value s10
            exact kept_setVc k11

theorem kept_execVAdd {a0 : Vc} {a1 : Bool} {a2 : VField} {a3 : VField} {a4 : VField} {a5 : VfField} {s : State} (h : Kept q s) : KeptOut q (execVAdd a0 a1 a2 a3 a4 a5 s) := by
  unfold execVAdd
  exact kept_act (fun _ k2 => kept_vIssue k2) h

theorem kept_vcLose {a0 : State} (h1 : Kept q a0) : Kept q (State.vcLose a0) := by
  unfold State.vcLose
  refine kept_foldl ?_ ?_
  · exact h1
  · intro s1 x3 k2
    extract_lets -lift -underBinder -merge -useContext +onlyGivenNames s4
    try clear_value s4
    extract_lets -lift -underBinder -merge -useContext +onlyGivenNames s5
    try clear_value s5
    extract_lets -lift -underBinder -merge -useContext +onlyGivenNames s6
    try clear_value s6
    exact kept_setVc k2

theorem kept_vcJump {a0 : State} {a1 : ℕ} {a2 : ℤ} (h1 : Kept q a0) : Kept q (State.vcJump a0 a1 a2) := by
  unfold State.vcJump
  refine kept_ite ?_ ?_
  · exact kept_vcFault h1
  · refine kept_ite ?_ ?_
    · exact kept_vcFault h1
    · extract_lets -lift -underBinder -merge -useContext +onlyGivenNames s1
      try clear_value s1
      extract_lets -lift -underBinder -merge -useContext +onlyGivenNames s2
      have k3 : Kept q s2 := by
        unfold s2
        split
        · exact kept_vcApply h1
        · exact h1
      clear_value s2
      extract_lets -lift -underBinder -merge -useContext +onlyGivenNames s4
      try clear_value s4
      exact kept_setVc k3

theorem kept_execSBl {a0 : Vc} {a1 : BitVec 5} {a2 : BitVec 20} {s : State} (h : Kept q s) : KeptOut q (execSBl a0 a1 a2 s) := by
  unfold execSBl
  refine kept_act ?_ h
  intro s5 k6
  refine kept_sIssue k6 ?_
  · intro s11 k12
    extract_lets -lift -underBinder -merge -useContext +onlyGivenNames s13
    try clear_value s13
    extract_lets -lift -underBinder -merge -useContext +onlyGivenNames s14
    try clear_value s14
    exact kept_ite (kept_vcJump k12) (kept_vcJump (kept_setVc k12))

theorem kept_execSleepEnd {a0 : Vc} {s : State} (h : Kept q s) : KeptOut q (execSleepEnd a0 s) := by
  unfold execSleepEnd
  refine kept_act ?_ h
  intro s3 k4
  extract_lets -lift -underBinder -merge -useContext +onlyGivenNames s5
  try clear_value s5
  exact kept_ite (kept_setVc k4) k4

theorem kept_vcDone {a0 : State} {a1 : ℕ} (h1 : Kept q a0) : Kept q (State.vcDone a0 a1) := by
  unfold State.vcDone
  extract_lets -lift -underBinder -merge -useContext +onlyGivenNames s1
  try clear_value s1
  extract_lets -lift -underBinder -merge -useContext +onlyGivenNames s2
  try clear_value s2
  extract_lets -lift -underBinder -merge -useContext +onlyGivenNames s3
  have k4 : Kept q s3 := by
    unfold s3
    split
    · exact kept_vcApply h1
    · exact h1
  clear_value s3
  exact kept_setVc k4

theorem kept_sReg {a0 : State} {a1 : ℕ} {a2 : Bool} {a3 : List VReg} {a4 : VcSt → VcSt} (h1 : Kept q a0) : Kept q (State.sReg a0 a1 a2 a3 a4) := by
  unfold State.sReg
  exact kept_sIssue h1 (fun _ k2 => kept_vcDone (kept_setVc k2))

theorem kept_sAlu {a0 : State} {a1 : ℕ} {a2 : SField} {a3 : SField} {a4 : SField} {a5 : BitVec 64 → BitVec 64 → BitVec 64 × BitVec 4} (h1 : Kept q a0) : Kept q (State.sAlu a0 a1 a2 a3 a4 a5) := by
  unfold State.sAlu
  exact kept_sReg h1

theorem kept_execSAddi {a0 : Vc} {a1 : SField} {a2 : SField} {a3 : BitVec 17} {s : State} (h : Kept q s) : KeptOut q (execSAddi a0 a1 a2 a3 s) := by
  unfold execSAddi
  exact kept_act (fun _ k2 => kept_sAlu k2) h

theorem kept_execSSltu {a0 : Vc} {a1 : SField} {a2 : SField} {a3 : SField} {s : State} (h : Kept q s) : KeptOut q (execSSltu a0 a1 a2 a3 s) := by
  unfold execSSltu
  exact kept_act (fun _ k2 => kept_sAlu k2) h

theorem kept_execVcStop {a0 : Initiator} {a1 : Vc} {s : State} (h : Kept q s) : KeptOut q (execVcStop a0 a1 s) := by
  unfold execVcStop
  exact kept_unitAct (fun _ k2 => kept_done (kept_writeVcCtrl k2)) h

theorem kept_execSSrl {a0 : Vc} {a1 : SField} {a2 : SField} {a3 : SField} {s : State} (h : Kept q s) : KeptOut q (execSSrl a0 a1 a2 a3 s) := by
  unfold execSSrl
  exact kept_act (fun _ k2 => kept_sAlu k2) h

theorem kept_execVNop {a0 : Vc} {a1 : Bool} {a2 : VField} {a3 : VField} {a4 : VField} {a5 : VfField} {s : State} (h : Kept q s) : KeptOut q (execVNop a0 a1 a2 a3 a4 a5 s) := by
  unfold execVNop
  exact kept_act (fun _ k2 => kept_vIssue k2) h

theorem kept_execVcRun {a0 : Initiator} {a1 : Vc} {s : State} (h : Kept q s) : KeptOut q (execVcRun a0 a1 s) := by
  unfold execVcRun
  exact kept_unitAct (fun _ k2 => kept_done (kept_writeVcCtrl k2)) h

theorem kept_execSSlt {a0 : Vc} {a1 : SField} {a2 : SField} {a3 : SField} {s : State} (h : Kept q s) : KeptOut q (execSSlt a0 a1 a2 a3 s) := by
  unfold execSSlt
  exact kept_act (fun _ k2 => kept_sAlu k2) h

theorem kept_execSSll {a0 : Vc} {a1 : SField} {a2 : SField} {a3 : SField} {s : State} (h : Kept q s) : KeptOut q (execSSll a0 a1 a2 a3 s) := by
  unfold execSSll
  exact kept_act (fun _ k2 => kept_sAlu k2) h

theorem kept_execSMin {a0 : Vc} {a1 : SField} {a2 : SField} {a3 : SField} {s : State} (h : Kept q s) : KeptOut q (execSMin a0 a1 a2 a3 s) := by
  unfold execSMin
  exact kept_act (fun _ k2 => kept_sAlu k2) h

theorem kept_execSJr {a0 : Vc} {a1 : SField} {a2 : SField} {a3 : SField} {a4 : BitVec 13} {s : State} (h : Kept q s) : KeptOut q (execSJr a0 a1 a2 a3 a4 s) := by
  unfold execSJr
  exact kept_act (fun _ k2 => kept_sIssue k2 (fun _ k4 => kept_vcJump k4)) h

theorem kept_execSMfsr {a0 : Vc} {a1 : SField} {a2 : SField} {a3 : BitVec 17} {s : State} (h : Kept q s) : KeptOut q (execSMfsr a0 a1 a2 a3 s) := by
  unfold execSMfsr
  refine kept_act ?_ h
  intro s3 k4
  extract_lets -lift -underBinder -merge -useContext +onlyGivenNames s5
  try clear_value s5
  exact kept_sReg k4

theorem kept_execVSplat {a0 : Vc} {a1 : Bool} {a2 : VField} {a3 : VField} {a4 : VField} {a5 : VfField} {s : State} (h : Kept q s) : KeptOut q (execVSplat a0 a1 a2 a3 a4 a5 s) := by
  unfold execVSplat
  exact kept_act (fun _ k2 => kept_vIssue k2) h

theorem kept_execVAovf {a0 : Vc} {a1 : Bool} {a2 : VField} {a3 : VField} {a4 : VField} {a5 : VfField} {s : State} (h : Kept q s) : KeptOut q (execVAovf a0 a1 a2 a3 a4 a5 s) := by
  unfold execVAovf
  exact kept_act (fun _ k2 => kept_vIssue k2) h

theorem kept_execSAaddi {a0 : Vc} {a1 : SField} {a2 : SField} {a3 : BitVec 17} {s : State} (h : Kept q s) : KeptOut q (execSAaddi a0 a1 a2 a3 s) := by
  unfold execSAaddi
  exact kept_act (fun _ k2 => kept_sReg k2) h

theorem kept_execSSub {a0 : Vc} {a1 : SField} {a2 : SField} {a3 : SField} {s : State} (h : Kept q s) : KeptOut q (execSSub a0 a1 a2 a3 s) := by
  unfold execSSub
  exact kept_act (fun _ k2 => kept_sAlu k2) h

theorem kept_execSMax {a0 : Vc} {a1 : SField} {a2 : SField} {a3 : SField} {s : State} (h : Kept q s) : KeptOut q (execSMax a0 a1 a2 a3 s) := by
  unfold execSMax
  exact kept_act (fun _ k2 => kept_sAlu k2) h

theorem kept_execVCmac {a0 : Vc} {a1 : Bool} {a2 : VField} {a3 : VField} {a4 : VField} {a5 : VfField} {s : State} (h : Kept q s) : KeptOut q (execVCmac a0 a1 a2 a3 a4 a5 s) := by
  unfold execVCmac
  exact kept_act (fun _ k2 => kept_vIssue k2) h

theorem kept_execSLoop {a0 : Vc} {a1 : Bool} {a2 : SField} {a3 : SField} {a4 : BitVec 17} {s : State} (h : Kept q s) : KeptOut q (execSLoop a0 a1 a2 a3 a4 s) := by
  unfold execSLoop
  refine kept_act ?_ h
  intro s5 k6
  refine kept_sIssue k6 ?_
  · intro s11 k12
    extract_lets -lift -underBinder -merge -useContext +onlyGivenNames s13
    try clear_value s13
    extract_lets -lift -underBinder -merge -useContext +onlyGivenNames s14
    try clear_value s14
    extract_lets -lift -underBinder -merge -useContext +onlyGivenNames s15
    try clear_value s15
    extract_lets -lift -underBinder -merge -useContext +onlyGivenNames s16
    try clear_value s16
    refine kept_ite ?_ ?_
    · exact kept_vcFault k12
    · refine kept_ite ?_ ?_
      · extract_lets -lift -underBinder -merge -useContext +onlyGivenNames s17
        have k18 : Kept q s17 := by unfold s17; exact kept_vcDone k12
        clear_value s17
        exact kept_setVc k18
      · extract_lets -lift -underBinder -merge -useContext +onlyGivenNames s19
        have k20 : Kept q s19 := by unfold s19; exact kept_vcDone k12
        clear_value s19
        extract_lets -lift -underBinder -merge -useContext +onlyGivenNames s21
        try clear_value s21
        exact kept_setVc k20

theorem kept_execVConj {a0 : Vc} {a1 : Bool} {a2 : VField} {a3 : VField} {a4 : VField} {a5 : VfField} {s : State} (h : Kept q s) : KeptOut q (execVConj a0 a1 a2 a3 a4 a5 s) := by
  unfold execVConj
  exact kept_act (fun _ k2 => kept_vIssue k2) h

theorem kept_execVRnd {a0 : Vc} {a1 : Bool} {a2 : VField} {a3 : VField} {a4 : VField} {a5 : VfField} {s : State} (h : Kept q s) : KeptOut q (execVRnd a0 a1 a2 a3 a4 a5 s) := by
  unfold execVRnd
  refine kept_act ?_ h
  intro s3 k4
  extract_lets -lift -underBinder -merge -useContext +onlyGivenNames s5
  try clear_value s5
  extract_lets -lift -underBinder -merge -useContext +onlyGivenNames s6
  try clear_value s6
  exact kept_vIssue k4

theorem kept_execVRsq {a0 : Vc} {a1 : Bool} {a2 : VField} {a3 : VField} {a4 : VField} {a5 : VfField} {s : State} (h : Kept q s) : KeptOut q (execVRsq a0 a1 a2 a3 a4 a5 s) := by
  unfold execVRsq
  exact kept_act (fun _ k2 => kept_vIssue k2) h

theorem kept_execVcRestart {a0 : Initiator} {a1 : Vc} {s : State} (h : Kept q s) : KeptOut q (execVcRestart a0 a1 s) := by
  unfold execVcRestart
  exact kept_unitAct (fun _ k2 => kept_done (kept_writeVcCtrl k2)) h

theorem kept_vcHalt {a0 : State} {a1 : ℕ} (h1 : Kept q a0) : Kept q (State.vcHalt a0 a1) := by
  unfold State.vcHalt
  exact kept_setVc h1

theorem kept_execSXor {a0 : Vc} {a1 : SField} {a2 : SField} {a3 : SField} {s : State} (h : Kept q s) : KeptOut q (execSXor a0 a1 a2 a3 s) := by
  unfold execSXor
  exact kept_act (fun _ k2 => kept_sAlu k2) h

theorem kept_execSSra {a0 : Vc} {a1 : SField} {a2 : SField} {a3 : SField} {s : State} (h : Kept q s) : KeptOut q (execSSra a0 a1 a2 a3 s) := by
  unfold execSSra
  exact kept_act (fun _ k2 => kept_sAlu k2) h

theorem kept_execSOr {a0 : Vc} {a1 : SField} {a2 : SField} {a3 : SField} {s : State} (h : Kept q s) : KeptOut q (execSOr a0 a1 a2 a3 s) := by
  unfold execSOr
  exact kept_act (fun _ k2 => kept_sAlu k2) h

theorem kept_execVMovs {a0 : Vc} {a1 : Bool} {a2 : VField} {a3 : VField} {a4 : VField} {a5 : VfField} {s : State} (h : Kept q s) : KeptOut q (execVMovs a0 a1 a2 a3 a4 a5 s) := by
  unfold execVMovs
  exact kept_act (fun _ k2 => kept_vIssue k2) h

theorem kept_execSMov {a0 : Vc} {a1 : SField} {a2 : SField} {a3 : SField} {a4 : BitVec 13} {s : State} (h : Kept q s) : KeptOut q (execSMov a0 a1 a2 a3 a4 s) := by
  unfold execSMov
  refine kept_act ?_ h
  intro s3 k4
  extract_lets -lift -underBinder -merge -useContext +onlyGivenNames s5
  try clear_value s5
  extract_lets -lift -underBinder -merge -useContext +onlyGivenNames s6
  try clear_value s6
  exact kept_sReg k4

theorem kept_execSB {a0 : Vc} {a1 : BitVec 5} {a2 : BitVec 20} {s : State} (h : Kept q s) : KeptOut q (execSB a0 a1 a2 s) := by
  unfold execSB
  exact kept_act (fun _ k2 => kept_sIssue k2 (fun _ k4 => kept_ite (kept_vcJump k4) (kept_vcDone k4))) h

theorem kept_execVHadd {a0 : Vc} {a1 : Bool} {a2 : VField} {a3 : VField} {a4 : VField} {a5 : VfField} {s : State} (h : Kept q s) : KeptOut q (execVHadd a0 a1 a2 a3 a4 a5 s) := by
  unfold execVHadd
  exact kept_act (fun _ k2 => kept_vIssue k2) h

theorem kept_execSAdd {a0 : Vc} {a1 : SField} {a2 : SField} {a3 : SField} {s : State} (h : Kept q s) : KeptOut q (execSAdd a0 a1 a2 a3 s) := by
  unfold execSAdd
  exact kept_act (fun _ k2 => kept_sAlu k2) h

theorem kept_execSSleep {a0 : Vc} {a1 : SField} {a2 : SField} {a3 : SField} {a4 : BitVec 13} {s : State} (h : Kept q s) : KeptOut q (execSSleep a0 a1 a2 a3 a4 s) := by
  unfold execSSleep
  refine kept_act ?_ h
  intro s5 k6
  refine kept_sIssue k6 ?_
  · intro s11 k12
    extract_lets -lift -underBinder -merge -useContext +onlyGivenNames s13
    try clear_value s13
    extract_lets -lift -underBinder -merge -useContext +onlyGivenNames s14
    try clear_value s14
    extract_lets -lift -underBinder -merge -useContext +onlyGivenNames s15
    have k16 : Kept q s15 := by unfold s15; exact kept_vcDone k12
    clear_value s15
    exact kept_ite k16 (kept_setVc k16)

theorem kept_execSHalt {a0 : Vc} {a1 : SField} {a2 : SField} {a3 : SField} {a4 : BitVec 13} {s : State} (h : Kept q s) : KeptOut q (execSHalt a0 a1 a2 a3 a4 s) := by
  unfold execSHalt
  refine kept_act ?_ h
  intro s5 k6
  refine kept_sIssue k6 ?_
  · intro s11 k12
    extract_lets -lift -underBinder -merge -useContext +onlyGivenNames s13
    try clear_value s13
    exact kept_vcHalt (kept_vcDone k12)

theorem kept_execSAnd {a0 : Vc} {a1 : SField} {a2 : SField} {a3 : SField} {s : State} (h : Kept q s) : KeptOut q (execSAnd a0 a1 a2 a3 s) := by
  unfold execSAnd
  exact kept_act (fun _ k2 => kept_sAlu k2) h

theorem kept_execSSev {a0 : Vc} {a1 : SField} {a2 : SField} {a3 : SField} {a4 : BitVec 13} {s : State} (h : Kept q s) : KeptOut q (execSSev a0 a1 a2 a3 a4 s) := by
  unfold execSSev
  refine kept_act ?_ h
  intro s5 k6
  refine kept_sIssue k6 ?_
  · intro s11 k12
    extract_lets -lift -underBinder -merge -useContext +onlyGivenNames s13
    try clear_value s13
    exact kept_vcDone (kept_ite (kept_setVc k12) (kept_vcCause k12))

theorem kept_execSNop {a0 : Vc} {a1 : SField} {a2 : SField} {a3 : SField} {a4 : BitVec 13} {s : State} (h : Kept q s) : KeptOut q (execSNop a0 a1 a2 a3 a4 s) := by
  unfold execSNop
  exact kept_act (fun _ k2 => kept_sReg k2) h

theorem kept_execSFence {a0 : Vc} {a1 : SField} {a2 : SField} {a3 : SField} {a4 : BitVec 13} {s : State} (h : Kept q s) : KeptOut q (execSFence a0 a1 a2 a3 a4 s) := by
  unfold execSFence
  refine kept_act ?_ h
  intro s5 k6
  refine kept_sIssue k6 ?_
  · intro s11 k12
    extract_lets -lift -underBinder -merge -useContext +onlyGivenNames s13
    try clear_value s13
    exact kept_ite (kept_vcDone k12) (kept_setVc k12)

theorem kept_execVAclr {a0 : Vc} {a1 : Bool} {a2 : VField} {a3 : VField} {a4 : VField} {a5 : VfField} {s : State} (h : Kept q s) : KeptOut q (execVAclr a0 a1 a2 a3 a4 a5 s) := by
  unfold execVAclr
  exact kept_act (fun _ k2 => kept_vIssue k2) h

theorem kept_execVExp {a0 : Vc} {a1 : Bool} {a2 : VField} {a3 : VField} {a4 : VField} {a5 : VfField} {s : State} (h : Kept q s) : KeptOut q (execVExp a0 a1 a2 a3 a4 a5 s) := by
  unfold execVExp
  exact kept_act (fun _ k2 => kept_vIssue k2) h

theorem kept_execVNorm {a0 : Vc} {a1 : Bool} {a2 : VField} {a3 : VField} {a4 : VField} {a5 : VfField} {s : State} (h : Kept q s) : KeptOut q (execVNorm a0 a1 a2 a3 a4 a5 s) := by
  unfold execVNorm
  exact kept_act (fun _ k2 => kept_vIssue k2) h

theorem kept_execSMul {a0 : Vc} {a1 : SField} {a2 : SField} {a3 : SField} {s : State} (h : Kept q s) : KeptOut q (execSMul a0 a1 a2 a3 s) := by
  unfold execSMul
  exact kept_act (fun _ k2 => kept_sAlu k2) h

theorem kept_execSLih {a0 : Vc} {a1 : SField} {a2 : SField} {a3 : BitVec 17} {s : State} (h : Kept q s) : KeptOut q (execSLih a0 a1 a2 a3 s) := by
  unfold execSLih
  exact kept_act (fun _ k2 => kept_sReg k2) h

theorem kept_execSLi {a0 : Vc} {a1 : SField} {a2 : SField} {a3 : BitVec 17} {s : State} (h : Kept q s) : KeptOut q (execSLi a0 a1 a2 a3 s) := by
  unfold execSLi
  exact kept_act (fun _ k2 => kept_sReg k2) h

theorem kept_execVIns {a0 : Vc} {a1 : Bool} {a2 : VField} {a3 : VField} {a4 : VField} {a5 : VfField} {s : State} (h : Kept q s) : KeptOut q (execVIns a0 a1 a2 a3 a4 a5 s) := by
  unfold execVIns
  exact kept_act (fun _ k2 => kept_vIssue k2) h

end Sys2Proof.Machine
end

