-- ==== Sys2Proof/Laws/KeptPower.lean ====
section
/-! SUPPORT. The operations of Machine/Power.lean keep the form of memory and the queue. -/

namespace Sys2Proof.Machine
open Sys2Proof

variable {q : List Instr × Bool}

theorem kept_wakeLanes {a0 : State} {a1 : List ℕ} (h1 : Kept q a0) : Kept q (State.wakeLanes a0 a1) := by
  unfold State.wakeLanes
  refine kept_foldl ?_ ?_
  · exact h1
  · intro s1 x3 k2
    exact kept_ite k2 (kept_wakeLane k2)

theorem kept_relockPlls {a0 : State} (h1 : Kept q a0) : Kept q (State.relockPlls a0) := by
  unfold State.relockPlls
  exact Kept.upd h1

theorem kept_restoreLanes {a0 : State} (h1 : Kept q a0) : Kept q (State.restoreLanes a0) := by
  unfold State.restoreLanes
  exact kept_wakeLanes (kept_relockPlls h1)

theorem kept_rollBack {a0 : State} {a1 : PMach} {a2 : ℕ} (h1 : Kept q a0) : Kept q (State.rollBack a0 a1 a2) := by
  unfold State.rollBack
  extract_lets -lift -underBinder -merge -useContext +onlyGivenNames s1
  try clear_value s1
  extract_lets -lift -underBinder -merge -useContext +onlyGivenNames s2
  have k3 : Kept q s2 := by unfold s2; exact kept_ite (kept_ite (kept_restoreLanes h1) (kept_relockPlls h1)) h1
  clear_value s2
  extract_lets -lift -underBinder -merge -useContext +onlyGivenNames s4
  have k5 : Kept q s4 := by unfold s4; exact kept_ite (kept_dmaWake k3) k3
  clear_value s4
  exact kept_setPm k5

theorem kept_entryOn {a0 : State} {a1 : PMach} {a2 : PState} {a3 : ℕ} (h1 : Kept q a0) : Kept q (State.entryOn a0 a1 a2 a3) := by
  unfold State.entryOn
  extract_lets -lift -underBinder -merge -useContext +onlyGivenNames s1
  try clear_value s1
  refine kept_ite ?_ ?_
  · exact kept_rollBack h1
  · extract_lets -lift -underBinder -merge -useContext +onlyGivenNames s2
    try clear_value s2
    exact kept_setPm h1

theorem kept_writePwrReq {a0 : State} {a1 : Initiator} {a2 : BitVec 32} (h1 : Kept q a0) : Kept q (State.writePwrReq a0 a1 a2) := by
  unfold State.writePwrReq
  extract_lets -lift -underBinder -merge -useContext +onlyGivenNames s1
  try clear_value s1
  extract_lets -lift -underBinder -merge -useContext +onlyGivenNames s2
  try clear_value s2
  extract_lets -lift -underBinder -merge -useContext +onlyGivenNames s3
  try clear_value s3
  split
  · exact kept_error h1
  · exact kept_ite (kept_error h1) (kept_ite (kept_error (kept_bump h1)) (kept_done (kept_request (kept_ite (kept_armWake h1) h1))))

theorem kept_refusePwr {a0 : State} {a1 : BitVec 4} {a2 : BitVec 19} (h1 : Kept q a0) : Kept q (State.refusePwr a0 a1 a2) := by
  unfold State.refusePwr
  exact kept_refuseSeq (kept_bump h1)

theorem kept_arrivePwr {a0 : State} {a1 : ℕ} {a2 : Tag} {a3 : Bytes} (h1 : Kept q a0) : Kept q (State.arrivePwr a0 a1 a2 a3) := by
  unfold State.arrivePwr
  extract_lets -lift -underBinder -merge -useContext +onlyGivenNames s1
  try clear_value s1
  refine kept_arrive h1 ?_
  · intro s8 s9 k10
    refine kept_ite ?_ ?_
    · exact kept_refusePwr k10
    · refine kept_ite ?_ ?_
      · extract_lets -lift -underBinder -merge -useContext +onlyGivenNames s11
        have k12 : Kept q s11 := by unfold s11; exact kept_ite k10 (kept_bump k10)
        clear_value s11
        extract_lets -lift -underBinder -merge -useContext +onlyGivenNames s13
        have k14 : Kept q s13 := by unfold s13; exact kept_ite (kept_armWake k12) k12
        clear_value s13
        exact kept_ite (kept_request k14) k14
      · exact kept_queueCtl k10

theorem kept_execPwrCtlReed {a0 : Tag} {a1 : Bytes} {s : State} (h : Kept q s) : KeptOut q (execPwrCtlReed a0 a1 s) := by
  unfold execPwrCtlReed
  exact kept_act (fun _ k2 => kept_arrivePwr k2) h

theorem kept_applyPwrCtl {a0 : State} {a1 : QItem} (h1 : Kept q a0) : Kept q (State.applyPwrCtl a0 a1) := by
  unfold State.applyPwrCtl
  extract_lets -lift -underBinder -merge -useContext +onlyGivenNames s1
  try clear_value s1
  extract_lets -lift -underBinder -merge -useContext +onlyGivenNames s2
  try clear_value s2
  extract_lets -lift -underBinder -merge -useContext +onlyGivenNames s3
  try clear_value s3
  extract_lets -lift -underBinder -merge -useContext +onlyGivenNames s4
  try clear_value s4
  exact kept_ite (kept_refusePwr h1) (kept_request (kept_ite (kept_armWake h1) h1))

theorem kept_execWakeTick {s : State} (h : Kept q s) : KeptOut q (execWakeTick s) := by
  unfold execWakeTick
  refine kept_act ?_ h
  intro s3 k4
  extract_lets -lift -underBinder -merge -useContext +onlyGivenNames s5
  try clear_value s5
  exact kept_ite (kept_wake (Kept.upd k4)) k4

theorem kept_restoreRecords {a0 : State} (h1 : Kept q a0) : Kept q (State.restoreRecords a0) := by
  unfold State.restoreRecords
  extract_lets -lift -underBinder -merge -useContext +onlyGivenNames s1
  have k2 : Kept q s1 := by
    unfold s1
    refine kept_foldl ?_ ?_
    · exact h1
    · intro s12 x14 k13
      split
      · rename_i y15 y16 e18
        have k17 : Kept q y16 := kept_p2 e18 (kept_readMaster k13)
        exact kept_setRec k17
      · rename_i y19 e21
        have k20 : Kept q y19 := kept_p2 e21 (kept_readMaster k13)
        exact kept_setRec k20
  clear_value s1
  extract_lets -lift -underBinder -merge -useContext +onlyGivenNames s3
  have k4 : Kept q s3 := by
    unfold s3
    refine kept_foldl ?_ ?_
    · exact k2
    · intro s8 x10 k9
      extract_lets -lift -underBinder -merge -useContext +onlyGivenNames s11
      try clear_value s11
      exact kept_setRec k9
  clear_value s3
  refine kept_foldl ?_ ?_
  · exact k4
  · intro s5 x7 k6
    exact kept_setSel k6

theorem kept_restartUnits {a0 : State} (h1 : Kept q a0) : Kept q (State.restartUnits a0) := by
  unfold State.restartUnits
  extract_lets -lift -underBinder -merge -useContext +onlyGivenNames s1
  have k2 : Kept q s1 := by
    unfold s1
    refine kept_foldl ?_ ?_
    · exact h1
    · intro s7 x9 k8
      extract_lets -lift -underBinder -merge -useContext +onlyGivenNames s10
      try clear_value s10
      exact kept_ite (kept_seqStart k8) k8
  clear_value s1
  refine kept_foldl ?_ ?_
  · exact k2
  · intro s3 x5 k4
    extract_lets -lift -underBinder -merge -useContext +onlyGivenNames s6
    try clear_value s6
    exact kept_ite (kept_vcStart k4) k4

theorem kept_deviceExited {a0 : State} {a1 : PState} (h1 : Kept q a0) : Kept q (State.deviceExited a0 a1) := by
  unfold State.deviceExited
  split
  · exact h1
  · exact h1
  · exact kept_selfReset h1
  · extract_lets -lift -underBinder -merge -useContext +onlyGivenNames s5
    have k6 : Kept q s5 := by unfold s5; exact kept_ite (kept_restoreRecords (kept_restoreBeams h1)) h1
    clear_value s5
    extract_lets -lift -underBinder -merge -useContext +onlyGivenNames s7
    try clear_value s7
    extract_lets -lift -underBinder -merge -useContext +onlyGivenNames s8
    have k9 : Kept q s8 := by unfold s8; exact kept_ite k6 (kept_restartUnits (Kept.upd k6))
    clear_value s8
    extract_lets -lift -underBinder -merge -useContext +onlyGivenNames s10
    have k11 : Kept q s10 := by unfold s10; exact kept_dmaWake (kept_restoreLanes k9)
    clear_value s10
    extract_lets -lift -underBinder -merge -useContext +onlyGivenNames s12
    have k13 : Kept q s12 := by unfold s12; exact kept_ite (kept_restartLeases (kept_timeAfterBog k11)) k11
    clear_value s12
    split
    · exact Kept.upd k13
    · exact kept_setMode k13
    · exact k13

theorem kept_pendGo {a0 : State} {a1 : PMach} (h1 : Kept q a0) : Kept q (State.pendGo a0 a1) := by
  unfold State.pendGo
  extract_lets -lift -underBinder -merge -useContext +onlyGivenNames s1
  try clear_value s1
  split
  · exact h1
  · extract_lets -lift -underBinder -merge -useContext +onlyGivenNames s5
    have k6 : Kept q s5 := by unfold s5; exact kept_setPm h1
    clear_value s5
    exact kept_ite (kept_requestOne k6) (kept_signal (kept_bump k6))

theorem kept_exited {a0 : State} {a1 : PMach} (h1 : Kept q a0) : Kept q (State.exited a0 a1) := by
  unfold State.exited
  extract_lets -lift -underBinder -merge -useContext +onlyGivenNames s1
  try clear_value s1
  extract_lets -lift -underBinder -merge -useContext +onlyGivenNames s2
  have k3 : Kept q s2 := by unfold s2; exact kept_setPm h1
  clear_value s2
  extract_lets -lift -underBinder -merge -useContext +onlyGivenNames s4
  have k5 : Kept q s4 := by
    unfold s4
    split
    · exact kept_deviceExited k3
    · exact kept_ite k3 (kept_wakeLanes k3)
  clear_value s4
  extract_lets -lift -underBinder -merge -useContext +onlyGivenNames s6
  have k7 : Kept q s6 := by unfold s6; exact kept_ite k5 (kept_signal k5)
  clear_value s6
  exact kept_pendGo k7

theorem kept_retuneLocked {a0 : State} (h1 : Kept q a0) : Kept q (State.retuneLocked a0) := by
  unfold State.retuneLocked
  refine kept_foldl ?_ ?_
  · exact h1
  · intro s1 x3 k2
    exact kept_ite (kept_startTune k2) k2

theorem kept_execExitStepReady {a0 : PMach} {s : State} (h : Kept q s) : KeptOut q (execExitStepReady a0 s) := by
  unfold execExitStepReady
  refine kept_act ?_ h
  intro s3 k4
  extract_lets -lift -underBinder -merge -useContext +onlyGivenNames s5
  try clear_value s5
  split
  · exact kept_exited k4
  · refine kept_ite ?_ ?_
    · exact k4
    · refine kept_ite ?_ ?_
      · extract_lets -lift -underBinder -merge -useContext +onlyGivenNames s9
        have k10 : Kept q s9 := by unfold s9; exact kept_setPm k4
        clear_value s9
        exact kept_ite (kept_retuneLocked k10) k10
      · exact kept_exited k4
  · exact k4

theorem kept_execPwrCtlSedge {a0 : Tag} {a1 : Bytes} {s : State} (h : Kept q s) : KeptOut q (execPwrCtlSedge a0 a1 s) := by
  unfold execPwrCtlSedge
  exact kept_act (fun _ k2 => kept_arrivePwr k2) h

theorem kept_stopSeqs {a0 : State} (h1 : Kept q a0) : Kept q (State.stopSeqs a0) := by
  unfold State.stopSeqs
  extract_lets -lift -underBinder -merge -useContext +onlyGivenNames s1
  have k2 : Kept q s1 := by
    unfold s1
    refine kept_foldl ?_ ?_
    · exact h1
    · intro s3 x5 k4
      extract_lets -lift -underBinder -merge -useContext +onlyGivenNames s6
      try clear_value s6
      exact kept_setSeq k4
  clear_value s1
  exact Kept.upd k2

theorem kept_synOff {a0 : State} {a1 : ℕ} (h1 : Kept q a0) : Kept q (State.synOff a0 a1) := by
  unfold State.synOff
  exact kept_setSyn h1

theorem kept_entryDo {a0 : State} {a1 : PState} {a2 : ℕ} (h1 : Kept q a0) : Kept q (State.entryDo a0 a1 a2) := by
  unfold State.entryDo
  extract_lets -lift -underBinder -merge -useContext +onlyGivenNames s1
  split
  · exact kept_dmaSleep h1
  · extract_lets -lift -underBinder -merge -useContext +onlyGivenNames s4
    have k5 : Kept q s4 := by
      unfold s4
      refine kept_foldl ?_ ?_
      · exact h1
      · intro s6 x8 k7
        exact kept_ite (kept_idleLane k7) k7
    clear_value s4
    exact kept_ite (Kept.upd k5) k5
  · extract_lets -lift -underBinder -merge -useContext +onlyGivenNames s10
    have k11 : Kept q s10 := by unfold s10; exact kept_stopSeqs h1
    clear_value s10
    exact Kept.upd k11
  · extract_lets -lift -underBinder -merge -useContext +onlyGivenNames s13
    try clear_value s13
    extract_lets -lift -underBinder -merge -useContext +onlyGivenNames s14
    try clear_value s14
    extract_lets -lift -underBinder -merge -useContext +onlyGivenNames s15
    have k16 : Kept q s15 := by unfold s15; exact Kept.upd h1
    clear_value s15
    refine kept_foldl ?_ ?_
    · exact k16
    · intro s17 x19 k18
      exact kept_synOff k18
  · extract_lets -lift -underBinder -merge -useContext +onlyGivenNames s21
    have k22 : Kept q s21 := by unfold s21; exact Kept.drop h1
    clear_value s21
    exact kept_ite (kept_vcLose k22) k22
  · refine kept_ite ?_ ?_
    · extract_lets -lift -underBinder -merge -useContext +onlyGivenNames s24
      have k25 : Kept q s24 := by unfold s24; exact kept_dmaClear h1
      clear_value s24
      exact Kept.drop k25
    · exact h1
  · exact Kept.upd h1
  · exact h1

theorem kept_transEnd {a0 : State} {a1 : PMach} {a2 : Option ℕ} (h1 : Kept q a0) : Kept q (State.transEnd a0 a1 a2) := by
  unfold State.transEnd
  split
  · exact kept_ite (kept_beginExit h1) (kept_pendGo h1)
  · exact kept_pendGo h1

theorem kept_execEntryRollback {a0 : PMach} {s : State} (h : Kept q s) : KeptOut q (execEntryRollback a0 s) := by
  unfold execEntryRollback
  refine kept_act ?_ h
  intro s3 k4
  extract_lets -lift -underBinder -merge -useContext +onlyGivenNames s5
  try clear_value s5
  split
  · extract_lets -lift -underBinder -merge -useContext +onlyGivenNames s7
    have k8 : Kept q s7 := by unfold s7; exact kept_setPm k4
    clear_value s7
    extract_lets -lift -underBinder -merge -useContext +onlyGivenNames s9
    have k10 : Kept q s9 := by unfold s9; exact kept_ite k8 (kept_signal (kept_bump k8))
    clear_value s9
    exact kept_transEnd k10
  · exact k4

theorem kept_execPwrReqBog {a0 : Initiator} {a1 : BitVec 32} {s : State} (h : Kept q s) : KeptOut q (execPwrReqBog a0 a1 s) := by
  unfold execPwrReqBog
  exact kept_act (fun _ k2 => kept_writePwrReq k2) h

theorem kept_execAvsStep {a0 : Bool} {s : State} (h : Kept q s) : KeptOut q (execAvsStep a0 s) := by
  unfold execAvsStep
  refine kept_act ?_ h
  intro s3 k4
  extract_lets -lift -underBinder -merge -useContext +onlyGivenNames s5
  try clear_value s5
  extract_lets -lift -underBinder -merge -useContext +onlyGivenNames s6
  try clear_value s6
  refine kept_ite ?_ ?_
  · exact k4
  · extract_lets -lift -underBinder -merge -useContext +onlyGivenNames s7
    try clear_value s7
    extract_lets -lift -underBinder -merge -useContext +onlyGivenNames s8
    have k9 : Kept q s8 := by unfold s8; exact Kept.upd k4
    clear_value s8
    exact kept_ite (kept_signal k9) k9

theorem kept_entered {a0 : State} {a1 : PMach} {a2 : PState} (h1 : Kept q a0) : Kept q (State.entered a0 a1 a2) := by
  unfold State.entered
  extract_lets -lift -underBinder -merge -useContext +onlyGivenNames s1
  try clear_value s1
  extract_lets -lift -underBinder -merge -useContext +onlyGivenNames s2
  have k3 : Kept q s2 := by unfold s2; exact kept_setPm h1
  clear_value s2
  extract_lets -lift -underBinder -merge -useContext +onlyGivenNames s4
  have k5 : Kept q s4 := by
    unfold s4
    refine kept_ite ?_ ?_
    · split
      · exact kept_bump k3
      · exact k3
    · exact kept_signal k3
  clear_value s4
  extract_lets -lift -underBinder -merge -useContext +onlyGivenNames s6
  have k7 : Kept q s6 := by
    unfold s6
    split
    · refine kept_ite ?_ ?_
      · refine kept_foldl ?_ ?_
        · exact k5
        · intro s9 x11 k10
          exact kept_idleLane k10
      · exact k5
    · extract_lets -lift -underBinder -merge -useContext +onlyGivenNames s13
      have k14 : Kept q s13 := by
        unfold s13
        refine kept_ite ?_ ?_
        · exact k5
        · split
          · exact k5
          · exact k5
          · exact k5
          · exact Kept.upd k5
      clear_value s13
      exact kept_ite k14 (kept_resetPcie k14)
  clear_value s6
  exact kept_ite (kept_beginExit k7) (kept_transEnd k7)

theorem kept_askYield {a0 : State} (h1 : Kept q a0) : Kept q (State.askYield a0) := by
  unfold State.askYield
  refine kept_foldl ?_ ?_
  · exact h1
  · intro s1 x3 k2
    exact kept_setSyn k2

theorem kept_stopRefuser {a0 : State} {a1 : ℕ} (h1 : Kept q a0) : Kept q (State.stopRefuser a0 a1) := by
  unfold State.stopRefuser
  refine kept_ite ?_ ?_
  · refine kept_foldl ?_ ?_
    · exact h1
    · intro s1 x3 k2
      exact kept_capDone k2
  · refine kept_foldl ?_ ?_
    · exact h1
    · intro s4 x6 k5
      refine kept_foldl ?_ ?_
      · exact k5
      · intro s7 x9 k8
        split
        · exact kept_ite k8 (kept_abandonCommit k8)
        · exact k8

theorem kept_execPowerEntryStep {a0 : PMach} {s : State} (h : Kept q s) : KeptOut q (execPowerEntryStep a0 s) := by
  unfold execPowerEntryStep
  refine kept_act ?_ h
  intro s3 k4
  split
  · refine kept_ite ?_ ?_
    · exact kept_entered k4
    · refine kept_ite ?_ ?_
      · exact k4
      · refine kept_ite ?_ ?_
        · exact k4
        · refine kept_ite ?_ ?_
          · exact kept_askYield k4
          · split
            · extract_lets -lift -underBinder -merge -useContext +onlyGivenNames s8
              try clear_value s8
              extract_lets -lift -underBinder -merge -useContext +onlyGivenNames s9
              have k10 : Kept q s9 := by unfold s9; exact Kept.upd k4
              clear_value s9
              split
              · extract_lets -lift -underBinder -merge -useContext +onlyGivenNames s12
                have k13 : Kept q s12 := by unfold s12; exact kept_stopRefuser k10
                clear_value s12
                exact kept_entryOn (kept_setPm k13)
              · extract_lets -lift -underBinder -merge -useContext +onlyGivenNames s15
                have k16 : Kept q s15 := by unfold s15; exact kept_stopRefuser k10
                clear_value s15
                exact kept_entryOn (kept_setPm k16)
              · extract_lets -lift -underBinder -merge -useContext +onlyGivenNames s18
                have k19 : Kept q s18 := by unfold s18; exact kept_stopRefuser k10
                clear_value s18
                exact kept_entryOn (kept_setPm k19)
              · exact kept_rollBack k10
            · exact kept_entryOn (kept_entryDo k4)
  · exact k4

theorem kept_execPsEnRaise {a0 : BitVec 8} {s : State} (h : Kept q s) : KeptOut q (execPsEnRaise a0 s) := by
  unfold execPsEnRaise
  refine kept_act ?_ h
  intro s3 k4
  extract_lets -lift -underBinder -merge -useContext +onlyGivenNames s5
  try clear_value s5
  extract_lets -lift -underBinder -merge -useContext +onlyGivenNames s6
  have k7 : Kept q s6 := by unfold s6; exact Kept.upd k4
  clear_value s6
  extract_lets -lift -underBinder -merge -useContext +onlyGivenNames s8
  have k9 : Kept q s8 := by unfold s8; exact kept_ite (kept_clearCause k7) k7
  clear_value s8
  refine kept_ite ?_ ?_
  · exact k9
  · split
    · exact kept_ite k9 (Kept.upd k9)
    · exact k9

theorem kept_execAutoReedEntry {a0 : Tile} {s : State} (h : Kept q s) : KeptOut q (execAutoReedEntry a0 s) := by
  unfold execAutoReedEntry
  refine kept_act ?_ h
  intro s3 k4
  extract_lets -lift -underBinder -merge -useContext +onlyGivenNames s5
  try clear_value s5
  exact kept_ite (kept_beginEntry k4) k4

theorem kept_execWakeN {s : State} (h : Kept q s) : KeptOut q (execWakeN s) := by
  unfold execWakeN
  exact kept_act (fun _ k2 => kept_wake k2) h

theorem kept_execTransitionOverrun {a0 : PMach} {s : State} (h : Kept q s) : KeptOut q (execTransitionOverrun a0 s) := by
  unfold execTransitionOverrun
  refine kept_act ?_ h
  intro s3 k4
  extract_lets -lift -underBinder -merge -useContext +onlyGivenNames s5
  try clear_value s5
  split
  · exact kept_ite k4 (kept_signal (kept_setPm k4))
  · exact kept_ite k4 (kept_signal (kept_setPm k4))
  · exact k4

theorem kept_execPwrReqActive {a0 : Initiator} {a1 : BitVec 32} {s : State} (h : Kept q s) : KeptOut q (execPwrReqActive a0 a1 s) := by
  unfold execPwrReqActive
  exact kept_act (fun _ k2 => kept_writePwrReq k2) h

theorem kept_execSignalDetect {a0 : Lane} {s : State} (h : Kept q s) : KeptOut q (execSignalDetect a0 s) := by
  unfold execSignalDetect
  refine kept_act ?_ h
  intro s3 k4
  extract_lets -lift -underBinder -merge -useContext +onlyGivenNames s5
  try clear_value s5
  extract_lets -lift -underBinder -merge -useContext +onlyGivenNames s6
  have k7 : Kept q s6 := by unfold s6; exact kept_signalOn k4
  clear_value s6
  exact kept_ite (kept_wakeFromLow k7) k7

theorem kept_execPwrCtlActive {a0 : Tag} {a1 : Bytes} {s : State} (h : Kept q s) : KeptOut q (execPwrCtlActive a0 a1 s) := by
  unfold execPwrCtlActive
  exact kept_act (fun _ k2 => kept_arrivePwr k2) h

theorem kept_execAutoReedExit {a0 : Tile} {s : State} (h : Kept q s) : KeptOut q (execAutoReedExit a0 s) := by
  unfold execAutoReedExit
  refine kept_act ?_ h
  intro s3 k4
  extract_lets -lift -underBinder -merge -useContext +onlyGivenNames s5
  try clear_value s5
  exact kept_ite (kept_wakeOne k4) k4

theorem kept_execPwrReqFen {a0 : Initiator} {a1 : BitVec 32} {s : State} (h : Kept q s) : KeptOut q (execPwrReqFen a0 a1 s) := by
  unfold execPwrReqFen
  exact kept_act (fun _ k2 => kept_writePwrReq k2) h

theorem kept_execPsGoodTimeout {a0 : RailBit} {s : State} (h : Kept q s) : KeptOut q (execPsGoodTimeout a0 s) := by
  unfold execPsGoodTimeout
  exact kept_act (fun _ k2 => kept_ite (kept_enterTimeout (kept_signal k2)) k2) h

theorem kept_execPwrCtlFen {a0 : Tag} {a1 : Bytes} {s : State} (h : Kept q s) : KeptOut q (execPwrCtlFen a0 a1 s) := by
  unfold execPwrCtlFen
  exact kept_act (fun _ k2 => kept_arrivePwr k2) h

theorem kept_execPsGoodFall {a0 : RailBit} {s : State} (h : Kept q s) : KeptOut q (execPsGoodFall a0 s) := by
  unfold execPsGoodFall
  refine kept_act ?_ h
  intro s3 k4
  refine kept_ite ?_ ?_
  · exact k4
  · extract_lets -lift -underBinder -merge -useContext +onlyGivenNames s5
    try clear_value s5
    extract_lets -lift -underBinder -merge -useContext +onlyGivenNames s6
    have k7 : Kept q s6 := by unfold s6; exact Kept.upd k4
    clear_value s6
    extract_lets -lift -underBinder -merge -useContext +onlyGivenNames s8
    have k9 : Kept q s8 := by unfold s8; exact kept_ite (kept_lanesOff k7) k7
    clear_value s8
    exact kept_ite (kept_enterTimeout (kept_signal k9)) k9

theorem kept_execPwrReqPeat {a0 : Initiator} {a1 : BitVec 32} {s : State} (h : Kept q s) : KeptOut q (execPwrReqPeat a0 a1 s) := by
  unfold execPwrReqPeat
  exact kept_act (fun _ k2 => kept_writePwrReq k2) h

end Sys2Proof.Machine
end

