-- ==== Sys2Proof/Laws/KeptFences.lean ====
section
/-! SUPPORT. The operations of Machine/Fences.lean keep the form of memory and the queue. -/

namespace Sys2Proof.Machine
open Sys2Proof

variable {q : List Instr × Bool}

theorem kept_restartMgmt {a0 : State} (h1 : Kept q a0) : Kept q (State.restartMgmt a0) := by
  unfold State.restartMgmt
  extract_lets -lift -underBinder -merge -useContext +onlyGivenNames s1
  try clear_value s1
  exact kept_ite (kept_enterTimeout h1) (Kept.upd h1)

theorem kept_fenceUnit {a0 : State} {a1 : ℕ} (h1 : Kept q a0) : Kept q (State.fenceUnit a0 a1) := by
  unfold State.fenceUnit
  refine kept_ite ?_ ?_
  · extract_lets -lift -underBinder -merge -useContext +onlyGivenNames s1
    have k2 : Kept q s1 := by
      unfold s1
      refine kept_foldl ?_ ?_
      · exact h1
      · intro s3 x5 k4
        exact kept_setRxEn (kept_setTxEn k4)
    clear_value s1
    exact kept_signal k2
  · refine kept_ite ?_ ?_
    · extract_lets -lift -underBinder -merge -useContext +onlyGivenNames s6
      have k7 : Kept q s6 := by
        unfold s6
        refine kept_foldl ?_ ?_
        · exact h1
        · intro s8 x10 k9
          refine kept_foldl ?_ ?_
          · exact k9
          · intro s11 x13 k12
            split
            · exact kept_ite k12 (kept_abandonCommit k12)
            · exact k12
      clear_value s6
      exact Kept.upd k7
    · refine kept_ite ?_ ?_
      · exact kept_enterTimeout h1
      · refine kept_ite ?_ ?_
        · refine kept_lanesOff ?_
          · refine kept_foldl ?_ ?_
            · exact h1
            · intro s16 x18 k17
              exact kept_portDown k17
        · exact kept_ite (kept_vcFence (kept_setVc h1)) (kept_dropSections h1)

theorem kept_fence {a0 : State} {a1 : ℕ} {a2 : ℕ} (h1 : Kept q a0) : Kept q (State.fence a0 a1 a2) := by
  unfold State.fence
  refine kept_ite ?_ ?_
  · exact h1
  · extract_lets -lift -underBinder -merge -useContext +onlyGivenNames s1
    have k2 : Kept q s1 := by unfold s1; exact kept_fenceUnit (kept_sever h1)
    clear_value s1
    exact kept_ite (kept_restartMgmt k2) k2

theorem kept_resetTile {a0 : State} {a1 : ℕ} (h1 : Kept q a0) : Kept q (State.resetTile a0 a1) := by
  unfold State.resetTile
  extract_lets -lift -underBinder -merge -useContext +onlyGivenNames s1
  try clear_value s1
  extract_lets -lift -underBinder -merge -useContext +onlyGivenNames s2
  try clear_value s2
  exact Kept.upd h1

theorem kept_resetUnit {a0 : State} {a1 : ℕ} (h1 : Kept q a0) : Kept q (State.resetUnit a0 a1) := by
  unfold State.resetUnit
  extract_lets -lift -underBinder -merge -useContext +onlyGivenNames s1
  have k2 : Kept q s1 := by unfold s1; exact Kept.drop h1
  clear_value s1
  refine kept_ite ?_ ?_
  · extract_lets -lift -underBinder -merge -useContext +onlyGivenNames s3
    have k4 : Kept q s3 := by unfold s3; exact kept_resetTile k2
    clear_value s3
    exact Kept.upd k4
  · exact kept_ite (Kept.upd k2) (kept_ite (Kept.upd k2) (kept_ite (kept_setSeq k2) (kept_ite (Kept.upd k2) (kept_ite (kept_setVc k2) k2))))

theorem kept_writeEvFence {a0 : State} {a1 : Initiator} {a2 : BitVec 32} (h1 : Kept q a0) : Kept q (State.writeEvFence a0 a1 a2) := by
  unfold State.writeEvFence
  extract_lets -lift -underBinder -merge -useContext +onlyGivenNames s1
  try clear_value s1
  refine kept_ite ?_ ?_
  · exact kept_error h1
  · refine kept_ite ?_ ?_
    · exact kept_done h1
    · refine kept_ite ?_ ?_
      · exact kept_error h1
      · refine kept_ite ?_ ?_
        · exact kept_done (kept_fence h1)
        · refine kept_ite ?_ ?_
          · exact kept_error h1
          · refine kept_done ?_
            · extract_lets -lift -underBinder -merge -useContext +onlyGivenNames s2
              have k3 : Kept q s2 := by unfold s2; exact kept_resetUnit h1
              clear_value s2
              exact Kept.upd k3

theorem kept_execLockstepMismatch {a0 : Bool} {s : State} (h : Kept q s) : KeptOut q (execLockstepMismatch a0 s) := by
  unfold execLockstepMismatch
  refine kept_act ?_ h
  intro s3 k4
  extract_lets -lift -underBinder -merge -useContext +onlyGivenNames s5
  try clear_value s5
  exact kept_ite k4 (kept_fence (kept_signal k4))

theorem kept_execFenceRelease {a0 : Initiator} {a1 : BitVec 32} {s : State} (h : Kept q s) : KeptOut q (execFenceRelease a0 a1 s) := by
  unfold execFenceRelease
  exact kept_act (fun _ k2 => kept_writeEvFence k2) h

theorem kept_execWatchdogExpiry {s : State} (h : Kept q s) : KeptOut q (execWatchdogExpiry s) := by
  unfold execWatchdogExpiry
  exact kept_act (fun _ k2 => kept_ite (kept_fence (kept_signal k2)) k2) h

theorem kept_execFenceRequest {a0 : Initiator} {a1 : BitVec 32} {s : State} (h : Kept q s) : KeptOut q (execFenceRequest a0 a1 s) := by
  unfold execFenceRequest
  exact kept_act (fun _ k2 => kept_writeEvFence k2) h

theorem kept_execClockMonitorTrip {a0 : FUnit} {s : State} (h : Kept q s) : KeptOut q (execClockMonitorTrip a0 s) := by
  unfold execClockMonitorTrip
  exact kept_act (fun _ k2 => kept_fence k2) h

theorem kept_execRequestTimeout {a0 : FUnit} {s : State} (h : Kept q s) : KeptOut q (execRequestTimeout a0 s) := by
  unfold execRequestTimeout
  exact kept_act (fun _ k2 => kept_fence k2) h

theorem kept_execSelfCheckError {a0 : FUnit} {s : State} (h : Kept q s) : KeptOut q (execSelfCheckError a0 s) := by
  unfold execSelfCheckError
  exact kept_act (fun _ k2 => kept_fence k2) h

end Sys2Proof.Machine
end

