-- ==== Sys2Proof/Laws/KeptUpdate.lean ====
section
/-! SUPPORT. The operations of Machine/Update.lean keep the form of memory and the queue. -/

namespace Sys2Proof.Machine
open Sys2Proof

variable {q : List Instr × Bool}

theorem kept_replySlot {a0 : State} {a1 : Bytes} (h1 : Kept q a0) : Kept q (State.replySlot a0 a1) := by
  unfold State.replySlot
  extract_lets -lift -underBinder -merge -useContext +onlyGivenNames s1
  try clear_value s1
  extract_lets -lift -underBinder -merge -useContext +onlyGivenNames s2
  try clear_value s2
  extract_lets -lift -underBinder -merge -useContext +onlyGivenNames s3
  try clear_value s3
  refine kept_ite ?_ ?_
  · extract_lets -lift -underBinder -merge -useContext +onlyGivenNames s4
    have k5 : Kept q s4 := by unfold s4; exact kept_putBytes h1
    clear_value s4
    extract_lets -lift -underBinder -merge -useContext +onlyGivenNames s6
    have k7 : Kept q s6 := by unfold s6; exact kept_putBytes k5
    clear_value s6
    extract_lets -lift -underBinder -merge -useContext +onlyGivenNames s8
    have k9 : Kept q s8 := by unfold s8; exact kept_setSlot k7
    clear_value s8
    exact kept_signal (kept_setReady k9)
  · exact h1

theorem kept_answer {a0 : State} {a1 : Route} {a2 : SessMsg} {a3 : ℕ} {a4 : ℕ} {a5 : Bytes} (h1 : Kept q a0) : Kept q (State.answer a0 a1 a2 a3 a4 a5) := by
  unfold State.answer
  extract_lets -lift -underBinder -merge -useContext +onlyGivenNames s1
  try clear_value s1
  extract_lets -lift -underBinder -merge -useContext +onlyGivenNames s2
  have k3 : Kept q s2 := by unfold s2; exact kept_ite h1 (kept_replySlot h1)
  clear_value s2
  exact Kept.upd k3

theorem kept_sessWrite {a0 : State} {a1 : Route} {a2 : SessMsg} (h1 : Kept q a0) : Kept q (State.sessWrite a0 a1 a2) := by
  unfold State.sessWrite
  extract_lets -lift -underBinder -merge -useContext +onlyGivenNames s1
  try clear_value s1
  extract_lets -lift -underBinder -merge -useContext +onlyGivenNames s2
  try clear_value s2
  refine kept_ite ?_ ?_
  · exact kept_answer h1
  · refine kept_ite ?_ ?_
    · exact kept_answer h1
    · refine kept_ite ?_ ?_
      · exact kept_answer h1
      · extract_lets -lift -underBinder -merge -useContext +onlyGivenNames s3
        try clear_value s3
        extract_lets -lift -underBinder -merge -useContext +onlyGivenNames s4
        have k5 : Kept q s4 := by unfold s4; exact Kept.upd h1
        clear_value s4
        extract_lets -lift -underBinder -merge -useContext +onlyGivenNames s6
        have k7 : Kept q s6 := by unfold s6; exact kept_ite (kept_programWords k5) k5
        clear_value s6
        exact kept_answer k7

theorem kept_openSession {a0 : State} {a1 : Route} {a2 : BitVec 32} {a3 : ℕ} {a4 : Bool} (h1 : Kept q a0) : Kept q (State.openSession a0 a1 a2 a3 a4) := by
  unfold State.openSession
  extract_lets -lift -underBinder -merge -useContext +onlyGivenNames s1
  try clear_value s1
  extract_lets -lift -underBinder -merge -useContext +onlyGivenNames s2
  have k3 : Kept q s2 := by unfold s2; exact kept_ite (kept_putBoot h1) (kept_ite (kept_markArea h1) h1)
  clear_value s2
  exact Kept.upd k3

theorem kept_sessOpen {a0 : State} {a1 : Route} {a2 : SessMsg} (h1 : Kept q a0) : Kept q (State.sessOpen a0 a1 a2) := by
  unfold State.sessOpen
  extract_lets -lift -underBinder -merge -useContext +onlyGivenNames s1
  try clear_value s1
  extract_lets -lift -underBinder -merge -useContext +onlyGivenNames s2
  try clear_value s2
  refine kept_ite ?_ ?_
  · exact kept_answer h1
  · refine kept_ite ?_ ?_
    · exact kept_answer h1
    · refine kept_ite ?_ ?_
      · exact kept_answer h1
      · extract_lets -lift -underBinder -merge -useContext +onlyGivenNames s3
        have k4 : Kept q s3 := by unfold s3; exact kept_openSession h1
        clear_value s3
        exact kept_answer k4

theorem kept_keepImage {a0 : State} {a1 : Bytes} (h1 : Kept q a0) : Kept q (State.keepImage a0 a1) := by
  unfold State.keepImage
  extract_lets -lift -underBinder -merge -useContext +onlyGivenNames s1
  have k2 : Kept q s1 := by unfold s1; exact kept_programWords h1
  clear_value s1
  exact kept_putBoot k2

theorem kept_regAppend {a0 : State} {a1 : Bytes} (h1 : Kept q a0) : Kept q (State.regAppend a0 a1).1 := by
  unfold State.regAppend
  split
  · exact kept_signal h1
  · split
    · exact kept_ite_p1 (kept_appendRecord h1) (kept_signal h1)
    · extract_lets -lift -underBinder -merge -useContext +onlyGivenNames s5
      have k6 : Kept q s5 := by unfold s5; exact kept_programWords h1
      clear_value s5
      exact kept_regWatch (Kept.upd k6)

theorem kept_finish {a0 : State} {a1 : Bytes} (h1 : Kept q a0) : Kept q (State.finish a0 a1).2.2 := by
  unfold State.finish
  split
  · extract_lets -lift -underBinder -merge -useContext +onlyGivenNames s2
    try clear_value s2
    split
    · exact h1
    · extract_lets -lift -underBinder -merge -useContext +onlyGivenNames s5
      try clear_value s5
      exact kept_ite_p22 (kept_keepImage h1) h1
  · refine kept_ite_p22 ?_ ?_
    · extract_lets -lift -underBinder -merge -useContext +onlyGivenNames s7
      try clear_value s7
      extract_lets -lift -underBinder -merge -useContext +onlyGivenNames s8
      try clear_value s8
      extract_lets -lift -underBinder -merge -useContext +onlyGivenNames s9
      have k10 : Kept q s9 := by unfold s9; exact kept_putArea h1
      clear_value s9
      extract_lets -lift -underBinder -merge -useContext +onlyGivenNames s11
      try clear_value s11
      extract_lets -lift -underBinder -merge -useContext +onlyGivenNames s12
      have k13 : Kept q s12 := by unfold s12; exact kept_ite (kept_putBoot k10) k10
      clear_value s12
      exact Kept.upd k13
    · exact h1
  · split
    · rename_i y15 e17
      have k16 : Kept q y15 := kept_p1 e17 (kept_regAppend h1)
      exact k16
    · rename_i y18 e20
      have k19 : Kept q y18 := kept_p1 e20 (kept_regAppend h1)
      exact k19

theorem kept_sessFinish {a0 : State} {a1 : Route} {a2 : SessMsg} (h1 : Kept q a0) : Kept q (State.sessFinish a0 a1 a2) := by
  unfold State.sessFinish
  extract_lets -lift -underBinder -merge -useContext +onlyGivenNames s1
  try clear_value s1
  refine kept_ite ?_ ?_
  · exact kept_answer h1
  · refine kept_ite ?_ ?_
    · exact kept_answer h1
    · refine kept_ite ?_ ?_
      · exact kept_answer h1
      · split
        · rename_i y2 y3 y4 e6
          have k5 : Kept q y4 := kept_p22 e6 (kept_finish h1)
          extract_lets -lift -underBinder -merge -useContext +onlyGivenNames s7
          try clear_value s7
          extract_lets -lift -underBinder -merge -useContext +onlyGivenNames s8
          have k9 : Kept q s8 := by unfold s8; exact kept_ite (Kept.upd k5) k5
          clear_value s8
          exact kept_answer k9

theorem kept_sessActivate {a0 : State} {a1 : Route} {a2 : SessMsg} (h1 : Kept q a0) : Kept q (State.sessActivate a0 a1 a2) := by
  unfold State.sessActivate
  refine kept_ite ?_ ?_
  · exact kept_answer h1
  · extract_lets -lift -underBinder -merge -useContext +onlyGivenNames s1
    try clear_value s1
    extract_lets -lift -underBinder -merge -useContext +onlyGivenNames s2
    try clear_value s2
    extract_lets -lift -underBinder -merge -useContext +onlyGivenNames s3
    extract_lets -lift -underBinder -merge -useContext +onlyGivenNames s4
    try clear_value s4
    extract_lets -lift -underBinder -merge -useContext +onlyGivenNames s5
    try clear_value s5
    extract_lets -lift -underBinder -merge -useContext +onlyGivenNames s6
    have k7 : Kept q s6 := by unfold s6; exact kept_answer (kept_putBoot h1)
    clear_value s6
    extract_lets -lift -underBinder -merge -useContext +onlyGivenNames s8
    try clear_value s8
    extract_lets -lift -underBinder -merge -useContext +onlyGivenNames s9
    try clear_value s9
    extract_lets -lift -underBinder -merge -useContext +onlyGivenNames s10
    try clear_value s10
    extract_lets -lift -underBinder -merge -useContext +onlyGivenNames s11
    have k12 : Kept q s11 := by unfold s11; exact Kept.upd k7
    clear_value s11
    extract_lets -lift -underBinder -merge -useContext +onlyGivenNames s13
    have k14 : Kept q s13 := by unfold s13; exact kept_selfReset k12
    clear_value s13
    exact Kept.upd k14

theorem kept_sessConfirm {a0 : State} {a1 : Route} {a2 : SessMsg} (h1 : Kept q a0) : Kept q (State.sessConfirm a0 a1 a2) := by
  unfold State.sessConfirm
  extract_lets -lift -underBinder -merge -useContext +onlyGivenNames s1
  try clear_value s1
  refine kept_ite ?_ ?_
  · exact kept_answer h1
  · refine kept_ite ?_ ?_
    · exact kept_answer h1
    · extract_lets -lift -underBinder -merge -useContext +onlyGivenNames s2
      try clear_value s2
      extract_lets -lift -underBinder -merge -useContext +onlyGivenNames s3
      try clear_value s3
      extract_lets -lift -underBinder -merge -useContext +onlyGivenNames s4
      try clear_value s4
      extract_lets -lift -underBinder -merge -useContext +onlyGivenNames s5
      try clear_value s5
      extract_lets -lift -underBinder -merge -useContext +onlyGivenNames s6
      try clear_value s6
      extract_lets -lift -underBinder -merge -useContext +onlyGivenNames s7
      try clear_value s7
      extract_lets -lift -underBinder -merge -useContext +onlyGivenNames s8
      have k9 : Kept q s8 := by unfold s8; exact kept_putBoot h1
      clear_value s8
      extract_lets -lift -underBinder -merge -useContext +onlyGivenNames s10
      try clear_value s10
      extract_lets -lift -underBinder -merge -useContext +onlyGivenNames s11
      have k12 : Kept q s11 := by unfold s11; exact kept_ite (kept_setReg k9) k9
      clear_value s11
      extract_lets -lift -underBinder -merge -useContext +onlyGivenNames s13
      have k14 : Kept q s13 := by unfold s13; exact kept_ite k12 (kept_markArea (kept_markArea k12))
      clear_value s13
      extract_lets -lift -underBinder -merge -useContext +onlyGivenNames s15
      try clear_value s15
      extract_lets -lift -underBinder -merge -useContext +onlyGivenNames s16
      have k17 : Kept q s16 := by unfold s16; exact Kept.upd k14
      clear_value s16
      exact kept_answer k17

theorem kept_endSession {a0 : State} (h1 : Kept q a0) : Kept q (State.endSession a0) := by
  unfold State.endSession
  exact Kept.upd h1

theorem kept_sessAbort {a0 : State} {a1 : Route} {a2 : SessMsg} (h1 : Kept q a0) : Kept q (State.sessAbort a0 a1 a2) := by
  unfold State.sessAbort
  exact kept_answer (kept_endSession h1)

theorem kept_sessStatus {a0 : State} {a1 : Route} {a2 : SessMsg} (h1 : Kept q a0) : Kept q (State.sessStatus a0 a1 a2) := by
  unfold State.sessStatus
  exact kept_answer h1

theorem kept_sessRead {a0 : State} {a1 : Route} {a2 : SessMsg} (h1 : Kept q a0) : Kept q (State.sessRead a0 a1 a2) := by
  unfold State.sessRead
  extract_lets -lift -underBinder -merge -useContext +onlyGivenNames s1
  try clear_value s1
  extract_lets -lift -underBinder -merge -useContext +onlyGivenNames s2
  try clear_value s2
  refine kept_ite ?_ ?_
  · exact kept_answer h1
  · refine kept_ite ?_ ?_
    · exact kept_answer h1
    · extract_lets -lift -underBinder -merge -useContext +onlyGivenNames s3
      try clear_value s3
      extract_lets -lift -underBinder -merge -useContext +onlyGivenNames s4
      try clear_value s4
      exact kept_answer h1

theorem kept_endTrial {a0 : State} (h1 : Kept q a0) : Kept q (State.endTrial a0) := by
  unfold State.endTrial
  extract_lets -lift -underBinder -merge -useContext +onlyGivenNames s1
  have k2 : Kept q s1 := by unfold s1; exact kept_putBoot h1
  clear_value s1
  extract_lets -lift -underBinder -merge -useContext +onlyGivenNames s3
  have k4 : Kept q s3 := by unfold s3; exact kept_markArea k2
  clear_value s3
  exact kept_signal (kept_selfReset k4)

theorem kept_sessFallback {a0 : State} {a1 : Route} {a2 : SessMsg} (h1 : Kept q a0) : Kept q (State.sessFallback a0 a1 a2) := by
  unfold State.sessFallback
  refine kept_ite ?_ ?_
  · exact kept_answer h1
  · extract_lets -lift -underBinder -merge -useContext +onlyGivenNames s1
    have k2 : Kept q s1 := by unfold s1; exact kept_answer h1
    clear_value s1
    extract_lets -lift -underBinder -merge -useContext +onlyGivenNames s3
    have k4 : Kept q s3 := by unfold s3; exact kept_endTrial k2
    clear_value s3
    exact Kept.upd k4

theorem kept_session {a0 : State} {a1 : Route} {a2 : SessMsg} {a3 : ℕ} (h1 : Kept q a0) : Kept q (State.session a0 a1 a2 a3) := by
  unfold State.session
  extract_lets -lift -underBinder -merge -useContext +onlyGivenNames s1
  try clear_value s1
  extract_lets -lift -underBinder -merge -useContext +onlyGivenNames s2
  extract_lets -lift -underBinder -merge -useContext +onlyGivenNames s3
  try clear_value s3
  refine kept_ite ?_ ?_
  · exact h1
  · extract_lets -lift -underBinder -merge -useContext +onlyGivenNames s4
    try clear_value s4
    extract_lets -lift -underBinder -merge -useContext +onlyGivenNames s5
    have k6 : Kept q s5 := by unfold s5; exact kept_ite (Kept.upd h1) h1
    clear_value s5
    refine kept_ite ?_ ?_
    · exact kept_answer k6
    · refine kept_ite ?_ ?_
      · exact kept_answer k6
      · refine kept_ite ?_ ?_
        · exact kept_answer k6
        · split
          · exact kept_sessOpen k6
          · exact kept_sessWrite k6
          · exact kept_sessFinish k6
          · exact kept_sessActivate k6
          · exact kept_sessConfirm k6
          · exact kept_sessAbort k6
          · exact kept_sessStatus k6
          · exact kept_sessRead k6
          · exact kept_sessFallback k6
          · exact kept_answer k6

theorem kept_execSessionRead {a0 : Route} {a1 : SessMsg} {s : State} (h : Kept q s) : KeptOut q (execSessionRead a0 a1 s) := by
  unfold execSessionRead
  exact kept_act (fun _ k2 => kept_session k2) h

theorem kept_execTrialWindowExpiry {s : State} (h : Kept q s) : KeptOut q (execTrialWindowExpiry s) := by
  unfold execTrialWindowExpiry
  exact kept_act (fun _ k2 => kept_ite k2 (kept_endTrial (kept_signal k2))) h

theorem kept_execSessionFinish {a0 : Route} {a1 : SessMsg} {s : State} (h : Kept q s) : KeptOut q (execSessionFinish a0 a1 s) := by
  unfold execSessionFinish
  exact kept_act (fun _ k2 => kept_session k2) h

theorem kept_execSessionActivate {a0 : Route} {a1 : SessMsg} {s : State} (h : Kept q s) : KeptOut q (execSessionActivate a0 a1 s) := by
  unfold execSessionActivate
  exact kept_act (fun _ k2 => kept_session k2) h

theorem kept_execSessionLockExpiry {s : State} (h : Kept q s) : KeptOut q (execSessionLockExpiry s) := by
  unfold execSessionLockExpiry
  exact kept_act (fun _ k2 => kept_ite k2 (kept_signal (kept_endSession k2))) h

theorem kept_execSessionStatus {a0 : Route} {a1 : SessMsg} {s : State} (h : Kept q s) : KeptOut q (execSessionStatus a0 a1 s) := by
  unfold execSessionStatus
  exact kept_act (fun _ k2 => kept_session k2) h

theorem kept_execSessionFallback {a0 : Route} {a1 : SessMsg} {s : State} (h : Kept q s) : KeptOut q (execSessionFallback a0 a1 s) := by
  unfold execSessionFallback
  exact kept_act (fun _ k2 => kept_session k2) h

theorem kept_execSessionConfirm {a0 : Route} {a1 : SessMsg} {s : State} (h : Kept q s) : KeptOut q (execSessionConfirm a0 a1 s) := by
  unfold execSessionConfirm
  exact kept_act (fun _ k2 => kept_session k2) h

theorem kept_execSessionWrite {a0 : Route} {a1 : SessMsg} {s : State} (h : Kept q s) : KeptOut q (execSessionWrite a0 a1 s) := by
  unfold execSessionWrite
  exact kept_act (fun _ k2 => kept_session k2) h

theorem kept_execSessionAbort {a0 : Route} {a1 : SessMsg} {s : State} (h : Kept q s) : KeptOut q (execSessionAbort a0 a1 s) := by
  unfold execSessionAbort
  exact kept_act (fun _ k2 => kept_session k2) h

theorem kept_execSessionOpen {a0 : Route} {a1 : SessMsg} {s : State} (h : Kept q s) : KeptOut q (execSessionOpen a0 a1 s) := by
  unfold execSessionOpen
  exact kept_act (fun _ k2 => kept_session k2) h

end Sys2Proof.Machine
end

