-- ==== Sys2Proof/Laws/KeptBus.lean ====
section
/-! SUPPORT. The operations of Machine/Bus.lean keep the form of memory and the queue. -/

namespace Sys2Proof.Machine
open Sys2Proof

variable {q : List Instr × Bool}

theorem kept_setIq {a0 : State} {a1 : Bool} {a2 : IssueSt} (h1 : Kept q a0) : Kept q (State.setIq a0 a1 a2) := by
  unfold State.setIq
  exact kept_ite (Kept.upd h1) (Kept.upd h1)

theorem kept_iqError {a0 : State} {a1 : Bool} {a2 : ℕ} (h1 : Kept q a0) : Kept q (State.iqError a0 a1 a2) := by
  unfold State.iqError
  exact kept_bump (kept_setIq h1)

theorem kept_pushIssue {a0 : State} {a1 : Initiator} {a2 : Bool} {a3 : BitVec 64} (h1 : Kept q a0) : Kept q (State.pushIssue a0 a1 a2 a3) := by
  unfold State.pushIssue
  extract_lets -lift -underBinder -merge -useContext +onlyGivenNames s1
  try clear_value s1
  exact kept_ite (kept_error h1) (kept_ite (kept_error (kept_iqError h1)) (kept_ite (kept_error (kept_iqError h1)) (kept_done (kept_setIq h1))))

theorem kept_checkFirs {a0 : State} {a1 : Tile} {a2 : Dir} {a3 : Carrier} (h1 : Kept q a0) : Kept q (State.checkFirs a0 a1 a2 a3) := by
  unfold State.checkFirs
  refine kept_foldl ?_ ?_
  · exact h1
  · intro s1 x3 k2
    extract_lets -lift -underBinder -merge -useContext +onlyGivenNames s4
    try clear_value s4
    extract_lets -lift -underBinder -merge -useContext +onlyGivenNames s5
    try clear_value s5
    exact kept_ite k2 (kept_bump (kept_setRec k2))

theorem kept_afterWrite {a0 : State} {a1 : ℕ} (h1 : Kept q a0) : Kept q (State.afterWrite a0 a1) := by
  unfold State.afterWrite
  refine kept_ite ?_ ?_
  · exact Kept.updMem h1
  · refine kept_ite ?_ ?_
    · exact Kept.upd h1
    · refine kept_ite ?_ ?_
      · extract_lets -lift -underBinder -merge -useContext +onlyGivenNames s1
        try clear_value s1
        exact kept_checkFirs h1
      · exact kept_ite (kept_dcRejudge h1) (kept_ite (kept_flushVector h1) h1)

theorem kept_storeWord {a0 : State} {a1 : RwRow} {a2 : ℕ} {a3 : BitVec 32} (h1 : Kept q a0) : Kept q (State.storeWord a0 a1 a2 a3) := by
  unfold State.storeWord
  extract_lets -lift -underBinder -merge -useContext +onlyGivenNames s1
  try clear_value s1
  exact kept_setReg h1

theorem kept_plain32 {a0 : State} {a1 : ℕ} {a2 : BitVec 32} (h1 : Kept q a0) : Kept q (State.plain32 a0 a1 a2) := by
  unfold State.plain32
  split
  · exact kept_ite (kept_error h1) (kept_ite (kept_error h1) (kept_ite (kept_error h1) (kept_done (kept_afterWrite (kept_storeWord h1)))))
  · exact kept_ite (kept_done h1) (kept_error h1)

theorem kept_writeTimeStat {a0 : State} {a1 : BitVec 32} (h1 : Kept q a0) : Kept q (State.writeTimeStat a0 a1) := by
  unfold State.writeTimeStat
  exact kept_done (Kept.upd h1)

theorem kept_write32a {a0 : State} {a1 : Initiator} {a2 : ℕ} {a3 : BitVec 32} (h1 : Kept q a0) : Kept q (State.write32a a0 a1 a2 a3) := by
  unfold State.write32a
  exact kept_ite (kept_writeModeCtrl h1) (kept_ite (kept_ite (kept_plain32 h1) (kept_error h1)) (kept_ite (kept_writePwrReq h1) (kept_ite (kept_done (kept_writeWdog h1)) (kept_ite (kept_writeEvFence h1) (kept_ite (kept_writeTimeCfg h1) (kept_ite (kept_writeTimeStat h1) (kept_ite (kept_writeTimeCtrl h1) (kept_ite (kept_writeTxwptr h1) (kept_ite (kept_done (kept_setReg h1)) (kept_ite (kept_writeWincbase h1) (kept_ite (kept_done (kept_writeDmaCtrl h1)) (kept_ite (kept_done (kept_writeDoorbell h1)) (kept_ite (kept_ignoreSlot h1) (kept_plain32 h1))))))))))))))

theorem kept_clearLane {a0 : State} {a1 : ℕ} {a2 : BitVec 32} (h1 : Kept q a0) : Kept q (State.clearLane a0 a1 a2) := by
  unfold State.clearLane
  extract_lets -lift -underBinder -merge -useContext +onlyGivenNames s1
  try clear_value s1
  exact kept_done (kept_setLane h1)

theorem kept_clearEvcause {a0 : State} {a1 : ℕ} {a2 : BitVec 32} (h1 : Kept q a0) : Kept q (State.clearEvcause a0 a1 a2) := by
  unfold State.clearEvcause
  extract_lets -lift -underBinder -merge -useContext +onlyGivenNames s1
  try clear_value s1
  exact kept_done (kept_setVc h1)

theorem kept_clearSyn {a0 : State} {a1 : ℕ} {a2 : BitVec 32} (h1 : Kept q a0) : Kept q (State.clearSyn a0 a1 a2) := by
  unfold State.clearSyn
  extract_lets -lift -underBinder -merge -useContext +onlyGivenNames s1
  try clear_value s1
  exact kept_done (kept_setSyn h1)

theorem kept_writeCal {a0 : State} {a1 : Initiator} {a2 : ℕ} {a3 : BitVec 32} (h1 : Kept q a0) : Kept q (State.writeCal a0 a1 a2 a3) := by
  unfold State.writeCal
  extract_lets -lift -underBinder -merge -useContext +onlyGivenNames s1
  try clear_value s1
  extract_lets -lift -underBinder -merge -useContext +onlyGivenNames s2
  try clear_value s2
  refine kept_ite ?_ ?_
  · exact kept_commitCal h1
  · extract_lets -lift -underBinder -merge -useContext +onlyGivenNames s3
    try clear_value s3
    exact kept_done (kept_setSyn h1)

theorem kept_write32 {a0 : State} {a1 : Initiator} {a2 : ℕ} {a3 : BitVec 32} (h1 : Kept q a0) : Kept q (State.write32 a0 a1 a2 a3) := by
  unfold State.write32
  exact kept_ite (kept_write32a h1) (kept_ite (kept_writeGcfg h1) (kept_ite (kept_writeLaneCtrl h1) (kept_ite (kept_clearLane h1) (kept_ite (kept_writeSeqCtrl h1) (kept_ite (kept_done (kept_writeVcCtrl h1)) (kept_ite (kept_clearEvcause h1) (kept_ite (kept_clearSyn h1) (kept_ite (kept_writeCal h1) (kept_ite (kept_writeAlign h1) (kept_plain32 h1))))))))))

theorem kept_clearVc {a0 : State} {a1 : ℕ} {a2 : BitVec 64} (h1 : Kept q a0) : Kept q (State.clearVc a0 a1 a2) := by
  unfold State.clearVc
  extract_lets -lift -underBinder -merge -useContext +onlyGivenNames s1
  try clear_value s1
  exact kept_done (kept_setVc h1)

theorem kept_writeMmrole {a0 : State} {a1 : ℕ} {a2 : Bool} {a3 : BitVec 64} (h1 : Kept q a0) : Kept q (State.writeMmrole a0 a1 a2 a3) := by
  unfold State.writeMmrole
  exact kept_ite (kept_done (kept_setReg64 h1)) (kept_ite (kept_error h1) (kept_done (kept_setReg64 (kept_setReg64 h1))))

theorem kept_plain64 {a0 : State} {a1 : ℕ} {a2 : BitVec 64} (h1 : Kept q a0) : Kept q (State.plain64 a0 a1 a2) := by
  unfold State.plain64
  split
  · exact kept_ite (kept_error h1) (kept_ite (kept_error h1) (kept_done (kept_storeWord (kept_storeWord h1))))
  · exact kept_ite (kept_done h1) (kept_error h1)

theorem kept_write64 {a0 : State} {a1 : Initiator} {a2 : ℕ} {a3 : BitVec 64} (h1 : Kept q a0) : Kept q (State.write64 a0 a1 a2 a3) := by
  unfold State.write64
  exact kept_ite (kept_writeEvPend h1) (kept_ite (kept_writeEvPend h1) (kept_ite (kept_writeTimeRate h1) (kept_ite (kept_writeTimeStep h1) (kept_ite (kept_writeNvCtrl h1) (kept_ite (kept_writeDmaHead h1) (kept_ite (kept_writeSlotFlag h1) (kept_ite (kept_pushIssue h1) (kept_ite (kept_pushIssue h1) (kept_ite (kept_clearVc h1) (kept_ite (kept_writeEcq h1) (kept_ite (kept_writeMmrole h1) (kept_ite (kept_writeRffecmd h1) (kept_ite (kept_writeMute h1) (kept_plain64 h1))))))))))))))

theorem kept_regWrite {a0 : State} {a1 : Initiator} {a2 : ℕ} {a3 : ℕ} {a4 : BitVec 64} (h1 : Kept q a0) : Kept q (State.regWrite a0 a1 a2 a3 a4) := by
  unfold State.regWrite
  exact kept_ite (kept_error h1) (kept_ite (kept_error (kept_ite (kept_hostWake h1) h1)) (kept_ite (kept_error h1) (kept_ite (kept_write32 h1) (kept_ite (kept_write64 h1) (kept_error h1)))))

theorem kept_busStore {a0 : State} {a1 : ℕ} {a2 : Bytes} (h1 : Kept q a0) : Kept q (State.busStore a0 a1 a2) := by
  unfold State.busStore
  split
  · rename_i y1 e3
    have k2 : Kept q y1 := kept_osome e3 (kept_memWrite h1)
    exact kept_done k2
  · exact kept_error h1

theorem kept_slotStore {a0 : State} {a1 : Initiator} {a2 : ℕ} {a3 : Bytes} (h1 : Kept q a0) : Kept q (State.slotStore a0 a1 a2 a3) := by
  unfold State.slotStore
  exact kept_ite (kept_error h1) (kept_ite (kept_busStore h1) (kept_ignoreSlot h1))

theorem kept_busWrite {a0 : State} {a1 : Initiator} {a2 : ℕ} {a3 : Bytes} (h1 : Kept q a0) : Kept q (State.busWrite a0 a1 a2 a3) := by
  unfold State.busWrite
  split
  · exact kept_error h1
  · split
    · exact kept_regWrite h1
    · extract_lets -lift -underBinder -merge -useContext +onlyGivenNames s5
      try clear_value s5
      refine kept_ite ?_ ?_
      · exact kept_slotStore h1
      · extract_lets -lift -underBinder -merge -useContext +onlyGivenNames s6
        have k7 : Kept q s6 := by unfold s6; exact kept_slotStore h1
        clear_value s6
        exact kept_ite k7 (kept_slotStore k7)
    · exact kept_ite (kept_error h1) (kept_beamWrite h1)
    · extract_lets -lift -underBinder -merge -useContext +onlyGivenNames s11
      try clear_value s11
      exact kept_ite (kept_error h1) (kept_busStore h1)
    · extract_lets -lift -underBinder -merge -useContext +onlyGivenNames s13
      try clear_value s13
      exact kept_ite (kept_error h1) (kept_busStore h1)
    · exact kept_ite (kept_nvWrite h1) (kept_error h1)
    · exact kept_busStore h1

theorem kept_read32 {s : State} {off : Nat} (h : Kept q s) : ∀ t, s.read32 off = some t → Kept q t.2 := by
  intro t e
  unfold State.read32 at e
  split at e
  · cases e
  · split at e
    · cases e; exact kept_setReg h
    · split at e
      · cases e; exact h
      · split at e
        · cases e; exact h
        · cases e

theorem kept_read64 {s : State} {off : Nat} (h : Kept q s) : ∀ t, s.read64 off = some t → Kept q t.2 := by
  intro t e
  unfold State.read64 at e
  split at e
  · cases e
  · split at e
    · cases e; exact kept_ite (Kept.upd h) h
    · split at e
      · cases e; exact h
      · cases e

theorem kept_regRead {a0 : State} {a1 : ℕ} {a2 : ℕ} (h1 : Kept q a0) : Kept q (State.regRead a0 a1 a2).2 := by
  unfold State.regRead
  refine kept_ite_p2 ?_ ?_
  · exact h1
  · refine kept_ite_p2 ?_ ?_
    · split
      · rename_i y1 y2 e4
        have k3 : Kept q y2 := kept_op2 e4 (kept_read32 h1)
        exact k3
      · exact h1
    · refine kept_ite_p2 ?_ ?_
      · split
        · rename_i y6 y7 e9
          have k8 : Kept q y7 := kept_op2 e9 (kept_read64 h1)
          exact k8
        · exact h1
      · exact h1

theorem kept_busRead {a0 : State} {a1 : Initiator} {a2 : ℕ} {a3 : ℕ} (h1 : Kept q a0) : Kept q (State.busRead a0 a1 a2 a3).2 := by
  unfold State.busRead
  split
  · extract_lets -lift -underBinder -merge -useContext +onlyGivenNames s2
    have k3 : Kept q s2.2 := by unfold s2; exact kept_regRead h1
    clear_value s2
    exact kept_ite (kept_hostWake k3) k3
  · exact kept_ite_p2 h1 (kept_memRead h1)
  · exact kept_ite_p2 (kept_memRead h1) h1
  · exact kept_memRead h1

theorem kept_execWideRegisterCommit {a0 : Initiator} {a1 : RegOff} {a2 : BitVec 64} {s : State} (h : Kept q s) : KeptOut q (execWideRegisterCommit a0 a1 a2 s) := by
  unfold execWideRegisterCommit
  exact kept_act (fun _ k2 => kept_regWrite k2) h

theorem kept_execConfigRegisterWrite {a0 : Initiator} {a1 : RegOff} {a2 : Bool} {a3 : BitVec 64} {s : State} (h : Kept q s) : KeptOut q (execConfigRegisterWrite a0 a1 a2 a3 s) := by
  unfold execConfigRegisterWrite
  exact kept_act (fun _ k2 => kept_regWrite k2) h

theorem kept_answered {a0 : Access × State} (h1 : Kept q a0.2) : Kept q (State.answered a0) := by
  unfold State.answered
  split
  · extract_lets -lift -underBinder -merge -useContext +onlyGivenNames s2
    have k3 : Kept q s2 := by unfold s2; exact h1
    clear_value s2
    exact Kept.upd k3
  · exact kept_error h1
  · extract_lets -lift -underBinder -merge -useContext +onlyGivenNames s6
    have k7 : Kept q s6 := by unfold s6; exact h1
    clear_value s6
    exact Kept.upd k7

theorem kept_execMiqPush {a0 : Initiator} {a1 : BitVec 64} {s : State} (h : Kept q s) : KeptOut q (execMiqPush a0 a1 s) := by
  unfold execMiqPush
  exact kept_unitAct (fun _ k2 => kept_pushIssue k2) h

theorem kept_setW1c {a0 : State} {a1 : ℕ} {a2 : BitVec 64} (h1 : Kept q a0) : Kept q (State.setW1c a0 a1 a2) := by
  unfold State.setW1c
  refine kept_ite ?_ ?_
  · extract_lets -lift -underBinder -merge -useContext +onlyGivenNames s1
    try clear_value s1
    extract_lets -lift -underBinder -merge -useContext +onlyGivenNames s2
    try clear_value s2
    exact kept_setLane h1
  · refine kept_ite ?_ ?_
    · extract_lets -lift -underBinder -merge -useContext +onlyGivenNames s3
      try clear_value s3
      extract_lets -lift -underBinder -merge -useContext +onlyGivenNames s4
      try clear_value s4
      exact kept_setVc h1
    · refine kept_ite ?_ ?_
      · extract_lets -lift -underBinder -merge -useContext +onlyGivenNames s5
        try clear_value s5
        extract_lets -lift -underBinder -merge -useContext +onlyGivenNames s6
        try clear_value s6
        exact kept_setVc h1
      · refine kept_ite ?_ ?_
        · extract_lets -lift -underBinder -merge -useContext +onlyGivenNames s7
          try clear_value s7
          extract_lets -lift -underBinder -merge -useContext +onlyGivenNames s8
          try clear_value s8
          exact kept_setSyn h1
        · exact kept_ite (Kept.upd h1) (kept_ite (kept_setReg h1) (kept_ite (kept_signalAll h1) (kept_ite (kept_signalAll h1) (kept_ite (Kept.upd h1) h1))))

theorem kept_execW1cWrite {a0 : Initiator} {a1 : RegOff} {a2 : BitVec 64} {a3 : BitVec 64} {s : State} (h : Kept q s) : KeptOut q (execW1cWrite a0 a1 a2 a3 s) := by
  unfold execW1cWrite
  refine kept_act ?_ h
  intro s3 k4
  extract_lets -lift -underBinder -merge -useContext +onlyGivenNames s5
  try clear_value s5
  extract_lets -lift -underBinder -merge -useContext +onlyGivenNames s6
  have k7 : Kept q s6 := by unfold s6; exact kept_regWrite k4
  clear_value s6
  exact kept_ite k7 (kept_setW1c k7)

theorem kept_execCounterReadClear {a0 : Initiator} {a1 : RegOff} {a2 : Bool} {s : State} (h : Kept q s) : KeptOut q (execCounterReadClear a0 a1 a2 s) := by
  unfold execCounterReadClear
  refine kept_act ?_ h
  intro s3 k4
  extract_lets -lift -underBinder -merge -useContext +onlyGivenNames s5
  extract_lets -lift -underBinder -merge -useContext +onlyGivenNames s6
  have k7 : Kept q s6 := by unfold s6; exact kept_answered (kept_busRead k4)
  clear_value s6
  exact kept_ite k7 (kept_ite (kept_badKick k7) (kept_ite (kept_bump k7) k7))

theorem kept_execHiqPush {a0 : Initiator} {a1 : BitVec 64} {s : State} (h : Kept q s) : KeptOut q (execHiqPush a0 a1 s) := by
  unfold execHiqPush
  exact kept_unitAct (fun _ k2 => kept_pushIssue k2) h

end Sys2Proof.Machine
end

