-- ==== Sys2Proof/Laws/KeptDmaRun.lean ====
section
/-! SUPPORT. The operations of Machine/DmaRun.lean keep the form of memory and the queue. -/

namespace Sys2Proof.Machine
open Sys2Proof

variable {q : List Instr × Bool}

theorem kept_dmaPoll {a0 : State} {a1 : DmaCh} (h1 : Kept q a0) : Kept q (State.dmaPoll a0 a1) := by
  unfold State.dmaPoll
  extract_lets -lift -underBinder -merge -useContext +onlyGivenNames s1
  try clear_value s1
  split
  · rename_i y2 y3 e5
    have k4 : Kept q y3 := kept_p2 e5 (kept_busRead h1)
    extract_lets -lift -underBinder -merge -useContext +onlyGivenNames s6
    try clear_value s6
    extract_lets -lift -underBinder -merge -useContext +onlyGivenNames s7
    try clear_value s7
    exact kept_ite (kept_dmaComplete k4) (kept_setDma k4)
  · rename_i y8 e10
    have k9 : Kept q y8 := kept_p2 e10 (kept_busRead h1)
    exact kept_dmaHalt k9
  · rename_i y11 y12 e14
    have k13 : Kept q y12 := kept_p2 e14 (kept_busRead h1)
    exact kept_dmaHalt k13

theorem kept_execWaitwordPoll {a0 : DmaCh} {s : State} (h : Kept q s) : KeptOut q (execWaitwordPoll a0 s) := by
  unfold execWaitwordPoll
  exact kept_act (fun _ k2 => kept_ite (kept_dmaPoll k2) k2) h

theorem kept_burstStore {s : State} {c : DmaCh} {d : Bytes} {l : List (Nat × Bytes)} (h : Kept q s) :
    Kept q (s.burstStore c d l).1 := by
  induction l generalizing s with
  | nil => exact h
  | cons x l ih =>
    obtain ⟨o, b⟩ := x
    unfold State.burstStore
    split
    · exact ih (kept_ite (kept_emitOut h) h)
    · dsimp only
      split
      · exact kept_busWrite h
      · exact ih (kept_busWrite h)

theorem kept_pieceStore {s : State} {c : DmaCh} {d : Bytes} {l : List (Nat × Bytes)} (h : Kept q s) :
    Kept q (s.pieceStore c d l).1 := by
  induction l generalizing s with
  | nil => exact h
  | cons x l ih =>
    obtain ⟨o, b⟩ := x
    unfold State.pieceStore
    split
    · rename_i y n e
      exact kept_p1 e (kept_burstStore h)
    · rename_i y e
      exact ih (kept_setDma (kept_p1 e (kept_burstStore h)))

theorem kept_splitDrain {a0 : State} (h1 : Kept q a0) : Kept q (State.splitDrain a0) := by
  unfold State.splitDrain
  split
  · exact h1
  · extract_lets -lift -underBinder -merge -useContext +onlyGivenNames s4
    try clear_value s4
    split
    · rename_i y5 y7 e8
      have k6 : Kept q y5 := kept_p1 e8 (kept_burstStore h1)
      exact kept_dmaHalt k6
    · rename_i y9 e11
      have k10 : Kept q y9 := kept_p1 e11 (kept_burstStore h1)
      extract_lets -lift -underBinder -merge -useContext +onlyGivenNames s12
      try clear_value s12
      extract_lets -lift -underBinder -merge -useContext +onlyGivenNames s13
      have k14 : Kept q s13 := by unfold s13; exact kept_setDma k10
      clear_value s13
      exact Kept.upd k14

theorem kept_burstRead {a0 : State} {a1 : DmaCh} {a2 : Bytes} {a3 : ℕ} {a4 : ℕ} {a5 : Bytes} (h1 : Kept q a0) : Kept q (State.burstRead a0 a1 a2 a3 a4 a5).2 := by
  unfold State.burstRead
  refine kept_ite_p2 ?_ ?_
  · exact h1
  · split
    · rename_i y1 y2 e4
      have k3 : Kept q y2 := kept_p2 e4 (kept_busRead h1)
      exact k3
    · rename_i y5 e7
      have k6 : Kept q y5 := kept_p2 e7 (kept_busRead h1)
      exact k6
    · rename_i y8 y9 e11
      have k10 : Kept q y9 := kept_p2 e11 (kept_busRead h1)
      exact k10

theorem kept_splitFill {a0 : State} {a1 : Bytes} (h1 : Kept q a0) : Kept q (State.splitFill a0 a1) := by
  unfold State.splitFill
  split
  · exact h1
  · extract_lets -lift -underBinder -merge -useContext +onlyGivenNames s3
    try clear_value s3
    extract_lets -lift -underBinder -merge -useContext +onlyGivenNames s4
    try clear_value s4
    extract_lets -lift -underBinder -merge -useContext +onlyGivenNames s5
    try clear_value s5
    extract_lets -lift -underBinder -merge -useContext +onlyGivenNames s6
    try clear_value s6
    refine kept_ite ?_ ?_
    · exact h1
    · split
      · rename_i y7 y8 e10
        have k9 : Kept q y8 := kept_p2 e10 (kept_burstRead h1)
        exact kept_dmaHalt k9
      · rename_i y11 y12 e14
        have k13 : Kept q y12 := kept_p2 e14 (kept_burstRead h1)
        extract_lets -lift -underBinder -merge -useContext +onlyGivenNames s15
        try clear_value s15
        extract_lets -lift -underBinder -merge -useContext +onlyGivenNames s16
        have k17 : Kept q s16 := by unfold s16; exact kept_setDma k13
        clear_value s16
        exact Kept.upd k17

theorem kept_splitStep {a0 : State} {a1 : Bytes} (h1 : Kept q a0) : Kept q (State.splitStep a0 a1) := by
  unfold State.splitStep
  refine kept_ite ?_ ?_
  · exact h1
  · extract_lets -lift -underBinder -merge -useContext +onlyGivenNames s1
    try clear_value s1
    extract_lets -lift -underBinder -merge -useContext +onlyGivenNames s2
    try clear_value s2
    extract_lets -lift -underBinder -merge -useContext +onlyGivenNames s3
    have k4 : Kept q s3 := by unfold s3; exact Kept.upd h1
    clear_value s3
    extract_lets -lift -underBinder -merge -useContext +onlyGivenNames s5
    have k6 : Kept q s5 := by unfold s5; exact kept_splitDrain k4
    clear_value s5
    exact kept_ite k6 (kept_splitFill k6)

theorem kept_dmaBurst {a0 : State} {a1 : DmaCh} {a2 : Bytes} (h1 : Kept q a0) : Kept q (State.dmaBurst a0 a1 a2) := by
  unfold State.dmaBurst
  extract_lets -lift -underBinder -merge -useContext +onlyGivenNames s1
  try clear_value s1
  extract_lets -lift -underBinder -merge -useContext +onlyGivenNames s2
  try clear_value s2
  extract_lets -lift -underBinder -merge -useContext +onlyGivenNames s3
  try clear_value s3
  extract_lets -lift -underBinder -merge -useContext +onlyGivenNames s4
  try clear_value s4
  split
  · rename_i y5 y6 e8
    have k7 : Kept q y6 := kept_p2 e8 (kept_burstRead h1)
    exact kept_dmaHalt k7
  · rename_i y9 y10 e12
    have k11 : Kept q y10 := kept_p2 e12 (kept_burstRead h1)
    refine kept_ite ?_ ?_
    · extract_lets -lift -underBinder -merge -useContext +onlyGivenNames s13
      try clear_value s13
      split
      · rename_i y14 y16 e17
        have k15 : Kept q y14 := kept_p1 e17 (kept_pieceStore k11)
        exact kept_dmaHalt k15
      · rename_i y18 e20
        have k19 : Kept q y18 := kept_p1 e20 (kept_pieceStore k11)
        exact k19
    · split
      · rename_i y21 y23 e24
        have k22 : Kept q y21 := kept_p1 e24 (kept_burstStore k11)
        exact kept_dmaHalt k22
      · rename_i y25 e27
        have k26 : Kept q y25 := kept_p1 e27 (kept_burstStore k11)
        extract_lets -lift -underBinder -merge -useContext +onlyGivenNames s28
        try clear_value s28
        exact kept_setDma k26

theorem kept_execDmaErrorHalt {a0 : DmaCh} {s : State} (h : Kept q s) : KeptOut q (execDmaErrorHalt a0 s) := by
  unfold execDmaErrorHalt
  refine kept_act ?_ h
  intro s3 k4
  extract_lets -lift -underBinder -merge -useContext +onlyGivenNames s5
  have k6 : Kept q s5 := by unfold s5; exact kept_ite k4 (kept_ite (kept_dmaPoll k4) (kept_ite (kept_splitStep k4) (kept_ite (kept_dmaBurst k4) k4)))
  clear_value s5
  exact kept_ite (Kept.upd k6) k4

theorem kept_dmaAdvance {a0 : State} {a1 : ℕ} {a2 : ℕ} (h1 : Kept q a0) : Kept q (State.dmaAdvance a0 a1 a2) := by
  unfold State.dmaAdvance
  exact Kept.upd h1

theorem kept_execBurstGrant {a0 : Bytes} {s : State} (h : Kept q s) : KeptOut q (execBurstGrant a0 s) := by
  unfold execBurstGrant
  refine kept_act ?_ h
  intro s3 k4
  refine kept_ite ?_ ?_
  · exact k4
  · refine kept_ite ?_ ?_
    · extract_lets -lift -underBinder -merge -useContext +onlyGivenNames s5
      have k6 : Kept q s5 := by unfold s5; exact kept_splitStep k4
      clear_value s5
      exact Kept.upd k6
    · split
      · exact k4
      · extract_lets -lift -underBinder -merge -useContext +onlyGivenNames s10
        have k11 : Kept q s10 := by unfold s10; exact kept_dmaBurst (kept_dmaAdvance k4)
        clear_value s10
        exact Kept.upd k11

end Sys2Proof.Machine
end

