-- ==== Sys2Proof/Laws/KeptHost.lean ====
section
/-! SUPPORT. The operations of Machine/Host.lean keep the form of memory and the queue. -/

namespace Sys2Proof.Machine
open Sys2Proof

variable {q : List Instr × Bool}

theorem kept_svcEnd {s : State} {st : Nat} {b : Bytes} (h : Kept q s) : Kept q (s.svcEnd st b) := by
  unfold State.svcEnd
  exact Kept.upd h

theorem kept_svcAct {f : State → State} (hf : ∀ s, Kept q s → Kept q (f s)) {s : State} (h : Kept q s) :
    KeptOut q (svcAct f s) := kept_act (fun _ k => kept_ite k (hf _ k)) h

theorem kept_piecesRead {s : State} {w : Initiator} {l : List (Nat × Nat)} (h : Kept q s) : Kept q (s.piecesRead w l).2 := by
  induction l generalizing s with
  | nil => exact h
  | cons x l ih =>
    obtain ⟨p, k⟩ := x
    unfold State.piecesRead
    split
    · rename_i b y e
      exact ih (kept_p2 e (kept_busRead h))
    · rename_i b y _ e
      exact kept_p2 e (kept_busRead h)

theorem kept_piecesWrite {s : State} {w : Initiator} {a : Nat} {b : Bytes} {l : List (Nat × Nat)} (h : Kept q s) :
    Kept q (s.piecesWrite w a b l).2 := by
  induction l generalizing s with
  | nil => exact h
  | cons x l ih =>
    obtain ⟨p, k⟩ := x
    unfold State.piecesWrite
    dsimp only
    split
    · exact kept_busWrite h
    · exact ih (kept_busWrite h)

theorem kept_hostPut {a0 : State} {a1 : List (ℕ × Bytes)} (h1 : Kept q a0) : Kept q (State.hostPut a0 a1).2 := by
  unfold State.hostPut
  refine foldl_keeps (P := fun (p : _ × State) => Kept q p.2) ?_ ?_
  · exact h1
  · intro s1 x3 k2
    beta_reduce
    extract_lets -lift -underBinder -merge -useContext +onlyGivenNames s4
    have k5 : Kept q s4 := by unfold s4; exact kept_busWrite k2
    clear_value s4
    exact k5

theorem kept_winWake {a0 : State} {a1 : HostWin} (h1 : Kept q a0) : Kept q (State.winWake a0 a1) := by
  unfold State.winWake
  exact kept_ite (kept_hostWake h1) h1

theorem kept_hostErr {a0 : State} {a1 : ℕ} {a2 : Bool} (h1 : Kept q a0) : Kept q (State.hostErr a0 a1 a2) := by
  unfold State.hostErr
  extract_lets -lift -underBinder -merge -useContext +onlyGivenNames s1
  try clear_value s1
  exact kept_signal (kept_setReg64 h1)

theorem kept_hostWrite {a0 : State} {a1 : HostReq} (h1 : Kept q a0) : Kept q (State.hostWrite a0 a1) := by
  unfold State.hostWrite
  split
  · rename_i y1 y2 e4
    have k3 : Kept q y2 := kept_p2 e4 (kept_hostPut h1)
    split
    · exact kept_ite (Kept.upd k3) (kept_done k3)
    · extract_lets -lift -underBinder -merge -useContext +onlyGivenNames s7
      have k8 : Kept q s7 := by unfold s7; exact kept_winWake k3
      clear_value s7
      exact kept_ite (kept_hostErr (Kept.upd k8)) (Kept.upd k8)

theorem kept_configWrite {a0 : State} {a1 : ℕ} {a2 : Bytes} (h1 : Kept q a0) : Kept q (State.configWrite a0 a1 a2) := by
  unfold State.configWrite
  refine kept_ite ?_ ?_
  · extract_lets -lift -underBinder -merge -useContext +onlyGivenNames s1
    try clear_value s1
    exact kept_done (kept_flushVectors (Kept.upd h1))
  · exact kept_done h1

theorem kept_configRead {a0 : State} {a1 : ℕ} {a2 : ℕ} (h1 : Kept q a0) : Kept q (State.configRead a0 a1 a2) := by
  unfold State.configRead
  extract_lets -lift -underBinder -merge -useContext +onlyGivenNames s1
  try clear_value s1
  split
  · exact Kept.upd h1
  · extract_lets -lift -underBinder -merge -useContext +onlyGivenNames s4
    have k5 : Kept q s4 := by unfold s4; exact kept_drawn h1
    clear_value s4
    exact Kept.upd k5

theorem kept_hostRead {a0 : State} {a1 : HostReq} (h1 : Kept q a0) : Kept q (State.hostRead a0 a1) := by
  unfold State.hostRead
  refine kept_ite ?_ ?_
  · exact Kept.upd h1
  · split
    · rename_i y1 y2 e4
      have k3 : Kept q y2 := kept_p2 e4 (kept_busRead h1)
      split
      · exact Kept.upd k3
      · exact Kept.upd k3
      · exact kept_winWake (Kept.upd k3)

theorem kept_execHostRequest {a0 : HostReq} {s : State} (h : Kept q s) : KeptOut q (execHostRequest a0 s) := by
  unfold execHostRequest
  refine kept_act ?_ h
  intro s3 k4
  extract_lets -lift -underBinder -merge -useContext +onlyGivenNames s5
  try clear_value s5
  exact kept_ite k4 (kept_ite (kept_ite (Kept.upd k4) (kept_ite (kept_configWrite k4) (kept_configRead k4))) (kept_ite k4 (kept_ite (kept_ite k4 (Kept.upd k4)) (kept_ite (kept_hostWrite k4) (kept_hostRead k4)))))

theorem kept_execSvcStatus {s : State} (h : Kept q s) : KeptOut q (execSvcStatus s) := by
  unfold execSvcStatus
  exact kept_svcAct (fun _ k2 => Kept.upd k2) h

theorem kept_execSvcWrite {a0 : Bytes} {s : State} (h : Kept q s) : KeptOut q (execSvcWrite a0 s) := by
  unfold execSvcWrite
  refine kept_svcAct ?_ h
  intro s3 k4
  refine kept_ite ?_ ?_
  · exact kept_svcEnd k4
  · split
    · exact kept_svcEnd k4
    · refine kept_ite ?_ ?_
      · exact kept_svcEnd k4
      · split
        · rename_i y8 y9 e11
          have k10 : Kept q y9 := kept_p2 e11 (kept_piecesWrite k4)
          exact kept_svcEnd k10

theorem kept_execSvcRead {a0 : Bytes} {s : State} (h : Kept q s) : KeptOut q (execSvcRead a0 s) := by
  unfold execSvcRead
  refine kept_svcAct ?_ h
  intro s3 k4
  refine kept_ite ?_ ?_
  · exact kept_svcEnd k4
  · split
    · exact kept_svcEnd k4
    · split
      · rename_i y8 y9 e11
        have k10 : Kept q y9 := kept_p2 e11 (kept_piecesRead k4)
        exact kept_svcEnd k10
      · rename_i y12 e14
        have k13 : Kept q y12 := kept_p2 e14 (kept_piecesRead k4)
        exact kept_svcEnd k13

end Sys2Proof.Machine
end

