-- ==== Sys2Proof/Laws/KeptItemApply.lean ====
section
/-! SUPPORT. The operations of Machine/ItemApply.lean keep the form of memory and the queue. -/

namespace Sys2Proof.Machine
open Sys2Proof

variable {q : List Instr × Bool}

theorem kept_applyItem {a0 : State} {a1 : QItem} (h1 : Kept q a0) : Kept q (State.applyItem a0 a1) := by
  unfold State.applyItem
  split
  · exact kept_applyFftCfg h1
  · exact kept_applyWola h1
  · exact kept_applyCarrier h1
  · exact kept_applyFltSwap h1
  · exact kept_applyCfrCfg h1
  · exact kept_applyDpdSwap h1
  · exact kept_applySicCtl h1
  · exact kept_ite (kept_applyGainRx h1) (kept_applyGainTx h1)
  · exact kept_applyDcFreeze h1
  · exact kept_applyFeCtl h1
  · exact kept_applyLoCtl h1
  · exact kept_applyPwrCtl h1
  · exact kept_applyResume h1
  · exact kept_applyCoef h1
  · exact h1
  · exact h1
  · exact kept_passMarker h1

theorem kept_applyDue {a0 : State} {a1 : Port} {a2 : ℕ} {a3 : Bool} (h1 : Kept q a0) : Kept q (State.applyDue a0 a1 a2 a3) := by
  unfold State.applyDue
  split
  · exact h1
  · extract_lets -lift -underBinder -merge -useContext +onlyGivenNames s3
    try clear_value s3
    extract_lets -lift -underBinder -merge -useContext +onlyGivenNames s4
    have k5 : Kept q s4 := by unfold s4; exact kept_ite (kept_bump h1) h1
    clear_value s4
    exact kept_applyItem (Kept.upd k5)

theorem kept_execItemApply {a0 : Port} {a1 : Tile} {s : State} (h : Kept q s) : KeptOut q (execItemApply a0 a1 s) := by
  unfold execItemApply
  exact kept_act (fun _ k2 => kept_ite k2 (kept_applyDue k2)) h

theorem kept_execLateItemApply {a0 : Port} {a1 : Tile} {s : State} (h : Kept q s) : KeptOut q (execLateItemApply a0 a1 s) := by
  unfold execLateItemApply
  exact kept_act (fun _ k2 => kept_ite k2 (kept_applyDue k2)) h

end Sys2Proof.Machine
end

