-- ==== Sys2Proof/Laws/KeptLinkRx.lean ====
section
/-! SUPPORT. The operations of Machine/LinkRx.lean keep the form of memory and the queue. -/

namespace Sys2Proof.Machine
open Sys2Proof

variable {q : List Instr × Bool}

theorem kept_takeWord {a0 : State} {a1 : ℕ} {a2 : BitVec 64} (h1 : Kept q a0) : Kept q (State.takeWord a0 a1 a2) := by
  unfold State.takeWord
  refine kept_ite ?_ ?_
  · exact kept_protErr h1
  · split
    · exact kept_takeCredit h1
    · exact kept_ite (kept_takeAck h1) h1
    · exact kept_takeLreset h1
    · exact kept_protErr h1

theorem kept_linkctlIn {a0 : State} {a1 : ℕ} {a2 : Frame} (h1 : Kept q a0) : Kept q (State.linkctlIn a0 a1 a2) := by
  unfold State.linkctlIn
  extract_lets -lift -underBinder -merge -useContext +onlyGivenNames s1
  try clear_value s1
  extract_lets -lift -underBinder -merge -useContext +onlyGivenNames s2
  try clear_value s2
  refine kept_ite ?_ ?_
  · exact kept_protErr h1
  · refine kept_foldl ?_ ?_
    · exact h1
    · intro s3 x5 k4
      exact kept_takeWord k4

theorem kept_seqIn {a0 : State} {a1 : ℕ} {a2 : Frame} (h1 : Kept q a0) : Kept q (State.seqIn a0 a1 a2).2 := by
  unfold State.seqIn
  extract_lets -lift -underBinder -merge -useContext +onlyGivenNames s1
  try clear_value s1
  extract_lets -lift -underBinder -merge -useContext +onlyGivenNames s2
  try clear_value s2
  extract_lets -lift -underBinder -merge -useContext +onlyGivenNames s3
  try clear_value s3
  refine kept_ite_p2 ?_ ?_
  · extract_lets -lift -underBinder -merge -useContext +onlyGivenNames s4
    have k5 : Kept q s4 := by unfold s4; exact kept_ite h1 (kept_bump h1)
    clear_value s4
    exact kept_setVl k5
  · refine kept_ite_p2 ?_ ?_
    · extract_lets -lift -underBinder -merge -useContext +onlyGivenNames s6
      have k7 : Kept q s6 := by unfold s6; exact kept_queueWords (kept_setVl h1)
      clear_value s6
      exact kept_freeUnits k7
    · refine kept_ite_p2 ?_ ?_
      · exact kept_queueWords h1
      · extract_lets -lift -underBinder -merge -useContext +onlyGivenNames s8
        try clear_value s8
        exact kept_ite_p2 h1 (kept_queueWords (kept_setVl h1))

theorem kept_ingressData {a0 : State} {a1 : Port} {a2 : ℕ} {a3 : Item} {a4 : Item → State → State} (h1 : Kept q a0) (h5 : ∀ x0 x1, Kept q x1 → Kept q (a4 x0 x1)) : Kept q (State.ingressData a0 a1 a2 a3 a4) := by
  unfold State.ingressData
  extract_lets -lift -underBinder -merge -useContext +onlyGivenNames s1
  try clear_value s1
  extract_lets -lift -underBinder -merge -useContext +onlyGivenNames s2
  try clear_value s2
  extract_lets -lift -underBinder -merge -useContext +onlyGivenNames s3
  try clear_value s3
  refine kept_ite ?_ ?_
  · exact kept_signalAll (kept_bump h1)
  · refine kept_ite ?_ ?_
    · exact kept_signalAll (kept_bump h1)
    · extract_lets -lift -underBinder -merge -useContext +onlyGivenNames s4
      have k5 : Kept q s4 := by unfold s4; exact kept_ite (kept_bump h1) h1
      clear_value s4
      exact kept_ite (Kept.upd k5) (kept_arrive k5 (fun _  _ k8 => h5 _ _ k8))

theorem kept_consumeTagged {a0 : State} {a1 : ℕ} {a2 : Bytes} (h1 : Kept q a0) : Kept q (State.consumeTagged a0 a1 a2) := by
  unfold State.consumeTagged
  extract_lets -lift -underBinder -merge -useContext +onlyGivenNames s1
  try clear_value s1
  extract_lets -lift -underBinder -merge -useContext +onlyGivenNames s2
  try clear_value s2
  refine kept_ite ?_ ?_
  · exact kept_signalAll (kept_bump h1)
  · refine kept_ite ?_ ?_
    · exact kept_bump h1
    · split
      · exact kept_ingressData h1 (fun _  _ k6 => kept_takeFd k6)
      · exact kept_ingressData h1 (fun _  _ k10 => kept_takeTd k10)
      · exact kept_arrive h1 (fun _  _ k14 => kept_takeSection k14)
      · exact kept_arrive h1 (fun _  _ k18 => kept_takePartial k18)
      · exact kept_arrive h1 (fun _  _ k22 => k22)

theorem kept_answered1 {a0 : State} {a1 : Frame} (h1 : Kept q a0) : Kept q (State.answered1 a0 a1) := by
  unfold State.answered1
  extract_lets -lift -underBinder -merge -useContext +onlyGivenNames s1
  try clear_value s1
  extract_lets -lift -underBinder -merge -useContext +onlyGivenNames s2
  try clear_value s2
  split
  · exact kept_setPort h1
  · exact h1

theorem kept_fromDown {a0 : State} {a1 : Frame} (h1 : Kept q a0) : Kept q (State.fromDown a0 a1) := by
  unfold State.fromDown
  refine kept_ite ?_ ?_
  · exact kept_consumeTagged h1
  · refine kept_ite ?_ ?_
    · exact kept_ptpUp h1
    · extract_lets -lift -underBinder -merge -useContext +onlyGivenNames s1
      have k2 : Kept q s1 := by unfold s1; exact kept_ite (kept_answered1 h1) h1
      clear_value s1
      extract_lets -lift -underBinder -merge -useContext +onlyGivenNames s3
      try clear_value s3
      exact kept_sendUp k2

theorem kept_mgmtReply {a0 : State} {a1 : ℕ} {a2 : ℕ} {a3 : Bytes} (h1 : Kept q a0) : Kept q (State.mgmtReply a0 a1 a2 a3) := by
  unfold State.mgmtReply
  exact kept_sendOwn h1

theorem kept_forwardDown {a0 : State} {a1 : Frame} (h1 : Kept q a0) : Kept q (State.forwardDown a0 a1) := by
  unfold State.forwardDown
  refine kept_ite ?_ ?_
  · extract_lets -lift -underBinder -merge -useContext +onlyGivenNames s1
    have k2 : Kept q s1 := by unfold s1; exact kept_egress h1
    clear_value s1
    refine kept_ite ?_ ?_
    · extract_lets -lift -underBinder -merge -useContext +onlyGivenNames s3
      try clear_value s3
      exact kept_setPort k2
    · exact k2
  · extract_lets -lift -underBinder -merge -useContext +onlyGivenNames s4
    have k5 : Kept q s4 := by unfold s4; exact kept_bump h1
    clear_value s4
    exact kept_ite (kept_mgmtReply k5) k5

theorem kept_mgmtDoUpdate {a0 : State} {a1 : ℕ} {a2 : Bytes} (h1 : Kept q a0) : Kept q (State.mgmtDoUpdate a0 a1 a2) := by
  unfold State.mgmtDoUpdate
  extract_lets -lift -underBinder -merge -useContext +onlyGivenNames s1
  try clear_value s1
  extract_lets -lift -underBinder -merge -useContext +onlyGivenNames s2
  try clear_value s2
  extract_lets -lift -underBinder -merge -useContext +onlyGivenNames s3
  try clear_value s3
  extract_lets -lift -underBinder -merge -useContext +onlyGivenNames s4
  try clear_value s4
  extract_lets -lift -underBinder -merge -useContext +onlyGivenNames s5
  try clear_value s5
  extract_lets -lift -underBinder -merge -useContext +onlyGivenNames s6
  have k7 : Kept q s6 := by unfold s6; exact kept_session (Kept.upd h1)
  clear_value s6
  split
  · extract_lets -lift -underBinder -merge -useContext +onlyGivenNames s10
    have k11 : Kept q s10 := by unfold s10; exact Kept.upd k7
    clear_value s10
    exact kept_ite (kept_putFrame k11) (kept_mgmtReply k11)

theorem kept_mgmtDoRead {a0 : State} {a1 : ℕ} (h1 : Kept q a0) : Kept q (State.mgmtDoRead a0 a1) := by
  unfold State.mgmtDoRead
  split
  · rename_i y1 y2 e4
    have k3 : Kept q y2 := kept_p2 e4 (kept_piecesRead h1)
    exact kept_mgmtReply k3
  · rename_i y5 e7
    have k6 : Kept q y5 := kept_p2 e7 (kept_piecesRead h1)
    exact kept_mgmtReply k6

theorem kept_mgmtDoWrite {a0 : State} {a1 : ℕ} {a2 : Bytes} (h1 : Kept q a0) : Kept q (State.mgmtDoWrite a0 a1 a2) := by
  unfold State.mgmtDoWrite
  split
  · rename_i y1 y2 e4
    have k3 : Kept q y2 := kept_p2 e4 (kept_piecesWrite h1)
    exact kept_mgmtReply (Kept.upd k3)

theorem kept_mgmtReq {a0 : State} {a1 : Bytes} (h1 : Kept q a0) : Kept q (State.mgmtReq a0 a1) := by
  unfold State.mgmtReq
  extract_lets -lift -underBinder -merge -useContext +onlyGivenNames s1
  try clear_value s1
  extract_lets -lift -underBinder -merge -useContext +onlyGivenNames s2
  try clear_value s2
  extract_lets -lift -underBinder -merge -useContext +onlyGivenNames s3
  have k4 : Kept q s3 := by unfold s3; exact kept_signal h1
  clear_value s3
  refine kept_ite ?_ ?_
  · exact kept_mgmtReply k4
  · refine kept_ite ?_ ?_
    · exact kept_mgmtReply k4
    · split
      · exact kept_mgmtDoUpdate k4
      · exact kept_ite (kept_mgmtReply k4) (kept_ite (kept_mgmtDoRead k4) (kept_mgmtDoWrite k4))

theorem kept_consume {a0 : State} {a1 : ℕ} {a2 : Frame} (h1 : Kept q a0) : Kept q (State.consume a0 a1 a2) := by
  unfold State.consume
  split
  · exact kept_consumeTagged h1
  · exact kept_mgmtReq h1
  · exact kept_ite (Kept.upd h1) (kept_ptpTake h1)
  · exact h1

theorem kept_fromUp {a0 : State} {a1 : ℕ} {a2 : Frame} (h1 : Kept q a0) : Kept q (State.fromUp a0 a1 a2) := by
  unfold State.fromUp
  extract_lets -lift -underBinder -merge -useContext +onlyGivenNames s1
  have k2 : Kept q s1 := by unfold s1; exact kept_ite (kept_forwardDown h1) h1
  clear_value s1
  exact kept_ite (kept_consume k2) k2

theorem kept_frameIn {a0 : State} {a1 : ℕ} {a2 : Frame} (h1 : Kept q a0) : Kept q (State.frameIn a0 a1 a2) := by
  unfold State.frameIn
  extract_lets -lift -underBinder -merge -useContext +onlyGivenNames s1
  try clear_value s1
  refine kept_ite ?_ ?_
  · exact h1
  · refine kept_ite ?_ ?_
    · exact kept_signal (kept_bump h1)
    · refine kept_ite ?_ ?_
      · exact kept_linkctlIn h1
      · refine kept_ite ?_ ?_
        · exact h1
        · split
          · rename_i y2 e4
            have k3 : Kept q y2 := kept_p2 e4 (kept_seqIn h1)
            exact k3
          · rename_i y5 e7
            have k6 : Kept q y5 := kept_p2 e7 (kept_seqIn h1)
            extract_lets -lift -underBinder -merge -useContext +onlyGivenNames s8
            have k9 : Kept q s8 := by unfold s8; exact kept_ite (kept_protErr k6) (kept_ite (kept_fromDown k6) (kept_fromUp k6))
            clear_value s8
            exact kept_ite (kept_freeVc2 k9) k9

theorem kept_frameRow {a0 : State} {a1 : ℕ} {a2 : Frame} (h1 : Kept q a0) : Kept q (State.frameRow a0 a1 a2) := by
  unfold State.frameRow
  split
  · rename_i y1 e3
    have k2 : Kept q y1 := kept_osome e3 (kept_portIn h1)
    exact kept_ite h1 (kept_frameIn k2)
  · exact h1

theorem kept_execBulk {a0 : LPort} {a1 : Frame} {s : State} (h : Kept q s) : KeptOut q (execBulk a0 a1 s) := by
  unfold execBulk
  exact kept_act (fun _ k2 => kept_frameRow k2) h

theorem kept_execEventFrame {a0 : LPort} {a1 : Frame} {s : State} (h : Kept q s) : KeptOut q (execEventFrame a0 a1 s) := by
  unfold execEventFrame
  exact kept_act (fun _ k2 => kept_frameRow k2) h

theorem kept_execMgmtRsp {a0 : LPort} {a1 : Frame} {s : State} (h : Kept q s) : KeptOut q (execMgmtRsp a0 a1 s) := by
  unfold execMgmtRsp
  exact kept_act (fun _ k2 => kept_frameRow k2) h

theorem kept_execTaggedFrame {a0 : LPort} {a1 : Frame} {s : State} (h : Kept q s) : KeptOut q (execTaggedFrame a0 a1 s) := by
  unfold execTaggedFrame
  exact kept_act (fun _ k2 => kept_frameRow k2) h

theorem kept_execLinkctl {a0 : LPort} {a1 : Frame} {s : State} (h : Kept q s) : KeptOut q (execLinkctl a0 a1 s) := by
  unfold execLinkctl
  exact kept_act (fun _ k2 => kept_frameRow k2) h

theorem kept_execMgmtWrite {a0 : LPort} {a1 : Frame} {s : State} (h : Kept q s) : KeptOut q (execMgmtWrite a0 a1 s) := by
  unfold execMgmtWrite
  exact kept_act (fun _ k2 => kept_frameRow k2) h

theorem kept_etherIn {a0 : State} {a1 : LPort} {a2 : EthFrame} (h1 : Kept q a0) : Kept q (State.etherIn a0 a1 a2) := by
  unfold State.etherIn
  exact kept_ite h1 (kept_ite (kept_bump h1) (kept_ite (kept_frameIn h1) (kept_ite (kept_annexE h1) (kept_bump h1))))

theorem kept_execTsyncAnnounce {a0 : LPort} {a1 : Frame} {s : State} (h : Kept q s) : KeptOut q (execTsyncAnnounce a0 a1 s) := by
  unfold execTsyncAnnounce
  exact kept_act (fun _ k2 => kept_frameRow k2) h

theorem kept_execMgmtRead {a0 : LPort} {a1 : Frame} {s : State} (h : Kept q s) : KeptOut q (execMgmtRead a0 a1 s) := by
  unfold execMgmtRead
  exact kept_act (fun _ k2 => kept_frameRow k2) h

theorem kept_execEthernetFrame {a0 : LPort} {a1 : EthFrame} {s : State} (h : Kept q s) : KeptOut q (execEthernetFrame a0 a1 s) := by
  unfold execEthernetFrame
  refine kept_act ?_ h
  intro s3 k4
  split
  · rename_i y5 e7
    have k6 : Kept q y5 := kept_osome e7 (kept_portIn k4)
    exact kept_etherIn k6
  · exact k4

theorem kept_execMgmtUpdate {a0 : LPort} {a1 : Frame} {s : State} (h : Kept q s) : KeptOut q (execMgmtUpdate a0 a1 s) := by
  unfold execMgmtUpdate
  exact kept_act (fun _ k2 => kept_frameRow k2) h

end Sys2Proof.Machine
end

