-- ==== Sys2Proof/Laws/KeptSeqIo.lean ====
section
/-! SUPPORT. The operations of Machine/SeqIo.lean keep the form of memory and the queue. -/

namespace Sys2Proof.Machine
open Sys2Proof

variable {q : List Instr × Bool}

theorem kept_seqStore {a0 : State} {a1 : Seq} {a2 : GReg} {a3 : GReg} {a4 : Imm16} {a5 : ℕ} (h1 : Kept q a0) : Kept q (State.seqStore a0 a1 a2 a3 a4 a5) := by
  unfold State.seqStore
  refine kept_seqIssue h1 ?_
  · intro s7 s8 k9
    extract_lets -lift -underBinder -merge -useContext +onlyGivenNames s10
    try clear_value s10
    refine kept_ite ?_ ?_
    · exact kept_seqFault k9
    · extract_lets -lift -underBinder -merge -useContext +onlyGivenNames s11
      try clear_value s11
      extract_lets -lift -underBinder -merge -useContext +onlyGivenNames s12
      have k13 : Kept q s12 := by unfold s12; exact kept_busWrite k9
      clear_value s12
      extract_lets -lift -underBinder -merge -useContext +onlyGivenNames s14
      try clear_value s14
      extract_lets -lift -underBinder -merge -useContext +onlyGivenNames s15
      have k16 : Kept q s15 := by unfold s15; exact Kept.upd k13
      clear_value s15
      exact kept_ite (kept_seqFault k16) (kept_ite k16 (kept_seqNext k16))

theorem kept_execSeqSd {a0 : Seq} {a1 : GReg} {a2 : GReg} {a3 : Imm16} {s : State} (h : Kept q s) : KeptOut q (execSeqSd a0 a1 a2 a3 s) := by
  unfold execSeqSd
  exact kept_act (fun _ k2 => kept_seqStore k2) h

theorem kept_seqRead {a0 : State} {a1 : Seq} {a2 : ℕ} {a3 : ℕ} (h1 : Kept q a0) : Kept q (State.seqRead a0 a1 a2 a3).2 := by
  unfold State.seqRead
  split
  · rename_i y1 e3
    have k2 : Kept q y1 := kept_p2 e3 (kept_busRead h1)
    exact k2
  · rename_i y4 y5 e7
    have k6 : Kept q y5 := kept_p2 e7 (kept_busRead h1)
    split
    · rename_i y8 y10 e11
      have k9 : Kept q y8 := kept_p1 e11 (kept_secondHalf k6)
      exact kept_ite_p2 (kept_poisonRead k9) k9
  · rename_i y12 y13 e15
    have k14 : Kept q y13 := kept_p2 e15 (kept_busRead h1)
    split
    · rename_i y16 y18 e19
      have k17 : Kept q y16 := kept_p1 e19 (kept_secondHalf k14)
      exact k17

theorem kept_seqPut {a0 : State} {a1 : NetItem} (h1 : Kept q a0) : Kept q (State.seqPut a0 a1) := by
  unfold State.seqPut
  refine kept_ite ?_ ?_
  · exact kept_bump h1
  · extract_lets -lift -underBinder -merge -useContext +onlyGivenNames s1
    have k2 : Kept q s1 := by unfold s1; exact Kept.upd h1
    clear_value s1
    exact kept_ite (kept_bump k2) k2

theorem kept_seqSendNow {a0 : State} {a1 : ℕ} {a2 : List NetItem} (h1 : Kept q a0) : Kept q (State.seqSendNow a0 a1 a2) := by
  unfold State.seqSendNow
  extract_lets -lift -underBinder -merge -useContext +onlyGivenNames s1
  have k2 : Kept q s1 := by
    unfold s1
    refine kept_foldl ?_ ?_
    · exact h1
    · intro s5 x7 k6
      exact kept_seqPut k6
  clear_value s1
  extract_lets -lift -underBinder -merge -useContext +onlyGivenNames s3
  try clear_value s3
  extract_lets -lift -underBinder -merge -useContext +onlyGivenNames s4
  try clear_value s4
  exact kept_seqNext (kept_setSeq k2)

theorem kept_seqSend {a0 : State} {a1 : ℕ} {a2 : List NetItem} (h1 : Kept q a0) : Kept q (State.seqSend a0 a1 a2) := by
  unfold State.seqSend
  exact kept_ite (kept_seqSendNow h1) (kept_setSeq h1)

theorem kept_seqForm {a0 : State} {a1 : ℕ} {a2 : SeqSt} {a3 : Port} {a4 : BitVec 64} {a5 : Tag} {a6 : Bytes} (h1 : Kept q a0) : Kept q (State.seqForm a0 a1 a2 a3 a4 a5 a6) := by
  unfold State.seqForm
  exact kept_ite (kept_seqFault h1) (kept_seqSend h1)

theorem kept_execSeqPrep {a0 : Seq} {a1 : GReg} {a2 : GReg} {a3 : GReg} {a4 : BitVec 11} {s : State} (h : Kept q s) : KeptOut q (execSeqPrep a0 a1 a2 a3 a4 s) := by
  unfold execSeqPrep
  refine kept_act ?_ h
  intro s6 k7
  refine kept_seqIssue k7 ?_
  · intro s14 s15 k16
    extract_lets -lift -underBinder -merge -useContext +onlyGivenNames s17
    try clear_value s17
    exact kept_ite (kept_seqFault k16) (kept_seqForm k16)

theorem kept_squashNow {a0 : State} {a1 : ℕ} {a2 : Air} (h1 : Kept q a0) : Kept q (State.squashNow a0 a1 a2) := by
  unfold State.squashNow
  extract_lets -lift -underBinder -merge -useContext +onlyGivenNames s1
  try clear_value s1
  extract_lets -lift -underBinder -merge -useContext +onlyGivenNames s2
  have k3 : Kept q s2 := by
    unfold s2
    refine kept_foldl ?_ ?_
    · exact h1
    · intro s11 x13 k12
      exact kept_seqPut k12
  clear_value s2
  extract_lets -lift -underBinder -merge -useContext +onlyGivenNames s4
  try clear_value s4
  extract_lets -lift -underBinder -merge -useContext +onlyGivenNames s5
  try clear_value s5
  extract_lets -lift -underBinder -merge -useContext +onlyGivenNames s6
  try clear_value s6
  extract_lets -lift -underBinder -merge -useContext +onlyGivenNames s7
  have k8 : Kept q s7 := by unfold s7; exact kept_bump k3
  clear_value s7
  refine kept_ite ?_ ?_
  · extract_lets -lift -underBinder -merge -useContext +onlyGivenNames s9
    have k10 : Kept q s9 := by unfold s9; exact kept_setSeq k8
    clear_value s9
    exact kept_seqGoto (kept_signal (kept_bump k10))
  · exact kept_seqGoto (kept_setSeq k8)

theorem kept_squashTry {a0 : State} {a1 : ℕ} {a2 : Air} (h1 : Kept q a0) : Kept q (State.squashTry a0 a1 a2) := by
  unfold State.squashTry
  extract_lets -lift -underBinder -merge -useContext +onlyGivenNames s1
  try clear_value s1
  exact kept_ite (kept_squashNow h1) (kept_setSeq h1)

theorem kept_execSeqSquashStallEnd {a0 : Seq} {s : State} (h : Kept q s) : KeptOut q (execSeqSquashStallEnd a0 s) := by
  unfold execSeqSquashStallEnd
  refine kept_act ?_ h
  intro s3 k4
  extract_lets -lift -underBinder -merge -useContext +onlyGivenNames s5
  try clear_value s5
  refine kept_ite ?_ ?_
  · exact k4
  · refine kept_ite ?_ ?_
    · exact kept_seqRefusal k4
    · split
      · exact kept_ite k4 (kept_squashTry k4)
      · exact k4

theorem kept_execSeqHop {a0 : Seq} {a1 : GReg} {a2 : GReg} {a3 : GReg} {a4 : BitVec 11} {s : State} (h : Kept q s) : KeptOut q (execSeqHop a0 a1 a2 a3 a4 s) := by
  unfold execSeqHop
  refine kept_act ?_ h
  intro s6 k7
  refine kept_seqIssue k7 ?_
  · intro s14 s15 k16
    extract_lets -lift -underBinder -merge -useContext +onlyGivenNames s17
    try clear_value s17
    exact kept_ite (kept_seqFault k16) (kept_ite (kept_seqFault k16) (kept_seqForm k16))

theorem kept_execSeqStallEnd {a0 : Seq} {s : State} (h : Kept q s) : KeptOut q (execSeqStallEnd a0 s) := by
  unfold execSeqStallEnd
  refine kept_act ?_ h
  intro s3 k4
  extract_lets -lift -underBinder -merge -useContext +onlyGivenNames s5
  try clear_value s5
  refine kept_ite ?_ ?_
  · exact k4
  · refine kept_ite ?_ ?_
    · exact kept_seqRefusal k4
    · split
      · exact kept_ite (kept_seqNext k4) k4
      · exact kept_ite (kept_seqSendNow k4) k4
      · exact kept_squashTry k4
      · split
        · exact kept_seqNext (kept_setSeq k4)
        · exact k4
      · exact k4

theorem kept_queuePop {a0 : State} {a1 : Bool} (h1 : Kept q a0) : Kept q (State.queuePop a0 a1) := by
  unfold State.queuePop
  extract_lets -lift -underBinder -merge -useContext +onlyGivenNames s1
  try clear_value s1
  exact kept_setIq h1

theorem kept_queueSend {a0 : State} {a1 : Bool} {a2 : List NetItem} (h1 : Kept q a0) : Kept q (State.queueSend a0 a1 a2) := by
  unfold State.queueSend
  extract_lets -lift -underBinder -merge -useContext +onlyGivenNames s1
  have k2 : Kept q s1 := by unfold s1; exact kept_queuePop h1
  clear_value s1
  exact Kept.upd k2

theorem kept_readImage {a0 : State} {a1 : Seq} {a2 : BitVec 6} {a3 : ℕ} (h1 : Kept q a0) : Kept q (State.readImage a0 a1 a2 a3).2 := by
  unfold State.readImage
  refine kept_ite_p2 ?_ ?_
  · exact h1
  · refine kept_ite_p2 ?_ ?_
    · exact h1
    · split
      · rename_i y1 y2 e4
        have k3 : Kept q y2 := kept_p2 e4 (kept_seqRead h1)
        exact k3
      · rename_i y5 y6 e8
        have k7 : Kept q y6 := kept_p2 e8 (kept_seqRead h1)
        extract_lets -lift -underBinder -merge -useContext +onlyGivenNames s9
        try clear_value s9
        extract_lets -lift -underBinder -merge -useContext +onlyGivenNames s10
        try clear_value s10
        refine kept_ite_p2 ?_ ?_
        · exact k7
        · refine kept_ite_p2 ?_ ?_
          · exact k7
          · refine kept_ite_p2 ?_ ?_
            · exact k7
            · split
              · rename_i y11 y12 e14
                have k13 : Kept q y12 := kept_p2 e14 (kept_seqRead k7)
                exact k13
              · rename_i y15 y16 e18
                have k17 : Kept q y16 := kept_p2 e18 (kept_seqRead k7)
                exact k17

theorem kept_seqEmitWith {a0 : State} {a1 : Seq} {a2 : GReg} {a3 : GReg} {a4 : BitVec 8} {a5 : BitVec 8} {a6 : SeqSt → NetItem → State → State} (h1 : Kept q a0) (h7 : ∀ x0 x1 x2, Kept q x2 → Kept q (a6 x0 x1 x2)) : Kept q (State.seqEmitWith a0 a1 a2 a3 a4 a5 a6) := by
  unfold State.seqEmitWith
  refine kept_seqIssue h1 ?_
  · intro s7 s8 k9
    extract_lets -lift -underBinder -merge -useContext +onlyGivenNames s10
    try clear_value s10
    split
    · exact kept_seqFault k9
    · split
      · exact kept_seqFault k9
      · refine kept_ite ?_ ?_
        · exact kept_seqFault k9
        · split
          · rename_i y15 y16 e18
            have k17 : Kept q y16 := kept_p2 e18 (kept_readImage k9)
            exact kept_seqFault k17
          · rename_i y19 y20 y21 e23
            have k22 : Kept q y21 := kept_p2 e23 (kept_readImage k9)
            extract_lets -lift -underBinder -merge -useContext +onlyGivenNames s24
            try clear_value s24
            exact kept_ite (kept_seqFault k22) (kept_ite (kept_seqFault k22) (h7 _ _ _ k22))

theorem kept_execSeqEmitTry {a0 : Seq} {a1 : GReg} {a2 : GReg} {a3 : BitVec 8} {a4 : BitVec 8} {s : State} (h : Kept q s) : KeptOut q (execSeqEmitTry a0 a1 a2 a3 a4 s) := by
  unfold execSeqEmitTry
  refine kept_act ?_ h
  intro s7 k8
  refine kept_seqEmitWith k8 ?_
  · intro s17 s18 s19 k20
    extract_lets -lift -underBinder -merge -useContext +onlyGivenNames s21
    try clear_value s21
    extract_lets -lift -underBinder -merge -useContext +onlyGivenNames s22
    have k23 : Kept q s22 := by unfold s22; exact kept_setSeq k20
    clear_value s22
    exact kept_ite (kept_seqSendNow k23) (kept_seqNext k23)

theorem kept_seqLoad {a0 : State} {a1 : Seq} {a2 : GReg} {a3 : GReg} {a4 : Imm16} {a5 : ℕ} (h1 : Kept q a0) : Kept q (State.seqLoad a0 a1 a2 a3 a4 a5) := by
  unfold State.seqLoad
  refine kept_seqIssue h1 ?_
  · intro s7 s8 k9
    extract_lets -lift -underBinder -merge -useContext +onlyGivenNames s10
    try clear_value s10
    refine kept_ite ?_ ?_
    · exact kept_seqFault k9
    · split
      · rename_i y11 y12 e14
        have k13 : Kept q y12 := kept_p2 e14 (kept_seqRead k9)
        exact kept_seqNext (kept_setSeq k13)
      · rename_i y15 y16 e18
        have k17 : Kept q y16 := kept_p2 e18 (kept_seqRead k9)
        exact kept_seqFault k17

theorem kept_execSeqEmit {a0 : Seq} {a1 : GReg} {a2 : GReg} {a3 : BitVec 8} {a4 : BitVec 8} {s : State} (h : Kept q s) : KeptOut q (execSeqEmit a0 a1 a2 a3 a4 s) := by
  unfold execSeqEmit
  exact kept_act (fun _ k2 => kept_seqEmitWith k2 (fun _  _  _ k6 => kept_seqSend k6)) h

theorem kept_queueDiscard {a0 : State} {a1 : Bool} {a2 : ℕ} (h1 : Kept q a0) : Kept q (State.queueDiscard a0 a1 a2) := by
  unfold State.queueDiscard
  exact kept_iqError (kept_queuePop h1)

theorem kept_execSeqSb {a0 : Seq} {a1 : GReg} {a2 : GReg} {a3 : Imm16} {s : State} (h : Kept q s) : KeptOut q (execSeqSb a0 a1 a2 a3 s) := by
  unfold execSeqSb
  exact kept_act (fun _ k2 => kept_seqStore k2) h

theorem kept_execSeqSw {a0 : Seq} {a1 : GReg} {a2 : GReg} {a3 : Imm16} {s : State} (h : Kept q s) : KeptOut q (execSeqSw a0 a1 a2 a3 s) := by
  unfold execSeqSw
  exact kept_act (fun _ k2 => kept_seqStore k2) h

theorem kept_execSeqSh {a0 : Seq} {a1 : GReg} {a2 : GReg} {a3 : Imm16} {s : State} (h : Kept q s) : KeptOut q (execSeqSh a0 a1 a2 a3 s) := by
  unfold execSeqSh
  exact kept_act (fun _ k2 => kept_seqStore k2) h

theorem kept_execSeqLw {a0 : Seq} {a1 : GReg} {a2 : GReg} {a3 : Imm16} {s : State} (h : Kept q s) : KeptOut q (execSeqLw a0 a1 a2 a3 s) := by
  unfold execSeqLw
  exact kept_act (fun _ k2 => kept_seqLoad k2) h

theorem kept_execSeqLh {a0 : Seq} {a1 : GReg} {a2 : GReg} {a3 : Imm16} {s : State} (h : Kept q s) : KeptOut q (execSeqLh a0 a1 a2 a3 s) := by
  unfold execSeqLh
  exact kept_act (fun _ k2 => kept_seqLoad k2) h

theorem kept_execSeqLd {a0 : Seq} {a1 : GReg} {a2 : GReg} {a3 : Imm16} {s : State} (h : Kept q s) : KeptOut q (execSeqLd a0 a1 a2 a3 s) := by
  unfold execSeqLd
  exact kept_act (fun _ k2 => kept_seqLoad k2) h

theorem kept_readList {a0 : State} {a1 : Seq} {a2 : ℕ} {a3 : ℕ} (h1 : Kept q a0) : Kept q (State.readList a0 a1 a2 a3).2 := by
  unfold State.readList
  exact kept_ite_p2 h1 (kept_seqRead h1)

theorem kept_queueRead {a0 : State} {a1 : Initiator} {a2 : ℕ} {a3 : ℕ} (h1 : Kept q a0) : Kept q (State.queueRead a0 a1 a2 a3).2 := by
  unfold State.queueRead
  refine kept_ite_p2 ?_ ?_
  · exact h1
  · split
    · rename_i y1 y2 e4
      have k3 : Kept q y2 := kept_p2 e4 (kept_busRead h1)
      exact k3
    · rename_i y5 y6 _ e8
      have k7 : Kept q y6 := kept_p2 e8 (kept_busRead h1)
      exact k7

theorem kept_queueIssue {a0 : State} {a1 : Bool} {a2 : BitVec 64} (h1 : Kept q a0) : Kept q (State.queueIssue a0 a1 a2) := by
  unfold State.queueIssue
  extract_lets -lift -underBinder -merge -useContext +onlyGivenNames s1
  try clear_value s1
  extract_lets -lift -underBinder -merge -useContext +onlyGivenNames s2
  try clear_value s2
  extract_lets -lift -underBinder -merge -useContext +onlyGivenNames s3
  try clear_value s3
  split
  · rename_i y4 e6
    have k5 : Kept q y4 := kept_p2 e6 (kept_queueRead h1)
    exact kept_queueDiscard k5
  · rename_i y7 y8 e10
    have k9 : Kept q y8 := kept_p2 e10 (kept_queueRead h1)
    extract_lets -lift -underBinder -merge -useContext +onlyGivenNames s11
    try clear_value s11
    extract_lets -lift -underBinder -merge -useContext +onlyGivenNames s12
    try clear_value s12
    split
    · split
      · rename_i y14 e16
        have k15 : Kept q y14 := kept_p2 e16 (kept_queueRead k9)
        exact kept_queueDiscard k15
      · rename_i y17 y18 e20
        have k19 : Kept q y18 := kept_p2 e20 (kept_queueRead k9)
        extract_lets -lift -underBinder -merge -useContext +onlyGivenNames s21
        try clear_value s21
        extract_lets -lift -underBinder -merge -useContext +onlyGivenNames s22
        try clear_value s22
        exact kept_ite (kept_queueDiscard k19) (kept_ite k19 (kept_queueSend k19))
    · exact kept_queueDiscard k9

theorem kept_execIssueQueueIssue {a0 : IssueQ} {s : State} (h : Kept q s) : KeptOut q (execIssueQueueIssue a0 s) := by
  unfold execIssueQueueIssue
  refine kept_act ?_ h
  intro s3 k4
  extract_lets -lift -underBinder -merge -useContext +onlyGivenNames s5
  try clear_value s5
  split
  · exact k4
  · exact kept_ite (kept_queueIssue k4) k4

theorem kept_execSeqSquash {a0 : Seq} {a1 : GReg} {a2 : GReg} {a3 : GReg} {a4 : BitVec 11} {s : State} (h : Kept q s) : KeptOut q (execSeqSquash a0 a1 a2 a3 a4 s) := by
  unfold execSeqSquash
  refine kept_act ?_ h
  intro s6 k7
  refine kept_seqIssue k7 ?_
  · intro s14 s15 k16
    extract_lets -lift -underBinder -merge -useContext +onlyGivenNames s17
    try clear_value s17
    exact kept_ite (kept_seqFault k16) (kept_ite (kept_bump (kept_setSeq k16)) (kept_squashTry k16))

theorem kept_execSeqBeamsel {a0 : Seq} {a1 : GReg} {a2 : GReg} {a3 : GReg} {a4 : BitVec 11} {s : State} (h : Kept q s) : KeptOut q (execSeqBeamsel a0 a1 a2 a3 a4 s) := by
  unfold execSeqBeamsel
  refine kept_act ?_ h
  intro s6 k7
  refine kept_seqIssue k7 ?_
  · intro s14 s15 k16
    extract_lets -lift -underBinder -merge -useContext +onlyGivenNames s17
    try clear_value s17
    extract_lets -lift -underBinder -merge -useContext +onlyGivenNames s18
    try clear_value s18
    extract_lets -lift -underBinder -merge -useContext +onlyGivenNames s19
    try clear_value s19
    extract_lets -lift -underBinder -merge -useContext +onlyGivenNames s20
    try clear_value s20
    extract_lets -lift -underBinder -merge -useContext +onlyGivenNames s21
    try clear_value s21
    extract_lets -lift -underBinder -merge -useContext +onlyGivenNames s22
    try clear_value s22
    refine kept_ite ?_ ?_
    · exact kept_seqFault k16
    · refine kept_ite ?_ ?_
      · exact kept_seqFault k16
      · refine kept_ite ?_ ?_
        · exact kept_seqFault k16
        · refine kept_ite ?_ ?_
          · exact kept_seqFault k16
          · split
            · rename_i y23 y24 e26
              have k25 : Kept q y24 := kept_p2 e26 (kept_readList k16)
              exact kept_seqFault k25
            · rename_i y27 y28 e30
              have k29 : Kept q y28 := kept_p2 e30 (kept_readList k16)
              extract_lets -lift -underBinder -merge -useContext +onlyGivenNames s31
              try clear_value s31
              extract_lets -lift -underBinder -merge -useContext +onlyGivenNames s32
              try clear_value s32
              exact kept_seqForm k29

theorem kept_execSeqPwr {a0 : Seq} {a1 : GReg} {a2 : GReg} {a3 : GReg} {a4 : BitVec 11} {s : State} (h : Kept q s) : KeptOut q (execSeqPwr a0 a1 a2 a3 a4 s) := by
  unfold execSeqPwr
  refine kept_act ?_ h
  intro s6 k7
  refine kept_seqIssue k7 ?_
  · intro s14 s15 k16
    extract_lets -lift -underBinder -merge -useContext +onlyGivenNames s17
    try clear_value s17
    exact kept_ite (kept_seqFault k16) (kept_seqForm k16)

theorem kept_execSeqLb {a0 : Seq} {a1 : GReg} {a2 : GReg} {a3 : Imm16} {s : State} (h : Kept q s) : KeptOut q (execSeqLb a0 a1 a2 a3 s) := by
  unfold execSeqLb
  exact kept_act (fun _ k2 => kept_seqLoad k2) h

theorem kept_execSeqCommit {a0 : Seq} {a1 : GReg} {a2 : GReg} {a3 : GReg} {a4 : BitVec 11} {s : State} (h : Kept q s) : KeptOut q (execSeqCommit a0 a1 a2 a3 a4 s) := by
  unfold execSeqCommit
  refine kept_act ?_ h
  intro s6 k7
  refine kept_seqIssue k7 ?_
  · intro s14 s15 k16
    extract_lets -lift -underBinder -merge -useContext +onlyGivenNames s17
    try clear_value s17
    refine kept_ite ?_ ?_
    · exact kept_seqFault k16
    · refine kept_ite ?_ ?_
      · exact kept_seqFault k16
      · extract_lets -lift -underBinder -merge -useContext +onlyGivenNames s18
        try clear_value s18
        extract_lets -lift -underBinder -merge -useContext +onlyGivenNames s19
        try clear_value s19
        exact kept_seqForm k16

end Sys2Proof.Machine
end

