-- ==== Sys2Proof/Laws/KeptVcMem.lean ====
section
/-! SUPPORT. The operations of Machine/VcMem.lean keep the form of memory and the queue. -/

namespace Sys2Proof.Machine
open Sys2Proof

variable {q : List Instr × Bool}

theorem kept_vcAccessDone {a0 : State} {a1 : ℕ} {a2 : ℕ} {a3 : ℕ} (h1 : Kept q a0) : Kept q (State.vcAccessDone a0 a1 a2 a3) := by
  unfold State.vcAccessDone
  exact kept_vcDone (kept_setVc h1)

theorem kept_vcStoreRemote {a0 : State} {a1 : ℕ} {a2 : VStore} {a3 : ℕ} {a4 : ℕ} (h1 : Kept q a0) : Kept q (State.vcStoreRemote a0 a1 a2 a3 a4) := by
  unfold State.vcStoreRemote
  extract_lets -lift -underBinder -merge -useContext +onlyGivenNames s1
  try clear_value s1
  extract_lets -lift -underBinder -merge -useContext +onlyGivenNames s2
  have k3 : Kept q s2 := by unfold s2; exact kept_setVc h1
  clear_value s2
  exact kept_ite (kept_setVc k3) (kept_vcAccessDone k3)

theorem kept_vcStoreLocal {a0 : State} {a1 : ℕ} {a2 : VStore} {a3 : ℕ} {a4 : ℕ} (h1 : Kept q a0) : Kept q (State.vcStoreLocal a0 a1 a2 a3 a4) := by
  unfold State.vcStoreLocal
  extract_lets -lift -underBinder -merge -useContext +onlyGivenNames s1
  try clear_value s1
  extract_lets -lift -underBinder -merge -useContext +onlyGivenNames s2
  have k3 : ∀ t, s2 = some t → Kept q t := by unfold s2; exact kept_memWrite h1
  clear_value s2
  extract_lets -lift -underBinder -merge -useContext +onlyGivenNames s4
  have k5 : Kept q s4 := by
    unfold s4
    split
    · rename_i y7
      have k8 : Kept q y7 := k3 _ rfl
      exact kept_setVc k8
    · exact h1
  clear_value s4
  refine kept_ite ?_ ?_
  · extract_lets -lift -underBinder -merge -useContext +onlyGivenNames s6
    try clear_value s6
    exact kept_ite (kept_vcAccessDone (kept_setVc k5)) (kept_setVc k5)
  · exact kept_ite (kept_vcFault k5) (kept_vcAccessDone k5)

theorem kept_vcStoreGo {a0 : State} {a1 : ℕ} {a2 : VStore} {a3 : ℕ} {a4 : ℕ} (h1 : Kept q a0) : Kept q (State.vcStoreGo a0 a1 a2 a3 a4) := by
  unfold State.vcStoreGo
  extract_lets -lift -underBinder -merge -useContext +onlyGivenNames s1
  try clear_value s1
  exact kept_ite (kept_setVc h1) (kept_ite (kept_vcStoreLocal h1) (kept_vcStoreRemote h1))

theorem kept_vcStore {a0 : State} {a1 : ℕ} {a2 : VStore} {a3 : SField} {a4 : SField} (h1 : Kept q a0) : Kept q (State.vcStore a0 a1 a2 a3 a4) := by
  unfold State.vcStore
  exact kept_ite (kept_vcFault h1) (kept_vcStoreGo h1)

theorem kept_vcLoaded {a0 : ℕ} {a1 : VDest} {a2 : ℕ} {a3 : ℕ} {a4 : Access × State} (h5 : Kept q a4.2) : Kept q (vcLoaded a0 a1 a2 a3 a4) := by
  unfold vcLoaded
  split
  · rename_i y1 y2
    have k3 : Kept q y2 := h5
    exact kept_vcAccessDone (kept_setVc k3)
  · rename_i y5
    have k6 : Kept q y5 := h5
    exact kept_vcFault k6
  · rename_i y8 y9
    have k10 : Kept q y9 := h5
    exact kept_vcFault k10

theorem kept_vcStoreFault {a0 : State} {a1 : ℕ} {a2 : BitVec 20} (h1 : Kept q a0) : Kept q (State.vcStoreFault a0 a1 a2) := by
  unfold State.vcStoreFault
  extract_lets -lift -underBinder -merge -useContext +onlyGivenNames s1
  try clear_value s1
  extract_lets -lift -underBinder -merge -useContext +onlyGivenNames s2
  have k3 : Kept q s2 := by unfold s2; exact kept_ite h1 (kept_setVc h1)
  clear_value s2
  extract_lets -lift -underBinder -merge -useContext +onlyGivenNames s4
  have k5 : Kept q s4 := by unfold s4; exact kept_vcFault k3
  clear_value s4
  exact kept_setVc k5

theorem kept_vcResume {a0 : State} {a1 : ℕ} (h1 : Kept q a0) : Kept q (State.vcResume a0 a1) := by
  unfold State.vcResume
  extract_lets -lift -underBinder -merge -useContext +onlyGivenNames s1
  try clear_value s1
  refine kept_ite ?_ ?_
  · exact h1
  · split
    · exact kept_vcStoreGo h1
    · exact kept_ite (kept_vcDone h1) h1
    · exact kept_ite (kept_vcAccessDone h1) h1
    · exact h1

theorem kept_execSVst {a0 : Vc} {a1 : VField} {a2 : SField} {a3 : SField} {a4 : BitVec 12} {s : State} (h : Kept q s) : KeptOut q (execSVst a0 a1 a2 a3 a4 s) := by
  unfold execSVst
  refine kept_act ?_ h
  intro s5 k6
  refine kept_sIssue k6 ?_
  · intro s11 k12
    extract_lets -lift -underBinder -merge -useContext +onlyGivenNames s13
    try clear_value s13
    exact kept_vcStore k12

theorem kept_vcLoad {a0 : State} {a1 : Vc} {a2 : VDest} {a3 : ℕ} {a4 : ℕ} {a5 : SField} {a6 : SField} (h1 : Kept q a0) : Kept q (State.vcLoad a0 a1 a2 a3 a4 a5 a6) := by
  unfold State.vcLoad
  exact kept_ite (kept_vcFault h1) (kept_ite (kept_vcLoaded (kept_busRead h1)) (kept_setVc h1))

theorem kept_execSVld {a0 : Vc} {a1 : VField} {a2 : SField} {a3 : SField} {a4 : BitVec 12} {s : State} (h : Kept q s) : KeptOut q (execSVld a0 a1 a2 a3 a4 s) := by
  unfold execSVld
  exact kept_act (fun _ k2 => kept_sIssue k2 (fun _ k4 => kept_vcLoad k4)) h

theorem kept_execRemoteLoadResponse {a0 : Vc} {s : State} (h : Kept q s) : KeptOut q (execRemoteLoadResponse a0 s) := by
  unfold execRemoteLoadResponse
  refine kept_act ?_ h
  intro s3 k4
  extract_lets -lift -underBinder -merge -useContext +onlyGivenNames s5
  try clear_value s5
  split
  · extract_lets -lift -underBinder -merge -useContext +onlyGivenNames s11
    try clear_value s11
    refine kept_ite ?_ ?_
    · exact k4
    · extract_lets -lift -underBinder -merge -useContext +onlyGivenNames s12
      have k13 : Kept q s12 := by unfold s12; exact kept_vcLoaded (kept_busRead k4)
      clear_value s12
      exact Kept.upd k13
  · exact k4

theorem kept_execSSt {a0 : Vc} {a1 : VField} {a2 : SField} {a3 : SField} {a4 : BitVec 12} {s : State} (h : Kept q s) : KeptOut q (execSSt a0 a1 a2 a3 a4 s) := by
  unfold execSSt
  refine kept_act ?_ h
  intro s5 k6
  refine kept_sIssue k6 ?_
  · intro s11 k12
    extract_lets -lift -underBinder -merge -useContext +onlyGivenNames s13
    try clear_value s13
    exact kept_vcStore k12

theorem kept_execSLd {a0 : Vc} {a1 : VField} {a2 : SField} {a3 : SField} {a4 : BitVec 12} {s : State} (h : Kept q s) : KeptOut q (execSLd a0 a1 a2 a3 a4 s) := by
  unfold execSLd
  exact kept_act (fun _ k2 => kept_sIssue k2 (fun _ k4 => kept_vcLoad k4)) h

theorem kept_execRemoteStoreResponse {a0 : Vc} {s : State} (h : Kept q s) : KeptOut q (execRemoteStoreResponse a0 s) := by
  unfold execRemoteStoreResponse
  refine kept_act ?_ h
  intro s3 k4
  split
  · exact k4
  · refine kept_ite ?_ ?_
    · exact k4
    · extract_lets -lift -underBinder -merge -useContext +onlyGivenNames s8
      try clear_value s8
      extract_lets -lift -underBinder -merge -useContext +onlyGivenNames s9
      have k10 : Kept q s9 := by unfold s9; exact kept_setVc k4
      clear_value s9
      extract_lets -lift -underBinder -merge -useContext +onlyGivenNames s11
      have k12 : Kept q s11 := by unfold s11; exact kept_busWrite k10
      clear_value s11
      extract_lets -lift -underBinder -merge -useContext +onlyGivenNames s13
      try clear_value s13
      extract_lets -lift -underBinder -merge -useContext +onlyGivenNames s14
      have k15 : Kept q s14 := by unfold s14; exact Kept.upd k12
      clear_value s14
      exact kept_ite (kept_vcResume (kept_ite (kept_setVc k15) k15)) (kept_ite (kept_vcStoreFault k15) (kept_vcResume k15))

end Sys2Proof.Machine
end

