-- ==== Sys2Proof/Laws/State.lean ====
section
/-! SUPPORT. The small laws of the state's updates: what each leaves of every other field, and what its own reader gives after it. -/

namespace Sys2Proof.Machine
open Sys2Proof

variable {s : State}

/-! ## Fields that an update leaves -/

@[simp] theorem setReg_pending {off : Nat} {w : BitVec 32} : (s.setReg off w).pending = s.pending := rfl
@[simp] theorem setReg_free {off : Nat} {w : BitVec 32} : (s.setReg off w).free = s.free := rfl
@[simp] theorem setReg_resp {off : Nat} {w : BitVec 32} : (s.setReg off w).resp = s.resp := rfl
@[simp] theorem setReg_out {off : Nat} {w : BitVec 32} : (s.setReg off w).out = s.out := rfl
@[simp] theorem setReg_now {off : Nat} {w : BitVec 32} : (s.setReg off w).now = s.now := rfl
@[simp] theorem setReg_wrap {off : Nat} {w : BitVec 32} : (s.setReg off w).wrap = s.wrap := rfl
@[simp] theorem setReg_powered {off : Nat} {w : BitVec 32} : (s.setReg off w).powered = s.powered := rfl
@[simp] theorem setReg_inReset {off : Nat} {w : BitVec 32} : (s.setReg off w).inReset = s.inReset := rfl
@[simp] theorem setReg_mem {off : Nat} {w : BitVec 32} : (s.setReg off w).mem = s.mem := rfl
@[simp] theorem setReg_events {off : Nat} {w : BitVec 32} : (s.setReg off w).events = s.events := rfl
@[simp] theorem setReg_evPend {off : Nat} {w : BitVec 32} : (s.setReg off w).evPend = s.evPend := rfl
@[simp] theorem setReg_queue {off : Nat} {w : BitVec 32} : (s.setReg off w).queue = s.queue := rfl
@[simp] theorem setReg_net {off : Nat} {w : BitVec 32} : (s.setReg off w).net = s.net := rfl
@[simp] theorem setReg_fns {off : Nat} {w : BitVec 32} : (s.setReg off w).fns = s.fns := rfl
@[simp] theorem setReg_pathStops {off : Nat} {w : BitVec 32} : (s.setReg off w).pathStops = s.pathStops := rfl
@[simp] theorem setReg_squashes {off : Nat} {w : BitVec 32} : (s.setReg off w).squashes = s.squashes := rfl
@[simp] theorem setReg_txOut {off : Nat} {w : BitVec 32} : (s.setReg off w).txOut = s.txOut := rfl
@[simp] theorem setReg_rxOut {off : Nat} {w : BitVec 32} : (s.setReg off w).rxOut = s.rxOut := rfl
@[simp] theorem setReg_seqs {off : Nat} {w : BitVec 32} : (s.setReg off w).seqs = s.seqs := rfl
@[simp] theorem setReg_hiq {off : Nat} {w : BitVec 32} : (s.setReg off w).hiq = s.hiq := rfl
@[simp] theorem setReg_miq {off : Nat} {w : BitVec 32} : (s.setReg off w).miq = s.miq := rfl
@[simp] theorem setReg_ports {off : Nat} {w : BitVec 32} : (s.setReg off w).ports = s.ports := rfl
@[simp] theorem setReg_vlinks {off : Nat} {w : BitVec 32} : (s.setReg off w).vlinks = s.vlinks := rfl
@[simp] theorem setReg_fenced {off : Nat} {w : BitVec 32} : (s.setReg off w).fenced = s.fenced := rfl
@[simp] theorem setReg_faultlog {off : Nat} {w : BitVec 32} : (s.setReg off w).faultlog = s.faultlog := rfl
@[simp] theorem setReg_mode {off : Nat} {w : BitVec 32} : (s.setReg off w).mode = s.mode := rfl
@[simp] theorem setReg_power {off : Nat} {w : BitVec 32} : (s.setReg off w).power = s.power := rfl
@[simp] theorem setReg_pcie {off : Nat} {w : BitVec 32} : (s.setReg off w).pcie = s.pcie := rfl
@[simp] theorem setReg_ffts {off : Nat} {w : BitVec 32} : (s.setReg off w).ffts = s.ffts := rfl
@[simp] theorem setReg_cars {off : Nat} {w : BitVec 32} : (s.setReg off w).cars = s.cars := rfl
@[simp] theorem setReg_islCars {off : Nat} {w : BitVec 32} : (s.setReg off w).islCars = s.islCars := rfl
@[simp] theorem setReg_wolas {off : Nat} {w : BitVec 32} : (s.setReg off w).wolas = s.wolas := rfl
@[simp] theorem setReg_cfrs {off : Nat} {w : BitVec 32} : (s.setReg off w).cfrs = s.cfrs := rfl
@[simp] theorem setReg_gains {off : Nat} {w : BitVec 32} : (s.setReg off w).gains = s.gains := rfl
@[simp] theorem setReg_charges {off : Nat} {w : BitVec 32} : (s.setReg off w).charges = s.charges := rfl
@[simp] theorem setReg_srsCharges {off : Nat} {w : BitVec 32} : (s.setReg off w).srsCharges = s.srsCharges := rfl
@[simp] theorem setReg_decls {off : Nat} {w : BitVec 32} : (s.setReg off w).decls = s.decls := rfl
@[simp] theorem setReg_blanked {off : Nat} {w : BitVec 32} : (s.setReg off w).blanked = s.blanked := rfl
@[simp] theorem setReg_tdSpans {off : Nat} {w : BitVec 32} : (s.setReg off w).tdSpans = s.tdSpans := rfl
@[simp] theorem setReg_dacOff {off : Nat} {w : BitVec 32} : (s.setReg off w).dacOff = s.dacOff := rfl
@[simp] theorem setReg_adcOff {off : Nat} {w : BitVec 32} : (s.setReg off w).adcOff = s.adcOff := rfl
@[simp] theorem setReg_lists {off : Nat} {w : BitVec 32} : (s.setReg off w).lists = s.lists := rfl
@[simp] theorem setReg_listPtr {off : Nat} {w : BitVec 32} : (s.setReg off w).listPtr = s.listPtr := rfl
@[simp] theorem setReg_lin {off : Nat} {w : BitVec 32} : (s.setReg off w).lin = s.lin := rfl
@[simp] theorem setReg_syns {off : Nat} {w : BitVec 32} : (s.setReg off w).syns = s.syns := rfl
@[simp] theorem setReg_synCal {off : Nat} {w : BitVec 32} : (s.setReg off w).synCal = s.synCal := rfl
@[simp] theorem setReg_loSel {off : Nat} {w : BitVec 32} : (s.setReg off w).loSel = s.loSel := rfl
@[simp] theorem setReg_fe {off : Nat} {w : BitVec 32} : (s.setReg off w).fe = s.fe := rfl
@[simp] theorem setReg_beam {off : Nat} {w : BitVec 32} : (s.setReg off w).beam = s.beam := rfl
@[simp] theorem setReg_clock {off : Nat} {w : BitVec 32} : (s.setReg off w).clock = s.clock := rfl
@[simp] theorem setReg_rx {off : Nat} {w : BitVec 32} : (s.setReg off w).rx = s.rx := rfl
@[simp] theorem setReg_time {off : Nat} {w : BitVec 32} : (s.setReg off w).time = s.time := rfl
@[simp] theorem setReg_lanes {off : Nat} {w : BitVec 32} : (s.setReg off w).lanes = s.lanes := rfl
@[simp] theorem setReg_pllLock {off : Nat} {w : BitVec 32} : (s.setReg off w).pllLock = s.pllLock := rfl
@[simp] theorem setReg_pllAt {off : Nat} {w : BitVec 32} : (s.setReg off w).pllAt = s.pllAt := rfl
@[simp] theorem setReg_pllRate {off : Nat} {w : BitVec 32} : (s.setReg off w).pllRate = s.pllRate := rfl
@[simp] theorem setReg_caps {off : Nat} {w : BitVec 32} : (s.setReg off w).caps = s.caps := rfl
@[simp] theorem setReg_slots {off : Nat} {w : BitVec 32} : (s.setReg off w).slots = s.slots := rfl
@[simp] theorem setReg_slotReady {off : Nat} {w : BitVec 32} : (s.setReg off w).slotReady = s.slotReady := rfl
@[simp] theorem setReg_dma {off : Nat} {w : BitVec 32} : (s.setReg off w).dma = s.dma := rfl
@[simp] theorem setReg_dmaArb {off : Nat} {w : BitVec 32} : (s.setReg off w).dmaArb = s.dmaArb := rfl
@[simp] theorem setReg_wdogAt {off : Nat} {w : BitVec 32} : (s.setReg off w).wdogAt = s.wdogAt := rfl
@[simp] theorem setReg_mgmtRestart {off : Nat} {w : BitVec 32} : (s.setReg off w).mgmtRestart = s.mgmtRestart := rfl
@[simp] theorem setReg_vcs {off : Nat} {w : BitVec 32} : (s.setReg off w).vcs = s.vcs := rfl
@[simp] theorem setReg_sess {off : Nat} {w : BitVec 32} : (s.setReg off w).sess = s.sess := rfl
@[simp] theorem setReg_svc {off : Nat} {w : BitVec 32} : (s.setReg off w).svc = s.svc := rfl
@[simp] theorem setReg_chain {off : Nat} {w : BitVec 32} : (s.setReg off w).chain = s.chain := rfl

@[simp] theorem setReg64_pending {off : Nat} {x64 : BitVec 64} : (s.setReg64 off x64).pending = s.pending := rfl
@[simp] theorem setReg64_free {off : Nat} {x64 : BitVec 64} : (s.setReg64 off x64).free = s.free := rfl
@[simp] theorem setReg64_resp {off : Nat} {x64 : BitVec 64} : (s.setReg64 off x64).resp = s.resp := rfl
@[simp] theorem setReg64_out {off : Nat} {x64 : BitVec 64} : (s.setReg64 off x64).out = s.out := rfl
@[simp] theorem setReg64_now {off : Nat} {x64 : BitVec 64} : (s.setReg64 off x64).now = s.now := rfl
@[simp] theorem setReg64_wrap {off : Nat} {x64 : BitVec 64} : (s.setReg64 off x64).wrap = s.wrap := rfl
@[simp] theorem setReg64_powered {off : Nat} {x64 : BitVec 64} : (s.setReg64 off x64).powered = s.powered := rfl
@[simp] theorem setReg64_inReset {off : Nat} {x64 : BitVec 64} : (s.setReg64 off x64).inReset = s.inReset := rfl
@[simp] theorem setReg64_mem {off : Nat} {x64 : BitVec 64} : (s.setReg64 off x64).mem = s.mem := rfl
@[simp] theorem setReg64_events {off : Nat} {x64 : BitVec 64} : (s.setReg64 off x64).events = s.events := rfl
@[simp] theorem setReg64_evPend {off : Nat} {x64 : BitVec 64} : (s.setReg64 off x64).evPend = s.evPend := rfl
@[simp] theorem setReg64_queue {off : Nat} {x64 : BitVec 64} : (s.setReg64 off x64).queue = s.queue := rfl
@[simp] theorem setReg64_net {off : Nat} {x64 : BitVec 64} : (s.setReg64 off x64).net = s.net := rfl
@[simp] theorem setReg64_fns {off : Nat} {x64 : BitVec 64} : (s.setReg64 off x64).fns = s.fns := rfl
@[simp] theorem setReg64_pathStops {off : Nat} {x64 : BitVec 64} : (s.setReg64 off x64).pathStops = s.pathStops := rfl
@[simp] theorem setReg64_squashes {off : Nat} {x64 : BitVec 64} : (s.setReg64 off x64).squashes = s.squashes := rfl
@[simp] theorem setReg64_txOut {off : Nat} {x64 : BitVec 64} : (s.setReg64 off x64).txOut = s.txOut := rfl
@[simp] theorem setReg64_rxOut {off : Nat} {x64 : BitVec 64} : (s.setReg64 off x64).rxOut = s.rxOut := rfl
@[simp] theorem setReg64_seqs {off : Nat} {x64 : BitVec 64} : (s.setReg64 off x64).seqs = s.seqs := rfl
@[simp] theorem setReg64_hiq {off : Nat} {x64 : BitVec 64} : (s.setReg64 off x64).hiq = s.hiq := rfl
@[simp] theorem setReg64_miq {off : Nat} {x64 : BitVec 64} : (s.setReg64 off x64).miq = s.miq := rfl
@[simp] theorem setReg64_ports {off : Nat} {x64 : BitVec 64} : (s.setReg64 off x64).ports = s.ports := rfl
@[simp] theorem setReg64_vlinks {off : Nat} {x64 : BitVec 64} : (s.setReg64 off x64).vlinks = s.vlinks := rfl
@[simp] theorem setReg64_fenced {off : Nat} {x64 : BitVec 64} : (s.setReg64 off x64).fenced = s.fenced := rfl
@[simp] theorem setReg64_faultlog {off : Nat} {x64 : BitVec 64} : (s.setReg64 off x64).faultlog = s.faultlog := rfl
@[simp] theorem setReg64_mode {off : Nat} {x64 : BitVec 64} : (s.setReg64 off x64).mode = s.mode := rfl
@[simp] theorem setReg64_power {off : Nat} {x64 : BitVec 64} : (s.setReg64 off x64).power = s.power := rfl
@[simp] theorem setReg64_pcie {off : Nat} {x64 : BitVec 64} : (s.setReg64 off x64).pcie = s.pcie := rfl
@[simp] theorem setReg64_ffts {off : Nat} {x64 : BitVec 64} : (s.setReg64 off x64).ffts = s.ffts := rfl
@[simp] theorem setReg64_cars {off : Nat} {x64 : BitVec 64} : (s.setReg64 off x64).cars = s.cars := rfl
@[simp] theorem setReg64_islCars {off : Nat} {x64 : BitVec 64} : (s.setReg64 off x64).islCars = s.islCars := rfl
@[simp] theorem setReg64_wolas {off : Nat} {x64 : BitVec 64} : (s.setReg64 off x64).wolas = s.wolas := rfl
@[simp] theorem setReg64_cfrs {off : Nat} {x64 : BitVec 64} : (s.setReg64 off x64).cfrs = s.cfrs := rfl
@[simp] theorem setReg64_gains {off : Nat} {x64 : BitVec 64} : (s.setReg64 off x64).gains = s.gains := rfl
@[simp] theorem setReg64_charges {off : Nat} {x64 : BitVec 64} : (s.setReg64 off x64).charges = s.charges := rfl
@[simp] theorem setReg64_srsCharges {off : Nat} {x64 : BitVec 64} : (s.setReg64 off x64).srsCharges = s.srsCharges := rfl
@[simp] theorem setReg64_decls {off : Nat} {x64 : BitVec 64} : (s.setReg64 off x64).decls = s.decls := rfl
@[simp] theorem setReg64_blanked {off : Nat} {x64 : BitVec 64} : (s.setReg64 off x64).blanked = s.blanked := rfl
@[simp] theorem setReg64_tdSpans {off : Nat} {x64 : BitVec 64} : (s.setReg64 off x64).tdSpans = s.tdSpans := rfl
@[simp] theorem setReg64_dacOff {off : Nat} {x64 : BitVec 64} : (s.setReg64 off x64).dacOff = s.dacOff := rfl
@[simp] theorem setReg64_adcOff {off : Nat} {x64 : BitVec 64} : (s.setReg64 off x64).adcOff = s.adcOff := rfl
@[simp] theorem setReg64_lists {off : Nat} {x64 : BitVec 64} : (s.setReg64 off x64).lists = s.lists := rfl
@[simp] theorem setReg64_listPtr {off : Nat} {x64 : BitVec 64} : (s.setReg64 off x64).listPtr = s.listPtr := rfl
@[simp] theorem setReg64_lin {off : Nat} {x64 : BitVec 64} : (s.setReg64 off x64).lin = s.lin := rfl
@[simp] theorem setReg64_syns {off : Nat} {x64 : BitVec 64} : (s.setReg64 off x64).syns = s.syns := rfl
@[simp] theorem setReg64_synCal {off : Nat} {x64 : BitVec 64} : (s.setReg64 off x64).synCal = s.synCal := rfl
@[simp] theorem setReg64_loSel {off : Nat} {x64 : BitVec 64} : (s.setReg64 off x64).loSel = s.loSel := rfl
@[simp] theorem setReg64_fe {off : Nat} {x64 : BitVec 64} : (s.setReg64 off x64).fe = s.fe := rfl
@[simp] theorem setReg64_beam {off : Nat} {x64 : BitVec 64} : (s.setReg64 off x64).beam = s.beam := rfl
@[simp] theorem setReg64_clock {off : Nat} {x64 : BitVec 64} : (s.setReg64 off x64).clock = s.clock := rfl
@[simp] theorem setReg64_rx {off : Nat} {x64 : BitVec 64} : (s.setReg64 off x64).rx = s.rx := rfl
@[simp] theorem setReg64_time {off : Nat} {x64 : BitVec 64} : (s.setReg64 off x64).time = s.time := rfl
@[simp] theorem setReg64_lanes {off : Nat} {x64 : BitVec 64} : (s.setReg64 off x64).lanes = s.lanes := rfl
@[simp] theorem setReg64_pllLock {off : Nat} {x64 : BitVec 64} : (s.setReg64 off x64).pllLock = s.pllLock := rfl
@[simp] theorem setReg64_pllAt {off : Nat} {x64 : BitVec 64} : (s.setReg64 off x64).pllAt = s.pllAt := rfl
@[simp] theorem setReg64_pllRate {off : Nat} {x64 : BitVec 64} : (s.setReg64 off x64).pllRate = s.pllRate := rfl
@[simp] theorem setReg64_caps {off : Nat} {x64 : BitVec 64} : (s.setReg64 off x64).caps = s.caps := rfl
@[simp] theorem setReg64_slots {off : Nat} {x64 : BitVec 64} : (s.setReg64 off x64).slots = s.slots := rfl
@[simp] theorem setReg64_slotReady {off : Nat} {x64 : BitVec 64} : (s.setReg64 off x64).slotReady = s.slotReady := rfl
@[simp] theorem setReg64_dma {off : Nat} {x64 : BitVec 64} : (s.setReg64 off x64).dma = s.dma := rfl
@[simp] theorem setReg64_dmaArb {off : Nat} {x64 : BitVec 64} : (s.setReg64 off x64).dmaArb = s.dmaArb := rfl
@[simp] theorem setReg64_wdogAt {off : Nat} {x64 : BitVec 64} : (s.setReg64 off x64).wdogAt = s.wdogAt := rfl
@[simp] theorem setReg64_mgmtRestart {off : Nat} {x64 : BitVec 64} : (s.setReg64 off x64).mgmtRestart = s.mgmtRestart := rfl
@[simp] theorem setReg64_vcs {off : Nat} {x64 : BitVec 64} : (s.setReg64 off x64).vcs = s.vcs := rfl
@[simp] theorem setReg64_sess {off : Nat} {x64 : BitVec 64} : (s.setReg64 off x64).sess = s.sess := rfl
@[simp] theorem setReg64_svc {off : Nat} {x64 : BitVec 64} : (s.setReg64 off x64).svc = s.svc := rfl
@[simp] theorem setReg64_chain {off : Nat} {x64 : BitVec 64} : (s.setReg64 off x64).chain = s.chain := rfl

@[simp] theorem bump_pending {off : Nat} : (s.bump off).pending = s.pending := rfl
@[simp] theorem bump_free {off : Nat} : (s.bump off).free = s.free := rfl
@[simp] theorem bump_resp {off : Nat} : (s.bump off).resp = s.resp := rfl
@[simp] theorem bump_out {off : Nat} : (s.bump off).out = s.out := rfl
@[simp] theorem bump_now {off : Nat} : (s.bump off).now = s.now := rfl
@[simp] theorem bump_wrap {off : Nat} : (s.bump off).wrap = s.wrap := rfl
@[simp] theorem bump_powered {off : Nat} : (s.bump off).powered = s.powered := rfl
@[simp] theorem bump_inReset {off : Nat} : (s.bump off).inReset = s.inReset := rfl
@[simp] theorem bump_mem {off : Nat} : (s.bump off).mem = s.mem := rfl
@[simp] theorem bump_events {off : Nat} : (s.bump off).events = s.events := rfl
@[simp] theorem bump_evPend {off : Nat} : (s.bump off).evPend = s.evPend := rfl
@[simp] theorem bump_queue {off : Nat} : (s.bump off).queue = s.queue := rfl
@[simp] theorem bump_net {off : Nat} : (s.bump off).net = s.net := rfl
@[simp] theorem bump_fns {off : Nat} : (s.bump off).fns = s.fns := rfl
@[simp] theorem bump_pathStops {off : Nat} : (s.bump off).pathStops = s.pathStops := rfl
@[simp] theorem bump_squashes {off : Nat} : (s.bump off).squashes = s.squashes := rfl
@[simp] theorem bump_txOut {off : Nat} : (s.bump off).txOut = s.txOut := rfl
@[simp] theorem bump_rxOut {off : Nat} : (s.bump off).rxOut = s.rxOut := rfl
@[simp] theorem bump_seqs {off : Nat} : (s.bump off).seqs = s.seqs := rfl
@[simp] theorem bump_hiq {off : Nat} : (s.bump off).hiq = s.hiq := rfl
@[simp] theorem bump_miq {off : Nat} : (s.bump off).miq = s.miq := rfl
@[simp] theorem bump_ports {off : Nat} : (s.bump off).ports = s.ports := rfl
@[simp] theorem bump_vlinks {off : Nat} : (s.bump off).vlinks = s.vlinks := rfl
@[simp] theorem bump_fenced {off : Nat} : (s.bump off).fenced = s.fenced := rfl
@[simp] theorem bump_faultlog {off : Nat} : (s.bump off).faultlog = s.faultlog := rfl
@[simp] theorem bump_mode {off : Nat} : (s.bump off).mode = s.mode := rfl
@[simp] theorem bump_power {off : Nat} : (s.bump off).power = s.power := rfl
@[simp] theorem bump_pcie {off : Nat} : (s.bump off).pcie = s.pcie := rfl
@[simp] theorem bump_ffts {off : Nat} : (s.bump off).ffts = s.ffts := rfl
@[simp] theorem bump_cars {off : Nat} : (s.bump off).cars = s.cars := rfl
@[simp] theorem bump_islCars {off : Nat} : (s.bump off).islCars = s.islCars := rfl
@[simp] theorem bump_wolas {off : Nat} : (s.bump off).wolas = s.wolas := rfl
@[simp] theorem bump_cfrs {off : Nat} : (s.bump off).cfrs = s.cfrs := rfl
@[simp] theorem bump_gains {off : Nat} : (s.bump off).gains = s.gains := rfl
@[simp] theorem bump_charges {off : Nat} : (s.bump off).charges = s.charges := rfl
@[simp] theorem bump_srsCharges {off : Nat} : (s.bump off).srsCharges = s.srsCharges := rfl
@[simp] theorem bump_decls {off : Nat} : (s.bump off).decls = s.decls := rfl
@[simp] theorem bump_blanked {off : Nat} : (s.bump off).blanked = s.blanked := rfl
@[simp] theorem bump_tdSpans {off : Nat} : (s.bump off).tdSpans = s.tdSpans := rfl
@[simp] theorem bump_dacOff {off : Nat} : (s.bump off).dacOff = s.dacOff := rfl
@[simp] theorem bump_adcOff {off : Nat} : (s.bump off).adcOff = s.adcOff := rfl
@[simp] theorem bump_lists {off : Nat} : (s.bump off).lists = s.lists := rfl
@[simp] theorem bump_listPtr {off : Nat} : (s.bump off).listPtr = s.listPtr := rfl
@[simp] theorem bump_lin {off : Nat} : (s.bump off).lin = s.lin := rfl
@[simp] theorem bump_syns {off : Nat} : (s.bump off).syns = s.syns := rfl
@[simp] theorem bump_synCal {off : Nat} : (s.bump off).synCal = s.synCal := rfl
@[simp] theorem bump_loSel {off : Nat} : (s.bump off).loSel = s.loSel := rfl
@[simp] theorem bump_fe {off : Nat} : (s.bump off).fe = s.fe := rfl
@[simp] theorem bump_beam {off : Nat} : (s.bump off).beam = s.beam := rfl
@[simp] theorem bump_clock {off : Nat} : (s.bump off).clock = s.clock := rfl
@[simp] theorem bump_rx {off : Nat} : (s.bump off).rx = s.rx := rfl
@[simp] theorem bump_time {off : Nat} : (s.bump off).time = s.time := rfl
@[simp] theorem bump_lanes {off : Nat} : (s.bump off).lanes = s.lanes := rfl
@[simp] theorem bump_pllLock {off : Nat} : (s.bump off).pllLock = s.pllLock := rfl
@[simp] theorem bump_pllAt {off : Nat} : (s.bump off).pllAt = s.pllAt := rfl
@[simp] theorem bump_pllRate {off : Nat} : (s.bump off).pllRate = s.pllRate := rfl
@[simp] theorem bump_caps {off : Nat} : (s.bump off).caps = s.caps := rfl
@[simp] theorem bump_slots {off : Nat} : (s.bump off).slots = s.slots := rfl
@[simp] theorem bump_slotReady {off : Nat} : (s.bump off).slotReady = s.slotReady := rfl
@[simp] theorem bump_dma {off : Nat} : (s.bump off).dma = s.dma := rfl
@[simp] theorem bump_dmaArb {off : Nat} : (s.bump off).dmaArb = s.dmaArb := rfl
@[simp] theorem bump_wdogAt {off : Nat} : (s.bump off).wdogAt = s.wdogAt := rfl
@[simp] theorem bump_mgmtRestart {off : Nat} : (s.bump off).mgmtRestart = s.mgmtRestart := rfl
@[simp] theorem bump_vcs {off : Nat} : (s.bump off).vcs = s.vcs := rfl
@[simp] theorem bump_sess {off : Nat} : (s.bump off).sess = s.sess := rfl
@[simp] theorem bump_svc {off : Nat} : (s.bump off).svc = s.svc := rfl
@[simp] theorem bump_chain {off : Nat} : (s.bump off).chain = s.chain := rfl

@[simp] theorem setEv_pending {i : Nat} {ev : EvRec} : (s.setEv i ev).pending = s.pending := rfl
@[simp] theorem setEv_free {i : Nat} {ev : EvRec} : (s.setEv i ev).free = s.free := rfl
@[simp] theorem setEv_resp {i : Nat} {ev : EvRec} : (s.setEv i ev).resp = s.resp := rfl
@[simp] theorem setEv_out {i : Nat} {ev : EvRec} : (s.setEv i ev).out = s.out := rfl
@[simp] theorem setEv_now {i : Nat} {ev : EvRec} : (s.setEv i ev).now = s.now := rfl
@[simp] theorem setEv_wrap {i : Nat} {ev : EvRec} : (s.setEv i ev).wrap = s.wrap := rfl
@[simp] theorem setEv_powered {i : Nat} {ev : EvRec} : (s.setEv i ev).powered = s.powered := rfl
@[simp] theorem setEv_inReset {i : Nat} {ev : EvRec} : (s.setEv i ev).inReset = s.inReset := rfl
@[simp] theorem setEv_regs {i : Nat} {ev : EvRec} : (s.setEv i ev).regs = s.regs := rfl
@[simp] theorem setEv_mem {i : Nat} {ev : EvRec} : (s.setEv i ev).mem = s.mem := rfl
@[simp] theorem setEv_evPend {i : Nat} {ev : EvRec} : (s.setEv i ev).evPend = s.evPend := rfl
@[simp] theorem setEv_queue {i : Nat} {ev : EvRec} : (s.setEv i ev).queue = s.queue := rfl
@[simp] theorem setEv_net {i : Nat} {ev : EvRec} : (s.setEv i ev).net = s.net := rfl
@[simp] theorem setEv_fns {i : Nat} {ev : EvRec} : (s.setEv i ev).fns = s.fns := rfl
@[simp] theorem setEv_pathStops {i : Nat} {ev : EvRec} : (s.setEv i ev).pathStops = s.pathStops := rfl
@[simp] theorem setEv_squashes {i : Nat} {ev : EvRec} : (s.setEv i ev).squashes = s.squashes := rfl
@[simp] theorem setEv_txOut {i : Nat} {ev : EvRec} : (s.setEv i ev).txOut = s.txOut := rfl
@[simp] theorem setEv_rxOut {i : Nat} {ev : EvRec} : (s.setEv i ev).rxOut = s.rxOut := rfl
@[simp] theorem setEv_seqs {i : Nat} {ev : EvRec} : (s.setEv i ev).seqs = s.seqs := rfl
@[simp] theorem setEv_hiq {i : Nat} {ev : EvRec} : (s.setEv i ev).hiq = s.hiq := rfl
@[simp] theorem setEv_miq {i : Nat} {ev : EvRec} : (s.setEv i ev).miq = s.miq := rfl
@[simp] theorem setEv_ports {i : Nat} {ev : EvRec} : (s.setEv i ev).ports = s.ports := rfl
@[simp] theorem setEv_vlinks {i : Nat} {ev : EvRec} : (s.setEv i ev).vlinks = s.vlinks := rfl
@[simp] theorem setEv_fenced {i : Nat} {ev : EvRec} : (s.setEv i ev).fenced = s.fenced := rfl
@[simp] theorem setEv_faultlog {i : Nat} {ev : EvRec} : (s.setEv i ev).faultlog = s.faultlog := rfl
@[simp] theorem setEv_mode {i : Nat} {ev : EvRec} : (s.setEv i ev).mode = s.mode := rfl
@[simp] theorem setEv_power {i : Nat} {ev : EvRec} : (s.setEv i ev).power = s.power := rfl
@[simp] theorem setEv_pcie {i : Nat} {ev : EvRec} : (s.setEv i ev).pcie = s.pcie := rfl
@[simp] theorem setEv_ffts {i : Nat} {ev : EvRec} : (s.setEv i ev).ffts = s.ffts := rfl
@[simp] theorem setEv_cars {i : Nat} {ev : EvRec} : (s.setEv i ev).cars = s.cars := rfl
@[simp] theorem setEv_islCars {i : Nat} {ev : EvRec} : (s.setEv i ev).islCars = s.islCars := rfl
@[simp] theorem setEv_wolas {i : Nat} {ev : EvRec} : (s.setEv i ev).wolas = s.wolas := rfl
@[simp] theorem setEv_cfrs {i : Nat} {ev : EvRec} : (s.setEv i ev).cfrs = s.cfrs := rfl
@[simp] theorem setEv_gains {i : Nat} {ev : EvRec} : (s.setEv i ev).gains = s.gains := rfl
@[simp] theorem setEv_charges {i : Nat} {ev : EvRec} : (s.setEv i ev).charges = s.charges := rfl
@[simp] theorem setEv_srsCharges {i : Nat} {ev : EvRec} : (s.setEv i ev).srsCharges = s.srsCharges := rfl
@[simp] theorem setEv_decls {i : Nat} {ev : EvRec} : (s.setEv i ev).decls = s.decls := rfl
@[simp] theorem setEv_blanked {i : Nat} {ev : EvRec} : (s.setEv i ev).blanked = s.blanked := rfl
@[simp] theorem setEv_tdSpans {i : Nat} {ev : EvRec} : (s.setEv i ev).tdSpans = s.tdSpans := rfl
@[simp] theorem setEv_dacOff {i : Nat} {ev : EvRec} : (s.setEv i ev).dacOff = s.dacOff := rfl
@[simp] theorem setEv_adcOff {i : Nat} {ev : EvRec} : (s.setEv i ev).adcOff = s.adcOff := rfl
@[simp] theorem setEv_lists {i : Nat} {ev : EvRec} : (s.setEv i ev).lists = s.lists := rfl
@[simp] theorem setEv_listPtr {i : Nat} {ev : EvRec} : (s.setEv i ev).listPtr = s.listPtr := rfl
@[simp] theorem setEv_lin {i : Nat} {ev : EvRec} : (s.setEv i ev).lin = s.lin := rfl
@[simp] theorem setEv_syns {i : Nat} {ev : EvRec} : (s.setEv i ev).syns = s.syns := rfl
@[simp] theorem setEv_synCal {i : Nat} {ev : EvRec} : (s.setEv i ev).synCal = s.synCal := rfl
@[simp] theorem setEv_loSel {i : Nat} {ev : EvRec} : (s.setEv i ev).loSel = s.loSel := rfl
@[simp] theorem setEv_fe {i : Nat} {ev : EvRec} : (s.setEv i ev).fe = s.fe := rfl
@[simp] theorem setEv_beam {i : Nat} {ev : EvRec} : (s.setEv i ev).beam = s.beam := rfl
@[simp] theorem setEv_clock {i : Nat} {ev : EvRec} : (s.setEv i ev).clock = s.clock := rfl
@[simp] theorem setEv_rx {i : Nat} {ev : EvRec} : (s.setEv i ev).rx = s.rx := rfl
@[simp] theorem setEv_time {i : Nat} {ev : EvRec} : (s.setEv i ev).time = s.time := rfl
@[simp] theorem setEv_lanes {i : Nat} {ev : EvRec} : (s.setEv i ev).lanes = s.lanes := rfl
@[simp] theorem setEv_pllLock {i : Nat} {ev : EvRec} : (s.setEv i ev).pllLock = s.pllLock := rfl
@[simp] theorem setEv_pllAt {i : Nat} {ev : EvRec} : (s.setEv i ev).pllAt = s.pllAt := rfl
@[simp] theorem setEv_pllRate {i : Nat} {ev : EvRec} : (s.setEv i ev).pllRate = s.pllRate := rfl
@[simp] theorem setEv_caps {i : Nat} {ev : EvRec} : (s.setEv i ev).caps = s.caps := rfl
@[simp] theorem setEv_slots {i : Nat} {ev : EvRec} : (s.setEv i ev).slots = s.slots := rfl
@[simp] theorem setEv_slotReady {i : Nat} {ev : EvRec} : (s.setEv i ev).slotReady = s.slotReady := rfl
@[simp] theorem setEv_dma {i : Nat} {ev : EvRec} : (s.setEv i ev).dma = s.dma := rfl
@[simp] theorem setEv_dmaArb {i : Nat} {ev : EvRec} : (s.setEv i ev).dmaArb = s.dmaArb := rfl
@[simp] theorem setEv_wdogAt {i : Nat} {ev : EvRec} : (s.setEv i ev).wdogAt = s.wdogAt := rfl
@[simp] theorem setEv_mgmtRestart {i : Nat} {ev : EvRec} : (s.setEv i ev).mgmtRestart = s.mgmtRestart := rfl
@[simp] theorem setEv_vcs {i : Nat} {ev : EvRec} : (s.setEv i ev).vcs = s.vcs := rfl
@[simp] theorem setEv_sess {i : Nat} {ev : EvRec} : (s.setEv i ev).sess = s.sess := rfl
@[simp] theorem setEv_svc {i : Nat} {ev : EvRec} : (s.setEv i ev).svc = s.svc := rfl
@[simp] theorem setEv_chain {i : Nat} {ev : EvRec} : (s.setEv i ev).chain = s.chain := rfl

@[simp] theorem setSeq_pending {i : Nat} {sq : SeqSt} : (s.setSeq i sq).pending = s.pending := rfl
@[simp] theorem setSeq_free {i : Nat} {sq : SeqSt} : (s.setSeq i sq).free = s.free := rfl
@[simp] theorem setSeq_resp {i : Nat} {sq : SeqSt} : (s.setSeq i sq).resp = s.resp := rfl
@[simp] theorem setSeq_out {i : Nat} {sq : SeqSt} : (s.setSeq i sq).out = s.out := rfl
@[simp] theorem setSeq_now {i : Nat} {sq : SeqSt} : (s.setSeq i sq).now = s.now := rfl
@[simp] theorem setSeq_wrap {i : Nat} {sq : SeqSt} : (s.setSeq i sq).wrap = s.wrap := rfl
@[simp] theorem setSeq_powered {i : Nat} {sq : SeqSt} : (s.setSeq i sq).powered = s.powered := rfl
@[simp] theorem setSeq_inReset {i : Nat} {sq : SeqSt} : (s.setSeq i sq).inReset = s.inReset := rfl
@[simp] theorem setSeq_regs {i : Nat} {sq : SeqSt} : (s.setSeq i sq).regs = s.regs := rfl
@[simp] theorem setSeq_mem {i : Nat} {sq : SeqSt} : (s.setSeq i sq).mem = s.mem := rfl
@[simp] theorem setSeq_events {i : Nat} {sq : SeqSt} : (s.setSeq i sq).events = s.events := rfl
@[simp] theorem setSeq_evPend {i : Nat} {sq : SeqSt} : (s.setSeq i sq).evPend = s.evPend := rfl
@[simp] theorem setSeq_queue {i : Nat} {sq : SeqSt} : (s.setSeq i sq).queue = s.queue := rfl
@[simp] theorem setSeq_net {i : Nat} {sq : SeqSt} : (s.setSeq i sq).net = s.net := rfl
@[simp] theorem setSeq_fns {i : Nat} {sq : SeqSt} : (s.setSeq i sq).fns = s.fns := rfl
@[simp] theorem setSeq_pathStops {i : Nat} {sq : SeqSt} : (s.setSeq i sq).pathStops = s.pathStops := rfl
@[simp] theorem setSeq_squashes {i : Nat} {sq : SeqSt} : (s.setSeq i sq).squashes = s.squashes := rfl
@[simp] theorem setSeq_txOut {i : Nat} {sq : SeqSt} : (s.setSeq i sq).txOut = s.txOut := rfl
@[simp] theorem setSeq_rxOut {i : Nat} {sq : SeqSt} : (s.setSeq i sq).rxOut = s.rxOut := rfl
@[simp] theorem setSeq_hiq {i : Nat} {sq : SeqSt} : (s.setSeq i sq).hiq = s.hiq := rfl
@[simp] theorem setSeq_miq {i : Nat} {sq : SeqSt} : (s.setSeq i sq).miq = s.miq := rfl
@[simp] theorem setSeq_ports {i : Nat} {sq : SeqSt} : (s.setSeq i sq).ports = s.ports := rfl
@[simp] theorem setSeq_vlinks {i : Nat} {sq : SeqSt} : (s.setSeq i sq).vlinks = s.vlinks := rfl
@[simp] theorem setSeq_fenced {i : Nat} {sq : SeqSt} : (s.setSeq i sq).fenced = s.fenced := rfl
@[simp] theorem setSeq_faultlog {i : Nat} {sq : SeqSt} : (s.setSeq i sq).faultlog = s.faultlog := rfl
@[simp] theorem setSeq_mode {i : Nat} {sq : SeqSt} : (s.setSeq i sq).mode = s.mode := rfl
@[simp] theorem setSeq_power {i : Nat} {sq : SeqSt} : (s.setSeq i sq).power = s.power := rfl
@[simp] theorem setSeq_pcie {i : Nat} {sq : SeqSt} : (s.setSeq i sq).pcie = s.pcie := rfl
@[simp] theorem setSeq_ffts {i : Nat} {sq : SeqSt} : (s.setSeq i sq).ffts = s.ffts := rfl
@[simp] theorem setSeq_cars {i : Nat} {sq : SeqSt} : (s.setSeq i sq).cars = s.cars := rfl
@[simp] theorem setSeq_islCars {i : Nat} {sq : SeqSt} : (s.setSeq i sq).islCars = s.islCars := rfl
@[simp] theorem setSeq_wolas {i : Nat} {sq : SeqSt} : (s.setSeq i sq).wolas = s.wolas := rfl
@[simp] theorem setSeq_cfrs {i : Nat} {sq : SeqSt} : (s.setSeq i sq).cfrs = s.cfrs := rfl
@[simp] theorem setSeq_gains {i : Nat} {sq : SeqSt} : (s.setSeq i sq).gains = s.gains := rfl
@[simp] theorem setSeq_charges {i : Nat} {sq : SeqSt} : (s.setSeq i sq).charges = s.charges := rfl
@[simp] theorem setSeq_srsCharges {i : Nat} {sq : SeqSt} : (s.setSeq i sq).srsCharges = s.srsCharges := rfl
@[simp] theorem setSeq_decls {i : Nat} {sq : SeqSt} : (s.setSeq i sq).decls = s.decls := rfl
@[simp] theorem setSeq_blanked {i : Nat} {sq : SeqSt} : (s.setSeq i sq).blanked = s.blanked := rfl
@[simp] theorem setSeq_tdSpans {i : Nat} {sq : SeqSt} : (s.setSeq i sq).tdSpans = s.tdSpans := rfl
@[simp] theorem setSeq_dacOff {i : Nat} {sq : SeqSt} : (s.setSeq i sq).dacOff = s.dacOff := rfl
@[simp] theorem setSeq_adcOff {i : Nat} {sq : SeqSt} : (s.setSeq i sq).adcOff = s.adcOff := rfl
@[simp] theorem setSeq_lists {i : Nat} {sq : SeqSt} : (s.setSeq i sq).lists = s.lists := rfl
@[simp] theorem setSeq_listPtr {i : Nat} {sq : SeqSt} : (s.setSeq i sq).listPtr = s.listPtr := rfl
@[simp] theorem setSeq_lin {i : Nat} {sq : SeqSt} : (s.setSeq i sq).lin = s.lin := rfl
@[simp] theorem setSeq_syns {i : Nat} {sq : SeqSt} : (s.setSeq i sq).syns = s.syns := rfl
@[simp] theorem setSeq_synCal {i : Nat} {sq : SeqSt} : (s.setSeq i sq).synCal = s.synCal := rfl
@[simp] theorem setSeq_loSel {i : Nat} {sq : SeqSt} : (s.setSeq i sq).loSel = s.loSel := rfl
@[simp] theorem setSeq_fe {i : Nat} {sq : SeqSt} : (s.setSeq i sq).fe = s.fe := rfl
@[simp] theorem setSeq_beam {i : Nat} {sq : SeqSt} : (s.setSeq i sq).beam = s.beam := rfl
@[simp] theorem setSeq_clock {i : Nat} {sq : SeqSt} : (s.setSeq i sq).clock = s.clock := rfl
@[simp] theorem setSeq_rx {i : Nat} {sq : SeqSt} : (s.setSeq i sq).rx = s.rx := rfl
@[simp] theorem setSeq_time {i : Nat} {sq : SeqSt} : (s.setSeq i sq).time = s.time := rfl
@[simp] theorem setSeq_lanes {i : Nat} {sq : SeqSt} : (s.setSeq i sq).lanes = s.lanes := rfl
@[simp] theorem setSeq_pllLock {i : Nat} {sq : SeqSt} : (s.setSeq i sq).pllLock = s.pllLock := rfl
@[simp] theorem setSeq_pllAt {i : Nat} {sq : SeqSt} : (s.setSeq i sq).pllAt = s.pllAt := rfl
@[simp] theorem setSeq_pllRate {i : Nat} {sq : SeqSt} : (s.setSeq i sq).pllRate = s.pllRate := rfl
@[simp] theorem setSeq_caps {i : Nat} {sq : SeqSt} : (s.setSeq i sq).caps = s.caps := rfl
@[simp] theorem setSeq_slots {i : Nat} {sq : SeqSt} : (s.setSeq i sq).slots = s.slots := rfl
@[simp] theorem setSeq_slotReady {i : Nat} {sq : SeqSt} : (s.setSeq i sq).slotReady = s.slotReady := rfl
@[simp] theorem setSeq_dma {i : Nat} {sq : SeqSt} : (s.setSeq i sq).dma = s.dma := rfl
@[simp] theorem setSeq_dmaArb {i : Nat} {sq : SeqSt} : (s.setSeq i sq).dmaArb = s.dmaArb := rfl
@[simp] theorem setSeq_wdogAt {i : Nat} {sq : SeqSt} : (s.setSeq i sq).wdogAt = s.wdogAt := rfl
@[simp] theorem setSeq_mgmtRestart {i : Nat} {sq : SeqSt} : (s.setSeq i sq).mgmtRestart = s.mgmtRestart := rfl
@[simp] theorem setSeq_vcs {i : Nat} {sq : SeqSt} : (s.setSeq i sq).vcs = s.vcs := rfl
@[simp] theorem setSeq_sess {i : Nat} {sq : SeqSt} : (s.setSeq i sq).sess = s.sess := rfl
@[simp] theorem setSeq_svc {i : Nat} {sq : SeqSt} : (s.setSeq i sq).svc = s.svc := rfl
@[simp] theorem setSeq_chain {i : Nat} {sq : SeqSt} : (s.setSeq i sq).chain = s.chain := rfl

@[simp] theorem setPort_pending {i : Nat} {pl : PortLink} : (s.setPort i pl).pending = s.pending := rfl
@[simp] theorem setPort_free {i : Nat} {pl : PortLink} : (s.setPort i pl).free = s.free := rfl
@[simp] theorem setPort_resp {i : Nat} {pl : PortLink} : (s.setPort i pl).resp = s.resp := rfl
@[simp] theorem setPort_out {i : Nat} {pl : PortLink} : (s.setPort i pl).out = s.out := rfl
@[simp] theorem setPort_now {i : Nat} {pl : PortLink} : (s.setPort i pl).now = s.now := rfl
@[simp] theorem setPort_wrap {i : Nat} {pl : PortLink} : (s.setPort i pl).wrap = s.wrap := rfl
@[simp] theorem setPort_powered {i : Nat} {pl : PortLink} : (s.setPort i pl).powered = s.powered := rfl
@[simp] theorem setPort_inReset {i : Nat} {pl : PortLink} : (s.setPort i pl).inReset = s.inReset := rfl
@[simp] theorem setPort_regs {i : Nat} {pl : PortLink} : (s.setPort i pl).regs = s.regs := rfl
@[simp] theorem setPort_mem {i : Nat} {pl : PortLink} : (s.setPort i pl).mem = s.mem := rfl
@[simp] theorem setPort_events {i : Nat} {pl : PortLink} : (s.setPort i pl).events = s.events := rfl
@[simp] theorem setPort_evPend {i : Nat} {pl : PortLink} : (s.setPort i pl).evPend = s.evPend := rfl
@[simp] theorem setPort_queue {i : Nat} {pl : PortLink} : (s.setPort i pl).queue = s.queue := rfl
@[simp] theorem setPort_net {i : Nat} {pl : PortLink} : (s.setPort i pl).net = s.net := rfl
@[simp] theorem setPort_fns {i : Nat} {pl : PortLink} : (s.setPort i pl).fns = s.fns := rfl
@[simp] theorem setPort_pathStops {i : Nat} {pl : PortLink} : (s.setPort i pl).pathStops = s.pathStops := rfl
@[simp] theorem setPort_squashes {i : Nat} {pl : PortLink} : (s.setPort i pl).squashes = s.squashes := rfl
@[simp] theorem setPort_txOut {i : Nat} {pl : PortLink} : (s.setPort i pl).txOut = s.txOut := rfl
@[simp] theorem setPort_rxOut {i : Nat} {pl : PortLink} : (s.setPort i pl).rxOut = s.rxOut := rfl
@[simp] theorem setPort_seqs {i : Nat} {pl : PortLink} : (s.setPort i pl).seqs = s.seqs := rfl
@[simp] theorem setPort_hiq {i : Nat} {pl : PortLink} : (s.setPort i pl).hiq = s.hiq := rfl
@[simp] theorem setPort_miq {i : Nat} {pl : PortLink} : (s.setPort i pl).miq = s.miq := rfl
@[simp] theorem setPort_vlinks {i : Nat} {pl : PortLink} : (s.setPort i pl).vlinks = s.vlinks := rfl
@[simp] theorem setPort_fenced {i : Nat} {pl : PortLink} : (s.setPort i pl).fenced = s.fenced := rfl
@[simp] theorem setPort_faultlog {i : Nat} {pl : PortLink} : (s.setPort i pl).faultlog = s.faultlog := rfl
@[simp] theorem setPort_mode {i : Nat} {pl : PortLink} : (s.setPort i pl).mode = s.mode := rfl
@[simp] theorem setPort_power {i : Nat} {pl : PortLink} : (s.setPort i pl).power = s.power := rfl
@[simp] theorem setPort_pcie {i : Nat} {pl : PortLink} : (s.setPort i pl).pcie = s.pcie := rfl
@[simp] theorem setPort_ffts {i : Nat} {pl : PortLink} : (s.setPort i pl).ffts = s.ffts := rfl
@[simp] theorem setPort_cars {i : Nat} {pl : PortLink} : (s.setPort i pl).cars = s.cars := rfl
@[simp] theorem setPort_islCars {i : Nat} {pl : PortLink} : (s.setPort i pl).islCars = s.islCars := rfl
@[simp] theorem setPort_wolas {i : Nat} {pl : PortLink} : (s.setPort i pl).wolas = s.wolas := rfl
@[simp] theorem setPort_cfrs {i : Nat} {pl : PortLink} : (s.setPort i pl).cfrs = s.cfrs := rfl
@[simp] theorem setPort_gains {i : Nat} {pl : PortLink} : (s.setPort i pl).gains = s.gains := rfl
@[simp] theorem setPort_charges {i : Nat} {pl : PortLink} : (s.setPort i pl).charges = s.charges := rfl
@[simp] theorem setPort_srsCharges {i : Nat} {pl : PortLink} : (s.setPort i pl).srsCharges = s.srsCharges := rfl
@[simp] theorem setPort_decls {i : Nat} {pl : PortLink} : (s.setPort i pl).decls = s.decls := rfl
@[simp] theorem setPort_blanked {i : Nat} {pl : PortLink} : (s.setPort i pl).blanked = s.blanked := rfl
@[simp] theorem setPort_tdSpans {i : Nat} {pl : PortLink} : (s.setPort i pl).tdSpans = s.tdSpans := rfl
@[simp] theorem setPort_dacOff {i : Nat} {pl : PortLink} : (s.setPort i pl).dacOff = s.dacOff := rfl
@[simp] theorem setPort_adcOff {i : Nat} {pl : PortLink} : (s.setPort i pl).adcOff = s.adcOff := rfl
@[simp] theorem setPort_lists {i : Nat} {pl : PortLink} : (s.setPort i pl).lists = s.lists := rfl
@[simp] theorem setPort_listPtr {i : Nat} {pl : PortLink} : (s.setPort i pl).listPtr = s.listPtr := rfl
@[simp] theorem setPort_lin {i : Nat} {pl : PortLink} : (s.setPort i pl).lin = s.lin := rfl
@[simp] theorem setPort_syns {i : Nat} {pl : PortLink} : (s.setPort i pl).syns = s.syns := rfl
@[simp] theorem setPort_synCal {i : Nat} {pl : PortLink} : (s.setPort i pl).synCal = s.synCal := rfl
@[simp] theorem setPort_loSel {i : Nat} {pl : PortLink} : (s.setPort i pl).loSel = s.loSel := rfl
@[simp] theorem setPort_fe {i : Nat} {pl : PortLink} : (s.setPort i pl).fe = s.fe := rfl
@[simp] theorem setPort_beam {i : Nat} {pl : PortLink} : (s.setPort i pl).beam = s.beam := rfl
@[simp] theorem setPort_clock {i : Nat} {pl : PortLink} : (s.setPort i pl).clock = s.clock := rfl
@[simp] theorem setPort_rx {i : Nat} {pl : PortLink} : (s.setPort i pl).rx = s.rx := rfl
@[simp] theorem setPort_time {i : Nat} {pl : PortLink} : (s.setPort i pl).time = s.time := rfl
@[simp] theorem setPort_lanes {i : Nat} {pl : PortLink} : (s.setPort i pl).lanes = s.lanes := rfl
@[simp] theorem setPort_pllLock {i : Nat} {pl : PortLink} : (s.setPort i pl).pllLock = s.pllLock := rfl
@[simp] theorem setPort_pllAt {i : Nat} {pl : PortLink} : (s.setPort i pl).pllAt = s.pllAt := rfl
@[simp] theorem setPort_pllRate {i : Nat} {pl : PortLink} : (s.setPort i pl).pllRate = s.pllRate := rfl
@[simp] theorem setPort_caps {i : Nat} {pl : PortLink} : (s.setPort i pl).caps = s.caps := rfl
@[simp] theorem setPort_slots {i : Nat} {pl : PortLink} : (s.setPort i pl).slots = s.slots := rfl
@[simp] theorem setPort_slotReady {i : Nat} {pl : PortLink} : (s.setPort i pl).slotReady = s.slotReady := rfl
@[simp] theorem setPort_dma {i : Nat} {pl : PortLink} : (s.setPort i pl).dma = s.dma := rfl
@[simp] theorem setPort_dmaArb {i : Nat} {pl : PortLink} : (s.setPort i pl).dmaArb = s.dmaArb := rfl
@[simp] theorem setPort_wdogAt {i : Nat} {pl : PortLink} : (s.setPort i pl).wdogAt = s.wdogAt := rfl
@[simp] theorem setPort_mgmtRestart {i : Nat} {pl : PortLink} : (s.setPort i pl).mgmtRestart = s.mgmtRestart := rfl
@[simp] theorem setPort_vcs {i : Nat} {pl : PortLink} : (s.setPort i pl).vcs = s.vcs := rfl
@[simp] theorem setPort_sess {i : Nat} {pl : PortLink} : (s.setPort i pl).sess = s.sess := rfl
@[simp] theorem setPort_svc {i : Nat} {pl : PortLink} : (s.setPort i pl).svc = s.svc := rfl
@[simp] theorem setPort_chain {i : Nat} {pl : PortLink} : (s.setPort i pl).chain = s.chain := rfl

@[simp] theorem setVl_pending {i j : Nat} {vl : VcLink} : (s.setVl i j vl).pending = s.pending := rfl
@[simp] theorem setVl_free {i j : Nat} {vl : VcLink} : (s.setVl i j vl).free = s.free := rfl
@[simp] theorem setVl_resp {i j : Nat} {vl : VcLink} : (s.setVl i j vl).resp = s.resp := rfl
@[simp] theorem setVl_out {i j : Nat} {vl : VcLink} : (s.setVl i j vl).out = s.out := rfl
@[simp] theorem setVl_now {i j : Nat} {vl : VcLink} : (s.setVl i j vl).now = s.now := rfl
@[simp] theorem setVl_wrap {i j : Nat} {vl : VcLink} : (s.setVl i j vl).wrap = s.wrap := rfl
@[simp] theorem setVl_powered {i j : Nat} {vl : VcLink} : (s.setVl i j vl).powered = s.powered := rfl
@[simp] theorem setVl_inReset {i j : Nat} {vl : VcLink} : (s.setVl i j vl).inReset = s.inReset := rfl
@[simp] theorem setVl_regs {i j : Nat} {vl : VcLink} : (s.setVl i j vl).regs = s.regs := rfl
@[simp] theorem setVl_mem {i j : Nat} {vl : VcLink} : (s.setVl i j vl).mem = s.mem := rfl
@[simp] theorem setVl_events {i j : Nat} {vl : VcLink} : (s.setVl i j vl).events = s.events := rfl
@[simp] theorem setVl_evPend {i j : Nat} {vl : VcLink} : (s.setVl i j vl).evPend = s.evPend := rfl
@[simp] theorem setVl_queue {i j : Nat} {vl : VcLink} : (s.setVl i j vl).queue = s.queue := rfl
@[simp] theorem setVl_net {i j : Nat} {vl : VcLink} : (s.setVl i j vl).net = s.net := rfl
@[simp] theorem setVl_fns {i j : Nat} {vl : VcLink} : (s.setVl i j vl).fns = s.fns := rfl
@[simp] theorem setVl_pathStops {i j : Nat} {vl : VcLink} : (s.setVl i j vl).pathStops = s.pathStops := rfl
@[simp] theorem setVl_squashes {i j : Nat} {vl : VcLink} : (s.setVl i j vl).squashes = s.squashes := rfl
@[simp] theorem setVl_txOut {i j : Nat} {vl : VcLink} : (s.setVl i j vl).txOut = s.txOut := rfl
@[simp] theorem setVl_rxOut {i j : Nat} {vl : VcLink} : (s.setVl i j vl).rxOut = s.rxOut := rfl
@[simp] theorem setVl_seqs {i j : Nat} {vl : VcLink} : (s.setVl i j vl).seqs = s.seqs := rfl
@[simp] theorem setVl_hiq {i j : Nat} {vl : VcLink} : (s.setVl i j vl).hiq = s.hiq := rfl
@[simp] theorem setVl_miq {i j : Nat} {vl : VcLink} : (s.setVl i j vl).miq = s.miq := rfl
@[simp] theorem setVl_ports {i j : Nat} {vl : VcLink} : (s.setVl i j vl).ports = s.ports := rfl
@[simp] theorem setVl_fenced {i j : Nat} {vl : VcLink} : (s.setVl i j vl).fenced = s.fenced := rfl
@[simp] theorem setVl_faultlog {i j : Nat} {vl : VcLink} : (s.setVl i j vl).faultlog = s.faultlog := rfl
@[simp] theorem setVl_mode {i j : Nat} {vl : VcLink} : (s.setVl i j vl).mode = s.mode := rfl
@[simp] theorem setVl_power {i j : Nat} {vl : VcLink} : (s.setVl i j vl).power = s.power := rfl
@[simp] theorem setVl_pcie {i j : Nat} {vl : VcLink} : (s.setVl i j vl).pcie = s.pcie := rfl
@[simp] theorem setVl_ffts {i j : Nat} {vl : VcLink} : (s.setVl i j vl).ffts = s.ffts := rfl
@[simp] theorem setVl_cars {i j : Nat} {vl : VcLink} : (s.setVl i j vl).cars = s.cars := rfl
@[simp] theorem setVl_islCars {i j : Nat} {vl : VcLink} : (s.setVl i j vl).islCars = s.islCars := rfl
@[simp] theorem setVl_wolas {i j : Nat} {vl : VcLink} : (s.setVl i j vl).wolas = s.wolas := rfl
@[simp] theorem setVl_cfrs {i j : Nat} {vl : VcLink} : (s.setVl i j vl).cfrs = s.cfrs := rfl
@[simp] theorem setVl_gains {i j : Nat} {vl : VcLink} : (s.setVl i j vl).gains = s.gains := rfl
@[simp] theorem setVl_charges {i j : Nat} {vl : VcLink} : (s.setVl i j vl).charges = s.charges := rfl
@[simp] theorem setVl_srsCharges {i j : Nat} {vl : VcLink} : (s.setVl i j vl).srsCharges = s.srsCharges := rfl
@[simp] theorem setVl_decls {i j : Nat} {vl : VcLink} : (s.setVl i j vl).decls = s.decls := rfl
@[simp] theorem setVl_blanked {i j : Nat} {vl : VcLink} : (s.setVl i j vl).blanked = s.blanked := rfl
@[simp] theorem setVl_tdSpans {i j : Nat} {vl : VcLink} : (s.setVl i j vl).tdSpans = s.tdSpans := rfl
@[simp] theorem setVl_dacOff {i j : Nat} {vl : VcLink} : (s.setVl i j vl).dacOff = s.dacOff := rfl
@[simp] theorem setVl_adcOff {i j : Nat} {vl : VcLink} : (s.setVl i j vl).adcOff = s.adcOff := rfl
@[simp] theorem setVl_lists {i j : Nat} {vl : VcLink} : (s.setVl i j vl).lists = s.lists := rfl
@[simp] theorem setVl_listPtr {i j : Nat} {vl : VcLink} : (s.setVl i j vl).listPtr = s.listPtr := rfl
@[simp] theorem setVl_lin {i j : Nat} {vl : VcLink} : (s.setVl i j vl).lin = s.lin := rfl
@[simp] theorem setVl_syns {i j : Nat} {vl : VcLink} : (s.setVl i j vl).syns = s.syns := rfl
@[simp] theorem setVl_synCal {i j : Nat} {vl : VcLink} : (s.setVl i j vl).synCal = s.synCal := rfl
@[simp] theorem setVl_loSel {i j : Nat} {vl : VcLink} : (s.setVl i j vl).loSel = s.loSel := rfl
@[simp] theorem setVl_fe {i j : Nat} {vl : VcLink} : (s.setVl i j vl).fe = s.fe := rfl
@[simp] theorem setVl_beam {i j : Nat} {vl : VcLink} : (s.setVl i j vl).beam = s.beam := rfl
@[simp] theorem setVl_clock {i j : Nat} {vl : VcLink} : (s.setVl i j vl).clock = s.clock := rfl
@[simp] theorem setVl_rx {i j : Nat} {vl : VcLink} : (s.setVl i j vl).rx = s.rx := rfl
@[simp] theorem setVl_time {i j : Nat} {vl : VcLink} : (s.setVl i j vl).time = s.time := rfl
@[simp] theorem setVl_lanes {i j : Nat} {vl : VcLink} : (s.setVl i j vl).lanes = s.lanes := rfl
@[simp] theorem setVl_pllLock {i j : Nat} {vl : VcLink} : (s.setVl i j vl).pllLock = s.pllLock := rfl
@[simp] theorem setVl_pllAt {i j : Nat} {vl : VcLink} : (s.setVl i j vl).pllAt = s.pllAt := rfl
@[simp] theorem setVl_pllRate {i j : Nat} {vl : VcLink} : (s.setVl i j vl).pllRate = s.pllRate := rfl
@[simp] theorem setVl_caps {i j : Nat} {vl : VcLink} : (s.setVl i j vl).caps = s.caps := rfl
@[simp] theorem setVl_slots {i j : Nat} {vl : VcLink} : (s.setVl i j vl).slots = s.slots := rfl
@[simp] theorem setVl_slotReady {i j : Nat} {vl : VcLink} : (s.setVl i j vl).slotReady = s.slotReady := rfl
@[simp] theorem setVl_dma {i j : Nat} {vl : VcLink} : (s.setVl i j vl).dma = s.dma := rfl
@[simp] theorem setVl_dmaArb {i j : Nat} {vl : VcLink} : (s.setVl i j vl).dmaArb = s.dmaArb := rfl
@[simp] theorem setVl_wdogAt {i j : Nat} {vl : VcLink} : (s.setVl i j vl).wdogAt = s.wdogAt := rfl
@[simp] theorem setVl_mgmtRestart {i j : Nat} {vl : VcLink} : (s.setVl i j vl).mgmtRestart = s.mgmtRestart := rfl
@[simp] theorem setVl_vcs {i j : Nat} {vl : VcLink} : (s.setVl i j vl).vcs = s.vcs := rfl
@[simp] theorem setVl_sess {i j : Nat} {vl : VcLink} : (s.setVl i j vl).sess = s.sess := rfl
@[simp] theorem setVl_svc {i j : Nat} {vl : VcLink} : (s.setVl i j vl).svc = s.svc := rfl
@[simp] theorem setVl_chain {i j : Nat} {vl : VcLink} : (s.setVl i j vl).chain = s.chain := rfl

@[simp] theorem setFn_pending {i j : Nat} {fs : FnSt} : (s.setFn i j fs).pending = s.pending := rfl
@[simp] theorem setFn_free {i j : Nat} {fs : FnSt} : (s.setFn i j fs).free = s.free := rfl
@[simp] theorem setFn_resp {i j : Nat} {fs : FnSt} : (s.setFn i j fs).resp = s.resp := rfl
@[simp] theorem setFn_out {i j : Nat} {fs : FnSt} : (s.setFn i j fs).out = s.out := rfl
@[simp] theorem setFn_now {i j : Nat} {fs : FnSt} : (s.setFn i j fs).now = s.now := rfl
@[simp] theorem setFn_wrap {i j : Nat} {fs : FnSt} : (s.setFn i j fs).wrap = s.wrap := rfl
@[simp] theorem setFn_powered {i j : Nat} {fs : FnSt} : (s.setFn i j fs).powered = s.powered := rfl
@[simp] theorem setFn_inReset {i j : Nat} {fs : FnSt} : (s.setFn i j fs).inReset = s.inReset := rfl
@[simp] theorem setFn_regs {i j : Nat} {fs : FnSt} : (s.setFn i j fs).regs = s.regs := rfl
@[simp] theorem setFn_mem {i j : Nat} {fs : FnSt} : (s.setFn i j fs).mem = s.mem := rfl
@[simp] theorem setFn_events {i j : Nat} {fs : FnSt} : (s.setFn i j fs).events = s.events := rfl
@[simp] theorem setFn_evPend {i j : Nat} {fs : FnSt} : (s.setFn i j fs).evPend = s.evPend := rfl
@[simp] theorem setFn_queue {i j : Nat} {fs : FnSt} : (s.setFn i j fs).queue = s.queue := rfl
@[simp] theorem setFn_net {i j : Nat} {fs : FnSt} : (s.setFn i j fs).net = s.net := rfl
@[simp] theorem setFn_pathStops {i j : Nat} {fs : FnSt} : (s.setFn i j fs).pathStops = s.pathStops := rfl
@[simp] theorem setFn_squashes {i j : Nat} {fs : FnSt} : (s.setFn i j fs).squashes = s.squashes := rfl
@[simp] theorem setFn_txOut {i j : Nat} {fs : FnSt} : (s.setFn i j fs).txOut = s.txOut := rfl
@[simp] theorem setFn_rxOut {i j : Nat} {fs : FnSt} : (s.setFn i j fs).rxOut = s.rxOut := rfl
@[simp] theorem setFn_seqs {i j : Nat} {fs : FnSt} : (s.setFn i j fs).seqs = s.seqs := rfl
@[simp] theorem setFn_hiq {i j : Nat} {fs : FnSt} : (s.setFn i j fs).hiq = s.hiq := rfl
@[simp] theorem setFn_miq {i j : Nat} {fs : FnSt} : (s.setFn i j fs).miq = s.miq := rfl
@[simp] theorem setFn_ports {i j : Nat} {fs : FnSt} : (s.setFn i j fs).ports = s.ports := rfl
@[simp] theorem setFn_vlinks {i j : Nat} {fs : FnSt} : (s.setFn i j fs).vlinks = s.vlinks := rfl
@[simp] theorem setFn_fenced {i j : Nat} {fs : FnSt} : (s.setFn i j fs).fenced = s.fenced := rfl
@[simp] theorem setFn_faultlog {i j : Nat} {fs : FnSt} : (s.setFn i j fs).faultlog = s.faultlog := rfl
@[simp] theorem setFn_mode {i j : Nat} {fs : FnSt} : (s.setFn i j fs).mode = s.mode := rfl
@[simp] theorem setFn_power {i j : Nat} {fs : FnSt} : (s.setFn i j fs).power = s.power := rfl
@[simp] theorem setFn_pcie {i j : Nat} {fs : FnSt} : (s.setFn i j fs).pcie = s.pcie := rfl
@[simp] theorem setFn_ffts {i j : Nat} {fs : FnSt} : (s.setFn i j fs).ffts = s.ffts := rfl
@[simp] theorem setFn_cars {i j : Nat} {fs : FnSt} : (s.setFn i j fs).cars = s.cars := rfl
@[simp] theorem setFn_islCars {i j : Nat} {fs : FnSt} : (s.setFn i j fs).islCars = s.islCars := rfl
@[simp] theorem setFn_wolas {i j : Nat} {fs : FnSt} : (s.setFn i j fs).wolas = s.wolas := rfl
@[simp] theorem setFn_cfrs {i j : Nat} {fs : FnSt} : (s.setFn i j fs).cfrs = s.cfrs := rfl
@[simp] theorem setFn_gains {i j : Nat} {fs : FnSt} : (s.setFn i j fs).gains = s.gains := rfl
@[simp] theorem setFn_charges {i j : Nat} {fs : FnSt} : (s.setFn i j fs).charges = s.charges := rfl
@[simp] theorem setFn_srsCharges {i j : Nat} {fs : FnSt} : (s.setFn i j fs).srsCharges = s.srsCharges := rfl
@[simp] theorem setFn_decls {i j : Nat} {fs : FnSt} : (s.setFn i j fs).decls = s.decls := rfl
@[simp] theorem setFn_blanked {i j : Nat} {fs : FnSt} : (s.setFn i j fs).blanked = s.blanked := rfl
@[simp] theorem setFn_tdSpans {i j : Nat} {fs : FnSt} : (s.setFn i j fs).tdSpans = s.tdSpans := rfl
@[simp] theorem setFn_dacOff {i j : Nat} {fs : FnSt} : (s.setFn i j fs).dacOff = s.dacOff := rfl
@[simp] theorem setFn_adcOff {i j : Nat} {fs : FnSt} : (s.setFn i j fs).adcOff = s.adcOff := rfl
@[simp] theorem setFn_lists {i j : Nat} {fs : FnSt} : (s.setFn i j fs).lists = s.lists := rfl
@[simp] theorem setFn_listPtr {i j : Nat} {fs : FnSt} : (s.setFn i j fs).listPtr = s.listPtr := rfl
@[simp] theorem setFn_lin {i j : Nat} {fs : FnSt} : (s.setFn i j fs).lin = s.lin := rfl
@[simp] theorem setFn_syns {i j : Nat} {fs : FnSt} : (s.setFn i j fs).syns = s.syns := rfl
@[simp] theorem setFn_synCal {i j : Nat} {fs : FnSt} : (s.setFn i j fs).synCal = s.synCal := rfl
@[simp] theorem setFn_loSel {i j : Nat} {fs : FnSt} : (s.setFn i j fs).loSel = s.loSel := rfl
@[simp] theorem setFn_fe {i j : Nat} {fs : FnSt} : (s.setFn i j fs).fe = s.fe := rfl
@[simp] theorem setFn_beam {i j : Nat} {fs : FnSt} : (s.setFn i j fs).beam = s.beam := rfl
@[simp] theorem setFn_clock {i j : Nat} {fs : FnSt} : (s.setFn i j fs).clock = s.clock := rfl
@[simp] theorem setFn_rx {i j : Nat} {fs : FnSt} : (s.setFn i j fs).rx = s.rx := rfl
@[simp] theorem setFn_time {i j : Nat} {fs : FnSt} : (s.setFn i j fs).time = s.time := rfl
@[simp] theorem setFn_lanes {i j : Nat} {fs : FnSt} : (s.setFn i j fs).lanes = s.lanes := rfl
@[simp] theorem setFn_pllLock {i j : Nat} {fs : FnSt} : (s.setFn i j fs).pllLock = s.pllLock := rfl
@[simp] theorem setFn_pllAt {i j : Nat} {fs : FnSt} : (s.setFn i j fs).pllAt = s.pllAt := rfl
@[simp] theorem setFn_pllRate {i j : Nat} {fs : FnSt} : (s.setFn i j fs).pllRate = s.pllRate := rfl
@[simp] theorem setFn_caps {i j : Nat} {fs : FnSt} : (s.setFn i j fs).caps = s.caps := rfl
@[simp] theorem setFn_slots {i j : Nat} {fs : FnSt} : (s.setFn i j fs).slots = s.slots := rfl
@[simp] theorem setFn_slotReady {i j : Nat} {fs : FnSt} : (s.setFn i j fs).slotReady = s.slotReady := rfl
@[simp] theorem setFn_dma {i j : Nat} {fs : FnSt} : (s.setFn i j fs).dma = s.dma := rfl
@[simp] theorem setFn_dmaArb {i j : Nat} {fs : FnSt} : (s.setFn i j fs).dmaArb = s.dmaArb := rfl
@[simp] theorem setFn_wdogAt {i j : Nat} {fs : FnSt} : (s.setFn i j fs).wdogAt = s.wdogAt := rfl
@[simp] theorem setFn_mgmtRestart {i j : Nat} {fs : FnSt} : (s.setFn i j fs).mgmtRestart = s.mgmtRestart := rfl
@[simp] theorem setFn_vcs {i j : Nat} {fs : FnSt} : (s.setFn i j fs).vcs = s.vcs := rfl
@[simp] theorem setFn_sess {i j : Nat} {fs : FnSt} : (s.setFn i j fs).sess = s.sess := rfl
@[simp] theorem setFn_svc {i j : Nat} {fs : FnSt} : (s.setFn i j fs).svc = s.svc := rfl
@[simp] theorem setFn_chain {i j : Nat} {fs : FnSt} : (s.setFn i j fs).chain = s.chain := rfl

@[simp] theorem setTilePower_pending {i : Nat} {pm : PMachine} : (s.setTilePower i pm).pending = s.pending := rfl
@[simp] theorem setTilePower_free {i : Nat} {pm : PMachine} : (s.setTilePower i pm).free = s.free := rfl
@[simp] theorem setTilePower_resp {i : Nat} {pm : PMachine} : (s.setTilePower i pm).resp = s.resp := rfl
@[simp] theorem setTilePower_out {i : Nat} {pm : PMachine} : (s.setTilePower i pm).out = s.out := rfl
@[simp] theorem setTilePower_now {i : Nat} {pm : PMachine} : (s.setTilePower i pm).now = s.now := rfl
@[simp] theorem setTilePower_wrap {i : Nat} {pm : PMachine} : (s.setTilePower i pm).wrap = s.wrap := rfl
@[simp] theorem setTilePower_powered {i : Nat} {pm : PMachine} : (s.setTilePower i pm).powered = s.powered := rfl
@[simp] theorem setTilePower_inReset {i : Nat} {pm : PMachine} : (s.setTilePower i pm).inReset = s.inReset := rfl
@[simp] theorem setTilePower_regs {i : Nat} {pm : PMachine} : (s.setTilePower i pm).regs = s.regs := rfl
@[simp] theorem setTilePower_mem {i : Nat} {pm : PMachine} : (s.setTilePower i pm).mem = s.mem := rfl
@[simp] theorem setTilePower_events {i : Nat} {pm : PMachine} : (s.setTilePower i pm).events = s.events := rfl
@[simp] theorem setTilePower_evPend {i : Nat} {pm : PMachine} : (s.setTilePower i pm).evPend = s.evPend := rfl
@[simp] theorem setTilePower_queue {i : Nat} {pm : PMachine} : (s.setTilePower i pm).queue = s.queue := rfl
@[simp] theorem setTilePower_net {i : Nat} {pm : PMachine} : (s.setTilePower i pm).net = s.net := rfl
@[simp] theorem setTilePower_fns {i : Nat} {pm : PMachine} : (s.setTilePower i pm).fns = s.fns := rfl
@[simp] theorem setTilePower_pathStops {i : Nat} {pm : PMachine} : (s.setTilePower i pm).pathStops = s.pathStops := rfl
@[simp] theorem setTilePower_squashes {i : Nat} {pm : PMachine} : (s.setTilePower i pm).squashes = s.squashes := rfl
@[simp] theorem setTilePower_txOut {i : Nat} {pm : PMachine} : (s.setTilePower i pm).txOut = s.txOut := rfl
@[simp] theorem setTilePower_rxOut {i : Nat} {pm : PMachine} : (s.setTilePower i pm).rxOut = s.rxOut := rfl
@[simp] theorem setTilePower_seqs {i : Nat} {pm : PMachine} : (s.setTilePower i pm).seqs = s.seqs := rfl
@[simp] theorem setTilePower_hiq {i : Nat} {pm : PMachine} : (s.setTilePower i pm).hiq = s.hiq := rfl
@[simp] theorem setTilePower_miq {i : Nat} {pm : PMachine} : (s.setTilePower i pm).miq = s.miq := rfl
@[simp] theorem setTilePower_ports {i : Nat} {pm : PMachine} : (s.setTilePower i pm).ports = s.ports := rfl
@[simp] theorem setTilePower_vlinks {i : Nat} {pm : PMachine} : (s.setTilePower i pm).vlinks = s.vlinks := rfl
@[simp] theorem setTilePower_fenced {i : Nat} {pm : PMachine} : (s.setTilePower i pm).fenced = s.fenced := rfl
@[simp] theorem setTilePower_faultlog {i : Nat} {pm : PMachine} : (s.setTilePower i pm).faultlog = s.faultlog := rfl
@[simp] theorem setTilePower_mode {i : Nat} {pm : PMachine} : (s.setTilePower i pm).mode = s.mode := rfl
@[simp] theorem setTilePower_pcie {i : Nat} {pm : PMachine} : (s.setTilePower i pm).pcie = s.pcie := rfl
@[simp] theorem setTilePower_ffts {i : Nat} {pm : PMachine} : (s.setTilePower i pm).ffts = s.ffts := rfl
@[simp] theorem setTilePower_cars {i : Nat} {pm : PMachine} : (s.setTilePower i pm).cars = s.cars := rfl
@[simp] theorem setTilePower_islCars {i : Nat} {pm : PMachine} : (s.setTilePower i pm).islCars = s.islCars := rfl
@[simp] theorem setTilePower_wolas {i : Nat} {pm : PMachine} : (s.setTilePower i pm).wolas = s.wolas := rfl
@[simp] theorem setTilePower_cfrs {i : Nat} {pm : PMachine} : (s.setTilePower i pm).cfrs = s.cfrs := rfl
@[simp] theorem setTilePower_gains {i : Nat} {pm : PMachine} : (s.setTilePower i pm).gains = s.gains := rfl
@[simp] theorem setTilePower_charges {i : Nat} {pm : PMachine} : (s.setTilePower i pm).charges = s.charges := rfl
@[simp] theorem setTilePower_srsCharges {i : Nat} {pm : PMachine} : (s.setTilePower i pm).srsCharges = s.srsCharges := rfl
@[simp] theorem setTilePower_decls {i : Nat} {pm : PMachine} : (s.setTilePower i pm).decls = s.decls := rfl
@[simp] theorem setTilePower_blanked {i : Nat} {pm : PMachine} : (s.setTilePower i pm).blanked = s.blanked := rfl
@[simp] theorem setTilePower_tdSpans {i : Nat} {pm : PMachine} : (s.setTilePower i pm).tdSpans = s.tdSpans := rfl
@[simp] theorem setTilePower_dacOff {i : Nat} {pm : PMachine} : (s.setTilePower i pm).dacOff = s.dacOff := rfl
@[simp] theorem setTilePower_adcOff {i : Nat} {pm : PMachine} : (s.setTilePower i pm).adcOff = s.adcOff := rfl
@[simp] theorem setTilePower_lists {i : Nat} {pm : PMachine} : (s.setTilePower i pm).lists = s.lists := rfl
@[simp] theorem setTilePower_listPtr {i : Nat} {pm : PMachine} : (s.setTilePower i pm).listPtr = s.listPtr := rfl
@[simp] theorem setTilePower_lin {i : Nat} {pm : PMachine} : (s.setTilePower i pm).lin = s.lin := rfl
@[simp] theorem setTilePower_syns {i : Nat} {pm : PMachine} : (s.setTilePower i pm).syns = s.syns := rfl
@[simp] theorem setTilePower_synCal {i : Nat} {pm : PMachine} : (s.setTilePower i pm).synCal = s.synCal := rfl
@[simp] theorem setTilePower_loSel {i : Nat} {pm : PMachine} : (s.setTilePower i pm).loSel = s.loSel := rfl
@[simp] theorem setTilePower_fe {i : Nat} {pm : PMachine} : (s.setTilePower i pm).fe = s.fe := rfl
@[simp] theorem setTilePower_beam {i : Nat} {pm : PMachine} : (s.setTilePower i pm).beam = s.beam := rfl
@[simp] theorem setTilePower_clock {i : Nat} {pm : PMachine} : (s.setTilePower i pm).clock = s.clock := rfl
@[simp] theorem setTilePower_rx {i : Nat} {pm : PMachine} : (s.setTilePower i pm).rx = s.rx := rfl
@[simp] theorem setTilePower_time {i : Nat} {pm : PMachine} : (s.setTilePower i pm).time = s.time := rfl
@[simp] theorem setTilePower_lanes {i : Nat} {pm : PMachine} : (s.setTilePower i pm).lanes = s.lanes := rfl
@[simp] theorem setTilePower_pllLock {i : Nat} {pm : PMachine} : (s.setTilePower i pm).pllLock = s.pllLock := rfl
@[simp] theorem setTilePower_pllAt {i : Nat} {pm : PMachine} : (s.setTilePower i pm).pllAt = s.pllAt := rfl
@[simp] theorem setTilePower_pllRate {i : Nat} {pm : PMachine} : (s.setTilePower i pm).pllRate = s.pllRate := rfl
@[simp] theorem setTilePower_caps {i : Nat} {pm : PMachine} : (s.setTilePower i pm).caps = s.caps := rfl
@[simp] theorem setTilePower_slots {i : Nat} {pm : PMachine} : (s.setTilePower i pm).slots = s.slots := rfl
@[simp] theorem setTilePower_slotReady {i : Nat} {pm : PMachine} : (s.setTilePower i pm).slotReady = s.slotReady := rfl
@[simp] theorem setTilePower_dma {i : Nat} {pm : PMachine} : (s.setTilePower i pm).dma = s.dma := rfl
@[simp] theorem setTilePower_dmaArb {i : Nat} {pm : PMachine} : (s.setTilePower i pm).dmaArb = s.dmaArb := rfl
@[simp] theorem setTilePower_wdogAt {i : Nat} {pm : PMachine} : (s.setTilePower i pm).wdogAt = s.wdogAt := rfl
@[simp] theorem setTilePower_mgmtRestart {i : Nat} {pm : PMachine} : (s.setTilePower i pm).mgmtRestart = s.mgmtRestart := rfl
@[simp] theorem setTilePower_vcs {i : Nat} {pm : PMachine} : (s.setTilePower i pm).vcs = s.vcs := rfl
@[simp] theorem setTilePower_sess {i : Nat} {pm : PMachine} : (s.setTilePower i pm).sess = s.sess := rfl
@[simp] theorem setTilePower_svc {i : Nat} {pm : PMachine} : (s.setTilePower i pm).svc = s.svc := rfl
@[simp] theorem setTilePower_chain {i : Nat} {pm : PMachine} : (s.setTilePower i pm).chain = s.chain := rfl

@[simp] theorem emitOut_pending {o : Out} : (s.emitOut o).pending = s.pending := rfl
@[simp] theorem emitOut_free {o : Out} : (s.emitOut o).free = s.free := rfl
@[simp] theorem emitOut_resp {o : Out} : (s.emitOut o).resp = s.resp := rfl
@[simp] theorem emitOut_now {o : Out} : (s.emitOut o).now = s.now := rfl
@[simp] theorem emitOut_wrap {o : Out} : (s.emitOut o).wrap = s.wrap := rfl
@[simp] theorem emitOut_powered {o : Out} : (s.emitOut o).powered = s.powered := rfl
@[simp] theorem emitOut_inReset {o : Out} : (s.emitOut o).inReset = s.inReset := rfl
@[simp] theorem emitOut_regs {o : Out} : (s.emitOut o).regs = s.regs := rfl
@[simp] theorem emitOut_mem {o : Out} : (s.emitOut o).mem = s.mem := rfl
@[simp] theorem emitOut_events {o : Out} : (s.emitOut o).events = s.events := rfl
@[simp] theorem emitOut_evPend {o : Out} : (s.emitOut o).evPend = s.evPend := rfl
@[simp] theorem emitOut_queue {o : Out} : (s.emitOut o).queue = s.queue := rfl
@[simp] theorem emitOut_net {o : Out} : (s.emitOut o).net = s.net := rfl
@[simp] theorem emitOut_fns {o : Out} : (s.emitOut o).fns = s.fns := rfl
@[simp] theorem emitOut_pathStops {o : Out} : (s.emitOut o).pathStops = s.pathStops := rfl
@[simp] theorem emitOut_squashes {o : Out} : (s.emitOut o).squashes = s.squashes := rfl
@[simp] theorem emitOut_txOut {o : Out} : (s.emitOut o).txOut = s.txOut := rfl
@[simp] theorem emitOut_rxOut {o : Out} : (s.emitOut o).rxOut = s.rxOut := rfl
@[simp] theorem emitOut_seqs {o : Out} : (s.emitOut o).seqs = s.seqs := rfl
@[simp] theorem emitOut_hiq {o : Out} : (s.emitOut o).hiq = s.hiq := rfl
@[simp] theorem emitOut_miq {o : Out} : (s.emitOut o).miq = s.miq := rfl
@[simp] theorem emitOut_ports {o : Out} : (s.emitOut o).ports = s.ports := rfl
@[simp] theorem emitOut_vlinks {o : Out} : (s.emitOut o).vlinks = s.vlinks := rfl
@[simp] theorem emitOut_fenced {o : Out} : (s.emitOut o).fenced = s.fenced := rfl
@[simp] theorem emitOut_faultlog {o : Out} : (s.emitOut o).faultlog = s.faultlog := rfl
@[simp] theorem emitOut_mode {o : Out} : (s.emitOut o).mode = s.mode := rfl
@[simp] theorem emitOut_power {o : Out} : (s.emitOut o).power = s.power := rfl
@[simp] theorem emitOut_pcie {o : Out} : (s.emitOut o).pcie = s.pcie := rfl
@[simp] theorem emitOut_ffts {o : Out} : (s.emitOut o).ffts = s.ffts := rfl
@[simp] theorem emitOut_cars {o : Out} : (s.emitOut o).cars = s.cars := rfl
@[simp] theorem emitOut_islCars {o : Out} : (s.emitOut o).islCars = s.islCars := rfl
@[simp] theorem emitOut_wolas {o : Out} : (s.emitOut o).wolas = s.wolas := rfl
@[simp] theorem emitOut_cfrs {o : Out} : (s.emitOut o).cfrs = s.cfrs := rfl
@[simp] theorem emitOut_gains {o : Out} : (s.emitOut o).gains = s.gains := rfl
@[simp] theorem emitOut_charges {o : Out} : (s.emitOut o).charges = s.charges := rfl
@[simp] theorem emitOut_srsCharges {o : Out} : (s.emitOut o).srsCharges = s.srsCharges := rfl
@[simp] theorem emitOut_decls {o : Out} : (s.emitOut o).decls = s.decls := rfl
@[simp] theorem emitOut_blanked {o : Out} : (s.emitOut o).blanked = s.blanked := rfl
@[simp] theorem emitOut_tdSpans {o : Out} : (s.emitOut o).tdSpans = s.tdSpans := rfl
@[simp] theorem emitOut_dacOff {o : Out} : (s.emitOut o).dacOff = s.dacOff := rfl
@[simp] theorem emitOut_adcOff {o : Out} : (s.emitOut o).adcOff = s.adcOff := rfl
@[simp] theorem emitOut_lists {o : Out} : (s.emitOut o).lists = s.lists := rfl
@[simp] theorem emitOut_listPtr {o : Out} : (s.emitOut o).listPtr = s.listPtr := rfl
@[simp] theorem emitOut_lin {o : Out} : (s.emitOut o).lin = s.lin := rfl
@[simp] theorem emitOut_syns {o : Out} : (s.emitOut o).syns = s.syns := rfl
@[simp] theorem emitOut_synCal {o : Out} : (s.emitOut o).synCal = s.synCal := rfl
@[simp] theorem emitOut_loSel {o : Out} : (s.emitOut o).loSel = s.loSel := rfl
@[simp] theorem emitOut_fe {o : Out} : (s.emitOut o).fe = s.fe := rfl
@[simp] theorem emitOut_beam {o : Out} : (s.emitOut o).beam = s.beam := rfl
@[simp] theorem emitOut_clock {o : Out} : (s.emitOut o).clock = s.clock := rfl
@[simp] theorem emitOut_rx {o : Out} : (s.emitOut o).rx = s.rx := rfl
@[simp] theorem emitOut_time {o : Out} : (s.emitOut o).time = s.time := rfl
@[simp] theorem emitOut_lanes {o : Out} : (s.emitOut o).lanes = s.lanes := rfl
@[simp] theorem emitOut_pllLock {o : Out} : (s.emitOut o).pllLock = s.pllLock := rfl
@[simp] theorem emitOut_pllAt {o : Out} : (s.emitOut o).pllAt = s.pllAt := rfl
@[simp] theorem emitOut_pllRate {o : Out} : (s.emitOut o).pllRate = s.pllRate := rfl
@[simp] theorem emitOut_caps {o : Out} : (s.emitOut o).caps = s.caps := rfl
@[simp] theorem emitOut_slots {o : Out} : (s.emitOut o).slots = s.slots := rfl
@[simp] theorem emitOut_slotReady {o : Out} : (s.emitOut o).slotReady = s.slotReady := rfl
@[simp] theorem emitOut_dma {o : Out} : (s.emitOut o).dma = s.dma := rfl
@[simp] theorem emitOut_dmaArb {o : Out} : (s.emitOut o).dmaArb = s.dmaArb := rfl
@[simp] theorem emitOut_wdogAt {o : Out} : (s.emitOut o).wdogAt = s.wdogAt := rfl
@[simp] theorem emitOut_mgmtRestart {o : Out} : (s.emitOut o).mgmtRestart = s.mgmtRestart := rfl
@[simp] theorem emitOut_vcs {o : Out} : (s.emitOut o).vcs = s.vcs := rfl
@[simp] theorem emitOut_sess {o : Out} : (s.emitOut o).sess = s.sess := rfl
@[simp] theorem emitOut_svc {o : Out} : (s.emitOut o).svc = s.svc := rfl
@[simp] theorem emitOut_chain {o : Out} : (s.emitOut o).chain = s.chain := rfl

@[simp] theorem done_pending : (s.done).pending = s.pending := rfl
@[simp] theorem done_free : (s.done).free = s.free := rfl
@[simp] theorem done_out : (s.done).out = s.out := rfl
@[simp] theorem done_now : (s.done).now = s.now := rfl
@[simp] theorem done_wrap : (s.done).wrap = s.wrap := rfl
@[simp] theorem done_powered : (s.done).powered = s.powered := rfl
@[simp] theorem done_inReset : (s.done).inReset = s.inReset := rfl
@[simp] theorem done_regs : (s.done).regs = s.regs := rfl
@[simp] theorem done_mem : (s.done).mem = s.mem := rfl
@[simp] theorem done_events : (s.done).events = s.events := rfl
@[simp] theorem done_evPend : (s.done).evPend = s.evPend := rfl
@[simp] theorem done_queue : (s.done).queue = s.queue := rfl
@[simp] theorem done_net : (s.done).net = s.net := rfl
@[simp] theorem done_fns : (s.done).fns = s.fns := rfl
@[simp] theorem done_pathStops : (s.done).pathStops = s.pathStops := rfl
@[simp] theorem done_squashes : (s.done).squashes = s.squashes := rfl
@[simp] theorem done_txOut : (s.done).txOut = s.txOut := rfl
@[simp] theorem done_rxOut : (s.done).rxOut = s.rxOut := rfl
@[simp] theorem done_seqs : (s.done).seqs = s.seqs := rfl
@[simp] theorem done_hiq : (s.done).hiq = s.hiq := rfl
@[simp] theorem done_miq : (s.done).miq = s.miq := rfl
@[simp] theorem done_ports : (s.done).ports = s.ports := rfl
@[simp] theorem done_vlinks : (s.done).vlinks = s.vlinks := rfl
@[simp] theorem done_fenced : (s.done).fenced = s.fenced := rfl
@[simp] theorem done_faultlog : (s.done).faultlog = s.faultlog := rfl
@[simp] theorem done_mode : (s.done).mode = s.mode := rfl
@[simp] theorem done_power : (s.done).power = s.power := rfl
@[simp] theorem done_pcie : (s.done).pcie = s.pcie := rfl
@[simp] theorem done_ffts : (s.done).ffts = s.ffts := rfl
@[simp] theorem done_cars : (s.done).cars = s.cars := rfl
@[simp] theorem done_islCars : (s.done).islCars = s.islCars := rfl
@[simp] theorem done_wolas : (s.done).wolas = s.wolas := rfl
@[simp] theorem done_cfrs : (s.done).cfrs = s.cfrs := rfl
@[simp] theorem done_gains : (s.done).gains = s.gains := rfl
@[simp] theorem done_charges : (s.done).charges = s.charges := rfl
@[simp] theorem done_srsCharges : (s.done).srsCharges = s.srsCharges := rfl
@[simp] theorem done_decls : (s.done).decls = s.decls := rfl
@[simp] theorem done_blanked : (s.done).blanked = s.blanked := rfl
@[simp] theorem done_tdSpans : (s.done).tdSpans = s.tdSpans := rfl
@[simp] theorem done_dacOff : (s.done).dacOff = s.dacOff := rfl
@[simp] theorem done_adcOff : (s.done).adcOff = s.adcOff := rfl
@[simp] theorem done_lists : (s.done).lists = s.lists := rfl
@[simp] theorem done_listPtr : (s.done).listPtr = s.listPtr := rfl
@[simp] theorem done_lin : (s.done).lin = s.lin := rfl
@[simp] theorem done_syns : (s.done).syns = s.syns := rfl
@[simp] theorem done_synCal : (s.done).synCal = s.synCal := rfl
@[simp] theorem done_loSel : (s.done).loSel = s.loSel := rfl
@[simp] theorem done_fe : (s.done).fe = s.fe := rfl
@[simp] theorem done_beam : (s.done).beam = s.beam := rfl
@[simp] theorem done_clock : (s.done).clock = s.clock := rfl
@[simp] theorem done_rx : (s.done).rx = s.rx := rfl
@[simp] theorem done_time : (s.done).time = s.time := rfl
@[simp] theorem done_lanes : (s.done).lanes = s.lanes := rfl
@[simp] theorem done_pllLock : (s.done).pllLock = s.pllLock := rfl
@[simp] theorem done_pllAt : (s.done).pllAt = s.pllAt := rfl
@[simp] theorem done_pllRate : (s.done).pllRate = s.pllRate := rfl
@[simp] theorem done_caps : (s.done).caps = s.caps := rfl
@[simp] theorem done_slots : (s.done).slots = s.slots := rfl
@[simp] theorem done_slotReady : (s.done).slotReady = s.slotReady := rfl
@[simp] theorem done_dma : (s.done).dma = s.dma := rfl
@[simp] theorem done_dmaArb : (s.done).dmaArb = s.dmaArb := rfl
@[simp] theorem done_wdogAt : (s.done).wdogAt = s.wdogAt := rfl
@[simp] theorem done_mgmtRestart : (s.done).mgmtRestart = s.mgmtRestart := rfl
@[simp] theorem done_vcs : (s.done).vcs = s.vcs := rfl
@[simp] theorem done_sess : (s.done).sess = s.sess := rfl
@[simp] theorem done_svc : (s.done).svc = s.svc := rfl
@[simp] theorem done_chain : (s.done).chain = s.chain := rfl

@[simp] theorem error_pending : (s.error).pending = s.pending := rfl
@[simp] theorem error_free : (s.error).free = s.free := rfl
@[simp] theorem error_out : (s.error).out = s.out := rfl
@[simp] theorem error_now : (s.error).now = s.now := rfl
@[simp] theorem error_wrap : (s.error).wrap = s.wrap := rfl
@[simp] theorem error_powered : (s.error).powered = s.powered := rfl
@[simp] theorem error_inReset : (s.error).inReset = s.inReset := rfl
@[simp] theorem error_regs : (s.error).regs = s.regs := rfl
@[simp] theorem error_mem : (s.error).mem = s.mem := rfl
@[simp] theorem error_events : (s.error).events = s.events := rfl
@[simp] theorem error_evPend : (s.error).evPend = s.evPend := rfl
@[simp] theorem error_queue : (s.error).queue = s.queue := rfl
@[simp] theorem error_net : (s.error).net = s.net := rfl
@[simp] theorem error_fns : (s.error).fns = s.fns := rfl
@[simp] theorem error_pathStops : (s.error).pathStops = s.pathStops := rfl
@[simp] theorem error_squashes : (s.error).squashes = s.squashes := rfl
@[simp] theorem error_txOut : (s.error).txOut = s.txOut := rfl
@[simp] theorem error_rxOut : (s.error).rxOut = s.rxOut := rfl
@[simp] theorem error_seqs : (s.error).seqs = s.seqs := rfl
@[simp] theorem error_hiq : (s.error).hiq = s.hiq := rfl
@[simp] theorem error_miq : (s.error).miq = s.miq := rfl
@[simp] theorem error_ports : (s.error).ports = s.ports := rfl
@[simp] theorem error_vlinks : (s.error).vlinks = s.vlinks := rfl
@[simp] theorem error_fenced : (s.error).fenced = s.fenced := rfl
@[simp] theorem error_faultlog : (s.error).faultlog = s.faultlog := rfl
@[simp] theorem error_mode : (s.error).mode = s.mode := rfl
@[simp] theorem error_power : (s.error).power = s.power := rfl
@[simp] theorem error_pcie : (s.error).pcie = s.pcie := rfl
@[simp] theorem error_ffts : (s.error).ffts = s.ffts := rfl
@[simp] theorem error_cars : (s.error).cars = s.cars := rfl
@[simp] theorem error_islCars : (s.error).islCars = s.islCars := rfl
@[simp] theorem error_wolas : (s.error).wolas = s.wolas := rfl
@[simp] theorem error_cfrs : (s.error).cfrs = s.cfrs := rfl
@[simp] theorem error_gains : (s.error).gains = s.gains := rfl
@[simp] theorem error_charges : (s.error).charges = s.charges := rfl
@[simp] theorem error_srsCharges : (s.error).srsCharges = s.srsCharges := rfl
@[simp] theorem error_decls : (s.error).decls = s.decls := rfl
@[simp] theorem error_blanked : (s.error).blanked = s.blanked := rfl
@[simp] theorem error_tdSpans : (s.error).tdSpans = s.tdSpans := rfl
@[simp] theorem error_dacOff : (s.error).dacOff = s.dacOff := rfl
@[simp] theorem error_adcOff : (s.error).adcOff = s.adcOff := rfl
@[simp] theorem error_lists : (s.error).lists = s.lists := rfl
@[simp] theorem error_listPtr : (s.error).listPtr = s.listPtr := rfl
@[simp] theorem error_lin : (s.error).lin = s.lin := rfl
@[simp] theorem error_syns : (s.error).syns = s.syns := rfl
@[simp] theorem error_synCal : (s.error).synCal = s.synCal := rfl
@[simp] theorem error_loSel : (s.error).loSel = s.loSel := rfl
@[simp] theorem error_fe : (s.error).fe = s.fe := rfl
@[simp] theorem error_beam : (s.error).beam = s.beam := rfl
@[simp] theorem error_clock : (s.error).clock = s.clock := rfl
@[simp] theorem error_rx : (s.error).rx = s.rx := rfl
@[simp] theorem error_time : (s.error).time = s.time := rfl
@[simp] theorem error_lanes : (s.error).lanes = s.lanes := rfl
@[simp] theorem error_pllLock : (s.error).pllLock = s.pllLock := rfl
@[simp] theorem error_pllAt : (s.error).pllAt = s.pllAt := rfl
@[simp] theorem error_pllRate : (s.error).pllRate = s.pllRate := rfl
@[simp] theorem error_caps : (s.error).caps = s.caps := rfl
@[simp] theorem error_slots : (s.error).slots = s.slots := rfl
@[simp] theorem error_slotReady : (s.error).slotReady = s.slotReady := rfl
@[simp] theorem error_dma : (s.error).dma = s.dma := rfl
@[simp] theorem error_dmaArb : (s.error).dmaArb = s.dmaArb := rfl
@[simp] theorem error_wdogAt : (s.error).wdogAt = s.wdogAt := rfl
@[simp] theorem error_mgmtRestart : (s.error).mgmtRestart = s.mgmtRestart := rfl
@[simp] theorem error_vcs : (s.error).vcs = s.vcs := rfl
@[simp] theorem error_sess : (s.error).sess = s.sess := rfl
@[simp] theorem error_svc : (s.error).svc = s.svc := rfl
@[simp] theorem error_chain : (s.error).chain = s.chain := rfl

@[simp] theorem drawn_pending : (s.drawn).pending = s.pending := rfl
@[simp] theorem drawn_resp : (s.drawn).resp = s.resp := rfl
@[simp] theorem drawn_out : (s.drawn).out = s.out := rfl
@[simp] theorem drawn_now : (s.drawn).now = s.now := rfl
@[simp] theorem drawn_wrap : (s.drawn).wrap = s.wrap := rfl
@[simp] theorem drawn_powered : (s.drawn).powered = s.powered := rfl
@[simp] theorem drawn_inReset : (s.drawn).inReset = s.inReset := rfl
@[simp] theorem drawn_regs : (s.drawn).regs = s.regs := rfl
@[simp] theorem drawn_mem : (s.drawn).mem = s.mem := rfl
@[simp] theorem drawn_events : (s.drawn).events = s.events := rfl
@[simp] theorem drawn_evPend : (s.drawn).evPend = s.evPend := rfl
@[simp] theorem drawn_queue : (s.drawn).queue = s.queue := rfl
@[simp] theorem drawn_net : (s.drawn).net = s.net := rfl
@[simp] theorem drawn_fns : (s.drawn).fns = s.fns := rfl
@[simp] theorem drawn_pathStops : (s.drawn).pathStops = s.pathStops := rfl
@[simp] theorem drawn_squashes : (s.drawn).squashes = s.squashes := rfl
@[simp] theorem drawn_txOut : (s.drawn).txOut = s.txOut := rfl
@[simp] theorem drawn_rxOut : (s.drawn).rxOut = s.rxOut := rfl
@[simp] theorem drawn_seqs : (s.drawn).seqs = s.seqs := rfl
@[simp] theorem drawn_hiq : (s.drawn).hiq = s.hiq := rfl
@[simp] theorem drawn_miq : (s.drawn).miq = s.miq := rfl
@[simp] theorem drawn_ports : (s.drawn).ports = s.ports := rfl
@[simp] theorem drawn_vlinks : (s.drawn).vlinks = s.vlinks := rfl
@[simp] theorem drawn_fenced : (s.drawn).fenced = s.fenced := rfl
@[simp] theorem drawn_faultlog : (s.drawn).faultlog = s.faultlog := rfl
@[simp] theorem drawn_mode : (s.drawn).mode = s.mode := rfl
@[simp] theorem drawn_power : (s.drawn).power = s.power := rfl
@[simp] theorem drawn_pcie : (s.drawn).pcie = s.pcie := rfl
@[simp] theorem drawn_ffts : (s.drawn).ffts = s.ffts := rfl
@[simp] theorem drawn_cars : (s.drawn).cars = s.cars := rfl
@[simp] theorem drawn_islCars : (s.drawn).islCars = s.islCars := rfl
@[simp] theorem drawn_wolas : (s.drawn).wolas = s.wolas := rfl
@[simp] theorem drawn_cfrs : (s.drawn).cfrs = s.cfrs := rfl
@[simp] theorem drawn_gains : (s.drawn).gains = s.gains := rfl
@[simp] theorem drawn_charges : (s.drawn).charges = s.charges := rfl
@[simp] theorem drawn_srsCharges : (s.drawn).srsCharges = s.srsCharges := rfl
@[simp] theorem drawn_decls : (s.drawn).decls = s.decls := rfl
@[simp] theorem drawn_blanked : (s.drawn).blanked = s.blanked := rfl
@[simp] theorem drawn_tdSpans : (s.drawn).tdSpans = s.tdSpans := rfl
@[simp] theorem drawn_dacOff : (s.drawn).dacOff = s.dacOff := rfl
@[simp] theorem drawn_adcOff : (s.drawn).adcOff = s.adcOff := rfl
@[simp] theorem drawn_lists : (s.drawn).lists = s.lists := rfl
@[simp] theorem drawn_listPtr : (s.drawn).listPtr = s.listPtr := rfl
@[simp] theorem drawn_lin : (s.drawn).lin = s.lin := rfl
@[simp] theorem drawn_syns : (s.drawn).syns = s.syns := rfl
@[simp] theorem drawn_synCal : (s.drawn).synCal = s.synCal := rfl
@[simp] theorem drawn_loSel : (s.drawn).loSel = s.loSel := rfl
@[simp] theorem drawn_fe : (s.drawn).fe = s.fe := rfl
@[simp] theorem drawn_beam : (s.drawn).beam = s.beam := rfl
@[simp] theorem drawn_clock : (s.drawn).clock = s.clock := rfl
@[simp] theorem drawn_rx : (s.drawn).rx = s.rx := rfl
@[simp] theorem drawn_time : (s.drawn).time = s.time := rfl
@[simp] theorem drawn_lanes : (s.drawn).lanes = s.lanes := rfl
@[simp] theorem drawn_pllLock : (s.drawn).pllLock = s.pllLock := rfl
@[simp] theorem drawn_pllAt : (s.drawn).pllAt = s.pllAt := rfl
@[simp] theorem drawn_pllRate : (s.drawn).pllRate = s.pllRate := rfl
@[simp] theorem drawn_caps : (s.drawn).caps = s.caps := rfl
@[simp] theorem drawn_slots : (s.drawn).slots = s.slots := rfl
@[simp] theorem drawn_slotReady : (s.drawn).slotReady = s.slotReady := rfl
@[simp] theorem drawn_dma : (s.drawn).dma = s.dma := rfl
@[simp] theorem drawn_dmaArb : (s.drawn).dmaArb = s.dmaArb := rfl
@[simp] theorem drawn_wdogAt : (s.drawn).wdogAt = s.wdogAt := rfl
@[simp] theorem drawn_mgmtRestart : (s.drawn).mgmtRestart = s.mgmtRestart := rfl
@[simp] theorem drawn_vcs : (s.drawn).vcs = s.vcs := rfl
@[simp] theorem drawn_sess : (s.drawn).sess = s.sess := rfl
@[simp] theorem drawn_svc : (s.drawn).svc = s.svc := rfl
@[simp] theorem drawn_chain : (s.drawn).chain = s.chain := rfl

@[simp] theorem setByte_pending {i : Nat} {b : Byte} : (s.setByte i b).pending = s.pending := rfl
@[simp] theorem setByte_free {i : Nat} {b : Byte} : (s.setByte i b).free = s.free := rfl
@[simp] theorem setByte_resp {i : Nat} {b : Byte} : (s.setByte i b).resp = s.resp := rfl
@[simp] theorem setByte_out {i : Nat} {b : Byte} : (s.setByte i b).out = s.out := rfl
@[simp] theorem setByte_now {i : Nat} {b : Byte} : (s.setByte i b).now = s.now := rfl
@[simp] theorem setByte_wrap {i : Nat} {b : Byte} : (s.setByte i b).wrap = s.wrap := rfl
@[simp] theorem setByte_powered {i : Nat} {b : Byte} : (s.setByte i b).powered = s.powered := rfl
@[simp] theorem setByte_inReset {i : Nat} {b : Byte} : (s.setByte i b).inReset = s.inReset := rfl
@[simp] theorem setByte_regs {i : Nat} {b : Byte} : (s.setByte i b).regs = s.regs := rfl
@[simp] theorem setByte_events {i : Nat} {b : Byte} : (s.setByte i b).events = s.events := rfl
@[simp] theorem setByte_evPend {i : Nat} {b : Byte} : (s.setByte i b).evPend = s.evPend := rfl
@[simp] theorem setByte_queue {i : Nat} {b : Byte} : (s.setByte i b).queue = s.queue := rfl
@[simp] theorem setByte_net {i : Nat} {b : Byte} : (s.setByte i b).net = s.net := rfl
@[simp] theorem setByte_fns {i : Nat} {b : Byte} : (s.setByte i b).fns = s.fns := rfl
@[simp] theorem setByte_pathStops {i : Nat} {b : Byte} : (s.setByte i b).pathStops = s.pathStops := rfl
@[simp] theorem setByte_squashes {i : Nat} {b : Byte} : (s.setByte i b).squashes = s.squashes := rfl
@[simp] theorem setByte_txOut {i : Nat} {b : Byte} : (s.setByte i b).txOut = s.txOut := rfl
@[simp] theorem setByte_rxOut {i : Nat} {b : Byte} : (s.setByte i b).rxOut = s.rxOut := rfl
@[simp] theorem setByte_seqs {i : Nat} {b : Byte} : (s.setByte i b).seqs = s.seqs := rfl
@[simp] theorem setByte_hiq {i : Nat} {b : Byte} : (s.setByte i b).hiq = s.hiq := rfl
@[simp] theorem setByte_miq {i : Nat} {b : Byte} : (s.setByte i b).miq = s.miq := rfl
@[simp] theorem setByte_ports {i : Nat} {b : Byte} : (s.setByte i b).ports = s.ports := rfl
@[simp] theorem setByte_vlinks {i : Nat} {b : Byte} : (s.setByte i b).vlinks = s.vlinks := rfl
@[simp] theorem setByte_fenced {i : Nat} {b : Byte} : (s.setByte i b).fenced = s.fenced := rfl
@[simp] theorem setByte_faultlog {i : Nat} {b : Byte} : (s.setByte i b).faultlog = s.faultlog := rfl
@[simp] theorem setByte_mode {i : Nat} {b : Byte} : (s.setByte i b).mode = s.mode := rfl
@[simp] theorem setByte_power {i : Nat} {b : Byte} : (s.setByte i b).power = s.power := rfl
@[simp] theorem setByte_pcie {i : Nat} {b : Byte} : (s.setByte i b).pcie = s.pcie := rfl
@[simp] theorem setByte_ffts {i : Nat} {b : Byte} : (s.setByte i b).ffts = s.ffts := rfl
@[simp] theorem setByte_cars {i : Nat} {b : Byte} : (s.setByte i b).cars = s.cars := rfl
@[simp] theorem setByte_islCars {i : Nat} {b : Byte} : (s.setByte i b).islCars = s.islCars := rfl
@[simp] theorem setByte_wolas {i : Nat} {b : Byte} : (s.setByte i b).wolas = s.wolas := rfl
@[simp] theorem setByte_cfrs {i : Nat} {b : Byte} : (s.setByte i b).cfrs = s.cfrs := rfl
@[simp] theorem setByte_gains {i : Nat} {b : Byte} : (s.setByte i b).gains = s.gains := rfl
@[simp] theorem setByte_charges {i : Nat} {b : Byte} : (s.setByte i b).charges = s.charges := rfl
@[simp] theorem setByte_srsCharges {i : Nat} {b : Byte} : (s.setByte i b).srsCharges = s.srsCharges := rfl
@[simp] theorem setByte_decls {i : Nat} {b : Byte} : (s.setByte i b).decls = s.decls := rfl
@[simp] theorem setByte_blanked {i : Nat} {b : Byte} : (s.setByte i b).blanked = s.blanked := rfl
@[simp] theorem setByte_tdSpans {i : Nat} {b : Byte} : (s.setByte i b).tdSpans = s.tdSpans := rfl
@[simp] theorem setByte_dacOff {i : Nat} {b : Byte} : (s.setByte i b).dacOff = s.dacOff := rfl
@[simp] theorem setByte_adcOff {i : Nat} {b : Byte} : (s.setByte i b).adcOff = s.adcOff := rfl
@[simp] theorem setByte_lists {i : Nat} {b : Byte} : (s.setByte i b).lists = s.lists := rfl
@[simp] theorem setByte_listPtr {i : Nat} {b : Byte} : (s.setByte i b).listPtr = s.listPtr := rfl
@[simp] theorem setByte_lin {i : Nat} {b : Byte} : (s.setByte i b).lin = s.lin := rfl
@[simp] theorem setByte_syns {i : Nat} {b : Byte} : (s.setByte i b).syns = s.syns := rfl
@[simp] theorem setByte_synCal {i : Nat} {b : Byte} : (s.setByte i b).synCal = s.synCal := rfl
@[simp] theorem setByte_loSel {i : Nat} {b : Byte} : (s.setByte i b).loSel = s.loSel := rfl
@[simp] theorem setByte_fe {i : Nat} {b : Byte} : (s.setByte i b).fe = s.fe := rfl
@[simp] theorem setByte_beam {i : Nat} {b : Byte} : (s.setByte i b).beam = s.beam := rfl
@[simp] theorem setByte_clock {i : Nat} {b : Byte} : (s.setByte i b).clock = s.clock := rfl
@[simp] theorem setByte_rx {i : Nat} {b : Byte} : (s.setByte i b).rx = s.rx := rfl
@[simp] theorem setByte_time {i : Nat} {b : Byte} : (s.setByte i b).time = s.time := rfl
@[simp] theorem setByte_lanes {i : Nat} {b : Byte} : (s.setByte i b).lanes = s.lanes := rfl
@[simp] theorem setByte_pllLock {i : Nat} {b : Byte} : (s.setByte i b).pllLock = s.pllLock := rfl
@[simp] theorem setByte_pllAt {i : Nat} {b : Byte} : (s.setByte i b).pllAt = s.pllAt := rfl
@[simp] theorem setByte_pllRate {i : Nat} {b : Byte} : (s.setByte i b).pllRate = s.pllRate := rfl
@[simp] theorem setByte_caps {i : Nat} {b : Byte} : (s.setByte i b).caps = s.caps := rfl
@[simp] theorem setByte_slots {i : Nat} {b : Byte} : (s.setByte i b).slots = s.slots := rfl
@[simp] theorem setByte_slotReady {i : Nat} {b : Byte} : (s.setByte i b).slotReady = s.slotReady := rfl
@[simp] theorem setByte_dma {i : Nat} {b : Byte} : (s.setByte i b).dma = s.dma := rfl
@[simp] theorem setByte_dmaArb {i : Nat} {b : Byte} : (s.setByte i b).dmaArb = s.dmaArb := rfl
@[simp] theorem setByte_wdogAt {i : Nat} {b : Byte} : (s.setByte i b).wdogAt = s.wdogAt := rfl
@[simp] theorem setByte_mgmtRestart {i : Nat} {b : Byte} : (s.setByte i b).mgmtRestart = s.mgmtRestart := rfl
@[simp] theorem setByte_vcs {i : Nat} {b : Byte} : (s.setByte i b).vcs = s.vcs := rfl
@[simp] theorem setByte_sess {i : Nat} {b : Byte} : (s.setByte i b).sess = s.sess := rfl
@[simp] theorem setByte_svc {i : Nat} {b : Byte} : (s.setByte i b).svc = s.svc := rfl
@[simp] theorem setByte_chain {i : Nat} {b : Byte} : (s.setByte i b).chain = s.chain := rfl

@[simp] theorem markValid_pending {i : Nat} : (s.markValid i).pending = s.pending := rfl
@[simp] theorem markValid_free {i : Nat} : (s.markValid i).free = s.free := rfl
@[simp] theorem markValid_resp {i : Nat} : (s.markValid i).resp = s.resp := rfl
@[simp] theorem markValid_out {i : Nat} : (s.markValid i).out = s.out := rfl
@[simp] theorem markValid_now {i : Nat} : (s.markValid i).now = s.now := rfl
@[simp] theorem markValid_wrap {i : Nat} : (s.markValid i).wrap = s.wrap := rfl
@[simp] theorem markValid_powered {i : Nat} : (s.markValid i).powered = s.powered := rfl
@[simp] theorem markValid_inReset {i : Nat} : (s.markValid i).inReset = s.inReset := rfl
@[simp] theorem markValid_regs {i : Nat} : (s.markValid i).regs = s.regs := rfl
@[simp] theorem markValid_events {i : Nat} : (s.markValid i).events = s.events := rfl
@[simp] theorem markValid_evPend {i : Nat} : (s.markValid i).evPend = s.evPend := rfl
@[simp] theorem markValid_queue {i : Nat} : (s.markValid i).queue = s.queue := rfl
@[simp] theorem markValid_net {i : Nat} : (s.markValid i).net = s.net := rfl
@[simp] theorem markValid_fns {i : Nat} : (s.markValid i).fns = s.fns := rfl
@[simp] theorem markValid_pathStops {i : Nat} : (s.markValid i).pathStops = s.pathStops := rfl
@[simp] theorem markValid_squashes {i : Nat} : (s.markValid i).squashes = s.squashes := rfl
@[simp] theorem markValid_txOut {i : Nat} : (s.markValid i).txOut = s.txOut := rfl
@[simp] theorem markValid_rxOut {i : Nat} : (s.markValid i).rxOut = s.rxOut := rfl
@[simp] theorem markValid_seqs {i : Nat} : (s.markValid i).seqs = s.seqs := rfl
@[simp] theorem markValid_hiq {i : Nat} : (s.markValid i).hiq = s.hiq := rfl
@[simp] theorem markValid_miq {i : Nat} : (s.markValid i).miq = s.miq := rfl
@[simp] theorem markValid_ports {i : Nat} : (s.markValid i).ports = s.ports := rfl
@[simp] theorem markValid_vlinks {i : Nat} : (s.markValid i).vlinks = s.vlinks := rfl
@[simp] theorem markValid_fenced {i : Nat} : (s.markValid i).fenced = s.fenced := rfl
@[simp] theorem markValid_faultlog {i : Nat} : (s.markValid i).faultlog = s.faultlog := rfl
@[simp] theorem markValid_mode {i : Nat} : (s.markValid i).mode = s.mode := rfl
@[simp] theorem markValid_power {i : Nat} : (s.markValid i).power = s.power := rfl
@[simp] theorem markValid_pcie {i : Nat} : (s.markValid i).pcie = s.pcie := rfl
@[simp] theorem markValid_ffts {i : Nat} : (s.markValid i).ffts = s.ffts := rfl
@[simp] theorem markValid_cars {i : Nat} : (s.markValid i).cars = s.cars := rfl
@[simp] theorem markValid_islCars {i : Nat} : (s.markValid i).islCars = s.islCars := rfl
@[simp] theorem markValid_wolas {i : Nat} : (s.markValid i).wolas = s.wolas := rfl
@[simp] theorem markValid_cfrs {i : Nat} : (s.markValid i).cfrs = s.cfrs := rfl
@[simp] theorem markValid_gains {i : Nat} : (s.markValid i).gains = s.gains := rfl
@[simp] theorem markValid_charges {i : Nat} : (s.markValid i).charges = s.charges := rfl
@[simp] theorem markValid_srsCharges {i : Nat} : (s.markValid i).srsCharges = s.srsCharges := rfl
@[simp] theorem markValid_decls {i : Nat} : (s.markValid i).decls = s.decls := rfl
@[simp] theorem markValid_blanked {i : Nat} : (s.markValid i).blanked = s.blanked := rfl
@[simp] theorem markValid_tdSpans {i : Nat} : (s.markValid i).tdSpans = s.tdSpans := rfl
@[simp] theorem markValid_dacOff {i : Nat} : (s.markValid i).dacOff = s.dacOff := rfl
@[simp] theorem markValid_adcOff {i : Nat} : (s.markValid i).adcOff = s.adcOff := rfl
@[simp] theorem markValid_lists {i : Nat} : (s.markValid i).lists = s.lists := rfl
@[simp] theorem markValid_listPtr {i : Nat} : (s.markValid i).listPtr = s.listPtr := rfl
@[simp] theorem markValid_lin {i : Nat} : (s.markValid i).lin = s.lin := rfl
@[simp] theorem markValid_syns {i : Nat} : (s.markValid i).syns = s.syns := rfl
@[simp] theorem markValid_synCal {i : Nat} : (s.markValid i).synCal = s.synCal := rfl
@[simp] theorem markValid_loSel {i : Nat} : (s.markValid i).loSel = s.loSel := rfl
@[simp] theorem markValid_fe {i : Nat} : (s.markValid i).fe = s.fe := rfl
@[simp] theorem markValid_beam {i : Nat} : (s.markValid i).beam = s.beam := rfl
@[simp] theorem markValid_clock {i : Nat} : (s.markValid i).clock = s.clock := rfl
@[simp] theorem markValid_rx {i : Nat} : (s.markValid i).rx = s.rx := rfl
@[simp] theorem markValid_time {i : Nat} : (s.markValid i).time = s.time := rfl
@[simp] theorem markValid_lanes {i : Nat} : (s.markValid i).lanes = s.lanes := rfl
@[simp] theorem markValid_pllLock {i : Nat} : (s.markValid i).pllLock = s.pllLock := rfl
@[simp] theorem markValid_pllAt {i : Nat} : (s.markValid i).pllAt = s.pllAt := rfl
@[simp] theorem markValid_pllRate {i : Nat} : (s.markValid i).pllRate = s.pllRate := rfl
@[simp] theorem markValid_caps {i : Nat} : (s.markValid i).caps = s.caps := rfl
@[simp] theorem markValid_slots {i : Nat} : (s.markValid i).slots = s.slots := rfl
@[simp] theorem markValid_slotReady {i : Nat} : (s.markValid i).slotReady = s.slotReady := rfl
@[simp] theorem markValid_dma {i : Nat} : (s.markValid i).dma = s.dma := rfl
@[simp] theorem markValid_dmaArb {i : Nat} : (s.markValid i).dmaArb = s.dmaArb := rfl
@[simp] theorem markValid_wdogAt {i : Nat} : (s.markValid i).wdogAt = s.wdogAt := rfl
@[simp] theorem markValid_mgmtRestart {i : Nat} : (s.markValid i).mgmtRestart = s.mgmtRestart := rfl
@[simp] theorem markValid_vcs {i : Nat} : (s.markValid i).vcs = s.vcs := rfl
@[simp] theorem markValid_sess {i : Nat} : (s.markValid i).sess = s.sess := rfl
@[simp] theorem markValid_svc {i : Nat} : (s.markValid i).svc = s.svc := rfl
@[simp] theorem markValid_chain {i : Nat} : (s.markValid i).chain = s.chain := rfl

@[simp] theorem setErr_pending {i : Nat} {er : MemErr} : (s.setErr i er).pending = s.pending := rfl
@[simp] theorem setErr_free {i : Nat} {er : MemErr} : (s.setErr i er).free = s.free := rfl
@[simp] theorem setErr_resp {i : Nat} {er : MemErr} : (s.setErr i er).resp = s.resp := rfl
@[simp] theorem setErr_out {i : Nat} {er : MemErr} : (s.setErr i er).out = s.out := rfl
@[simp] theorem setErr_now {i : Nat} {er : MemErr} : (s.setErr i er).now = s.now := rfl
@[simp] theorem setErr_wrap {i : Nat} {er : MemErr} : (s.setErr i er).wrap = s.wrap := rfl
@[simp] theorem setErr_powered {i : Nat} {er : MemErr} : (s.setErr i er).powered = s.powered := rfl
@[simp] theorem setErr_inReset {i : Nat} {er : MemErr} : (s.setErr i er).inReset = s.inReset := rfl
@[simp] theorem setErr_regs {i : Nat} {er : MemErr} : (s.setErr i er).regs = s.regs := rfl
@[simp] theorem setErr_events {i : Nat} {er : MemErr} : (s.setErr i er).events = s.events := rfl
@[simp] theorem setErr_evPend {i : Nat} {er : MemErr} : (s.setErr i er).evPend = s.evPend := rfl
@[simp] theorem setErr_queue {i : Nat} {er : MemErr} : (s.setErr i er).queue = s.queue := rfl
@[simp] theorem setErr_net {i : Nat} {er : MemErr} : (s.setErr i er).net = s.net := rfl
@[simp] theorem setErr_fns {i : Nat} {er : MemErr} : (s.setErr i er).fns = s.fns := rfl
@[simp] theorem setErr_pathStops {i : Nat} {er : MemErr} : (s.setErr i er).pathStops = s.pathStops := rfl
@[simp] theorem setErr_squashes {i : Nat} {er : MemErr} : (s.setErr i er).squashes = s.squashes := rfl
@[simp] theorem setErr_txOut {i : Nat} {er : MemErr} : (s.setErr i er).txOut = s.txOut := rfl
@[simp] theorem setErr_rxOut {i : Nat} {er : MemErr} : (s.setErr i er).rxOut = s.rxOut := rfl
@[simp] theorem setErr_seqs {i : Nat} {er : MemErr} : (s.setErr i er).seqs = s.seqs := rfl
@[simp] theorem setErr_hiq {i : Nat} {er : MemErr} : (s.setErr i er).hiq = s.hiq := rfl
@[simp] theorem setErr_miq {i : Nat} {er : MemErr} : (s.setErr i er).miq = s.miq := rfl
@[simp] theorem setErr_ports {i : Nat} {er : MemErr} : (s.setErr i er).ports = s.ports := rfl
@[simp] theorem setErr_vlinks {i : Nat} {er : MemErr} : (s.setErr i er).vlinks = s.vlinks := rfl
@[simp] theorem setErr_fenced {i : Nat} {er : MemErr} : (s.setErr i er).fenced = s.fenced := rfl
@[simp] theorem setErr_faultlog {i : Nat} {er : MemErr} : (s.setErr i er).faultlog = s.faultlog := rfl
@[simp] theorem setErr_mode {i : Nat} {er : MemErr} : (s.setErr i er).mode = s.mode := rfl
@[simp] theorem setErr_power {i : Nat} {er : MemErr} : (s.setErr i er).power = s.power := rfl
@[simp] theorem setErr_pcie {i : Nat} {er : MemErr} : (s.setErr i er).pcie = s.pcie := rfl
@[simp] theorem setErr_ffts {i : Nat} {er : MemErr} : (s.setErr i er).ffts = s.ffts := rfl
@[simp] theorem setErr_cars {i : Nat} {er : MemErr} : (s.setErr i er).cars = s.cars := rfl
@[simp] theorem setErr_islCars {i : Nat} {er : MemErr} : (s.setErr i er).islCars = s.islCars := rfl
@[simp] theorem setErr_wolas {i : Nat} {er : MemErr} : (s.setErr i er).wolas = s.wolas := rfl
@[simp] theorem setErr_cfrs {i : Nat} {er : MemErr} : (s.setErr i er).cfrs = s.cfrs := rfl
@[simp] theorem setErr_gains {i : Nat} {er : MemErr} : (s.setErr i er).gains = s.gains := rfl
@[simp] theorem setErr_charges {i : Nat} {er : MemErr} : (s.setErr i er).charges = s.charges := rfl
@[simp] theorem setErr_srsCharges {i : Nat} {er : MemErr} : (s.setErr i er).srsCharges = s.srsCharges := rfl
@[simp] theorem setErr_decls {i : Nat} {er : MemErr} : (s.setErr i er).decls = s.decls := rfl
@[simp] theorem setErr_blanked {i : Nat} {er : MemErr} : (s.setErr i er).blanked = s.blanked := rfl
@[simp] theorem setErr_tdSpans {i : Nat} {er : MemErr} : (s.setErr i er).tdSpans = s.tdSpans := rfl
@[simp] theorem setErr_dacOff {i : Nat} {er : MemErr} : (s.setErr i er).dacOff = s.dacOff := rfl
@[simp] theorem setErr_adcOff {i : Nat} {er : MemErr} : (s.setErr i er).adcOff = s.adcOff := rfl
@[simp] theorem setErr_lists {i : Nat} {er : MemErr} : (s.setErr i er).lists = s.lists := rfl
@[simp] theorem setErr_listPtr {i : Nat} {er : MemErr} : (s.setErr i er).listPtr = s.listPtr := rfl
@[simp] theorem setErr_lin {i : Nat} {er : MemErr} : (s.setErr i er).lin = s.lin := rfl
@[simp] theorem setErr_syns {i : Nat} {er : MemErr} : (s.setErr i er).syns = s.syns := rfl
@[simp] theorem setErr_synCal {i : Nat} {er : MemErr} : (s.setErr i er).synCal = s.synCal := rfl
@[simp] theorem setErr_loSel {i : Nat} {er : MemErr} : (s.setErr i er).loSel = s.loSel := rfl
@[simp] theorem setErr_fe {i : Nat} {er : MemErr} : (s.setErr i er).fe = s.fe := rfl
@[simp] theorem setErr_beam {i : Nat} {er : MemErr} : (s.setErr i er).beam = s.beam := rfl
@[simp] theorem setErr_clock {i : Nat} {er : MemErr} : (s.setErr i er).clock = s.clock := rfl
@[simp] theorem setErr_rx {i : Nat} {er : MemErr} : (s.setErr i er).rx = s.rx := rfl
@[simp] theorem setErr_time {i : Nat} {er : MemErr} : (s.setErr i er).time = s.time := rfl
@[simp] theorem setErr_lanes {i : Nat} {er : MemErr} : (s.setErr i er).lanes = s.lanes := rfl
@[simp] theorem setErr_pllLock {i : Nat} {er : MemErr} : (s.setErr i er).pllLock = s.pllLock := rfl
@[simp] theorem setErr_pllAt {i : Nat} {er : MemErr} : (s.setErr i er).pllAt = s.pllAt := rfl
@[simp] theorem setErr_pllRate {i : Nat} {er : MemErr} : (s.setErr i er).pllRate = s.pllRate := rfl
@[simp] theorem setErr_caps {i : Nat} {er : MemErr} : (s.setErr i er).caps = s.caps := rfl
@[simp] theorem setErr_slots {i : Nat} {er : MemErr} : (s.setErr i er).slots = s.slots := rfl
@[simp] theorem setErr_slotReady {i : Nat} {er : MemErr} : (s.setErr i er).slotReady = s.slotReady := rfl
@[simp] theorem setErr_dma {i : Nat} {er : MemErr} : (s.setErr i er).dma = s.dma := rfl
@[simp] theorem setErr_dmaArb {i : Nat} {er : MemErr} : (s.setErr i er).dmaArb = s.dmaArb := rfl
@[simp] theorem setErr_wdogAt {i : Nat} {er : MemErr} : (s.setErr i er).wdogAt = s.wdogAt := rfl
@[simp] theorem setErr_mgmtRestart {i : Nat} {er : MemErr} : (s.setErr i er).mgmtRestart = s.mgmtRestart := rfl
@[simp] theorem setErr_vcs {i : Nat} {er : MemErr} : (s.setErr i er).vcs = s.vcs := rfl
@[simp] theorem setErr_sess {i : Nat} {er : MemErr} : (s.setErr i er).sess = s.sess := rfl
@[simp] theorem setErr_svc {i : Nat} {er : MemErr} : (s.setErr i er).svc = s.svc := rfl
@[simp] theorem setErr_chain {i : Nat} {er : MemErr} : (s.setErr i er).chain = s.chain := rfl

@[simp] theorem setSyn_pending {i : Nat} {syn : SynSt} : (s.setSyn i syn).pending = s.pending := rfl
@[simp] theorem setSyn_resp {i : Nat} {syn : SynSt} : (s.setSyn i syn).resp = s.resp := rfl
@[simp] theorem setSyn_out {i : Nat} {syn : SynSt} : (s.setSyn i syn).out = s.out := rfl
@[simp] theorem setSyn_now {i : Nat} {syn : SynSt} : (s.setSyn i syn).now = s.now := rfl
@[simp] theorem setSyn_regs {i : Nat} {syn : SynSt} : (s.setSyn i syn).regs = s.regs := rfl
@[simp] theorem setSyn_mem {i : Nat} {syn : SynSt} : (s.setSyn i syn).mem = s.mem := rfl
@[simp] theorem setSyn_net {i : Nat} {syn : SynSt} : (s.setSyn i syn).net = s.net := rfl
@[simp] theorem setSyn_evPend {i : Nat} {syn : SynSt} : (s.setSyn i syn).evPend = s.evPend := rfl

@[simp] theorem setLo_pending {i : Nat} {lo : LoSel} : (s.setLo i lo).pending = s.pending := rfl
@[simp] theorem setLo_resp {i : Nat} {lo : LoSel} : (s.setLo i lo).resp = s.resp := rfl
@[simp] theorem setLo_out {i : Nat} {lo : LoSel} : (s.setLo i lo).out = s.out := rfl
@[simp] theorem setLo_now {i : Nat} {lo : LoSel} : (s.setLo i lo).now = s.now := rfl
@[simp] theorem setLo_regs {i : Nat} {lo : LoSel} : (s.setLo i lo).regs = s.regs := rfl
@[simp] theorem setLo_mem {i : Nat} {lo : LoSel} : (s.setLo i lo).mem = s.mem := rfl
@[simp] theorem setLo_net {i : Nat} {lo : LoSel} : (s.setLo i lo).net = s.net := rfl
@[simp] theorem setLo_evPend {i : Nat} {lo : LoSel} : (s.setLo i lo).evPend = s.evPend := rfl

@[simp] theorem setDma_pending {i : Nat} {dm : DmaSt} : (s.setDma i dm).pending = s.pending := rfl
@[simp] theorem setDma_resp {i : Nat} {dm : DmaSt} : (s.setDma i dm).resp = s.resp := rfl
@[simp] theorem setDma_out {i : Nat} {dm : DmaSt} : (s.setDma i dm).out = s.out := rfl
@[simp] theorem setDma_now {i : Nat} {dm : DmaSt} : (s.setDma i dm).now = s.now := rfl
@[simp] theorem setDma_regs {i : Nat} {dm : DmaSt} : (s.setDma i dm).regs = s.regs := rfl
@[simp] theorem setDma_mem {i : Nat} {dm : DmaSt} : (s.setDma i dm).mem = s.mem := rfl
@[simp] theorem setDma_net {i : Nat} {dm : DmaSt} : (s.setDma i dm).net = s.net := rfl
@[simp] theorem setDma_evPend {i : Nat} {dm : DmaSt} : (s.setDma i dm).evPend = s.evPend := rfl

@[simp] theorem setLim_pending {i : Nat} {lim : LimSt} : (s.setLim i lim).pending = s.pending := rfl
@[simp] theorem setLim_resp {i : Nat} {lim : LimSt} : (s.setLim i lim).resp = s.resp := rfl
@[simp] theorem setLim_out {i : Nat} {lim : LimSt} : (s.setLim i lim).out = s.out := rfl
@[simp] theorem setLim_now {i : Nat} {lim : LimSt} : (s.setLim i lim).now = s.now := rfl
@[simp] theorem setLim_regs {i : Nat} {lim : LimSt} : (s.setLim i lim).regs = s.regs := rfl
@[simp] theorem setLim_mem {i : Nat} {lim : LimSt} : (s.setLim i lim).mem = s.mem := rfl
@[simp] theorem setLim_net {i : Nat} {lim : LimSt} : (s.setLim i lim).net = s.net := rfl
@[simp] theorem setLim_evPend {i : Nat} {lim : LimSt} : (s.setLim i lim).evPend = s.evPend := rfl

@[simp] theorem setSlot_pending {i : Nat} {sl : SlotSt} : (s.setSlot i sl).pending = s.pending := rfl
@[simp] theorem setSlot_resp {i : Nat} {sl : SlotSt} : (s.setSlot i sl).resp = s.resp := rfl
@[simp] theorem setSlot_out {i : Nat} {sl : SlotSt} : (s.setSlot i sl).out = s.out := rfl
@[simp] theorem setSlot_now {i : Nat} {sl : SlotSt} : (s.setSlot i sl).now = s.now := rfl
@[simp] theorem setSlot_regs {i : Nat} {sl : SlotSt} : (s.setSlot i sl).regs = s.regs := rfl
@[simp] theorem setSlot_mem {i : Nat} {sl : SlotSt} : (s.setSlot i sl).mem = s.mem := rfl
@[simp] theorem setSlot_net {i : Nat} {sl : SlotSt} : (s.setSlot i sl).net = s.net := rfl
@[simp] theorem setSlot_evPend {i : Nat} {sl : SlotSt} : (s.setSlot i sl).evPend = s.evPend := rfl

@[simp] theorem setReady_pending {i : Nat} {bo : Bool} : (s.setReady i bo).pending = s.pending := rfl
@[simp] theorem setReady_resp {i : Nat} {bo : Bool} : (s.setReady i bo).resp = s.resp := rfl
@[simp] theorem setReady_out {i : Nat} {bo : Bool} : (s.setReady i bo).out = s.out := rfl
@[simp] theorem setReady_now {i : Nat} {bo : Bool} : (s.setReady i bo).now = s.now := rfl
@[simp] theorem setReady_regs {i : Nat} {bo : Bool} : (s.setReady i bo).regs = s.regs := rfl
@[simp] theorem setReady_mem {i : Nat} {bo : Bool} : (s.setReady i bo).mem = s.mem := rfl
@[simp] theorem setReady_net {i : Nat} {bo : Bool} : (s.setReady i bo).net = s.net := rfl
@[simp] theorem setReady_evPend {i : Nat} {bo : Bool} : (s.setReady i bo).evPend = s.evPend := rfl

@[simp] theorem setCap_pending {i : Nat} {cp : CapSt} : (s.setCap i cp).pending = s.pending := rfl
@[simp] theorem setCap_resp {i : Nat} {cp : CapSt} : (s.setCap i cp).resp = s.resp := rfl
@[simp] theorem setCap_out {i : Nat} {cp : CapSt} : (s.setCap i cp).out = s.out := rfl
@[simp] theorem setCap_now {i : Nat} {cp : CapSt} : (s.setCap i cp).now = s.now := rfl
@[simp] theorem setCap_regs {i : Nat} {cp : CapSt} : (s.setCap i cp).regs = s.regs := rfl
@[simp] theorem setCap_mem {i : Nat} {cp : CapSt} : (s.setCap i cp).mem = s.mem := rfl
@[simp] theorem setCap_net {i : Nat} {cp : CapSt} : (s.setCap i cp).net = s.net := rfl
@[simp] theorem setCap_evPend {i : Nat} {cp : CapSt} : (s.setCap i cp).evPend = s.evPend := rfl

@[simp] theorem setVc_pending {i : Nat} {vc : VcSt} : (s.setVc i vc).pending = s.pending := rfl
@[simp] theorem setVc_resp {i : Nat} {vc : VcSt} : (s.setVc i vc).resp = s.resp := rfl
@[simp] theorem setVc_out {i : Nat} {vc : VcSt} : (s.setVc i vc).out = s.out := rfl
@[simp] theorem setVc_now {i : Nat} {vc : VcSt} : (s.setVc i vc).now = s.now := rfl
@[simp] theorem setVc_regs {i : Nat} {vc : VcSt} : (s.setVc i vc).regs = s.regs := rfl
@[simp] theorem setVc_mem {i : Nat} {vc : VcSt} : (s.setVc i vc).mem = s.mem := rfl
@[simp] theorem setVc_net {i : Nat} {vc : VcSt} : (s.setVc i vc).net = s.net := rfl
@[simp] theorem setVc_evPend {i : Nat} {vc : VcSt} : (s.setVc i vc).evPend = s.evPend := rfl

@[simp] theorem setFft_pending {d : Dir} {i : Nat} {ff : FftSt} : (s.setFft d i ff).pending = s.pending := rfl
@[simp] theorem setFft_resp {d : Dir} {i : Nat} {ff : FftSt} : (s.setFft d i ff).resp = s.resp := rfl
@[simp] theorem setFft_out {d : Dir} {i : Nat} {ff : FftSt} : (s.setFft d i ff).out = s.out := rfl
@[simp] theorem setFft_now {d : Dir} {i : Nat} {ff : FftSt} : (s.setFft d i ff).now = s.now := rfl
@[simp] theorem setFft_regs {d : Dir} {i : Nat} {ff : FftSt} : (s.setFft d i ff).regs = s.regs := rfl
@[simp] theorem setFft_mem {d : Dir} {i : Nat} {ff : FftSt} : (s.setFft d i ff).mem = s.mem := rfl
@[simp] theorem setFft_net {d : Dir} {i : Nat} {ff : FftSt} : (s.setFft d i ff).net = s.net := rfl
@[simp] theorem setFft_evPend {d : Dir} {i : Nat} {ff : FftSt} : (s.setFft d i ff).evPend = s.evPend := rfl

@[simp] theorem setCar_pending {i j : Nat} {d : Dir} {cr : CarSt} : (s.setCar i d j cr).pending = s.pending := rfl
@[simp] theorem setCar_resp {i j : Nat} {d : Dir} {cr : CarSt} : (s.setCar i d j cr).resp = s.resp := rfl
@[simp] theorem setCar_out {i j : Nat} {d : Dir} {cr : CarSt} : (s.setCar i d j cr).out = s.out := rfl
@[simp] theorem setCar_now {i j : Nat} {d : Dir} {cr : CarSt} : (s.setCar i d j cr).now = s.now := rfl
@[simp] theorem setCar_regs {i j : Nat} {d : Dir} {cr : CarSt} : (s.setCar i d j cr).regs = s.regs := rfl
@[simp] theorem setCar_mem {i j : Nat} {d : Dir} {cr : CarSt} : (s.setCar i d j cr).mem = s.mem := rfl
@[simp] theorem setCar_net {i j : Nat} {d : Dir} {cr : CarSt} : (s.setCar i d j cr).net = s.net := rfl
@[simp] theorem setCar_evPend {i j : Nat} {d : Dir} {cr : CarSt} : (s.setCar i d j cr).evPend = s.evPend := rfl

@[simp] theorem setIslCar_pending {d : Dir} {i : Nat} {cr : CarSt} : (s.setIslCar d i cr).pending = s.pending := rfl
@[simp] theorem setIslCar_resp {d : Dir} {i : Nat} {cr : CarSt} : (s.setIslCar d i cr).resp = s.resp := rfl
@[simp] theorem setIslCar_out {d : Dir} {i : Nat} {cr : CarSt} : (s.setIslCar d i cr).out = s.out := rfl
@[simp] theorem setIslCar_now {d : Dir} {i : Nat} {cr : CarSt} : (s.setIslCar d i cr).now = s.now := rfl
@[simp] theorem setIslCar_regs {d : Dir} {i : Nat} {cr : CarSt} : (s.setIslCar d i cr).regs = s.regs := rfl
@[simp] theorem setIslCar_mem {d : Dir} {i : Nat} {cr : CarSt} : (s.setIslCar d i cr).mem = s.mem := rfl
@[simp] theorem setIslCar_net {d : Dir} {i : Nat} {cr : CarSt} : (s.setIslCar d i cr).net = s.net := rfl
@[simp] theorem setIslCar_evPend {d : Dir} {i : Nat} {cr : CarSt} : (s.setIslCar d i cr).evPend = s.evPend := rfl

@[simp] theorem setGain_pending {d : Dir} {i j : Nat} {g16 : BitVec 16} : (s.setGain d i j g16).pending = s.pending := rfl
@[simp] theorem setGain_resp {d : Dir} {i j : Nat} {g16 : BitVec 16} : (s.setGain d i j g16).resp = s.resp := rfl
@[simp] theorem setGain_out {d : Dir} {i j : Nat} {g16 : BitVec 16} : (s.setGain d i j g16).out = s.out := rfl
@[simp] theorem setGain_now {d : Dir} {i j : Nat} {g16 : BitVec 16} : (s.setGain d i j g16).now = s.now := rfl
@[simp] theorem setGain_regs {d : Dir} {i j : Nat} {g16 : BitVec 16} : (s.setGain d i j g16).regs = s.regs := rfl
@[simp] theorem setGain_mem {d : Dir} {i j : Nat} {g16 : BitVec 16} : (s.setGain d i j g16).mem = s.mem := rfl
@[simp] theorem setGain_net {d : Dir} {i j : Nat} {g16 : BitVec 16} : (s.setGain d i j g16).net = s.net := rfl
@[simp] theorem setGain_evPend {d : Dir} {i j : Nat} {g16 : BitVec 16} : (s.setGain d i j g16).evPend = s.evPend := rfl

@[simp] theorem setRegion_pending {d : Dir} {rg : Region} {rs : RegionSt} : (s.setRegion d rg rs).pending = s.pending := rfl
@[simp] theorem setRegion_resp {d : Dir} {rg : Region} {rs : RegionSt} : (s.setRegion d rg rs).resp = s.resp := rfl
@[simp] theorem setRegion_out {d : Dir} {rg : Region} {rs : RegionSt} : (s.setRegion d rg rs).out = s.out := rfl
@[simp] theorem setRegion_now {d : Dir} {rg : Region} {rs : RegionSt} : (s.setRegion d rg rs).now = s.now := rfl
@[simp] theorem setRegion_regs {d : Dir} {rg : Region} {rs : RegionSt} : (s.setRegion d rg rs).regs = s.regs := rfl
@[simp] theorem setRegion_mem {d : Dir} {rg : Region} {rs : RegionSt} : (s.setRegion d rg rs).mem = s.mem := rfl
@[simp] theorem setRegion_net {d : Dir} {rg : Region} {rs : RegionSt} : (s.setRegion d rg rs).net = s.net := rfl
@[simp] theorem setRegion_evPend {d : Dir} {rg : Region} {rs : RegionSt} : (s.setRegion d rg rs).evPend = s.evPend := rfl

@[simp] theorem setDirty_pending {d : Dir} {bk : Bank} {i : Nat} {bo : Bool} : (s.setDirty d bk i bo).pending = s.pending := rfl
@[simp] theorem setDirty_resp {d : Dir} {bk : Bank} {i : Nat} {bo : Bool} : (s.setDirty d bk i bo).resp = s.resp := rfl
@[simp] theorem setDirty_out {d : Dir} {bk : Bank} {i : Nat} {bo : Bool} : (s.setDirty d bk i bo).out = s.out := rfl
@[simp] theorem setDirty_now {d : Dir} {bk : Bank} {i : Nat} {bo : Bool} : (s.setDirty d bk i bo).now = s.now := rfl
@[simp] theorem setDirty_regs {d : Dir} {bk : Bank} {i : Nat} {bo : Bool} : (s.setDirty d bk i bo).regs = s.regs := rfl
@[simp] theorem setDirty_mem {d : Dir} {bk : Bank} {i : Nat} {bo : Bool} : (s.setDirty d bk i bo).mem = s.mem := rfl
@[simp] theorem setDirty_net {d : Dir} {bk : Bank} {i : Nat} {bo : Bool} : (s.setDirty d bk i bo).net = s.net := rfl
@[simp] theorem setDirty_evPend {d : Dir} {bk : Bank} {i : Nat} {bo : Bool} : (s.setDirty d bk i bo).evPend = s.evPend := rfl

@[simp] theorem setRec_pending {ri : RecId} {rc : Rec} : (s.setRec ri rc).pending = s.pending := rfl
@[simp] theorem setRec_resp {ri : RecId} {rc : Rec} : (s.setRec ri rc).resp = s.resp := rfl
@[simp] theorem setRec_out {ri : RecId} {rc : Rec} : (s.setRec ri rc).out = s.out := rfl
@[simp] theorem setRec_now {ri : RecId} {rc : Rec} : (s.setRec ri rc).now = s.now := rfl
@[simp] theorem setRec_regs {ri : RecId} {rc : Rec} : (s.setRec ri rc).regs = s.regs := rfl
@[simp] theorem setRec_mem {ri : RecId} {rc : Rec} : (s.setRec ri rc).mem = s.mem := rfl
@[simp] theorem setRec_net {ri : RecId} {rc : Rec} : (s.setRec ri rc).net = s.net := rfl
@[simp] theorem setRec_evPend {ri : RecId} {rc : Rec} : (s.setRec ri rc).evPend = s.evPend := rfl

@[simp] theorem setSel_pending {i : Nat} {se : SelSt} : (s.setSel i se).pending = s.pending := rfl
@[simp] theorem setSel_resp {i : Nat} {se : SelSt} : (s.setSel i se).resp = s.resp := rfl
@[simp] theorem setSel_out {i : Nat} {se : SelSt} : (s.setSel i se).out = s.out := rfl
@[simp] theorem setSel_now {i : Nat} {se : SelSt} : (s.setSel i se).now = s.now := rfl
@[simp] theorem setSel_regs {i : Nat} {se : SelSt} : (s.setSel i se).regs = s.regs := rfl
@[simp] theorem setSel_mem {i : Nat} {se : SelSt} : (s.setSel i se).mem = s.mem := rfl
@[simp] theorem setSel_net {i : Nat} {se : SelSt} : (s.setSel i se).net = s.net := rfl
@[simp] theorem setSel_evPend {i : Nat} {se : SelSt} : (s.setSel i se).evPend = s.evPend := rfl

@[simp] theorem setLane_pending {i : Nat} {la : LaneSt} : (s.setLane i la).pending = s.pending := rfl
@[simp] theorem setLane_resp {i : Nat} {la : LaneSt} : (s.setLane i la).resp = s.resp := rfl
@[simp] theorem setLane_out {i : Nat} {la : LaneSt} : (s.setLane i la).out = s.out := rfl
@[simp] theorem setLane_now {i : Nat} {la : LaneSt} : (s.setLane i la).now = s.now := rfl
@[simp] theorem setLane_regs {i : Nat} {la : LaneSt} : (s.setLane i la).regs = s.regs := rfl
@[simp] theorem setLane_mem {i : Nat} {la : LaneSt} : (s.setLane i la).mem = s.mem := rfl
@[simp] theorem setLane_net {i : Nat} {la : LaneSt} : (s.setLane i la).net = s.net := rfl
@[simp] theorem setLane_evPend {i : Nat} {la : LaneSt} : (s.setLane i la).evPend = s.evPend := rfl

@[simp] theorem setDc_pending {i j : Nat} {dc : DcSt} : (s.setDc i j dc).pending = s.pending := rfl
@[simp] theorem setDc_resp {i j : Nat} {dc : DcSt} : (s.setDc i j dc).resp = s.resp := rfl
@[simp] theorem setDc_out {i j : Nat} {dc : DcSt} : (s.setDc i j dc).out = s.out := rfl
@[simp] theorem setDc_now {i j : Nat} {dc : DcSt} : (s.setDc i j dc).now = s.now := rfl
@[simp] theorem setDc_regs {i j : Nat} {dc : DcSt} : (s.setDc i j dc).regs = s.regs := rfl
@[simp] theorem setDc_mem {i j : Nat} {dc : DcSt} : (s.setDc i j dc).mem = s.mem := rfl
@[simp] theorem setDc_net {i j : Nat} {dc : DcSt} : (s.setDc i j dc).net = s.net := rfl
@[simp] theorem setDc_evPend {i j : Nat} {dc : DcSt} : (s.setDc i j dc).evPend = s.evPend := rfl

@[simp] theorem fresh_pending : (s.fresh).pending = s.pending := rfl
@[simp] theorem fresh_free : (s.fresh).free = s.free := rfl
@[simp] theorem fresh_now : (s.fresh).now = s.now := rfl
@[simp] theorem fresh_wrap : (s.fresh).wrap = s.wrap := rfl
@[simp] theorem fresh_powered : (s.fresh).powered = s.powered := rfl
@[simp] theorem fresh_inReset : (s.fresh).inReset = s.inReset := rfl
@[simp] theorem fresh_regs : (s.fresh).regs = s.regs := rfl
@[simp] theorem fresh_mem : (s.fresh).mem = s.mem := rfl
@[simp] theorem fresh_events : (s.fresh).events = s.events := rfl
@[simp] theorem fresh_evPend : (s.fresh).evPend = s.evPend := rfl
@[simp] theorem fresh_queue : (s.fresh).queue = s.queue := rfl
@[simp] theorem fresh_net : (s.fresh).net = s.net := rfl
@[simp] theorem fresh_fns : (s.fresh).fns = s.fns := rfl
@[simp] theorem fresh_pathStops : (s.fresh).pathStops = s.pathStops := rfl
@[simp] theorem fresh_squashes : (s.fresh).squashes = s.squashes := rfl
@[simp] theorem fresh_txOut : (s.fresh).txOut = s.txOut := rfl
@[simp] theorem fresh_rxOut : (s.fresh).rxOut = s.rxOut := rfl
@[simp] theorem fresh_seqs : (s.fresh).seqs = s.seqs := rfl
@[simp] theorem fresh_hiq : (s.fresh).hiq = s.hiq := rfl
@[simp] theorem fresh_miq : (s.fresh).miq = s.miq := rfl
@[simp] theorem fresh_ports : (s.fresh).ports = s.ports := rfl
@[simp] theorem fresh_vlinks : (s.fresh).vlinks = s.vlinks := rfl
@[simp] theorem fresh_fenced : (s.fresh).fenced = s.fenced := rfl
@[simp] theorem fresh_faultlog : (s.fresh).faultlog = s.faultlog := rfl
@[simp] theorem fresh_mode : (s.fresh).mode = s.mode := rfl
@[simp] theorem fresh_power : (s.fresh).power = s.power := rfl
@[simp] theorem fresh_pcie : (s.fresh).pcie = s.pcie := rfl
@[simp] theorem fresh_ffts : (s.fresh).ffts = s.ffts := rfl
@[simp] theorem fresh_cars : (s.fresh).cars = s.cars := rfl
@[simp] theorem fresh_islCars : (s.fresh).islCars = s.islCars := rfl
@[simp] theorem fresh_wolas : (s.fresh).wolas = s.wolas := rfl
@[simp] theorem fresh_cfrs : (s.fresh).cfrs = s.cfrs := rfl
@[simp] theorem fresh_gains : (s.fresh).gains = s.gains := rfl
@[simp] theorem fresh_charges : (s.fresh).charges = s.charges := rfl
@[simp] theorem fresh_srsCharges : (s.fresh).srsCharges = s.srsCharges := rfl
@[simp] theorem fresh_decls : (s.fresh).decls = s.decls := rfl
@[simp] theorem fresh_blanked : (s.fresh).blanked = s.blanked := rfl
@[simp] theorem fresh_tdSpans : (s.fresh).tdSpans = s.tdSpans := rfl
@[simp] theorem fresh_dacOff : (s.fresh).dacOff = s.dacOff := rfl
@[simp] theorem fresh_adcOff : (s.fresh).adcOff = s.adcOff := rfl
@[simp] theorem fresh_lists : (s.fresh).lists = s.lists := rfl
@[simp] theorem fresh_listPtr : (s.fresh).listPtr = s.listPtr := rfl
@[simp] theorem fresh_lin : (s.fresh).lin = s.lin := rfl
@[simp] theorem fresh_syns : (s.fresh).syns = s.syns := rfl
@[simp] theorem fresh_synCal : (s.fresh).synCal = s.synCal := rfl
@[simp] theorem fresh_loSel : (s.fresh).loSel = s.loSel := rfl
@[simp] theorem fresh_fe : (s.fresh).fe = s.fe := rfl
@[simp] theorem fresh_beam : (s.fresh).beam = s.beam := rfl
@[simp] theorem fresh_clock : (s.fresh).clock = s.clock := rfl
@[simp] theorem fresh_rx : (s.fresh).rx = s.rx := rfl
@[simp] theorem fresh_time : (s.fresh).time = s.time := rfl
@[simp] theorem fresh_lanes : (s.fresh).lanes = s.lanes := rfl
@[simp] theorem fresh_pllLock : (s.fresh).pllLock = s.pllLock := rfl
@[simp] theorem fresh_pllAt : (s.fresh).pllAt = s.pllAt := rfl
@[simp] theorem fresh_pllRate : (s.fresh).pllRate = s.pllRate := rfl
@[simp] theorem fresh_caps : (s.fresh).caps = s.caps := rfl
@[simp] theorem fresh_slots : (s.fresh).slots = s.slots := rfl
@[simp] theorem fresh_slotReady : (s.fresh).slotReady = s.slotReady := rfl
@[simp] theorem fresh_dma : (s.fresh).dma = s.dma := rfl
@[simp] theorem fresh_dmaArb : (s.fresh).dmaArb = s.dmaArb := rfl
@[simp] theorem fresh_wdogAt : (s.fresh).wdogAt = s.wdogAt := rfl
@[simp] theorem fresh_mgmtRestart : (s.fresh).mgmtRestart = s.mgmtRestart := rfl
@[simp] theorem fresh_vcs : (s.fresh).vcs = s.vcs := rfl
@[simp] theorem fresh_sess : (s.fresh).sess = s.sess := rfl
@[simp] theorem fresh_svc : (s.fresh).svc = s.svc := rfl
@[simp] theorem fresh_chain : (s.fresh).chain = s.chain := rfl

@[simp] theorem took_pending {po : Port} {i : Nat} {it : Item} : (s.took po i it).pending = s.pending := rfl
@[simp] theorem took_free {po : Port} {i : Nat} {it : Item} : (s.took po i it).free = s.free := rfl
@[simp] theorem took_resp {po : Port} {i : Nat} {it : Item} : (s.took po i it).resp = s.resp := rfl
@[simp] theorem took_out {po : Port} {i : Nat} {it : Item} : (s.took po i it).out = s.out := rfl
@[simp] theorem took_now {po : Port} {i : Nat} {it : Item} : (s.took po i it).now = s.now := rfl
@[simp] theorem took_wrap {po : Port} {i : Nat} {it : Item} : (s.took po i it).wrap = s.wrap := rfl
@[simp] theorem took_powered {po : Port} {i : Nat} {it : Item} : (s.took po i it).powered = s.powered := rfl
@[simp] theorem took_inReset {po : Port} {i : Nat} {it : Item} : (s.took po i it).inReset = s.inReset := rfl
@[simp] theorem took_regs {po : Port} {i : Nat} {it : Item} : (s.took po i it).regs = s.regs := rfl
@[simp] theorem took_mem {po : Port} {i : Nat} {it : Item} : (s.took po i it).mem = s.mem := rfl
@[simp] theorem took_events {po : Port} {i : Nat} {it : Item} : (s.took po i it).events = s.events := rfl
@[simp] theorem took_evPend {po : Port} {i : Nat} {it : Item} : (s.took po i it).evPend = s.evPend := rfl
@[simp] theorem took_queue {po : Port} {i : Nat} {it : Item} : (s.took po i it).queue = s.queue := rfl
@[simp] theorem took_fns {po : Port} {i : Nat} {it : Item} : (s.took po i it).fns = s.fns := rfl
@[simp] theorem took_pathStops {po : Port} {i : Nat} {it : Item} : (s.took po i it).pathStops = s.pathStops := rfl
@[simp] theorem took_squashes {po : Port} {i : Nat} {it : Item} : (s.took po i it).squashes = s.squashes := rfl
@[simp] theorem took_txOut {po : Port} {i : Nat} {it : Item} : (s.took po i it).txOut = s.txOut := rfl
@[simp] theorem took_rxOut {po : Port} {i : Nat} {it : Item} : (s.took po i it).rxOut = s.rxOut := rfl
@[simp] theorem took_seqs {po : Port} {i : Nat} {it : Item} : (s.took po i it).seqs = s.seqs := rfl
@[simp] theorem took_hiq {po : Port} {i : Nat} {it : Item} : (s.took po i it).hiq = s.hiq := rfl
@[simp] theorem took_miq {po : Port} {i : Nat} {it : Item} : (s.took po i it).miq = s.miq := rfl
@[simp] theorem took_ports {po : Port} {i : Nat} {it : Item} : (s.took po i it).ports = s.ports := rfl
@[simp] theorem took_vlinks {po : Port} {i : Nat} {it : Item} : (s.took po i it).vlinks = s.vlinks := rfl
@[simp] theorem took_fenced {po : Port} {i : Nat} {it : Item} : (s.took po i it).fenced = s.fenced := rfl
@[simp] theorem took_faultlog {po : Port} {i : Nat} {it : Item} : (s.took po i it).faultlog = s.faultlog := rfl
@[simp] theorem took_mode {po : Port} {i : Nat} {it : Item} : (s.took po i it).mode = s.mode := rfl
@[simp] theorem took_power {po : Port} {i : Nat} {it : Item} : (s.took po i it).power = s.power := rfl
@[simp] theorem took_pcie {po : Port} {i : Nat} {it : Item} : (s.took po i it).pcie = s.pcie := rfl
@[simp] theorem took_ffts {po : Port} {i : Nat} {it : Item} : (s.took po i it).ffts = s.ffts := rfl
@[simp] theorem took_cars {po : Port} {i : Nat} {it : Item} : (s.took po i it).cars = s.cars := rfl
@[simp] theorem took_islCars {po : Port} {i : Nat} {it : Item} : (s.took po i it).islCars = s.islCars := rfl
@[simp] theorem took_wolas {po : Port} {i : Nat} {it : Item} : (s.took po i it).wolas = s.wolas := rfl
@[simp] theorem took_cfrs {po : Port} {i : Nat} {it : Item} : (s.took po i it).cfrs = s.cfrs := rfl
@[simp] theorem took_gains {po : Port} {i : Nat} {it : Item} : (s.took po i it).gains = s.gains := rfl
@[simp] theorem took_charges {po : Port} {i : Nat} {it : Item} : (s.took po i it).charges = s.charges := rfl
@[simp] theorem took_srsCharges {po : Port} {i : Nat} {it : Item} : (s.took po i it).srsCharges = s.srsCharges := rfl
@[simp] theorem took_decls {po : Port} {i : Nat} {it : Item} : (s.took po i it).decls = s.decls := rfl
@[simp] theorem took_blanked {po : Port} {i : Nat} {it : Item} : (s.took po i it).blanked = s.blanked := rfl
@[simp] theorem took_tdSpans {po : Port} {i : Nat} {it : Item} : (s.took po i it).tdSpans = s.tdSpans := rfl
@[simp] theorem took_dacOff {po : Port} {i : Nat} {it : Item} : (s.took po i it).dacOff = s.dacOff := rfl
@[simp] theorem took_adcOff {po : Port} {i : Nat} {it : Item} : (s.took po i it).adcOff = s.adcOff := rfl
@[simp] theorem took_lists {po : Port} {i : Nat} {it : Item} : (s.took po i it).lists = s.lists := rfl
@[simp] theorem took_listPtr {po : Port} {i : Nat} {it : Item} : (s.took po i it).listPtr = s.listPtr := rfl
@[simp] theorem took_lin {po : Port} {i : Nat} {it : Item} : (s.took po i it).lin = s.lin := rfl
@[simp] theorem took_syns {po : Port} {i : Nat} {it : Item} : (s.took po i it).syns = s.syns := rfl
@[simp] theorem took_synCal {po : Port} {i : Nat} {it : Item} : (s.took po i it).synCal = s.synCal := rfl
@[simp] theorem took_loSel {po : Port} {i : Nat} {it : Item} : (s.took po i it).loSel = s.loSel := rfl
@[simp] theorem took_fe {po : Port} {i : Nat} {it : Item} : (s.took po i it).fe = s.fe := rfl
@[simp] theorem took_beam {po : Port} {i : Nat} {it : Item} : (s.took po i it).beam = s.beam := rfl
@[simp] theorem took_clock {po : Port} {i : Nat} {it : Item} : (s.took po i it).clock = s.clock := rfl
@[simp] theorem took_rx {po : Port} {i : Nat} {it : Item} : (s.took po i it).rx = s.rx := rfl
@[simp] theorem took_time {po : Port} {i : Nat} {it : Item} : (s.took po i it).time = s.time := rfl
@[simp] theorem took_lanes {po : Port} {i : Nat} {it : Item} : (s.took po i it).lanes = s.lanes := rfl
@[simp] theorem took_pllLock {po : Port} {i : Nat} {it : Item} : (s.took po i it).pllLock = s.pllLock := rfl
@[simp] theorem took_pllAt {po : Port} {i : Nat} {it : Item} : (s.took po i it).pllAt = s.pllAt := rfl
@[simp] theorem took_pllRate {po : Port} {i : Nat} {it : Item} : (s.took po i it).pllRate = s.pllRate := rfl
@[simp] theorem took_caps {po : Port} {i : Nat} {it : Item} : (s.took po i it).caps = s.caps := rfl
@[simp] theorem took_slots {po : Port} {i : Nat} {it : Item} : (s.took po i it).slots = s.slots := rfl
@[simp] theorem took_slotReady {po : Port} {i : Nat} {it : Item} : (s.took po i it).slotReady = s.slotReady := rfl
@[simp] theorem took_dma {po : Port} {i : Nat} {it : Item} : (s.took po i it).dma = s.dma := rfl
@[simp] theorem took_dmaArb {po : Port} {i : Nat} {it : Item} : (s.took po i it).dmaArb = s.dmaArb := rfl
@[simp] theorem took_wdogAt {po : Port} {i : Nat} {it : Item} : (s.took po i it).wdogAt = s.wdogAt := rfl
@[simp] theorem took_mgmtRestart {po : Port} {i : Nat} {it : Item} : (s.took po i it).mgmtRestart = s.mgmtRestart := rfl
@[simp] theorem took_vcs {po : Port} {i : Nat} {it : Item} : (s.took po i it).vcs = s.vcs := rfl
@[simp] theorem took_sess {po : Port} {i : Nat} {it : Item} : (s.took po i it).sess = s.sess := rfl
@[simp] theorem took_svc {po : Port} {i : Nat} {it : Item} : (s.took po i it).svc = s.svc := rfl
@[simp] theorem took_chain {po : Port} {i : Nat} {it : Item} : (s.took po i it).chain = s.chain := rfl

/-! ## What a reader gives after its own update, and after one at another key -/

@[simp] theorem seqOf_setSeq {i : Nat} {sq : SeqSt} : (s.setSeq i sq).seqOf i = sq := tget_tput
theorem seqOf_setSeq_ne {j i : Nat} {sq : SeqSt} (h : j ≠ i) : (s.setSeq i sq).seqOf j = s.seqOf j := tget_tput_ne h
@[simp] theorem evOf_setEv {i : Nat} {ev : EvRec} : (s.setEv i ev).evOf i = ev := tget_tput
theorem evOf_setEv_ne {j i : Nat} {ev : EvRec} (h : j ≠ i) : (s.setEv i ev).evOf j = s.evOf j := tget_tput_ne h
@[simp] theorem portOf_setPort {i : Nat} {pl : PortLink} : (s.setPort i pl).portOf i = pl := tget_tput
theorem portOf_setPort_ne {j i : Nat} {pl : PortLink} (h : j ≠ i) : (s.setPort i pl).portOf j = s.portOf j := tget_tput_ne h
@[simp] theorem tilePower_setTilePower {i : Nat} {pm : PMachine} : (s.setTilePower i pm).tilePower i = pm := tget_tput
theorem tilePower_setTilePower_ne {j i : Nat} {pm : PMachine} (h : j ≠ i) : (s.setTilePower i pm).tilePower j = s.tilePower j := tget_tput_ne h
@[simp] theorem reg_setReg {off : Nat} {w : BitVec 32} : (s.setReg off w).reg off = w := tget_tput
theorem reg_setReg_ne {i off : Nat} {w : BitVec 32} (h : i ≠ off) : (s.setReg off w).reg i = s.reg i := tget_tput_ne h
@[simp] theorem vlOf_setVl {i j : Nat} {vl : VcLink} : (s.setVl i j vl).vlOf i j = vl := tget_tput
theorem vlOf_setVl_ne {k l i j : Nat} {vl : VcLink} (h : 4 * k + l ≠ 4 * i + j) : (s.setVl i j vl).vlOf k l = s.vlOf k l := tget_tput_ne h
@[simp] theorem fnOf_setFn {i j : Nat} {fs : FnSt} : (s.setFn i j fs).fnOf i j = fs := tget_tput
theorem fnOf_setFn_ne {k l i j : Nat} {fs : FnSt} (h : 4 * k + l ≠ 4 * i + j) : (s.setFn i j fs).fnOf k l = s.fnOf k l := tget_tput_ne h

@[simp] theorem setSeq_setSeq {i : Nat} {sq : SeqSt} {sq' : SeqSt} : (s.setSeq i sq).setSeq i sq' = s.setSeq i sq' := by simp [State.setSeq]
@[simp] theorem setReg_setReg {off : Nat} {w w' : BitVec 32} : (s.setReg off w).setReg off w' = s.setReg off w' := by simp [State.setReg]

/-! ## Readers that look at other fields -/

@[simp] theorem seqOf_setReg {off i : Nat} {w : BitVec 32} : (s.setReg off w).seqOf i = s.seqOf i := rfl
@[simp] theorem evOf_setReg {off i : Nat} {w : BitVec 32} : (s.setReg off w).evOf i = s.evOf i := rfl
@[simp] theorem portOf_setReg {off i : Nat} {w : BitVec 32} : (s.setReg off w).portOf i = s.portOf i := rfl
@[simp] theorem fnOf_setReg {off i j : Nat} {w : BitVec 32} : (s.setReg off w).fnOf i j = s.fnOf i j := rfl
@[simp] theorem vlOf_setReg {off i j : Nat} {w : BitVec 32} : (s.setReg off w).vlOf i j = s.vlOf i j := rfl
@[simp] theorem tilePower_setReg {off i : Nat} {w : BitVec 32} : (s.setReg off w).tilePower i = s.tilePower i := rfl
@[simp] theorem byteAt_setReg {off i : Nat} {w : BitVec 32} : (s.setReg off w).byteAt i = s.byteAt i := rfl
@[simp] theorem alive_setReg {off : Nat} {w : BitVec 32} : (s.setReg off w).alive = s.alive := rfl
@[simp] theorem seqOf_setReg64 {off i : Nat} {x64 : BitVec 64} : (s.setReg64 off x64).seqOf i = s.seqOf i := rfl
@[simp] theorem evOf_setReg64 {off i : Nat} {x64 : BitVec 64} : (s.setReg64 off x64).evOf i = s.evOf i := rfl
@[simp] theorem portOf_setReg64 {off i : Nat} {x64 : BitVec 64} : (s.setReg64 off x64).portOf i = s.portOf i := rfl
@[simp] theorem fnOf_setReg64 {off i j : Nat} {x64 : BitVec 64} : (s.setReg64 off x64).fnOf i j = s.fnOf i j := rfl
@[simp] theorem vlOf_setReg64 {off i j : Nat} {x64 : BitVec 64} : (s.setReg64 off x64).vlOf i j = s.vlOf i j := rfl
@[simp] theorem tilePower_setReg64 {off i : Nat} {x64 : BitVec 64} : (s.setReg64 off x64).tilePower i = s.tilePower i := rfl
@[simp] theorem byteAt_setReg64 {off i : Nat} {x64 : BitVec 64} : (s.setReg64 off x64).byteAt i = s.byteAt i := rfl
@[simp] theorem alive_setReg64 {off : Nat} {x64 : BitVec 64} : (s.setReg64 off x64).alive = s.alive := rfl
@[simp] theorem seqOf_bump {off i : Nat} : (s.bump off).seqOf i = s.seqOf i := rfl
@[simp] theorem evOf_bump {off i : Nat} : (s.bump off).evOf i = s.evOf i := rfl
@[simp] theorem portOf_bump {off i : Nat} : (s.bump off).portOf i = s.portOf i := rfl
@[simp] theorem fnOf_bump {off i j : Nat} : (s.bump off).fnOf i j = s.fnOf i j := rfl
@[simp] theorem vlOf_bump {off i j : Nat} : (s.bump off).vlOf i j = s.vlOf i j := rfl
@[simp] theorem tilePower_bump {off i : Nat} : (s.bump off).tilePower i = s.tilePower i := rfl
@[simp] theorem byteAt_bump {off i : Nat} : (s.bump off).byteAt i = s.byteAt i := rfl
@[simp] theorem alive_bump {off : Nat} : (s.bump off).alive = s.alive := rfl
@[simp] theorem seqOf_setEv {k i : Nat} {ev : EvRec} : (s.setEv k ev).seqOf i = s.seqOf i := rfl
@[simp] theorem portOf_setEv {k i : Nat} {ev : EvRec} : (s.setEv k ev).portOf i = s.portOf i := rfl
@[simp] theorem reg_setEv {k i : Nat} {ev : EvRec} : (s.setEv k ev).reg i = s.reg i := rfl
@[simp] theorem fnOf_setEv {k i j : Nat} {ev : EvRec} : (s.setEv k ev).fnOf i j = s.fnOf i j := rfl
@[simp] theorem vlOf_setEv {k i j : Nat} {ev : EvRec} : (s.setEv k ev).vlOf i j = s.vlOf i j := rfl
@[simp] theorem tilePower_setEv {k i : Nat} {ev : EvRec} : (s.setEv k ev).tilePower i = s.tilePower i := rfl
@[simp] theorem byteAt_setEv {k i : Nat} {ev : EvRec} : (s.setEv k ev).byteAt i = s.byteAt i := rfl
@[simp] theorem alive_setEv {k : Nat} {ev : EvRec} : (s.setEv k ev).alive = s.alive := rfl
@[simp] theorem evOf_setSeq {k i : Nat} {sq : SeqSt} : (s.setSeq k sq).evOf i = s.evOf i := rfl
@[simp] theorem portOf_setSeq {k i : Nat} {sq : SeqSt} : (s.setSeq k sq).portOf i = s.portOf i := rfl
@[simp] theorem reg_setSeq {k i : Nat} {sq : SeqSt} : (s.setSeq k sq).reg i = s.reg i := rfl
@[simp] theorem fnOf_setSeq {k i j : Nat} {sq : SeqSt} : (s.setSeq k sq).fnOf i j = s.fnOf i j := rfl
@[simp] theorem vlOf_setSeq {k i j : Nat} {sq : SeqSt} : (s.setSeq k sq).vlOf i j = s.vlOf i j := rfl
@[simp] theorem tilePower_setSeq {k i : Nat} {sq : SeqSt} : (s.setSeq k sq).tilePower i = s.tilePower i := rfl
@[simp] theorem byteAt_setSeq {k i : Nat} {sq : SeqSt} : (s.setSeq k sq).byteAt i = s.byteAt i := rfl
@[simp] theorem alive_setSeq {k : Nat} {sq : SeqSt} : (s.setSeq k sq).alive = s.alive := rfl
@[simp] theorem seqOf_setPort {k i : Nat} {pl : PortLink} : (s.setPort k pl).seqOf i = s.seqOf i := rfl
@[simp] theorem evOf_setPort {k i : Nat} {pl : PortLink} : (s.setPort k pl).evOf i = s.evOf i := rfl
@[simp] theorem reg_setPort {k i : Nat} {pl : PortLink} : (s.setPort k pl).reg i = s.reg i := rfl
@[simp] theorem fnOf_setPort {k i j : Nat} {pl : PortLink} : (s.setPort k pl).fnOf i j = s.fnOf i j := rfl
@[simp] theorem vlOf_setPort {k i j : Nat} {pl : PortLink} : (s.setPort k pl).vlOf i j = s.vlOf i j := rfl
@[simp] theorem tilePower_setPort {k i : Nat} {pl : PortLink} : (s.setPort k pl).tilePower i = s.tilePower i := rfl
@[simp] theorem byteAt_setPort {k i : Nat} {pl : PortLink} : (s.setPort k pl).byteAt i = s.byteAt i := rfl
@[simp] theorem alive_setPort {k : Nat} {pl : PortLink} : (s.setPort k pl).alive = s.alive := rfl
@[simp] theorem seqOf_setVl {k l i : Nat} {vl : VcLink} : (s.setVl k l vl).seqOf i = s.seqOf i := rfl
@[simp] theorem evOf_setVl {k l i : Nat} {vl : VcLink} : (s.setVl k l vl).evOf i = s.evOf i := rfl
@[simp] theorem portOf_setVl {k l i : Nat} {vl : VcLink} : (s.setVl k l vl).portOf i = s.portOf i := rfl
@[simp] theorem reg_setVl {k l i : Nat} {vl : VcLink} : (s.setVl k l vl).reg i = s.reg i := rfl
@[simp] theorem fnOf_setVl {k l i j : Nat} {vl : VcLink} : (s.setVl k l vl).fnOf i j = s.fnOf i j := rfl
@[simp] theorem tilePower_setVl {k l i : Nat} {vl : VcLink} : (s.setVl k l vl).tilePower i = s.tilePower i := rfl
@[simp] theorem byteAt_setVl {k l i : Nat} {vl : VcLink} : (s.setVl k l vl).byteAt i = s.byteAt i := rfl
@[simp] theorem alive_setVl {k l : Nat} {vl : VcLink} : (s.setVl k l vl).alive = s.alive := rfl
@[simp] theorem seqOf_setFn {k l i : Nat} {fs : FnSt} : (s.setFn k l fs).seqOf i = s.seqOf i := rfl
@[simp] theorem evOf_setFn {k l i : Nat} {fs : FnSt} : (s.setFn k l fs).evOf i = s.evOf i := rfl
@[simp] theorem portOf_setFn {k l i : Nat} {fs : FnSt} : (s.setFn k l fs).portOf i = s.portOf i := rfl
@[simp] theorem reg_setFn {k l i : Nat} {fs : FnSt} : (s.setFn k l fs).reg i = s.reg i := rfl
@[simp] theorem vlOf_setFn {k l i j : Nat} {fs : FnSt} : (s.setFn k l fs).vlOf i j = s.vlOf i j := rfl
@[simp] theorem tilePower_setFn {k l i : Nat} {fs : FnSt} : (s.setFn k l fs).tilePower i = s.tilePower i := rfl
@[simp] theorem byteAt_setFn {k l i : Nat} {fs : FnSt} : (s.setFn k l fs).byteAt i = s.byteAt i := rfl
@[simp] theorem alive_setFn {k l : Nat} {fs : FnSt} : (s.setFn k l fs).alive = s.alive := rfl
@[simp] theorem seqOf_setTilePower {k i : Nat} {pm : PMachine} : (s.setTilePower k pm).seqOf i = s.seqOf i := rfl
@[simp] theorem evOf_setTilePower {k i : Nat} {pm : PMachine} : (s.setTilePower k pm).evOf i = s.evOf i := rfl
@[simp] theorem portOf_setTilePower {k i : Nat} {pm : PMachine} : (s.setTilePower k pm).portOf i = s.portOf i := rfl
@[simp] theorem reg_setTilePower {k i : Nat} {pm : PMachine} : (s.setTilePower k pm).reg i = s.reg i := rfl
@[simp] theorem fnOf_setTilePower {k i j : Nat} {pm : PMachine} : (s.setTilePower k pm).fnOf i j = s.fnOf i j := rfl
@[simp] theorem vlOf_setTilePower {k i j : Nat} {pm : PMachine} : (s.setTilePower k pm).vlOf i j = s.vlOf i j := rfl
@[simp] theorem byteAt_setTilePower {k i : Nat} {pm : PMachine} : (s.setTilePower k pm).byteAt i = s.byteAt i := rfl
@[simp] theorem alive_setTilePower {k : Nat} {pm : PMachine} : (s.setTilePower k pm).alive = s.alive := rfl
@[simp] theorem seqOf_emitOut {o : Out} {i : Nat} : (s.emitOut o).seqOf i = s.seqOf i := rfl
@[simp] theorem evOf_emitOut {o : Out} {i : Nat} : (s.emitOut o).evOf i = s.evOf i := rfl
@[simp] theorem portOf_emitOut {o : Out} {i : Nat} : (s.emitOut o).portOf i = s.portOf i := rfl
@[simp] theorem reg_emitOut {o : Out} {i : Nat} : (s.emitOut o).reg i = s.reg i := rfl
@[simp] theorem fnOf_emitOut {o : Out} {i j : Nat} : (s.emitOut o).fnOf i j = s.fnOf i j := rfl
@[simp] theorem vlOf_emitOut {o : Out} {i j : Nat} : (s.emitOut o).vlOf i j = s.vlOf i j := rfl
@[simp] theorem tilePower_emitOut {o : Out} {i : Nat} : (s.emitOut o).tilePower i = s.tilePower i := rfl
@[simp] theorem byteAt_emitOut {o : Out} {i : Nat} : (s.emitOut o).byteAt i = s.byteAt i := rfl
@[simp] theorem alive_emitOut {o : Out} : (s.emitOut o).alive = s.alive := rfl
@[simp] theorem seqOf_done {i : Nat} : (s.done).seqOf i = s.seqOf i := rfl
@[simp] theorem evOf_done {i : Nat} : (s.done).evOf i = s.evOf i := rfl
@[simp] theorem portOf_done {i : Nat} : (s.done).portOf i = s.portOf i := rfl
@[simp] theorem reg_done {i : Nat} : (s.done).reg i = s.reg i := rfl
@[simp] theorem fnOf_done {i j : Nat} : (s.done).fnOf i j = s.fnOf i j := rfl
@[simp] theorem vlOf_done {i j : Nat} : (s.done).vlOf i j = s.vlOf i j := rfl
@[simp] theorem tilePower_done {i : Nat} : (s.done).tilePower i = s.tilePower i := rfl
@[simp] theorem byteAt_done {i : Nat} : (s.done).byteAt i = s.byteAt i := rfl
@[simp] theorem alive_done : (s.done).alive = s.alive := rfl
@[simp] theorem seqOf_error {i : Nat} : (s.error).seqOf i = s.seqOf i := rfl
@[simp] theorem evOf_error {i : Nat} : (s.error).evOf i = s.evOf i := rfl
@[simp] theorem portOf_error {i : Nat} : (s.error).portOf i = s.portOf i := rfl
@[simp] theorem reg_error {i : Nat} : (s.error).reg i = s.reg i := rfl
@[simp] theorem fnOf_error {i j : Nat} : (s.error).fnOf i j = s.fnOf i j := rfl
@[simp] theorem vlOf_error {i j : Nat} : (s.error).vlOf i j = s.vlOf i j := rfl
@[simp] theorem tilePower_error {i : Nat} : (s.error).tilePower i = s.tilePower i := rfl
@[simp] theorem byteAt_error {i : Nat} : (s.error).byteAt i = s.byteAt i := rfl
@[simp] theorem alive_error : (s.error).alive = s.alive := rfl
@[simp] theorem seqOf_drawn {i : Nat} : (s.drawn).seqOf i = s.seqOf i := rfl
@[simp] theorem evOf_drawn {i : Nat} : (s.drawn).evOf i = s.evOf i := rfl
@[simp] theorem portOf_drawn {i : Nat} : (s.drawn).portOf i = s.portOf i := rfl
@[simp] theorem reg_drawn {i : Nat} : (s.drawn).reg i = s.reg i := rfl
@[simp] theorem fnOf_drawn {i j : Nat} : (s.drawn).fnOf i j = s.fnOf i j := rfl
@[simp] theorem vlOf_drawn {i j : Nat} : (s.drawn).vlOf i j = s.vlOf i j := rfl
@[simp] theorem tilePower_drawn {i : Nat} : (s.drawn).tilePower i = s.tilePower i := rfl
@[simp] theorem byteAt_drawn {i : Nat} : (s.drawn).byteAt i = s.byteAt i := rfl
@[simp] theorem alive_drawn : (s.drawn).alive = s.alive := rfl
@[simp] theorem seqOf_setByte {k i : Nat} {b : Byte} : (s.setByte k b).seqOf i = s.seqOf i := rfl
@[simp] theorem evOf_setByte {k i : Nat} {b : Byte} : (s.setByte k b).evOf i = s.evOf i := rfl
@[simp] theorem portOf_setByte {k i : Nat} {b : Byte} : (s.setByte k b).portOf i = s.portOf i := rfl
@[simp] theorem reg_setByte {k i : Nat} {b : Byte} : (s.setByte k b).reg i = s.reg i := rfl
@[simp] theorem fnOf_setByte {k i j : Nat} {b : Byte} : (s.setByte k b).fnOf i j = s.fnOf i j := rfl
@[simp] theorem vlOf_setByte {k i j : Nat} {b : Byte} : (s.setByte k b).vlOf i j = s.vlOf i j := rfl
@[simp] theorem tilePower_setByte {k i : Nat} {b : Byte} : (s.setByte k b).tilePower i = s.tilePower i := rfl
@[simp] theorem alive_setByte {k : Nat} {b : Byte} : (s.setByte k b).alive = s.alive := rfl
@[simp] theorem seqOf_markValid {k i : Nat} : (s.markValid k).seqOf i = s.seqOf i := rfl
@[simp] theorem evOf_markValid {k i : Nat} : (s.markValid k).evOf i = s.evOf i := rfl
@[simp] theorem portOf_markValid {k i : Nat} : (s.markValid k).portOf i = s.portOf i := rfl
@[simp] theorem reg_markValid {k i : Nat} : (s.markValid k).reg i = s.reg i := rfl
@[simp] theorem fnOf_markValid {k i j : Nat} : (s.markValid k).fnOf i j = s.fnOf i j := rfl
@[simp] theorem vlOf_markValid {k i j : Nat} : (s.markValid k).vlOf i j = s.vlOf i j := rfl
@[simp] theorem tilePower_markValid {k i : Nat} : (s.markValid k).tilePower i = s.tilePower i := rfl
@[simp] theorem alive_markValid {k : Nat} : (s.markValid k).alive = s.alive := rfl
@[simp] theorem seqOf_setErr {k i : Nat} {er : MemErr} : (s.setErr k er).seqOf i = s.seqOf i := rfl
@[simp] theorem evOf_setErr {k i : Nat} {er : MemErr} : (s.setErr k er).evOf i = s.evOf i := rfl
@[simp] theorem portOf_setErr {k i : Nat} {er : MemErr} : (s.setErr k er).portOf i = s.portOf i := rfl
@[simp] theorem reg_setErr {k i : Nat} {er : MemErr} : (s.setErr k er).reg i = s.reg i := rfl
@[simp] theorem fnOf_setErr {k i j : Nat} {er : MemErr} : (s.setErr k er).fnOf i j = s.fnOf i j := rfl
@[simp] theorem vlOf_setErr {k i j : Nat} {er : MemErr} : (s.setErr k er).vlOf i j = s.vlOf i j := rfl
@[simp] theorem tilePower_setErr {k i : Nat} {er : MemErr} : (s.setErr k er).tilePower i = s.tilePower i := rfl
@[simp] theorem alive_setErr {k : Nat} {er : MemErr} : (s.setErr k er).alive = s.alive := rfl
@[simp] theorem evOf_setSyn {k i : Nat} {syn : SynSt} : (s.setSyn k syn).evOf i = s.evOf i := rfl
@[simp] theorem reg_setSyn {k i : Nat} {syn : SynSt} : (s.setSyn k syn).reg i = s.reg i := rfl
@[simp] theorem byteAt_setSyn {k i : Nat} {syn : SynSt} : (s.setSyn k syn).byteAt i = s.byteAt i := rfl
@[simp] theorem alive_setSyn {k : Nat} {syn : SynSt} : (s.setSyn k syn).alive = s.alive := rfl
@[simp] theorem evOf_setLo {k i : Nat} {lo : LoSel} : (s.setLo k lo).evOf i = s.evOf i := rfl
@[simp] theorem reg_setLo {k i : Nat} {lo : LoSel} : (s.setLo k lo).reg i = s.reg i := rfl
@[simp] theorem byteAt_setLo {k i : Nat} {lo : LoSel} : (s.setLo k lo).byteAt i = s.byteAt i := rfl
@[simp] theorem alive_setLo {k : Nat} {lo : LoSel} : (s.setLo k lo).alive = s.alive := rfl
@[simp] theorem evOf_setDma {k i : Nat} {dm : DmaSt} : (s.setDma k dm).evOf i = s.evOf i := rfl
@[simp] theorem reg_setDma {k i : Nat} {dm : DmaSt} : (s.setDma k dm).reg i = s.reg i := rfl
@[simp] theorem byteAt_setDma {k i : Nat} {dm : DmaSt} : (s.setDma k dm).byteAt i = s.byteAt i := rfl
@[simp] theorem alive_setDma {k : Nat} {dm : DmaSt} : (s.setDma k dm).alive = s.alive := rfl
@[simp] theorem evOf_setLim {k i : Nat} {lim : LimSt} : (s.setLim k lim).evOf i = s.evOf i := rfl
@[simp] theorem reg_setLim {k i : Nat} {lim : LimSt} : (s.setLim k lim).reg i = s.reg i := rfl
@[simp] theorem byteAt_setLim {k i : Nat} {lim : LimSt} : (s.setLim k lim).byteAt i = s.byteAt i := rfl
@[simp] theorem alive_setLim {k : Nat} {lim : LimSt} : (s.setLim k lim).alive = s.alive := rfl
@[simp] theorem evOf_setSlot {k i : Nat} {sl : SlotSt} : (s.setSlot k sl).evOf i = s.evOf i := rfl
@[simp] theorem reg_setSlot {k i : Nat} {sl : SlotSt} : (s.setSlot k sl).reg i = s.reg i := rfl
@[simp] theorem byteAt_setSlot {k i : Nat} {sl : SlotSt} : (s.setSlot k sl).byteAt i = s.byteAt i := rfl
@[simp] theorem alive_setSlot {k : Nat} {sl : SlotSt} : (s.setSlot k sl).alive = s.alive := rfl
@[simp] theorem evOf_setReady {k i : Nat} {bo : Bool} : (s.setReady k bo).evOf i = s.evOf i := rfl
@[simp] theorem reg_setReady {k i : Nat} {bo : Bool} : (s.setReady k bo).reg i = s.reg i := rfl
@[simp] theorem byteAt_setReady {k i : Nat} {bo : Bool} : (s.setReady k bo).byteAt i = s.byteAt i := rfl
@[simp] theorem alive_setReady {k : Nat} {bo : Bool} : (s.setReady k bo).alive = s.alive := rfl
@[simp] theorem evOf_setCap {k i : Nat} {cp : CapSt} : (s.setCap k cp).evOf i = s.evOf i := rfl
@[simp] theorem reg_setCap {k i : Nat} {cp : CapSt} : (s.setCap k cp).reg i = s.reg i := rfl
@[simp] theorem byteAt_setCap {k i : Nat} {cp : CapSt} : (s.setCap k cp).byteAt i = s.byteAt i := rfl
@[simp] theorem alive_setCap {k : Nat} {cp : CapSt} : (s.setCap k cp).alive = s.alive := rfl
@[simp] theorem evOf_setVc {k i : Nat} {vc : VcSt} : (s.setVc k vc).evOf i = s.evOf i := rfl
@[simp] theorem reg_setVc {k i : Nat} {vc : VcSt} : (s.setVc k vc).reg i = s.reg i := rfl
@[simp] theorem byteAt_setVc {k i : Nat} {vc : VcSt} : (s.setVc k vc).byteAt i = s.byteAt i := rfl
@[simp] theorem alive_setVc {k : Nat} {vc : VcSt} : (s.setVc k vc).alive = s.alive := rfl
@[simp] theorem evOf_setFft {d : Dir} {k i : Nat} {ff : FftSt} : (s.setFft d k ff).evOf i = s.evOf i := rfl
@[simp] theorem reg_setFft {d : Dir} {k i : Nat} {ff : FftSt} : (s.setFft d k ff).reg i = s.reg i := rfl
@[simp] theorem byteAt_setFft {d : Dir} {k i : Nat} {ff : FftSt} : (s.setFft d k ff).byteAt i = s.byteAt i := rfl
@[simp] theorem alive_setFft {d : Dir} {k : Nat} {ff : FftSt} : (s.setFft d k ff).alive = s.alive := rfl
@[simp] theorem evOf_setCar {k l i : Nat} {d : Dir} {cr : CarSt} : (s.setCar k d l cr).evOf i = s.evOf i := rfl
@[simp] theorem reg_setCar {k l i : Nat} {d : Dir} {cr : CarSt} : (s.setCar k d l cr).reg i = s.reg i := rfl
@[simp] theorem byteAt_setCar {k l i : Nat} {d : Dir} {cr : CarSt} : (s.setCar k d l cr).byteAt i = s.byteAt i := rfl
@[simp] theorem alive_setCar {k l : Nat} {d : Dir} {cr : CarSt} : (s.setCar k d l cr).alive = s.alive := rfl
@[simp] theorem evOf_setIslCar {d : Dir} {k i : Nat} {cr : CarSt} : (s.setIslCar d k cr).evOf i = s.evOf i := rfl
@[simp] theorem reg_setIslCar {d : Dir} {k i : Nat} {cr : CarSt} : (s.setIslCar d k cr).reg i = s.reg i := rfl
@[simp] theorem byteAt_setIslCar {d : Dir} {k i : Nat} {cr : CarSt} : (s.setIslCar d k cr).byteAt i = s.byteAt i := rfl
@[simp] theorem alive_setIslCar {d : Dir} {k : Nat} {cr : CarSt} : (s.setIslCar d k cr).alive = s.alive := rfl
@[simp] theorem evOf_setGain {d : Dir} {k l i : Nat} {g16 : BitVec 16} : (s.setGain d k l g16).evOf i = s.evOf i := rfl
@[simp] theorem reg_setGain {d : Dir} {k l i : Nat} {g16 : BitVec 16} : (s.setGain d k l g16).reg i = s.reg i := rfl
@[simp] theorem byteAt_setGain {d : Dir} {k l i : Nat} {g16 : BitVec 16} : (s.setGain d k l g16).byteAt i = s.byteAt i := rfl
@[simp] theorem alive_setGain {d : Dir} {k l : Nat} {g16 : BitVec 16} : (s.setGain d k l g16).alive = s.alive := rfl
@[simp] theorem evOf_setRegion {d : Dir} {rg : Region} {rs : RegionSt} {i : Nat} : (s.setRegion d rg rs).evOf i = s.evOf i := rfl
@[simp] theorem reg_setRegion {d : Dir} {rg : Region} {rs : RegionSt} {i : Nat} : (s.setRegion d rg rs).reg i = s.reg i := rfl
@[simp] theorem byteAt_setRegion {d : Dir} {rg : Region} {rs : RegionSt} {i : Nat} : (s.setRegion d rg rs).byteAt i = s.byteAt i := rfl
@[simp] theorem alive_setRegion {d : Dir} {rg : Region} {rs : RegionSt} : (s.setRegion d rg rs).alive = s.alive := rfl
@[simp] theorem evOf_setDirty {d : Dir} {bk : Bank} {k i : Nat} {bo : Bool} : (s.setDirty d bk k bo).evOf i = s.evOf i := rfl
@[simp] theorem reg_setDirty {d : Dir} {bk : Bank} {k i : Nat} {bo : Bool} : (s.setDirty d bk k bo).reg i = s.reg i := rfl
@[simp] theorem byteAt_setDirty {d : Dir} {bk : Bank} {k i : Nat} {bo : Bool} : (s.setDirty d bk k bo).byteAt i = s.byteAt i := rfl
@[simp] theorem alive_setDirty {d : Dir} {bk : Bank} {k : Nat} {bo : Bool} : (s.setDirty d bk k bo).alive = s.alive := rfl
@[simp] theorem evOf_setRec {ri : RecId} {rc : Rec} {i : Nat} : (s.setRec ri rc).evOf i = s.evOf i := rfl
@[simp] theorem reg_setRec {ri : RecId} {rc : Rec} {i : Nat} : (s.setRec ri rc).reg i = s.reg i := rfl
@[simp] theorem byteAt_setRec {ri : RecId} {rc : Rec} {i : Nat} : (s.setRec ri rc).byteAt i = s.byteAt i := rfl
@[simp] theorem alive_setRec {ri : RecId} {rc : Rec} : (s.setRec ri rc).alive = s.alive := rfl
@[simp] theorem evOf_setSel {k i : Nat} {se : SelSt} : (s.setSel k se).evOf i = s.evOf i := rfl
@[simp] theorem reg_setSel {k i : Nat} {se : SelSt} : (s.setSel k se).reg i = s.reg i := rfl
@[simp] theorem byteAt_setSel {k i : Nat} {se : SelSt} : (s.setSel k se).byteAt i = s.byteAt i := rfl
@[simp] theorem alive_setSel {k : Nat} {se : SelSt} : (s.setSel k se).alive = s.alive := rfl
@[simp] theorem evOf_setLane {k i : Nat} {la : LaneSt} : (s.setLane k la).evOf i = s.evOf i := rfl
@[simp] theorem reg_setLane {k i : Nat} {la : LaneSt} : (s.setLane k la).reg i = s.reg i := rfl
@[simp] theorem byteAt_setLane {k i : Nat} {la : LaneSt} : (s.setLane k la).byteAt i = s.byteAt i := rfl
@[simp] theorem alive_setLane {k : Nat} {la : LaneSt} : (s.setLane k la).alive = s.alive := rfl
@[simp] theorem evOf_setDc {k l i : Nat} {dc : DcSt} : (s.setDc k l dc).evOf i = s.evOf i := rfl
@[simp] theorem reg_setDc {k l i : Nat} {dc : DcSt} : (s.setDc k l dc).reg i = s.reg i := rfl
@[simp] theorem byteAt_setDc {k l i : Nat} {dc : DcSt} : (s.setDc k l dc).byteAt i = s.byteAt i := rfl
@[simp] theorem alive_setDc {k l : Nat} {dc : DcSt} : (s.setDc k l dc).alive = s.alive := rfl
@[simp] theorem seqOf_fresh {i : Nat} : (s.fresh).seqOf i = s.seqOf i := rfl
@[simp] theorem evOf_fresh {i : Nat} : (s.fresh).evOf i = s.evOf i := rfl
@[simp] theorem portOf_fresh {i : Nat} : (s.fresh).portOf i = s.portOf i := rfl
@[simp] theorem reg_fresh {i : Nat} : (s.fresh).reg i = s.reg i := rfl
@[simp] theorem fnOf_fresh {i j : Nat} : (s.fresh).fnOf i j = s.fnOf i j := rfl
@[simp] theorem vlOf_fresh {i j : Nat} : (s.fresh).vlOf i j = s.vlOf i j := rfl
@[simp] theorem tilePower_fresh {i : Nat} : (s.fresh).tilePower i = s.tilePower i := rfl
@[simp] theorem byteAt_fresh {i : Nat} : (s.fresh).byteAt i = s.byteAt i := rfl
@[simp] theorem alive_fresh : (s.fresh).alive = s.alive := rfl
@[simp] theorem seqOf_took {po : Port} {k i : Nat} {it : Item} : (s.took po k it).seqOf i = s.seqOf i := rfl
@[simp] theorem evOf_took {po : Port} {k i : Nat} {it : Item} : (s.took po k it).evOf i = s.evOf i := rfl
@[simp] theorem portOf_took {po : Port} {k i : Nat} {it : Item} : (s.took po k it).portOf i = s.portOf i := rfl
@[simp] theorem reg_took {po : Port} {k i : Nat} {it : Item} : (s.took po k it).reg i = s.reg i := rfl
@[simp] theorem fnOf_took {po : Port} {k i j : Nat} {it : Item} : (s.took po k it).fnOf i j = s.fnOf i j := rfl
@[simp] theorem vlOf_took {po : Port} {k i j : Nat} {it : Item} : (s.took po k it).vlOf i j = s.vlOf i j := rfl
@[simp] theorem tilePower_took {po : Port} {k i : Nat} {it : Item} : (s.took po k it).tilePower i = s.tilePower i := rfl
@[simp] theorem byteAt_took {po : Port} {k i : Nat} {it : Item} : (s.took po k it).byteAt i = s.byteAt i := rfl
@[simp] theorem alive_took {po : Port} {k : Nat} {it : Item} : (s.took po k it).alive = s.alive := rfl

@[simp] theorem byteAt_markValid {k i : Nat} : (s.markValid k).byteAt i = s.byteAt i := rfl
@[simp] theorem byteAt_setErr {k i : Nat} {er : MemErr} : (s.setErr k er).byteAt i = s.byteAt i := rfl

end Sys2Proof.Machine
end

