-- ==== Sys2Proof/Laws/Ops.lean ====
section
/-! SUPPORT. What the shared operations do, said once: bytes of memory and byte order, the frame of every command, arrival
and queueing of an item at its stage, the issue of an instruction by a sequencer and of a word by a vector core. -/

namespace Sys2Proof.Machine
open Sys2Proof

/-! ## Bytes of memory -/

@[simp] theorem byteAt_setByte {s : State} {a : Nat} {v : Byte} : (s.setByte a v).byteAt a = v := tget_tput

theorem byteAt_setByte_ne {s : State} {a b : Nat} {v : Byte} (h : b ≠ a) : (s.setByte a v).byteAt b = s.byteAt b :=
  tget_tput_ne h

/-- A byte outside the written ones reads as before. -/
theorem byteAt_setBytes_outside {s : State} {a b : Nat} {l : Bytes} (h : b < a ∨ a + l.length ≤ b) :
    (s.setBytes a l).byteAt b = s.byteAt b := by
  induction l generalizing s a with
  | nil => rfl
  | cons v l ih =>
    simp only [List.length_cons] at h
    rw [State.setBytes, ih (by omega), byteAt_setByte_ne (by omega)]

theorem bytesAt_setBytes_outside {s : State} {a b n : Nat} {l : Bytes} (h : b + n ≤ a ∨ a + l.length ≤ b) :
    (s.setBytes a l).bytesAt b n = s.bytesAt b n := by
  induction n generalizing b with
  | zero => rfl
  | succ n ih => rw [State.bytesAt, State.bytesAt, ih (by omega), byteAt_setBytes_outside (by omega)]

/-- The written bytes read back. -/
theorem bytesAt_setBytes {s : State} {a : Nat} {l : Bytes} : (s.setBytes a l).bytesAt a l.length = l := by
  induction l generalizing s a with
  | nil => rfl
  | cons v l ih =>
    rw [List.length_cons, State.bytesAt, State.setBytes, ih, byteAt_setBytes_outside (by omega), byteAt_setByte]

/-- So does any prefix of them. -/
theorem bytesAt_setBytes_take {s : State} {a n : Nat} {l : Bytes} (h : n ≤ l.length) :
    (s.setBytes a l).bytesAt a n = l.take n := by
  induction l generalizing s a n with
  | nil => obtain rfl : n = 0 := by simpa using h
           rfl
  | cons v l ih =>
    cases n with
    | zero => rfl
    | succ n =>
      rw [State.bytesAt, State.setBytes, ih (by simpa using h), byteAt_setBytes_outside (by omega), byteAt_setByte,
        List.take_succ_cons]

theorem bytesAt_length {s : State} {a n : Nat} : (s.bytesAt a n).length = n := by
  induction n generalizing a with
  | zero => rfl
  | succ n ih => simp [State.bytesAt, ih]

/-! ## Byte order -/

@[simp] theorem leBytes_length {n v : Nat} : (leBytes n v).length = n := by
  induction n generalizing v with
  | zero => rfl
  | succ n ih => simp [leBytes, ih]

/-- Bytes written lowest first read back as the number. -/
theorem leNat_leBytes {n v : Nat} : leNat (leBytes n v) = v % 2 ^ (8 * n) := by
  induction n generalizing v with
  | zero => simp [leBytes, leNat, Nat.mod_one]
  | succ n ih =>
    rw [leBytes, leNat, ih, show 8 * (n + 1) = 8 + 8 * n by omega, Nat.pow_add, Nat.mod_mul]
    simp

theorem leNat_append {a b : Bytes} : leNat (a ++ b) = leNat a + 2 ^ (8 * a.length) * leNat b := by
  induction a with
  | nil => simp [leNat]
  | cons v a ih =>
    rw [List.cons_append, leNat, leNat, ih, List.length_cons, show 8 * (a.length + 1) = 8 + 8 * a.length by omega, Nat.pow_add,
      Nat.mul_add, Nat.mul_assoc, Nat.add_assoc]

/-- A 32-bit field that lies at byte `k` of a payload. -/
theorem pbits_word {b x : Bytes} {k v : Nat} (h : (b.drop k).take 6 = leBytes 4 v ++ x) (hv : v < 2 ^ 32) :
    pbits b (8 * k) 32 = v := by
  rw [pbits, Nat.mul_div_cancel_left _ (by omega), h, leNat_append, leNat_leBytes, leBytes_length, nbits, Nat.mul_mod_right,
    Nat.pow_zero, Nat.div_one, Nat.add_mul_mod_self_left, Nat.mod_mod, Nat.mod_eq_of_lt hv]

/-! ## The frame of every command -/

theorem act_alive {f : State → State} {s : State} (h : s.alive = true) : act f s = .next (f s.fresh) := by
  have h' : (State.alive { s with resp := .none, out := [] }) = true := h
  simp only [act, State.fresh, h', if_true]

theorem act_dead {f : State → State} {s : State} (h : s.alive = false) : act f s = .next s.fresh := by
  have h' : (State.alive { s with resp := .none, out := [] }) = false := h
  simp only [act, State.fresh, h', Bool.false_eq_true, if_false]

theorem regAct_dead {w : Initiator} {f : State → State} {s : State} (h : s.alive = false) : regAct w f s = .next s.fresh :=
  act_dead h

/-- A write of a register of window A: done while its block answers, else an error response, and a host is heard (R33, R546). -/
theorem regAct_alive {w : Initiator} {f : State → State} {s : State} (h : s.alive = true) :
    regAct w f s = .next (if s.fresh.blocksOn = true then f s.fresh
      else (if w = .host then s.fresh.hostWake else s.fresh).error) := by
  rw [regAct, act_alive h, State.regDo]

theorem act_next (f : State → State) (s : State) : ∃ t, act f s = .next t := by
  cases h : s.alive with
  | true => exact ⟨_, act_alive h⟩
  | false => exact ⟨_, act_dead h⟩

theorem regAct_next (w : Initiator) (f : State → State) (s : State) : ∃ t, regAct w f s = .next t := act_next _ _

theorem actAlways_next (f : State → State) (s : State) : ∃ t, actAlways f s = .next t := ⟨_, rfl⟩

/-! ## Items at their stages -/

section arrival
variable {s : State} {p : Port} {t m : Nat} {it : Item} {pc : BitVec 19} {k : BitVec 19 → State → State}

theorem verdict_taken (h : s.passes p t it = true) : s.verdict p t it = .taken := by
  unfold State.passes at h
  simp only [Bool.and_eq_true, Bool.not_eq_true', decide_eq_true_eq] at h
  obtain ⟨⟨⟨⟨⟨⟨⟨⟨z, a⟩, b⟩, c⟩, d⟩, e⟩, f⟩, g⟩, i⟩ := h
  unfold State.verdict
  rw [if_neg (by simp [z]), if_neg (by simp [a]), if_neg (by simp [b]), if_neg (by simp [c]), if_neg (show ¬ lead it.tag.air s.now > 2 ^ 24 by omega),
    if_neg (by simp [e])]
  split
  · rename_i x hx
    rw [hx] at f
    simp at f
    simp [f, g, i]
  · simp [g, i]

/-- An item that passes is taken: its credit returns, and the stage's own rule acts. -/
theorem arrive_taken (h : s.passes p t it = true) : s.arrive p t it k = k (takeNet p t it s.net).2 (s.took p t it) := by
  unfold State.arrive
  rw [verdict_taken h]
  rfl

/-- An item waits while one that its issuer sent before it on its stream is still on the way (R22). -/
theorem arrive_behind (h : netBehind p t it s.net = true) : s.arrive p t it k = s := by
  unfold State.arrive State.verdict
  rw [if_pos h]

/-- What the common check finds, in its order, at a stage that is clocked and not fenced. -/
theorem verdict_cases (h0 : netBehind p t it s.net = false) (h1 : s.portFenced p t = false) (h2 : s.gated p t = false) :
    (tagCheck it.tag = false → s.verdict p t it = .tagFailed) ∧
    (tagCheck it.tag = true → decide (2 ^ 24 < lead it.tag.air s.now) = true → s.verdict p t it = .early) ∧
    (tagCheck it.tag = true → decide (2 ^ 24 < lead it.tag.air s.now) = false → s.discardsItem p t it = true →
      s.verdict p t it = .discarded) ∧
    (tagCheck it.tag = true → decide (2 ^ 24 < lead it.tag.air s.now) = false → s.discardsItem p t it = false →
      (payloadForm p it (s.itemShape it).1 (s.itemShape it).2 && tagFieldsOk it.tag) = false → s.verdict p t it = .refused) := by
  unfold State.verdict State.discardsItem
  refine ⟨fun h => by simp [h0, h1, h2, h], fun h h3 => ?_, fun h h3 h4 => ?_, fun h h3 h4 h5 => ?_⟩
  · simp at h3
    simp [h0, h1, h2, h, h3]
  all_goals
    simp at h3
    rw [if_neg (by simp [h0]), if_neg (by simp [h1]), if_neg (by simp [h2]), if_neg (by simp [h]), if_neg (show ¬ lead it.tag.air s.now > 2 ^ 24 by omega)]
  · split
    · rfl
    · rename_i hs
      simp only [Bool.or_eq_true, hs, false_or, Bool.false_eq_true] at h4
      split at h4
      · rename_i f hf
        simp only [hf, h4, if_true]
      · simp at h4
  · simp only [Bool.or_eq_false_iff] at h4
    rw [if_neg (by simp [h4.1])]
    split
    · rename_i f hf
      have := h4.2
      rw [hf] at this
      simp [this, h5]
    · simp [h5]

/-- What becomes of an item that the stage does not take (R39, R44, R64, R68, R342). -/
theorem arrive_cases (h0 : netBehind p t it s.net = false) (h1 : s.portFenced p t = false) (h2 : s.gated p t = false) :
    (tagCheck it.tag = false → s.arrive p t it k =
      ((s.took p t it).bump (domCounter p t .tagerr)).signalAll (tagFailEvents p t it.tag.source.toNat)) ∧
    (tagCheck it.tag = true → decide (2 ^ 24 < lead it.tag.air s.now) = true → s.arrive p t it k =
      ((s.took p t it).bump (domCounter p t .cfgerr)).signalAll (turnedAwayEvents p t it.tag.source.toNat)) ∧
    (tagCheck it.tag = true → decide (2 ^ 24 < lead it.tag.air s.now) = false → s.discardsItem p t it = true →
      s.arrive p t it k = (s.took p t it).bump (domCounter p t .discard)) ∧
    (tagCheck it.tag = true → decide (2 ^ 24 < lead it.tag.air s.now) = false → s.discardsItem p t it = false →
      (payloadForm p it (s.itemShape it).1 (s.itemShape it).2 && tagFieldsOk it.tag) = false → s.arrive p t it k =
      ((s.took p t it).bump (refusalCounter p t)).refuseSeq it.tag.source (takeNet p t it s.net).2) := by
  obtain ⟨a, b, c, d⟩ := verdict_cases (it := it) h0 h1 h2
  refine ⟨fun h => ?_, fun h x => ?_, fun h x y => ?_, fun h x y z => ?_⟩ <;> unfold State.arrive
  · rw [a h]; rfl
  · rw [b h x]; rfl
  · rw [c h x y]; simp only [h1, State.took]; rfl
  · rw [d h x y z]; rfl

/-- An item on time waits for its AIRTIME (R56). -/
theorem queueCtl_onTime (hl : it.tag.late = false) (h : s.lateBy p t it = none) :
    s.queueCtl p t it pc = s.enqueue ⟨p, t, it, it.tag.air, false, pc⟩ := by
  unfold State.queueCtl State.placeCtl
  simp only [hl, Bool.false_eq_true, if_false, h]

/-- A late item of receive control, or of the kinds R50 does not defer, is counted and dropped (R50, R51). -/
theorem queueCtl_dropped (h : s.lateBy p t it = some m) (hl : it.tag.late = false)
    (hk : it.tag.kind ∈ [kSicCtl, kDcFreeze] ∨ (itemDir p it = .rx ∧ lateApplies it.tag.kind)) :
    s.queueCtl p t it pc = s.bump (domCounter p t .latecnt) := by
  unfold State.queueCtl State.placeCtl
  rw [hl]
  simp only [Bool.false_eq_true, if_false, h]
  by_cases hc : it.tag.kind ∈ [kSicCtl, kDcFreeze]
  · rw [if_pos hc]
  · rw [if_neg hc, if_pos (by simpa using hk.resolve_left hc)]

end arrival

/-! ## Cores that issue -/

/-- The check of units that are all good leaves the state. -/
theorem checkUnit_good {s : State} {r : MRegion} {us : List Nat} {b : Bool} (h : us.all (fun u => s.errAt u = .good) = true) :
    us.foldl (State.checkUnit r) (s, b) = (s, b) := by
  induction us with
  | nil => rfl
  | cons u us ih =>
    simp only [List.all_cons, Bool.and_eq_true, decide_eq_true_eq] at h
    rw [List.foldl_cons, show State.checkUnit r (s, b) u = (s, b) by simp [State.checkUnit, h.1]]
    exact ih h.2

section seq
variable {s : State} {k : Nat} {ok : Bool}

/-- The second half's read of bytes that are all good leaves the state. -/
theorem secondHalf_good {a n : Nat} (h : (!asqOwn k a n || (List.range n).all fun i => s.errAt (secondCopy (a + i)) = .good) = true) :
    s.secondHalf k a n = (s, false) := by
  unfold State.secondHalf
  cases e : asqOwn k a n
  · rfl
  · simp only [e, Bool.not_true, Bool.false_or, List.all_eq_true, decide_eq_true_eq] at h
    have good : ∀ l : List Nat, (∀ i ∈ l, s.errAt (secondCopy (a + i)) = .good) →
        (l.map (a + ·)).foldl State.checkCopy (s, false) = (s, false) := by
      intro l
      induction l with
      | nil => intro _; rfl
      | cons i l ih =>
        intro hl
        rw [List.map_cons, List.foldl_cons, show State.checkCopy (s, false) (a + i) = (s, false) by
          simp [State.checkCopy, hl i (List.mem_cons_self ..)]]
        exact ih fun j hj => hl j (List.mem_cons_of_mem _ hj)
    rw [if_pos rfl, good _ h]

/-- A sequencer that issues: the instruction's own effect, or the fault of undefined fields. -/
theorem seqIssue_ready {f : SeqSt → State → State} (h : s.seqReady k = true) :
    s.seqIssue k ok f = if ok then f (s.seqOf k) s else s.seqFault k 1 := by
  simp only [State.seqReady, Bool.and_eq_true, decide_eq_true_eq] at h
  obtain ⟨⟨⟨⟨⟨h1, h2⟩, h3⟩, h4⟩, h5⟩, h6⟩ := h
  have hf : s.seqFetch k = (none, s) := by
    unfold State.seqFetch
    simp only [if_neg (Nat.not_le.mpr h4), checkUnit_good h5, secondHalf_good h6, Bool.or_self, Bool.false_eq_true, if_false]
  unfold State.seqIssue
  rw [if_neg (by simp [h1, h2]), if_neg (by simp [h3]), hf]

/-- The sequencer goes on at an offset inside program memory. -/
theorem seqGoto_in {x : Int} (h : inProgram x = true) : s.seqGoto k x = s.setSeq k ((s.seqOf k).at_ x) := by
  simp only [inProgram, decide_eq_true_eq] at h
  simp only [State.seqGoto]
  rw [if_neg (by omega)]
  rfl

/-- An instruction that changes its sequencer's own registers, and not the program counter, goes on at the next one. -/
theorem seqReg_ready {f : SeqSt → SeqSt} (h : s.seqReady k = true) (hn : inProgram (s.seqOf k).after = true)
    (hp : (f (s.seqOf k)).pc = (s.seqOf k).pc) :
    s.seqReg k true f = s.setSeq k (f (s.seqOf k)).next := by
  unfold State.seqReg State.seqNext
  rw [seqIssue_ready h, if_pos rfl, seqGoto_in]
  · rw [setSeq_setSeq, seqOf_setSeq]
    rfl
  · rw [seqOf_setSeq, hp]
    exact hn

theorem setG_pc {q : SeqSt} {d : GReg} {v : BitVec 64} : (q.setG d v).pc = q.pc := by
  unfold SeqSt.setG
  split <;> rfl

theorem setZncv_pc {q : SeqSt} {v : BitVec 4} : (q.setZncv v).pc = q.pc := rfl
end seq

section vc
variable {s : State} {n : Nat} {ok : Bool}

theorem vcFetch_ready (h : s.bundleReady n = true) : s.vcReady n = true ∧ s.vcFetch n = (none, s) := by
  simp only [State.bundleReady, Bool.and_eq_true, decide_eq_true_eq] at h
  obtain ⟨⟨⟨h1, h2⟩, h3⟩, h4⟩ := h
  refine ⟨by simp [State.vcReady, h1, h2], ?_⟩
  unfold State.vcFetch
  simp only [if_neg (Nat.not_le.mpr h3), checkUnit_good h4, Bool.false_eq_true, if_false]

/-- An S word of a core that issues, with defined fields and no clash: its own effect. -/
theorem sIssue_ready {dst : List VReg} {f : State → State} (h : s.bundleReady n = true) (hc : (s.vcOf n).clash dst = false) :
    s.sIssue n true dst f = f (s.setVc n ((s.vcOf n).begin dst)) := by
  obtain ⟨a, b⟩ := vcFetch_ready h
  unfold State.sIssue
  simp [a, b, hc]

/-- A V word of a core that issues, with defined fields: word 0 of a dual-issued bundle waits, any other writes. -/
theorem vIssue_ready {dual : Bool} {f : VcSt → VRes} (h : s.bundleReady n = true) (hs : (s.vcOf n).staged = none)
    (hc : (s.vcOf n).clash (f (s.vcOf n)).write.regs = false) :
    s.vIssue n dual true f =
      if dual && (s.vcOf n).pc.toNat % 8 = 0 then s.setVc n { s.vcOf n with staged := some (f (s.vcOf n)) }
      else
        let u := (s.setVc n ((s.vcOf n).begin (f (s.vcOf n)).write.regs)).vcApply n (f (s.vcOf n))
        u.setVc n ((u.vcOf n).next (s.vcOf n).pc.toNat) := by
  obtain ⟨a, b⟩ := vcFetch_ready h
  unfold State.vIssue
  simp [a, b, hs, hc]
end vc

end Sys2Proof.Machine
end

