-- ==== Sys2Proof/WellFormed.lean ====
section
/-! DEFINITION. Well-formed commands: operands that a unit, a wire or an interface could present. Operand types already bound what
the table bounds (a tile, a path, a lane, a register number); the checks here are those a type does not make. -/

namespace Sys2Proof
/-- A payload as a network item carries it: up to 65,535 bytes, the range of the tag's LENGTH. -/
def bodyOk (b : Bytes) : Bool := decide (b.length < 65536)

/-- A received Cypel frame: a body of at most 16,383 bytes, the most that its header can name (R403). -/
def cypelFrameOk (f : Frame) : Bool := decide (f.body.length < 16384)

/-- A host request within one TLP: up to 4,096 bytes, and byte enables for every byte or for none (R455). -/
def hostReqOk (r : HostReq) : Bool :=
  decide (r.len ≤ 4096) && decide (r.data.length ≤ 4096) && (r.enables.isEmpty || r.enables.length = r.data.length)

/-- An Ethernet payload that a frame of up to 9,216 octets can hold (R427). -/
def ethOk (e : EthFrame) : Bool := decide (e.payload.length ≤ 9216)

/-- A session message: data of at most 4,096 bytes (R569, R570). -/
def sessOk (m : SessMsg) : Bool := decide (m.data.length ≤ 4096)

/-- A received ALIGN word within its period of 4,096 blocks (R400). -/
def alignOk (a : AlignSeen) : Bool := decide (a.skew < 4096)

/-- The command is well formed. -/
def Instr.wellFormed : Instr → Bool
  | .fdData _ body => bodyOk body
  | .tdData _ body => bodyOk body
  | .sectionItem _ body => bodyOk body
  | .ulPartial _ body => bodyOk body
  | .beamSelDeclaration _ body => bodyOk body
  | .soundingWindow _ body => bodyOk body
  | .beamCommit _ body => bodyOk body
  | .engineCommit => true
  | .fftCfg _ body => bodyOk body
  | .wola _ body => bodyOk body
  | .carrierOn _ _ body => bodyOk body
  | .carrierOff _ _ body => bodyOk body
  | .carrierRetune _ _ body => bodyOk body
  | .fltSwapTxfir _ _ body => bodyOk body
  | .fltSwapRxfir _ _ body => bodyOk body
  | .fltSwapRxiq _ _ body => bodyOk body
  | .cfrCfg _ _ body => bodyOk body
  | .dpdSwapModel _ _ body => bodyOk body
  | .dpdSwapCorr _ _ body => bodyOk body
  | .sicCtlOn _ _ body => bodyOk body
  | .sicCtlOff _ _ body => bodyOk body
  | .sicCtlSwap _ _ body => bodyOk body
  | .sicCtlSnap _ _ body => bodyOk body
  | .gainTx _ _ body => bodyOk body
  | .gainRx _ _ body => bodyOk body
  | .lnaStep _ _ body => bodyOk body
  | .dcFreeze _ _ body => bodyOk body
  | .dcRelease _ _ body => bodyOk body
  | .feRxon _ _ body => bodyOk body
  | .feRxoff _ _ body => bodyOk body
  | .feLoopback _ _ body => bodyOk body
  | .feLbrel _ _ body => bodyOk body
  | .feRxcal _ _ body => bodyOk body
  | .feTune _ _ body => bodyOk body
  | .rffeGroup _ _ body => bodyOk body
  | .loPrep _ _ body => bodyOk body
  | .loCal _ _ body => bodyOk body
  | .loSwitch _ _ body => bodyOk body
  | .pwrCtlActive _ body => bodyOk body
  | .pwrCtlReed _ body => bodyOk body
  | .pwrCtlSedge _ body => bodyOk body
  | .pwrCtlFen _ body => bodyOk body
  | .captureStart _ body => bodyOk body
  | .captureStop _ body => bodyOk body
  | .playbackStart _ body => bodyOk body
  | .playbackStop _ body => bodyOk body
  | .marker _ _ _ body => bodyOk body
  | .stop _ _ _ body => bodyOk body
  | .stopResume _ _ _ body => bodyOk body
  | .pathtxStop _ _ _ body => bodyOk body
  | .pathrxStop _ _ _ body => bodyOk body
  | .squashItem _ _ _ body => bodyOk body
  | .coefPredistorter _ _ body => bodyOk body
  | .coefTxCorrector _ _ body => bodyOk body
  | .coefRxCorrector _ _ body => bodyOk body
  | .coefCanceller _ _ body => bodyOk body
  | .coefFir _ _ body => bodyOk body
  | .coefCfrPulse _ _ body => bodyOk body
  | .syncReset _ _ body => bodyOk body
  | .itemApply _ _ => true
  | .lateItemApply _ _ => true
  | .stopTimeReached _ _ => true
  | .quiescence _ _ => true
  | .pathPowerDown _ _ => true
  | .missingDataDeadline _ _ => true
  | .syncResetT0 _ => true
  | .cancellerOffTailEnd _ => true
  | .fadeEnd _ => true
  | .recordLineFailure _ => true
  | .recordRebuild _ => true
  | .dcServoStep _ _ => true
  | .ulBlockReady _ => true
  | .holdExpiry _ => true
  | .soundingBlocks _ _ _ => true
  | .obsEntryStart _ => true
  | .obsSnapshotStart _ => true
  | .obsSnapshotComplete _ _ fb => bodyOk fb
  | .obsPowerResult _ _ fb => bodyOk fb
  | .sicSnapshotComplete _ => true
  | .beamTableWrite _ _ data => bodyOk data
  | .buildComplete _ => true
  | .buildOverrun _ => true
  | .bankLive _ _ => true
  | .bankRelease _ _ => true
  | .entryLineFailure _ _ _ => true
  | .entryRefetchComplete _ _ _ => true
  | .beamEcqWrite _ _ => true
  | .beamAlignWrite _ _ _ _ => true
  | .txReadinessTest _ _ _ => true
  | .prepComplete _ => true
  | .calComplete _ _ => true
  | .calYield _ => true
  | .switchSpanStart _ => true
  | .lockLoss _ => true
  | .relockFailure _ => true
  | .refclkLoss => true
  | .syncalCommit _ _ _ _ => true
  | .feTxenOn _ _ _ => true
  | .feTxenOff _ => true
  | .feRxenSwitch _ _ => true
  | .rffeGroupStart _ => true
  | .feRffecmd _ _ _ => true
  | .rffecmdRun _ _ _ => true
  | .feMuteRelease _ _ _ => true
  | .mutedPathResume _ => true
  | .limiterWindow _ => true
  | .limiterLevelExchange _ => true
  | .limiterGainRise _ => true
  | .dutyWindowStart => true
  | .dutyLimitReached _ => true
  | .rfSafeNFall => true
  | .rfSafeNRise => true
  | .rfSafeResume _ => true
  | .coxRequestRise _ _ => true
  | .coxGrantWithdrawn _ => true
  | .regulatoryReadFailure => true
  | .temperatureUpdate _ _ => true
  | .thermAlertN => true
  | .seqAdd _ _ _ _ => true
  | .seqSub _ _ _ _ => true
  | .seqAnd _ _ _ _ => true
  | .seqOr _ _ _ _ => true
  | .seqXor _ _ _ _ => true
  | .seqSll _ _ _ _ => true
  | .seqSrl _ _ _ _ => true
  | .seqSra _ _ _ _ => true
  | .seqMul _ _ _ _ => true
  | .seqSlt _ _ _ _ => true
  | .seqSltu _ _ _ _ => true
  | .seqMin _ _ _ _ => true
  | .seqMax _ _ _ _ => true
  | .seqLead40 _ _ _ _ => true
  | .seqAdd40 _ _ _ _ => true
  | .seqDivu _ _ _ _ => true
  | .seqAddi _ _ _ _ => true
  | .seqAndi _ _ _ _ => true
  | .seqOri _ _ _ _ => true
  | .seqXori _ _ _ _ => true
  | .seqShi _ _ _ _ => true
  | .seqSetw _ _ _ _ => true
  | .seqShor _ _ _ _ => true
  | .seqExt _ _ _ _ => true
  | .seqIns _ _ _ _ => true
  | .seqLd _ _ _ _ => true
  | .seqLw _ _ _ _ => true
  | .seqLh _ _ _ _ => true
  | .seqLb _ _ _ _ => true
  | .seqSd _ _ _ _ => true
  | .seqSw _ _ _ _ => true
  | .seqSh _ _ _ _ => true
  | .seqSb _ _ _ _ => true
  | .seqBr _ _ _ => true
  | .seqBl _ _ _ => true
  | .seqJumpr _ _ _ _ _ => true
  | .seqRbz _ _ _ _ => true
  | .seqRbnz _ _ _ _ => true
  | .seqAt _ _ _ _ _ => true
  | .seqWaitt _ _ _ _ _ => true
  | .seqMfs _ _ _ _ => true
  | .seqMts _ _ _ _ => true
  | .seqEmit _ _ _ _ _ => true
  | .seqEmitTry _ _ _ _ _ => true
  | .seqBeamsel _ _ _ _ _ => true
  | .seqCommit _ _ _ _ _ => true
  | .seqPrep _ _ _ _ _ => true
  | .seqHop _ _ _ _ _ => true
  | .seqPwr _ _ _ _ _ => true
  | .seqRecv _ _ _ _ _ => true
  | .seqRecvNb _ _ _ _ _ => true
  | .seqEvRaise _ _ _ _ _ => true
  | .seqEvWait _ _ _ _ _ => true
  | .seqEvWaitTimeout _ => true
  | .seqStallEnd _ => true
  | .seqCkpt _ _ _ _ => true
  | .seqSquash _ _ _ _ _ => true
  | .seqSquashStallEnd _ => true
  | .seqSpecoff _ _ _ _ _ => true
  | .seqHalt _ _ _ _ _ => true
  | .refusalFault _ => true
  | .seqRun _ _ => true
  | .seqStop _ _ => true
  | .seqRestart _ _ => true
  | .hiqPush _ _ => true
  | .miqPush _ _ => true
  | .issueQueueIssue _ => true
  | .lockstepMismatch _ => true
  | .vNop _ _ _ _ _ _ => true
  | .vCmac _ _ _ _ _ _ => true
  | .vAdd _ _ _ _ _ _ => true
  | .vConj _ _ _ _ _ _ => true
  | .vNorm _ _ _ _ _ _ => true
  | .vExp _ _ _ _ _ _ => true
  | .vRnd _ _ _ _ _ _ => true
  | .vRsq _ _ _ _ _ _ => true
  | .vSplat _ _ _ _ _ _ => true
  | .vHadd _ _ _ _ _ _ => true
  | .vAclr _ _ _ _ _ _ => true
  | .vMovs _ _ _ _ _ _ => true
  | .vIns _ _ _ _ _ _ => true
  | .vAovf _ _ _ _ _ _ => true
  | .sNop _ _ _ _ _ => true
  | .sAdd _ _ _ _ => true
  | .sSub _ _ _ _ => true
  | .sAnd _ _ _ _ => true
  | .sOr _ _ _ _ => true
  | .sXor _ _ _ _ => true
  | .sSll _ _ _ _ => true
  | .sSrl _ _ _ _ => true
  | .sSra _ _ _ _ => true
  | .sMul _ _ _ _ => true
  | .sSlt _ _ _ _ => true
  | .sSltu _ _ _ _ => true
  | .sMin _ _ _ _ => true
  | .sMax _ _ _ _ => true
  | .sAddi _ _ _ _ => true
  | .sLi _ _ _ _ => true
  | .sLih _ _ _ _ => true
  | .sMov _ _ _ _ _ => true
  | .sAaddi _ _ _ _ => true
  | .sVld _ _ _ _ _ => true
  | .sVst _ _ _ _ _ => true
  | .sLd _ _ _ _ _ => true
  | .sSt _ _ _ _ _ => true
  | .remoteLoadResponse _ => true
  | .sB _ _ _ => true
  | .sBl _ _ _ => true
  | .sJr _ _ _ _ _ => true
  | .sLoop _ _ _ _ _ => true
  | .sMfsr _ _ _ _ => true
  | .sSev _ _ _ _ _ => true
  | .sSleep _ _ _ _ _ => true
  | .sleepEnd _ => true
  | .sFence _ _ _ _ _ => true
  | .sHalt _ _ _ _ _ => true
  | .vcRun _ _ => true
  | .vcStop _ _ => true
  | .vcRestart _ _ => true
  | .laneGroupEnable _ _ _ => true
  | .laneGroupDisable _ _ _ => true
  | .laneIdleRequest _ _ _ => true
  | .pllLock _ => true
  | .idleEntry _ _ => true
  | .train _ _ => true
  | .retrain _ _ => true
  | .signalDetect _ => true
  | .fastExitLock _ _ => true
  | .fastExitFail _ => true
  | .trainingEnd _ => true
  | .blockLock _ _ => true
  | .acquisitionRetry _ => true
  | .lossOfSignal _ => true
  | .lossOfLock _ _ _ => true
  | .portAligning _ => true
  | .alignWord _ _ seen => alignOk seen
  | .alignSend _ => true
  | .lresetWord _ _ _ => true
  | .portUp _ => true
  | .creditWord _ _ _ => true
  | .creditRefresh _ => true
  | .ackWord _ _ _ => true
  | .nakWord _ _ _ => true
  | .ackTimeout _ _ => true
  | .creditTimeout _ _ => true
  | .vc2WaitExpiry _ => true
  | .frameSend _ => true
  | .taggedFrame _ f => cypelFrameOk f
  | .mgmtRead _ f => cypelFrameOk f
  | .mgmtWrite _ f => cypelFrameOk f
  | .mgmtUpdate _ f => cypelFrameOk f
  | .mgmtRsp _ f => cypelFrameOk f
  | .eventFrame _ f => cypelFrameOk f
  | .bulk _ f => cypelFrameOk f
  | .linkctl _ f => cypelFrameOk f
  | .ptpMessage _ _ _ m => bodyOk m
  | .tsyncAnnounce _ f => cypelFrameOk f
  | .ethernetFrame _ e => ethOk e
  | .pcsLinkChange _ _ => true
  | .timeStepWrite _ _ => true
  | .timeRearm _ _ => true
  | .timeSrcChange _ _ => true
  | .timeRateWrite _ _ => true
  | .steeringWordPeriodic => true
  | .servoSample _ _ _ _ => true
  | .sourceLossTimeout => true
  | .ptpDescriptor _ _ => true
  | .ptpLaunch _ => true
  | .tsyncOutEdge => true
  | .tsyncInEdge => true
  | .tsyncMissing => true
  | .ppsOutEdge => true
  | .ppsInEdge => true
  | .ppsMissing => true
  | .slowclkTick => true
  | .hostRequest r => hostReqOk r
  | .pciePerst => true
  | .slotClaim _ _ => true
  | .slotHandover _ _ => true
  | .slotRelease _ _ => true
  | .deviceSlotClaim _ _ _ => true
  | .deviceSlotHandover _ _ _ => true
  | .deviceSlotRelease _ _ _ => true
  | .headerRepoll _ => true
  | .leaseExpiry _ => true
  | .memWincbaseWrite _ _ => true
  | .msixUnmask _ => true
  | .svcWrite b => bodyOk b
  | .svcRead b => bodyOk b
  | .svcStatus => true
  | .dmaRing _ _ _ => true
  | .dmaEnable _ _ _ => true
  | .dmaDisable _ _ _ => true
  | .dmaResume _ _ _ => true
  | .dmaAbort _ _ _ => true
  | .dmaHeadWrite _ _ _ => true
  | .burstGrant host => bodyOk host
  | .descriptorComplete _ => true
  | .waitevSignal _ _ => true
  | .waitwordPoll _ => true
  | .dmaWaitTimeout _ => true
  | .dmaErrorHalt _ => true
  | .scrubStep _ => true
  | .privilegedLapOverdue => true
  | .nvWordWrite _ _ _ _ => true
  | .nvErase _ _ => true
  | .captureRecord _ _ _ _ _ => true
  | .playbackRecord _ => true
  | .eventRepeatMessage _ => true
  | .evPendClear _ _ _ _ => true
  | .requestTimeout _ => true
  | .clockMonitorTrip _ => true
  | .selfCheckError _ => true
  | .fenceRequest _ _ => true
  | .fenceRelease _ _ => true
  | .watchdogKick _ _ => true
  | .watchdogExpiry => true
  | .pwrReqActive _ _ => true
  | .pwrReqFen _ _ => true
  | .pwrReqBog _ _ => true
  | .pwrReqPeat _ _ => true
  | .powerEntryStep _ => true
  | .entryRollback _ => true
  | .autoReedEntry _ => true
  | .autoReedExit _ => true
  | .wakeTick => true
  | .wakeN => true
  | .exitStepReady _ => true
  | .psGoodTimeout _ => true
  | .transitionOverrun _ => true
  | .psGoodFall _ => true
  | .psEnRaise _ => true
  | .avsStep _ => true
  | .modeReqService _ => true
  | .modeReqMaintenance _ => true
  | .modeReqTest _ => true
  | .modeReqWarmup _ => true
  | .modeReqTimeout _ => true
  | .settingsRead => true
  | .calibrationComplete => true
  | .powerOn => true
  | .resetPin => true
  | .softwareReset _ _ => true
  | .bootWatchdogExpiry => true
  | .sessionOpen _ m => sessOk m
  | .sessionWrite _ m => sessOk m
  | .sessionFinish _ m => sessOk m
  | .sessionActivate _ m => sessOk m
  | .sessionConfirm _ m => sessOk m
  | .sessionAbort _ m => sessOk m
  | .sessionStatus _ m => sessOk m
  | .sessionRead _ m => sessOk m
  | .sessionFallback _ m => sessOk m
  | .sessionLockExpiry => true
  | .trialWindowExpiry => true
  | .counterReadClear _ _ _ => true
  | .w1cWrite _ _ _ _ => true
  | .wideRegisterCommit _ _ _ => true
  | .configRegisterWrite _ _ _ _ => true
  | .refclkReturn => true
  | .resetNRelease _ => true
  | .powerLoss => true
  | .pciePerstNRelease => true
  | .pcieEndpointReady => true
  | .remoteStoreResponse _ => true
  | .loopbackReleaseByTraffic _ => true
  | .laneIdleExit _ _ _ => true
  | .tickCounterWrap => true

end Sys2Proof
end

