-- ==== Sys2Proof/Tests/Slice0.lean ====
section
/-! SUPPORT. Tests: commands that WellFormed refuses, single steps with results from the spec, and for every statement that has
premises a concrete state and command that meet them all. -/

set_option Elab.async false

namespace Sys2Proof.Tests
open Sys2Proof Sys2Proof.Machine

/-! ## States for the tests -/

/-- The premises of Runs hold for a rule in a state. -/
def meets (r : Rule) (s : State) : Bool := s.alive && r.pre s.fresh

def ran : FnSt := { stopped := false, quiet := false, byReset := false }
/-- Every STOP function runs. -/
def fnsRun : Table FnSt := (List.range 88).map fun k => (k, ran)
/-- A running device. -/
def on : State := { State.reset with fns := fnsRun.filter fun e => decide (fnReset e.1 ≠ e.2), mode := { mode := .service } }

def tag (k : BitVec 6) (src st : Nat) (air : Air) (n : Nat) : Tag :=
  sealTag { kind := k, source := BitVec.ofNat 4 src, stream := BitVec.ofNat 8 st, air := air, length := BitVec.ofNat 16 n }
def far : Air := 0x100000
def pay (n v : Nat) : Bytes := leBytes n v

/-- FFT_CFG of 4,096 points with the normal prefix, on carrier 0 in both directions, and its carrier on tile 1. -/
def grid0 : FftSt := { cfg := some (pay 8 24) }
def car0 : CarSt := { on := true, nrb := 100, rbglog := 2, lmax := 4 }
def onGrid : State := { on with
  ffts := [(0, grid0), (4, grid0)], islCars := [(0, car0), (4, car0)], cars := [(0, car0), (8, car0), (12, car0)] }
/-- The tick of a slot's symbol 0. -/
def slot1 : Air := 3932160
def symTag (k : BitVec 6) (src st : Nat) (n : Nat) : Tag := tag k src st slot1 n
/-- A section record of 4 RBs and one layer in BEAMMODE 1, of section 5: one symbol. -/
def rec1 (d : Nat) : Nat := 5 + 2 ^ 18 + 2 ^ 22 + 2 ^ 28 + 2 ^ 30 * d + 2 ^ 43 * 4 + 2 ^ 58 + 2 ^ 59 * 9

/-- A state whose settings have stood since tick 0. -/
def lived (s : State) : State := { s with chain := { hist := [(0, s.settings)] } }

/-- The premises of TransmitControlItems are met. -/
theorem witness_TransmitControlItems :
    (meets (fftCfgRule (tag kFftCfg 4 128 far 8) (pay 8 (12*2))) on &&
     meets (wolaRule (tag kWola 4 128 far 8) (pay 8 16)) on &&
     meets (carrierOnRule 1 (tag kCarrier 1 32 far 16) (pay 16 (8*2^19 + 2^64*12345))) on &&
     meets (carrierOffRule 1 (tag kCarrier 1 32 far 16) (pay 16 (2+8*2^19))) on &&
     meets (carrierRetuneRule 1 (tag kCarrier 1 32 far 16) (pay 16 (4+8*2^19))) on &&
     meets (gainTxRule 1 (tag kGain 1 32 far 8) (pay 8 (3+2^17+2^32*0x4000))) on &&
     meets (cfrCfgRule 1 (tag kCfrCfg 1 32 far 8) (pay 8 (1+4*8+2^16*300))) on &&
     meets (dpdSwapModelRule 1 (tag kDpdSwap 1 32 far 8) (pay 8 3)) on &&
     meets (dpdSwapCorrRule 1 (tag kDpdSwap 1 32 far 8) (pay 8 (3+2^16))) on &&
     meets (fltSwapTxfirRule 1 (tag kFltSwap 1 32 far 8) (pay 8 0)) on) = true := by decide +kernel

/-- The premises of ReceiveControlItems are met. -/
theorem witness_ReceiveControlItems :
    (meets (fltSwapRxfirRule 1 (tag kFltSwap 1 32 far 8) (pay 8 1)) on &&
     meets (fltSwapRxiqRule 1 (tag kFltSwap 1 32 far 8) (pay 8 (2+2^16))) on &&
     meets (gainRxRule 1 (tag kGain 1 32 far 8) (pay 8 (3+2^16+2^17+2^32*0x4000))) on &&
     meets (dcFreezeRule 1 (tag kDcFreeze 1 32 far 8) (pay 8 (3+2^16))) on &&
     meets (dcReleaseRule 1 (tag kDcFreeze 1 32 far 8) (pay 8 3)) on &&
     meets (sicCtlOnRule 1 (tag kSicCtl 1 32 far 8) (pay 8 3)) on &&
     meets (sicCtlOffRule 1 (tag kSicCtl 1 32 far 8) (pay 8 (3+2^16))) on &&
     meets (sicCtlSwapRule 1 (tag kSicCtl 1 32 far 8) (pay 8 (3+2*2^16))) on &&
     meets (sicCtlSnapRule 1 (tag kSicCtl 1 32 far 8) (pay 8 (1+3*2^16))) on) = true := by decide +kernel

/-- The premises of SystemControlItems are met. -/
theorem witness_SystemControlItems :
    (meets (loPrepRule 1 (tag kLoCtl 1 32 far 16) (pay 16 (5*256))) on &&
     meets (loCalRule 1 (tag kLoCtl 13 248 far 16) (pay 16 (1+64+5*256+2^64*20000000000))) on &&
     meets (loSwitchRule 1 (tag kLoCtl 1 32 far 16) (pay 16 (2+8))) on &&
     meets (pwrCtlActiveRule (tag kPwrCtl 4 128 far 16) (pay 16 (15*16))) on &&
     meets (pwrCtlReedRule (tag kPwrCtl 1 32 far 16) (pay 16 (1+2*16))) on &&
     meets (pwrCtlSedgeRule (tag kPwrCtl 4 128 far 16) (pay 16 2)) on &&
     meets (pwrCtlFenRule (tag kPwrCtl 13 248 far 16) (pay 16 3)) on &&
     meets (markerRule .flt 1 (tag kMarker 1 32 far 4) (pay 4 77)) on) = true := by decide +kernel

/-- The premises of SystemControlItems are met. -/
theorem witness_SystemControlItems_2 :
    (meets (coefTxCorrectorRule 1 (tag kCoef 1 32 far 56) (pay 56 (1+17*16))) on &&
     meets (coefRxCorrectorRule 1 (tag kCoef 1 32 far 56) (pay 56 (2+17*16))) on &&
     meets (coefFirRule 1 (tag kCoef 1 32 far 216) (pay 216 (4 + 2^65))) (on.setReg (rFltcfg 1 0 0) 1) &&
     meets (coefCfrPulseRule 1 (tag kCoef 1 32 far 1048) (pay 1048 5)) on) = true := by decide +kernel

/-- The premises of FrontEndItems are met. -/
theorem witness_FrontEndItems :
    (meets (feRxonRule 1 (tag kFeCtl 1 32 far 16) (pay 16 (3+16))) on &&
     meets (feRxoffRule 1 (tag kFeCtl 1 32 far 16) (pay 16 (3+32))) on &&
     meets (feLoopbackRule 1 (tag kFeCtl 1 32 far 16) (pay 16 (3+2^8))) on &&
     meets (feLbrelRule 1 (tag kFeCtl 1 32 far 16) (pay 16 (3+2^9))) on &&
     meets (feRxcalRule 1 (tag kFeCtl 1 32 far 16) (pay 16 (3+2^10))) on &&
     meets (feTuneRule 1 (tag kFeCtl 1 32 far 16) (pay 16 (3+2^11))) on &&
     meets (rffeGroupRule 1 (tag kFeCtl 1 32 far 16) (pay 16 (3+2^12+2^16+2^17*0+2^26*1))) on) = true := by decide +kernel

/-- The premises of DataItems are met. -/
theorem witness_DataItems :
    (meets (fdDataRule (symTag kFdData 8 192 (8+28*4)) (pay (8+28*4) (5+2^32*4+2^43+2^44*9))) onGrid &&
     meets (tdDataRule (symTag kTdData 8 192 (8+256)) (pay (8+256) 17)) {onGrid with cars := [(8,{car0 with tdmode := true})]}) = true := by decide +kernel

/-- The premises of BeamItems are met. -/
theorem witness_BeamItems :
    (meets (beamSelDeclarationRule (symTag kBeamSel 4 128 24) (pay 24 (2^64*rec1 0))) onGrid &&
     meets (soundingWindowRule (symTag kBeamSel 4 128 24) (pay 24 (1+2^92*4+2^128*3))) onGrid &&
     meets (beamCommitRule (sealTag {symTag kBeamCommit 4 128 8 with bank := 1}) (pay 8 3)) onGrid) = true := by decide +kernel

/-- The premises of IngressItems are met. -/
theorem witness_IngressItems :
    (meets (sectionItemRule (symTag kSection 8 192 16) (pay 16 (rec1 0))) (onGrid.setReg64 rSectroute 1) &&
     meets (ulPartialRule (symTag kUlPartial 9 192 (8+28*4)) (pay (8+28*4) (5+2^32*4+2^43+2^44*9))) ({onGrid with decls := [⟨.rx, 0, slot1, 0, {}, BitVec.ofNat 128 (rec1 1), [], false⟩]}.setReg rBeamUlcfg 1) &&
     meets (lnaStepRule 1 (symTag kGain 1 32 8) (pay 8 (2^16+2^18))) onGrid &&
     meets (syncResetRule 1 (tag kSyncReset 1 32 far 8) (pay 8 (3+4*15))) onGrid) = true := by decide +kernel

def q (p : Port) (t : Nat) (k : BitVec 6) (src st : Nat) (a : Air) (n : Nat) (b : Nat) (late : Bool := false) : QItem :=
  ⟨p, t, ⟨tag k src st a n, pay n b, 0⟩, a, late, 0⟩

def req0 (ev : Bool) : StopReq := ⟨{}, pay 16 (if ev then 2 else 0)⟩

def desc1 : Nat := 0x10000 + 6 * 2^45 + 2^64 * 0x1000 + 2^128 * 1

def onDesc : State := (onGrid.memWrite 0x8000 (pay 32 desc1)).getD onGrid

def capB (c : Nat) (tap : Nat) : Bytes := pay 16 (c + 4 * 3 + 2^6 * tap + 2^64 * 0x8000)

def capX : CapSt := { state := .armed, tap := 3, desc := descOf (pay 32 desc1), tag := tag kCapCtl 1 32 far 16, from_ := far }

def late0 (x : QItem) := {x with late := true}

def pend1 (built : Bool) : BeamCommit := { bank := .B, air := 0, mu := 0, tag := {}, core := none, began := 0, count := 0, all := false, built := built, state := {} }

def onPend (d : Dir) (built : Bool) : State := on.setRegion d .baseband { b := .committing, pend := some (pend1 built) }

/-- The premises of StopAndSquashItems are met. -/
theorem witness_StopAndSquashItems :
    (meets (stopRule .dpd 1 (tag kStop 1 32 far 16) (pay 16 (2^(32+8)))) on &&
     meets (pathtxStopRule .fe 1 (tag kStop 1 32 far 16) (pay 16 (2^(32+17)+2^64*2^17))) on &&
     meets (pathrxStopRule .fe 1 (tag kStop 1 32 far 16) (pay 16 (2^(32+18)+2^64*2^17))) on &&
     meets (stopResumeRule .dpd 1 (tag kStop 1 32 far 16) (pay 16 (1+2^(32+8)))) {on with fns := []} &&
     meets (squashItemRule .dpd 1 (sealTag {tag kSquash 1 32 far 0 with epoch := 5}) []) on) = true := by decide +kernel

/-- The premises of CaptureAndPlayback are met. -/
theorem witness_CaptureAndPlayback :
    (meets (captureStartRule (tag kCapCtl 1 32 far 16) (capB 0 3)) onDesc &&
     meets (playbackStartRule (tag kCapCtl 1 32 far 16) (capB 2 4)) {onDesc with mode := {mode := .test}} &&
     meets (captureStopRule (tag kCapCtl 1 32 far 16) (capB 1 3)) (onDesc.setCap 3 capX) &&
     meets (playbackStopRule (tag kCapCtl 1 32 far 16) (capB 3 4)) (onDesc.setCap 3 {capX with play := true, tap := 4}) &&
     meets (captureRecordRule 3 (tag kRxTd 6 168 far 256) 0 (List.replicate 128 7) true) (onDesc.setCap 3 capX) &&
     meets (captureRecordRule 3 {} 0 [] true) (onDesc.setCap 3 {capX with tap := 0x21, blocks := [⟨tag kRxTd 6 168 far 256, 5, List.replicate 64 (1, 2)⟩]}) &&
     meets (playbackRecordRule 3) ((((onDesc.memWrite 0x10000 (tagBytes (tag kTdData 11 224 far 256) ++ pay 304 0)).getD onDesc)).setCap 3 {capX with play := true, tap := 4})) = true := by decide +kernel

/-- The premises of ItemsTakeEffect are met. -/
theorem witness_ItemsTakeEffect :
    (meets (itemApplyRule .wola 0) {on with queue := [q .wola 0 kWola 4 128 0 8 16]} &&
     meets (lateItemApplyRule .flt 1) {on with queue := [q .flt 1 kCarrier 1 32 0 16 (2+8*2^19) true]}) = true := by decide +kernel

/-- The premises of StopProgress are met. -/
theorem witness_StopProgress :
    (meets (stopTimeReachedRule 8 1) (on.setFn 8 1 { ran with stops := [req0 false] }) &&
     meets (stopTimeReachedRule 17 1) { on.setFn 17 1 { ran with stops := [req0 false] } with pathStops := [⟨false, 2^17, {}⟩]} &&
     meets (stopTimeReachedRule 19 0) (on.setFn 19 0 { ran with stops := [req0 false] }) &&
     meets (quiescenceRule 8 1) (on.setFn 8 1 { ran with stops := [req0 true], stopped := true }) &&
     meets (pathPowerDownRule 17) {on with rxOut := 2^17} &&
     meets (pathPowerDownTxRule 17) {on with txOut := 2^17} &&
     meets (syncResetT0Rule 1) {onGrid with rx := {syncs := [⟨1, 0, [.tx, .rx], 15, {}⟩]}} &&
     meets (cancellerOffTailEndRule 17) (on.setSicOff 17 (some 0)) &&
     meets (fadeEndRule (.model 17)) {on.setSel (selKey (.model 17)) { fade := some ⟨0, .A, 0, 3⟩ } with now := 1000000} &&
     meets (recordLineFailureRule (.dpd 17 0 .A)) on) = true := by decide +kernel

/-- The premises of StopProgress are met. -/
theorem witness_StopProgress_2 :
    (meets (recordLineFailureRule (.cfr 1 .A)) on &&
     meets (recordRebuildRule (.corr 17 .A)) (on.setRec (.corr 17 .A) { rebuilding := true })) = true := by decide +kernel

/-- The premises of BeamTables are met. -/
theorem witness_BeamTables :
    (meets (beamTableWriteRule .mgmt (BitVec.ofNat 40 (beamBase .tx .B)) (pay 272 99)) on &&
     meets (beamEcqWriteRule (.vc 3) (BitVec.ofNat 64 (1048576 + 2^40 + 2^42))) on &&
     meets engineCommitRule { on with beam := { ecq := [⟨3, ⟨sealTag {tag kEngineCommit 5 160 far 8 with bank := 1}, pay 8 1, 0⟩⟩] } } &&
     meets (buildCompleteRule .rx) (onPend .rx false) &&
     meets (buildOverrunRule .rx) (onPend .rx false) &&
     meets (bankLiveRule .rx .baseband) (onPend .rx true) &&
     meets (bankLiveRule .tx .baseband) {onPend .tx true with now := 1000000} &&
     meets (bankReleaseRule .rx .baseband) (on.setRegion .rx .baseband { a := .held, b := .live }) &&
     meets (entryLineFailureRule .tx .A 7) on &&
     meets (entryRefetchCompleteRule .tx .A 7) {on with beam := {failing := [dirtyKey .tx .A 7]}}) = true := by decide +kernel

/-- The premises of BeamTables are met. -/
theorem witness_BeamTables_2 :
    (meets (beamAlignWriteRule .tx 5 0x40000001) on &&
     meets (missingDataDeadlineRule 0 slot1) {onGrid with now := 3800000, decls := [⟨.tx, 0, slot1, 0, {}, BitVec.ofNat 128 (rec1 0), [], false⟩]}) = true := by decide +kernel

def slotN (n : Nat) : State := { onGrid with now := BitVec.ofNat 56 n }

def ublk : UlBlock := ⟨slot1, 0, 0, 0, 5, 0, 0, 4, true, 9, false, ⟨false, false, false⟩, List.replicate 96 1⟩

def onDecl : State := {onGrid with decls := [⟨.rx, 0, slot1, 0, {}, BitVec.ofNat 128 (rec1 1), [], false⟩]}

def win1 : SrsWin := ⟨0, 0, tag kBeamSel 4 128 0 24, pay 24 (1+2^92*4+2^128*3)⟩

def obsOn : State := ({on with now := 5000}.setReg (rObsSched 2 0) (BitVec.ofNat 32 (2^13 + 2^16*100))).setReg (rObsCtrl 2) (BitVec.ofNat 32 8)

def calr : CalResult := ⟨true, 1, 1, 3, 4, 5, 6, 7, 8, false⟩

/-- The premises of ReceiveResults are met. -/
theorem witness_ReceiveResults :
    (meets (ulBlockReadyRule ⟨slot1, 0, 5, 0, 0, 4, false⟩) (lived {onDecl with now := 8000000}) &&
     meets (holdExpiryRule 0) {onDecl with rx := {own := [⟨ublk, 0⟩]}, now := 2000000} &&
     meets (soundingBlocksRule 0 0 false) (lived {onGrid with now := 8000000, rx := {wins := [win1]}}) &&
     meets (dcServoStepRule 17 .I) (({on with now := 0x10000000, fe := {rxEn := 0xFFFF, rxOnAt := []}}.setReg (rRxdc 1) 64).setDc 17 0 {({} : DcSt) with estI := 0x300000}) &&
     meets (obsEntryStartRule 2) obsOn &&
     meets (obsSnapshotStartRule 2) (obsOn.setObs 2 {entry := some (0,0)}) &&
     meets (obsSnapshotCompleteRule 2 false []) (lived ((obsOn.setObs 2 {entry := some (0,0), snap := some 1024}).setSyn 2 {ready := true, state := .locked})) &&
     meets (obsPowerResultRule 2 false (List.replicate 1024 3)) ((lived ((obsOn.setObs 2 {entry := some (0,0), snap := some 1024}).setSyn 2 {ready := true, state := .locked})).setReg (rObsSched 2 0) (BitVec.ofNat 32 (2^13 + 2^6 + 2^16*100))) &&
     meets (sicSnapshotCompleteRule 1) (({on with now := 100000}.setSnaps 1 [⟨17, 0, 0, 8⟩]).setReg (rSiccfg 1) 0xA000)) = true := by decide +kernel

/-- The premises of Synthesisers are met. -/
theorem witness_Synthesisers :
    (meets (prepCompleteRule 2) (on.setSyn 2 {state := .tuning, work := some {cal := false, entry := 3}}) &&
     meets (calCompleteRule 2 calr) (on.setSyn 2 {state := .calibrating, work := some {cal := true, entry := 3, flo := 20000000000}}) &&
     meets (calYieldRule 2) (on.setSyn 2 {state := .calibrating, mustYield := true, before := some 3}) &&
     meets (switchSpanStartRule 1) {on with queue := [⟨.lo, 1, ⟨tag kLoCtl 1 32 100 16, pay 16 (2+16), 0⟩, 100, false, 0⟩]} &&
     meets (txReadinessTestRule 1 0 0) onGrid &&
     meets (lockLossRule 3) (on.setSyn 3 {ready := true, state := .locked}) &&
     meets (relockFailureRule 3) (on.setSyn 3 {relock := true, state := .tuning}) &&
     meets refclkLossRule on &&
     meets refclkReturnRule {on with mode := {mode := .timeout, causes := 1}} &&
     meets (syncalCommitRule .host 2 5 0) on) = true := by decide +kernel

def live1 : State := {onGrid with tdSpans := [⟨17, 0, slot1, 4096, [], {}⟩], cars := [(8, {car0 with tdmode := true}), (12, car0)], now := 3930000}

/-- The premises of FrontEndEnables are met. -/
theorem witness_FrontEndEnables :
    (meets (feTxenOffRule 4) {on with fe := {txEn := 16, rxWant := 16}} &&
     meets (feRxenSwitchRule 4 0) {on with fe := {rxSched := [⟨4, true, false, false, 0, {}⟩]}} &&
     meets (feRxenSwitchRule 4 0) {on with fe := {rxEn := 16, rxSched := [⟨4, false, false, false, 0, {}⟩]}} &&
     meets (rffeGroupStartRule 3) {on with fe := {groups := [(3, [⟨0, 100, [1,2], {}, false, false, 0⟩])]}} &&
     meets (feRffecmdRule .host 1 4) on &&
     meets (rffecmdRunRule 1 7 true) {on with fe := {cmds := [(1, [4])]}} &&
     meets (loopbackReleaseByTrafficRule 4) {live1 with now := 3931900, fe := {loop := 16}} &&
     meets (coxRequestRiseRule 2 false) (live1.setReg (rCoxCfg 2) (BitVec.ofNat 32 (16 + 2^16 + 2^19 + 2^20*4000))) &&
     meets (coxGrantWithdrawnRule 2) ({{live1 with now := slot1.setWidth 56} with fe := {coxReq := 4, txEn := 16, rxEn := 32}}.setReg (rCoxCfg 2) (BitVec.ofNat 32 (48 + 2^16 + 2^19 + 2^20*4000)))) = true := by decide +kernel

/-- The premises of Protection are met. -/
theorem witness_Protection :
    (meets (feMuteReleaseRule .host 1 0xFF0000) {on with fe := {mute := 0xF30000}} &&
     meets (mutedPathResumeRule 17) {onGrid with now := 4000000, fe := {silent := 2^17}} &&
     meets (limiterGainRiseRule 5) ({on with now := 10000}.setLim 5 ⟨0x4000, 0x8000, 0⟩) &&
     meets dutyWindowStartRule {on with now := 0x1000000000000} &&
     meets rfSafeNFallRule {on with fe := {txEn := 5}} &&
     meets rfSafeNRiseRule {on with fe := {rfSafe := false}} &&
     meets (rfSafeResumeRule 4) {onGrid with now := 4000000, fe := {safeHold := 16, safeRise := some 0}} &&
     meets thermAlertNRule on) = true := by decide +kernel

def sq (k : Nat) (q : SeqSt) : State := on.setSeq k { q with state := .running, run := true }

def g2 (a b : BitVec 64) : SeqSt := { g := [(1, a), (2, b)], pc := 0x100 }

def sqn : State := sq 1 (g2 0xFFFFFFFFFFFFFFFF 3)

def ldq : State := (sq 1 { g := [(1, BitVec.ofNat 64 (seqData 1 + 64)), (2, 0xABCDEF0123456789)] })

def sec1 : Section := ⟨BitVec.ofNat 128 (rec1 0), 77, 0x100A000000, 24, false⟩

def emq : State := (sq 1 { g := [(1, BitVec.ofNat 64 (seqData 1 + 64)), (2, BitVec.ofNat 64 (32 * 2^48 + 0x10000))], opened := true}).setBytes (seqData 1 + 64) (pay 8 (2^40 * 16) ++ pay 16 3)

def emq4 : State := {onGrid.setSeq 4 { g := [(2, BitVec.ofNat 64 (128 * 2^48 + slot1.toNat)), (4, BitVec.ofNat 64 (rec1 0)), (5, BitVec.ofNat 64 (rec1 0 / 2^64)), (7, 0x100A000000)], state := .running, run := true, leadMax := 0xFFFFFF} with lists := [⟨4, 0x100A000000, 24, slot1⟩]}

def sqs : State := sq 1 {opened := true, savedG := [(3, 7)], g := [(2, 5), (25, 9)], spec := [⟨1, [4, 7], 100⟩], resume := 64, sqcnt := 2}

def hq : State := ((on.memWrite 0x8000 (tagBytes (tag 32 12 240 far 0))).getD on)

/-- The premises of SequencerAlu are met. -/
theorem witness_SequencerAlu :
    (meets (seqAddRule 1 3 1 2) sqn &&
     meets (seqSubRule 1 3 1 2) sqn &&
     meets (seqAndRule 1 3 1 2) sqn &&
     meets (seqOrRule 1 3 1 2) sqn &&
     meets (seqXorRule 1 3 1 2) sqn &&
     meets (seqSllRule 1 3 1 2) sqn &&
     meets (seqSrlRule 1 3 1 2) sqn &&
     meets (seqSraRule 1 3 1 2) sqn &&
     meets (seqMulRule 1 3 1 2) sqn &&
     meets (seqSltRule 1 3 1 2) sqn) = true := by decide +kernel

/-- The premises of SequencerAlu are met. -/
theorem witness_SequencerAlu_2 :
    (meets (seqSltuRule 1 3 1 2) sqn &&
     meets (seqMinRule 1 3 1 2) sqn &&
     meets (seqMaxRule 1 3 1 2) sqn &&
     meets (seqLead40Rule 1 3 1 2) sqn &&
     meets (seqAdd40Rule 1 3 1 2) sqn &&
     meets (seqDivuRule 1 3 1 2) sqn &&
     meets (seqDivuRule 1 3 1 0) sqn) = true := by decide +kernel

/-- The premises of SequencerImmediates are met. -/
theorem witness_SequencerImmediates :
    (meets (seqAddiRule 1 3 1 0xFFFE) sqn &&
     meets (seqAndiRule 1 3 1 0xFFFE) sqn &&
     meets (seqOriRule 1 3 1 0xFFFE) sqn &&
     meets (seqXoriRule 1 3 1 0xFFFE) sqn &&
     meets (seqShiRule 1 3 1 0x85) sqn &&
     meets (seqShiRule 1 3 1 0x45) sqn &&
     meets (seqSetwRule 1 3 0 0xFFFE) sqn &&
     meets (seqShorRule 1 3 1 0xFFFE) sqn &&
     meets (seqExtRule 1 3 1 0x1C4) sqn &&
     meets (seqInsRule 1 1 2 0x1C4) sqn) = true := by decide +kernel

/-- The premises of SequencerMemory are met. -/
theorem witness_SequencerMemory :
    (meets (seqLdRule 1 3 1 8) (ldq.setBytes (seqData 1 + 72) [1,2,3,4,5,6,7,8]) &&
     meets (seqLwRule 1 3 1 8) (ldq.setBytes (seqData 1 + 72) [1,2,3,4,5,6,7,8]) &&
     meets (seqLhRule 1 3 1 8) (ldq.setBytes (seqData 1 + 72) [1,2,3,4,5,6,7,8]) &&
     meets (seqLbRule 1 3 1 8) (ldq.setBytes (seqData 1 + 72) [1,2,3,4,5,6,7,8]) &&
     meets (seqSdRule 1 2 1 8) ldq &&
     meets (seqSwRule 1 2 1 8) ldq &&
     meets (seqShRule 1 2 1 8) ldq &&
     meets (seqSbRule 1 2 1 8) ldq) = true := by decide +kernel

/-- The premises of SequencerBranches are met. -/
theorem witness_SequencerBranches :
    (meets (seqBrRule 1 0 5) sqn &&
     meets (seqBrRule 1 1 5) sqn &&
     meets (seqBlRule 1 0 0x1FFFFF) sqn &&
     meets (seqJumprRule 1 1 2 0 0) (sq 1 (g2 9 64)) &&
     meets (seqJumprRule 1 2 2 0 0) (sq 1 (g2 9 64)) &&
     meets (seqRbzRule 1 0 1 5) sqn &&
     meets (seqRbnzRule 1 0 1 5) sqn) = true := by decide +kernel

/-- The premises of SequencerSystem are met. -/
theorem witness_SequencerSystem :
    (meets (seqAtRule 1 0 2 0 0) sqn &&
     meets (seqAtRule 1 0 2 0 0) (sq 1 (g2 0 0x100000000)) &&
     meets (seqWaittRule 1 0 2 0 0) sqn &&
     meets (seqMfsRule 1 3 0 2) sqn &&
     meets (seqMfsRule 1 3 0 0x20) sqn &&
     meets (seqMtsRule 1 0 1 3) sqn &&
     meets (seqMtsRule 1 0 1 0x25) sqn &&
     meets (seqRecvRule 1 4 0 0 0) (sq 1 {queue := [sec1]}) &&
     meets (seqRecvNbRule 1 4 0 0 0) (sq 1 {queue := [sec1]}) &&
     meets (seqRecvNbRule 1 4 0 0 1) sqn) = true := by decide +kernel

/-- The premises of SequencerSystem are met. -/
theorem witness_SequencerSystem_2 :
    (meets (seqEvRaiseRule 1 0 0 0 1) sqn &&
     meets (seqEvWaitRule 1 0 2 0 0) sqn &&
     meets (seqEvWaitRule 1 0 3 0 0) sqn &&
     meets (seqEvWaitTimeoutRule 1) (on.setSeq 1 {state := .waiting, stall := .event 0 []}) &&
     meets (seqStallEndRule 1) (on.setSeq 1 {state := .stalled, stall := .time 0 5}) &&
     meets (seqStallEndRule 1) (on.setSeq 1 {state := .stalled, stall := .recv 4, queue := [sec1]}) &&
     meets (seqStallEndRule 1) (on.setSeq 1 {state := .stalled, stall := .emit [⟨1, .fe, 1, ⟨tag kFeCtl 1 32 far 16, pay 16 3, 0⟩, 0⟩]}) &&
     meets (seqCkptRule 1 0 2 5) sqn &&
     meets (seqSpecoffRule 1 0 0 0 0) (sq 1 {opened := true}) &&
     meets (seqHaltRule 1 0 0 0 0) (sq 1 {opened := true})) = true := by decide +kernel

/-- The premises of SequencerIssue are met. -/
theorem witness_SequencerIssue :
    (meets (seqEmitRule 1 1 2 7 (BitVec.ofNat 8 kFeCtl.toNat)) emq &&
     meets (seqEmitTryRule 1 1 2 7 (BitVec.ofNat 8 kFeCtl.toNat)) emq &&
     meets (seqPrepRule 1 0 2 3 3) emq &&
     meets (seqHopRule 1 0 2 0 3) emq &&
     meets (seqPwrRule 1 0 2 3 9) emq &&
     meets (seqCommitRule 4 0 2 0 5) emq4 &&
     meets (seqBeamselRule 4 4 2 0 0) emq4 &&
     meets (seqSquashRule 1 0 2 0 0) sqs &&
     meets (seqSquashStallEndRule 1) (sqs.setSeq 1 {sqs.seqOf 1 with state := .stalled, stall := .squash 50 true}) &&
     meets (refusalFaultRule 1) (sq 1 {refused := [64]})) = true := by decide +kernel

/-- The premises of SequencerControl are met. -/
theorem witness_SequencerControl :
    (meets (seqRunRule 1) ((on.setSeq 1 {state := .stopped}).setReg (rSeqEntry 1) 0x80) &&
     meets (seqStopRule 1) sqn &&
     meets (seqRestartRule 1) sqn &&
     meets (hiqPushRule .host (BitVec.ofNat 64 (2^40 * 7))) on &&
     meets (miqPushRule .mgmt (BitVec.ofNat 64 (2^40 * 7))) on &&
     meets (issueQueueIssueRule .hiq) {hq with hiq := {pushes := [BitVec.ofNat 64 (0x8000 + 2^40 * 4 + 2^44)]}} &&
     meets (issueQueueIssueRule .miq) {((on.memWrite 0x8000 (tagBytes (tag kStop 13 248 far 16) ++ pay 16 (2^(32+8)))).getD on) with miq := {pushes := [BitVec.ofNat 64 (0x8000 + 2^40 * 4 + 2^44)]}} &&
     meets (lockstepMismatchRule true) on &&
     meets (lockstepMismatchRule false) on) = true := by decide +kernel

def vc (n : Nat) (x : VcSt) : State := on.setVc n { x with state := .running, run := true }

def ramp (n m : Nat) : BitVec 512 := BitVec.ofNat 512 (((List.range 32).map fun i => (i * n + m) % 65536 * 2 ^ (16 * i)).sum)

def vx : VcSt := {
  v := [(1, ramp 2111 5), (2, ramp 40000 7)]
  s := [(1, 0xFFFFFFFFFFFFFFFD), (2, 3)]
  a := [(1, BitVec.ofNat 40 (vcData 3 + 64))]
  o := [(1, 64), (2, 0xFFFFFFF0)]
  pc := 0x104
  ovf := 9
  acc := [(0, 0x7FFFFFFFFFFF), (3, 5), (32, 0x800000000000), (33, 77)] }

def vs : State := vc 3 vx

def vs0 : State := vc 3 {vx with pc := 0x100}

def vsd : State := vc 3 {vx with pc := 0x100, staged := some {write := .vec 5 77, sat := true}}

def vso : State := (vc 3 {vx with pc := 0x100, staged := some {write := .acc 0 (List.replicate 32 4) 3, ovf := true}}).setReg (rVcCfg 3) 5

/-- The premises of VectorSlot are met. -/
theorem witness_VectorSlot :
    (meets (vNopRule 3 false 0 0 0 0) vs &&
     meets (vNopRule 3 true 0 0 0 0) vs0 &&
     meets (vCmacRule 3 false 1 1 2 0x13) vs &&
     meets (vCmacRule 3 false 0 1 2 0x63) (vs.setReg (rVcCfg 3) 4) &&
     meets (vCmacRule 3 true 1 1 2 0x80) vs0 &&
     meets (vAddRule 3 false 5 1 2 0) vs &&
     meets (vAddRule 3 false 5 1 2 3) vs &&
     meets (vConjRule 3 false 5 2 1) vs &&
     meets (vNormRule 3 false 5 2 1 1) vs &&
     meets (vExpRule 3 false 5 1 2) vs) = true := by decide +kernel

/-- The premises of VectorSlot are met. -/
theorem witness_VectorSlot_2 :
    (meets (vExpRule 3 false 5 2 0) vs &&
     meets (vRndRule 3 false 5 1 2 0x1C0) vs &&
     meets (vRndRule 3 false 5 1 2 5) vs &&
     meets (vRsqRule 3 false 5 0 0) vs &&
     meets (vSplatRule 3 false 5 1 0x13) vs &&
     meets (vHaddRule 3 false 1 0 0) vs &&
     meets (vAclrRule 3 false 1 0) vs &&
     meets (vMovsRule 3 false 5 1 5) vs &&
     meets (vInsRule 3 false 5 1 0x14) vs &&
     meets (vAovfRule 3 false 5 0 0) vs) = true := by decide +kernel

/-- The premises of ScalarAlu are met. -/
theorem witness_ScalarAlu :
    (meets (sAddRule 3 5 1 2) vs &&
     meets (sAddRule 3 5 1 2) vso &&
     meets (sSubRule 3 5 1 2) vsd &&
     meets (sAndRule 3 5 1 2) vs &&
     meets (sOrRule 3 5 1 2) vs &&
     meets (sXorRule 3 5 1 2) vs &&
     meets (sSllRule 3 5 1 2) vs &&
     meets (sSrlRule 3 5 1 2) vs &&
     meets (sSraRule 3 5 1 2) vs &&
     meets (sMulRule 3 5 1 2) vs) = true := by decide +kernel

/-- The premises of ScalarAlu are met. -/
theorem witness_ScalarAlu_2 :
    (meets (sSltRule 3 5 1 2) vs &&
     meets (sSltuRule 3 5 1 2) vs &&
     meets (sMinRule 3 5 1 2) vs &&
     meets (sMaxRule 3 5 1 2) vs &&
     meets (sAddiRule 3 5 1 0x1FFFF) vs) = true := by decide +kernel

/-- The premises of ScalarMoves are met. -/
theorem witness_ScalarMoves :
    (meets (sNopRule 3 0 0 0 0) vsd &&
     meets (sLiRule 3 5 0 0x1FFFF) vs &&
     meets (sLihRule 3 1 0 0xFFFF) vs &&
     meets (sMovRule 3 5 1 0 4) vs &&
     meets (sMovRule 3 5 2 0 8) vs &&
     meets (sMovRule 3 5 2 0 1) vs &&
     meets (sAaddiRule 3 1 1 0x1FFFF) vs &&
     meets (sMfsrRule 3 5 1) vs &&
     meets (sMfsrRule 3 5 3) (vc 3 {vx with loops := [⟨0x100, 0x200, 7⟩]})) = true := by decide +kernel

/-- The premises of VectorCoreMemory are met. -/
theorem witness_VectorCoreMemory :
    (meets (sVldRule 3 5 1 1 1) (vs.setBytes (vcData 3 + 128) [1, 2, 3]) &&
     meets (sVldRule 3 5 0 1 1) vs &&
     meets (sLdRule 3 11 1 1 0x401) (vs.setBytes (vcData 3 + 66) [1, 0x82, 3]) &&
     meets (sVstRule 3 1 1 1 1) vs &&
     meets (sVstRule 3 1 0 1 1) vs &&
     meets (sStRule 3 2 1 1 0x401) vs &&
     meets (sStRule 3 2 0 1 0x401) vs &&
     meets (remoteLoadResponseRule 3) ((on.setVc 3 {vx with run := true, state := .stalled, stall := .load (.vec 5) 0x8000 64 1 1}).setBytes 0x8000 [1,2]) &&
     meets (remoteStoreResponseRule 3) (vc 3 {vx with stores := [⟨0x8000, [1,2,3,4], false, 0x100⟩]})) = true := by decide +kernel

/-- The premises of VectorCoreControl are met. -/
theorem witness_VectorCoreControl :
    (meets (sBRule 3 0 5) vs &&
     meets (sBRule 3 1 5) vs &&
     meets (sBRule 3 0 0xFFFFE) vso &&
     meets (sBlRule 3 0 5) vsd &&
     meets (sJrRule 3 0 2 0 0) (vc 3 {vx with s := [(2, 0x40)], loops := [⟨0x100, 0x200, 7⟩]}) &&
     meets (sLoopRule 3 true 0 2 4) vs &&
     meets (sLoopRule 3 true 0 3 4) vs &&
     meets (sSevRule 3 0 0 0 0) vs &&
     meets (sSleepRule 3 2) vs &&
     meets (sleepEndRule 3) (on.setVc 3 {state := .sleeping})) = true := by decide +kernel

/-- The premises of VectorCoreControl are met. -/
theorem witness_VectorCoreControl_2 :
    (meets (sFenceRule 3 0 0 0 0) vs &&
     meets (sFenceRule 3 0 0 0 0) (vc 3 {vx with stores := [⟨0x8000, [1,2,3,4], false, 0x100⟩]}) &&
     meets (sHaltRule 3) vso &&
     meets (vcRunRule 3) on &&
     meets (vcStopRule 3) vs &&
     meets (vcRestartRule 3) vs) = true := by decide +kernel

def gOn (g : Nat) (role : Nat) : State := {on.setReg (rLaneGcfg g) (BitVec.ofNat 32 (role + 4 * 1 + 16)) with pllLock := 15, clock := 1000000}

/-- `n` lane-layer blocks of a type for a lane, as a line with an all-zero scrambler carries them. -/

def blocksOf (ty l n : Nat) : LineRun :=
  ⟨0, ((List.range n).foldl (fun (a : BitVec 58 × List (SyncHeader × BitVec 64)) _ =>
    let (st, w) := scramble a.1 (laneWord ty l); (st, a.2 ++ [(0b10, w)])) (0, [])).2⟩

def ln (x : LaneSt) : State := (gOn 1 1).setLane 9 x

def locked8 : State := (groupLanes 1).foldl (fun s l => s.setLane l {blocklock := true, sigdet := true}) (gOn 1 1)

def al7 (n : Nat) : State := locked8.setPort 0 {state := .aligning, aligned := [8,9,10,11,12,13,14], periods := n}

def pin (x : PortLink) : State := locked8.setPort 0 x

def allCred (s : State) : State := (List.range 4).foldl (fun s v => s.setVl 0 v {credit := true, grant := 100, own := 7}) s

def fr0 : TxFrame := ⟨linkHdr 4 0 1 0 0 0 16, List.replicate 16 1, 0⟩

def upV (v : Nat) (x : VcLink) : State := (pin {state := .up}).setVl 0 v x

def eth : State := gOn 1 3

def mkFrame (ty vc dest seq : Nat) (b : Bytes) : Frame :=
  let h := setFld (linkHdr ty vc 0 0 dest 0 b.length) 40 16 seq
  ⟨h, b, crc32 (leBytes 8 h.toNat ++ b)⟩

def upS : State := {(pin {state := .up}).setReg rLanePortcfg 0x11801010 with now := slot1.setWidth 56 - 1000000}

def fbytes (f : Frame) : Bytes := leBytes 8 f.hdr.toNat ++ f.body ++ leBytes 4 f.crc.toNat

/-- Group 1 in a near-end loop. -/

def looped (x : LaneSt) : State := (ln x).setReg (rLaneGcfg 1) (BitVec.ofNat 32 (1 + 4 + 16 + 32))

/-- The premises of LaneGroups are met. -/
theorem witness_LaneGroups :
    (meets (laneGroupEnableRule 1 5) (on.setReg (rLaneGcfg 1) 5) &&
     meets (laneGroupDisableRule 1 5) (ln {tx := .data, sigdet := true}) &&
     meets (laneIdleRequestRule 9 0xC4000) (ln {tx := .data, sigdet := true}) &&
     meets (laneIdleExitRule 9 0xC4000) ((ln {tx := .idle, fastOk := true}).setReg (rLaneCtrl 9) 0xC4004) &&
     meets (pllLockRule 1) {gOn 1 1 with pllLock := 0} &&
     meets (idleEntryRule 9 (blocksOf 0xD4 9 1)) (ln {sigdet := true, blocklock := true}) &&
     meets (trainRule 9 (blocksOf 0xD2 10 1)) (ln {sigdet := true, blocklock := true}) &&
     meets (retrainRule 9 (blocksOf 0xD6 9 1)) (ln {sigdet := true, blocklock := true}) &&
     meets (signalDetectRule 9) (ln {expidle := true, needFull := false}) &&
     meets (signalDetectRule 9) (ln {})) = true := by decide +kernel

/-- The premises of LaneGroups are met. -/
theorem witness_LaneGroups_2 :
    (meets (fastExitLockRule 9 (blocksOf 0xD2 9 4)) (ln {fastRx := some 0, sigdet := true}) &&
     meets (fastExitFailRule 9) (ln {fastRx := some 0, sigdet := true}) &&
     meets (trainingEndRule 9) (ln {tx := .burst 0}) &&
     meets (blockLockRule 9 (List.replicate 64 2)) (ln {sigdet := true, acq := true}) &&
     meets (acquisitionRetryRule 9) (ln {sigdet := true, acq := true}) &&
     meets (lossOfSignalRule 9) ((ln {sigdet := true}).setPort 0 {state := .up}) &&
     meets (lossOfSignalRule 9) (ln {sigdet := true, expidle := true}) &&
     meets (lossOfLockRule 9 true []) ((ln {cdrlock := true}).setPort 0 {state := .up}) &&
     meets (idleEntryRule 9 ⟨0, [(2, 0)]⟩) (looped {tx := .data, sigdet := true, blocklock := true, looped := [laneWord 0xD4 9]}) &&
     meets (fastExitLockRule 9 ⟨0, List.replicate 4 (2, 0)⟩) (looped {tx := .training 0, fastRx := some 0, sigdet := true})) = true := by decide +kernel

/-- The premises of LaneGroups are met. -/
theorem witness_LaneGroups_3 :
    (meets (laneIdleRequestRule 9 0xC4000) (ln {tx := .training 0, retrain := true}) &&
     meets (laneIdleRequestRule 9 0xC4000) eth &&
     meets (signalDetectRule 9) (ln {acq := false, owesTx := true, tx := .data}) &&
     meets (lossOfLockRule 9 false (List.replicate 16 3)) ((ln {cdrlock := true, blocklock := true}).setPort 0 {state := .up})) = true := by decide +kernel

/-- The premises of LinkPorts are met. -/
theorem witness_LinkPorts :
    (meets (portAligningRule 0) locked8 &&
     meets (alignWordRule 0 (mkWord 0x4B 7) ⟨15, 3⟩) (al7 0) &&
     meets (alignWordRule 0 (mkWord 0x4B 7) ⟨15, 3⟩) (al7 1) &&
     meets (alignSendRule 0) (al7 1) &&
     meets (lresetWordRule 0 false (mkWord 0x78 3)) (pin {state := .init}) &&
     meets (portUpRule 0) (allCred (pin {state := .init, lresetRx := true, lresetTx := 8})) &&
     meets (creditWordRule 0 false (creditWordOf 1 77)) (pin {state := .up}) &&
     meets (creditRefreshRule 0) (pin {state := .up}) &&
     meets (ackWordRule 0 false (ackWordOf 0 false 4)) (upV 0 {txSeq := 6, unacked := [fr0, fr0]}) &&
     meets (nakWordRule 0 false (ackWordOf 0 true 5)) (upV 0 {txSeq := 6, unacked := [fr0, fr0]})) = true := by decide +kernel

/-- The premises of LinkPorts are met. -/
theorem witness_LinkPorts_2 :
    (meets (ackTimeoutRule 0 0) (upV 0 {txSeq := 6, unacked := [fr0, fr0]}) &&
     meets (ackTimeoutRule 0 0) (upV 0 {txSeq := 6, unacked := [fr0, fr0], goback := 15}) &&
     meets (creditTimeoutRule 0 0) (upV 0 {queue := [fr0]}) &&
     meets (vc2WaitExpiryRule 0) (upV 2 {queue := [fr0]}) &&
     meets (frameSendRule 0) (upV 1 {queue := [fr0], grant := 100}) &&
     meets (frameSendRule 0) (pin {state := .init, words := [mkWord 0x78 0, 5]}) &&
     meets (pcsLinkChangeRule 10 true) eth &&
     meets (pcsLinkChangeRule 10 false) (eth.setPort 10 {state := .up, pcs := true}) &&
     meets (creditWordRule 0 false (creditWordOf 1 77)) ((looped {}).setPort 0 {state := .up, looped := [.word 0 (creditWordOf 1 77)]})) = true := by decide +kernel

/-- The premises of ReceivedFrames are met. -/
theorem witness_ReceivedFrames :
    (meets (taggedFrameRule 0 (mkFrame 1 1 0 0 (tagBytes (symTag kSection 8 192 16) ++ pay 16 (rec1 0)))) upS &&
     meets (mgmtReadRule 0 (mkFrame 2 0 0 0 (pay 16 (4 * 2^16 + 2^32 * 0x3000000000)))) upS &&
     meets (mgmtWriteRule 0 (mkFrame 2 0 0 0 (pay 16 (1 + 4 * 2^16 + 2^32 * 0x8000) ++ [1,2,3,4]))) upS &&
     meets (mgmtUpdateRule 0 (mkFrame 2 0 0 0 (pay 16 (2 + 4 * 2^16) ++ pay 20 0))) upS &&
     meets (mgmtRspRule 0 (mkFrame 3 0 0 0 (pay 16 0))) upS &&
     meets (eventFrameRule 0 (mkFrame 4 0 0 0 (pay 16 0))) upS &&
     meets (bulkRule 0 (mkFrame 5 3 0 0 (pay 16 0))) upS &&
     meets (linkctlRule 10 (mkFrame 0xF 0 0 0 (pay 8 (creditWordOf 1 7).toNat))) (eth.setPort 10 {state := .up, pcs := true}) &&
     meets (tsyncAnnounceRule 0 (mkFrame 6 2 0 0 (pay 16 (1 + 2^64 * 777)))) upS &&
     meets (ethernetFrameRule 10 ⟨true, 0, 0, none, 0x88B5, fbytes (mkFrame 4 0 0 0 (pay 16 0)) ++ List.replicate 18 0⟩) (eth.setPort 10 {state := .up, pcs := true})) = true := by decide +kernel

/-- The premises of ReceivedFrames are met. -/
theorem witness_ReceivedFrames_2 :
    (meets (ptpMessageRule 10 false 0x011B19000000 (pay 44 0)) (eth.setPort 10 {state := .up, pcs := true}) &&
     meets (ptpMessageRule 0 true 0x011B19000000 (pay 44 0)) upS) = true := by decide +kernel

def qs : State := {on with fns := []}

def ptw (p : Nat) (l : Option (BitVec 56)) : PtpWait := ⟨p, true, false, l, 9, pay 44 0x1000, none⟩

def src1 : State := {qs.setReg rTimeCfg 0x00641809 with clock := 300000000}

def dsc : Bytes := pay 32 (0 + 2^6 + 2^16*9 + 2^32*44 + 2^64*0x9000)

def onDsc : State := ((on.memWrite 0x1000000000 dsc).bind fun s => s.memWrite 0x9000 (pay 44 0x1234)).getD on

/-- The premises of TimeRegisters are met. -/
theorem witness_TimeRegisters :
    (meets (timeStepWriteRule .mgmt 100) {qs with time := {waits := [ptw 0 (some 5), ptw 0 none]}} &&
     meets (timeRearmRule 1) {on with time := {servo := .locked}} &&
     meets (timeSrcChangeRule 0x00641809) {on with time := {servo := .locked}} &&
     meets (timeRateWriteRule .mgmt 0x7F00000000) on &&
     meets steeringWordPeriodicRule {on.setReg rTimeCfg 4 with clock := 4000000000} &&
     meets slowclkTickRule {on with power := {dev := {state := .bog}}} &&
     meets tickCounterWrapRule {on with now := 0xFFFFFFFFFFFFFF}) = true := by decide +kernel

/-- The premises of TimeServo are met. -/
theorem witness_TimeServo :
    (meets (servoSampleRule 5 0 false 77) src1 &&
     meets (servoSampleRule 5 0 false 77) {src1 with time := {samples := List.replicate 20 7}} &&
     meets (servoSampleRule 5 0 false 77) {src1 with time := {servo := .locked}} &&
     meets (servoSampleRule 9000000 0 false 77) {src1 with time := {servo := .locked}} &&
     meets (servoSampleRule 5 0 false 77) {src1 with time := {servo := .holdover}} &&
     meets sourceLossTimeoutRule {{src1 with time := {servo := .locked}} with clock := 4000000000} &&
     meets ppsOutEdgeRule {on.setReg rTimeCfg 0xC0 with now := 3932160000} &&
     meets ppsInEdgeRule {on with now := 3932160000} &&
     meets ppsMissingRule {on.setReg rTimeCfg 2 with clock := 6000000000}) = true := by decide +kernel

/-- The premises of PtpAndTsync are met. -/
theorem witness_PtpAndTsync :
    (meets (ptpDescriptorRule 1) onDsc &&
     meets (ptpLaunchRule 0) {(on.setPort 0 {state := .up}).setVl 0 2 {grant := 100} with time := {waits := [ptw 0 none]}} &&
     meets (ptpLaunchRule 0) {eth.setPort 10 {state := .up, pcs := true} with time := {waits := [ptw 10 none]}} &&
     meets tsyncOutEdgeRule ((on.setReg rTimeTsync 64).setReg (rTimeTsync + 4) 0x10000) &&
     meets tsyncInEdgeRule {on with now := 777777} &&
     meets tsyncMissingRule {on.setReg rTimeCfg 3 with time := {servo := .locked}, clock := 4000000000}) = true := by decide +kernel

def pc : State := {on with pcie := {ready := true}}

def svcw : Bytes := let b := pay 8 (2 + 2^8*0x8000 + 2^48*8) ++ [1,2,3,4,5,6,7,8]; b ++ leBytes 4 (crc32c b).toNat

def rec0 : State := on.setReg rModeCfg 1

def sl (x : SlotSt) : State := {on.setSlot 7 x with clock := 100000000}

def dm (x : DmaSt) : State := {(on.setDma 5 x).setReg64 (rDma 5 0x20) 0x7000 with clock := 100000}

def dcp (n : Nat) : Bytes := pay 32 (2^8 + 2^16 * n + 2^64 * 0x8000 + 2^128 * 0x9000 + 2^(192+40))

def tailMem (s : State) : State := s.setBytes (0x7000 + 24) (pay 8 (2^40))

def wev (n : Nat) : Bytes := pay 32 (1 + 2^9 + 2^16*n + 2^64 * 33 + 2^(192+40))

/-- The premises of HostAndService are met. -/
theorem witness_HostAndService :
    (meets (hostRequestRule ⟨.winA, 16, false, false, 4, [], []⟩) pc &&
     meets (hostRequestRule ⟨.winC, 0x1000, false, false, 16, [], []⟩) pc &&
     meets (hostRequestRule ⟨.winC, 0x1000, true, true, 0, [1,2,3,4,5], [true,true,false,true,true]⟩) pc &&
     meets pcieEndpointReadyRule {on with pcie := {pba := 3, msixEn := true}} &&
     meets (msixUnmaskRule 5) {on with pcie := {pba := 0x20, msixEn := true, ready := true}} &&
     meets (memWincbaseWriteRule 0xE00) on &&
     meets (svcWriteRule svcw) rec0 &&
     meets (svcReadRule (pay 8 (3 + 2^8*0x3000000010 + 2^48*4))) rec0 &&
     meets svcStatusRule rec0) = true := by decide +kernel

/-- The premises of SharedSlots are met. -/
theorem witness_SharedSlots :
    (meets (slotClaimRule 7) (sl {}) &&
     meets (slotHandoverRule 7 0x0000001000050002) (sl {owner := .host}) &&
     meets (slotHandoverRule 7 0x0000001000050002) ((sl {owner := .host}).setBytes (slotAddr 7) [5]) &&
     meets (slotReleaseRule 7) (sl {owner := .host}) &&
     meets (deviceSlotClaimRule (.seq 1) 7) (sl {}) &&
     meets (deviceSlotHandoverRule (.seq 1) 7 0x0000001000060002) (sl {owner := .device, seq := 5}) &&
     meets (deviceSlotReleaseRule .mgmt 7) (sl {owner := .device, seq := 5}) &&
     meets (headerRepollRule 7) (sl {owner := .device, seq := 5, pend := true}) &&
     meets (headerRepollRule 7) (sl {owner := .device, seq := 5, pend := true, polls := 7}) &&
     meets (headerRepollRule 7) ((sl {owner := .device, seq := 5, pend := true}).setBytes (slotAddr 7) [5])) = true := by decide +kernel

/-- The premises of SharedSlots are met. -/
theorem witness_SharedSlots_2 :
    (meets (leaseExpiryRule 7) {sl {owner := .host} with clock := 4000000000}) = true := by decide +kernel

/-- The premises of DmaChannels are met. -/
theorem witness_DmaChannels :
    (meets (dmaRingRule 5) (dm {}) &&
     meets (dmaEnableRule 5 1) (dm {state := .paused, desc := dcp 64}) &&
     meets (dmaDisableRule 5 4) ((dm {state := .running, desc := dcp 64}).setReg (rDma 5 0) 1) &&
     meets (dmaResumeRule 5 1) ((dm {state := .halted, cause := 2, desc := dcp 64}).setReg (rDma 5 0) 1) &&
     meets (dmaAbortRule 5 2) ((dm {state := .halted, cause := 2, dbcnt := 5, desc := dcp 64}).setReg (rDma 5 0) 1) &&
     meets (dmaHeadWriteRule 5 0x8020) (dm {}) &&
     meets (burstGrantRule []) (((dm {state := .running, desc := dcp 64}).setReg (rDma 5 0) 1).setBytes 0x8000 [1,2,3]) &&
     meets (waitwordPollRule 5) ((dm {state := .waiting, desc := pay 32 (2 + 2^64 * 0x8000 + 2^160 * 0xFF + 2^128 * 7 + 2^(192+40))}).setReg (rDma 5 0) 1) &&
     meets (descriptorCompleteRule 5) (tailMem (dm {state := .running, desc := dcp 64, moved := 64})) &&
     meets (waitevSignalRule 5 33) ((tailMem (dm {state := .waiting, desc := wev 0})).setEv 33 {seen := 1})) = true := by decide +kernel

/-- The premises of DmaChannels are met. -/
theorem witness_DmaChannels_2 :
    (meets (dmaWaitTimeoutRule 5) (dm {state := .waiting, desc := wev 5}) &&
     meets (dmaErrorHaltRule 5) (dm {state := .waiting, desc := pay 32 (2 + 2^64 * 0x300000000)})) = true := by decide +kernel

/-- The premises of MemoryAndEvents are met. -/
theorem witness_MemoryAndEvents :
    (meets (scrubStepRule .privileged) ((((on.markValid nvBase).setErr nvBase .correctable).setErr (nvBase + 1) .failing)) &&
     meets (scrubStepRule .classC) ((((on.markValid 0x1000000040).setErr 0x1000000043 .correctable).setErr 0x1000000045 .failing)) &&
     meets (scrubStepRule .classC) {(((on.markValid (seqProg 4)).setErr (seqProg 4) .correctable).setErr (secondCopy (seqProg 4)) .failing).setErr (seqProg 4 + 1) .failing with mem := { ((((on.markValid (seqProg 4)).setErr (seqProg 4) .correctable).setErr (secondCopy (seqProg 4)) .failing).setErr (seqProg 4 + 1) .failing).mem with scrubPos := [(1, 131072 + (seqProg 4 - 0x1001000000) / 64)] }} &&
     meets (scrubStepRule .classD) (((on.markValid 0).setErr 0 .failing)) &&
     meets (scrubStepRule .classD) ((((on.setReg rMemCfg 0xFFFFFFFF).markValid 0).setErr 0 .failing)) &&
     meets (nvWordWriteRule .mgmt (BitVec.ofNat 40 (nvBase + 8)) 5 true) on &&
     meets (nvWordWriteRule .host (BitVec.ofNat 40 (nvBase + 8)) 5 true) on &&
     meets privilegedLapOverdueRule {on with clock := 20000000000000} &&
     meets (nvWordWriteRule .mgmt (BitVec.ofNat 40 (nvBase + 0x30000)) 0x123456789 true) on &&
     meets (nvWordWriteRule .mgmt (BitVec.ofNat 40 (nvBase + 0x30000)) 0x123456789 false) on) = true := by decide +kernel

/-- The premises of MemoryAndEvents are met. -/
theorem witness_MemoryAndEvents_2 :
    (meets (nvEraseRule (BitVec.ofNat 64 (nvBase + 0x30000 + 1))) on &&
     meets (eventRepeatMessageRule 33) (on.setEv 33 {flight := some 0, rep := 3, seen := 4}) &&
     meets (eventRepeatMessageRule 33) (on.setEv 33 {flight := some 0, seen := 4}) &&
     meets (evPendClearRule true 6 2) {on with evPend := 0x1F0000000000000000} &&
     meets (watchdogKickRule 0x01000005) on) = true := by decide +kernel

/-- The premises of FaultsAndFences are met. -/
theorem witness_FaultsAndFences :
    (meets (requestTimeoutRule 1) on &&
     meets (clockMonitorTripRule 4) on &&
     meets (selfCheckErrorRule 19) on &&
     meets (fenceRequestRule .mgmt 5) on &&
     meets (fenceReleaseRule .mgmt 5) {on with fenced := 0x20} &&
     meets watchdogExpiryRule {on.setReg rEvWdog 0x01000001 with clock := 100000}) = true := by decide +kernel

/-- The premises of PowerLadder are met. -/
theorem witness_PowerLadder :
    (meets (pwrReqActiveRule .host 0) on &&
     meets (pwrReqFenRule .host 0) on &&
     meets (pwrReqBogRule .host 0) on &&
     meets (pwrReqPeatRule .host 8) (on.setReg64 rPwrWaketime 0x100000000) &&
     meets (powerEntryStepRule .device) {on with power := {dev := {trans := .entry .fen 5}}} &&
     meets (powerEntryStepRule (.tile 1)) (on.setTilePower 1 {trans := .entry .reed 1}) &&
     meets (entryRollbackRule .device) {on with power := {dev := {trans := .rollback true}}} &&
     meets (autoReedEntryRule 1) (on.setReg (rPwrcfg 1) 0x801) &&
     meets (autoReedExitRule 1) ({on with fe := {loop := 0x10}}.setTilePower 1 {auto := true, state := .reed}) &&
     meets exitStepReadyRule {on with power := {psEn := 0xFF, psGood := 0xFF, dev := {state := .fen, trans := .exit 1}}}) = true := by decide +kernel

/-- The premises of PowerLadder are met. -/
theorem witness_PowerLadder_2 :
    (meets (exitStepReadyTileRule 1) ({on with power := {dev := {state := .sedge}}}.setTilePower 1 {state := .reed, trans := .exit 4}) &&
     meets (transitionOverrunRule .device) {on with clock := 100000000, power := {dev := {trans := .entry .fen 5}}} &&
     meets (transitionOverrunRule .device) {on with clock := 100000000, power := {dev := {state := .fen, trans := .exit 4}}}) = true := by decide +kernel

/-- The premises of WakesAndSupplies are met. -/
theorem witness_WakesAndSupplies :
    (meets wakeTickRule {on with power := {armed := true, dev := {state := .fen}}} &&
     meets wakeNRule {on with power := {dev := {state := .fen}}} &&
     meets (psEnRaiseRule 0x80) {on with power := {psEn := 0x80}} &&
     meets (psGoodFallRule 3) {on with power := {psEn := 0xFF, psGood := 0xFF}} &&
     meets (psGoodTimeoutRule 3) {on with clock := 100000000, power := {psEn := 0xFF, psGood := 0xF7}} &&
     meets (avsStepRule true) {on with clock := 100000000}) = true := by decide +kernel

def inMode (m : Mode) : State := {on with mode := {mode := m}}

def sess (st : SessState) (k : Nat) : State := {on with sess := {state := st, client := 77, kind := k}}

def blk8 : Bytes := List.replicate 8 3

/-- The premises of ModesAndResets are met. -/
theorem witness_ModesAndResets :
    (meets (modeReqServiceRule .host) (inMode .maintenance) &&
     meets (modeReqMaintenanceRule .host) (inMode .service) &&
     meets (modeReqTestRule .host) (inMode .service) &&
     meets (modeReqWarmupRule .host) (inMode .test) &&
     meets (modeReqTimeoutRule .host) (inMode .service) &&
     meets settingsReadRule (inMode .boot) &&
     meets (softwareResetRule .host 0xA500) on &&
     meets bootWatchdogExpiryRule {inMode .boot with clock := 100000000000}) = true := by decide +kernel

/-- The premises of UpdateSessions are met. -/
theorem witness_UpdateSessions :
    (meets (sessionOpenRule .pcie ⟨1, 5, 0, 0, 0, crc32c (pay 8 (2 + 2^32*77)), 0, pay 8 (2 + 2^32*77)⟩) on &&
     meets (sessionWriteRule .pcie ⟨2, 5, 0, 0, 8, crc32c blk8, 77, blk8⟩) (sess .receiving 2) &&
     meets (sessionFinishRule .pcie ⟨3, 5, 0, 0, 8, 0, 77, []⟩) {sess .receiving 1 with sess := {(sess .receiving 1).sess with blocks := [(0, blk8)]}} &&
     meets (sessionActivateRule .pcie ⟨4, 5, 0, 0, 8, 0, 77, []⟩) (sess .verified 0) &&
     meets (sessionAbortRule .pcie ⟨6, 5, 0, 0, 8, 0, 77, []⟩) (sess .verified 0) &&
     meets (sessionStatusRule .pcie ⟨7, 5, 0, 0, 8, 0, 77, []⟩) on &&
     meets (sessionReadRule .pcie ⟨8, 5, 0, 0, 8, 0, 77, []⟩) {on with sess := {state := .receiving, client := 77, kind := 1, export_ := true}} &&
     meets (sessionFallbackRule .pcie ⟨9, 5, 0, 0, 8, 0, 77, []⟩) {on with sess := {trial := true}} &&
     meets sessionLockExpiryRule {sess .verified 0 with clock := 300000000000} &&
     meets trialWindowExpiryRule {on with sess := {trial := true}, clock := 30000000000000}) = true := by decide +kernel

/-- The premises of RegisterAccess are met. -/
theorem witness_RegisterAccess :
    (meets (counterReadClearRule (BitVec.ofNat 20 (cTile 1 3)) true) (on.setReg (cTile 1 3) 9) &&
     meets (w1cWriteRule 0x4008 5 4) {on with evPend := 0x70000000000000000} &&
     meets (w1cWriteRule (BitVec.ofNat 20 (0x15000 + 64*9 + 4)) 0x60 0x40) (on.setLane 9 {los := true, lol := true}) &&
     meets (wideRegisterCommitRule (BitVec.ofNat 20 (0x52128)) 0x12345) {on with fns := []} &&
     meets (configRegisterWriteRule (BitVec.ofNat 20 (rDpdcfg 1)) false 0x5) {on with fns := []}) = true := by decide +kernel

/-! ## Records of zeros -/

theorem leNat_zeros (n : Nat) : leNat (List.replicate n 0#8) = 0 := by
  induction n with
  | zero => rfl
  | succ n ih => rw [List.replicate_succ, leNat, ih]; rfl

theorem pbits_zeros {n lo len : Nat} : pbits (List.replicate n 0#8) lo len = 0 := by
  simp only [pbits, List.drop_replicate, List.take_replicate, leNat_zeros, nbits, Nat.zero_div, Nat.zero_mod]

theorem zeroAt_zeros {n o k : Nat} : zeroAt (List.replicate n 0#8) o k = true := by
  simp [zeroAt, slice, List.drop_replicate, List.take_replicate]

theorem ext18_zeros {n o : Nat} : ext18 (List.replicate n 0#8) o = true := by
  simp only [ext18, pbits_zeros]; decide

theorem sicRecOk_zeros {n p : Nat} : sicRecOk (List.replicate n 0#8) p = true := by
  simp [sicRecOk, pbits_zeros, zeroAt_zeros, ext18_zeros, sicEn, pbit]

theorem dpdRecOk_zeros {n p : Nat} {w : Bool} (hp : 0 ≠ p) : dpdRecOk (List.replicate n 0#8) p w = true := by
  simp [dpdRecOk, dpdNb, pbits_zeros, ext18_zeros, descType, pbit, hp]

/-- The premises of a COEF rule but for the check of the record. -/
theorem coef_meets {k : Nat} {t : Tile} {g : Tag} {b : Bytes} {s : State}
    (h : (let it := mkItem kCoef g (rowPay b 0 4 6 k)
      let p := (coefPort k).getD .cfr
      s.alive && ((s.fresh.passes p t.val it && s.fresh.onTime p t.val it) && decide (recTile (coefRec t.val it.body) = t.val))) = true)
    (hr : s.fresh.recordPasses (coefRec t.val (rowPay b 0 4 6 k)) ((rowPay b 0 4 6 k).drop 8) = true) :
    meets (coefItem k t g b) s = true := by
  simp only [Bool.and_eq_true] at h
  simp only [meets, coefItem, queues, Bool.and_eq_true]
  exact ⟨h.1, h.2.1, h.2.2, hr⟩

theorem witness_SystemControlItems_predistorter :
    meets (coefPredistorterRule 1 (tag kCoef 1 32 far 664) (pay 664 (17*16))) on = true := by
  refine coef_meets (by decide +kernel) ?_
  rw [show (rowPay (pay 664 (17*16)) 0 4 6 0).drop 8 = List.replicate 656 0#8 by decide +kernel,
    show coefRec (1 : Tile).val (rowPay (pay 664 (17*16)) 0 4 6 0) = .dpd 17 0 .A by decide +kernel]
  exact dpdRecOk_zeros (by decide)

theorem witness_SystemControlItems_canceller :
    meets (coefCancellerRule 1 (tag kCoef 1 32 far 2088) (pay 2088 (3+17*16))) on = true := by
  refine coef_meets (by decide +kernel) ?_
  rw [show (rowPay (pay 2088 (3+17*16)) 0 4 6 3).drop 8 = List.replicate 2080 0#8 by decide +kernel,
    show coefRec (1 : Tile).val (rowPay (pay 2088 (3+17*16)) 0 4 6 3) = .sic 17 .A by decide +kernel]
  exact sicRecOk_zeros

/-! ## A regulatory record in force -/

/-- A locked record of FORMAT 1 for this hardware, all its levels and its duty limit zero. -/
def wRecordBody : Bytes := [1, 0, 0, 0, 1, 0, 0, 0] ++ leBytes 4 Config.hwType.toNat ++ 1 :: List.replicate 4079 0
def wRecord : Bytes := wRecordBody ++ leBytes 4 (crc32c wRecordBody).toNat
/-- The state with that record in slot 0. -/
def withRecord (s : State) : State := s.setBytes nvBase wRecord
theorem wRecordBody_length : wRecordBody.length = 4092 := by
  simp only [wRecordBody, List.length_append, List.length_cons, List.length_replicate, leBytes_length, List.length_nil]
theorem wRecord_length : wRecord.length = 4096 := by simp only [wRecord, List.length_append, wRecordBody_length, leBytes_length]
theorem wRecord_valid : regValid wRecord = true := by
  have h1 : regFormat wRecord = 1 := by decide +kernel
  have h2 : regHwtype wRecord = Config.hwType.toNat :=
    pbits_word (k := 8) (x := [1, 0]) rfl Config.hwType.isLt
  have h3 : (crc32c (wRecord.take 4092)).toNat = regCrc wRecord := by
    have hb : wRecord.take 4092 = wRecordBody := by rw [wRecord, List.take_left' wRecordBody_length]
    have hd : wRecord.drop 4092 = leBytes 4 (crc32c wRecordBody).toNat := by rw [wRecord, List.drop_left' wRecordBody_length]
    have h : (wRecord.drop 4092).take 6 = leBytes 4 (crc32c wRecordBody).toNat ++ [] := by
      rw [hd, List.take_of_length_le (by rw [leBytes_length]; omega), List.append_nil]
    rw [hb]
    exact (pbits_word h (crc32c wRecordBody).isLt).symm
  simp only [regValid, h1, h2, h3, decide_true, Bool.and_true]

theorem slot_other {s : State} {i : Nat} (h : 0 < i) : (withRecord s).regSlotFormat i = s.regSlotFormat i := by
  unfold State.regSlotFormat withRecord
  rw [bytesAt_setBytes_outside]
  rw [wRecord_length]; simp only [regSlotSize]; omega

theorem slot_zero {s : State} : (withRecord s).regSlot 0 = wRecord := by
  have := @bytesAt_setBytes s nvBase wRecord
  rw [wRecord_length] at this
  exact this
theorem slot_zero_format {s : State} : (withRecord s).regSlotFormat 0 = 1 := by
  unfold State.regSlotFormat withRecord
  rw [show nvBase + regSlotSize * 0 = nvBase from rfl, bytesAt_setBytes_take (by rw [wRecord_length]; omega)]
  decide +kernel

theorem record_inForce {s : State} (hb : s.fe.regBad = false) (h : ∀ i, s.regSlotFormat i = 0) :
    (withRecord s).regRecord = some wRecord := by
  have hv : (withRecord s).regValidSlots = [0] := by
    have h0 : ((withRecord s).regSlotFormat 0 = 1 && regValid ((withRecord s).regSlot 0) : Bool) = true := by
      rw [slot_zero_format, slot_zero, wRecord_valid]; rfl
    have hn : ∀ i, 0 < i → ((withRecord s).regSlotFormat i = 1 && regValid ((withRecord s).regSlot i) : Bool) = false := by
      intro i hi
      rw [slot_other hi, h]; rfl
    unfold State.regValidSlots
    rw [show List.range 16 = 0 :: (List.range 15).map (· + 1) from rfl, List.filter_cons, if_pos h0, List.filter_eq_nil_iff.2]
    intro x hx
    obtain ⟨y, _, rfl⟩ := List.mem_map.1 hx
    rw [hn _ (by omega)]
    decide
  have hf : (withRecord s).fe = s.fe := by
    have : ∀ (l : Bytes) (a : Nat) (u : State), (u.setBytes a l).fe = u.fe := by
      intro l; induction l with
      | nil => intros; rfl
      | cons v l ih => intro a u; rw [State.setBytes, ih]; rfl
    exact this _ _ _
  unfold State.regRecord State.regSlotInForce
  rw [hv, hf, hb]
  simp only [List.foldl, Option.map, slot_zero, Bool.false_eq_true, if_false]
theorem empty_formats {s : State} (h : s.mem.cells = []) (i : Nat) : s.regSlotFormat i = 0 := by
  simp only [State.regSlotFormat, State.bytesAt, State.byteAt, h, tget, leNat]
  rfl

theorem setBytes_mem {s : State} {a : Nat} {l : Bytes} : s.setBytes a l = { s with mem := (s.setBytes a l).mem } := by
  induction l generalizing s a with
  | nil => rfl
  | cons v l ih => rw [State.setBytes, ih]; rfl
def withNv (s : State) (l : Bytes) : State := { s with mem := (s.setBytes nvBase l).mem }
theorem setBytes_fresh {s : State} {a : Nat} {l : Bytes} : s.fresh.setBytes a l = (s.setBytes a l).fresh := by
  induction l generalizing s a with
  | nil => rfl
  | cons v l ih => rw [State.setBytes, State.setBytes, ← ih]; rfl
theorem fresh_withNv {s : State} {l : Bytes} : (withNv s l).fresh = withNv s.fresh l := by
  unfold withNv
  rw [setBytes_fresh]
  rfl
def atRec (s : State) : State := withNv s wRecord
theorem fresh_atRec {s : State} : (atRec s).fresh = atRec s.fresh := fresh_withNv
theorem atRec_record {s : State} (hb : s.fe.regBad = false) (h : s.mem.cells = []) : (atRec s).regRecord = some wRecord := by
  rw [← record_inForce hb (empty_formats h), withRecord, setBytes_mem, atRec, withNv]
theorem atRec_held {s : State} (hb : s.fe.regBad = false) (h : s.mem.cells = []) : (atRec s).regHeld = false := by
  rw [State.regHeld, atRec_record hb h]
  decide +kernel

def live4 : State := {onGrid with tdSpans := [⟨17, 0, slot1, 4096, [], {}⟩], cars := [(8, {car0 with tdmode := true}), (12, car0)], now := 3932160 - 100}

theorem witness_FrontEndEnables_txenOn : meets (feTxenOnRule 4 slot1 0) (atRec live4) = true := by
  have h : (atRec live4).fresh.regHeld = false := by
    rw [fresh_atRec]; exact atRec_held rfl rfl
  unfold meets feTxenOnRule
  simp only [h]
  decide +kernel

/-- A record is in force: the premise of both limiter commands. -/
theorem recorded {s : State} (ha : s.alive = true) (h : s.fresh.regRecord = some wRecord) :
    meets (limiterWindowRule 5) s = true ∧ meets (limiterLevelExchangeRule 1) s = true := by
  have e : meets (limiterWindowRule 5) s = (s.alive && s.fresh.regRecord.isSome) := rfl
  have f : meets (limiterLevelExchangeRule 1) s = (s.alive && s.fresh.regRecord.isSome) := rfl
  rw [e, f, ha, h]
  exact ⟨rfl, rfl⟩

theorem witness_Protection_limiter : meets (limiterWindowRule 5) (atRec on) = true ∧
    meets (limiterLevelExchangeRule 1) (atRec on) = true := by
  refine recorded (by decide +kernel) ?_
  rw [fresh_atRec]
  exact atRec_record rfl rfl

/-- R285: a power of twice full scale exceeds a level of 0 dB; full scale does not. -/
theorem test_exceeds : exceeds (2 * fullWindow) fullWindow 0 = true ∧ exceeds fullWindow fullWindow 0 = false := by decide +kernel

theorem witness_Protection_duty : meets (dutyLimitReachedRule 5) (atRec on) = true := by
  have h : (atRec on).fresh.regRecord = some wRecord := by
    rw [fresh_atRec]; exact atRec_record rfl rfl
  unfold meets dutyLimitReachedRule
  simp only [h]
  decide +kernel
theorem readFailure_meets {s : State} {r : Bytes} (ha : s.alive = true) (h : s.fresh.regRecord = some r) :
    meets regulatoryReadFailureRule s = true := by
  have e : meets regulatoryReadFailureRule s = (s.alive && s.fresh.regRecord.isSome) := rfl
  rw [e, ha, h]
  rfl

theorem witness_Protection_readFailure : meets regulatoryReadFailureRule (atRec on) = true := by
  have h : (atRec on).fresh.regRecord = some wRecord := by
    rw [fresh_atRec]; exact atRec_record rfl rfl
  exact readFailure_meets (by decide +kernel) h

theorem witness_ModesAndResets_calibration : meets calibrationCompleteRule (atRec {on with mode := {mode := .warmup}}) = true := by
  have h : (atRec {on with mode := {mode := .warmup}}).fresh.regHeld = false := by
    rw [fresh_atRec]; exact atRec_held rfl rfl
  unfold meets calibrationCompleteRule
  simp only [h]
  decide +kernel

theorem witness_Protection_temperature : meets (temperatureUpdateRule 1 (BitVec.ofNat 12 390)) {on with regs := [(rTsWarn, 50)]} = true := by
  unfold meets temperatureUpdateRule shutLimit
  cases Config.gradeE <;> decide +kernel
def noBoot : State := {on with sess := {trial := true}, mem := { cells := [(bootAddr 0 + 4, 9), (bootAddr 1 + 4, 9)] }}
theorem bootValid_slots {b : Bytes} (h : 4 < pbits b 32 8) : bootValid b = false := by
  have : ¬ pbits b 32 8 ≤ 4 := by omega
  simp only [bootValid, this, decide_false, Bool.and_false, Bool.false_and]
theorem bootRec_none {s : State} (h0 : 4 < pbits (s.bytesAt (bootAddr 0) 4096) 32 8) (h1 : 4 < pbits (s.bytesAt (bootAddr 1) 4096) 32 8) :
    s.bootRec = {} := by
  unfold State.bootRec State.bootCopy
  simp only [List.filter, bootValid_slots h0, bootValid_slots h1]
theorem confirm_meets {s : State} {r : Route} {m : SessMsg} (h : (s.alive && ((s.fresh.byHolder r m).isSome && s.fresh.sess.trial &&
      (s.fresh.mode.mode = .warmup || s.fresh.mode.mode = .service || s.fresh.mode.mode = .maintenance) &&
       !s.fresh.sess.unread)) = true) (hb : s.fresh.bootRec = {}) :
    meets (sessionConfirmRule r m) s = true := by
  have : meets (sessionConfirmRule r m) s = (s.alive && ((s.fresh.byHolder r m).isSome && s.fresh.sess.trial &&
      (s.fresh.mode.mode = .warmup || s.fresh.mode.mode = .service || s.fresh.mode.mode = .maintenance) &&
       !s.fresh.sess.unread && nbits s.fresh.bootRec.area 1 1 = s.fresh.curArea && (s.fresh.bootRec.st (1 - s.fresh.mode.slot.toNat) ≠ 3))) := rfl
  have hc : s.fresh.curArea = 0 := by rw [State.curArea, hb]; rfl
  rw [this, hb, hc]
  have h3 : BootRec.st {} (1 - s.fresh.mode.slot.toNat) ≠ 3 := by
    simp only [BootRec.st]; split <;> decide
  rw [Bool.and_eq_true] at h
  rw [h.1, h.2]
  rw [decide_eq_true h3]
  decide
theorem witness_UpdateSessions_confirm : meets (sessionConfirmRule .pcie ⟨5, 5, 0, 0, 8, 0, 77, []⟩) noBoot = true :=
  confirm_meets (by decide +kernel) (bootRec_none (by decide +kernel) (by decide +kernel))

/-! ## Pins -/

/-- The premises of RunsAlways hold for a rule in a state. -/
def allows (r : Rule) (s : State) : Bool := r.pre s.fresh

theorem witness_PinsInEveryState :
    (allows powerOnRule { on with powered := false } && allows powerLossRule on && allows resetPinRule on &&
     allows (resetNReleaseRule true) { on with inReset := true } && allows pciePerstRule { on with powered := false } &&
     allows pciePerstNReleaseRule on) = true := by decide +kernel

/-! ## Statements across families -/

/-- An empty queue, and a state without power. -/
theorem witness_EmptyQueueIdles : State.reset.pending = [] := rfl

theorem witness_SilentWithoutPower : ({ on with powered := false } : State).alive = false ∧ ¬ isPin .slowclkTick := by
  refine ⟨by decide, ?_⟩
  simp [isPin]

theorem witness_CommandsLeaveTheQueue : goesTo (exec .slowclkTick State.reset) (State.reset.fresh) := rfl

theorem witness_StepsKeepMemoryForm : Memory.wf State.reset ∧ goesTo (step State.reset) State.reset.idle := ⟨rfl, rfl⟩

/-- A WOLA item for the stage: on time, with its tag as given. -/
def wolaTag (air : Air) : Tag := tag kWola 4 128 air 8

/-- The premises common to the clauses of UntakenItems, and its three tests, for a WOLA item. -/
def untaken (s : State) (g : Tag) (b : Bytes) : Bool × Bool × Bool × Bool :=
  let it := mkItem kWola g b
  (s.alive && !netBehind .wola 0 it s.net && !s.portFenced .wola 0 && !s.gated .wola 0 && tagCheck it.tag,
   decide (2 ^ 24 < lead it.tag.air s.now), s.discardsItem .wola 0 it,
   payloadForm .wola it (s.itemShape it).1 (s.itemShape it).2 && tagFieldsOk it.tag)

theorem witness_UntakenItems_tag :
    (on.alive && !netBehind .wola 0 (mkItem kWola { wolaTag far with chk := ~~~(wolaTag far).chk } (pay 8 16)) on.net && !on.portFenced .wola 0 && !on.gated .wola 0 &&
      !tagCheck (mkItem kWola { wolaTag far with chk := ~~~(wolaTag far).chk } (pay 8 16)).tag) = true := by decide +kernel

theorem witness_UntakenItems_early : (untaken on (wolaTag 0x1000001) (pay 8 16)).1 = true ∧
    (untaken on (wolaTag 0x1000001) (pay 8 16)).2.1 = true := by decide +kernel

theorem witness_UntakenItems_discarded : (untaken { on with fns := [] } (wolaTag 0x1000000) (pay 8 16)) = (true, false, true, true) := by
  decide +kernel

theorem witness_UntakenItems_form : (untaken on (wolaTag far) (pay 8 0x400)) = (true, false, false, false) := by decide +kernel

/-- A STOP of the downlink of the filters of tile 1. -/
def stopBody : Bytes := pay 16 (2 ^ (32 + 9))
def stopTag (air : Air) : Tag := tag kStop 1 32 air 16

def stopMeets (s : State) (p : Port) (k : Nat) (it : Item) : Bool :=
  s.alive && s.fresh.passes p k it && !pbit it.body 0 && !it.tag.late

theorem witness_StopTimes_onTime : stopMeets on .flt 1 (mkItem kStop (stopTag far) (setPay stopBody 0 1 0)) = true ∧
    on.lateBy .flt 1 (mkItem kStop (stopTag far) (setPay stopBody 0 1 0)) = none := by decide +kernel

theorem witness_StopTimes_late : stopMeets on .flt 1 (mkItem kStop (stopTag 5) (setPay stopBody 0 1 0)) = true ∧
    (on.lateBy .flt 1 (mkItem kStop (stopTag 5) (setPay stopBody 0 1 0))).isSome = true := by decide +kernel

theorem witness_EpochOrder_equal : ((7 : BitVec 8).toNat + 256 - (7 : BitVec 8).toNat) % 256 = 0 := by decide

theorem witness_EpochOrder_newer : 128 ≤ ((7 : BitVec 8).toNat + 256 - (135 : BitVec 8).toNat) % 256 := by decide

theorem test_epoch_127_older : older (BitVec.ofNat 8 8) (BitVec.ofNat 8 135) = true ∧ older (BitVec.ofNat 8 7) (BitVec.ofNat 8 135) = false ∧
    older 9 9 = false := by decide

theorem witness_ClosedCheckpoint_specoff : (sq 1 { opened := true }).alive = true ∧ (sq 1 { opened := true }).fresh.seqReady 1 = true ∧
    inProgram ((sq 1 { opened := true }).seqOf 1).after = true := by decide +kernel

/-- An open checkpoint whose slot has been squashed twice. -/
def sqTwice : State := sq 1 { opened := true, sqcnt := 2 }

theorem witness_ClosedCheckpoint_fallback : sqTwice.alive = true ∧ sqTwice.fresh.seqReady 1 = true ∧ (sqTwice.seqOf 1).opened = true ∧
    sqTwice.squashBound (sqTwice.seqOf 1) = false ∧ (sqTwice.seqOf 1).sqcnt = 2 ∧
    sqTwice.fresh.seqMayIssue 1 ((sqTwice.seqOf 1).squashItems 1 (((sqTwice.seqOf 1).reg 2).truncate 40)) = true := by decide +kernel

theorem witness_ClosedCheckpoint_emits : (sqn.seqOf 1).opened = false ∧
    ∃ t, goesTo (exec (.seqHop 1 0 2 0 3) sqn) t := by
  refine ⟨by decide +kernel, ?_⟩
  simp only [goesTo, exec, execSeqHop]
  exact act_next _ _

theorem witness_ClosedCheckpoint_none : sqn.alive = true ∧ sqn.fresh.seqReady 1 = true ∧ (sqn.seqOf 1).opened = false := by decide +kernel

/-- An item of a kind, due at stage 0. -/
def queuedOf (p : Port) (k : BitVec 6) (b : Bytes) : QItem := ⟨p, 0, mkItem k (tag k 4 128 far 8) b, far, false, 0⟩

theorem witness_AppliedParameters : ((appliedValues (queuedOf .wola kWola (pay 8 16)) on).isSome &&
    (appliedValues (queuedOf .cfr kCfrCfg (pay 8 33)) on).isSome && (appliedValues (queuedOf .wola kGain (pay 8 3)) on).isSome &&
    (appliedValues (queuedOf .flt kMarker (pay 4 77)) on).isSome) = true := by decide +kernel

def lateMeets (s : State) (p : Port) (t : Nat) (it : Item) : Bool :=
  s.alive && s.fresh.passes p t it && it.tag.source.toNat = t && !it.tag.late && (s.lateBy p t it).isSome

theorem witness_LateReceiveItems : (
    lateMeets on .flt 1 (mkItem kFltSwap (tag kFltSwap 1 32 5 8) (setPay (pay 8 1) 0 2 1)) &&
    lateMeets on .flt 1 (mkItem kGain (tag kGain 1 32 5 8) (setPay (pay 8 (3 + 2 ^ 16 + 2 ^ 17 + 2 ^ 32 * 0x4000)) 18 1 0)) &&
    lateMeets on .flt 1 (mkItem kDcFreeze (tag kDcFreeze 1 32 5 8) (setPay (pay 8 3) 16 1 1)) &&
    lateMeets on .sic 1 (mkItem kSicCtl (tag kSicCtl 1 32 5 8) (setPay (pay 8 3) 16 2 0)) &&
    (lateMeets on .fe 1 (mkItem kFeCtl (tag kFeCtl 1 32 5 16) (setPay (pay 16 3) 4 1 1)) && feRxOnly (setPay (pay 16 3) 4 1 1)) &&
    (lateMeets on .flt 1 (mkItem kCarrier (tag kCarrier 1 32 5 16) (setPay (pay 16 (1 + 8 * 2 ^ 19)) 1 2 1)) &&
      pbit (setPay (pay 16 (1 + 8 * 2 ^ 19)) 1 2 1) 0)) = true := by decide +kernel

theorem witness_EventOccurrences : ((on.setEv 5 { flight := some 0, rep := 255 }).evOf 5).flight.isSome = true := by decide

/-! ## Commands that WellFormed refuses -/

theorem bodyOk_long {n : Nat} (h : 65536 ≤ n) : bodyOk (List.replicate n 0) = false := by
  rw [bodyOk, List.length_replicate]; exact decide_eq_false (Nat.not_lt.2 h)
theorem cypelFrameOk_long {n : Nat} (h : 16384 ≤ n) : cypelFrameOk ⟨0, List.replicate n 0, 0⟩ = false := by
  rw [cypelFrameOk, List.length_replicate]; exact decide_eq_false (Nat.not_lt.2 h)
theorem hostReqOk_long {n : Nat} (h : 4096 < n) : hostReqOk ⟨.winA, 0, true, true, 4, List.replicate n 0, []⟩ = false := by
  rw [hostReqOk, List.length_replicate, decide_eq_false (Nat.not_le.2 h), Bool.and_false, Bool.false_and]
theorem ethOk_long {n : Nat} (h : 9216 < n) : ethOk ⟨true, 0, 0, none, 0, List.replicate n 0⟩ = false := by
  rw [ethOk, List.length_replicate]; exact decide_eq_false (Nat.not_le.2 h)
theorem sessOk_long {n : Nat} (h : 4096 < n) : sessOk ⟨2, 0, 0, 0, 0, 0, 0, List.replicate n 0⟩ = false := by
  rw [sessOk, List.length_replicate]; exact decide_eq_false (Nat.not_le.2 h)

theorem test_refused_payload : Instr.wellFormed (.wola {} (List.replicate 65536 0)) = false := bodyOk_long (Nat.le_refl _)
theorem test_refused_frame : Instr.wellFormed (.taggedFrame 0 ⟨0, List.replicate 16384 0, 0⟩) = false :=
  cypelFrameOk_long (Nat.le_refl _)
theorem test_refused_write : Instr.wellFormed (.hostRequest ⟨.winA, 0, true, true, 4, List.replicate 4097 0, []⟩) = false :=
  hostReqOk_long (by decide)
theorem test_refused_ethernet : Instr.wellFormed (.ethernetFrame 2 ⟨true, 0, 0, none, 0, List.replicate 9217 0⟩) = false :=
  ethOk_long (by decide)
theorem test_refused_session : Instr.wellFormed (.sessionWrite .pcie ⟨2, 0, 0, 0, 0, 0, 0, List.replicate 4097 0⟩) = false :=
  sessOk_long (by decide)
theorem test_refused_read : Instr.wellFormed (.hostRequest ⟨.winA, 0, false, false, 4097, [], []⟩) = false := by decide
theorem test_refused_enables : Instr.wellFormed (.hostRequest ⟨.winA, 0, true, true, 4, [1, 2, 3, 4], [true]⟩) = false := by decide
theorem test_refused_align : Instr.wellFormed (.alignWord 0 0 ⟨0, 4096⟩) = false := by decide

/-! ## Single steps -/

/-- R325: a carry out of 64 bits, with Z and C. -/
theorem test_seqAdd_wraps : ∃ t, exec (.seqAdd 1 3 1 2) (sq 1 (g2 0xFFFFFFFFFFFFFFFF 1)) = .next t ∧ (t.seqOf 1).reg 3 = 0 ∧
    (t.seqOf 1).zncv = 0b0101 := ⟨_, rfl, by decide +kernel, by decide +kernel⟩

/-- R325: the quotient by zero. -/
theorem test_seqDivu_zero : ∃ t, exec (.seqDivu 1 3 1 0) sqn = .next t ∧ (t.seqOf 1).reg 3 = 0xFFFFFFFFFFFFFFFF :=
  ⟨_, rfl, by decide +kernel⟩

/-- R298: g0 reads as zero after a write to it. -/
theorem test_g0 : ∃ t, exec (.seqSetw 1 0 0 7) sqn = .next t ∧ (t.seqOf 1).reg 0 = 0 := ⟨_, rfl, by decide +kernel⟩

/-- R319, R525: an uncorrectable error in the ASQ's program memory ends in a mismatch of the pair, not in a program fault. -/
def asqBad : State := ({ on with seqs := [(4, { run := true, state := .running })] }).setErr (seqProg 4) .failing
theorem test_asq_mismatch : ∃ t, exec (.seqSetw 4 3 0 7) asqBad = .next t ∧ t.isFenced 6 = true ∧ t.evPend.getLsbD 124 = true ∧
    (t.seqOf 4).state = .running := ⟨_, rfl, by decide +kernel⟩

/-- R498: a byte written with the value an unlisted one reads as is not listed. -/
theorem test_zero_unlisted : ((on.setByte 9 5).setByte 9 0).mem.cells = [] ∧ ((on.setByte 9 5).setByte 3 1).mem.cells = [(3, 1), (9, 5)] := by
  decide

/-- The table spells no command in bits. -/
theorem test_no_words : decodeTableWord 32 0 = none := rfl

/-- The sequencers' words of the spec's examples (12_sequencer_instructions.md, lines 336-341). -/
theorem test_seq_emit : seqWord 1 0xC0A60011 = some (.seqEmit 1 5 6 0 0x11) := by decide
theorem test_seq_ckpt : seqWord 1 0xF01E0001 = some (.seqCkpt 1 0 30 1) := by decide
theorem test_seq_add40 : seqWord 1 0x007E680E = some (.seqAdd40 1 3 30 13) := by decide
theorem test_seq_beamsel : seqWord 1 0xC5031003 = some (.seqBeamsel 1 8 3 2 3) := by decide
theorem test_seq_recv : seqWord 1 0xE1000000 = some (.seqRecv 1 8 0 0 0) := by decide
theorem test_seq_squash : seqWord 1 0xF40F0000 = some (.seqSquash 1 0 15 0 0) := by decide

/-- The vector cores' words of the spec's examples (13_vector_cores.md, lines 283-287), the first in one bundle with the fourth. -/
theorem test_vc_cmac : vcWord 3 false 0x82100431 0x10211000 = some (.vCmac 3 true 1 0 1 0x031) := by decide
theorem test_vc_rnd : vcWord 3 false 0x8C402500 0x10211000 = some (.vRnd 3 true 4 0 9 0x100) := by decide
theorem test_vc_exp : vcWord 3 false 0x8A200002 0x10211000 = some (.vExp 3 true 2 0 0 0x002) := by decide
theorem test_vc_vld : vcWord 3 true 0x82100431 0x10211000 = some (.sVld 3 2 1 1 0) := by decide
theorem test_vc_loop : vcWord 3 true 0x82100431 0x26020020 = some (.sLoop 3 true 0 1 32) := by decide

/-- A queued command runs, and the queue behind it stays. -/
theorem test_step_front : step { State.reset with pending := [.svcStatus, .slowclkTick] } =
    exec .svcStatus { State.reset with pending := [.slowclkTick] } := rfl

end Sys2Proof.Tests
end

