-- ==== Sys2Proof/Proofs/RegisterAccess.lean ====
section
/-! PROOF. Writes of 1 to the muted paths of a tile (R280) by an initiator that may not release them, which W1C_WRITE answers with
an error response while its rule gives a completed write. -/

namespace Sys2Proof.Machine
open Sys2Proof

section muted
variable {s : State} {w : Initiator} {t : Tile} {v hw : BitVec 64}

/-- An aligned 64-bit write of a register whose block answers and whose unit is not fenced (R34, R585). -/
theorem regWrite_eq_write64 {off : Nat} (ha : off % 8 = 0) (hb : s.blockOn off = true) (hf : s.regFenced off = false) :
    s.regWrite w off 8 v = s.write64 w off v := by
  simp [State.regWrite, ha, hb, hf]

/-- The muted paths of a tile are a 64-bit register. -/
theorem isWide_feMute : s.isWide (rFe t.val 0x40) = true := by
  fin_cases t <;> rfl

theorem write64_feMute : s.write64 w (rFe t.val 0x40) v = s.writeMute w t.val v := by
  fin_cases t <;> rfl

/-- Only the host and management firmware release a muted path (R280). -/
theorem writeMute_refused (hh : w ≠ .host) (hm : w ≠ .mgmt) : s.writeMute w t.val v = s.error := by
  simp [State.writeMute, hh, hm]

/-- W1C_WRITE of a tile's muted paths by any other initiator is an error response and changes nothing else, also where the register
answers. -/
theorem exec_w1cWrite_feMute_refused (hs : s.alive = true) (hh : w ≠ .host) (hm : w ≠ .mgmt)
    (hb : s.fresh.blockOn (rFe t.val 0x40) = true) (hf : s.fresh.regFenced (rFe t.val 0x40) = false) :
    exec (.w1cWrite w (BitVec.ofNat 20 (rFe t.val 0x40)) v hw) s = .next s.fresh.error := by
  have hoff : (BitVec.ofNat 20 (rFe t.val 0x40)).toNat = rFe t.val 0x40 := by fin_cases t <;> rfl
  have ha : rFe t.val 0x40 % 8 = 0 := by fin_cases t <;> rfl
  have hwrite : s.fresh.regWrite w (rFe t.val 0x40) 8 (v &&& ~~~hw) = s.fresh.error := by
    rw [regWrite_eq_write64 ha hb hf, write64_feMute, writeMute_refused hh hm]
  change execW1cWrite _ _ _ _ s = _
  rw [execW1cWrite, act_alive hs]
  simp only [hoff, isWide_feMute, if_true, hwrite]
  rfl

end muted

/-- Refutes O45: its rule of W1C_WRITE names no initiator, and R280 lets the host and management firmware alone release a muted path.
After reset, a write by sequencer 0 to the muted paths of tile 0 meets the rule's premises; the rule gives a completed write, and the
write is answered with an error response. -/
theorem not_registerAccess : ¬ Obligations.RegisterAccess := by
  unfold Obligations.RegisterAccess
  rintro ⟨-, hW1c, -, -⟩
  have hpre : (w1cWriteRule (BitVec.ofNat 20 (rFe 0 0x40)) 0 0).pre State.reset.fresh = true := by decide +kernel
  have hdone : ((w1cWriteRule (BitVec.ofNat 20 (rFe 0 0x40)) 0 0).eff State.reset.fresh).resp = .done := rfl
  have hrule := hW1c (.seq 0) (BitVec.ofNat 20 (rFe 0 0x40)) 0 0 State.reset rfl hpre
  have hexec : exec (.w1cWrite (.seq 0) (BitVec.ofNat 20 (rFe 0 0x40)) 0 0) State.reset = .next State.reset.fresh.error :=
    exec_w1cWrite_feMute_refused (t := 0) rfl (by decide) (by decide) rfl (by decide +kernel)
  rw [hexec] at hrule
  injection hrule with hnext
  rw [← hnext] at hdone
  cases hdone

end Sys2Proof.Machine
end

