-- ==== Sys2Proof/Proofs/StepRunsFront.lean ====
section
/-! PROOF. A step on a queue that is not empty. -/

namespace Sys2Proof.Machine
open Sys2Proof

/-- With a command waiting, a step is that command on the state without it. -/
theorem step_of_pending {s : State} {c : Instr} {cs : List Instr} (h : s.pending = c :: cs) :
    step s = exec c { s with pending := cs } := by
  simp only [step, h]

/-- Settles O46: the queue that step takes its command from is the one the statement puts in place. -/
theorem stepRunsFront : Obligations.StepRunsFront := by
  unfold Obligations.StepRunsFront
  intro c cs s
  exact step_of_pending (s := { s with pending := c :: cs }) rfl

end Sys2Proof.Machine
end

