-- ==== Sys2Proof/Proofs/EventOccurrences.lean ====
section
/-! PROOF. What one occurrence of an event changes (R24, R105, R516): its pending bit, its counter, and the record of its message. -/

namespace Sys2Proof.Machine
open Sys2Proof

/-- Delivering a message leaves the pending bits and every register below the link's counters, EV_CNT among them, as they were. -/
def SameCounts (s t : State) : Prop := t.evPend = s.evPend ∧ ∀ off < 0x14400, t.reg off = s.reg off

/-- An occurrence of event `e` as the pending bits and EV_CNT show it (R105, R516). -/
def State.occurred (s : State) (e : Nat) : State := ({ s with evPend := s.evPend ||| (1#128 <<< e) } : State).bump (rEvCnt e)

section delivery
variable {s t u : State} {e k v : Nat}

theorem SameCounts.refl : SameCounts s s := ⟨rfl, fun _ _ => rfl⟩

theorem SameCounts.trans (h : SameCounts s t) (h' : SameCounts t u) : SameCounts s u :=
  ⟨h'.1.trans h.1, fun off ho => (h'.2 off ho).trans (h.2 off ho)⟩

theorem sameCounts_setEv {r : EvRec} : SameCounts s (s.setEv e r) := ⟨rfl, fun _ _ => rfl⟩

/-- A message to the host is an output or a pending bit of the MSI-X table (R471). -/
theorem sameCounts_msix : SameCounts s (s.msix v) := by
  unfold State.msix
  split <;> exact ⟨rfl, fun _ _ => rfl⟩

/-- A frame joins its egress queue, or counts as discarded in the port's own counter (R426). -/
theorem sameCounts_sendOwn {c : Option Nat} {type vc : Nat} {b : Bytes} : SameCounts s (s.sendOwn c type vc b) := by
  unfold State.sendOwn State.sendUp
  dsimp only
  split
  · exact ⟨rfl, fun _ _ => rfl⟩
  · exact ⟨rfl, fun off ho => reg_setReg_ne (by unfold cPort; omega)⟩

/-- The end of a wait changes the waiting sequencer alone (R310). -/
theorem sameCounts_wakeSeq : SameCounts s (s.wakeSeq e k) := by
  unfold State.wakeSeq
  dsimp only
  split
  · split <;> exact ⟨rfl, fun _ _ => rfl⟩
  · exact .refl

theorem sameCounts_wakeSeqs {ks : List Nat} : SameCounts s (ks.foldl (fun s k => s.wakeSeq e k) s) := by
  induction ks generalizing s with
  | nil => exact .refl
  | cons k ks ih => exact sameCounts_wakeSeq.trans ih

theorem SameCounts.ite {c : Prop} [Decidable c] (h : SameCounts s t) : SameCounts s (if c then t else s) := by
  split
  · exact h
  · exact .refl

theorem sameCounts_deliver {route : BitVec 32} {rep : Nat} : SameCounts s (s.deliver e route rep) :=
  (SameCounts.ite sameCounts_msix).trans ((SameCounts.ite sameCounts_sendOwn).trans sameCounts_wakeSeqs)

end delivery

section occurrence
variable {s : State} {e : Nat}

/-- With a message in flight an occurrence adds to the repeat count (R24). -/
theorem signal_inFlight (h : (s.evOf e).flight ≠ none) :
    s.signal e = (s.occurred e).setEv e { s.evOf e with
      seen := (s.evOf e).seen + 1, rep := if (s.evOf e).rep = 255 then 255 else (s.evOf e).rep + 1 } := by
  unfold State.signal
  dsimp only
  split
  · rfl
  · next hNone => exact absurd hNone h

/-- Else its message leaves with the routing of now (R516, R517). -/
theorem signal_idle (h : (s.evOf e).flight = none) :
    s.signal e = ((s.occurred e).setEv e { s.evOf e with
      seen := (s.evOf e).seen + 1, flight := some ((s.occurred e).reg (rEvRoute e)) }).deliver e ((s.occurred e).reg (rEvRoute e)) 0 := by
  unfold State.signal
  dsimp only
  split
  · next m hSome => exact absurd (hSome.symm.trans h) (Option.some_ne_none m)
  · rfl

theorem sameCounts_signal : SameCounts (s.occurred e) (s.signal e) := by
  by_cases h : (s.evOf e).flight = none
  · rw [signal_idle h]
    exact sameCounts_setEv.trans sameCounts_deliver
  · rw [signal_inFlight h]
    exact sameCounts_setEv

/-- A counter holds at its maximum (R105). -/
theorem toNat_reg_bump {off : Nat} : ((s.bump off).reg off).toNat = min ((s.reg off).toNat + 1) 0xFFFFFFFF := by
  simp only [State.bump, State.bumpBy, reg_setReg, BitVec.toNat_ofNat]
  omega

/-- The repeat count saturates at 255 (R24). -/
theorem toNat_repeat_count {r : BitVec 8} : (if r = 255 then 255 else r + 1 : BitVec 8).toNat = min (r.toNat + 1) 255 := by
  split
  · next h => simp [h]
  · bv_omega

end occurrence

/-- Settles O60: an occurrence is counted and pends first, and neither its message nor the record of it changes either; the record is
read off the case with a message in flight. -/
theorem eventOccurrences : Obligations.EventOccurrences := by
  unfold Obligations.EventOccurrences
  intro s e
  have hcounts : SameCounts (s.occurred e.val) (s.signal e.val) := sameCounts_signal
  refine ⟨hcounts.1, ?_, fun hf => ?_⟩
  · rw [hcounts.2 _ (by unfold rEvCnt; omega)]
    exact toNat_reg_bump
  · rw [signal_inFlight (Option.isSome_iff_ne_none.mp hf), evOf_setEv]
    exact ⟨toNat_repeat_count, rfl⟩

end Sys2Proof.Machine
end

