-- ==== Sys2Proof/Proofs/UntakenItems.lean ====
section
/-! PROOF. Control items that their stage does not take (R39, R44, R64, R68, R338, R342): the check is that of every arrival, and
comes before the stage's own rule. -/

namespace Sys2Proof.Machine
open Sys2Proof

/-- The stage hands the item to the common arrival, whatever it does with an item that passes. -/
def Arrives (f : State → State) (p : Port) (t : Nat) (it : Item) : Prop := ∃ k, ∀ s, f s = s.arrive p t it k

section arrivals
variable {t : Tile} {g : Tag} {b : Bytes} {p : Port} {n x : Nat} {it : Item}

theorem arrives_arrive {k : BitVec 19 → State → State} : Arrives (fun s => s.arrive p n it k) p n it := ⟨k, fun _ => rfl⟩

theorem arrives_arriveCtl : Arrives (fun s => s.arriveCtl p n it) p n it := arrives_arrive

theorem arrives_arriveIf {ok : State → Bool} : Arrives (fun s => s.arriveIf p n it ok) p n it := arrives_arrive

theorem arrives_arriveStop : Arrives (fun s => s.arriveStop p n it) p n it := arrives_arrive

theorem arrives_arriveCarrier : Arrives (fun s => s.arriveCarrier t g b x) .flt t.val (mkItem kCarrier g (rowPay b 1 2 3 x)) :=
  arrives_arriveCtl

theorem arrives_arriveFltSwap : Arrives (fun s => s.arriveFltSwap x t g b) .flt t.val (mkItem kFltSwap g (rowPay b 0 2 3 x)) :=
  arrives_arriveCtl

theorem arrives_arriveDc : Arrives (fun s => s.arriveDc x t g b) .flt t.val (mkItem kDcFreeze g (setPay b 16 1 x)) :=
  arrives_arriveCtl

theorem arrives_arriveSic : Arrives (fun s => s.arriveSic x t g b) .sic t.val (mkItem kSicCtl g (setPay b 16 2 x)) :=
  arrives_arriveIf

theorem arrives_arriveLo : Arrives (fun s => s.arriveLo x t g b) .lo t.val (mkItem kLoCtl g (rowPay b 0 2 3 x)) :=
  arrives_arriveIf

theorem arrives_arriveDpdSwap : Arrives (fun s => s.arriveDpdSwap x t g b) .dpd t.val (mkItem kDpdSwap g (setPay b 16 1 x)) := by
  unfold State.arriveDpdSwap
  exact arrives_arrive

theorem arrives_arrivePwr : Arrives (fun s => s.arrivePwr x g b) .pwr 0 (mkItem kPwrCtl g (rowPay b 0 3 4 x)) := by
  unfold State.arrivePwr
  exact arrives_arrive

theorem arrives_arriveFe : Arrives (fun s => s.arriveFe x t g b) .fe t.val (mkItem kFeCtl g (setPay b x 1 1)) := by
  unfold State.arriveFe
  exact arrives_arrive

theorem arrives_arriveCoef :
    Arrives (fun s => s.arriveCoef x t g b) ((coefPort x).getD .cfr) t.val (mkItem kCoef g (rowPay b 0 4 6 x)) := by
  unfold State.arriveCoef
  exact arrives_arrive

end arrivals

/-- A command that runs such a stage: the first check that fails decides, and the item leaves the network. -/
theorem untaken_of_arrives {c : Instr} {f : State → State} {p : Port} {t : Nat} {it : Item} (h : ∀ s, exec c s = act f s)
    (hf : Arrives f p t it) : Untaken c p t it := by
  obtain ⟨k, hk⟩ := hf
  intro s ha hBehind hFenced hGated
  have hexec : exec c s = .next (s.fresh.arrive p t it k) := by rw [h, act_alive ha, hk]
  obtain ⟨hTag, hEarly, hDiscard, hForm⟩ := arrive_cases (s := s.fresh) (k := k) hBehind hFenced hGated
  simp only [hexec, Host.Outcome.next.injEq]
  exact ⟨hTag, hEarly, hDiscard, hForm⟩

/-- Settles O54: each of these commands hands its item to the common arrival of its stage. -/
theorem untakenItems : Obligations.UntakenItems := by
  unfold Obligations.UntakenItems
  refine ⟨?fftCfg, ?wola, ?carrierOn, ?carrierOff, ?carrierRetune, ?gainTx, ?cfrCfg, ?dpdModel, ?dpdCorr, ?txfir, ?rxfir, ?rxiq, ?gainRx,
    ?dcFreeze, ?dcRelease, ?sicOn, ?sicOff, ?sicSwap, ?sicSnap, ?loPrep, ?loCal, ?loSwitch, ?pwrActive, ?pwrReed, ?pwrSedge, ?pwrFen,
    ?rxon, ?rxoff, ?loopback, ?lbrel, ?rxcal, ?tune, ?rffe, ?marker, ?window, ?commit, ?sync, ?stop, ?resume, ?squash,
    ?predistorter, ?txCorrector, ?rxCorrector, ?canceller, ?fir, ?cfrPulse⟩ <;> intros
  case fftCfg | window | commit | sync | squash => exact untaken_of_arrives (fun _ => rfl) arrives_arrive
  case wola | cfrCfg | marker => exact untaken_of_arrives (fun _ => rfl) arrives_arriveCtl
  case gainTx | gainRx => exact untaken_of_arrives (fun _ => rfl) arrives_arriveIf
  case carrierOn | carrierOff | carrierRetune => exact untaken_of_arrives (fun _ => rfl) arrives_arriveCarrier
  case dpdModel | dpdCorr => exact untaken_of_arrives (fun _ => rfl) arrives_arriveDpdSwap
  case txfir | rxfir | rxiq => exact untaken_of_arrives (fun _ => rfl) arrives_arriveFltSwap
  case dcFreeze | dcRelease => exact untaken_of_arrives (fun _ => rfl) arrives_arriveDc
  case sicOn | sicOff | sicSwap | sicSnap => exact untaken_of_arrives (fun _ => rfl) arrives_arriveSic
  case loPrep | loCal | loSwitch => exact untaken_of_arrives (fun _ => rfl) arrives_arriveLo
  case pwrActive | pwrReed | pwrSedge | pwrFen => exact untaken_of_arrives (fun _ => rfl) arrives_arrivePwr
  case rxon | rxoff | loopback | lbrel | rxcal | tune | rffe => exact untaken_of_arrives (fun _ => rfl) arrives_arriveFe
  case stop | resume => exact untaken_of_arrives (fun _ => rfl) arrives_arriveStop
  case predistorter | txCorrector | rxCorrector | canceller | fir | cfrPulse =>
    exact untaken_of_arrives (fun _ => rfl) arrives_arriveCoef

end Sys2Proof.Machine
end

