-- ==== Sys2Proof/Proofs/SequencerMemory.lean ====
section
/-! PROOF. Loads and stores of a sequencer (R29, R329). -/

namespace Sys2Proof.Machine
open Sys2Proof

section load
variable {s u : State} {k : Seq} {d a : GReg} {imm : Imm16} {n : Nat} {b : Bytes}

/-- The instruction completes inside program memory (R324, R326). -/
theorem seqNext_in {k : Nat} (h : inProgram (s.seqOf k).after = true) : s.seqNext k = s.setSeq k (s.seqOf k).next := seqGoto_in h

/-- A load whose access is answered writes gd, and the sequencer goes on (R329). -/
theorem seqLoad_answered (hr : s.seqReady k.val = true) (ha : (s.seqOf k.val).addr a imm % n = 0)
    (hread : s.seqRead k ((s.seqOf k.val).addr a imm) n = (.inr b, u)) (hp : inProgram (u.seqOf k.val).after = true) :
    s.seqLoad k d a imm n = u.setSeq k.val ((u.seqOf k.val).setG d (BitVec.ofNat 64 (leNat b))).next := by
  have hp' : inProgram (((u.seqOf k.val).setG d (BitVec.ofNat 64 (leNat b))).after) = true := by
    rw [SeqSt.after, setG_pc]
    exact hp
  unfold State.seqLoad
  rw [seqIssue_ready hr, if_pos rfl]
  simp only [ha, hread, ne_eq, not_true_eq_false, if_false]
  rw [seqNext_in (by rwa [seqOf_setSeq]), seqOf_setSeq, setSeq_setSeq]

/-- A command that is a load of `n` bytes follows the rule of loads. -/
theorem runs_load {c : Instr} (h : ∀ s, exec c s = act (fun u => u.seqLoad k d a imm n) s) : Runs c (loadRule k d a imm n) := by
  intro s hs hpre
  rw [h, act_alive hs]
  simp only [loadRule, Bool.and_eq_true, decide_eq_true_eq] at hpre ⊢
  obtain ⟨⟨hr, ha⟩, hread⟩ := hpre
  cases hacc : s.fresh.seqRead k ((s.fresh.seqOf k.val).addr a imm) n with
  | mk r u =>
    rw [hacc] at hread
    cases r with
    | inl c => cases hread
    | inr b => rw [seqLoad_answered hr ha hacc hread]

end load

/-! ## Memory of class C -/

/-- The two states differ in memory alone. -/
def OnlyMem (s t : State) : Prop := t = { s with mem := t.mem }

/-- Bytes of a memory of class C as a write leaves them: good, marked written, and in place (R493, R498). -/
def State.stored (s : State) (r : MRegion) (x : Nat) (b : Bytes) : State :=
  ((List.range b.length).foldl (fun u i => u.markValid (x + i))
    ((List.range b.length).foldl (fun u i => u.mendByte r (x + i)) s)).setBytes x b

section memory
variable {s t u : State} {r : MRegion} {x : Nat} {b : Bytes}

theorem OnlyMem.refl : OnlyMem s s := Eq.refl s

theorem OnlyMem.trans (h : OnlyMem s t) (h' : OnlyMem t u) : OnlyMem s u := by
  unfold OnlyMem at *
  rw [h', h]

theorem OnlyMem.foldl {α : Type} {f : State → α → State} (hf : ∀ s a, OnlyMem s (f s a)) {l : List α} : OnlyMem s (l.foldl f s) := by
  induction l generalizing s with
  | nil => exact .refl
  | cons a l ih => exact (hf s a).trans ih

theorem OnlyMem.seqOf_eq {k : Nat} (h : OnlyMem s t) : t.seqOf k = s.seqOf k := by
  rw [h]
  rfl

/-- Where the store began with no answer, its own answer taken back leaves what it wrote. -/
theorem OnlyMem.done_unanswered (h : OnlyMem s t) (hs : s.resp = .none) : ({ t.done with resp := .none } : State) = t := by
  rw [h]
  simp [State.done, hs]

theorem onlyMem_mendByte : OnlyMem s (s.mendByte r x) := by
  unfold State.mendByte
  split <;> rfl

theorem onlyMem_setBytes : OnlyMem s (s.setBytes x b) := by
  induction b generalizing s x with
  | nil => exact .refl
  | cons v b ih => exact OnlyMem.trans (t := s.setByte x v) rfl ih

theorem onlyMem_markValid : OnlyMem s (s.markValid x) := Eq.refl (s.markValid x)

theorem onlyMem_stored : OnlyMem s (s.stored r x b) :=
  ((OnlyMem.foldl fun _ _ => onlyMem_mendByte).trans (.foldl fun _ _ => onlyMem_markValid)).trans onlyMem_setBytes

/-- A write of a memory of class C that answers is done byte by byte, over any error that stands there (R491, R493). -/
theorem memWrite_byteChecked (hr : accessRegion x b.length = some r) (hc : byteChecked r = true) (hp : s.memPowered r = true)
    (hf : s.memFenced r = false) : s.memWrite x b = some (s.stored r x b) := by
  have hregs : r ≠ .regs := by rintro rfl; cases hc
  have hrom : r ≠ .rom := by rintro rfl; cases hc
  unfold State.memWrite
  simp [hr, hc, hp, hf, hregs, hrom, checkedUnits, State.stored, List.foldl_map]

end memory

/-! ## Stores -/

section store
variable {s u : State} {k : Seq} {d a : GReg} {imm : Imm16} {n x : Nat} {b : Bytes}

/-- The program and data memories of sequencer `k` are one range (R29). -/
theorem regionAt_seqMem {k : Nat} (hk : k < 5) (hlo : seqProg k ≤ x) (hhi : x < seqProg k + 0x100000) :
    regionAt x = some (.seqMem k, seqProg k, seqProg k + 0x100000) := by
  unfold seqProg at *
  have hdiv : (x - 0x1001000000) / 0x100000 = k := by omega
  unfold regionAt
  rw [if_neg (by omega), if_neg (by omega), if_neg (by omega), if_neg (by omega), if_neg (by omega), if_pos (by omega)]
  simp only [hdiv, Nat.mul_add, Nat.mul_one, Nat.add_assoc]

theorem inSeqData_iff {k : Nat} : inSeqData k x n = true ↔ seqData k ≤ x ∧ x + n ≤ seqData k + 0x80000 := by
  simp only [inSeqData, Bool.and_eq_true, decide_eq_true_eq]

theorem accessRegion_seqData (h : inSeqData k.val x n = true) (hn : 0 < n) : accessRegion x n = some (.seqMem k.val) := by
  have hdata := inSeqData_iff.mp h
  unfold seqData at hdata
  unfold accessRegion
  rw [regionAt_seqMem k.isLt (by omega) (by omega)]
  exact if_pos (by omega)

/-- The memories of a sequencer that runs answer (R320, R536). -/
theorem seqMem_answers {k : Nat} (h : s.seqIslandOn k = true) :
    s.memPowered (.seqMem k) = true ∧ s.memFenced (.seqMem k) = false := by
  simp only [State.seqIslandOn, Bool.and_eq_true, Bool.not_eq_true'] at h
  obtain ⟨⟨⟨hPower, -⟩, hFence⟩, hPair⟩ := h
  exact ⟨by simp [State.memPowered, State.memBelow, hPower], by simpa [State.memFenced, hFence] using hPair⟩

theorem seqIslandOn_of_seqReady {k : Nat} (h : s.seqReady k = true) : s.seqIslandOn k = true ∧ (s.seqOf k).state = .running := by
  simp only [State.seqReady, Bool.and_eq_true, decide_eq_true_eq] at h
  obtain ⟨⟨⟨⟨⟨hOn, hRun⟩, -⟩, -⟩, -⟩, -⟩ := h
  exact ⟨hOn, hRun⟩

/-- A write into the data memory of a sequencer that runs is a plain write (R29). -/
theorem busWrite_seqData {w : Initiator} (hOn : s.seqIslandOn k.val = true) (h : inSeqData k.val x b.length = true) (hb : 0 < b.length) :
    s.busWrite w x b = (s.stored (.seqMem k.val) x b).done := by
  have hdata : ¬ x < seqData k.val := Nat.not_lt.mpr (inSeqData_iff.mp h).1
  have hr : accessRegion x b.length = some (.seqMem k.val) := accessRegion_seqData h hb
  obtain ⟨hp, hf⟩ := seqMem_answers hOn
  unfold State.busWrite
  simp [hr, hdata, State.busStore, memWrite_byteChecked hr rfl hp hf]

/-- A store into the sequencer's own data memory writes it, and the sequencer goes on (R329). -/
theorem seqStore_own (hresp : s.resp = .none) (hr : s.seqReady k.val = true) (hp : inProgram (s.seqOf k.val).after = true)
    (ha : (s.seqOf k.val).addr a imm % n = 0) (hn : 0 < n) (hd : inSeqData k.val ((s.seqOf k.val).addr a imm) n = true) :
    s.seqStore k d a imm n =
      (s.stored (.seqMem k.val) ((s.seqOf k.val).addr a imm) (leBytes n ((s.seqOf k.val).reg d).toNat)).setSeq k.val
        (s.seqOf k.val).next := by
  obtain ⟨hOn, hRun⟩ := seqIslandOn_of_seqReady hr
  have hwrite := busWrite_seqData (w := .seq k) (b := leBytes n ((s.seqOf k.val).reg d).toNat) hOn (by rwa [leBytes_length])
    (by rwa [leBytes_length])
  have hctrl : (s.seqOf k.val).addr a imm ≠ regBase + 0x18100 + 0x40 * k.val := by
    have hk := k.isLt
    have hdata := inSeqData_iff.mp hd
    unfold seqData seqProg at hdata
    unfold regBase
    omega
  generalize hm : s.stored (.seqMem k.val) ((s.seqOf k.val).addr a imm) (leBytes n ((s.seqOf k.val).reg d).toNat) = m at hwrite ⊢
  have hmem : OnlyMem s m := hm ▸ onlyMem_stored
  have hseq : m.seqOf k.val = s.seqOf k.val := hmem.seqOf_eq
  have hdone : m.done.resp ≠ .error := by simp [State.done]
  unfold State.seqStore
  rw [seqIssue_ready hr, if_pos rfl]
  simp only [ha, ne_eq, not_true_eq_false, if_false, hwrite, hdone, decide_false, Bool.false_eq_true, hmem.done_unanswered hresp,
    hctrl, hseq, hRun, Bool.false_and, Bool.or_self]
  rw [seqNext_in (s := m) (hseq.symm ▸ hp), hseq]

/-- A command that is a store of `n` bytes follows the rule of stores. -/
theorem runs_store {c : Instr} (h : ∀ s, exec c s = act (fun u => u.seqStore k d a imm n) s) (hn : 0 < n) :
    Runs c (storeRule k d a imm n) := by
  intro s hs hpre
  rw [h, act_alive hs]
  simp only [storeRule, Bool.and_eq_true, decide_eq_true_eq] at hpre ⊢
  obtain ⟨⟨⟨hr, hp⟩, ha⟩, hd⟩ := hpre
  rw [seqStore_own rfl hr hp ha hn hd, State.stored, leBytes_length]

end store

/-- Settles O19: four loads and four stores, each its rule at its own size. -/
theorem sequencerMemory : Obligations.SequencerMemory := by
  unfold Obligations.SequencerMemory
  exact ⟨fun _ _ _ _ => runs_load fun _ => rfl, fun _ _ _ _ => runs_load fun _ => rfl, fun _ _ _ _ => runs_load fun _ => rfl,
    fun _ _ _ _ => runs_load fun _ => rfl, fun _ _ _ _ => runs_store (fun _ => rfl) (by decide),
    fun _ _ _ _ => runs_store (fun _ => rfl) (by decide), fun _ _ _ _ => runs_store (fun _ => rfl) (by decide),
    fun _ _ _ _ => runs_store (fun _ => rfl) (by decide)⟩

end Sys2Proof.Machine
end

