-- ==== Sys2Proof/Proofs/MemoryAndEvents.lean ====
section
/-! PROOF. The scrubber, the non-volatile store, event messages and the EVENT register (R24, R282, R500-R504, R519, R528). -/

namespace Sys2Proof.Machine
open Sys2Proof

/-! ## Event messages and the EVENT register (R24, R519, R528) -/

section events
variable {v : BitVec 32}

/-- A message in flight ends, or goes out again with the occurrences that came (R24). -/
theorem runs_eventRepeatMessage (e : Event) : Runs (.eventRepeatMessage e) (eventRepeatMessageRule e) := by
  intro s hs hpre
  obtain ⟨m, hm⟩ := Option.isSome_iff_exists.mp hpre
  change execEventRepeatMessage e s = _
  rw [execEventRepeatMessage, act_alive hs]
  simp only [hm, eventRepeatMessageRule]

theorem runs_evPendClear (w : Initiator) (hi : Bool) (mask hw : BitVec 64) :
    Runs (.evPendClear w hi mask hw) (evPendClearRule hi mask hw) :=
  fun _ hs _ => act_alive (f := (evPendClearRule hi mask hw).eff) hs

/-- EV_WDOG as the kick writes it: KICK reads 0x5A, the period and the enable are those of the operand. -/
theorem fld_kick : fld (setFld v 16 8 0x5A) 16 8 = 0x5A := by
  simp only [fld, setFld, nbits, BitVec.toNat_ofNat]
  omega

theorem fld_period_of_kick : fld (setFld v 16 8 0x5A) 0 16 = fld v 0 16 := by
  simp only [fld, setFld, nbits, BitVec.toNat_ofNat]
  omega

theorem enable_of_kick : (setFld v 16 8 0x5A).getLsbD 24 = v.getLsbD 24 := by
  simp only [BitVec.getLsbD, Nat.testBit_eq_decide_div_mod_eq, fld, setFld, nbits, BitVec.toNat_ofNat, decide_eq_decide]
  omega

/-- A kick writes the period and the enable, and the watchdog starts anew (R528). -/
theorem runs_watchdogKick (w : Initiator) (v : BitVec 32) : Runs (.watchdogKick w v) (watchdogKickRule v) := by
  intro s hs _
  change execWatchdogKick w v s = _
  rw [execWatchdogKick, act_alive hs]
  simp only [State.writeWdog, fld_kick, fld_period_of_kick, enable_of_kick]
  rfl

end events

/-! ## The non-volatile store (R282, R504) -/

section store
variable {s : State} {w : Initiator} {a : Nat} {b : Bytes} {v : BitVec 64} {ok : Bool}

/-- A count at or above the threshold that is not told yet is what the rule's quiet case leaves. -/
theorem tells_iff_not_quiet {n thr : Nat} {told : Bool} : (decide (thr ≤ n) && !told) = true ↔ ¬ (decide (n < thr) || told) = true := by
  simp

/-- A block counts under wear, and event 110 tells of it once (R504). -/
theorem wearUp_eq_worn : s.wearUp a = s.worn a := by
  unfold State.wearUp State.worn
  dsimp only
  generalize min (leNat (s.bytesAt (wearAddr a) 4) + 1) 0xFFFFFFFF = n
  generalize hu : (s.markValid (wearAddr a)).setBytes (wearAddr a) (leBytes 4 n) = u
  have hThr : u.reg rNvWearthr = s.reg rNvWearthr := by rw [← hu]; rfl
  have hTold : u.mem.wearTold = s.mem.wearTold := by rw [← hu]; rfl
  rw [hThr, hTold]
  by_cases h : (decide (n < (s.reg rNvWearthr).toNat) || tget (fun _ => false) s.mem.wearTold ((a - nvBase) / 4096)) = true
  · rw [if_pos h, if_neg fun hTells => tells_iff_not_quiet.mp hTells h]
  · rw [if_neg h, if_pos (tells_iff_not_quiet.mpr h)]

theorem programWord_eq_programmed : s.programWord a (leBytes 8 v.toNat) = (s.programmed a v).worn a := wearUp_eq_worn

theorem eraseBlock_eq_erased : s.eraseBlock a = (s.erased a).worn a := wearUp_eq_worn

theorem storeTakes_iff {n : Nat} : s.storeTakes a n = true ↔ s.storeOn = true ∧ nvWritable a n = true := by
  rw [State.storeTakes, Bool.and_eq_true]

/-- The controller does not take the word (R503). -/
theorem nvWrite_refused (h : s.storeTakes a 8 = false) : s.nvWrite a b ok = s.error := by
  rw [State.storeTakes, Bool.and_eq_false_iff] at h
  exact if_pos (by rcases h with h | h <;> simp [h])

/-- The read-back disagrees: the old content stays (R504). -/
theorem nvWrite_failed (h : s.storeTakes a 8 = true) :
    s.nvWrite a b false = (((s.worn a).setReg rNvStat (setBit ((s.worn a).reg rNvStat) 0 true)).signal 110).error := by
  obtain ⟨hOn, hWord⟩ := storeTakes_iff.mp h
  simp [State.nvWrite, hOn, hWord, wearUp_eq_worn]

/-- A word outside the regulatory region (R504). -/
theorem nvWrite_word (h : s.storeTakes a 8 = true) (ha : nvBase + 0x10000 ≤ a) :
    s.nvWrite a (leBytes 8 v.toNat) true = ((s.programmed a v).worn a).done := by
  obtain ⟨hOn, hWord⟩ := storeTakes_iff.mp h
  simp [State.nvWrite, hOn, hWord, Nat.not_lt.mpr ha, programWord_eq_programmed]

/-- A word of the regulatory region, where a locked record is in force (R282). -/
theorem nvWrite_staged {r : Bytes} (h : s.storeTakes a 8 = true) (ha : ¬ nvBase + 0x10000 ≤ a) (hr : s.lockedRecord = some r) :
    s.nvWrite a b true = s.stageWord r a b := by
  obtain ⟨hOn, hWord⟩ := storeTakes_iff.mp h
  simp [State.nvWrite, hOn, hWord, Nat.not_le.mp ha, hr]

/-- A word of the regulatory region, where none is: the region is judged anew (R282). -/
theorem nvWrite_unlocked (h : s.storeTakes a 8 = true) (ha : ¬ nvBase + 0x10000 ≤ a) (hr : s.lockedRecord = none) :
    s.nvWrite a (leBytes 8 v.toNat) true =
      ({ (s.programmed a v).worn a with fe := { ((s.programmed a v).worn a).fe with regBad := false } } : State).regWatch.done := by
  obtain ⟨hOn, hWord⟩ := storeTakes_iff.mp h
  simp [State.nvWrite, hOn, hWord, Nat.not_le.mp ha, hr, programWord_eq_programmed]

/-- The branches of the rule in their order: who writes, whether the controller takes it, the read-back, the region, the lock. -/
theorem runs_nvWordWrite (w : Initiator) (addr : Addr) (v : BitVec 64) (ok : Bool) :
    Runs (.nvWordWrite w addr v ok) (nvWordWriteRule w addr v ok) := by
  intro s hs _
  change execNvWordWrite w addr v ok s = _
  rw [execNvWordWrite, act_alive hs]
  generalize s.fresh = s
  congr 1
  unfold nvWordWriteRule
  dsimp only
  by_cases hw : w = .mgmt
  case neg => rw [if_neg hw, if_pos (.inl hw)]
  rw [if_pos hw]
  cases hTakes : s.storeTakes addr.toNat 8
  case false => rw [nvWrite_refused hTakes, if_pos (.inr rfl)]
  rw [if_neg (by simp [hw])]
  cases ok
  case false => exact nvWrite_failed hTakes
  rw [if_neg (by decide)]
  by_cases ha : nvBase + 0x10000 ≤ addr.toNat
  case pos => rw [nvWrite_word hTakes ha, if_pos ha]
  rw [if_neg ha]
  cases hr : s.lockedRecord with
  | some r => exact nvWrite_staged hTakes ha hr
  | none => exact nvWrite_unlocked hTakes ha hr

/-- While NV_CTRL answers, NV_ERASE is a write of it (R36, R504). -/
theorem execNvErase_eq {w : Initiator} (hs : s.alive = true) (h : s.fresh.unitTakes 0x9000 = true) :
    execNvErase w v s = .next (s.fresh.writeNvCtrl v) := by
  simp only [State.unitTakes, Bool.and_eq_true, Bool.not_eq_true'] at h
  obtain ⟨hFenced, hOn⟩ := h
  rw [execNvErase, unitAct, act_alive hs, hFenced, if_neg (by decide), State.regDo, if_pos hOn]

/-- The same for an erase: ERASE written, the block taken, the region, the lock (R282, R504). -/
theorem runs_nvErase (w : Initiator) (v : BitVec 64) : Runs (.nvErase w v) (nvEraseRule v) := by
  intro s hs hpre
  change execNvErase w v s = _
  rw [execNvErase_eq hs hpre]
  generalize s.fresh = s
  congr 1
  unfold nvEraseRule State.writeNvCtrl
  dsimp only
  generalize 4096 * fld v 12 28 = a
  cases hStart : v.getLsbD 0
  case false => rfl
  simp only [Bool.not_true, Bool.false_eq_true, if_false]
  cases hTakes : s.storeTakes a 4096
  case false =>
    rw [State.storeTakes, Bool.and_eq_false_iff] at hTakes
    exact if_pos (by rcases hTakes with h | h <;> simp [h])
  obtain ⟨hOn, hBlock⟩ := storeTakes_iff.mp hTakes
  simp only [hOn, hBlock, Bool.not_true, Bool.or_self, Bool.false_eq_true, if_false, eraseBlock_eq_erased]
  by_cases ha : nvBase + 0x10000 ≤ a
  · rw [if_pos ha, if_neg (Nat.not_lt.mpr ha)]
  · rw [if_neg ha, if_pos (Nat.not_le.mp ha)]
    cases s.lockedRecord <;> rfl

end store

/-! ## The scrubber (R500-R502) -/

section scrub
variable {s : State} {w : ScrubWalk} {nv : Bool} {a i : Nat} {r : MRegion}

theorem scrubByte_eq_byteWalked : s.scrubByte nv a = s.byteWalked nv a := by
  unfold State.scrubByte State.byteWalked
  cases h : s.errAt a with
  | good => rfl
  | correctable => simp only [State.checkUnit, h, byteChecked, if_true]
  | failing => cases nv <;> rfl

theorem scrubCopy_eq_copyWalked : s.scrubCopy r a = if r = .seqMem 4 then s.copyWalked a else s := by
  unfold State.scrubCopy
  by_cases h : r = .seqMem 4
  · simp only [h, ne_eq, not_true_eq_false, if_false, if_true]
    rfl
  · simp [h]

/-- A word of the store on the idle walk (R501, R504). -/
theorem scrubWord_eq_wordWalked :
    (if !s.isValid a then s
     else
       let fix := (List.range 8).any fun k => s.errAt (a + k) = .correctable
       let u := (List.range 8).foldl (fun u k => u.scrubByte true (a + k)) s
       if fix then u.wearUp a else u) = s.wordWalked a := by
  simp only [scrubByte_eq_byteWalked, wearUp_eq_worn]
  rfl

/-- An uncorrectable line of DRAM is repaired from its mirror, or the read is poisoned (R495). -/
theorem checkUnit_failing (h : s.errAt a = .failing) :
    State.checkUnit r (s, false) a =
      if r = .dram ∧ s.mirrored a ∧ s.errAt (otherStack a) ≠ .failing then
        ((((s.setErr a .good).setBytes a (s.bytesAt (otherStack a) 64)).bump (cMem 2)).signal 106, false)
      else (s, true) := by
  have hbytes : (s.setErr a .good).bytesAt (otherStack a) 64 = s.bytesAt (otherStack a) 64 := rfl
  simp only [State.checkUnit, h, hbytes, Bool.and_eq_true, decide_eq_true_eq, and_assoc]

/-- A line that has an address is walked as the spec has it (R495, R500). -/
theorem scrubLine_eq_lineWalked (h : walkAddr w i = some a) : s.scrubLine w i = s.lineWalked w a := by
  unfold State.scrubLine State.lineWalked
  rw [h]
  dsimp only
  cases accessRegion a 64 with
  | none => rfl
  | some r =>
    dsimp only
    by_cases hOff : (!s.memPowered r || s.memFenced r) = true
    · rw [if_pos hOff, if_pos hOff]
    · rw [if_neg hOff, if_neg hOff]
      cases w with
      | classD =>
        dsimp only
        by_cases hSkip : (!s.isValid a || decide (s.errAt a ≠ .failing)) = true
        · rw [if_pos hSkip, if_pos hSkip]
        · rw [if_neg hSkip, if_neg hSkip]
          obtain ⟨-, hFailing⟩ : s.isValid a = true ∧ s.errAt a = .failing := by simpa using hSkip
          rw [checkUnit_failing hFailing]
          split <;> rfl
      | classC =>
        simp only [scrubByte_eq_byteWalked, scrubCopy_eq_copyWalked]
        cases s.isValid a <;> rfl
      | privileged => simp only [scrubWord_eq_wordWalked]

/-- A walk goes on by a line: it is walked where it has an address, and the position moves (R500, R502). -/
theorem walkOn_eq : s.walkOn w =
    ((walkAddr w (s.walkLine w)).elim s (s.lineWalked w)).walkMoved w (s.walkLine w) := by
  have hLine : s.scrubLine w (s.walkLine w) = (walkAddr w (s.walkLine w)).elim s (s.lineWalked w) := by
    cases h : walkAddr w (s.walkLine w) with
    | none => rw [State.scrubLine, h]; rfl
    | some a => exact scrubLine_eq_lineWalked h
  rw [← hLine]
  rfl

theorem runs_scrubStep (w : ScrubWalk) : Runs (.scrubStep w) (scrubStepRule w) := by
  intro s hs _
  change execScrubStep w s = _
  rw [execScrubStep, act_alive hs]
  unfold scrubStepRule
  dsimp only
  congr 2
  funext u _
  rw [walkOn_eq]
  cases walkAddr w (u.walkLine w) <;> rfl

/-- The lap over its limit raises event 109, once (R502). -/
theorem runs_privilegedLapOverdue : Runs .privilegedLapOverdue privilegedLapOverdueRule := by
  intro s hs hpre
  change execPrivilegedLapOverdue s = _
  rw [execPrivilegedLapOverdue, act_alive hs]
  exact congrArg _ (if_pos hpre)

end scrub

/-- Settles O38: each of the seven commands is its rule, the store's and the scrubber's by what they do to a word, a block or a line. -/
theorem memoryAndEvents : Obligations.MemoryAndEvents := by
  unfold Obligations.MemoryAndEvents
  exact ⟨runs_eventRepeatMessage, runs_evPendClear, runs_watchdogKick, runs_scrubStep, runs_privilegedLapOverdue, runs_nvWordWrite,
    runs_nvErase⟩

end Sys2Proof.Machine
end

