-- ==== Sys2Proof/Proofs/PayloadFields.lean ====
section
/-! PROOF. Fields of a payload as fields of the number it stands for, and what a field set by a row leaves of the others (R342). -/

namespace Sys2Proof.Machine
open Sys2Proof

section number
variable {b : Bytes} {k n v lo len : Nat}

theorem leNat_lt : leNat b < 2 ^ (8 * b.length) := by
  induction b with
  | nil => exact Nat.one_pos
  | cons x b ih =>
    have hx := x.isLt
    rw [leNat, List.length_cons, Nat.mul_add, Nat.pow_add]
    omega

/-- The low bytes are the number's remainder, and the others its quotient. -/
theorem leNat_split (hk : k ≤ b.length) : leNat (b.take k) = leNat b % 2 ^ (8 * k) ∧ leNat (b.drop k) = leNat b / 2 ^ (8 * k) := by
  have hlen : (b.take k).length = k := List.length_take_of_le hk
  have hlow : leNat (b.take k) < 2 ^ (8 * k) := by simpa only [hlen] using leNat_lt (b := b.take k)
  have hsum : leNat b = leNat (b.take k) + 2 ^ (8 * k) * leNat (b.drop k) := by
    simpa only [List.take_append_drop, hlen] using leNat_append (a := b.take k) (b := b.drop k)
  rw [hsum, Nat.add_mul_mod_self_left, Nat.mod_eq_of_lt hlow, Nat.add_mul_div_left _ _ (Nat.two_pow_pos _), Nat.div_eq_of_lt hlow,
    Nat.zero_add]
  exact ⟨rfl, rfl⟩

theorem leNat_take : leNat (b.take k) = leNat b % 2 ^ (8 * k) := by
  rcases Nat.le_total k b.length with h | h
  · exact (leNat_split h).1
  · rw [List.take_of_length_le h, Nat.mod_eq_of_lt (Nat.lt_of_lt_of_le leNat_lt (Nat.pow_le_pow_right (by decide) (by omega)))]

theorem leNat_drop : leNat (b.drop k) = leNat b / 2 ^ (8 * k) := by
  rcases Nat.le_total k b.length with h | h
  · exact (leNat_split h).2
  · rw [List.drop_of_length_le h, Nat.div_eq_of_lt (Nat.lt_of_lt_of_le leNat_lt (Nat.pow_le_pow_right (by decide) (by omega)))]
    rfl

/-- A field lies in the low bits that hold it. -/
theorem nbits_mod (h : lo + len ≤ n) : nbits (v % 2 ^ n) lo len = nbits v lo len := by
  refine Nat.eq_of_testBit_eq fun i => ?_
  simp only [nbits, Nat.testBit_mod_two_pow, Nat.testBit_div_two_pow]
  by_cases hi : i < len
  · simp [hi, show i + lo < n by omega]
  · simp [hi]

/-- A payload's field is that field of its number. -/
theorem pbits_eq_nbits : pbits b lo len = nbits (leNat b) lo len := by
  unfold pbits
  rw [leNat_take, leNat_drop, nbits_mod (by omega), nbits, nbits, Nat.div_div_eq_div_mul, ← Nat.pow_add,
    Nat.div_add_mod]

end number

section rows
variable {b : Bytes} {lo len n x lo' len' : Nat}

/-- A field of the payload with another one set, where the payload holds it. -/
theorem pbits_setPay (h : lo' + len' ≤ 8 * b.length) :
    pbits (setPay b lo len x) lo' len' = nbits (leNat b - nbits (leNat b) lo len * 2 ^ lo + x % 2 ^ len * 2 ^ lo) lo' len' := by
  rw [pbits_eq_nbits, setPay, leNat_leBytes, nbits_mod h, pbits_eq_nbits]

theorem setPay_length : (setPay b lo len x).length = b.length := leBytes_length

/-- The code that a row puts into bits 2 to 0 leaves bits 7 to 4 (R538). -/
theorem pbits_rowPay_mask : pbits (rowPay b 0 3 4 x) 4 4 = pbits b 4 4 := by
  unfold rowPay
  split
  · rfl
  · cases b with
    | nil => rfl
    | cons v b =>
      rw [pbits_setPay (by simp only [List.length_cons]; omega), pbits_eq_nbits]
      simp only [nbits]
      omega

end rows

end Sys2Proof.Machine
end

