-- ==== Sys2Proof/Proofs/ControlItems.lean ====
section
/-! PROOF. Control items on time (R40, R56, R88, R89, R93, R97, R119, R122, R152, R157, R161, R186, R214, R255, R343, R345, R538):
the rule of each stage ends in its queue. -/

namespace Sys2Proof.Machine
open Sys2Proof

/-- A stage queues the item for its AIRTIME wherever it passes on time and the stage's own check holds. -/
def QueuesOnTime (f : State → State) (p : Port) (t : Nat) (it : Item) (ok : State → Bool) : Prop :=
  ∀ s : State, s.passes p t it = true → s.onTime p t it = true → ok s = true → f s = s.queued p t it

section arrival
variable {s : State} {p : Port} {t x : Nat} {it : Item} {ok : State → Bool} {k : BitVec 19 → State → State}
  {e : Tile} {g : Tag} {b : Bytes}

@[simp] theorem lateBy_took {q : Port} {i : Nat} {jt : Item} : (s.took q i jt).lateBy p t it = s.lateBy p t it := rfl

theorem onTime_iff : s.onTime p t it = true ↔ it.tag.late = false ∧ s.lateBy p t it = none := by
  simp only [State.onTime, Bool.and_eq_true, Bool.not_eq_true', Option.isNone_iff_eq_none]

/-- An item on time waits as its rule has it (R56). -/
theorem queueCtl_took (h : s.onTime p t it = true) :
    (s.took p t it).queueCtl p t it (takeNet p t it s.net).2 = s.queued p t it :=
  queueCtl_onTime (s := s.took p t it) (onTime_iff.mp h).1 (onTime_iff.mp h).2

/-- An arrival whose own rule queues what it admits. -/
theorem queuesOnTime_arrive
    (hk : ∀ (s : State) (pc : BitVec 19), s.onTime p t it = true → ok s = true →
      k pc (s.took p t it) = (s.took p t it).queueCtl p t it pc) :
    QueuesOnTime (fun s => s.arrive p t it k) p t it ok := by
  intro s hp ht hok
  dsimp only
  rw [arrive_taken hp, hk s _ ht hok, queueCtl_took ht]

theorem queuesOnTime_arriveCtl : QueuesOnTime (fun s => s.arriveCtl p t it) p t it always :=
  queuesOnTime_arrive fun _ _ _ _ => rfl

theorem queuesOnTime_arriveIf {a : Bool} : QueuesOnTime (fun s => s.arriveIf p t it fun _ => a) p t it fun _ => a :=
  queuesOnTime_arrive fun _ _ _ hok => if_pos hok

/-- A command that runs such a stage follows the rule of queued items. -/
theorem runs_queues {c : Instr} {f : State → State} (hc : ∀ s, exec c s = act f s) (hf : QueuesOnTime f p t it ok) :
    Runs c (queues p t it ok) := by
  intro s hs hpre
  simp only [queues, Bool.and_eq_true] at hpre ⊢
  obtain ⟨⟨hp, ht⟩, hok⟩ := hpre
  rw [hc, act_alive hs, hf _ hp ht hok]

/-! ## Stages with a check of their own -/

/-- A combination that R73, R75 and R165 allow (R343). -/
theorem queuesOnTime_fftCfg : QueuesOnTime
    (fun s => s.arrive .fft 0 (mkItem kFftCfg g b) fun pc s =>
      if fftAccepted b g.mu.toNat && fftOffsetOk b g.mu.toNat then s.queueCtl .fft 0 (mkItem kFftCfg g b) pc else s.bump (cBeam 2))
    .fft 0 (mkItem kFftCfg g b) fun _ => fftAccepted b g.mu.toNat && fftOffsetOk b g.mu.toNat :=
  queuesOnTime_arrive fun _ _ _ hok => if_pos hok

/-- An LO_CTL of one that may tune the tile (R255). -/
theorem queuesOnTime_arriveLo : QueuesOnTime (fun s => s.arriveLo x e g b) .lo e.val (mkItem kLoCtl g (rowPay b 0 2 3 x))
    fun _ => loOwner e g (rowPay b 0 2 3 x) := by
  unfold State.arriveLo
  exact queuesOnTime_arriveIf (a := loOwner e g (rowPay b 0 2 3 x))

/-- A record that lies in the tile and passes its check (R119, R345). -/
theorem queuesOnTime_arriveCoef : QueuesOnTime (fun s => s.arriveCoef x e g b) ((coefPort x).getD .cfr) e.val
    (mkItem kCoef g (rowPay b 0 4 6 x)) fun s =>
      recTile (coefRec e.val (rowPay b 0 4 6 x)) = e.val &&
      s.recordPasses (coefRec e.val (rowPay b 0 4 6 x)) ((rowPay b 0 4 6 x).drop 8) := by
  unfold State.arriveCoef
  refine queuesOnTime_arrive fun s pc _ hok => ?_
  obtain ⟨hTile, hRecord⟩ := Bool.and_eq_true_iff.mp hok
  exact (if_neg (not_not.mpr (of_decide_eq_true hTile))).trans (if_pos hRecord)

/-- A state that the source may ask for, on time (R538). -/
theorem queuesOnTime_arrivePwr {ok : State → Bool}
    (hok : ∀ s, ok s = true → mayRequest (itemParty g.source) (pwrTarget x) (pbits b 4 4) = true) :
    QueuesOnTime (fun s => s.arrivePwr x g b) .pwr 0 (mkItem kPwrCtl g (rowPay b 0 3 4 x)) ok := by
  unfold State.arrivePwr
  refine queuesOnTime_arrive fun s pc ht h => ?_
  obtain ⟨hl, hn⟩ := onTime_iff.mp ht
  simp only [hok s h, lateBy_took, hl, hn, Bool.not_true, Bool.false_eq_true, if_false, Option.isSome_none, Bool.or_self]

/-- The lead of a predistorter item reads no register (R46). -/
theorem lateBy_dpd_setReg {off : Nat} {v : BitVec 32} : (s.setReg off v).lateBy .dpd t it = s.lateBy .dpd t it := by
  rfl

/-- A DPD_SWAP from the tile's own sequencer: LASTK takes its fade exponent, and it is queued (R122). -/
theorem runs_dpdSwapItem {c : Instr} (hc : ∀ s, exec c s = act (fun s => s.arriveDpdSwap x e g b) s) : Runs c (dpdSwapItem x e g b) := by
  intro s hs hpre
  simp only [dpdSwapItem, queues, Bool.and_eq_true, decide_eq_true_eq] at hpre ⊢
  obtain ⟨⟨hp, ht⟩, hsrc⟩ := hpre
  obtain ⟨hl, hn⟩ := onTime_iff.mp ht
  rw [hc, act_alive hs, State.arriveDpdSwap, arrive_taken hp]
  refine congrArg _ ((if_pos hsrc).trans ?_)
  exact queueCtl_onTime hl (lateBy_dpd_setReg.trans hn)

end arrival

section families
variable {t : Tile} {p : Port} {g : Tag} {b : Bytes}

theorem runs_arriveCtl {c : Instr} {t : Nat} {it : Item} (hc : ∀ s, exec c s = act (fun s => s.arriveCtl p t it) s) :
    Runs c (queues p t it always) := runs_queues hc queuesOnTime_arriveCtl

theorem runs_arriveCoef {c : Instr} {x : Nat} (hc : ∀ s, exec c s = act (fun s => s.arriveCoef x t g b) s) : Runs c (coefItem x t g b) :=
  runs_queues hc queuesOnTime_arriveCoef

theorem runs_pwrCtlReed : Runs (.pwrCtlReed g b) (pwrCtlReedRule g b) :=
  runs_queues (fun _ => rfl) (queuesOnTime_arrivePwr fun _ h => pbits_rowPay_mask (b := b) ▸ h)

theorem runs_pwrCtlSedge : Runs (.pwrCtlSedge g b) (pwrCtlSedgeRule g b) :=
  runs_queues (fun _ => rfl) (queuesOnTime_arrivePwr fun _ h => by rw [of_decide_eq_true h]; rfl)

theorem runs_pwrCtlFen : Runs (.pwrCtlFen g b) (pwrCtlFenRule g b) :=
  runs_queues (fun _ => rfl) (queuesOnTime_arrivePwr fun _ h => by rw [of_decide_eq_true h]; rfl)

end families

/-- Settles O1: each item is queued by the common arrival or its stage's own check; a DPD_SWAP leaves LASTK too. -/
theorem transmitControlItems : Obligations.TransmitControlItems := by
  unfold Obligations.TransmitControlItems
  refine ⟨fun g b => ?fftCfg, fun g b => ?wola, fun t g b => ?carrierOn, fun t g b => ?carrierOff, fun t g b => ?carrierRetune,
    fun t g b => ?gainTx, fun t g b => ?cfrCfg, fun t g b => ?dpdModel, fun t g b => ?dpdCorr, fun t g b => ?txfir⟩
  case fftCfg => exact runs_queues (fun _ => rfl) queuesOnTime_fftCfg
  case gainTx => exact runs_queues (fun _ => rfl) queuesOnTime_arriveIf
  case dpdModel | dpdCorr => exact runs_dpdSwapItem fun _ => rfl
  case wola | carrierOn | carrierOff | carrierRetune | cfrCfg | txfir => exact runs_arriveCtl fun _ => rfl

/-- Settles O2: the tile's own source is asked of GAIN and SIC_CTL alone. -/
theorem receiveControlItems : Obligations.ReceiveControlItems := by
  unfold Obligations.ReceiveControlItems
  refine ⟨fun t g b => ?rxfir, fun t g b => ?rxiq, fun t g b => ?gainRx, fun t g b => ?dcFreeze, fun t g b => ?dcRelease,
    fun t g b => ?sicOn, fun t g b => ?sicOff, fun t g b => ?sicSwap, fun t g b => ?sicSnap⟩
  case gainRx | sicOn | sicOff | sicSwap | sicSnap => exact runs_queues (fun _ => rfl) queuesOnTime_arriveIf
  case rxfir | rxiq | dcFreeze | dcRelease => exact runs_arriveCtl fun _ => rfl

/-- Settles O3: who may send an LO_CTL or a PWR_CTL, and which record a COEF may bring, is each stage's own check. -/
theorem systemControlItems : Obligations.SystemControlItems := by
  unfold Obligations.SystemControlItems
  refine ⟨fun t g b => ?loPrep, fun t g b => ?loCal, fun t g b => ?loSwitch, fun g b => ?pwrActive, fun _ _ => runs_pwrCtlReed,
    fun _ _ => runs_pwrCtlSedge, fun _ _ => runs_pwrCtlFen, fun p t g b => ?marker, fun t g b => ?predistorter,
    fun t g b => ?txCorrector, fun t g b => ?rxCorrector, fun t g b => ?canceller, fun t g b => ?fir, fun t g b => ?cfrPulse⟩
  case loPrep | loCal | loSwitch => exact runs_queues (fun _ => rfl) queuesOnTime_arriveLo
  case pwrActive => exact runs_queues (fun _ => rfl) (queuesOnTime_arrivePwr fun _ _ => rfl)
  case marker => exact runs_arriveCtl fun _ => rfl
  case predistorter | txCorrector | rxCorrector | canceller | fir | cfrPulse => exact runs_arriveCoef fun _ => rfl

end Sys2Proof.Machine
end

