-- ==== Sys2Proof/Proofs/LateReceiveItems.lean ====
section
/-! PROOF. Late control items of the receive direction (R51). An item that passes has the form of its kind's payload, which makes its
direction certain. -/

namespace Sys2Proof.Machine
open Sys2Proof

/-- A late item of this kind and direction is dropped (R51). -/
def LateDropped (p : Port) (it : Item) : Prop :=
  it.tag.kind ∈ [kSicCtl, kDcFreeze] ∨ (itemDir p it = .rx ∧ lateApplies it.tag.kind = true)

/-- A stage counts and drops a late item of its tile's own source that passes every check. -/
def DropsLate (f : State → State) (p : Port) (t : Nat) (it : Item) : Prop :=
  ∀ (s : State) (m : Nat), s.passes p t it = true → it.tag.source.toNat = t → it.tag.late = false → s.lateBy p t it = some m →
    f s = (s.took p t it).bump (domCounter p t .latecnt)

section direction
variable {p : Port} {g : Tag} {b : Bytes} {n r x : Nat}

theorem passes_form {s : State} {t : Nat} {it : Item} (h : s.passes p t it = true) :
    payloadForm p it (s.itemShape it).1 (s.itemShape it).2 = true := by
  simp only [State.passes, Bool.and_eq_true] at h
  exact h.1.2

theorem lateDropped_sicCtl : LateDropped p (mkItem kSicCtl g b) := .inl (List.mem_cons_self ..)

theorem lateDropped_dcFreeze : LateDropped p (mkItem kDcFreeze g b) := .inl (List.mem_cons_of_mem _ (List.mem_cons_self ..))

/-- A TARGET other than 0 that the row fixed stands in the payload, or an invalid one does (R342). -/
theorem pbits_rowPay_target (hlen : 0 < b.length) (hx : x % 4 ≠ 0) : pbits (rowPay b 0 2 3 x) 0 2 ≠ 0 := by
  unfold rowPay
  split
  · omega
  · rw [pbits_setPay (by omega)]
    simp only [nbits]
    omega

/-- A FLT_SWAP of a receive target (R51, R214). -/
theorem lateDropped_fltSwap (hx : x % 4 ≠ 0) (h : payloadForm p (mkItem kFltSwap g (rowPay b 0 2 3 x)) n r = true) :
    LateDropped p (mkItem kFltSwap g (rowPay b 0 2 3 x)) := by
  simp only [payloadForm, mkItem, kFltSwap, BitVec.reduceToNat, Bool.and_eq_true] at h
  obtain ⟨⟨⟨⟨hSized, -⟩, -⟩, -⟩, -⟩ := h
  have hlen := of_decide_eq_true hSized
  have hpos : 0 < b.length := by
    unfold rowPay at hlen
    split at hlen
    · omega
    · rw [setPay_length] at hlen
      omega
  exact .inr ⟨if_neg (pbits_rowPay_target hpos hx), rfl⟩

/-- A GAIN that the filter stage takes is one of the receive direction (R161, R342). -/
theorem lateDropped_gain (h : payloadForm .flt (mkItem kGain g b) n r = true) : LateDropped .flt (mkItem kGain g b) := by
  have hRx : pbit b 16 = true := by simpa [payloadForm, mkItem, kGain] using (Bool.and_eq_true_iff.mp h).2
  exact .inr ⟨congrArg dirOf (of_decide_eq_true hRx), rfl⟩

/-- A CARRIER whose fields are valid is the one that its row makes it, and names its direction in bit 0 (R342, R343). -/
theorem lateDropped_carrier (hRx : pbit (setPay b 1 2 x) 0 = true) (h : payloadForm p (mkItem kCarrier g (rowPay b 1 2 3 x)) n r = true) :
    LateDropped p (mkItem kCarrier g (rowPay b 1 2 3 x)) := by
  have hRow : rowPay b 1 2 3 x = setPay b 1 2 x := by
    unfold rowPay at h ⊢
    split
    · next hInvalid =>
      have hThree : pbits b 1 2 = 3 := by
        rw [pbits_eq_nbits] at hInvalid ⊢
        simp only [nbits] at hInvalid ⊢
        omega
      simp [payloadForm, mkItem, kCarrier, hThree] at h
    · rfl
  rw [hRow]
  exact .inr ⟨congrArg dirOf (of_decide_eq_true hRx), rfl⟩

/-- An FE_CTL of receive switches alone (R51, R615). -/
theorem lateDropped_feCtl (hRx : feRxOnly b = true) : LateDropped p (mkItem kFeCtl g b) := .inr ⟨if_pos hRx, rfl⟩

end direction

section arrival
variable {s : State} {p : Port} {t x m : Nat} {it : Item} {pc : BitVec 19} {ok : State → Bool} {e : Tile} {g : Tag} {b : Bytes}

/-- Where an FE_CTL would be placed, a late one that is dropped is not (R51). -/
theorem placeCtl_dropped (h : s.lateBy p t it = some m) (hl : it.tag.late = false) (hd : LateDropped p it) :
    s.placeCtl p t it pc = (s.bump (domCounter p t .latecnt), none) := by
  unfold State.placeCtl
  simp only [hl, Bool.false_eq_true, if_false, h]
  by_cases hc : it.tag.kind ∈ [kSicCtl, kDcFreeze]
  · rw [if_pos hc]
  · rw [if_neg hc, if_pos (by simpa using hd.resolve_left hc)]

theorem dropsLate_arriveIf (hd : ∀ n r, payloadForm p it n r = true → LateDropped p it)
    (hok : ∀ s, it.tag.source.toNat = t → ok s = true) : DropsLate (fun s => s.arriveIf p t it ok) p t it := by
  intro s m hp hsrc hl hLate
  dsimp only
  rw [State.arriveIf, arrive_taken hp, if_pos (hok _ hsrc)]
  exact queueCtl_dropped (s := s.took p t it) hLate hl (hd _ _ (passes_form hp))

theorem dropsLate_arriveCtl (hd : ∀ n r, payloadForm p it n r = true → LateDropped p it) :
    DropsLate (fun s => s.arriveCtl p t it) p t it := by
  intro s m hp _ hl hLate
  dsimp only
  rw [State.arriveCtl, arrive_taken hp]
  exact queueCtl_dropped (s := s.took p t it) hLate hl (hd _ _ (passes_form hp))

theorem dropsLate_arriveFe (hRx : feRxOnly (setPay b x 1 1) = true) :
    DropsLate (fun s => s.arriveFe x e g b) .fe e.val (mkItem kFeCtl g (setPay b x 1 1)) := by
  intro s m hp _ hl hLate
  generalize hit : mkItem kFeCtl g (setPay b x 1 1) = it at *
  have hPlace := placeCtl_dropped (s := s.took .fe e.val it) (pc := (takeNet .fe e.val it s.net).2) (lateBy_took.trans hLate) hl
    (hit ▸ lateDropped_feCtl hRx)
  dsimp only [State.arriveFe]
  rw [hit, arrive_taken hp, hPlace]

/-- A command that runs such a stage drops its late items. -/
theorem droppedLate_of_dropsLate {c : Instr} {f : State → State} (hc : ∀ s, exec c s = act f s) (hf : DropsLate f p t it) :
    DroppedLate c p t it := by
  intro s m hs hp hsrc hl hLate
  rw [hc, act_alive hs, hf s.fresh m hp hsrc hl hLate]

end arrival

/-- Settles O59: each kind is dropped for its own form, and the tile's own source meets the check of GAIN and SIC_CTL. -/
theorem lateReceiveItems : Obligations.LateReceiveItems := by
  unfold Obligations.LateReceiveItems
  refine ⟨fun t g b => ?rxfir, fun t g b => ?rxiq, fun t g b => ?gainRx, fun t g b => ?dcFreeze, fun t g b => ?dcRelease,
    fun t g b => ?sicOn, fun t g b => ?sicOff, fun t g b => ?sicSwap, fun t g b => ?sicSnap, fun t g b hRx => ?rxon,
    fun t g b hRx => ?rxoff, fun t g b hRx => ?rxcal, fun t g b hRx => ?carrierOn, fun t g b hRx => ?carrierOff,
    fun t g b hRx => ?carrierRetune⟩
  case rxfir | rxiq =>
    exact droppedLate_of_dropsLate (fun _ => rfl) (dropsLate_arriveCtl fun _ _ h => lateDropped_fltSwap (by decide) h)
  case gainRx =>
    exact droppedLate_of_dropsLate (fun _ => rfl)
      (dropsLate_arriveIf (fun _ _ h => lateDropped_gain h) fun _ hsrc => decide_eq_true hsrc)
  case dcFreeze | dcRelease => exact droppedLate_of_dropsLate (fun _ => rfl) (dropsLate_arriveCtl fun _ _ _ => lateDropped_dcFreeze)
  case sicOn | sicOff | sicSwap | sicSnap =>
    exact droppedLate_of_dropsLate (fun _ => rfl)
      (dropsLate_arriveIf (fun _ _ _ => lateDropped_sicCtl) fun _ hsrc => decide_eq_true hsrc)
  case rxon | rxoff | rxcal => exact droppedLate_of_dropsLate (fun _ => rfl) (dropsLate_arriveFe hRx)
  case carrierOn | carrierOff | carrierRetune =>
    exact droppedLate_of_dropsLate (fun _ => rfl) (dropsLate_arriveCtl fun _ _ h => lateDropped_carrier hRx h)

end Sys2Proof.Machine
end

