-- ==== Sys2Proof/Proofs/DataItems.lean ====
section
/-! PROOF. Data blocks of the baseband (R55, R82, R102, R104, R553): what each check of the stage leaves to do. -/

namespace Sys2Proof.Machine
open Sys2Proof

section data
variable {s : State} {it : Item} {m : Nat} {g : Tag} {b : Bytes}

/-- The mode lets the block in (R553). -/
theorem fromBaseband_admitted {k : State → State} (h : s.admits it.tag = true) : s.fromBaseband it k = k s := by
  have h' : ¬(it.tag.source = 8 && !s.basebandTaken) = true := by
    simp only [State.admits] at h
    cases hb : s.basebandTaken <;> simp_all
  exact if_neg h'

/-- A whole, undamaged block on the start of a symbol, with lead, is kept for it (R82). -/
theorem takeFd_kept (hForm : fdForm it = true)
    (hStart : (s.fftAt .tx it.tag.carrier.toNat (fullTick it.tag.air s.now)).isSymStart (fullTick it.tag.air s.now) = true)
    (hMode : (s.islCarAt .tx it.tag.carrier.toNat (fullTick it.tag.air s.now)).tdmode = false)
    (hDecl : ((s.declsAt it.tag.carrier.toNat it.tag.air).any fun d =>
      fld d.record 0 12 = fdSect it.body && !declHolds d.record it.body) = false)
    (hLead : (m : Int) ≤ lead it.tag.air s.now) (hl : it.tag.late = false) (hd : it.tag.damaged = false) :
    s.takeFd m it = (s.enqueue ⟨.bf, 0, it, it.tag.air, false, 0⟩).tagSwap allTiles 0xFFFF 0 it.tag := by
  simp only [State.takeFd, hForm, hStart, hMode, hDecl, hLead, hl, hd, decide_true, Bool.not_true, Bool.or_self, Bool.false_eq_true,
    if_false, Bool.false_and, if_true]

/-- The span of a time-domain block (R104). -/
def State.tdSpan (s : State) (it : Item) : TdSpan :=
  { path := tdPath it.body, car := it.tag.carrier.toNat, air := it.tag.air, tag := it.tag,
    len := s.tdTicks it.tag.carrier.toNat (tdLen it.body) (fullTick it.tag.air s.now), iq := iqList it.body 8 (tdLen it.body) }

/-- The span meets one of its path and carrier that is kept (R104). -/
def State.tdMeets (s : State) (it : Item) (x : TdSpan) : Bool :=
  x.path = tdPath it.body && x.car = it.tag.carrier.toNat && decide (airDiff it.tag.air x.air < x.len) &&
  decide (airDiff x.air it.tag.air < (s.tdSpan it).len)

/-- A whole, undamaged block with lead, whose span meets no other, is kept for it (R104). -/
theorem takeTd_kept (hForm : tdForm it = true)
    (hMode : (s.carAt (tileOfPath (tdPath it.body)) .tx it.tag.carrier.toNat (fullTick it.tag.air s.now)).tdmode = true)
    (hFree : s.tdSpans.any (s.tdMeets it) = false) (hLead : (m : Int) ≤ lead it.tag.air s.now) (hl : it.tag.late = false)
    (hd : it.tag.damaged = false) :
    s.takeTd m it = (({ s with
      tdSpans := insertSpan (s.tdSpan it)
        (s.tdSpans.filter fun (x : TdSpan) => decide (lead x.air s.now > -(2 ^ 26 : Int))) } : State).enqueue
      ⟨.flt, tileOfPath (tdPath it.body), it, it.tag.air, false, 0⟩).tagSwap [tileOfPath (tdPath it.body)]
        (2 ^ (tdPath it.body % 16)) (tdPath it.body + 1) it.tag := by
  have hNotLate : ¬ lead it.tag.air s.now < (m : Int) := not_lt.mpr hLead
  unfold State.tdMeets State.tdSpan at hFree
  simp only [State.takeTd, hForm, hMode, hNotLate, hl, hd, hFree, decide_false, Bool.not_true, Bool.not_false, Bool.and_false,
    Bool.or_self, Bool.false_eq_true, if_false]
  rfl

end data

theorem runs_fdData {g : Tag} {b : Bytes} : Runs (.fdData g b) (fdDataRule g b) := by
  intro s hs hpre
  simp only [fdDataRule, Bool.and_eq_true, Bool.not_eq_true', decide_eq_true_eq] at hpre ⊢
  obtain ⟨⟨⟨⟨⟨⟨⟨⟨hAdmits, hp⟩, hForm⟩, hStart⟩, hMode⟩, hDecl⟩, hl⟩, hd⟩, hLead⟩ := hpre
  change execFdData g b s = _
  rw [execFdData, act_alive hs]
  dsimp only
  rw [fromBaseband_admitted hAdmits, arrive_taken hp]
  exact congrArg _ (takeFd_kept (s := s.fresh.took .bf 0 (mkItem kFdData g b)) hForm hStart hMode hDecl hLead hl hd)

theorem runs_tdData {g : Tag} {b : Bytes} : Runs (.tdData g b) (tdDataRule g b) := by
  intro s hs hpre
  simp only [tdDataRule, Bool.and_eq_true, Bool.not_eq_true', decide_eq_true_eq] at hpre ⊢
  obtain ⟨⟨⟨⟨⟨⟨⟨hAdmits, hp⟩, hForm⟩, hMode⟩, hl⟩, hd⟩, hLead⟩, hFree⟩ := hpre
  have hFree' : s.fresh.tdSpans.any (s.fresh.tdMeets (mkItem kTdData g b)) = false := by
    rw [← Bool.not_eq_true', List.not_any_eq_all_not]
    exact hFree
  change execTdData g b s = _
  rw [execTdData, act_alive hs]
  dsimp only
  rw [fromBaseband_admitted hAdmits, arrive_taken hp]
  exact congrArg _
    (takeTd_kept (s := s.fresh.took .flt (tileOfPath (tdPath b)) (mkItem kTdData g b)) hForm hMode hFree' hLead hl hd)

/-- Settles O5: with the checks met, either kind is kept as its rule has it. -/
theorem dataItems : Obligations.DataItems := by
  unfold Obligations.DataItems
  exact ⟨fun _ _ => runs_fdData, fun _ _ => runs_tdData⟩

end Sys2Proof.Machine
end

