-- ==== Sys2Proof/Proofs/StopItems.lean ====
section
/-! PROOF. STOP items and resumes (R68-R71, R106, R181): a late STOP differs from one on time by its air time and a count (R69). -/

namespace Sys2Proof.Machine
open Sys2Proof

section stop
variable {s : State} {p : Port} {k m : Nat} {it : Item} {a : Air}

theorem takeStop_onTime (h : (if it.tag.late then none else s.lateBy p k it) = none) : s.takeStop p k it = s.stopsAt p k it it.tag.air := by
  simp only [State.takeStop, h]
  rfl

theorem takeStop_late (h : (if it.tag.late then none else s.lateBy p k it) = some m) :
    s.takeStop p k it = (s.bump (domCounter p k .latecnt)).stopsAt p k it (airOf ((s.now.toNat : Int) + m)) := by
  simp only [State.takeStop, h]
  rfl

/-- A STOP that passes stops its functions. -/
theorem arriveStop_stop (hp : s.passes p k it = true) (hs : pbit it.body 0 = false) :
    s.arriveStop p k it = (s.took p k it).takeStop p k it := by
  rw [State.arriveStop, arrive_taken hp, if_neg (by simp [hs])]

end stop

section commands
variable {c : Instr} {p : Port} {t : Tile} {g : Tag} {b : Bytes}

theorem stopsInTime_of_arriveStop {k : Nat} {it : Item} (hc : ∀ s, exec c s = act (fun s => s.arriveStop p k it) s) :
    StopsInTime c p k it := by
  intro s hs hp hstop hl
  rw [hc, act_alive hs, arriveStop_stop hp hstop]
  have hNotLate : ¬ it.tag.late = true := by simp [hl]
  exact ⟨fun h => congrArg _ (takeStop_onTime (s := s.fresh.took p k it) ((if_neg hNotLate).trans h)),
    fun m h => congrArg _ (takeStop_late (s := s.fresh.took p k it) ((if_neg hNotLate).trans h))⟩

theorem runs_stopItem (hc : ∀ s, exec c s = act (fun s => s.arriveStop p (portTile p t.val) (mkItem kStop g b)) s) :
    Runs c (stopItem p t b g) := by
  intro s hs hpre
  simp only [stopItem, Bool.and_eq_true, Bool.not_eq_true'] at hpre
  obtain ⟨hp, hstop⟩ := hpre
  rw [hc, act_alive hs, arriveStop_stop hp hstop]
  refine congrArg _ ?_
  dsimp only [stopItem]
  split
  · next h => exact takeStop_onTime h
  · next m h => exact takeStop_late h

/-- A resume on time of a source that may resume clears QUIESCENT and is queued (R71). -/
theorem runs_stopResume : Runs (.stopResume p t g b) (stopResumeRule p t g b) := by
  intro s hs hpre
  simp only [stopResumeRule, Bool.and_eq_true] at hpre
  obtain ⟨⟨⟨hp, ht⟩, hresume⟩, hallowed⟩ := hpre
  obtain ⟨hl, hn⟩ := onTime_iff.mp ht
  change execStopResume p t g b s = _
  rw [execStopResume, act_alive hs, State.arriveStop, arrive_taken hp, if_pos hresume]
  have hNotRefused : ¬(!s.fresh.resumeAllowed (portTile p t.val) (mkItem kStop g (setPay b 0 1 1)).body g.source) = true := by
    rw [hallowed]
    decide
  refine congrArg _ ?_
  simp only [State.takeResume, lateBy_took, hl, hn, Bool.false_eq_true, if_false]
  exact if_neg hNotRefused

end commands

/-- Settles O55: each of the three hands its item to the common STOP. -/
theorem stopTimes : Obligations.StopTimes := by
  unfold Obligations.StopTimes
  exact ⟨fun _ _ _ _ => stopsInTime_of_arriveStop fun _ => rfl, fun _ _ _ _ => stopsInTime_of_arriveStop fun _ => rfl,
    fun _ _ _ _ => stopsInTime_of_arriveStop fun _ => rfl⟩

end Sys2Proof.Machine
end

