-- ==== Sys2Proof/Proofs/SquashItems.lean ====
section
/-! PROOF. A squash that is late for no carrier (R64, R66, R70, R127, R183, R218, R230): it takes all that it hits, and leaves nothing
that it hits to be marked or judged by its own lead. -/

namespace Sys2Proof.Machine
open Sys2Proof

section squash
variable {s : State} {p : Port} {t : Nat} {g : Tag}

theorem squashTakes_onTime : s.squashTakes p t g [] = fun x => squashHits g x.tag := by
  funext x
  simp [State.squashTakes]

theorem discardDecls_congr {p q : Decl → Bool} (h : ∀ d, p d = q d) : s.discardDecls p = s.discardDecls q := by rw [funext h]

theorem discardWins_congr {p q : SrsWin → Bool} (h : ∀ w, p w = q w) : s.discardWins p = s.discardWins q := by rw [funext h]

/-- A list without what is hit has nothing to mark. -/
theorem map_filter_unhit {α : Type} {l : List α} {hit : α → Bool} {mark : α → α} (h : ∀ x, hit x = false → mark x = x) :
    (l.filter fun x => !hit x).map mark = l.filter fun x => !hit x :=
  (List.map_congr_left fun x hx => h x (by simpa using (List.mem_filter.mp hx).2)).trans (List.map_id _)

/-- At the beamformer no declaration and no window that is hit remains to be marked LATE (R66, R183). -/
theorem squashBeam_onTime : s.squashBeam g [] =
    (s.discardDecls fun d => squashHits g d.tag).discardWins fun w => squashHits g w.tag := by
  unfold State.squashBeam
  dsimp only
  rw [discardDecls_congr (q := fun d => squashHits g d.tag) fun d => ?gone,
    discardWins_congr (q := fun w => squashHits g w.tag) fun w => ?goneW]
  case gone =>
    rw [squashTakes_onTime]
    cases d.dir <;> simp [declItem]
  case goneW => simp
  generalize hu : (s.discardDecls fun d => squashHits g d.tag).discardWins (fun w => squashHits g w.tag) = u
  have hDecls : u.decls = s.decls.filter fun d => !squashHits g d.tag := by rw [← hu]; rfl
  have hWins : u.rx.wins = s.rx.wins.filter fun w => !squashHits g w.tag := by rw [← hu]; rfl
  have hMarkDecls : (u.decls.map fun d => if d.dir = .rx then
      { d with tag := if squashHits g d.tag then { d.tag with late := true } else d.tag } else d) = u.decls := by
    rw [hDecls]
    exact map_filter_unhit fun d hd => by simp [hd]
  have hMarkWins : (u.rx.wins.map fun w =>
      { w with tag := if squashHits g w.tag then { w.tag with late := true } else w.tag }) = u.rx.wins := by
    rw [hWins]
    exact map_filter_unhit fun w hw => by simp [hw]
  rw [hMarkDecls, hMarkWins]

section syncs
variable {hit : SyncReset → Bool}

theorem losesDirs_iff {y : SyncReset} : (!(y.dirs.all fun _ => !hit y)) = (!y.dirs.isEmpty && hit y) := by
  cases y.dirs <;> cases hit y <;> simp

/-- A SYNC_RESET that is hit loses all its directions, and any other none (R218). -/
theorem filter_map_losesDirs {l : List SyncReset} :
    (l.map fun y => { y with dirs := y.dirs.filter fun _ => !hit y }).filter (fun y => !y.dirs.isEmpty) =
      l.filter fun y => !y.dirs.isEmpty && !hit y := by
  induction l with
  | nil => rfl
  | cons y l ih => cases hHit : hit y <;> simp [hHit, ih, List.filter_cons]

end syncs

/-- The SYNC_RESETs of a tile that a squash hits leave, each counted once (R218). -/
def State.syncsLeave (s : State) (t : Nat) (g : Tag) : State :=
  let gone := fun (y : SyncReset) => y.tile = t && squashHits g y.tag
  ({ s with rx := { s.rx with syncs := s.rx.syncs.filter fun y => !y.dirs.isEmpty && !gone y } } : State).bumpBy
    (domCounter .flt t .discard) (s.rx.syncs.filter fun y => !y.dirs.isEmpty && gone y).length

theorem syncsLeave_eq : ({ s with rx := { s.rx with syncs := s.rx.syncs.filter fun y =>
    !y.dirs.isEmpty && !(y.tile = t && squashHits g y.tag) } } : State).bumpBy (domCounter .flt t .discard)
      (s.rx.syncs.filter fun y => !y.dirs.isEmpty && (y.tile = t && squashHits g y.tag)).length = s.syncsLeave t g := rfl

theorem squashSyncs_onTime : s.squashSyncs t g false = s.syncsLeave t g := by
  have hLost := fun y => losesDirs_iff (hit := fun x => x.tile = t && squashHits g x.tag) (y := y)
  have hKept := filter_map_losesDirs (hit := fun x => x.tile = t && squashHits g x.tag) (l := s.rx.syncs)
  simp only [State.squashSyncs, Bool.false_and, Bool.or_false, hLost, hKept]
  exact syncsLeave_eq

end squash

theorem commitItem_tag {d : Dir} {c : BeamCommit} : (commitItem d c).tag = c.tag := by cases d <;> rfl

/-- A squash stays in force for what arrives later, and passes on with tag `x` (R64). -/
def State.squashPasses (s : State) (p : Port) (t : Nat) (g x : Tag) : State :=
  (if s.squashes.contains ⟨p, t, g.stream, g.air, g.epoch⟩ then s
    else { s with squashes := s.squashes ++ [⟨p, t, g.stream, g.air, g.epoch⟩] }).emitOut (.block (portNum p) x [])

theorem squashPasses_eq {s : State} {p : Port} {t : Nat} {g x : Tag} :
    (if s.squashes.contains ⟨p, t, g.stream, g.air, g.epoch⟩ then s
      else { s with squashes := s.squashes ++ [⟨p, t, g.stream, g.air, g.epoch⟩] }).emitOut (.block (portNum p) x []) =
      s.squashPasses p t g x := rfl

/-- What a squash that is late for no carrier leaves of the items and stops of a stage, and of its swaps (R64, R70, R127). -/
def State.squashQueues (s : State) (p : Port) (t : Nat) (g : Tag) : State :=
  ((s.discardQueued p t fun x => squashHits g x.item.tag).squashFns p t (squashHits g)).squashPend p t (squashHits g)

/-- And of what its stage alone holds (R64, R183, R218, R230). -/
def State.squashOwn (s : State) (p : Port) (t : Nat) (g : Tag) : State :=
  match p with
  | .bf =>
    ((s.discardDecls fun d => squashHits g d.tag).discardWins fun w => squashHits g w.tag).discardCommits fun _ c => squashHits g c.tag
  | .cap => s.capDiscard (squashHits g)
  | .flt => (s.syncsLeave t g).discardSpans t fun x => squashHits g x.tag
  | _ => s

theorem squashItemRule_eff {s : State} {p : Port} {t : Tile} {g : Tag} {b : Bytes} : (squashItemRule p t g b).eff s =
    (((s.took p (portTile p t.val) (mkItem kSquash g b)).squashQueues p (portTile p t.val) (mkItem kSquash g b).tag).squashOwn p
      (portTile p t.val) (mkItem kSquash g b).tag).squashPasses p (portTile p t.val) g (mkItem kSquash g b).tag := by
  unfold squashItemRule
  simp only [squashPasses_eq]
  cases p with
  | flt => simp only [syncsLeave_eq]; rfl
  | _ => rfl

/-- A squash that is late for no carrier discards, at each stage, what it hits; it stays in force and passes on (R64, R70). -/
theorem takeSquash_onTime {s : State} {p : Port} {t : Nat} {it : Item} (hl : it.tag.late = false) (hc : s.lateCars p t it = []) :
    s.takeSquash p t it = ((s.squashQueues p t it.tag).squashOwn p t it.tag).squashPasses p t it.tag it.tag := by
  unfold State.takeSquash
  simp only [hl, hc, Bool.false_eq_true, if_false, List.map_nil, List.isEmpty_nil, if_true, squashTakes_onTime, List.foldl_nil,
    Bool.not_true, commitItem_tag, squashBeam_onTime, squashSyncs_onTime, squashPasses_eq]
  rfl

theorem runs_squashItem {p : Port} {t : Tile} {g : Tag} {b : Bytes} : Runs (.squashItem p t g b) (squashItemRule p t g b) := by
  intro s hs hpre
  simp only [squashItemRule, Bool.and_eq_true, Bool.not_eq_true', List.isEmpty_iff] at hpre
  obtain ⟨⟨hp, hl⟩, hc⟩ := hpre
  change execSquashItem p t g b s = _
  rw [execSquashItem, act_alive hs]
  dsimp only
  rw [arrive_taken hp, squashItemRule_eff]
  exact congrArg _ (takeSquash_onTime (s := s.fresh.took p (portTile p t.val) (mkItem kSquash g b)) hl hc)

/-- Settles O8: the three STOPs are one rule, and a resume and a squash have each their own. -/
theorem stopAndSquashItems : Obligations.StopAndSquashItems := by
  unfold Obligations.StopAndSquashItems
  exact ⟨fun _ _ _ _ => runs_stopItem fun _ => rfl, fun _ _ _ _ => runs_stopItem fun _ => rfl,
    fun _ _ _ _ => runs_stopItem fun _ => rfl, fun _ _ _ _ => runs_stopResume, fun _ _ _ _ => runs_squashItem⟩

end Sys2Proof.Machine
end

