-- ==== Sys2Proof/Proofs/StopProgress.lean ====
section
/-! PROOF. Stop times and quiescence, paths out of service, reset points, and the fades and records of the linearisation (R68, R106,
R123, R138, R181, R187, R218, R220). -/

namespace Sys2Proof.Machine
open Sys2Proof

/-- A command whose premises bring it to the effect of its rule follows the rule. -/
theorem runs_of_act {c : Instr} {f : State → State} {r : Rule} (e : State → Host.Outcome State Fault Refusal) (he : e = act f)
    (hc : ∀ s, exec c s = e s) (hf : ∀ s : State, r.pre s = true → f s = r.eff s) : Runs c r := by
  intro s hs hpre
  rw [hc, he, act_alive hs, hf _ hpre]

section stops
variable {f : FnCode} {t : Tile}

/-- At the stop time of a function that has one (R68, R106). -/
theorem runs_stopTimeReached : Runs (.stopTimeReached f t) (stopTimeReachedRule f t) := by
  refine runs_of_act (execStopTimeReached f t) rfl (fun _ => rfl) fun s hpre => ?_
  obtain ⟨a, hStop, hReached⟩ : ∃ a, (s.fnOf f.val (fnTile f.val t.val)).stopAt = some a ∧ ¬ lead a s.now > 0 := by
    simp only [stopTimeReachedRule] at hpre
    split at hpre
    · next a hStop => exact ⟨a, hStop, not_lt.mpr (of_decide_eq_true hpre)⟩
    · cases hpre
  simp only [stopTimeReachedRule, hStop, hReached, if_false, Option.getD_some]
  split <;> rfl

/-- The STOPs of a function that are due (R106). -/
def State.dueStops (s : State) (f : Nat) (x : FnSt) : List StopReq := x.stops.filter fun y => !stopWaits f s y

/-- The function still runs, for a STOP that is due (R68, R106). -/
def State.runsOn (s : State) (f k : Nat) (x : FnSt) : Bool :=
  if isPathFn f then
    (s.dueStops f x).any (fun y => s.stillRuns f k (stopMask y.body) y.tag.air) ||
      s.pathStops.any fun y => y.rx = decide (f = 18) && decide (lead y.tag.air s.now ≤ 0)
  else s.stillRuns f k 0 (x.stopAt.getD 0)

theorem dueStops_isEmpty {s : State} {n : Nat} {x : FnSt} (h : (x.stops.any fun y => !stopWaits n s y) = true) :
    (s.dueStops n x).isEmpty = false := by
  obtain ⟨y, hy, hDue⟩ := List.any_eq_true.mp h
  exact List.isEmpty_eq_false_iff_exists_mem.mpr ⟨y, List.mem_filter.mpr ⟨hy, hDue⟩⟩

/-- That no STOP of a path function is due and still runs, said of each STOP that it has. -/
theorem runsOn_eq {s : State} {n k : Nat} {x : FnSt} : s.runsOn n k x = !(if isPathFn n then
      (x.stops.all fun y => stopWaits n s y || !s.stillRuns n k (stopMask y.body) y.tag.air) &&
        s.pathStops.all fun y => !(y.rx = decide (n = 18)) || decide (lead y.tag.air s.now > 0)
    else !s.stillRuns n k 0 (x.stopAt.getD 0)) := by
  unfold State.runsOn State.dueStops
  split
  · simp only [List.any_filter, Bool.not_and, List.not_all_eq_any_not, Bool.not_or, Bool.not_not, decide_not, ← not_lt,
      gt_iff_lt]
  · rw [Bool.not_not]

theorem dueStops_filter {s : State} {n : Nat} {x : FnSt} {p : StopReq → Bool} :
    (s.dueStops n x).filter p = x.stops.filter fun y => !stopWaits n s y && p y := by
  rw [State.dueStops, List.filter_filter]
  exact congrArg (List.filter · x.stops) (funext fun _ => Bool.and_comm ..)

/-- A stopped function that no longer runs, where a STOP is due (R68). -/
theorem runs_quiescence : Runs (.quiescence f t) (quiescenceRule f t) := by
  refine runs_of_act (execQuiescence f t) rfl (fun _ => rfl) fun s hpre => ?_
  simp only [quiescenceRule, Bool.and_eq_true] at hpre ⊢
  obtain ⟨⟨hStopped, hDue⟩, hIdle⟩ := hpre
  generalize s.fnOf f.val (fnTile f.val t.val) = x at *
  have hRuns : s.runsOn f.val (fnTile f.val t.val) x = false := by
    rw [runsOn_eq, hIdle]
    rfl
  have hGo : ¬((s.dueStops f.val x).isEmpty || !x.stopped || s.runsOn f.val (fnTile f.val t.val) x) = true := by
    rw [dueStops_isEmpty hDue, hStopped, hRuns]
    decide
  refine (if_neg hGo).trans ?_
  rw [← dueStops_filter]
  rfl

end stops

section paths
variable {p : Path}

theorem runs_pathPowerDown_rx : Runs (.pathPowerDown p true) (pathPowerDownRule p) :=
  runs_of_act (execPathPowerDown p true) rfl (fun _ => rfl) fun _ hpre => if_pos hpre

theorem runs_pathPowerDown_tx : Runs (.pathPowerDown p false) (pathPowerDownTxRule p) :=
  runs_of_act (execPathPowerDown p false) rfl (fun _ => rfl) fun _ hpre => if_pos hpre

theorem runs_cancellerOffTailEnd : Runs (.cancellerOffTailEnd p) (cancellerOffTailEndRule p) := by
  refine runs_of_act (execCancellerOffTailEnd p) rfl (fun _ => rfl) fun s hpre => ?_
  obtain ⟨e, hOff, hEnded⟩ : ∃ e, tget (fun _ => none) s.lin.sicOff p.val = some e ∧ e ≤ s.now.toNat := by
    simp only [cancellerOffTailEndRule] at hpre
    split at hpre
    · next e hOff => exact ⟨e, hOff, of_decide_eq_true hpre⟩
    · cases hpre
  simp only [cancellerOffTailEndRule, hOff]
  exact if_pos hEnded

end paths

/-- The warm-up spans of a tile's reset points: half a span's length is a number in the rule and an integer in the command (R218, R220). -/
theorem runs_syncResetT0 {t : Tile} : Runs (.syncResetT0 t) (syncResetT0Rule t) := by
  refine runs_of_act (execSyncResetT0 t) rfl (fun _ => rfl) fun s _ => ?_
  simp only [syncResetT0Rule, Nat.cast_ite, Nat.cast_zero]

/-- A fade that has run its length, with no swap pending (R123). -/
theorem runs_fadeEnd {f : FadeId} : Runs (.fadeEnd f) (fadeEndRule f) := by
  refine runs_of_act (execFadeEnd f) rfl (fun _ => rfl) fun s hpre => ?_
  obtain ⟨d, hFade, hRun, hPend⟩ : ∃ d, (s.selOf (selKey f)).fade = some d ∧
      ¬ s.now.toNat < d.start + 2 ^ d.k * s.fadeTick f ∧ (s.selOf (selKey f)).pend = none := by
    simp only [fadeEndRule] at hpre
    split at hpre
    · next d hFade =>
      simp only [Bool.and_eq_true, decide_eq_true_eq, Option.isNone_iff_eq_none] at hpre
      exact ⟨d, hFade, not_lt.mpr hpre.1, hpre.2⟩
    · cases hpre
  simp only [fadeEndRule, hFade, hPend, hRun, if_false]

section records
variable {r : RecId}

theorem runs_recordLineFailure : Runs (.recordLineFailure r) (recordLineFailureRule r) :=
  runs_of_act (execRecordLineFailure r) rfl (fun _ => rfl) fun _ _ => by cases r <;> rfl

theorem runs_recordRebuild : Runs (.recordRebuild r) (recordRebuildRule r) :=
  runs_of_act (execRecordRebuild r) rfl (fun _ => rfl) fun _ hpre => if_pos hpre

end records

/-- Settles O11: each command by its own premises. -/
theorem stopProgress : Obligations.StopProgress := by
  unfold Obligations.StopProgress
  exact ⟨fun _ _ => runs_stopTimeReached, fun _ _ => runs_quiescence, fun _ => runs_pathPowerDown_rx, fun _ => runs_pathPowerDown_tx,
    fun _ => runs_syncResetT0, fun _ => runs_cancellerOffTailEnd, fun _ => runs_fadeEnd, fun _ => runs_recordLineFailure,
    fun _ => runs_recordRebuild⟩

end Sys2Proof.Machine
end

