-- ==== Sys2Proof/Proofs/SequencerAlu.lean ====
section
/-! PROOF. The ALU instructions of a sequencer on two registers (R42, R298, R325, R327): each result and flag as arithmetic of 64-bit
numbers. -/

namespace Sys2Proof.Machine
open Sys2Proof

/-! ## Results and flags -/

section words
variable {x y : BitVec 64}

theorem getLsbD_63 : x.getLsbD 63 = x.msb := (BitVec.msb_eq_getLsbD_last x).symm

theorem overflows_add_eq_saddOverflow : overflows (x.toInt + y.toInt) = x.saddOverflow y := by
  rw [overflows, Bool.decide_or, Bool.or_comm]
  rfl

theorem overflows_sub_eq_ssubOverflow : overflows (x.toInt - y.toInt) = x.ssubOverflow y := by
  rw [overflows, Bool.decide_or, Bool.or_comm]
  rfl

/-- A sum leaves what 64 signed bits hold exactly when two terms of one sign give the other sign. -/
theorem addFlags_eq : addFlags x y =
    (x + y, zncv (x + y) (decide (2 ^ 64 ≤ x.toNat + y.toNat)) (overflows (x.toInt + y.toInt))) := by
  have hSign : (decide (x.getLsbD 63 = y.getLsbD 63) && decide ((x + y).getLsbD 63 ≠ x.getLsbD 63)) = x.saddOverflow y := by
    rw [BitVec.saddOverflow_eq, getLsbD_63, getLsbD_63, getLsbD_63]
    cases x.msb <;> cases y.msb <;> cases (x + y).msb <;> rfl
  rw [overflows_add_eq_saddOverflow, ← hSign]
  rfl

/-- A difference does so exactly when the terms have two signs and the result has not the first one's. -/
theorem subFlags_eq : subFlags x y =
    (x - y, zncv (x - y) (decide (x.toNat < y.toNat)) (overflows (x.toInt - y.toInt))) := by
  have hSign : (decide (x.getLsbD 63 ≠ y.getLsbD 63) && decide ((x - y).getLsbD 63 ≠ x.getLsbD 63)) = x.ssubOverflow y := by
    rw [BitVec.ssubOverflow_eq, getLsbD_63, getLsbD_63, getLsbD_63]
    cases x.msb <;> cases y.msb <;> cases (x - y).msb <;> rfl
  rw [overflows_sub_eq_ssubOverflow, ← hSign]
  rfl

theorem ofInt_min : BitVec.ofInt 64 (min x.toInt y.toInt) = if x.toInt < y.toInt then x else y := by
  split
  · next h => rw [min_eq_left h.le, BitVec.ofInt_toInt]
  · next h => rw [min_eq_right (not_lt.mp h), BitVec.ofInt_toInt]

theorem ofInt_max : BitVec.ofInt 64 (max x.toInt y.toInt) = if y.toInt < x.toInt then x else y := by
  split
  · next h => rw [max_eq_left h.le, BitVec.ofInt_toInt]
  · next h => rw [max_eq_right (not_lt.mp h), BitVec.ofInt_toInt]

/-- The lead of two air times, sign-extended (R42). -/
theorem ofInt_airDiff : BitVec.ofInt 64 (airDiff (x.truncate 40) (y.truncate 40)) =
    (x.truncate 40 - y.truncate 40 : BitVec 40).signExtend 64 := rfl

/-- A sum modulo 2^40 (R42). -/
theorem ofNat_add_mod : BitVec.ofNat 64 ((x.toNat + y.toNat) % 2 ^ 40) = (x + y) &&& 0xFFFFFFFFFF := by
  refine BitVec.eq_of_toNat_eq ?_
  have hMask : (0xFFFFFFFFFF : BitVec 64).toNat = 2 ^ 40 - 1 := rfl
  rw [BitVec.toNat_and, hMask, Nat.and_two_pow_sub_one_eq_mod, BitVec.toNat_add, BitVec.toNat_ofNat]
  omega

/-- A shift amount counts modulo 64 (R327). -/
theorem fld_shift : fld y 0 6 = y.toNat % 64 := by simp [fld, nbits]

/-- Division by zero gives all ones (R327). -/
theorem divu_eq : (if y.toNat = 0 then BitVec.allOnes 64 else BitVec.ofNat 64 (x.toNat / y.toNat)) =
    if y = 0 then 0xFFFFFFFFFFFFFFFF else BitVec.ofNat 64 (x.toNat / y.toNat) := by
  have hZero : y.toNat = 0 ↔ y = 0 := BitVec.toNat_inj (y := 0)
  simp only [hZero]
  rfl

end words

/-! ## The instructions -/

section instructions
variable {k : Seq} {d a b : GReg} {c : Instr} {f : BitVec 64 → BitVec 64 → BitVec 64 × BitVec 4}

/-- An instruction on two registers writes the function's result and flags, and goes on (R298, R325). -/
theorem runs_seqRR {g : SeqSt → SeqSt} (hc : ∀ s, exec c s = act (fun s => s.seqRR k.val d a b f) s)
    (hg : ∀ q : SeqSt, g q = (q.setG d (f (q.reg a) (q.reg b)).1).setZncv (f (q.reg a) (q.reg b)).2) :
    Runs c (seqOwn k.val (fun _ => true) fun _ q => g q) := by
  intro s hs hpre
  simp only [seqOwn, Bool.and_eq_true] at hpre ⊢
  obtain ⟨⟨hReady, hNext⟩, -⟩ := hpre
  rw [hc, act_alive hs, State.seqRR, State.seqAlu, seqReg_ready hReady hNext (by rw [setZncv_pc, setG_pc]), hg]

/-- One that clears C and V: its result alone is to be shown (R325). -/
theorem runs_aluRule {r : BitVec 64 → BitVec 64 → BitVec 64} {v : SeqSt → BitVec 64}
    (hc : ∀ s, exec c s = act (fun s => s.seqRR k.val d a b fun p q => aluFlags (r p q)) s)
    (hv : ∀ q : SeqSt, v q = r (q.reg a) (q.reg b)) : Runs c (aluRule k d true v) :=
  runs_seqRR hc fun q => by rw [hv]; rfl

end instructions

/-- Settles O17: ADD and SUB by their flags, and the others by their results. -/
theorem sequencerAlu : Obligations.SequencerAlu := by
  unfold Obligations.SequencerAlu
  refine ⟨fun k d a b => ?add, fun k d a b => ?sub, fun k d a b => ?and, fun k d a b => ?or, fun k d a b => ?xor, fun k d a b => ?sll,
    fun k d a b => ?srl, fun k d a b => ?sra, fun k d a b => ?mul, fun k d a b => ?slt, fun k d a b => ?sltu, fun k d a b => ?min,
    fun k d a b => ?max, fun k d a b => ?lead40, fun k d a b => ?add40, fun k d a b => ?divu⟩
  case add => exact runs_seqRR (f := addFlags) (fun _ => rfl) fun q => by rw [addFlags_eq]; rfl
  case sub => exact runs_seqRR (f := subFlags) (fun _ => rfl) fun q => by rw [subFlags_eq]; rfl
  case and => exact runs_aluRule (r := fun p q => p &&& q) (fun _ => rfl) fun _ => rfl
  case or => exact runs_aluRule (r := fun p q => p ||| q) (fun _ => rfl) fun _ => rfl
  case xor => exact runs_aluRule (r := fun p q => p ^^^ q) (fun _ => rfl) fun _ => rfl
  case sll => exact runs_aluRule (r := fun p q => p <<< fld q 0 6) (fun _ => rfl) fun q => by rw [fld_shift]
  case srl => exact runs_aluRule (r := fun p q => p >>> fld q 0 6) (fun _ => rfl) fun q => by rw [fld_shift]
  case sra => exact runs_aluRule (r := fun p q => p.sshiftRight (fld q 0 6)) (fun _ => rfl) fun q => by rw [fld_shift]
  case mul => exact runs_aluRule (r := fun p q => p * q) (fun _ => rfl) fun _ => (BitVec.mul_def ..).symm
  case slt => exact runs_aluRule (r := fun p q => if p.toInt < q.toInt then 1 else 0) (fun _ => rfl) fun _ => rfl
  case sltu => exact runs_aluRule (r := fun p q => if p.toNat < q.toNat then 1 else 0) (fun _ => rfl) fun _ => rfl
  case min => exact runs_aluRule (r := fun p q => if p.toInt < q.toInt then p else q) (fun _ => rfl) fun _ => ofInt_min
  case max => exact runs_aluRule (r := fun p q => if q.toInt < p.toInt then p else q) (fun _ => rfl) fun _ => ofInt_max
  case lead40 =>
    exact runs_aluRule (r := fun p q => (p.truncate 40 - q.truncate 40 : BitVec 40).signExtend 64) (fun _ => rfl) fun _ => ofInt_airDiff
  case add40 => exact runs_aluRule (r := fun p q => (p + q) &&& 0xFFFFFFFFFF) (fun _ => rfl) fun _ => ofNat_add_mod
  case divu =>
    exact runs_aluRule (r := fun p q => if q = 0 then 0xFFFFFFFFFFFFFFFF else BitVec.ofNat 64 (p.toNat / q.toNat)) (fun _ => rfl)
      fun _ => divu_eq

end Sys2Proof.Machine
end

