-- ==== Sys2Proof/Proofs/ItemsTakeEffect.lean ====
section
/-! PROOF. A stage's due item (R50, R56, R57), and what four kinds of item set when they act (R40, R88, R89, R97). -/

namespace Sys2Proof.Machine
open Sys2Proof

section due
variable {s : State} {p : Port} {t : Nat} {late : Bool} {x : QItem}

/-- A due item that goes first and conflicts with none acts and leaves its queue. -/
theorem applyDue_alone (hx : s.dueItem p t late = some x) (hf : s.firstOfConflict x = x) (hc : s.conflicts x = false) :
    s.applyDue p t late = ({ s with queue := dropItem x s.queue } : State).applyItem x := by
  simp only [State.applyDue, hx, hf, hc, Bool.false_eq_true, if_false]

/-- A command that lets the due item of a stage act follows its rule. -/
theorem runs_applies {c : Instr}
    (hc : ∀ s, exec c s = act (fun s => if s.gated p t || s.portFenced p t then s else s.applyDue p t late) s) :
    Runs c (applies p t late) := by
  intro s hs hpre
  rw [hc, act_alive hs]
  simp only [applies, Bool.and_eq_true, Bool.not_eq_true'] at hpre ⊢
  obtain ⟨⟨hGated, hFenced⟩, hItem⟩ := hpre
  cases hDue : s.fresh.dueItem p t late with
  | none => simp [hDue] at hItem
  | some x =>
    obtain ⟨hFirst, hAlone⟩ : s.fresh.firstOfConflict x = x ∧ s.fresh.conflicts x = false := by simpa [hDue] using hItem
    simp only [hGated, hFenced, Bool.or_self, Bool.false_eq_true, if_false, applyDue_alone hDue hFirst hAlone]

end due

/-- Settles O10: both commands let the due item act, on time and late. -/
theorem itemsTakeEffect : Obligations.ItemsTakeEffect := by
  unfold Obligations.ItemsTakeEffect
  exact ⟨fun _ _ => runs_applies fun _ => rfl, fun _ _ => runs_applies fun _ => rfl⟩

section kinds
variable {s t : State} {x : QItem}

theorem applyItem_wola (h : x.item.tag.kind = kWola) : s.applyItem x = s.applyWola x := by
  unfold State.applyItem
  rw [h]
  rfl

theorem applyItem_cfrCfg (h : x.item.tag.kind = kCfrCfg) : s.applyItem x = s.applyCfrCfg x := by
  unfold State.applyItem
  rw [h]
  rfl

theorem applyItem_gain (h : x.item.tag.kind = kGain) :
    s.applyItem x = if pbit x.item.body 16 then s.applyGainRx x else s.applyGainTx x := by
  unfold State.applyItem
  rw [h]
  rfl

theorem applyItem_marker (h : x.item.tag.kind = kMarker) : s.applyItem x = s.passMarker x := by
  unfold State.applyItem
  rw [h]
  rfl

end kinds

/-- Settles O58: the kind of the item names the operation, which is what the statement writes out. -/
theorem appliedParameters : Obligations.AppliedParameters := by
  unfold Obligations.AppliedParameters
  intro x s t h
  simp only [appliedValues] at h
  split at h
  · next hWola =>
    rw [applyItem_wola hWola]
    exact Option.some.inj h
  split at h
  · next hCfr =>
    rw [applyItem_cfrCfg hCfr]
    exact Option.some.inj h
  split at h
  · next hGain =>
    split at h
    · cases h
    · next hTx =>
      rw [applyItem_gain hGain, if_neg hTx]
      exact Option.some.inj h
  split at h
  · next hMarker =>
    rw [applyItem_marker hMarker]
    exact Option.some.inj h
  · cases h

end Sys2Proof.Machine
end

