-- ==== Sys2Proof/Proofs/EpochOrder.lean ====
section
/-! PROOF. The order of epochs (R63). -/

namespace Sys2Proof.Machine
open Sys2Proof

/-- The order of epochs is read off their difference as a byte (R63). -/
theorem older_iff {e E : BitVec 8} :
    older e E = true ↔ 1 ≤ (E.toNat + 256 - e.toNat) % 256 ∧ (E.toNat + 256 - e.toNat) % 256 ≤ 127 := by
  have hDiff : (E - e).toNat = (E.toNat + 256 - e.toNat) % 256 := by bv_omega
  simp only [older, hDiff, decide_eq_true_eq]

/-- Settles O56: a squash asks for an older epoch. -/
theorem epochOrder : Obligations.EpochOrder := by
  unfold Obligations.EpochOrder
  refine ⟨fun _ _ => older_iff, fun g x h => ?_⟩
  have hNot : older x.epoch g.epoch = false := by
    rw [Bool.eq_false_iff, ne_eq, older_iff]
    omega
  rw [squashHits, hNot, Bool.and_false]

end Sys2Proof.Machine
end

