-- ==== Sys2Proof/Proofs/BeamCommits.lean ====
section
/-! PROOF. Commits of several directions (R231): each direction is judged by its own region and its own lead, and taking one commit
changes neither of another direction. -/

namespace Sys2Proof.Machine
open Sys2Proof

section commit
variable {s t : State} {d e : Dir} {r q : Region} {x : RegionSt} {b : Bank} {a : Air} {g : Tag} {core : Option Nat} {it : Item}
  {ds : List Dir}

theorem regionSt_setRegion_ne (h : d ≠ e) : (s.setRegion e r x).regionSt d q = s.regionSt d q := by
  refine tget_tput_ne fun hKey => h ?_
  cases d <;> cases e <;> cases q <;> cases r <;> simp [dirNum, regionNum] at hKey ⊢

/-- A commit that its region accepts, with lead (R231, R235). -/
def State.commitReady (s : State) (r : Region) (b : Bank) (it : Item) (d : Dir) : Prop :=
  s.lateBy .bf 0 (commitFor it d) = none ∧ (s.regionSt d r).fate b = .accepted

/-- An accepted commit is written into its region and nowhere else (R231). -/
theorem commitOne_accepted (h : (s.regionSt d r).fate b = .accepted) :
    ∃ x, s.commitOne d r b a g core = (s.setRegion d r x, .accepted) := by
  unfold State.commitOne
  dsimp only
  rw [h]
  exact ⟨_, rfl⟩

theorem commitReady_commitOne (hne : d ≠ e) (he : (s.regionSt e r).fate b = .accepted) (hd : s.commitReady r b it d) :
    (s.commitOne e r b a g core).1.commitReady r b it d := by
  obtain ⟨x, hx⟩ := commitOne_accepted (a := a) (g := g) (core := core) he
  obtain ⟨hLate, hFate⟩ := hd
  rw [hx]
  refine ⟨hLate, ?_⟩
  dsimp only
  rwa [regionSt_setRegion_ne hne]

/-- A stage that takes each commit that is ready takes all of them, one after another. -/
theorem foldl_commitOne {f : State → Dir → State} (hf : ∀ s d, s.commitReady r b it d → f s d = (s.commitOne d r b a g core).1)
    (hNodup : ds.Nodup) (h : ∀ d ∈ ds, s.commitReady r b it d) :
    ds.foldl f s = ds.foldl (fun s d => (s.commitOne d r b a g core).1) s := by
  induction ds generalizing s with
  | nil => rfl
  | cons e ds ih =>
    obtain ⟨hHead, hTail⟩ := List.nodup_cons.mp hNodup
    have he := h e (List.mem_cons_self ..)
    rw [List.foldl_cons, List.foldl_cons, hf s e he]
    refine ih hTail fun d hd => ?_
    exact commitReady_commitOne (fun hEq => hHead (hEq ▸ hd)) he.2 (h d (List.mem_cons_of_mem _ hd))

theorem nodup_commitDirs {b : Bytes} : (commitDirs b).Nodup := by
  unfold commitDirs
  split <;> split <;> decide

/-- The premises that the rules of commits share, direction by direction. -/
theorem commitReady_of_all (hLate : (ds.all fun d => (s.lateBy .bf 0 (commitFor it d)).isNone) = true)
    (hFate : (ds.all fun d => (s.regionSt d r).fate b = .accepted) = true) : ∀ d ∈ ds, s.commitReady r b it d := by
  simp only [List.all_eq_true, Option.isNone_iff_eq_none, decide_eq_true_eq] at hLate hFate
  exact fun d hd => ⟨hLate d hd, hFate d hd⟩

theorem commitFor_tag : (commitFor it d).tag = it.tag := by cases d <;> rfl

end commit

end Sys2Proof.Machine
end

