-- ==== Sys2Proof/Proofs/BeamItems.lean ====
section
/-! PROOF. Declarations, sounding windows and commits at the beamformer (R76-R78, R168, R231): each passes the checks of its own rule
one by one. -/

namespace Sys2Proof.Machine
open Sys2Proof

section items
variable {s : State} {g : Tag} {b : Bytes} {it : Item} {pc : BitVec 19}

/-- A declaration that fits its symbol and the budget of its window is charged and kept (R76, R78). -/
theorem admitDecl_kept (hFits : s.declFits it = true)
    (hCharge : s.chargeOf (dirOf (fld (declRecord it.body) 30 1)) it.tag.air + declCharge (declRecord it.body) ≤ 2981888) :
    s.admitDecl it = { s with
      charges := tput (fun _ => 0) (windowKey (dirOf (fld (declRecord it.body) 30 1)) (fullTick it.tag.air s.now))
        (s.chargeOf (dirOf (fld (declRecord it.body) 30 1)) it.tag.air + declCharge (declRecord it.body)) s.charges
      decls := (s.decls.filter fun x => decide (lead x.air s.now > -(2 ^ 26 : Int))) ++
        [⟨dirOf (fld (declRecord it.body) 30 1), it.tag.carrier.toNat, it.tag.air, it.tag.mu.toNat, it.tag, declRecord it.body,
          it.body.drop 24, false⟩] } := by
  unfold State.admitDecl
  exact (if_neg (by simp [hFits])).trans (if_neg (Nat.not_lt.mpr hCharge))

theorem runs_beamSelDeclaration : Runs (.beamSelDeclaration g b) (beamSelDeclarationRule g b) := by
  refine runs_of_act (execBeamSelDeclaration g b) rfl (fun _ => rfl) fun s hpre => ?_
  simp only [beamSelDeclarationRule, Bool.and_eq_true, Option.isNone_iff_eq_none, decide_eq_true_eq] at hpre
  obtain ⟨⟨⟨hp, hLate⟩, hFits⟩, hCharge⟩ := hpre
  simp only [verdict_taken hp, arrive_taken hp, State.takeDecl, lateBy_took, hLate]
  exact admitDecl_kept (s := s.took .bf 0 (mkItem kBeamSel g (rowPay b 0 2 2 0))) hFits hCharge

/-- The charge of a sounding window's symbol with the window's own (R168). -/
def State.winCharge (s : State) (it : Item) : Nat :=
  tget (fun _ => 0) s.srsCharges (windowKey .rx (fullTick it.tag.air s.now)) + winRes it.body * popCount (winMask it.body) 64

/-- A sounding window that fits its symbol and the budget of its budget window is charged and kept (R76, R168). -/
theorem takeWindow_kept (hLate : s.lateBy .bf 0 it = none) (hFits : s.winFits it = true) (hCharge : s.winCharge it ≤ 1048576) :
    s.takeWindow it = { s with
      srsCharges := tput (fun _ => 0) (windowKey .rx (fullTick it.tag.air s.now)) (s.winCharge it) s.srsCharges
      rx := { s.rx with wins := s.rx.wins ++ [⟨it.tag.carrier.toNat, it.tag.air, it.tag, it.body⟩] } } := by
  unfold State.takeWindow
  exact (if_neg (by simp [hLate])).trans ((if_neg (by simp [hFits])).trans (if_neg (Nat.not_lt.mpr hCharge)))

theorem runs_soundingWindow : Runs (.soundingWindow g b) (soundingWindowRule g b) := by
  refine runs_of_act (execSoundingWindow g b) rfl (fun _ => rfl) fun s hpre => ?_
  simp only [soundingWindowRule, Bool.and_eq_true, Option.isNone_iff_eq_none, decide_eq_true_eq] at hpre
  obtain ⟨⟨⟨hp, hLate⟩, hFits⟩, hCharge⟩ := hpre
  dsimp only
  rw [arrive_taken hp]
  exact takeWindow_kept (s := s.took .bf 0 (mkItem kBeamSel g (rowPay b 0 2 2 1))) hLate hFits hCharge

/-- A control item on time is placed at its AIRTIME (R56). -/
theorem placeCtl_onTime {p : Port} {t : Nat} (hl : it.tag.late = false) (h : s.lateBy p t it = none) :
    s.placeCtl p t it pc = (s, some ⟨p, t, it, it.tag.air, false, pc⟩) := by
  simp only [State.placeCtl, hl, h, Bool.false_eq_true, if_false]

/-- A BEAM_COMMIT that each direction accepts, with lead, is taken in each (R231). -/
theorem takeCommit_accepted (hl : it.tag.late = false) (h : ∀ d ∈ commitDirs it.body,
      s.commitReady (if pbit it.body 2 then Region.engine else .baseband) (bankOf it.tag.bank.toNat) it d) :
    s.takeCommit it pc = (commitDirs it.body).foldl (fun s d =>
      (s.commitOne d (if pbit it.body 2 then Region.engine else .baseband) (bankOf it.tag.bank.toNat) it.tag.air it.tag none).1) s := by
  refine foldl_commitOne (it := it) (fun u d hReady => ?_) nodup_commitDirs h
  obtain ⟨hLate, hFate⟩ := hReady
  have hl' : (commitFor it d).tag.late = false := by rw [commitFor_tag, hl]
  obtain ⟨x, hx⟩ := commitOne_accepted (a := it.tag.air) (g := it.tag) (core := none) hFate
  simp only [placeCtl_onTime hl' hLate, commitFor_tag, hx]

theorem runs_beamCommit : Runs (.beamCommit g b) (beamCommitRule g b) := by
  refine runs_of_act (execBeamCommit g b) rfl (fun _ => rfl) fun s hpre => ?_
  simp only [beamCommitRule, Bool.and_eq_true, Bool.not_eq_true'] at hpre
  obtain ⟨⟨⟨hp, hl⟩, hLate⟩, hFate⟩ := hpre
  dsimp only
  rw [arrive_taken hp]
  exact takeCommit_accepted (s := s.took .bf 0 (mkItem kBeamCommit g b)) hl (commitReady_of_all hLate hFate)

end items

/-- Settles O6: each of the three passes its checks one by one. -/
theorem beamItems : Obligations.BeamItems := by
  unfold Obligations.BeamItems
  exact ⟨fun _ _ => runs_beamSelDeclaration, fun _ _ => runs_soundingWindow, fun _ _ => runs_beamCommit⟩

end Sys2Proof.Machine
end

