-- ==== Sys2Proof/Proofs/BeamMemory.lean ====
section
/-! PROOF. The memory accesses of the beam tables (R227, R228, R236, R491-R495): the repairs and events on their way leave the power
states and the fences as they are, and nothing of them depends on the beamformer's own state. -/

namespace Sys2Proof.Machine
open Sys2Proof

/-! ## Reads, unit by unit -/

/-- The memory takes no access (R33, R523, R536). -/
def State.memClosed (s : State) (r : MRegion) : Bool := r = .regs || !s.memPowered r || s.memFenced r

/-- A read tells of bytes that nothing has written, where it is asked to (R498). -/
def State.flagged (s : State) (a n : Nat) : State :=
  if (s.reg rMemCfg).getLsbD 16 && !((List.range n).all fun i => s.isValid (a + i)) then (s.latchAddr rMemZeroaddr a).signal 108 else s

/-- A read of a memory that answers: each unit is checked, and one that fails its check poisons it (R491-R495). -/
def State.readUnits (s : State) (r : MRegion) (a n : Nat) : Access × State :=
  let y := (checkedUnits r a n).foldl (State.checkUnit r) (s.flagged a n, false)
  if y.2 then (.poisoned (y.1.bytesAt a n), y.1.poisonRead a) else (.ok (y.1.bytesAt a n), y.1)

theorem memRead_eq {s : State} {a n : Nat} : s.memRead a n =
    match accessRegion a n with
    | none => (.error, s)
    | some r =>
      if s.memClosed r then (.error, s)
      else if r = .rom then (.ok ((List.range n).map fun i => Config.rom (a + i - 0x3FFFF00000)), s)
      else s.readUnits r a n := rfl

/-! ## Power and fences after repairs -/

/-- The power states and the fences, and with them which memories answer, are the same. -/
def SamePower (s t : State) : Prop := t.power = s.power ∧ t.fenced = s.fenced

section power
variable {s t u : State} {e k v a n : Nat} {r : MRegion} {d : Dir} {b : Bank}

theorem SamePower.refl : SamePower s s := ⟨rfl, rfl⟩

theorem SamePower.trans (h : SamePower s t) (h' : SamePower t u) : SamePower s u := ⟨h'.1.trans h.1, h'.2.trans h.2⟩

theorem SamePower.ite {c : Prop} [Decidable c] (h : SamePower s t) (h' : SamePower s u) : SamePower s (if c then t else u) := by
  split
  · exact h
  · exact h'

theorem SamePower.foldl {α : Type} {f : State → α → State} (hf : ∀ s a, SamePower s (f s a)) {l : List α} :
    SamePower s (l.foldl f s) := by
  induction l generalizing s with
  | nil => exact .refl
  | cons a l ih => exact (hf s a).trans ih

theorem OnlyMem.samePower (h : OnlyMem s t) : SamePower s t := by
  rw [h]
  exact .refl

theorem SamePower.memPowered (h : SamePower s t) : t.memPowered r = s.memPowered r := by
  unfold State.memPowered State.memBelow State.atOrBelow State.entryPast
  rw [h.1]

theorem SamePower.memFenced (h : SamePower s t) : t.memFenced r = s.memFenced r := by
  unfold State.memFenced State.isFenced
  rw [h.2]

theorem samePower_bumpBy {off : Nat} : SamePower s (s.bumpBy off n) := ⟨rfl, rfl⟩

theorem samePower_msix : SamePower s (s.msix v) := SamePower.ite ⟨rfl, rfl⟩ ⟨rfl, rfl⟩

theorem samePower_sendOwn {c : Option Nat} {type vc : Nat} {x : Bytes} : SamePower s (s.sendOwn c type vc x) :=
  SamePower.ite ⟨rfl, rfl⟩ ⟨rfl, rfl⟩

theorem samePower_wakeSeq : SamePower s (s.wakeSeq e k) := by
  unfold State.wakeSeq
  dsimp only
  split
  · exact .ite .refl ⟨rfl, rfl⟩
  · exact .refl

theorem samePower_deliver {route : BitVec 32} {rep : Nat} : SamePower s (s.deliver e route rep) :=
  (SamePower.ite samePower_msix .refl).trans ((SamePower.ite samePower_sendOwn .refl).trans (.foldl fun _ _ => samePower_wakeSeq))

theorem SamePower.signal (h : SamePower s t) : SamePower s (t.signal e) := by
  have hOccurred : SamePower t (t.occurred e) := ⟨rfl, rfl⟩
  refine h.trans ?_
  by_cases hFlight : (t.evOf e).flight = none
  · rw [signal_idle hFlight]
    exact hOccurred.trans (SamePower.trans ⟨rfl, rfl⟩ samePower_deliver)
  · rw [signal_inFlight hFlight]
    exact hOccurred.trans ⟨rfl, rfl⟩

theorem samePower_corrected : SamePower s (s.corrected a) := by
  unfold State.corrected
  dsimp only
  exact .ite ⟨rfl, rfl⟩ (.ite (.signal ⟨rfl, rfl⟩) ⟨rfl, rfl⟩)

theorem samePower_poisonRead : SamePower s (s.poisonRead a) := .signal ⟨rfl, rfl⟩

/-- The check of a unit corrects it, repairs it from its mirror, or leaves it. -/
theorem samePower_checkUnit {x : State × Bool} : SamePower x.1 (State.checkUnit r x a).1 := by
  obtain ⟨s, bad⟩ := x
  unfold State.checkUnit
  dsimp only
  split
  · exact .refl
  · split
    · exact samePower_corrected
    · exact .refl
  · split
    · have hMended : SamePower s (s.setErr a .good) := ⟨rfl, rfl⟩
      exact (hMended.trans onlyMem_setBytes.samePower).trans (.signal samePower_bumpBy)
    · exact .refl

theorem samePower_checkUnits {us : List Nat} {x : State × Bool} : SamePower x.1 (us.foldl (State.checkUnit r) x).1 := by
  induction us generalizing x with
  | nil => exact .refl
  | cons u us ih => exact samePower_checkUnit.trans ih

theorem samePower_flagged : SamePower s (s.flagged a n) := .ite (.signal ⟨rfl, rfl⟩) .refl

theorem samePower_readUnits : SamePower s (s.readUnits r a n).2 := by
  have h := (samePower_flagged (s := s) (a := a) (n := n)).trans
    (samePower_checkUnits (us := checkedUnits r a n) (r := r) (x := (s.flagged a n, false)))
  unfold State.readUnits
  dsimp only
  split
  · exact h.trans samePower_poisonRead
  · exact h

theorem samePower_memRead : SamePower s (s.memRead a n).2 := by
  rw [memRead_eq]
  split
  · exact .refl
  · split
    · exact .refl
    · split
      · exact .refl
      · exact samePower_readUnits

theorem samePower_readEntryMaster : SamePower s (s.readEntryMaster d b e).2 := by
  have h : SamePower s (s.memRead (s.masterAddr d b e) 272).2 := samePower_memRead
  unfold State.readEntryMaster
  split
  · next hRead => rwa [hRead] at h
  · next _ hRead => rwa [hRead] at h

theorem onlyMem_putEntry {x : Bytes} : OnlyMem s (s.putEntry d b e x) :=
  (OnlyMem.foldl fun s i => Eq.refl ((s.setErr (beamEntry d b e + i) .good).markValid (beamEntry d b e + i))).trans onlyMem_setBytes

/-- An entry that is written from its master, or built from it (R234, R236). -/
theorem samePower_buildOne {st : BuildState} {raw : Bool} : SamePower s (s.buildOne d b st raw e) := by
  have h : SamePower s (s.readEntryMaster d b e).2 := samePower_readEntryMaster
  unfold State.buildOne
  split
  · next hRead =>
    rw [hRead] at h
    exact h.trans onlyMem_putEntry.samePower
  · next hRead =>
    rw [hRead] at h
    refine h.trans (.ite onlyMem_putEntry.samePower ?_)
    exact (onlyMem_putEntry.samePower.trans samePower_bumpBy).trans (.ite samePower_bumpBy .refl)

theorem samePower_refetchEntry : SamePower s (s.refetchEntry d b e) :=
  samePower_buildOne.trans (.ite .refl (.signal ⟨rfl, rfl⟩))

theorem samePower_mendEntries : SamePower s (s.mendEntries d b a n) := .foldl fun _ _ => samePower_refetchEntry

end power

/-! ## The beamformer's own state -/

/-- The state with another one in the beamformer. -/
def State.withBeam (s : State) (x : BeamSt) : State := { s with beam := x }

section beam
variable {s : State} {x : BeamSt} {e k v a n : Nat} {r : MRegion} {d : Dir} {b : Bank}

theorem ite_withBeam {c c' : Prop} [Decidable c] [Decidable c'] {t t' u u' : State} (hc : c' = c) (ht : t' = t.withBeam x)
    (hu : u' = u.withBeam x) : (if c' then t' else u') = (if c then t else u).withBeam x := by
  subst hc ht hu
  split <;> rfl

theorem foldl_withBeam {α : Type} {f : State → α → State} (hf : ∀ s a, f (s.withBeam x) a = (f s a).withBeam x) {l : List α} :
    l.foldl f (s.withBeam x) = (l.foldl f s).withBeam x := by
  induction l generalizing s with
  | nil => rfl
  | cons a l ih => rw [List.foldl_cons, List.foldl_cons, hf, ih]

theorem msix_withBeam : (s.withBeam x).msix v = (s.msix v).withBeam x := ite_withBeam rfl rfl rfl

theorem sendOwn_withBeam {c : Option Nat} {type vc : Nat} {y : Bytes} :
    (s.withBeam x).sendOwn c type vc y = (s.sendOwn c type vc y).withBeam x := ite_withBeam rfl rfl rfl

theorem wakeSeq_withBeam : (s.withBeam x).wakeSeq e k = (s.wakeSeq e k).withBeam x := by
  have hSeq : (s.withBeam x).seqOf k = s.seqOf k := rfl
  unfold State.wakeSeq
  dsimp only
  rw [hSeq]
  split
  · exact ite_withBeam rfl rfl rfl
  · rfl

theorem deliver_withBeam {route : BitVec 32} {rep : Nat} :
    (s.withBeam x).deliver e route rep = (s.deliver e route rep).withBeam x := by
  unfold State.deliver
  dsimp only
  rw [ite_withBeam (c := route.getLsbD 7 = true) rfl msix_withBeam rfl,
    ite_withBeam (c := route.getLsbD 12 = true) rfl sendOwn_withBeam rfl]
  exact foldl_withBeam fun _ _ => wakeSeq_withBeam

theorem signal_withBeam {t : State} (h : t = s.withBeam x) : t.signal e = (s.signal e).withBeam x := by
  subst h
  by_cases hFlight : (s.evOf e).flight = none
  · rw [signal_idle hFlight, signal_idle (s := s.withBeam x) hFlight, ← deliver_withBeam]
    rfl
  · rw [signal_inFlight hFlight, signal_inFlight (s := s.withBeam x) hFlight]
    rfl

theorem corrected_withBeam : (s.withBeam x).corrected a = (s.corrected a).withBeam x := by
  unfold State.corrected
  exact ite_withBeam rfl rfl (ite_withBeam rfl (signal_withBeam rfl) rfl)

theorem setBytes_withBeam {l : Bytes} : (s.withBeam x).setBytes a l = (s.setBytes a l).withBeam x := by
  induction l generalizing s a with
  | nil => rfl
  | cons v l ih => exact ih (s := s.setByte a v)

theorem bytesAt_withBeam : (s.withBeam x).bytesAt a n = s.bytesAt a n := by
  induction n generalizing a with
  | zero => rfl
  | succ n ih => exact congrArg _ ih

/-- The pair of a state and a value with another state in the beamformer. -/
def pairWithBeam {α : Type} (x : BeamSt) (y : State × α) : State × α := (y.1.withBeam x, y.2)

/-- A failing line, with its repair from the other stack. -/
theorem repaired_withBeam : (((s.withBeam x).setErr a .good).setBytes a (((s.withBeam x).setErr a .good).bytesAt v n)) =
    ((s.setErr a .good).setBytes a ((s.setErr a .good).bytesAt v n)).withBeam x := by
  rw [← setBytes_withBeam, ← bytesAt_withBeam (s := s.setErr a .good)]
  rfl

theorem checkUnit_withBeam {y : State × Bool} : State.checkUnit r (pairWithBeam x y) a = pairWithBeam x (State.checkUnit r y a) := by
  obtain ⟨s, bad⟩ := y
  have hErr : (s.withBeam x).errAt a = s.errAt a := rfl
  unfold State.checkUnit pairWithBeam
  dsimp only
  rw [hErr]
  split
  · rfl
  · split
    · rw [corrected_withBeam]
    · rfl
  · rw [repaired_withBeam]
    change (if (decide (r = .dram) && s.mirrored a && decide (s.errAt (otherStack a) ≠ .failing)) = true then _ else _) = _
    generalize (s.setErr a .good).setBytes a ((s.setErr a .good).bytesAt (otherStack a) 64) = u
    split
    · exact Prod.ext (signal_withBeam rfl) rfl
    · rfl

theorem checkUnits_withBeam {us : List Nat} {y : State × Bool} :
    us.foldl (State.checkUnit r) (pairWithBeam x y) = pairWithBeam x (us.foldl (State.checkUnit r) y) :=
  List.foldl_hom (pairWithBeam x) fun _ _ => checkUnit_withBeam

theorem flagged_withBeam : (s.withBeam x).flagged a n = (s.flagged a n).withBeam x :=
  ite_withBeam rfl (signal_withBeam rfl) rfl

theorem readUnits_withBeam : ((s.withBeam x).readUnits r a n).1 = (s.readUnits r a n).1 := by
  have hStart : ((s.withBeam x).flagged a n, false) = pairWithBeam x (s.flagged a n, false) :=
    congrArg (·, false) flagged_withBeam
  unfold State.readUnits
  dsimp only
  rw [hStart, checkUnits_withBeam]
  generalize (checkedUnits r a n).foldl (State.checkUnit r) (s.flagged a n, false) = y
  simp only [pairWithBeam, bytesAt_withBeam]
  split <;> rfl

/-- What a read answers does not depend on the beamformer's own state. -/
theorem memRead_withBeam : ((s.withBeam x).memRead a n).1 = (s.memRead a n).1 := by
  have hClosed : ∀ r, (s.withBeam x).memClosed r = s.memClosed r := fun _ => rfl
  rw [memRead_eq, memRead_eq]
  split
  · rfl
  · rw [hClosed]
    split
    · rfl
    · split
      · rfl
      · exact readUnits_withBeam

/-- Nor whether an entry's master can be read (R236). -/
theorem readEntryMaster_withBeam : ((s.withBeam x).readEntryMaster d b e).1 = (s.readEntryMaster d b e).1 := by
  have h : ((s.withBeam x).memRead ((s.withBeam x).masterAddr d b e) 272).1 = (s.memRead (s.masterAddr d b e) 272).1 :=
    memRead_withBeam
  unfold State.readEntryMaster
  generalize (s.withBeam x).memRead ((s.withBeam x).masterAddr d b e) 272 = y' at *
  generalize s.memRead (s.masterAddr d b e) 272 = y at *
  obtain ⟨acc', u'⟩ := y'
  obtain ⟨acc, u⟩ := y
  obtain rfl : acc' = acc := h
  cases acc' <;> rfl

end beam

end Sys2Proof.Machine
end

