-- ==== Sys2Proof/Proofs/BeamTables.lean ====
section
/-! PROOF. Beam tables: writes, engine commits, builds, banks, entries that fail their check, alignment factors, and the judgement of a
symbol's data (R82-R85, R227-R240, R248). -/

namespace Sys2Proof.Machine
open Sys2Proof

/-! ## Registers of the unit (R36, R239, R248) -/

section registers
variable {s : State} {w : Initiator} {off : Nat} {c : Instr} {f : State → State} {r : Rule}

/-- A write of a register of a unit whose registers answer has its own effect (R36). -/
theorem runs_unitAct (hc : ∀ s, exec c s = unitAct w off f s) (hUnit : ∀ s : State, r.pre s = true → s.unitTakes off = true)
    (hf : ∀ s : State, r.pre s = true → f s = r.eff s) : Runs c r := by
  refine runs_of_act _ rfl hc fun s hpre => ?_
  have hTakes := hUnit s hpre
  simp only [State.unitTakes, Bool.and_eq_true, Bool.not_eq_true'] at hTakes
  obtain ⟨hFenced, hOn⟩ := hTakes
  rw [if_neg (by simp [hFenced]), State.regDo, if_pos hOn, hf s hpre]

/-- A vector core's write with defined fields joins the queue (R239). -/
theorem runs_beamEcqWrite {v : BitVec 64} : Runs (.beamEcqWrite w v) (beamEcqWriteRule w v) := by
  refine runs_unitAct (w := w) (off := 0x40020) (f := fun s => s.writeEcq w v) (fun _ => rfl) (fun s hpre => ?_) fun s hpre => ?_
  all_goals
    simp only [beamEcqWriteRule, ecqWriteRule, Bool.and_eq_true, decide_eq_true_eq] at hpre
    obtain ⟨⟨⟨⟨⟨hCore, hTakes⟩, hDirs⟩, hMu⟩, hZero⟩, hRoom⟩ := hpre
  · exact hTakes
  · cases w with
    | vc n =>
      have hDefined : ¬ (fld v 40 2 = 0 || 4 < fld v 46 3 || fld v 51 13 ≠ 0 || 16 ≤ s.beam.ecq.length) = true := by
        simp [hDirs, hZero, Nat.not_lt.mpr hMu, hRoom]
      exact if_neg hDefined
    | _ => cases hCore

/-- While no build runs, an alignment word is written, and counted where it changes (R248). -/
theorem runs_beamAlignWrite {d : Dir} {p : Path} {v : BitVec 32} : Runs (.beamAlignWrite w d p v) (beamAlignWriteRule d p v) := by
  refine runs_unitAct (w := w) (off := 0x40400) (f := fun s => s.writeAlign d p.val v) (fun _ => rfl) (fun s hpre => ?_) fun s hpre => ?_
  all_goals
    simp only [beamAlignWriteRule, Bool.and_eq_true, Option.isNone_iff_eq_none] at hpre
    obtain ⟨hTakes, hIdle⟩ := hpre
  · exact hTakes
  · exact if_neg (by simp [hIdle])

end registers

/-! ## Writes of the tables (R227, R228) -/

section write
variable {s u : State} {w : Initiator} {d : Dir} {k : Bank} {off : Nat} {b : Bytes}

/-- A write into a bank, its master and the master's mirror, after the repair of lines that it covers in part (R228, R497). -/
def State.writeCopies (s : State) (d : Dir) (k : Bank) (off : Nat) (b : Bytes) : Option State := do
  let u ← (s.mendEntries d k off b.length).memWrite (beamBase d k + off) b
  let u ← u.memWrite (s.masterAddr d k 0 + off) b
  u.memWrite (s.masterAddr d k 0 + off + 0x100000000) b

/-- The touched entries' regions take the initiator's writes, and the bank is FREE there (R227). -/
def State.takesWrite (s : State) (w : Initiator) (d : Dir) (k : Bank) (off n : Nat) : Bool :=
  (touched off n).all fun e => regionTakes (s.regionOfEntry d e) w && (s.regionSt d (s.regionOfEntry d e)).bankSt k = .free

/-- A write that the regions take while the masters' memory answers is stored, and its entries are DIRTY (R227, R228). -/
theorem beamWrite_taken (hTakes : s.takesWrite w d k off b.length = true) (hPowered : s.memPowered .dram = true)
    (hFenced : s.memFenced .dram = false) (hRoom : s.masterAddr d k 0 + off + b.length ≤ 0x100000000)
    (hCopies : s.writeCopies d k off b = some u) :
    s.beamWrite w d k off b = ((touched off b.length).foldl (fun u e => u.setDirty d k e true) u).done := by
  have hMended : SamePower s (s.mendEntries d k off b.length) := samePower_mendEntries
  unfold State.takesWrite touched at hTakes
  unfold State.writeCopies at hCopies
  unfold State.beamWrite
  simp only [hTakes, hPowered, hFenced, Bool.not_false, Bool.and_self, if_true, hMended.memPowered, hMended.memFenced, hRoom,
    decide_true, hCopies, touched]

/-- Memories that are above SEDGE are above FEN (R536). -/
theorem memBelow_fen (h : s.memBelow .sedge = false) : s.memBelow .fen = false := by
  unfold State.memBelow at *
  rw [Bool.and_eq_false_iff] at *
  exact h.imp_left fun hAbove => decide_eq_false fun hFen => of_decide_eq_false hAbove (Nat.le_trans (by decide) hFen)

/-- The rule of table writes speaks of accesses to a bank. -/
theorem accessRegion_of_beamTableWriteRule {a : Addr} (h : (beamTableWriteRule w a b).pre s = true) :
    ∃ d k, accessRegion a.toNat b.length = some (.beam d k) := by
  simp only [beamTableWriteRule] at h
  split at h
  · next d k hRegion => exact ⟨d, k, hRegion⟩
  · cases h

theorem runs_beamTableWrite {a : Addr} : Runs (.beamTableWrite w a b) (beamTableWriteRule w a b) := by
  refine runs_of_act (execBeamTableWrite w a b) rfl (fun _ => rfl) fun s hpre => ?_
  obtain ⟨d, k, hRegion⟩ := accessRegion_of_beamTableWriteRule hpre
  simp only [beamTableWriteRule, hRegion, Bool.and_eq_true, Bool.not_eq_true', decide_eq_true_eq] at hpre
  obtain ⟨⟨⟨⟨⟨⟨hBank, hBankFenced⟩, hPowered⟩, hFenced⟩, hTakes⟩, hRoom⟩, hCopies⟩ := hpre
  obtain ⟨u, hu⟩ := Option.isSome_iff_exists.mp hCopies
  have hOn : s.memBelow .fen = false := by
    simp only [State.memPowered, Bool.and_eq_true, Bool.not_eq_true'] at hBank
    exact memBelow_fen hBank.1
  simp only [beamTableWriteRule, hRegion, hOn, hBankFenced, Bool.or_self, Bool.false_eq_true, if_false, hu, Option.getD_some]
  exact beamWrite_taken hTakes hPowered hFenced hRoom hu

end write

/-! ## Engine commits (R231, R240) -/

/-- An engine commit that each direction accepts, with lead, is taken in each (R231, R240). -/
theorem runs_engineCommit : Runs .engineCommit engineCommitRule := by
  refine runs_of_act execEngineCommit rfl (fun _ => rfl) fun s hpre => ?_
  obtain ⟨e, es, hQueue⟩ : ∃ e es, s.beam.ecq = e :: es := by
    simp only [engineCommitRule] at hpre
    split at hpre
    · next e es hQueue => exact ⟨e, es, hQueue⟩
    · cases hpre
  simp only [engineCommitRule, hQueue, Bool.and_eq_true, Bool.not_eq_true'] at hpre
  obtain ⟨⟨⟨hGated, hp⟩, hLate⟩, hFate⟩ := hpre
  simp only [engineCommitRule, hQueue, hGated, Bool.false_eq_true, if_false]
  generalize hu : ({ s with beam := { s.beam with ecq := es } } : State) = u
  have hpu : u.passes .bf 0 e.item = true := hu ▸ hp
  have hReady : ∀ d ∈ commitDirs e.item.body,
      (u.took .bf 0 e.item).commitReady .engine (bankOf e.item.tag.bank.toNat) e.item d :=
    hu ▸ commitReady_of_all hLate hFate
  rw [arrive_taken hpu]
  refine foldl_commitOne (it := e.item) (fun v d hv => ?_) nodup_commitDirs hReady
  obtain ⟨x, hx⟩ := commitOne_accepted (a := e.item.tag.air) (g := e.item.tag) (core := some e.core) hv.2
  simp only [hv.1, Option.isSome_none, Bool.false_eq_true, if_false, hx]

/-! ## Builds and banks (R230, R233, R235) -/

section builds
variable {s : State} {d : Dir} {r : Region}

/-- The build that ends first is done, and its build state recorded (R233). -/
theorem runs_buildComplete : Runs (.buildComplete d) (buildCompleteRule d) := by
  refine runs_of_act (execBuildComplete d) rfl (fun _ => rfl) fun s hpre => ?_
  obtain ⟨r, c, hRunning, hEnded⟩ : ∃ r c, s.running d = some (r, c) ∧ c.began + 8 * c.count ≤ s.now.toNat := by
    simp only [buildCompleteRule] at hpre
    split at hpre
    · next r c hRunning => exact ⟨r, c, hRunning, of_decide_eq_true hpre⟩
    · cases hpre
  simp only [buildCompleteRule, hRunning]
  exact if_neg (Nat.not_lt.mpr hEnded)

/-- A commit whose build overruns is counted, and abandoned or put off (R235, R240). -/
theorem runs_buildOverrun : Runs (.buildOverrun d) (buildOverrunRule d) := by
  refine runs_of_act (execBuildOverrun d) rfl (fun _ => rfl) fun s _ => ?_
  unfold buildOverrunRule
  dsimp only
  refine congrArg (fun f => List.foldl f s _) ?_
  funext u r
  unfold State.overrun
  cases (u.regionSt d r).pend with
  | none => rfl
  | some c => cases hCore : c.core <;> cases d <;> simp only [hCore]

theorem runs_bankLive : Runs (.bankLive d r) (bankLiveRule d r) := by
  refine runs_of_act (execBankLive d r) rfl (fun _ => rfl) fun s hpre => ?_
  obtain ⟨c, hPend⟩ : ∃ c, (s.regionSt d r).pend = some c := by
    simp only [bankLiveRule] at hpre
    split at hpre
    · next c hPend => exact ⟨c, hPend⟩
    · cases hpre
  simp only [bankLiveRule, hPend, Bool.and_eq_true, decide_eq_true_eq] at hpre
  obtain ⟨hBuilt, hBegun⟩ := hpre
  simp only [bankLiveRule, hPend]
  refine if_neg ?_
  rw [hBuilt, Bool.not_true, Bool.false_or, decide_eq_true_eq]
  exact not_lt.mpr hBegun

/-- The banks of a region that are HELD are FREE again (R230). -/
def RegionSt.released (x : RegionSt) : RegionSt :=
  { x with a := if x.a = .held then .free else x.a, b := if x.b = .held then .free else x.b }

theorem setBank_held_released {x : RegionSt} :
    (let y := if x.a = .held then x.setBank .A .free else x
     if y.b = .held then y.setBank .B .free else y) = x.released := by
  by_cases hA : x.a = .held <;> by_cases hB : x.b = .held <;> simp [RegionSt.setBank, RegionSt.released, hA, hB]

/-- A receive bank is released from its commit's time on, a transmit one at any time (R230). -/
theorem runs_bankRelease : Runs (.bankRelease d r) (bankReleaseRule d r) := by
  refine runs_of_act (execBankRelease d r) rfl (fun _ => rfl) fun s hpre => ?_
  simp only [bankReleaseRule, Bool.or_eq_true, Bool.not_eq_true', decide_eq_false_iff_not, decide_eq_true_eq] at hpre
  have hOver : ¬(decide (d = .rx) && decide (lead (s.regionSt d r).heldT s.now > 0)) = true := by
    rw [Bool.and_eq_true, decide_eq_true_eq, decide_eq_true_eq]
    exact fun ⟨hRx, hHeld⟩ => hpre.elim (· hRx) (not_le.mpr hHeld)
  exact (if_neg hOver).trans (congrArg (s.setRegion d r) setBank_held_released)

end builds

/-! ## Entries that fail their check (R236) -/

section entries
variable {d : Dir} {k : Bank} {e : Entry}

theorem runs_entryLineFailure : Runs (.entryLineFailure d k e) (entryLineFailureRule d k e) := by
  refine runs_of_act (execEntryLineFailure d k e) rfl (fun _ => rfl) fun s hpre => if_neg ?_
  simpa [entryLineFailureRule] using hpre

/-- An entry whose master can be read is refetched, and the repair is counted (R236). -/
theorem refetchEntry_read {s : State} {n : Nat} (h : (s.readEntryMaster d k n).1.isSome = true) :
    s.refetchEntry d k n =
      ((s.buildOne d k ((s.regionSt d (s.regionOfEntry d n)).recState k)
        (((s.regionSt d (s.regionOfEntry d n)).bankSt k = .free || (s.regionSt d (s.regionOfEntry d n)).bankSt k = .committing) &&
          s.isDirty d k n) n).bump (cMem 2)).signal 106 := by
  unfold State.refetchEntry
  exact if_neg (by simpa using Option.isSome_iff_ne_none.mp h)

theorem runs_entryRefetchComplete : Runs (.entryRefetchComplete d k e) (entryRefetchCompleteRule d k e) := by
  refine runs_of_act (execEntryRefetchComplete d k e) rfl (fun _ => rfl) fun s hpre => ?_
  simp only [entryRefetchCompleteRule, Bool.and_eq_true, List.contains_iff_mem] at hpre
  obtain ⟨hFailing, hMaster⟩ := hpre
  refine (if_neg (not_not.mpr hFailing)).trans ?_
  generalize hx : ({ s.beam with failing := s.beam.failing.filter (· ≠ dirtyKey d k e.val) } : BeamSt) = x
  have hRead : ((s.withBeam x).readEntryMaster d k e.val).1.isSome = true := by rwa [readEntryMaster_withBeam]
  refine (refetchEntry_read hRead).trans ?_
  subst hx
  rfl

end entries

/-- A symbol whose deadline has come is judged (R82, R83, R85). -/
theorem runs_missingDataDeadline {c : Carrier} {a : Air} : Runs (.missingDataDeadline c a) (missingDataDeadlineRule c a) := by
  refine runs_of_act (execMissingDataDeadline c a) rfl (fun _ => rfl) fun s hpre => ?_
  exact if_neg (not_lt.mpr (of_decide_eq_true hpre))

/-- Settles O12: each of the eleven commands by its own premises. -/
theorem beamTables : Obligations.BeamTables := by
  unfold Obligations.BeamTables
  exact ⟨fun _ _ => runs_beamEcqWrite, fun _ _ _ => runs_beamTableWrite, fun _ => runs_buildComplete, fun _ => runs_buildOverrun,
    fun _ _ => runs_bankLive, fun _ _ => runs_bankRelease, fun _ _ _ => runs_entryLineFailure, fun _ _ _ => runs_entryRefetchComplete,
    fun _ _ _ _ => runs_beamAlignWrite, fun _ _ => runs_missingDataDeadline, runs_engineCommit⟩

end Sys2Proof.Machine
end

