-- ==== Sys2Proof/Proofs/FrontEndItems.lean ====
section
/-! PROOF. FE_CTL items on time (R143, R158, R269-R272, R275): one arrival serves every form. -/

namespace Sys2Proof.Machine
open Sys2Proof

/-- The item that waits is the one whose requests are placed (R270, R271, R275). -/
theorem runs_feItem {flag : Nat} {t : Tile} {g : Tag} {b : Bytes} {c : Instr}
    (hc : ∀ s, exec c s = act (fun s => s.arriveFe flag t g b) s) : Runs c (feItem flag t g b) := by
  refine runs_of_act _ rfl hc fun s hpre => ?_
  obtain ⟨hPasses, hOnTime⟩ := Bool.and_eq_true_iff.mp hpre
  obtain ⟨hTag, hLate⟩ := onTime_iff.mp hOnTime
  rw [State.arriveFe, arrive_taken hPasses, placeCtl_onTime hTag (lateBy_took.trans hLate)]
  rfl

/-- Settles O4: the seven forms differ by the flag of their row alone. -/
theorem frontEndItems : Obligations.FrontEndItems := by
  unfold Obligations.FrontEndItems
  refine ⟨fun t g b => ?rxon, fun t g b => ?rxoff, fun t g b => ?loopback, fun t g b => ?lbrel, fun t g b => ?rxcal,
    fun t g b => ?tune, fun t g b => ?group⟩
  case rxon | rxoff | loopback | lbrel | rxcal | tune | group => exact runs_feItem fun _ => rfl

end Sys2Proof.Machine
end

