-- ==== Sys2Proof/Proofs/LayerBlocks.lean ====
section
/-! PROOF. Layer blocks of the uplink (R174, R176, R185): what a block counts, and the events it raises, move neither the blocks and
partials that wait nor the device's place in the cascade. -/

namespace Sys2Proof.Machine
open Sys2Proof

/-- The receive side's own state, and the register of the device's place in the cascade: what decides where a layer block goes. -/
def State.uplink (s : State) : RxSt × BitVec 32 := (s.rx, s.reg rBeamUlcfg)

section uplink
variable {s t u : State} {off e k n : Nat} {d : Decl} {b : UlName}

theorem rx_of_uplink (h : t.uplink = s.uplink) : t.rx = s.rx := (Prod.ext_iff.mp h).1

theorem waitsPartials_of_uplink (h : t.uplink = s.uplink) : t.waitsPartials = s.waitsPartials := by
  have hReg : t.reg rBeamUlcfg = s.reg rBeamUlcfg := (Prod.ext_iff.mp h).2
  unfold State.waitsPartials State.role
  rw [hReg]

theorem uplink_bumpBy (h : off ≠ rBeamUlcfg) : (s.bumpBy off n).uplink = s.uplink := Prod.ext rfl (reg_setReg_ne h.symm)

theorem uplink_ite {p : Prop} [Decidable p] (ht : t.uplink = s.uplink) (hu : u.uplink = s.uplink) :
    (if p then t else u).uplink = s.uplink := by
  split
  · exact ht
  · exact hu

theorem uplink_foldl {α : Type} {f : State → α → State} {l : List α} (hf : ∀ s, ∀ a ∈ l, (f s a).uplink = s.uplink) :
    (l.foldl f s).uplink = s.uplink :=
  List.foldlRecOn l f (motive := fun t => t.uplink = s.uplink) rfl fun t ht a ha => (hf t a ha).trans ht

/-- A frame leaves on one of 34 ports (R430). -/
theorem upPort_lt {car : Option Nat} : s.upPort car < 34 := by
  have hField : ∀ lo, fld (s.reg rLaneEthmap) lo 5 < 32 := fun _ => Nat.mod_lt _ (by decide)
  unfold State.upPort
  split
  · split
    · next c => have := hField (5 * c); omega
    · have := hField 20; omega
  · decide

/-- A frame that its port discards is counted there, below the beamformer's registers (R426). -/
theorem uplink_sendOwn {car : Option Nat} {type vc : Nat} {x : Bytes} : (s.sendOwn car type vc x).uplink = s.uplink := by
  refine uplink_ite rfl (uplink_bumpBy ?_)
  have hPort := upPort_lt (s := s) (car := car)
  unfold cPort rBeamUlcfg
  omega

theorem uplink_wakeSeq : (s.wakeSeq e k).uplink = s.uplink := by
  unfold State.wakeSeq
  dsimp only
  split
  · exact uplink_ite rfl rfl
  · rfl

theorem uplink_deliver {route : BitVec 32} {rep : Nat} : (s.deliver e route rep).uplink = s.uplink :=
  (uplink_foldl fun _ _ _ => uplink_wakeSeq).trans
    ((uplink_ite uplink_sendOwn rfl).trans (uplink_ite (uplink_ite rfl rfl) rfl))

theorem uplink_signal (he : e < 128) : (s.signal e).uplink = s.uplink := by
  have hOccurred : (s.occurred e).uplink = s.uplink := by
    refine uplink_bumpBy (s := { s with evPend := _ }) ?_
    unfold rEvCnt rBeamUlcfg
    omega
  by_cases hFlight : (s.evOf e).flight = none
  · rw [signal_idle hFlight]
    exact uplink_deliver.trans hOccurred
  · rw [signal_inFlight hFlight]
    exact hOccurred

theorem uplink_countBadUses : (s.countBadUses n).uplink = s.uplink := by
  refine uplink_ite rfl ((uplink_foldl fun _ e he => uplink_signal ?_).trans (uplink_bumpBy (by decide)))
  have hEvents : ∀ e ∈ [0, 4, 8, 12], e < 128 := by decide
  exact hEvents e he

theorem uplink_checkSbfd : (s.checkSbfd d b).uplink = s.uplink := uplink_ite (uplink_bumpBy (by decide)) rfl

theorem ulKey_ownBlock : ulKey (s.ownBlock d b).1 = nameKey b := rfl

/-- A declared block of a symbol that is in, neither sent nor waiting (R176, R185). -/
theorem runs_ulBlockReady : Runs (.ulBlockReady b) (ulBlockReadyRule b) := by
  refine runs_of_act (execUlBlockReady b) rfl (fun _ => rfl) fun s hpre => ?_
  simp only [ulBlockReadyRule, Bool.and_eq_true, Bool.not_eq_true', List.contains_eq_mem, decide_eq_false_iff_not,
    ← List.not_any_eq_all_not] at hpre
  obtain ⟨⟨⟨hDecl, hIn⟩, hSent⟩, hOwn⟩ := hpre
  obtain ⟨d, hd⟩ := Option.isSome_iff_exists.mp hDecl
  have hGo : ¬ (!s.symDone b.carrier.val b.air || nameKey b ∈ s.rx.sent || s.rx.own.any fun x => ulKey x.blk = nameKey b) = true := by
    simp only [hIn, hSent, hOwn, Bool.not_true, decide_false, Bool.or_self, Bool.false_eq_true, not_false_eq_true]
  have hCounted : (((s.countBadUses (s.ownBlock d b).2.1).bumpBy (cBeam 3) (s.ownBlock d b).2.2).checkSbfd d b).uplink = s.uplink :=
    uplink_checkSbfd.trans ((uplink_bumpBy (by decide)).trans uplink_countBadUses)
  simp only [ulBlockReadyRule, hd]
  refine (if_neg hGo).trans ?_
  generalize ((s.countBadUses (s.ownBlock d b).2.1).bumpBy (cBeam 3) (s.ownBlock d b).2.2).checkSbfd d b = u at *
  simp only [ulKey_ownBlock, waitsPartials_of_uplink hCounted, rx_of_uplink hCounted] <;> rfl

end uplink

end Sys2Proof.Machine
end

