-- ==== Sys2Proof/Proofs/ReceiveResults.lean ====
section
/-! PROOF. Blocks held for their partials, sounding windows, servo steps, observation and canceller snapshots (R131-R134, R151, R168,
R170, R176, R197, R279). -/

namespace Sys2Proof.Machine
open Sys2Proof

section blocks
variable {c : Carrier} {winid : BitVec 4} {damaged : Bool} {i : Nat}

/-- A block that has waited for the hold time (R176). -/
theorem runs_holdExpiry : Runs (.holdExpiry i) (holdExpiryRule i) := by
  refine runs_of_act (execHoldExpiry i) rfl (fun _ => rfl) fun s hpre => ?_
  cases hOwn : s.rx.own[i]? with
  | none => simp only [holdExpiryRule, hOwn, Bool.false_eq_true] at hpre
  | some x =>
    simp only [holdExpiryRule, hOwn] at hpre ⊢
    exact if_neg (not_lt.mpr (of_decide_eq_true hpre))

/-- A window whose symbol is in: the blocks that go to the ring and to the baseband are the same (R168, R170). -/
theorem runs_soundingBlocks : Runs (.soundingBlocks c winid damaged) (soundingBlocksRule c winid damaged) := by
  refine runs_of_act (execSoundingBlocks c winid damaged) rfl (fun _ => rfl) fun s hpre => ?_
  cases hWin : s.rx.wins.find? fun w => w.car = c.val && pbits w.body 64 4 = winid.toNat with
  | none => simp only [soundingBlocksRule, hWin, Bool.false_eq_true] at hpre
  | some w =>
    simp only [soundingBlocksRule, hWin] at hpre ⊢
    refine (if_neg (by simp only [hpre, Bool.not_true, Bool.false_eq_true, not_false_eq_true])).trans ?_
    simp only [List.map_map, List.foldl_map, Function.comp_def]

end blocks

section servo
variable {s : State} {p : Path} {rail : Rail} {k : Nat}

/-- The last step of the rail at key `k` lies 65,536 tk back or more: the rule's premise (R151). -/
def State.servoRested (s : State) (k : Nat) : Bool :=
  match tget (fun _ => none) s.rx.servoAt k with
  | some a => decide (a + 65536 ≤ s.now.toNat)
  | none => true

/-- The last step of the rail at key `k` lies less than 65,536 tk back: the command's own test (R151). -/
def State.servoRecent (s : State) (k : Nat) : Bool :=
  match tget (fun _ => none) s.rx.servoAt k with
  | some a => decide (s.now.toNat < a + 65536)
  | none => false

theorem servoRecent_eq_false (h : s.servoRested k = true) : s.servoRecent k = false := by
  unfold State.servoRested at h
  unfold State.servoRecent
  split
  · next a hAt =>
    simp only [hAt, decide_eq_true_eq] at h
    exact decide_eq_false (not_lt.mpr h)
  · rfl

/-- The code one step up or down (R151). -/
theorem servoCode_eq {up : Prop} [Decidable up] {code : Int} :
    (if up then code + 1 else code - 1) = code + if up then 1 else -1 := by
  split <;> rfl

/-- An estimate above its threshold, long enough after the last step, with a code in range to step to (R151). -/
theorem runs_dcServoStep : Runs (.dcServoStep p rail) (dcServoStepRule p rail) := by
  refine runs_of_act (execDcServoStep p rail) rfl (fun _ => rfl) fun s hpre => ?_
  simp only [dcServoStepRule, Bool.and_eq_true, Bool.not_eq_true', decide_eq_true_eq, ← servoCode_eq] at hpre ⊢
  obtain ⟨⟨⟨⟨hFrozen, hOn⟩, hEst⟩, hSince⟩, hLow, hHigh⟩ := hpre
  refine (if_neg ?steps).trans (if_neg ?inRange)
  case steps =>
    simp only [Bool.not_eq_true, Bool.or_eq_false_iff, Bool.not_eq_false', decide_eq_false_iff_not, not_le]
    exact ⟨⟨⟨hFrozen, hOn⟩, hEst⟩, servoRecent_eq_false (s := s) hSince⟩
  case inRange =>
    simp only [Bool.or_eq_true, decide_eq_true_eq, not_or, not_lt]
    exact ⟨hLow, hHigh⟩

end servo

section observation
variable {s : State} {n : Obs} {k m : Nat} {x : ObsSt} {clip : Bool} {fb : Bytes}

theorem obsParityIn_setObs {lo hi : Int} : (s.setObs k x).obsParityIn m lo hi = s.obsParityIn m lo hi := rfl

theorem obsTk_setObs : (s.setObs k x).obsTk m = s.obsTk m := rfl

/-- The entry that holds the present tick, where it is not the one in progress (R131). -/
theorem runs_obsEntryStart : Runs (.obsEntryStart n) (obsEntryStartRule n) := by
  refine runs_of_act (execObsEntryStart n) rfl (fun _ => rfl) fun s hpre => ?_
  cases hNow : s.obsEntryNow n.val with
  | none => simp only [obsEntryStartRule, hNow, Bool.false_eq_true] at hpre
  | some w =>
    obtain ⟨i, st⟩ := w
    simp only [obsEntryStartRule, hNow, Bool.and_eq_true, Bool.not_eq_true', decide_eq_true_eq, decide_eq_false_iff_not] at hpre ⊢
    obtain ⟨⟨⟨hNew, hRuns⟩, hFrom⟩, hTile⟩ := hpre
    exact if_neg (by simp [hNew, hRuns, hTile, hFrom])

theorem runs_obsSnapshotStart : Runs (.obsSnapshotStart n) (obsSnapshotStartRule n) := by
  refine runs_of_act (execObsSnapshotStart n) rfl (fun _ => rfl) fun s hpre => ?_
  cases hWord : s.obsWord n.val with
  | none => simp only [obsSnapshotStartRule, hWord, Bool.false_eq_true] at hpre
  | some w =>
    simp only [obsSnapshotStartRule, hWord] at hpre ⊢
    exact if_pos hpre

/-- A snapshot that is whole (R133, R134). -/
theorem runs_obsSnapshotComplete : Runs (.obsSnapshotComplete n clip fb) (obsSnapshotCompleteRule n clip fb) := by
  refine runs_of_act (execObsSnapshotComplete n clip fb) rfl (fun _ => rfl) fun s hpre => ?_
  cases hEnd : s.snapEnd n.val 0 with
  | none | cut => simp only [obsSnapshotCompleteRule, hEnd, Bool.false_eq_true] at hpre
  | whole i st s0 e => simp only [obsSnapshotCompleteRule, hEnd]

/-- A whole snapshot in power mode: its role says whether its mean power is a forward or a reverse one (R134, R279). -/
theorem runs_obsPowerResult : Runs (.obsPowerResult n clip fb) (obsPowerResultRule n clip fb) := by
  refine runs_of_act (execObsPowerResult n clip fb) rfl (fun _ => rfl) fun s hpre => ?_
  cases hEnd : s.snapEnd n.val 1 with
  | none | cut => simp only [obsPowerResultRule, hEnd, Bool.false_eq_true] at hpre
  | whole i st s0 e =>
    simp only [obsPowerResultRule, hEnd, obsParityIn_setObs, obsTk_setObs]
    split
    · next hForward => exact (if_pos hForward).symm
    · next hReverse => exact ((if_neg (by rw [hReverse]; decide)).trans (if_pos hReverse)).symm
    · next hForward hReverse => exact ((if_neg hForward).trans (if_neg hReverse)).symm

/-- A canceller snapshot that has ended (R197). -/
theorem runs_sicSnapshotComplete {t : Tile} : Runs (.sicSnapshotComplete t) (sicSnapshotCompleteRule t) := by
  refine runs_of_act (execSicSnapshotComplete t) rfl (fun _ => rfl) fun s hpre => ?_
  cases hSnaps : s.snapsOf t.val with
  | nil => simp only [sicSnapshotCompleteRule, hSnaps, Bool.false_eq_true] at hpre
  | cons x xs =>
    simp only [sicSnapshotCompleteRule, hSnaps] at hpre ⊢
    exact if_neg (not_lt.mpr (of_decide_eq_true hpre))

end observation

/-- Settles O13: each command by its own premises. -/
theorem receiveResults : Obligations.ReceiveResults := by
  unfold Obligations.ReceiveResults
  exact ⟨fun _ => runs_ulBlockReady, fun _ => runs_holdExpiry, fun _ _ _ => runs_soundingBlocks, fun _ _ => runs_dcServoStep,
    fun _ => runs_obsEntryStart, fun _ => runs_obsSnapshotStart, fun _ _ _ => runs_obsSnapshotComplete,
    fun _ _ _ => runs_obsPowerResult, fun _ => runs_sicSnapshotComplete⟩

end Sys2Proof.Machine
end

