-- ==== Sys2Proof/Proofs/FrontEndEnables.lean ====
section
/-! PROOF. Transmit and receive enables, RFFE groups and commands, loopback releases and coexistence (R143, R269, R270, R272, R275,
R276, R289-R291). -/

namespace Sys2Proof.Machine
open Sys2Proof

section enables
variable {q : Quad} {gnt : BitVec 4}

/-- A live sample that its advance has reached, with nothing that holds the quad off (R269, R288, R290). -/
theorem runs_feTxenOn {a : Air} : Runs (.feTxenOn q a gnt) (feTxenOnRule q a gnt) := by
  refine runs_of_act (execFeTxenOn q a gnt) rfl (fun _ => rfl) fun s hpre => ?_
  simp only [feTxenOnRule, Bool.and_eq_true, Bool.not_eq_true', decide_eq_true_eq] at hpre ⊢
  obtain ⟨⟨⟨⟨⟨⟨⟨⟨hStarts, hLead⟩, hOff⟩, hHeld⟩, hTile⟩, hFn⟩, hSafe⟩, hGrant⟩, hLoop⟩ := hpre
  refine (if_neg ?_).trans ?_
  · simp [hStarts, hLead, hOff, hHeld, hTile, hFn]
  · simp only [hSafe, hGrant, hLoop, Bool.false_eq_true, if_false]
    rfl

theorem runs_feTxenOff : Runs (.feTxenOff q) (feTxenOffRule q) :=
  runs_of_act (execFeTxenOff q) rfl (fun _ => rfl) fun _ hpre => if_pos hpre

/-- What refuses a quad its receive span is no part of the switches that are scheduled, so the switch that falls due may leave them
first (R270, R290). -/
theorem runs_feRxenSwitch : Runs (.feRxenSwitch q gnt) (feRxenSwitchRule q gnt) := by
  refine runs_of_act (execFeRxenSwitch q gnt) rfl (fun _ => rfl) fun s hpre => ?_
  cases hDue : s.fe.rxSched.find? fun x => x.quad = q.val && decide (x.at_ ≤ (s.now.toNat : Int)) with
  | none => simp only [feRxenSwitchRule, hDue, Bool.false_eq_true] at hpre
  | some x =>
    simp only [feRxenSwitchRule, hDue] at hpre ⊢
    cases hOn : x.on with
    | false => rfl
    | true =>
      have hGrant : (s.coxRefuse q.val gnt).isEmpty = true := by simpa only [hOn, Bool.not_true, Bool.false_or] using hpre
      refine (if_neg (by decide)).trans ((if_neg ?_).trans rfl)
      exact Bool.eq_false_iff.mp (congrArg Bool.not hGrant)

end enables

section rffe
variable {t : Tile}

theorem runs_rffeGroupStart {b : Bus} : Runs (.rffeGroupStart b) (rffeGroupStartRule b) := by
  refine runs_of_act (execRffeGroupStart b) rfl (fun _ => rfl) fun s hpre => ?_
  obtain ⟨g, hDue⟩ := Option.isSome_iff_exists.mp hpre
  simp only [rffeGroupStartRule, hDue]

/-- A valid frame from the host or from management (R276). -/
theorem runs_feRffecmd {w : Initiator} {v : BitVec 64} : Runs (.feRffecmd w t v) (feRffecmdRule w t v) := by
  refine runs_unitAct (w := w) (off := rFe t.val 0x30) (f := fun s => s.writeRffecmd w t.val v) (fun _ => rfl) (fun s hpre => ?_)
    fun s hpre => ?_
  all_goals
    simp only [feRffecmdRule, Bool.and_eq_true, Bool.or_eq_true, decide_eq_true_eq] at hpre
    obtain ⟨⟨hFrom, hTakes⟩, hFrame⟩ := hpre
  · exact hTakes
  · refine (if_neg ?_).trans (if_pos hFrame)
    rcases hFrom with rfl | rfl <;> decide

/-- A command whose frame overlaps no group of its bus (R276). -/
theorem runs_rffecmdRun {rd : BitVec 8} {parerr : Bool} : Runs (.rffecmdRun t rd parerr) (rffecmdRunRule t rd parerr) := by
  refine runs_of_act (execRffecmdRun t rd parerr) rfl (fun _ => rfl) fun s hpre => ?_
  cases hCmds : tget (fun _ => []) s.fe.cmds t.val with
  | nil => simp only [rffecmdRunRule, hCmds, Bool.false_eq_true] at hpre
  | cons v vs =>
    simp only [rffecmdRunRule, hCmds] at hpre ⊢
    rw [← List.not_any_eq_all_not, Bool.not_eq_true'] at hpre
    exact if_neg (Bool.eq_false_iff.mp hpre)

/-- A coupled quad whose next live sample comes within its advance (R143). -/
theorem runs_loopbackReleaseByTraffic {q : Quad} : Runs (.loopbackReleaseByTraffic q) (loopbackReleaseByTrafficRule q) := by
  refine runs_of_act (execLoopbackReleaseByTraffic q) rfl (fun _ => rfl) fun s hpre => ?_
  obtain ⟨hCoupled, hLive⟩ := Bool.and_eq_true_iff.mp hpre
  refine (if_pos hCoupled).trans ?_
  cases hNext : s.nextLiveOf (quadPaths q.val) s.now.toNat with
  | none => simp only [hNext, Bool.false_eq_true] at hLive
  | some n =>
    simp only [hNext] at hLive ⊢
    exact if_pos (of_decide_eq_true hLive)

end rffe

section coexistence
variable {c : Cox}

/-- A request rises ahead of the next span that needs it (R289). -/
theorem runs_coxRequestRise {pri : Bool} : Runs (.coxRequestRise c pri) (coxRequestRiseRule c pri) := by
  refine runs_of_act (execCoxRequestRise c pri) rfl (fun _ => rfl) fun s hpre => ?_
  cases hNext : s.coxNext c.val with
  | none => simp only [coxRequestRiseRule, hNext, Bool.false_and, Bool.false_eq_true] at hpre
  | some n =>
    simp only [coxRequestRiseRule, hNext, Bool.and_eq_true, decide_eq_true_eq, Option.getD_some] at hpre ⊢
    obtain ⟨⟨hAhead, hOn⟩, hFree⟩ := hpre
    exact if_pos ⟨⟨hOn, hFree⟩, hAhead⟩

theorem runs_coxGrantWithdrawn : Runs (.coxGrantWithdrawn c) (coxGrantWithdrawnRule c) :=
  runs_of_act (execCoxGrantWithdrawn c) rfl (fun _ => rfl) fun _ hpre => if_pos hpre

end coexistence

/-- Settles O15: each command by its own premises. -/
theorem frontEndEnables : Obligations.FrontEndEnables := by
  unfold Obligations.FrontEndEnables
  exact ⟨fun _ _ _ => runs_feTxenOn, fun _ => runs_feTxenOff, fun _ _ => runs_feRxenSwitch, fun _ => runs_rffeGroupStart,
    fun _ _ _ => runs_feRffecmd, fun _ _ _ => runs_rffecmdRun, fun _ => runs_loopbackReleaseByTraffic,
    fun _ _ => runs_coxRequestRise, fun _ => runs_coxGrantWithdrawn⟩

end Sys2Proof.Machine
end

