-- ==== Sys2Proof/Proofs/IngressItems.lean ====
section
/-! PROOF. Sections, partial sums, LNA steps and reset points on arrival (R159, R176, R218, R304): each passes the checks of its own
stage. What an LNA step places on its bus depends on nothing that the item's arrival changes. -/

namespace Sys2Proof.Machine
open Sys2Proof

section sections
variable {s : State} {it : Item} {g : Tag} {b : Bytes}

/-- A section of the receive direction, or with the lead of link ingress, goes to the sequencers of its route (R304). -/
theorem takeSection_onTime (hLen : 16 ≤ it.body.length)
    (hTime : (sectionRecord it.body).getLsbD 30 = true ∨ (s.ingressLead it : Int) ≤ lead it.tag.air s.now) :
    s.takeSection it = (bitsSet (fld (s.reg64 rSectroute)
      (5 * (2 * fld (sectionRecord it.body) 12 2 + fld (sectionRecord it.body) 30 1)) 5) 5).foldl
        (fun s k => s.queueSection it k) s := by
  have hLate : (!(sectionRecord it.body).getLsbD 30 && decide (lead it.tag.air s.now < (s.ingressLead it : Int))) = false := by
    rcases hTime with hRx | hLead
    · rw [hRx]
      rfl
    · rw [decide_eq_false (not_lt.mpr hLead), Bool.and_false]
  simp only [State.takeSection, hLate, Bool.false_eq_true, if_false, if_neg (not_lt.mpr hLen)]

theorem runs_sectionItem : Runs (.sectionItem g b) (sectionItemRule g b) := by
  refine runs_of_act (execSectionItem g b) rfl (fun _ => rfl) fun s hpre => ?_
  simp only [sectionItemRule, Bool.and_eq_true, Bool.or_eq_true, decide_eq_true_eq] at hpre
  obtain ⟨⟨⟨hAdmits, hp⟩, hLen⟩, hTime⟩ := hpre
  dsimp only
  rw [fromBaseband_admitted hAdmits, arrive_taken hp]
  exact takeSection_onTime (s := s.took .lnk 0 (mkItem kSection g b)) hLen hTime

end sections

section partials
variable {s : State} {it : Item} {g : Tag} {b : Bytes}

/-- A partial sum of a declared block that neither has left nor waits is kept for the own block (R176). -/
theorem takePartial_kept (hAwaited : s.waitsPartials = true) (hForm : partialForm it = true) (hSent : partKey it ∉ s.rx.sent)
    (hOwn : ∀ x ∈ s.rx.own, ulKey x.blk ≠ partKey it) (hDecl : (s.ulDecl (partKey it)).isSome = true) :
    s.takePartial it = { s with rx := { s.rx with
      parts := (s.rx.parts.filter fun (x : Item) => decide (lead x.tag.air s.now > -(2 ^ 26 : Int))) ++ [it] } } := by
  have hNone : (s.rx.own.find? fun x => ulKey x.blk = partKey it) = none :=
    List.find?_eq_none.mpr fun x hx => by simpa using hOwn x hx
  simp only [State.takePartial, hAwaited, hForm, hSent, hNone, hDecl, Bool.not_true, Bool.false_eq_true, if_false, if_true]

theorem runs_ulPartial : Runs (.ulPartial g b) (ulPartialRule g b) := by
  refine runs_of_act (execUlPartial g b) rfl (fun _ => rfl) fun s hpre => ?_
  simp only [ulPartialRule, Bool.and_eq_true, Bool.not_eq_true', decide_eq_false_iff_not, List.all_eq_true,
    List.contains_eq_mem] at hpre
  obtain ⟨⟨⟨⟨⟨hp, hAwaited⟩, hForm⟩, hSent⟩, hOwn⟩, hDecl⟩ := hpre
  dsimp only
  rw [arrive_taken hp]
  exact takePartial_kept (s := s.took .lnk 0 (mkItem kUlPartial g b)) hAwaited hForm hSent hOwn hDecl

end partials

section lnaWrites
variable {s : State} {n : List NetItem} {t b : Nat} {a e : Int} {g : Tag} {f : BitVec 64} {ps : List Nat} {x : State × Bool}

/-- The state with another network of items on their way. -/
def State.withNet (s : State) (n : List NetItem) : State := { s with net := n }

/-- An LNA step's RFFE write is a Register Write that leaves bit 7 and the reserved bits clear (R159, R273, R274). -/
theorem frameOk_lnaFrame : frameOk (s.lnaFrame t).1.2 false = true := by
  have hAddr : fld (Config.freeWord s.free) 1 4 < 2 ^ 4 := Nat.mod_lt _ (by decide)
  have hReg : fld (Config.freeWord s.free) 5 5 < 2 ^ 5 := Nat.mod_lt _ (by decide)
  have hData : fld (Config.freeWord s.free) 16 8 < 2 ^ 8 := Nat.mod_lt _ (by decide)
  have hWord : (s.lnaFrame t).1.2.toNat = 2 ^ 3 * fld (Config.freeWord s.free) 1 4 +
      2 ^ 8 * fld (Config.freeWord s.free) 5 5 + 2 ^ 32 * fld (Config.freeWord s.free) 16 8 := Nat.mod_eq_of_lt (by omega)
  simp only [frameOk, fld, nbits, BitVec.getLsbD, Nat.testBit_eq_decide_div_mod_eq, hWord, Bool.false_or, Bool.and_eq_true,
    decide_eq_true_eq, Bool.not_eq_true', decide_eq_false_iff_not] at hAddr hReg hData ⊢
  omega

/-- A valid frame is scheduled with nothing counted (R274). -/
theorem skipBad_valid (hf : frameOk f false = true) : s.skipBad t [f] = (s, [f]) := by
  simp [State.skipBad, hf]

/-- Where a valid frame is placed, it is placed alike over another network. -/
theorem placeGroup_withNet (hf : frameOk f false = true) (h : (s.placeGroup b e [f] g).2 = true) :
    (s.withNet n).placeGroup b e [f] g = ((s.placeGroup b e [f] g).1.withNet n, true) := by
  simp only [State.placeGroup, skipBad_valid hf, List.isEmpty_cons, Bool.false_eq_true, if_false] at h ⊢
  split at h
  · cases h
  · next hFree => exact (if_neg hFree).trans (by rw [if_neg hFree]; rfl)

/-- The RFFE write of an LNA step for one path (R159). -/
def State.lnaWrite (s : State) (t : Nat) (a : Int) (g : Tag) : State × Bool :=
  s.drawn.placeGroup (s.lnaFrame t).1.1 (a - fld (s.reg (rLnaadv t)) 0 12) [(s.lnaFrame t).1.2] g

/-- The write of one more path, beside whether those before it were placed. -/
def lnaStepWrite (t : Nat) (a : Int) (g : Tag) (x : State × Bool) (_ : Nat) : State × Bool :=
  ((x.1.lnaWrite t a g).1, x.2 && (x.1.lnaWrite t a g).2)

theorem placeLna_eq_foldl : s.placeLna t ps a g = ps.foldl (lnaStepWrite t a g) (s, true) := rfl

/-- All the writes are placed only where those so far were. -/
theorem placed_of_foldl (h : (ps.foldl (lnaStepWrite t a g) x).2 = true) : x.2 = true := by
  induction ps generalizing x with
  | nil => exact h
  | cons p ps ih => exact (Bool.and_eq_true_iff.mp (ih h)).1

theorem lnaStepWrite_withNet {p : Nat} (h : (lnaStepWrite t a g x p).2 = true) :
    lnaStepWrite t a g (x.1.withNet n, x.2) p = ((lnaStepWrite t a g x p).1.withNet n, (lnaStepWrite t a g x p).2) := by
  obtain ⟨-, hPlaced⟩ := Bool.and_eq_true_iff.mp h
  have hWrite : (x.1.withNet n).lnaWrite t a g = ((x.1.lnaWrite t a g).1.withNet n, true) :=
    placeGroup_withNet (s := x.1.drawn) frameOk_lnaFrame hPlaced
  simp only [lnaStepWrite, hWrite, hPlaced]

theorem foldl_lnaStepWrite_withNet (h : (ps.foldl (lnaStepWrite t a g) x).2 = true) :
    ps.foldl (lnaStepWrite t a g) (x.1.withNet n, x.2) =
      ((ps.foldl (lnaStepWrite t a g) x).1.withNet n, (ps.foldl (lnaStepWrite t a g) x).2) := by
  induction ps generalizing x with
  | nil => rfl
  | cons p ps ih => rw [List.foldl_cons, List.foldl_cons, lnaStepWrite_withNet (placed_of_foldl h), ih h]

/-- An LNA step's writes that are all placed are placed too once the step has left the network (R159). -/
theorem placeLna_took {p : Port} {i : Nat} {it : Item} (h : (s.placeLna t ps a g).2 = true) :
    ((s.took p i it).placeLna t ps a g).2 = true :=
  (congrArg Prod.snd (foldl_lnaStepWrite_withNet (n := (takeNet p i it s.net).1) h)).trans h

/-- The writes of an LNA step, one for each path that it names (R159). -/
def State.lnaWrites (s : State) (t : Nat) (it : Item) : State × Bool :=
  s.placeLna t (tileMaskPaths t (pbits it.body 0 16)) (fullTick it.tag.air s.now) it.tag

/-- An LNA step of the tile's own source, on the start of a symbol, with lead and with its writes placed, waits (R159). -/
theorem takeLna_placed {it : Item} {pc : BitVec 19} (hSource : it.tag.source.toNat = t) (hLate : it.tag.late = false)
    (hStart : (s.fftAt .rx it.tag.carrier.toNat (fullTick it.tag.air s.now)).isSymStart (fullTick it.tag.air s.now) = true)
    (hLead : ((max 16384 (8192 + s.pathsRxAdv (tileMaskPaths t (pbits it.body 0 16))) : Nat) : Int) ≤ lead it.tag.air s.now)
    (hPlaced : (s.lnaWrites t it).2 = true) :
    s.takeLna t it pc = (s.lnaWrites t it).1.enqueue ⟨.flt, t, it, it.tag.air, false, pc⟩ := by
  unfold State.lnaWrites at hPlaced ⊢
  generalize hWrites : s.placeLna t _ _ it.tag = y at hPlaced ⊢
  obtain ⟨u, placed⟩ := y
  subst hPlaced
  simp only [State.takeLna, hSource, hLate, hStart, not_lt.mpr hLead, hWrites, ne_eq, not_true_eq_false, decide_false,
    Bool.not_true, Bool.or_self, Bool.and_false, Bool.false_eq_true, if_false]

end lnaWrites

theorem runs_lnaStep {t : Tile} {g : Tag} {b : Bytes} : Runs (.lnaStep t g b) (lnaStepRule t g b) := by
  refine runs_of_act (execLnaStep t g b) rfl (fun _ => rfl) fun s hpre => ?_
  simp only [lnaStepRule, Bool.and_eq_true, Bool.not_eq_true', decide_eq_true_eq] at hpre
  obtain ⟨⟨⟨⟨⟨hp, hSource⟩, hLate⟩, hStart⟩, hLead⟩, hPlaced⟩ := hpre
  dsimp only
  rw [arrive_taken hp]
  exact takeLna_placed (s := s.took .flt t.val (mkItem kGain g (setPay b 18 1 1))) (it := mkItem kGain g (setPay b 18 1 1))
    (pc := (takeNet .flt t.val (mkItem kGain g (setPay b 18 1 1)) s.net).2) hSource hLate hStart hLead (placeLna_took hPlaced)

section resets
variable {s : State} {t : Nat} {it : Item} {t0 : Int}

/-- The directions that a SYNC_RESET names (R218). -/
def namedDirs (b : Bytes) : List Dir := (if pbit b 0 then [Dir.tx] else []) ++ (if pbit b 1 then [Dir.rx] else [])

/-- The reset tick of a SYNC_RESET: its AIRTIME, or with ALIGN the next tick of the TSYNC grid (R218). -/
def State.resetTick (s : State) (g : Tag) (b : Bytes) : Option Int :=
  if pbit b 6 then s.gridTick (fullTick g.air s.now) else some (fullTick g.air s.now)

/-- A SYNC_RESET that names a direction, with the lead of each that it names, and its reset tick near, waits for it (R218). -/
theorem takeSync_onTime (hTick : s.resetTick it.tag it.body = some t0) (hNear : t0 - fullTick it.tag.air s.now ≤ 2 ^ 24)
    (hNamed : (namedDirs it.body).isEmpty = false)
    (hLead : ∀ d ∈ namedDirs it.body, ((leadRow .flt d).1 : Int) ≤ lead it.tag.air s.now) :
    s.takeSync t it = { s with rx := { s.rx with
      syncs := s.rx.syncs ++ [⟨t, t0.toNat, namedDirs it.body, pbits it.body 2 4, it.tag⟩] } } := by
  have hFar : ¬2 ^ 24 < t0 - fullTick it.tag.air s.now := not_lt.mpr hNear
  have hNone : ((namedDirs it.body).filter fun d =>
      !it.tag.late && decide (lead it.tag.air s.now < ((leadRow .flt d).1 : Int))) = [] :=
    List.filter_eq_nil_iff.mpr fun d hd => by simp [not_lt.mpr (hLead d hd)]
  have hAll : ((namedDirs it.body).filter fun d =>
      !(!it.tag.late && decide (lead it.tag.air s.now < ((leadRow .flt d).1 : Int)))) = namedDirs it.body :=
    List.filter_eq_self.mpr fun d hd => by simp [not_lt.mpr (hLead d hd)]
  unfold State.resetTick at hTick
  unfold namedDirs at *
  simp only [State.takeSync, hTick, hFar, hNone, hAll, hNamed, if_false, List.foldl_nil, Bool.false_eq_true]

theorem runs_syncReset {t : Tile} {g : Tag} {b : Bytes} : Runs (.syncReset t g b) (syncResetRule t g b) := by
  refine runs_of_act (execSyncReset t g b) rfl (fun _ => rfl) fun s hpre => ?_
  simp only [syncResetRule, Bool.and_eq_true, Bool.not_eq_true', decide_eq_true_eq, List.all_eq_true] at hpre
  obtain ⟨⟨⟨⟨hp, hNamed⟩, -⟩, hLead⟩, hTick⟩ := hpre
  obtain ⟨t0, hSome, hNear⟩ : ∃ t0, s.resetTick g b = some t0 ∧ t0 - fullTick g.air s.now ≤ 2 ^ 24 := by
    split at hTick
    · next t0 hSome => exact ⟨t0, hSome, of_decide_eq_true hTick⟩
    · cases hTick
  dsimp only
  rw [arrive_taken hp, takeSync_onTime (s := s.took .flt t.val (mkItem kSyncReset g b)) (it := mkItem kSyncReset g b) hSome hNear
    hNamed hLead, show t0 = (s.resetTick g b).getD 0 by rw [hSome, Option.getD_some]]
  rfl

end resets

/-- Settles O7: each of the four passes its own checks, and an LNA step's writes are placed as before it left the network. -/
theorem ingressItems : Obligations.IngressItems := by
  unfold Obligations.IngressItems
  exact ⟨fun _ _ => runs_sectionItem, fun _ _ => runs_ulPartial, fun _ _ _ => runs_lnaStep, fun _ _ _ => runs_syncReset⟩

end Sys2Proof.Machine
end

