-- ==== Sys2Proof/Proofs/Synthesisers.lean ====
section
/-! PROOF. Synthesisers: readiness of a symbol, ends of tuning and calibration, switch spans, lock loss, calibration words and REFCLK
(R255-R265, R587). What a lock loss counts and signals leaves SYNk_CFG alone, so the attempts it allows are those it allowed before. -/

namespace Sys2Proof.Machine
open Sys2Proof

/-! ## Registers that events and blanked symbols leave alone (R54, R105, R426) -/

/-- The registers above the ports' counters and below the tiles' stand as they were. -/
def SameMiddle (s t : State) : Prop := ∀ i, 0x15000 ≤ i → i < 0x60000 → t.reg i = s.reg i

section middle
variable {s t u : State} {off e k n : Nat}

theorem SameMiddle.of_regs (h : t.regs = s.regs) : SameMiddle s t := fun _ _ _ => by rw [State.reg, h, State.reg]

theorem SameMiddle.refl : SameMiddle s s := .of_regs rfl

theorem SameMiddle.trans (h : SameMiddle s t) (h' : SameMiddle t u) : SameMiddle s u :=
  fun i hLo hHi => (h' i hLo hHi).trans (h i hLo hHi)

theorem SameMiddle.ite {c : Prop} [Decidable c] (ht : SameMiddle s t) (hu : SameMiddle s u) :
    SameMiddle s (if c then t else u) := by
  split
  · exact ht
  · exact hu

theorem SameMiddle.foldl {α : Type} {f : State → α → State} {l : List α} (hf : ∀ s, ∀ a ∈ l, SameMiddle s (f s a)) :
    SameMiddle s (l.foldl f s) :=
  List.foldlRecOn l f (motive := SameMiddle s) .refl fun u hu a ha => hu.trans (hf u a ha)

/-- A counter of the events, the ports, the tiles or the front end. -/
theorem sameMiddle_bumpBy (h : off < 0x15000 ∨ 0x60000 ≤ off) : SameMiddle s (s.bumpBy off n) :=
  fun _ _ _ => reg_setReg_ne (by omega)

theorem sameMiddle_sendOwn {car : Option Nat} {type vc : Nat} {x : Bytes} : SameMiddle s (s.sendOwn car type vc x) := by
  refine .ite (.of_regs rfl) (sameMiddle_bumpBy (.inl ?_))
  have hPort := upPort_lt (s := s) (car := car)
  unfold cPort
  omega

theorem sameMiddle_wakeSeq : SameMiddle s (s.wakeSeq e k) := by
  unfold State.wakeSeq
  dsimp only
  split
  · exact .ite .refl (.of_regs rfl)
  · exact .refl

theorem sameMiddle_msix : SameMiddle s (s.msix n) := .ite (.of_regs rfl) (.of_regs rfl)

theorem sameMiddle_deliver {route : BitVec 32} {rep : Nat} : SameMiddle s (s.deliver e route rep) :=
  (SameMiddle.ite sameMiddle_msix .refl).trans ((SameMiddle.ite sameMiddle_sendOwn .refl).trans (.foldl fun _ _ _ => sameMiddle_wakeSeq))

/-- An event counts in EV_CNT, and a frame of it that is discarded at its port (R105, R426). -/
theorem sameMiddle_signal (he : e < 128) : SameMiddle s (s.signal e) := by
  have hOccurred : SameMiddle s (s.occurred e) :=
    sameMiddle_bumpBy (s := { s with evPend := _ }) (.inl (by unfold rEvCnt; omega))
  by_cases hFlight : (s.evOf e).flight = none
  · rw [signal_idle hFlight]
    exact hOccurred.trans (SameMiddle.trans (.of_regs rfl) sameMiddle_deliver)
  · rw [signal_inFlight hFlight]
    exact hOccurred.trans (.of_regs rfl)

/-- A blanked symbol or block counts on its tile, with the tile's event (R54). -/
theorem sameMiddle_blankTd (ht : n < 4) : SameMiddle s (s.blankTd n) :=
  (sameMiddle_bumpBy (.inr (by unfold cTile rTile; omega))).trans (sameMiddle_signal (by omega))

theorem sameMiddle_blankTo {mask : BitVec 16} {from_ until_ : Int} {ts : List Nat} {car : Nat} {a : Air} (hts : ∀ t ∈ ts, t < 4) :
    SameMiddle s (State.blankTo mask from_ until_ s ts car a) := by
  refine .foldl fun u t ht => .ite (.ite (.of_regs rfl) (.of_regs rfl)) ?_
  exact SameMiddle.trans (t := { u with blanked := _ }) (.of_regs rfl) (sameMiddle_blankTd (hts t ht))

theorem sameMiddle_countFlight (ht : n < 4) : SameMiddle s (s.countFlight n) :=
  SameMiddle.trans (.foldl fun _ _ _ => sameMiddle_blankTo (by simpa using ht)) (.foldl fun _ _ _ => sameMiddle_blankTd ht)

theorem sameMiddle_dropTxEn : SameMiddle s (s.dropTxEn n) :=
  .ite (.ite (.of_regs rfl) (.of_regs rfl)) (.of_regs rfl)

end middle

/-! ## Readiness, and the ends of tuning and calibration (R255-R257, R259, R261, R265) -/

section tuning
variable {k : Syn} {t : Tile}

/-- A symbol that its advance has reached, where nothing but the synthesiser keeps the tile from sending (R259). -/
theorem runs_txReadinessTest {c : Carrier} {a : Air} : Runs (.txReadinessTest t c a) (txReadinessTestRule t c a) := by
  refine runs_of_act (execTxReadinessTest t c a) rfl (fun _ => rfl) fun s hpre => ?_
  simp only [txReadinessTestRule, txReadinessRule, Bool.and_eq_true, Bool.not_eq_true', decide_eq_true_eq] at hpre
  obtain ⟨⟨⟨⟨hReached, hOff⟩, hFenced⟩, hStopped⟩, hNotReady⟩ := hpre
  refine (if_neg ?_).trans ((if_neg (Bool.eq_false_iff.mp hStopped)).trans (if_pos ?_))
  · simp [not_lt.mpr hReached, hOff, hFenced]
  · rw [hNotReady, Bool.not_false]

theorem runs_prepComplete : Runs (.prepComplete k) (prepCompleteRule k) :=
  runs_of_act (execPrepComplete k) rfl (fun _ => rfl) fun _ hpre => if_pos (of_decide_eq_true hpre)

/-- A calibration that neither a SWITCH nor a waiting item stops, that locks, and whose record R254 takes (R255, R261). -/
theorem runs_calComplete {found : CalResult} : Runs (.calComplete k found) (calCompleteRule k found) := by
  refine runs_of_act (execCalComplete k found) rfl (fun _ => rfl) fun s hpre => ?_
  simp only [calCompleteRule] at hpre ⊢
  cases hWork : (s.synOf k.val).work with
  | none => simp [hWork] at hpre
  | some w =>
    simp only [hWork, Option.any_some, Option.all_some, Bool.and_eq_true, Bool.not_eq_true', decide_eq_true_eq] at hpre
    obtain ⟨⟨⟨⟨⟨hCal, hCalibrating⟩, hStays⟩, hNoneWaits⟩, hLocked⟩, hTaken⟩ := hpre
    have hEnds : ((s.synOf k.val).state = .calibrating && w.cal && !(s.synOf k.val).mustYield &&
        (s.synOf k.val).waiting.isEmpty) = true := by
      simp [hCal, hCalibrating, hStays, hNoneWaits]
    exact (if_pos hEnds).trans ((if_neg (by simp [hLocked])).trans (if_neg (Bool.eq_false_iff.mp hTaken)))

theorem runs_calYield : Runs (.calYield k) (calYieldRule k) :=
  runs_of_act (execCalYield k) rfl (fun _ => rfl) fun _ hpre => if_pos hpre

/-- The rule writes out the spans and the symbols that they touch (R258). -/
theorem runs_switchSpanStart : Runs (.switchSpanStart t) (switchSpanStartRule t) :=
  runs_of_act (execSwitchSpanStart t) rfl (fun _ => rfl) fun _ _ => rfl

end tuning

/-! ## Lock loss and calibration words (R254, R262, R587) -/

section lock
variable {s : State} {k : Syn}

/-- The tile that transmits with the synthesiser is cut (R262). -/
def State.cutTile (s : State) (t : Nat) : State := (tileQuads t).foldl State.dropTxEn ((s.countFlight t).cutQuads false (tileQuads t))

theorem sameMiddle_cutTile {t : Nat} (ht : t < 4) : SameMiddle s (s.cutTile t) :=
  (sameMiddle_countFlight ht).trans (SameMiddle.trans (.of_regs rfl) (.foldl fun _ _ _ => sameMiddle_dropTxEn))

/-- A synthesiser begins its relock, from the entry that it holds and without PHSYNC (R262, R264). -/
def State.relockSyn (s : State) (k : Nat) : State :=
  s.setSyn k { s.synOf k with
    state := .tuning, ready := false, relock := true, work := some { cal := false, entry := (s.synOf k).entry }, phaseAt := none
    tunedAt := s.clock }

/-- SYNk_CFG after a lock loss is counted and signalled, the tile cut or not (R262). -/
theorem reg_synCfg_lockLost {c : Prop} [Decidable c] :
    (((if c then (s.relockSyn k.val).cutTile (k.val / 2) else s.relockSyn k.val).bump (cSyn k.val 2)).signal
      (88 + k.val / 2)).reg (rSynCfg k.val) = s.reg (rSynCfg k.val) := by
  have hk := k.isLt
  have hLo : 0x15000 ≤ rSynCfg k.val := by unfold rSynCfg; omega
  have hHi : rSynCfg k.val < 0x60000 := by unfold rSynCfg; omega
  have hRelock : SameMiddle s (s.relockSyn k.val) := .of_regs rfl
  have hCut : SameMiddle s (if c then (s.relockSyn k.val).cutTile (k.val / 2) else s.relockSyn k.val) :=
    .ite (hRelock.trans (sameMiddle_cutTile (by omega))) hRelock
  rw [sameMiddle_signal (by omega) _ hLo hHi, ← hCut _ hLo hHi, State.bump, State.bumpBy,
    reg_setReg_ne (by unfold rSynCfg cSyn; omega)]

/-- Where RETRY allows an attempt the relock goes on (R262). -/
theorem runs_lockLoss : Runs (.lockLoss k) (lockLossRule k) := by
  refine runs_of_act (execLockLoss k) rfl (fun _ => rfl) fun s hpre => ?_
  obtain ⟨hReady, hRetry⟩ := Bool.and_eq_true_iff.mp hpre
  refine (if_pos hReady).trans (if_neg fun hZero => of_decide_eq_true hRetry ?_)
  exact (congrArg (fld · 0 2) reg_synCfg_lockLost).symm.trans hZero

theorem runs_relockFailure : Runs (.relockFailure k) (relockFailureRule k) :=
  runs_of_act (execRelockFailure k) rfl (fun _ => rfl) fun _ hpre => if_pos hpre

/-- A word that R254 does not refuse, while the synthesisers' registers answer. -/
theorem runs_syncalCommit {w : Initiator} {e : CalEntry} {v : BitVec 32} :
    Runs (.syncalCommit w k e v) (syncalCommitRule w k e v) := by
  refine runs_of_act (f := fun s => s.regDo w fun s => s.commitCal w k.val e.val v) (execSyncalCommit w k e v) rfl (fun _ => rfl) fun s hpre => ?_
  simp only [syncalCommitRule, Bool.and_eq_true, Bool.not_eq_true'] at hpre
  obtain ⟨hOn, hTaken⟩ := hpre
  exact (if_pos hOn).trans (if_neg (Bool.eq_false_iff.mp hTaken))

end lock

/-! ## REFCLK (R263) -/

theorem runs_refclkLoss : Runs .refclkLoss refclkLossRule :=
  runs_of_act execRefclkLoss rfl (fun _ => rfl) fun _ _ => rfl

theorem runs_refclkReturn : Runs .refclkReturn refclkReturnRule :=
  runs_of_act execRefclkReturn rfl (fun _ => rfl) fun _ _ => rfl

/-- Settles O14: each command by its own premises; a lock loss leaves the attempts that SYNk_CFG allows. -/
theorem synthesisers : Obligations.Synthesisers := by
  unfold Obligations.Synthesisers
  exact ⟨fun _ _ _ => runs_txReadinessTest, fun _ => runs_prepComplete, fun _ _ => runs_calComplete, fun _ => runs_calYield,
    fun _ => runs_switchSpanStart, fun _ => runs_lockLoss, fun _ => runs_relockFailure, fun _ _ _ _ => runs_syncalCommit,
    runs_refclkLoss, runs_refclkReturn⟩

end Sys2Proof.Machine
end

