-- ==== Sys2Proof/Proofs/Protection.lean ====
section
/-! PROOF. Muted paths, the limiter, duty, RF_SAFE_N, the regulatory record and the die temperatures (R279-R281, R284-R288, R592).
An event leaves the front end alone, so a die at its warning takes nothing from what the shutdown limit asks. -/

namespace Sys2Proof.Machine
open Sys2Proof

/-! ## The front end under an event (R105, R516, R517) -/

section events
variable {s t u : State} {e k n : Nat}

theorem fe_ite {c : Prop} [Decidable c] (ht : t.fe = s.fe) (hu : u.fe = s.fe) : (if c then t else u).fe = s.fe := by
  split
  · exact ht
  · exact hu

theorem fe_wakeSeq : (s.wakeSeq e k).fe = s.fe := by
  unfold State.wakeSeq
  dsimp only
  split
  · exact fe_ite rfl rfl
  · rfl

theorem fe_msix : (s.msix n).fe = s.fe := fe_ite rfl rfl

theorem fe_sendOwn {car : Option Nat} {type vc : Nat} {x : Bytes} : (s.sendOwn car type vc x).fe = s.fe := fe_ite rfl rfl

theorem fe_deliver {route : BitVec 32} {rep : Nat} : (s.deliver e route rep).fe = s.fe :=
  List.foldlRecOn (motive := fun t : State => t.fe = s.fe) _ _ ((fe_ite fe_sendOwn rfl).trans (fe_ite fe_msix rfl))
    fun _ ht _ _ => fe_wakeSeq.trans ht

theorem signal_fe : (s.signal e).fe = s.fe := by
  by_cases hFlight : (s.evOf e).flight = none
  · rw [signal_idle hFlight, fe_deliver]
    rfl
  · rw [signal_inFlight hFlight]
    rfl

end events

/-! ## Muted paths (R280) -/

/-- The host or management releases; another initiator's write is an error. -/
theorem runs_feMuteRelease {w : Initiator} {t : Tile} {mask : BitVec 64} :
    Runs (.feMuteRelease w t mask) (feMuteReleaseRule w t mask) := by
  refine runs_unitAct (w := w) (off := rFe t.val 0x40) (f := fun s => s.writeMute w t.val mask) (fun _ => rfl) (fun s hpre => ?_)
    fun s hpre => ?_
  all_goals
    obtain ⟨hFrom, hTakes⟩ := Bool.and_eq_true_iff.mp hpre
  · exact hTakes
  · refine if_neg ?_
    simp only [Bool.or_eq_true, decide_eq_true_eq] at hFrom
    rcases hFrom with rfl | rfl <;> decide

/-- A path that is muted no more has a tick of resumption (R280). -/
theorem muteResume_released {s : State} {p : Nat} (h : s.fe.mute.getLsbD p = false) :
    s.muteResume p = some (s.firstSymOf (tileOfPath p) (tget (fun _ => 0) s.fe.muteRel p + 8192 + s.txAdv (quadOfPath p) : Nat)) :=
  if_neg (Bool.eq_false_iff.mp h)

theorem runs_mutedPathResume {p : Path} : Runs (.mutedPathResume p) (mutedPathResumeRule p) := by
  refine runs_of_act (execMutedPathResume p) rfl (fun _ => rfl) fun s hpre => ?_
  simp only [mutedPathResumeRule, Bool.and_eq_true, Bool.not_eq_true'] at hpre
  obtain ⟨⟨hSilent, hReleased⟩, hReached⟩ := hpre
  simp only [muteResume_released hReleased]
  exact if_pos (Bool.and_eq_true_iff.mpr ⟨hSilent, hReached⟩)

/-! ## The limiter and the duty windows (R284-R286) -/

section limiter
variable {p : Path}

/-- A record is in force; the draw that rounds the gain leaves the path's factors, which the rule reads before it (R284, R285). -/
theorem runs_limiterWindow : Runs (.limiterWindow p) (limiterWindowRule p) := by
  refine runs_of_act (execLimiterWindow p) rfl (fun _ => rfl) fun s hpre => ?_
  obtain ⟨r, hRecord⟩ := Option.isSome_iff_exists.mp hpre
  simp only [limiterWindowRule, hRecord]
  rfl

theorem runs_limiterLevelExchange {t : Tile} : Runs (.limiterLevelExchange t) (limiterLevelExchangeRule t) := by
  refine runs_of_act (execLimiterLevelExchange t) rfl (fun _ => rfl) fun s hpre => ?_
  obtain ⟨r, hRecord⟩ := Option.isSome_iff_exists.mp hpre
  simp only [limiterLevelExchangeRule, hRecord]

/-- A factor as it rises: one at 1.0 stays, and one below it is rounded by a draw (R285). -/
def State.riseFactor (s : State) (x : BitVec 16) : BitVec 16 × State := if x = 0x8000 then (x, s) else s.roundGain (risenGain x.toNat)

theorem riseFactor_now {s : State} {x : BitVec 16} : (s.riseFactor x).2.now = s.now := by
  unfold State.riseFactor
  split <;> rfl

/-- The rule dates the change before the draws of both factors, which take no time (R285). -/
theorem runs_limiterGainRise : Runs (.limiterGainRise p) (limiterGainRiseRule p) := by
  refine runs_of_act (execLimiterGainRise p) rfl (fun _ => rfl) fun s hpre => (if_pos hpre).trans ?_
  let own := s.riseFactor (s.limOf p.val).own
  let dev := own.2.riseFactor (s.limOf p.val).dev
  have hNow : dev.2.now = s.now := riseFactor_now.trans riseFactor_now
  calc
    _ = dev.2.setLim p.val ⟨own.1, dev.1, dev.2.now.toNat⟩ := rfl
    _ = dev.2.setLim p.val ⟨own.1, dev.1, s.now.toNat⟩ := by rw [hNow]
    _ = (limiterGainRiseRule p).eff s := rfl

theorem runs_dutyLimitReached : Runs (.dutyLimitReached p) (dutyLimitReachedRule p) := by
  refine runs_of_act (execDutyLimitReached p) rfl (fun _ => rfl) fun s hpre => ?_
  obtain ⟨hIn, hLimit⟩ := Bool.and_eq_true_iff.mp hpre
  cases hRecord : s.regRecord with
  | none => simp only [hRecord, Bool.false_eq_true] at hLimit
  | some r =>
    simp only [hRecord] at hLimit ⊢
    exact if_pos (Bool.and_eq_true_iff.mpr ⟨hIn, hLimit⟩)

theorem runs_dutyWindowStart : Runs .dutyWindowStart dutyWindowStartRule :=
  runs_of_act execDutyWindowStart rfl (fun _ => rfl) fun _ hpre => if_pos (of_decide_eq_true hpre)

end limiter

/-! ## RF_SAFE_N and the regulatory record (R284, R288) -/

section safety
variable {q : Quad}

/-- The line is high before it falls. -/
theorem runs_rfSafeNFall : Runs .rfSafeNFall rfSafeNFallRule :=
  runs_of_act execRfSafeNFall rfl (fun _ => rfl) fun _ hpre => if_neg (by simpa [rfSafeNFallRule] using hpre)

/-- The line is low before it rises. -/
theorem runs_rfSafeNRise : Runs .rfSafeNRise rfSafeNRiseRule :=
  runs_of_act execRfSafeNRise rfl (fun _ => rfl) fun _ hpre => if_neg (by simpa [rfSafeNRiseRule] using hpre)

/-- After the rise a quad is held until its tick of resumption and no longer (R288). -/
theorem safeHeldAt_resumed {s : State} {q r : Nat} {t : Int} (hRise : s.fe.safeRise = some r)
    (h : s.firstSymOf (quadTile q) (r + 8192 + s.txAdv q : Nat) ≤ t) : s.safeHeldAt q t = false := by
  simp only [State.safeHeldAt, State.safeResume, hRise, Option.map_some, decide_eq_false (not_lt.mpr h), Bool.and_false]

theorem runs_rfSafeResume : Runs (.rfSafeResume q) (rfSafeResumeRule q) := by
  refine runs_of_act (execRfSafeResume q) rfl (fun _ => rfl) fun s hpre => ?_
  obtain ⟨-, hReached⟩ := Bool.and_eq_true_iff.mp hpre
  cases hRise : s.fe.safeRise with
  | none => simp only [hRise, Bool.false_eq_true] at hReached
  | some r =>
    simp only [hRise] at hReached
    refine if_pos ?_
    rw [safeHeldAt_resumed hRise (of_decide_eq_true hReached)]
    rfl

theorem runs_regulatoryReadFailure : Runs .regulatoryReadFailure regulatoryReadFailureRule := by
  refine runs_of_act execRegulatoryReadFailure rfl (fun _ => rfl) fun s hpre => ?_
  obtain ⟨r, hRecord⟩ := Option.isSome_iff_exists.mp hpre
  simp only [regulatoryReadFailureRule, hRecord]

end safety

/-! ## Die temperatures (R592) -/

section temperatures
variable {s : State} {shut told : Bool}

/-- A die is at the warning threshold (R592). -/
def State.anyDieWarm (s : State) : Bool := dies.any fun i => decide (s.warnLimit * 8 ≤ s.dieTemp i)

/-- Every die has cooled 5 degrees below the warning threshold (R592). -/
def State.allDiesCool (s : State) : Bool := dies.all fun i => decide (s.dieTemp i ≤ (s.warnLimit - 5) * 8)

/-- A die is at the shutdown limit (R592). -/
def State.anyDieShut (s : State) : Bool := dies.any fun i => decide (shutLimit * 8 ≤ s.dieTemp i)

/-- What the warning threshold asks of the temperatures as they stand: event 102, once until every die has cooled (R592). -/
def State.warned (s : State) : State :=
  if s.anyDieWarm && !s.fe.warnTold then ({ s with fe := { s.fe with warnTold := true } } : State).signal 102
  else if s.allDiesCool then { s with fe := { s.fe with warnTold := false } } else s

/-- What the shutdown limit asks of a device with a die at it, or with none, which has or has not told its shutdown (R592). -/
def State.shutDown (s : State) (shut told : Bool) : State :=
  if shut then
    if told then s else (({ s with fe := { s.fe with shutTold := true } } : State).signal 103).enterTimeout (some 2)
  else { s.clearCause 2 with fe := { s.fe with shutTold := false } }

/-- The warning does not touch whether shutdown was told. -/
theorem warned_shutTold : s.warned.fe.shutTold = s.fe.shutTold := by
  unfold State.warned
  split
  · rw [signal_fe]
  · split <;> rfl

/-- The rule takes the device with no die at the limit first. -/
theorem shutDown_eq : s.shutDown shut told =
    if !shut then { s.clearCause 2 with fe := { s.fe with shutTold := false } }
    else if told then s
    else (({ s with fe := { s.fe with shutTold := true } } : State).signal 103).enterTimeout (some 2) := by
  cases shut <;> rfl

/-- The model asks after the warning whether shutdown was told, and the rule before it. -/
theorem runs_temperatureUpdate {d : Die} {temp : BitVec 12} : Runs (.temperatureUpdate d temp) (temperatureUpdateRule d temp) := by
  refine runs_of_act (execTemperatureUpdate d temp) rfl (fun _ => rfl) fun s _ => ?_
  let u := s.setReg (rTsTemp d.val) (temp.zeroExtend 32)
  calc
    _ = u.warned.shutDown u.anyDieShut u.warned.fe.shutTold := rfl
    _ = u.warned.shutDown u.anyDieShut s.fe.shutTold := by rw [warned_shutTold, setReg_fe]
    _ = (temperatureUpdateRule d temp).eff s := shutDown_eq

theorem runs_thermAlertN : Runs .thermAlertN thermAlertNRule :=
  runs_of_act execThermAlertN rfl (fun _ => rfl) fun _ hpre => if_neg (by simpa [thermAlertNRule] using hpre)

end temperatures

/-- Settles O16: each command by its own premises; a warning leaves what the shutdown limit has told. -/
theorem protection : Obligations.Protection := by
  unfold Obligations.Protection
  exact ⟨fun _ => runs_limiterWindow, fun _ _ _ => runs_feMuteRelease, fun _ => runs_mutedPathResume,
    fun _ => runs_limiterLevelExchange, fun _ => runs_limiterGainRise, fun _ => runs_dutyLimitReached, fun _ => runs_rfSafeResume,
    fun _ _ => runs_temperatureUpdate, runs_dutyWindowStart, runs_rfSafeNFall, runs_rfSafeNRise, runs_regulatoryReadFailure,
    runs_thermAlertN⟩

end Sys2Proof.Machine
end

