-- ==== Sys2Proof/Proofs/SequencerSteps.lean ====
section
/-! PROOF. How a sequencer that issues goes through an instruction: its own effect, its own registers, and the next
instruction (R297, R323, R326). -/

namespace Sys2Proof.Machine
open Sys2Proof

/-- A command whose rule is written out as its premises and its effect: no projection of the rule is left to unfold beside a match
of theirs, where the kernel would evaluate what is matched. -/
theorem runs_mk {c : Instr} {f eff : State → State} {pre : State → Bool} (e : State → Host.Outcome State Fault Refusal)
    (he : e = act f) (hc : ∀ s, exec c s = e s) (hf : ∀ s : State, pre s = true → f s = eff s) : Runs c ⟨pre, eff⟩ :=
  runs_of_act e he hc hf

section steps
variable {c : Instr} {r : Rule} {s : State} {k : Nat} {q p : SeqSt}

/-- An instruction with defined fields, of a sequencer that issues, has its own effect (R297, R323). -/
theorem runs_seqIssue {ok : Bool} (f : SeqSt → State → State) (hc : ∀ s, exec c s = act (fun s => s.seqIssue k ok f) s)
    (hf : ∀ s, r.pre s = true → s.seqReady k = true ∧ ok = true ∧ f (s.seqOf k) s = r.eff s) : Runs c r := by
  refine runs_of_act _ rfl hc fun s hpre => ?_
  obtain ⟨hReady, hOk, hEffect⟩ := hf s hpre
  rw [seqIssue_ready hReady, hOk, if_pos rfl, hEffect]

/-- The instruction completes with its sequencer's registers as `q`, which leaves the program counter. -/
theorem seqNext_setSeq (h : inProgram p.after = true) (hpc : q.pc = p.pc) : (s.setSeq k q).seqNext k = s.setSeq k q.next := by
  have hNext : inProgram ((s.setSeq k q).seqOf k).after = true := by
    rw [seqOf_setSeq, SeqSt.after, hpc]
    exact h
  rw [seqNext_in hNext, seqOf_setSeq, setSeq_setSeq]

/-- An instruction that changes its sequencer's own registers, and not the program counter, follows the rule of such (R298). -/
theorem runs_seqReg {ok : Bool} {f g : State → SeqSt → SeqSt} (hc : ∀ s, exec c s = act (fun s => s.seqReg k ok (f s)) s)
    (hg : ∀ s q, f s q = g s q) (hpc : ∀ s q, (g s q).pc = q.pc) : Runs c (seqOwn k (fun _ => ok) g) := by
  refine runs_of_act _ rfl hc fun s hpre => ?_
  simp only [seqOwn, Bool.and_eq_true] at hpre
  obtain ⟨⟨hReady, hNext⟩, rfl⟩ := hpre
  rw [seqReg_ready hReady hNext (by rw [hg, hpc]), hg]
  rfl

end steps

end Sys2Proof.Machine
end

