-- ==== Sys2Proof/Proofs/SequencerImmediates.lean ====
section
/-! PROOF. The instructions of a sequencer with an immediate, EXT and INS (R298, R325, R328). -/

namespace Sys2Proof.Machine
open Sys2Proof

section results
variable {c : Instr} {k : Seq} {d : GReg} {ok : Bool} {x y : SeqSt → BitVec 64}

theorem alu_pc {q : SeqSt} {r : BitVec 64} {c v : Bool} : (q.alu d r c v).pc = q.pc := by
  rw [SeqSt.alu, setZncv_pc, setG_pc]

/-- An ALU instruction that clears C and V: its result alone is to be shown (R325). -/
theorem runs_aluRule_of_seqAlu {r : BitVec 64 → BitVec 64 → BitVec 64} {v : SeqSt → BitVec 64}
    (hc : ∀ s, exec c s = act (fun s => s.seqAlu k.val d x y ok fun p q => aluFlags (r p q)) s)
    (hv : ∀ q : SeqSt, v q = r (x q) (y q)) : Runs c (aluRule k d ok v) :=
  runs_seqReg (f := fun _ q => q.alu d (r (x q) (y q)) false false) hc (fun _ _ => by rw [hv]) fun _ _ => alu_pc

end results

section immediates
variable {k : Seq} {d a : GReg} {imm : Imm16}

/-- A sum with a sign-extended immediate (R325, R328). -/
theorem runs_seqAddi : Runs (.seqAddi k d a imm) (seqAddiRule k d a imm) := by
  have hImm : (imm.signExtend 64).toInt = imm.toInt := BitVec.toInt_signExtend_of_le (by decide)
  refine runs_seqReg (f := fun _ q =>
      (q.setG d (addFlags (q.reg a) (imm.signExtend 64)).1).setZncv (addFlags (q.reg a) (imm.signExtend 64)).2)
    (fun _ => rfl) (fun s q => ?_) fun _ _ => alu_pc
  rw [addFlags_eq, hImm]
  rfl

/-- The shift that imm[7:6] selects, by the amount in imm[5:0] (R328). -/
theorem runs_seqShi : Runs (.seqShi k d a imm) (seqShiRule k d a imm) := by
  refine runs_aluRule_of_seqAlu (fun _ => rfl) fun q => ?_
  cases fld imm 6 2 with
  | zero => rfl
  | succ n => cases n <;> rfl

end immediates

/-- Settles O18: ADDI by its flags, and the others by their results. -/
theorem sequencerImmediates : Obligations.SequencerImmediates := by
  unfold Obligations.SequencerImmediates
  refine ⟨fun _ _ _ _ => runs_seqAddi, fun k d a imm => ?and, fun k d a imm => ?or, fun k d a imm => ?xor,
    fun _ _ _ _ => runs_seqShi, fun k d a imm => ?setw, fun k d a imm => ?shor, fun k d a imm => ?ext, fun k d a imm => ?ins⟩
  case and => exact runs_aluRule_of_seqAlu (r := fun p q => p &&& q) (fun _ => rfl) fun _ => rfl
  case or => exact runs_aluRule_of_seqAlu (r := fun p q => p ||| q) (fun _ => rfl) fun _ => rfl
  case xor => exact runs_aluRule_of_seqAlu (r := fun p q => p ^^^ q) (fun _ => rfl) fun _ => rfl
  case setw => exact runs_seqReg (f := fun _ q => q.setG d (imm.signExtend 64)) (fun _ => rfl) (fun _ _ => rfl) fun _ _ => setG_pc
  case shor =>
    exact runs_seqReg (ok := true) (f := fun _ q => q.setG d ((q.reg a <<< 16) ||| imm.zeroExtend 64))
      (fun _ => rfl) (fun _ _ => rfl) fun _ _ => setG_pc
  case ext =>
    exact runs_aluRule_of_seqAlu (r := fun p _ => BitVec.ofNat 64 (fld p (extPos imm) (extLen imm))) (y := fun _ => 0)
      (fun _ => rfl) fun _ => rfl
  case ins =>
    exact runs_aluRule_of_seqAlu (r := fun p q => setFld q (extPos imm) (extLen imm) p.toNat) (fun _ => rfl) fun _ => rfl

end Sys2Proof.Machine
end

