-- ==== Sys2Proof/Proofs/SequencerSystem.lean ====
section
/-! PROOF. Time, special registers, sections, events, stalls, checkpoints and HALT of a sequencer (R299, R305, R310, R311,
R317, R331, R336). -/

namespace Sys2Proof.Machine
open Sys2Proof

section time
variable {c : Instr} {s : State} {k : Nat} {a : Air} {bound : Nat}

/-- AT and WAITT go on, or stall (R331). -/
theorem seqWait_in (h : inProgram (s.seqOf k).after = true) : s.seqWait k a bound =
    if lead a s.now ≤ bound then s.setSeq k (s.seqOf k).next
    else s.setSeq k { s.seqOf k with state := .stalled, stall := .time a bound } := by
  rw [State.seqWait, seqNext_in h]

theorem runs_waitRule {ok : Bool} {a : SeqSt → Air} {bound : SeqSt → Nat}
    (hc : ∀ s, exec c s = act (fun s => s.seqIssue k ok fun q s => s.seqWait k (a q) (bound q)) s) :
    Runs c (waitRule k ok a bound) := by
  refine runs_seqIssue (ok := ok) (fun q s => s.seqWait k (a q) (bound q)) hc fun s hpre => ?_
  simp only [waitRule, Bool.and_eq_true] at hpre
  obtain ⟨⟨hReady, hOk⟩, hNext⟩ := hpre
  exact ⟨hReady, hOk, seqWait_in hNext⟩

end time

section special
variable {k : Seq} {gd ga : GReg} {sel : Imm16}

/-- The special register that MFS reads (R299). -/
def State.specialReg (s : State) (q : SeqSt) (n : Nat) : Nat :=
  match n with
  | 0 => s.now.toNat
  | 1 => q.leadMax.toNat
  | 2 => q.ckpt
  | 3 => q.f.toNat
  | n => (q.epochOf (n - 0x20)).toNat

theorem specialReg_eq {s : State} {q : SeqSt} : BitVec.ofNat 64 (s.specialReg q sel.toNat) =
    if sel = 0 then s.now.zeroExtend 64 else if sel = 1 then q.leadMax.zeroExtend 64 else if sel = 2 then BitVec.ofNat 64 q.ckpt
    else if sel = 3 then q.f.zeroExtend 64 else (q.epochOf (sel.toNat - 0x20)).zeroExtend 64 := by
  simp only [← BitVec.toNat_inj (x := sel), BitVec.ofNat_eq_ofNat, BitVec.toNat_ofNat, BitVec.truncate_eq_setWidth]
  generalize sel.toNat = n
  match n with
  | 0 | 1 | 2 | 3 => simp [State.specialReg]
  | n + 4 => simp [State.specialReg]

theorem runs_seqMfs : Runs (.seqMfs k gd ga sel) (seqMfsRule k gd ga sel) :=
  runs_seqReg (f := fun s q => q.setG gd (BitVec.ofNat 64 (s.specialReg q sel.toNat))) (fun _ => rfl)
    (fun _ _ => by rw [specialReg_eq]) fun _ _ => setG_pc

/-- What MTS of `v` writes into the registers (R299). -/
def SeqSt.withSpecial (q : SeqSt) (n : Nat) (v : BitVec 64) : SeqSt :=
  match n with
  | 1 => if 65536 ≤ v.toNat ∧ v.toNat ≤ 15728640 then { q with leadMax := v.truncate 24 } else q
  | 3 => q.setZncv (v.truncate 4)
  | n => q.setEpoch (n - 0x20) (v.truncate 8)

theorem withSpecial_eq {q : SeqSt} {v : BitVec 64} : q.withSpecial sel.toNat v =
    if sel = 1 then (if 65536 ≤ v.toNat ∧ v.toNat ≤ 15728640 then { q with leadMax := v.truncate 24 } else q)
    else if sel = 3 then q.setZncv (v.truncate 4) else q.setEpoch (sel.toNat - 0x20) (v.truncate 8) := by
  simp only [← BitVec.toNat_inj (x := sel), BitVec.ofNat_eq_ofNat, BitVec.toNat_ofNat]
  generalize sel.toNat = n
  match n with
  | 0 | 1 | 2 | 3 => simp [SeqSt.withSpecial]
  | n + 4 => simp [SeqSt.withSpecial]

theorem withSpecial_pc {q : SeqSt} {n : Nat} {v : BitVec 64} : (q.withSpecial n v).pc = q.pc := by
  unfold SeqSt.withSpecial
  split
  · split <;> rfl
  · rfl
  · rfl

/-- LEAD and the flags are no EPOCH, and an EPOCH is written while no checkpoint is open (R299, R311). -/
theorem runs_seqMts : Runs (.seqMts k gd ga sel) (seqMtsRule k gd ga sel) := by
  refine runs_seqIssue (k := k.val) (ok := gd = 0 && (sel.toNat = 1 || sel.toNat = 3 || isEpochSel sel.toNat))
    (fun q s => if isEpochSel sel.toNat && q.opened then s.seqFault k.val 0xA
      else (s.setSeq k.val (q.withSpecial sel.toNat (q.reg ga))).seqNext k.val) (fun _ => rfl) fun s hpre => ?_
  simp only [seqMtsRule, seqOwn, Bool.and_eq_true, Bool.or_eq_true, decide_eq_true_eq, Bool.not_eq_true'] at hpre ⊢
  obtain ⟨⟨hReady, hNext⟩, hGd, hSel⟩ := hpre
  have hOk : (sel.toNat = 1 ∨ sel.toNat = 3) ∨ isEpochSel sel.toNat = true := by
    rcases hSel with (rfl | rfl) | ⟨hEpoch, -⟩
    · exact .inl (.inl rfl)
    · exact .inl (.inr rfl)
    · exact .inr hEpoch
  have hClosed : ¬ (isEpochSel sel.toNat = true ∧ (s.seqOf k.val).opened = true) := by
    rcases hSel with (rfl | rfl) | ⟨-, hClosed⟩
    · exact fun h => absurd h.1 (by decide)
    · exact fun h => absurd h.1 (by decide)
    · simp [hClosed]
  refine ⟨hReady, ⟨hGd, hOk⟩, ?_⟩
  rw [if_neg hClosed, seqNext_setSeq hNext withSpecial_pc, withSpecial_eq]

end special

section sections
variable {k : Seq} {gd ga gb : GReg} {func : BitVec 11} {s : State}

/-- A section record taken into registers leaves the program counter. -/
theorem take_pc {q : SeqSt} {x : Section} {rest : List Section} : (q.take gd x rest).pc = q.pc := by
  simp only [SeqSt.take, setG_pc]

/-- The section at the front is taken (R305, R336). -/
theorem seqRecv_front {k : Nat} {nb : Bool} {x : Section} {rest : List Section} (hReady : s.seqReady k = true)
    (hNext : inProgram (s.seqOf k).after = true) (hOk : (ga = 0 && gb = 0 && func.toNat < 2 : Bool) = true) (hGd : gd.toNat ≤ 28)
    (hQueue : (s.seqOf k).queue = x :: rest) : s.seqRecv k gd ga gb func nb = s.setSeq k ((s.seqOf k).take gd x rest).next := by
  rw [State.seqRecv, seqIssue_ready hReady, hOk, if_pos rfl, if_neg (Nat.not_lt.mpr hGd)]
  simp only [hQueue]
  exact seqNext_setSeq hNext take_pc

/-- With no section in its queue RECV.NB sets QE (R336). -/
theorem seqRecv_empty {k : Nat} (hReady : s.seqReady k = true)
    (hNext : inProgram (s.seqOf k).after = true) (hOk : (ga = 0 && gb = 0 && func.toNat < 2 : Bool) = true) (hGd : gd.toNat ≤ 28)
    (hQueue : (s.seqOf k).queue = []) :
    s.seqRecv k gd ga gb func true = s.setSeq k (SeqSt.next { s.seqOf k with f := setBit (s.seqOf k).f 4 true }) := by
  rw [State.seqRecv, seqIssue_ready hReady, hOk, if_pos rfl, if_neg (Nat.not_lt.mpr hGd)]
  simp only [hQueue, if_true]
  exact seqNext_setSeq hNext rfl

theorem runs_seqRecv : Runs (.seqRecv k gd ga gb func) (seqRecvRule k gd ga gb func) := by
  refine runs_of_act (execSeqRecv k gd ga gb func) rfl (fun _ => rfl) fun s hpre => ?_
  simp only [seqRecvRule, seqOwn, Bool.and_eq_true, decide_eq_true_eq, Bool.not_eq_true'] at hpre ⊢
  obtain ⟨⟨hReady, hNext⟩, ⟨⟨⟨hGa, hGb⟩, hFunc⟩, hGd⟩, hSome⟩ := hpre
  cases hQueue : (s.seqOf k.val).queue with
  | nil => simp [hQueue] at hSome
  | cons x rest => exact seqRecv_front hReady hNext (by simp [hGa, hGb, hFunc]) hGd hQueue

theorem runs_seqRecvNb : Runs (.seqRecvNb k gd ga gb func) (seqRecvNbRule k gd ga gb func) := by
  refine runs_of_act (execSeqRecvNb k gd ga gb func) rfl (fun _ => rfl) fun s hpre => ?_
  simp only [seqRecvNbRule, seqOwn, Bool.and_eq_true, decide_eq_true_eq] at hpre ⊢
  obtain ⟨⟨hReady, hNext⟩, ⟨⟨hGa, hGb⟩, hFunc⟩, hGd⟩ := hpre
  have hOk : (ga = 0 && gb = 0 && (setBit func 0 true).toNat < 2 : Bool) = true := by simp [hGa, hGb, hFunc]
  cases hQueue : (s.seqOf k.val).queue with
  | nil => simp only [seqRecv_empty hReady hNext hOk hGd hQueue, hQueue]
  | cons x rest => exact seqRecv_front hReady hNext hOk hGd hQueue

end sections

section events
variable {k : Seq} {gd ga gb : GReg} {func : BitVec 11}

/-- The software event is raised before the sequencer goes on: it may end a wait (R310, R336). -/
theorem runs_seqEvRaise : Runs (.seqEvRaise k gd ga gb func) (seqEvRaiseRule k gd ga gb func) := by
  refine runs_seqIssue (k := k.val) (ok := gd = 0 && gb = 0 && ga = 0 && fld func 1 10 = 0)
    (fun _ s => (s.signal (26 + k.val)).seqNext k.val) (fun _ => rfl) fun s hpre => ?_
  simp only [seqEvRaiseRule, Bool.and_eq_true] at hpre ⊢
  obtain ⟨⟨⟨⟨⟨hReady, hGd⟩, hGb⟩, hGa⟩, hFunc⟩, hNext⟩ := hpre
  exact ⟨hReady, ⟨⟨⟨hGd, hGb⟩, hGa⟩, hFunc⟩, seqNext_in hNext⟩

/-- A wait, or a poll that its timeout of zero ends (R336). -/
theorem runs_seqEvWait : Runs (.seqEvWait k gd ga gb func) (seqEvWaitRule k gd ga gb func) := by
  refine runs_seqIssue (k := k.val) (ok := gd = 0 && gb = 0 && fld func 1 10 = 0)
    (fun q s => if (q.reg ga).toNat = 0 then (s.setSeq k.val { q with f := setBit q.f 7 true }).seqNext k.val
      else s.setSeq k.val { q with state := .waiting, stall := .event (s.clock + (q.reg ga).toNat) s.heldEvents })
    (fun _ => rfl) fun s hpre => ?_
  simp only [seqEvWaitRule, Bool.and_eq_true] at hpre ⊢
  obtain ⟨⟨⟨⟨hReady, hGd⟩, hGb⟩, hFunc⟩, hNext⟩ := hpre
  exact ⟨hReady, ⟨⟨hGd, hGb⟩, hFunc⟩, ite_congr rfl (fun _ => seqNext_setSeq hNext rfl) fun _ => rfl⟩

theorem runs_seqEvWaitTimeout : Runs (.seqEvWaitTimeout k) (seqEvWaitTimeoutRule k) := by
  refine runs_of_act (execSeqEvWaitTimeout k) rfl (fun _ => rfl) fun s hpre => ?_
  simp only [seqEvWaitTimeoutRule, Bool.and_eq_true, decide_eq_true_eq] at hpre ⊢
  obtain ⟨⟨⟨hOn, hRefused⟩, hNext⟩, hDue⟩ := hpre
  cases hStall : (s.seqOf k.val).stall with
  | event t marks =>
    simp only [hStall, decide_eq_true_eq] at hDue
    simp only [hOn, hRefused, Nat.not_lt.mpr hDue, decide_false, Bool.not_true, Bool.or_self, ne_eq, not_true_eq_false, if_false,
      Bool.false_eq_true]
    exact seqNext_setSeq hNext rfl
  | _ => simp [hStall] at hDue

end events

section stalls
variable {k : Seq}

/-- What the stalled instruction waited for holds, and it completes (R301, R305, R326, R331). -/
theorem runs_seqStallEnd : Runs (.seqStallEnd k) (seqStallEndRule k) := by
  refine runs_of_act (execSeqStallEnd k) rfl (fun _ => rfl) fun s hpre => ?_
  simp only [seqStallEndRule, Bool.and_eq_true, decide_eq_true_eq] at hpre ⊢
  obtain ⟨⟨⟨⟨hOn, hStalled⟩, hRefused⟩, hNext⟩, hEnds⟩ := hpre
  simp only [hOn, hStalled, hRefused, Bool.not_true, ne_eq, not_true_eq_false, decide_false, Bool.or_self,
    if_false, Bool.false_eq_true]
  cases hStall : (s.seqOf k.val).stall with
  | time a bound =>
    simp only [hStall, decide_eq_true_eq] at hEnds ⊢
    rw [if_pos hEnds, seqNext_in hNext]
  | emit xs =>
    simp only [hStall] at hEnds ⊢
    exact if_pos hEnds
  | recv gd =>
    cases hQueue : (s.seqOf k.val).queue with
    | nil => simp [hStall, hQueue] at hEnds
    | cons x rest => exact seqNext_setSeq hNext take_pc
  | _ => simp [hStall] at hEnds

end stalls

section checkpoints
variable {k : Seq} {gd ga gb : GReg} {func : BitVec 11} {imm : Imm16}

/-- The registers with a checkpoint of slot `a` open, which resumes at `r` (R311, R317). -/
def SeqSt.checkpointed (q : SeqSt) (a : Air) (r : BitVec 19) : SeqSt :=
  if q.ns && q.slot = a then q
  else
    { q with opened := true, slot := a, resume := r, sqcnt := if q.slot = a then q.sqcnt else 0
             ns := if q.slot = a then q.ns else false
             savedG := savedOf q.g, savedF := q.zncv, spec := [], f := setBit q.f 6 false }

theorem checkpointed_pc {q : SeqSt} {a : Air} {r : BitVec 19} : (q.checkpointed a r).pc = q.pc := by
  unfold SeqSt.checkpointed
  split <;> rfl

/-- CKPT of the slot whose fallback stands is passed over; any other opens a checkpoint, at the same instruction (R311, R317). -/
theorem runs_seqCkpt : Runs (.seqCkpt k gd ga imm) (seqCkptRule k gd ga imm) :=
  runs_seqReg (f := fun _ q => q.checkpointed ((q.reg ga).truncate 40) (BitVec.ofInt 19 (q.pc.toNat + imm.toInt * 4)))
    (fun _ => rfl) (fun _ _ => rfl) fun _ _ => checkpointed_pc

theorem runs_seqSpecoff : Runs (.seqSpecoff k gd ga gb func) (seqSpecoffRule k gd ga gb func) :=
  runs_seqReg (f := fun _ q => { q with opened := false, spec := [] }) (fun _ => rfl) (fun _ _ => rfl) fun _ _ => rfl

/-- A sequencer that issues has not faulted, and stops (R296, R337). -/
theorem runs_seqHalt : Runs (.seqHalt k gd ga gb func) (seqHaltRule k gd ga gb func) := by
  refine runs_seqIssue (k := k.val) (ok := gd = 0 && ga = 0 && gb = 0 && func = 0) (fun _ s => s.seqStop k.val)
    (fun _ => rfl) fun s hpre => ?_
  simp only [seqHaltRule, Bool.and_eq_true] at hpre ⊢
  obtain ⟨⟨⟨⟨hReady, hGd⟩, hGa⟩, hGb⟩, hFunc⟩ := hpre
  have hRunning : (s.seqOf k.val).state = .running := (seqIslandOn_of_seqReady hReady).2
  exact ⟨hReady, ⟨⟨⟨hGd, hGa⟩, hGb⟩, hFunc⟩, if_neg (by rw [hRunning]; decide)⟩

end checkpoints

/-- Settles O21: each command by its own premises; AT and WAITT are one rule. -/
theorem sequencerSystem : Obligations.SequencerSystem := by
  unfold Obligations.SequencerSystem
  exact ⟨fun _ _ _ _ _ => runs_waitRule fun _ => rfl, fun _ _ _ _ _ => runs_waitRule fun _ => rfl, fun _ _ _ _ => runs_seqMfs,
    fun _ _ _ _ => runs_seqMts, fun _ _ _ _ _ => runs_seqRecv, fun _ _ _ _ _ => runs_seqRecvNb, fun _ _ _ _ _ => runs_seqEvRaise,
    fun _ _ _ _ _ => runs_seqEvWait, fun _ => runs_seqEvWaitTimeout, fun _ => runs_seqStallEnd, fun _ _ _ _ => runs_seqCkpt,
    fun _ _ _ _ _ => runs_seqSpecoff, fun _ _ _ _ _ => runs_seqHalt⟩

end Sys2Proof.Machine
end

