-- ==== Sys2Proof/Proofs/SequencerIssue.lean ====
section
/-! PROOF. The instructions that issue items, SQUASH, and the fault of a refused item (R300-R302, R312-R316, R332-R338). -/

namespace Sys2Proof.Machine
open Sys2Proof

/-! ## Items that an instruction forms (R333-R335) -/

section form
variable {c : Instr} {s : State} {k : Nat} {q : SeqSt} {p : Port} {v : BitVec 64} {t : Tag} {body : Bytes}

/-- An item of an own stream that may be issued now leaves at once (R299, R301). -/
theorem seqForm_now (hOwn : ownStream k v = true) (hMay : s.seqMayIssue k [seqNet k q p t body] = true) :
    s.seqForm k q p v t body = s.seqSendNow k [seqNet k q p t body] := by
  rw [State.seqForm, hOwn, Bool.not_true, if_neg Bool.false_ne_true, State.seqSend, if_pos hMay]

/-- An instruction that forms item `n` where its fields and its sequencer, `ok`, let it. -/
theorem runs_formRule {fields ok : Bool} {n : State → NetItem} {own : State → Bool} (f : SeqSt → State → State)
    (hc : ∀ s, exec c s = act (fun s => s.seqIssue k fields f) s) (hFields : ok = true → fields = true)
    (hf : ∀ s, ok = true → own s = true → s.seqMayIssue k [n s] = true → f (s.seqOf k) s = s.seqSendNow k [n s]) :
    Runs c (formRule k ok n own) := by
  refine runs_seqIssue f hc fun s hpre => ?_
  simp only [formRule, Bool.and_eq_true] at hpre
  obtain ⟨⟨⟨hReady, hOk⟩, hOwn⟩, hMay⟩ := hpre
  exact ⟨hReady, hFields hOk, hf s hOk hOwn hMay⟩

end form

section formed
variable {k : Seq} {gd ga gb : GReg} {func : BitVec 11}

theorem runs_seqPrep : Runs (.seqPrep k gd ga gb func) (seqPrepRule k gd ga gb func) := by
  refine runs_formRule (fields := gd = 0 && fld func 2 9 = 0) (fun q s =>
    if k.val = 4 then s.seqFault k.val 5
    else s.seqForm k.val q .lo (q.reg ga) (plainTag k.val kLoCtl (q.reg ga) (q.epochFor k.val (q.reg ga)) 16)
      (prepPay (func.getLsbD 0) (func.getLsbD 1) (fld (q.reg gb) 0 10))) (fun _ => rfl) ?_ fun s hOk hOwn hMay => ?_
  · simp +contextual
  · simp only [Bool.and_eq_true, decide_eq_true_eq] at hOk
    rw [if_neg hOk.2, seqForm_now hOwn hMay]

theorem runs_seqHop : Runs (.seqHop k gd ga gb func) (seqHopRule k gd ga gb func) := by
  refine runs_formRule (fields := gd = 0 && gb = 0 && fld func 3 8 = 0) (fun q s =>
    if k.val = 4 then s.seqFault k.val 5
    else if fld func 1 2 = 0 then s.seqFault k.val 8
    else s.seqForm k.val q .lo (q.reg ga) (plainTag k.val kLoCtl (q.reg ga) (q.epochFor k.val (q.reg ga)) 16)
      (hopPay (func.getLsbD 0) (fld func 1 2))) (fun _ => rfl) ?_ fun s hOk hOwn hMay => ?_
  · simp +contextual
  · simp only [Bool.and_eq_true, decide_eq_true_eq] at hOk
    obtain ⟨⟨-, hTsq⟩, hDir⟩ := hOk
    rw [if_neg hTsq, if_neg hDir, seqForm_now hOwn hMay]

theorem runs_seqPwr : Runs (.seqPwr k gd ga gb func) (seqPwrRule k gd ga gb func) := by
  refine runs_formRule (fields := gd = 0 && fld func 4 7 = 0) (fun q s =>
    if 3 < fld func 0 3 then s.seqFault k.val 8
    else s.seqForm k.val q .pwr (q.reg ga) (plainTag k.val kPwrCtl (q.reg ga) (q.epochFor k.val (q.reg ga)) 16)
      (pwrPay (fld func 0 3) (func.getLsbD 3) (if k.val = 4 then 0xF else 2 ^ k.val) (q.reg gb)))
    (fun _ => rfl) ?_ fun s hOk hOwn hMay => ?_
  · simp +contextual
  · simp only [Bool.and_eq_true, decide_eq_true_eq] at hOk
    rw [if_neg (Nat.not_lt.mpr hOk.2), seqForm_now hOwn hMay]

theorem runs_seqCommit : Runs (.seqCommit k gd ga gb func) (seqCommitRule k gd ga gb func) := by
  refine runs_of_act (execSeqCommit k gd ga gb func) rfl (fun _ => rfl) fun s hpre => ?_
  simp only [seqCommitRule, formRule, Bool.and_eq_true, decide_eq_true_eq] at hpre
  obtain ⟨⟨⟨hReady, ⟨⟨⟨⟨⟨hGd, hGb⟩, hZero⟩, hAsq⟩, hDirs⟩, hMu⟩⟩, hOwn⟩, hMay⟩ := hpre
  have hGood : ¬ (decide (fld func 0 2 = 0) || decide (4 < fld func 3 3)) = true := by simp [hDirs, hMu]
  have hFields : (gd = 0 && gb = 0 && fld func 8 3 = 0 : Bool) = true := by simp [hGd, hGb, hZero]
  rw [seqIssue_ready hReady, hFields, if_pos rfl, if_neg (not_not_intro hAsq), if_neg hGood]
  exact seqForm_now hOwn hMay

/-- BEAMSEL with a record that passes its checks, and its list read (R333). -/
theorem runs_seqBeamsel : Runs (.seqBeamsel k gd ga gb func) (seqBeamselRule k gd ga gb func) := by
  unfold seqBeamselRule
  extract_lets q v r c n read item
  refine runs_mk (execSeqBeamsel k gd ga gb func) rfl (fun _ => rfl) fun s hpre => ?_
  obtain ⟨hChecks, hRead⟩ := Bool.and_eq_true_iff.mp hpre
  split at hRead
  · next l u hList =>
    simp only [Bool.and_eq_true, decide_eq_true_eq] at hChecks
    obtain ⟨⟨⟨⟨⟨⟨⟨⟨hReady, hZero⟩, hAsq⟩, hQuad⟩, hSym⟩, hMu⟩, hRecord⟩, hSize⟩, hOwn⟩ := hChecks
    have hOperands : ¬ (decide (13 < ((q s).reg gb).toNat) || decide (4 < fld func 0 3)) = true := by simp [hSym, hMu]
    have hGood : ¬ (!recordOk (r s) (c s).nrb (c s).rbglog || decide (4072 < n s)) = true := by simp [hRecord, hSize]
    refine (seqIssue_ready hReady).trans ((if_pos (decide_eq_true hZero)).trans ?_)
    refine (if_neg (not_not_intro hAsq)).trans ((if_neg (Nat.not_lt.mpr hQuad)).trans ?_)
    refine (if_neg hOperands).trans ((if_neg hGood).trans ?_)
    split
    · next x u' hFault => cases hFault.symm.trans hList
    · next l' u' hImage =>
      cases hImage.symm.trans hList
      exact seqForm_now hOwn hRead
  · cases hRead

end formed

/-! ## EMIT (R300, R332, R339) -/

section emit
variable {s u : State} {k : Seq} {gs gt : GReg} {port flags : BitVec 8} {n : NetItem}

/-- The TRY bit is not the one that must be zero (R332). -/
theorem reserved_of_try {b : Bool} : (setBit flags 6 b).getLsbD 7 = flags.getLsbD 7 := by
  have hBit : b.toNat ≤ 1 := Bool.toNat_le b
  simp only [setBit, setFld, fld, nbits, BitVec.getLsbD, BitVec.toNat_ofNat, Nat.testBit_eq_decide_div_mod_eq, decide_eq_decide]
  omega

/-- An EMIT whose checks pass reaches its issue with the item it forms, and the state that reading the image leaves. -/
theorem seqEmitWith_checked {f : SeqSt → NetItem → State → State} (hReady : s.seqReady k.val = true)
    (hZero : flags.getLsbD 7 = false) (hChecks : emitChecks s k gs gt port flags = some (u, n)) :
    s.seqEmitWith k gs gt port flags f = f (s.seqOf k.val) n u := by
  rw [State.seqEmitWith, seqIssue_ready hReady, hZero, Bool.not_false, if_pos rfl]
  unfold emitChecks at hChecks
  dsimp only at hChecks
  split at hChecks
  · next p w body v hPort hRead =>
    split at hChecks
    · next hGood =>
        obtain ⟨rfl, rfl⟩ := Prod.mk.inj (Option.some.inj hChecks)
        simp only [Bool.and_eq_true, decide_eq_true_eq] at hGood
        obtain ⟨⟨⟨hKind, hOwn⟩, hImage⟩, hLength⟩ := hGood
        simp only [hPort]
        cases hKinds : seqKinds (k.val = 4) p with
        | none => simp [hKinds] at hKind
        | some ks =>
          have hMem : flags.truncate 6 ∈ ks := by simpa [hKinds] using hKind
          simp only [hMem, not_true_eq_false, if_false, hRead, hOwn, hImage, Nat.not_lt.mpr hLength, decide_false,
            Bool.not_true, ne_eq, Bool.or_self, Bool.false_eq_true]
    · cases hChecks
  · cases hChecks

theorem runs_seqEmit : Runs (.seqEmit k gs gt port flags) (seqEmitRule k gs gt port flags) := by
  refine runs_of_act (execSeqEmit k gs gt port flags) rfl (fun _ => rfl) fun s hpre => ?_
  simp only [seqEmitRule, Bool.and_eq_true, Bool.not_eq_true'] at hpre ⊢
  obtain ⟨⟨hReady, hZero⟩, hMay⟩ := hpre
  cases hChecks : emitChecks s k gs gt port (setBit flags 6 false) with
  | none => simp [hChecks] at hMay
  | some r =>
    obtain ⟨u, n⟩ := r
    simp only [hChecks] at hMay
    rw [seqEmitWith_checked hReady (reserved_of_try.trans hZero) hChecks]
    exact if_pos hMay

/-- With TRY the item leaves with C clear, or C is set (R332). -/
theorem runs_seqEmitTry : Runs (.seqEmitTry k gs gt port flags) (seqEmitTryRule k gs gt port flags) := by
  refine runs_of_act (execSeqEmitTry k gs gt port flags) rfl (fun _ => rfl) fun s hpre => ?_
  simp only [seqEmitTryRule, Bool.and_eq_true, Bool.not_eq_true'] at hpre ⊢
  obtain ⟨⟨hReady, hZero⟩, hGo⟩ := hpre
  cases hChecks : emitChecks s k gs gt port (setBit flags 6 true) with
  | none => simp [hChecks] at hGo
  | some r =>
    obtain ⟨u, n⟩ := r
    simp only [hChecks] at hGo
    rw [seqEmitWith_checked hReady (reserved_of_try.trans hZero) hChecks]
    cases hMay : u.seqMayIssue k.val [n] with
    | true => simp only [hMay, Bool.not_true, if_true]
    | false =>
      rw [hMay, Bool.false_or] at hGo
      simp only [hMay, Bool.not_false, Bool.false_eq_true, if_false]
      exact seqNext_setSeq hGo rfl

end emit

/-! ## SQUASH, and refused items (R313-R316, R338) -/

section squash
variable {k : Seq} {gd ga gb : GReg} {func : BitVec 11}

theorem squashTry_now {s : State} {k : Nat} {t : Air} (hMay : s.seqMayIssue k ((s.seqOf k).squashItems k t) = true) :
    s.squashTry k t = s.squashNow k t := if_pos hMay

theorem runs_seqSquash : Runs (.seqSquash k gd ga gb func) (seqSquashRule k gd ga gb func) := by
  refine runs_seqIssue (k := k.val) (ok := gd = 0 && gb = 0 && func = 0) (fun q s =>
    if !q.opened then s.seqFault k.val 9
    else if s.squashBound q then
      (s.setSeq k.val { q with state := .stalled, stall := .squash ((q.reg ga).truncate 40) true }).bump (cSeq k.val 5)
    else s.squashTry k.val ((q.reg ga).truncate 40)) (fun _ => rfl) fun s hpre => ?_
  simp only [seqSquashRule, Bool.and_eq_true, Bool.not_eq_true'] at hpre ⊢
  obtain ⟨⟨⟨⟨⟨⟨hReady, hGd⟩, hGb⟩, hFunc⟩, hOpen⟩, hBound⟩, hMay⟩ := hpre
  refine ⟨hReady, ⟨⟨hGd, hGb⟩, hFunc⟩, ?_⟩
  rw [if_neg (by simp [hOpen]), if_neg (by simp [hBound]), squashTry_now hMay]

theorem runs_seqSquashStallEnd : Runs (.seqSquashStallEnd k) (seqSquashStallEndRule k) := by
  refine runs_of_act (execSeqSquashStallEnd k) rfl (fun _ => rfl) fun s hpre => ?_
  simp only [seqSquashStallEndRule, Bool.and_eq_true, Bool.not_eq_true', decide_eq_true_eq] at hpre ⊢
  obtain ⟨⟨⟨⟨hOn, hStalled⟩, hRefused⟩, hBound⟩, hMay⟩ := hpre
  split at hMay
  · next t hStall =>
    simp only [hOn, hStalled, hRefused, hBound, hStall, Bool.not_true, ne_eq, not_true_eq_false, decide_false, Bool.or_self,
      if_false, Bool.false_eq_true]
    exact squashTry_now hMay
  · cases hMay

/-- The oldest refused item faults its sequencer (R338). -/
theorem runs_refusalFault : Runs (.refusalFault k) (refusalFaultRule k) := by
  refine runs_of_act (execRefusalFault k) rfl (fun _ => rfl) fun s hpre => ?_
  simp only [refusalFaultRule, Bool.and_eq_true, decide_eq_true_eq] at hpre ⊢
  obtain ⟨hOn, hRefused⟩ := hpre
  obtain ⟨pc, rest, hFirst⟩ := List.exists_cons_of_ne_nil hRefused
  simp only [hOn, if_true, State.seqRefusal, hFirst]
  rfl

end squash

/-- Settles O22: each command by its own premises. -/
theorem sequencerIssue : Obligations.SequencerIssue := by
  unfold Obligations.SequencerIssue
  exact ⟨fun _ _ _ _ _ => runs_seqEmit, fun _ _ _ _ _ => runs_seqPrep, fun _ _ _ _ _ => runs_seqHop, fun _ _ _ _ _ => runs_seqPwr,
    fun _ _ _ _ _ => runs_seqCommit, fun _ _ _ _ _ => runs_seqBeamsel, fun _ _ _ _ _ => runs_seqSquash,
    fun _ => runs_seqSquashStallEnd, fun _ => runs_refusalFault, fun _ _ _ _ _ => runs_seqEmitTry⟩

end Sys2Proof.Machine
end

