-- ==== Sys2Proof/Proofs/SequencerControl.lean ====
section
/-! PROOF. RUN, RESTART and the clearing of RUN; pushes to the issue queues and their issue; mismatches of a
lockstep pair (R296, R297, R307, R308, R337, R525). -/

namespace Sys2Proof.Machine
open Sys2Proof

section control
variable {w : Initiator} {k : Seq} {v : BitVec 64}

/-- A write of a register of a unit whose registers answer (R36). -/
theorem runs_unitWrite {c : Instr} {off : Nat} {f g : State → State} (hc : ∀ s, exec c s = unitAct w off f s)
    (hf : ∀ s, f s = g s) : Runs c ⟨fun s => s.unitTakes off, g⟩ :=
  runs_unitAct hc (fun _ hpre => hpre) fun s _ => hf s

/-- Bit 0 of SEQk_CTRL is RUN, and bit 1 RESTART (R296, R337). -/
theorem writeSeqCtrl_run {s : State} {k : Nat} : s.writeSeqCtrl k 1 = (s.seqRun k).done := rfl

theorem writeSeqCtrl_stop {s : State} {k : Nat} : s.writeSeqCtrl k 0 = (s.seqStop k).done := rfl

theorem writeSeqCtrl_restart {s : State} {k : Nat} : s.writeSeqCtrl k 2 = (s.seqRestart k).done := rfl

theorem runs_seqRun : Runs (.seqRun w k) (seqRunRule k) :=
  runs_unitWrite (w := w) (f := fun s => s.writeSeqCtrl k.val 1) (fun _ => rfl) fun _ => writeSeqCtrl_run

theorem runs_seqStop : Runs (.seqStop w k) (seqStopRule k) :=
  runs_unitWrite (w := w) (f := fun s => s.writeSeqCtrl k.val 0) (fun _ => rfl) fun _ => writeSeqCtrl_stop

theorem runs_seqRestart : Runs (.seqRestart w k) (seqRestartRule k) :=
  runs_unitWrite (w := w) (f := fun s => s.writeSeqCtrl k.val 2) (fun _ => rfl) fun _ => writeSeqCtrl_restart

theorem runs_hiqPush : Runs (.hiqPush w v) (hiqPushRule w v) :=
  runs_unitWrite (w := w) (f := fun s => s.pushIssue w true v) (fun _ => rfl) fun _ => rfl

theorem runs_miqPush : Runs (.miqPush w v) (miqPushRule w v) :=
  runs_unitWrite (w := w) (f := fun s => s.pushIssue w false v) (fun _ => rfl) fun _ => rfl

theorem runs_lockstepMismatch {mgmt : Bool} : Runs (.lockstepMismatch mgmt) (lockstepMismatchRule mgmt) :=
  runs_of_act (execLockstepMismatch mgmt) rfl (fun _ => rfl) fun s hpre => if_neg (by simpa [lockstepMismatchRule] using hpre)

end control

/-- The copies of an item of an issue queue, one for each tile it goes to, with the queue as their source (R307). -/
def queueCopies (src : Nat) (p : Port) (t : Tag) (b : Bytes) (tile : Nat) : List NetItem :=
  (queueTiles p t.kind b tile).map fun i =>
    ⟨src, p, i,
      ⟨sealTag { t with source := BitVec.ofNat 4 src, damaged := false, warmup := false, late := false }, b, 0⟩, 0⟩

section queues
variable {s u u' : State} {host : Bool} {v : BitVec 64} {h b : Bytes} {p : Port} {src : Nat} {w : Initiator}

/-- A push whose item is read and passes its checks leaves as its copies when a credit is held for each (R307, R308). -/
theorem queueIssue_now (hSrc : src = if host then 12 else 13) (hMaster : w = if host then .host else .mgmt)
    (hHead : s.queueRead w (fld v 0 40) 16 = (some h, u)) (hPort : portOf (fld v 40 4) = some p)
    (hCheck : queueCheck src (some p) (fld v 44 2) (tagFromBytes h) = 0)
    (hBody : u.queueRead w (fld v 0 40 + 16) (imageBytes (tagFromBytes h).kind (tagFromBytes h).length.toNat) = (some b, u'))
    (hSome : (queueCopies src p (tagFromBytes h) b (fld v 44 2)).isEmpty = false)
    (hCredit : u'.haveCredit src 16 (queueCopies src p (tagFromBytes h) b (fld v 44 2)) = true) :
    s.queueIssue host v = u'.queueSend host (queueCopies src p (tagFromBytes h) b (fld v 44 2)) := by
  unfold State.queueIssue
  simp only [← hSrc, ← hMaster, hHead, hPort, hCheck, hBody]
  exact (if_neg (Bool.eq_false_iff.mp hSome)).trans (if_neg ((congrArg not hCredit).trans_ne Bool.false_ne_true))

/-- The front push whose item can be sent now (R307, R308). -/
theorem runs_issueQueueIssue {q : IssueQ} : Runs (.issueQueueIssue q) (issueQueueIssueRule q) := by
  unfold issueQueueIssueRule
  extract_lets host src w plan
  refine runs_mk (execIssueQueueIssue q) rfl (fun _ => rfl) fun s hpre => ?_
  obtain ⟨hOn, hPlan⟩ := Bool.and_eq_true_iff.mp hpre
  obtain ⟨⟨u, xs⟩, hPlan⟩ := Option.isSome_iff_exists.mp hPlan
  simp only [hPlan]
  simp only [plan] at hPlan
  split at hPlan
  · next v rest hPushes =>
    simp only [hPushes, host]
    split at hPlan
    · next h u' p hHead hPort =>
      split at hPlan
      · next b u'' hBody =>
        split at hPlan
        · next hGood =>
          cases hPlan
          simp only [Bool.and_eq_true, decide_eq_true_eq, Bool.not_eq_true'] at hGood
          obtain ⟨⟨hCheck, hSome⟩, hCredit⟩ := hGood
          rw [if_pos hOn]
          exact queueIssue_now rfl rfl hHead hPort hCheck hBody hSome hCredit
        · cases hPlan
      · cases hPlan
    · cases hPlan
  · cases hPlan

end queues

/-- Settles O23: the writes of SEQk_CTRL and the pushes are the rule's own cases, and the front push is sent by its plan. -/
theorem sequencerControl : Obligations.SequencerControl := by
  unfold Obligations.SequencerControl
  exact ⟨fun _ _ => runs_seqRun, fun _ _ => runs_seqStop, fun _ _ => runs_seqRestart, fun _ _ => runs_hiqPush,
    fun _ _ => runs_miqPush, fun _ => runs_issueQueueIssue, fun _ => runs_lockstepMismatch⟩

end Sys2Proof.Machine
end

