-- ==== Sys2Proof/Proofs/SpeculationRecord.lean ====
section
/-! PROOF. What a sequencer's instructions leave of its speculation record while no checkpoint of it is open
(R312, R317): its checkpoint stays closed, and an emit adds nothing. -/

namespace Sys2Proof.Machine
open Sys2Proof

/-- No checkpoint is open, and the speculation record holds entries of `l` alone. -/
def SeqSt.ClosedIn (q : SeqSt) (l : List SpecEntry) : Prop := q.opened = false ∧ q.spec ⊆ l

/-- So it is with sequencer `k`. -/
def Closed (k : Nat) (l : List SpecEntry) (s : State) : Prop := (s.seqOf k).ClosedIn l

variable {k m : Nat} {l : List SpecEntry} {s t : State} {q : SeqSt}

/-! ## Sequencers and choices -/

/-- An operation on the rest of the state. -/
theorem Closed.of_seqs (h : Closed k l s) (ht : t.seqs = s.seqs) : Closed k l t := by
  have hSeq : t.seqOf k = s.seqOf k := by rw [State.seqOf, ht, State.seqOf]
  rwa [Closed, hSeq]

theorem Closed.of_onlyMem (h : Closed k l s) (ht : OnlyMem s t) : Closed k l t := by
  rwa [Closed, ht.seqOf_eq]

theorem closed_setSeq (h : Closed k l s) (hq : m = k → q.ClosedIn l) : Closed k l (s.setSeq m q) := by
  by_cases hm : m = k
  · rw [Closed, ← hm, seqOf_setSeq]
    exact hq hm
  · rwa [Closed, seqOf_setSeq_ne (Ne.symm hm)]

/-- Registers that leave the checkpoint and its record. -/
theorem closed_setSeq_same (h : Closed k l s) (hOpen : q.opened = (s.seqOf m).opened) (hSpec : q.spec = (s.seqOf m).spec) :
    Closed k l (s.setSeq m q) :=
  closed_setSeq h fun hm => by
    rw [SeqSt.ClosedIn, hOpen, hSpec, hm]
    exact h

/-- Registers with the checkpoint discarded. -/
theorem closed_setSeq_discarded (h : Closed k l s) (hOpen : q.opened = false) (hSpec : q.spec = []) : Closed k l (s.setSeq m q) :=
  closed_setSeq h fun _ => ⟨hOpen, hSpec ▸ List.nil_subset l⟩

theorem closed_ite {c : Prop} [Decidable c] (hs : Closed k l s) (ht : Closed k l t) : Closed k l (if c then s else t) := by
  split <;> assumption

theorem closed_foldl {α : Type} {f : State → α → State} {xs : List α} (h : Closed k l s)
    (hf : ∀ s x, Closed k l s → Closed k l (f s x)) : Closed k l (xs.foldl f s) := foldl_keeps h hf

theorem Closed.of_fst {α : Type} {p : State × α} {x : α} (h : Closed k l p.1) (hp : p = (t, x)) : Closed k l t := by
  rw [hp] at h
  exact h

theorem Closed.of_snd {α : Type} {p : α × State} {x : α} (h : Closed k l p.2) (hp : p = (x, t)) : Closed k l t := by
  rw [hp] at h
  exact h

/-! ## Events (R310, R516, R517) -/

section events
variable {e n : Nat}

theorem closed_msix (h : Closed k l s) : Closed k l (s.msix n) :=
  closed_ite (h.of_seqs rfl) (h.of_seqs rfl)

theorem closed_sendOwn {c : Option Nat} {type vc : Nat} {b : Bytes} (h : Closed k l s) : Closed k l (s.sendOwn c type vc b) :=
  closed_ite (h.of_seqs rfl) (h.of_seqs rfl)

/-- The end of a wait leaves the waiting sequencer's checkpoint. -/
theorem closed_wakeSeq (h : Closed k l s) : Closed k l (s.wakeSeq e m) := by
  unfold State.wakeSeq
  dsimp only
  split
  · exact closed_ite h (closed_setSeq_same h rfl rfl)
  · exact h

theorem closed_deliver {route : BitVec 32} (h : Closed k l s) : Closed k l (s.deliver e route n) :=
  closed_foldl (closed_ite (closed_sendOwn (closed_ite (closed_msix h) h)) (closed_ite (closed_msix h) h)) fun _ _ h =>
    closed_wakeSeq h

theorem closed_signal (h : Closed k l s) : Closed k l (s.signal e) := by
  by_cases hFlight : (s.evOf e).flight = none
  · rw [signal_idle hFlight]
    exact closed_deliver (h.of_seqs rfl)
  · rw [signal_inFlight hFlight]
    exact h.of_seqs rfl

end events

/-! ## Reads (R318, R329, R491-R493) -/

section reads
variable {a n u : Nat} {c : Bool} {r : MRegion}

theorem closed_corrected (h : Closed k l s) : Closed k l (s.corrected u) := by
  unfold State.corrected
  dsimp only
  split
  · exact h.of_seqs rfl
  · split
    · exact closed_signal (h.of_seqs rfl)
    · exact h.of_seqs rfl

theorem closed_poisonRead (h : Closed k l s) : Closed k l (s.poisonRead a) := closed_signal (h.of_seqs rfl)

theorem closed_checkUnit (h : Closed k l s) : Closed k l (State.checkUnit r (s, c) u).1 := by
  unfold State.checkUnit
  dsimp only
  split
  · exact h
  · split
    · exact closed_corrected h
    · exact h
  · split
    · have hMended : Closed k l (s.setErr u .good) := h.of_seqs rfl
      have hRepaired : Closed k l ((s.setErr u .good).setBytes u ((s.setErr u .good).bytesAt (otherStack u) 64)) :=
        hMended.of_onlyMem onlyMem_setBytes
      exact closed_signal (hRepaired.of_seqs bump_seqs)
    · exact h

theorem closed_checkUnits {us : List Nat} (h : Closed k l s) : Closed k l (us.foldl (State.checkUnit r) (s, c)).1 :=
  foldl_keeps (P := fun x : State × Bool => Closed k l x.1) h fun _ _ hx => closed_checkUnit hx

theorem closed_checkCopy {x : State × Bool} (h : Closed k l x.1) : Closed k l (State.checkCopy x u).1 := by
  unfold State.checkCopy
  split
  · exact h
  · exact closed_corrected h
  · exact h

theorem closed_secondHalf (h : Closed k l s) : Closed k l (s.secondHalf m a n).1 := by
  unfold State.secondHalf
  split
  · exact foldl_keeps (P := fun x : State × Bool => Closed k l x.1) h fun _ _ hx => closed_checkCopy hx
  · exact h

theorem closed_memRead (h : Closed k l s) : Closed k l (s.memRead a n).2 := by
  unfold State.memRead
  split
  · exact h
  · split
    · exact h
    · split
      · exact h
      · extract_lets u
        have hZero : Closed k l u := closed_ite (closed_signal (h.of_seqs rfl)) h
        split
        next v bad hChecks =>
          have hChecked : Closed k l v := (closed_checkUnits hZero).of_fst hChecks
          split
          · exact closed_poisonRead hChecked
          · exact hChecked

theorem closed_read32 {x : BitVec 32 × State} (h : Closed k l s) (hx : s.read32 a = some x) : Closed k l x.2 := by
  unfold State.read32 at hx
  split at hx
  · cases hx
  · split at hx
    · cases hx
      exact h.of_seqs rfl
    · split at hx
      · cases hx
        exact h
      · split at hx
        · cases hx
          exact h
        · cases hx

theorem closed_read64 {x : BitVec 64 × State} (h : Closed k l s) (hx : s.read64 a = some x) : Closed k l x.2 := by
  unfold State.read64 at hx
  split at hx
  · cases hx
  · split at hx
    · cases hx
      exact closed_ite (h.of_seqs rfl) h
    · split at hx
      · cases hx
        exact h
      · cases hx

theorem closed_regRead (h : Closed k l s) : Closed k l (s.regRead a n).2 := by
  unfold State.regRead
  split
  · exact h
  · split
    · split
      · next hRead => exact closed_read32 h hRead
      · exact h
    · split
      · split
        · next hRead => exact closed_read64 h hRead
        · exact h
      · exact h

/-- A sequencer's own reads do not count as the host's (R546). -/
theorem closed_busRead {i : Seq} (h : Closed k l s) : Closed k l (s.busRead (.seq i) a n).2 := by
  unfold State.busRead
  split
  · dsimp only
    rw [if_neg (by simp)]
    exact closed_regRead h
  · split
    · exact h
    · exact closed_memRead h
  · split
    · exact closed_memRead h
    · exact h
  · exact closed_memRead h

theorem closed_seqRead {i : Seq} (h : Closed k l s) : Closed k l (s.seqRead i a n).2 := by
  unfold State.seqRead
  split
  · next hRead => exact (closed_busRead h).of_snd hRead
  · next hRead =>
    have hHalf := closed_secondHalf (m := i.val) (a := a) (n := n) ((closed_busRead h).of_snd hRead)
    split
    next hSecond =>
      split
      · exact closed_poisonRead (hHalf.of_fst hSecond)
      · exact hHalf.of_fst hSecond
  · next hRead => exact closed_secondHalf ((closed_busRead h).of_snd hRead)

/-- The image of an EMIT, and the list of a BEAMSEL (R300, R333). -/
theorem closed_readImage {i : Seq} {kind : BitVec 6} (h : Closed k l s) : Closed k l (s.readImage i kind a).2 := by
  unfold State.readImage
  split
  · exact h
  · split
    · exact h
    · split
      · next hHead => exact (closed_seqRead h).of_snd hHead
      · next hHead =>
        have hHeader := (closed_seqRead h).of_snd hHead
        dsimp only
        split
        · exact hHeader
        · split
          · exact hHeader
          · split
            · exact hHeader
            · split
              · next hBody => exact (closed_seqRead hHeader).of_snd hBody
              · next hBody => exact (closed_seqRead hHeader).of_snd hBody

theorem closed_readList {i : Seq} (h : Closed k l s) : Closed k l (s.readList i a n).2 := by
  unfold State.readList
  split
  · exact h
  · exact closed_seqRead h

end reads

/-! ## Faults (R297, R319, R324, R338, R521, R523) -/

section faults
variable {u c : Nat} {pc : BitVec 19} {x : Int}

theorem closed_freeSlotsOf {f : Initiator → Bool} (h : Closed k l s) : Closed k l (s.freeSlotsOf f) := by
  refine closed_foldl h fun s e h => ?_
  split
  · exact closed_ite (h.of_seqs rfl) h
  · exact h

theorem closed_sever (h : Closed k l s) : Closed k l (s.sever u c) := by
  have hItems : Closed k l (s.fenceItems u c) := closed_ite (h.of_seqs rfl) (h.of_seqs rfl)
  exact closed_signal ((closed_freeSlotsOf hItems).of_seqs rfl)

theorem closed_dropSections (h : Closed k l s) : Closed k l (s.dropSections u) :=
  closed_foldl h fun _ _ h => closed_setSeq_same h rfl rfl

theorem closed_asqMismatch (h : Closed k l s) : Closed k l s.asqMismatch :=
  closed_ite h (closed_dropSections (closed_sever (closed_signal h)))

theorem closed_seqFaultAt (h : Closed k l s) : Closed k l (s.seqFaultAt m c pc) :=
  closed_signal (closed_setSeq_discarded h rfl rfl)

theorem closed_seqFault (h : Closed k l s) : Closed k l (s.seqFault m c) := closed_ite (closed_asqMismatch h) (closed_seqFaultAt h)

theorem closed_seqRefusal (h : Closed k l s) : Closed k l (s.seqRefusal m) := by
  unfold State.seqRefusal
  split
  · exact h
  · exact closed_seqFaultAt h

theorem closed_seqGoto (h : Closed k l s) : Closed k l (s.seqGoto m x) := by
  have hSet : Closed k l (s.setSeq m { s.seqOf m with pc := BitVec.ofInt 20 x, state := .running, stall := .none }) :=
    closed_setSeq_same h rfl rfl
  exact closed_ite (closed_seqFaultAt hSet) hSet

theorem closed_seqNext (h : Closed k l s) : Closed k l (s.seqNext m) := closed_seqGoto h

end faults

/-! ## Issue (R301, R302, R312, R317) -/

section issue
variable {ok : Bool} {xs : List NetItem} {n : NetItem}

theorem closed_seqFetch (h : Closed k l s) : Closed k l (s.seqFetch m).2 := by
  unfold State.seqFetch
  dsimp only
  split
  · exact h
  · split
    · exact closed_poisonRead (closed_secondHalf (closed_checkUnits h))
    · exact closed_secondHalf (closed_checkUnits h)

/-- An instruction keeps the record when its own effect does. -/
theorem closed_seqIssue {f : SeqSt → State → State} (h : Closed k l s)
    (hf : ∀ u, Closed k l u → Closed k l (f (u.seqOf m) u)) : Closed k l (s.seqIssue m ok f) := by
  unfold State.seqIssue
  split
  · exact h
  · split
    · exact closed_seqRefusal h
    · split
      · next hFetch => exact closed_seqFault ((closed_seqFetch h).of_snd hFetch)
      · next hFetch =>
        have hFetched := (closed_seqFetch h).of_snd hFetch
        exact closed_ite (hf _ hFetched) (closed_seqFault hFetched)

theorem closed_seqPut (h : Closed k l s) : Closed k l (s.seqPut n) :=
  closed_ite (h.of_seqs rfl) (closed_ite (h.of_seqs rfl) (h.of_seqs rfl))

/-- Items that leave with no checkpoint open are not recorded (R312). -/
theorem closed_seqSendNow (h : Closed k l s) : Closed k l (s.seqSendNow m xs) := by
  have hSent : Closed k l (xs.foldl State.seqPut s) := closed_foldl h fun _ _ h => closed_seqPut h
  refine closed_seqNext (closed_setSeq hSent fun hm => ?_)
  obtain ⟨hOpen, hSpec⟩ := hm ▸ hSent
  exact ⟨hOpen, by rwa [if_neg (Bool.eq_false_iff.mp hOpen)]⟩

theorem closed_seqSend (h : Closed k l s) : Closed k l (s.seqSend m xs) :=
  closed_ite (closed_seqSendNow h) (closed_setSeq_same h rfl rfl)

theorem closed_seqForm {p : Port} {v : BitVec 64} {g : Tag} {b : Bytes} (h : Closed k l s) : Closed k l (s.seqForm m q p v g b) :=
  closed_ite (closed_seqFault h) (closed_seqSend h)

theorem closed_seqEmitWith {i : Seq} {gs gt : GReg} {port flags : BitVec 8} {f : SeqSt → NetItem → State → State}
    (h : Closed i.val l s) (hf : ∀ q n u, q.ClosedIn l → Closed i.val l u → Closed i.val l (f q n u)) :
    Closed i.val l (s.seqEmitWith i gs gt port flags f) := by
  refine closed_seqIssue h fun u h => ?_
  dsimp only
  split
  · exact closed_seqFault h
  · split
    · exact closed_seqFault h
    · split
      · exact closed_seqFault h
      · split
        · next hRead => exact closed_seqFault ((closed_readImage h).of_snd hRead)
        · next hRead =>
          have hImage := (closed_readImage h).of_snd hRead
          exact closed_ite (closed_seqFault hImage) (closed_ite (closed_seqFault hImage) (hf _ _ _ h hImage))

end issue

end Sys2Proof.Machine
end

