-- ==== Sys2Proof/Proofs/ClosedCheckpoint.lean ====
section
/-! PROOF. SPECOFF and the fallback close a checkpoint; without one nothing is speculative, and SQUASH is a fault (R312,
R315, R317). -/

namespace Sys2Proof.Machine
open Sys2Proof

/-! ## What closes a checkpoint (R315, R317) -/

section closing
variable {k : Seq} {s : State}

theorem exec_seqSpecoff (hs : s.alive = true) (hReady : s.fresh.seqReady k.val = true)
    (hNext : inProgram (s.seqOf k.val).after = true) :
    exec (.seqSpecoff k 0 0 0 0) s = .next (s.fresh.setSeq k.val (SeqSt.next { s.seqOf k.val with opened := false, spec := [] })) :=
  runs_seqSpecoff s hs (by simp [seqSpecoffRule, seqOwn, hReady, hNext])

/-- The epochs that a squash advances are not the count of the slot's squashes. -/
theorem sqcnt_advanced {q : SeqSt} {es : List SpecEntry} :
    (es.foldl (fun (q : SeqSt) e => q.setEpoch e.stream (q.epochOf e.stream + 1)) q).sqcnt = q.sqcnt :=
  List.foldlRecOn (motive := fun p : SeqSt => p.sqcnt = q.sqcnt) _ _ rfl fun _ h _ _ => h

/-- The third squash of a slot is its fallback (R315, R317). -/
theorem closed_squashNow {k : Nat} {t : Air} (h : (s.seqOf k).sqcnt = 2) : Closed k [] (s.squashNow k t) := by
  unfold State.squashNow
  extract_lets q sent advanced squashed restored counted fallen
  have hThird : restored.sqcnt = 3 := by
    change advanced.sqcnt + 1 = 3
    rw [show advanced.sqcnt = 2 from sqcnt_advanced.trans h]
  rw [if_pos hThird]
  have hFallen : Closed k [] fallen := by
    rw [Closed, seqOf_setSeq]
    exact ⟨rfl, List.nil_subset []⟩
  exact closed_seqGoto (closed_signal (hFallen.of_seqs bump_seqs))

/-- A squash that its bound and its items let go (R313, R316). -/
theorem exec_seqSquash_open {a : GReg} (hs : s.alive = true) (hReady : s.fresh.seqReady k.val = true)
    (hOpen : (s.seqOf k.val).opened = true) (hBound : s.squashBound (s.seqOf k.val) = false)
    (hMay : s.fresh.seqMayIssue k.val ((s.seqOf k.val).squashItems k.val (((s.seqOf k.val).reg a).truncate 40)) = true) :
    exec (.seqSquash k 0 a 0 0) s = .next (s.fresh.squashNow k.val (((s.seqOf k.val).reg a).truncate 40)) := by
  have hFreshBound : s.fresh.squashBound (s.seqOf k.val) = false := hBound
  exact runs_seqSquash s hs (by simp [seqSquashRule, hReady, hOpen, hFreshBound, hMay])

/-- With no checkpoint open it is a program fault of cause 0x09 (R317). -/
theorem exec_seqSquash_closed {a : GReg} (hs : s.alive = true) (hReady : s.fresh.seqReady k.val = true)
    (hClosed : (s.seqOf k.val).opened = false) : exec (.seqSquash k 0 a 0 0) s = .next (s.fresh.seqFault k.val 0x09) := by
  change execSeqSquash k 0 a 0 0 s = _
  rw [execSeqSquash, act_alive hs, seqIssue_ready hReady]
  exact congrArg _ ((if_pos rfl).trans (if_pos (congrArg not hClosed)))

end closing

/-! ## Commands that record nothing (R312) -/

section commands
variable {k : Seq} {gd ga gb : GReg} {func : BitVec 11}

/-- A command whose effect keeps a closed checkpoint's record adds nothing to it. -/
theorem notSpeculative_of_closed {c : Instr} {f : State → State} (e : State → Host.Outcome State Fault Refusal) (he : e = act f)
    (hc : ∀ s, exec c s = e s) (hf : ∀ l s, Closed k.val l s → Closed k.val l (f s)) : NotSpeculative k c := by
  intro s t hOpen hGo
  have hFresh : Closed k.val (s.seqOf k.val).spec s.fresh := ⟨hOpen, List.Subset.refl _⟩
  rw [goesTo, hc, he] at hGo
  cases hs : s.alive with
  | true =>
    rw [act_alive hs] at hGo
    injection hGo with hNext
    exact hNext ▸ (hf _ _ hFresh).2
  | false =>
    rw [act_dead hs] at hGo
    injection hGo with hNext
    exact hNext ▸ hFresh.2

theorem notSpeculative_seqEmit {gs gt : GReg} {port flags : BitVec 8} : NotSpeculative k (.seqEmit k gs gt port flags) :=
  notSpeculative_of_closed (execSeqEmit k gs gt port flags) rfl (fun _ => rfl) fun _ _ h =>
    closed_seqEmitWith h fun _ _ _ _ h => closed_seqSend h

theorem notSpeculative_seqEmitTry {gs gt : GReg} {port flags : BitVec 8} : NotSpeculative k (.seqEmitTry k gs gt port flags) :=
  notSpeculative_of_closed (execSeqEmitTry k gs gt port flags) rfl (fun _ => rfl) fun _ _ h =>
    closed_seqEmitWith h fun q n u hq h => by
      have hTold : Closed k.val _ (u.setSeq k.val { q with f := setBit q.f 2 (!u.seqMayIssue k.val [n]) }) :=
        closed_setSeq h fun _ => hq
      exact closed_ite (closed_seqSendNow hTold) (closed_seqNext hTold)

theorem notSpeculative_seqPrep : NotSpeculative k (.seqPrep k gd ga gb func) :=
  notSpeculative_of_closed (execSeqPrep k gd ga gb func) rfl (fun _ => rfl) fun _ _ h => closed_seqIssue h fun _ h =>
    closed_ite (closed_seqFault h) (closed_seqForm h)

theorem notSpeculative_seqHop : NotSpeculative k (.seqHop k gd ga gb func) :=
  notSpeculative_of_closed (execSeqHop k gd ga gb func) rfl (fun _ => rfl) fun _ _ h => closed_seqIssue h fun _ h =>
    closed_ite (closed_seqFault h) (closed_ite (closed_seqFault h) (closed_seqForm h))

theorem notSpeculative_seqPwr : NotSpeculative k (.seqPwr k gd ga gb func) :=
  notSpeculative_of_closed (execSeqPwr k gd ga gb func) rfl (fun _ => rfl) fun _ _ h => closed_seqIssue h fun _ h =>
    closed_ite (closed_seqFault h) (closed_seqForm h)

theorem notSpeculative_seqCommit : NotSpeculative k (.seqCommit k gd ga gb func) :=
  notSpeculative_of_closed (execSeqCommit k gd ga gb func) rfl (fun _ => rfl) fun _ _ h => closed_seqIssue h fun _ h =>
    closed_ite (closed_seqFault h) (closed_ite (closed_seqFault h) (closed_seqForm h))

/-- The list that a BEAMSEL reads may lie anywhere; no read opens a checkpoint (R333). -/
theorem notSpeculative_seqBeamsel : NotSpeculative k (.seqBeamsel k gd ga gb func) := by
  refine notSpeculative_of_closed (execSeqBeamsel k gd ga gb func) rfl (fun _ => rfl) fun _ _ h => closed_seqIssue h fun u h => ?_
  refine closed_ite (closed_seqFault h) (closed_ite (closed_seqFault h) ?_)
  refine closed_ite (closed_seqFault h) (closed_ite (closed_seqFault h) ?_)
  split
  · next hRead => exact closed_seqFault ((closed_readList h).of_snd hRead)
  · next hRead => exact closed_seqForm ((closed_readList h).of_snd hRead)

end commands

/-- Settles O57: a closed checkpoint's record is kept by every read, event and fault on an instruction's way, and the third
squash of its slot closes it. -/
theorem closedCheckpoint : Obligations.ClosedCheckpoint := by
  unfold Obligations.ClosedCheckpoint
  refine ⟨fun k s hs hReady hNext => ⟨_, exec_seqSpecoff hs hReady hNext, ?_⟩,
    fun k a s hs hReady hOpen hBound hTwice hMay => ?_,
    fun _ _ _ _ _ => notSpeculative_seqEmit, fun _ _ _ _ _ => notSpeculative_seqEmitTry, fun _ _ _ _ _ => notSpeculative_seqPrep,
    fun _ _ _ _ _ => notSpeculative_seqHop, fun _ _ _ _ _ => notSpeculative_seqPwr, fun _ _ _ _ _ => notSpeculative_seqCommit,
    fun _ _ _ _ _ => notSpeculative_seqBeamsel, fun k a s hs hReady hClosed => exec_seqSquash_closed hs hReady hClosed⟩
  · rw [seqOf_setSeq]
    exact ⟨rfl, rfl, rfl, rfl⟩
  · have hFreshTwice : (s.fresh.seqOf k.val).sqcnt = 2 := hTwice
    exact ⟨_, exec_seqSquash_open hs hReady hOpen hBound hMay, (closed_squashNow hFreshTwice).1⟩

end Sys2Proof.Machine
end

