-- ==== Sys2Proof/Proofs/ResetState.lean ====
section
/-! PROOF. What reset leaves (R296, R299, R349, R535, R589). -/

namespace Sys2Proof.Machine
open Sys2Proof

theorem fnOf_reset {f t : Nat} (ht : t < 4) : State.reset.fnOf f t =
    if f = 17 ∨ f = 18 then { stopped := false, quiet := false, byReset := false }
    else { stopped := true, quiet := true, byReset := true } := by
  have hKey : (4 * f + t) / 4 = f := by omega
  change fnReset (4 * f + t) = _
  rw [fnReset, hKey]

theorem reg_of_noEntry {q : SeqSt} {r : GReg} (h : q.g = []) : q.reg r = 0 := by
  rw [SeqSt.reg, h, tget_nil, ite_self]

/-- Settles O52: every table reads as its default. -/
theorem resetState : Obligations.ResetState := by
  unfold Obligations.ResetState
  exact ⟨fun k => ⟨rfl, rfl, rfl, rfl, fun j => rfl, fun r => reg_of_noEntry rfl⟩, fun n => rfl,
    fun f t => fnOf_reset t.isLt, rfl, rfl, rfl, rfl, rfl⟩

end Sys2Proof.Machine
end

