-- ==== Sys2Proof/Proofs/SequencerBranches.lean ====
section
/-! PROOF. The branches of a sequencer (R324, R330): how it goes on at a target in program memory, with and without a link. -/

namespace Sys2Proof.Machine
open Sys2Proof

section targets
variable {c : Instr} {s : State} {k : Nat} {q : SeqSt} {x : Int} {ok : SeqSt → Bool} {t : SeqSt → Int}

/-- The sequencer goes on at `x`, with its registers as `q`. -/
theorem seqGoto_setSeq (h : inProgram x = true) : (s.setSeq k q).seqGoto k x = s.setSeq k (q.at_ x) := by
  rw [seqGoto_in h, seqOf_setSeq, setSeq_setSeq]

/-- An instruction that issues with the fields its rule asks for, and whose effect goes to the rule's target (R324). -/
theorem runs_goRule {g : SeqSt → SeqSt} (fields : SeqSt → Bool) (f : SeqSt → State → State)
    (hc : ∀ s, exec c s = act (fun s => s.seqIssue k (fields (s.seqOf k)) f) s) (hFields : ∀ q, ok q = true → fields q = true)
    (hf : ∀ s : State, ok (s.seqOf k) = true → inProgram (t (s.seqOf k)) = true →
      f (s.seqOf k) s = s.setSeq k ((g (s.seqOf k)).at_ (t (s.seqOf k)))) : Runs c (goRule k ok g t) := by
  refine runs_of_act _ rfl hc fun s hpre => ?_
  simp only [goRule, Bool.and_eq_true] at hpre ⊢
  obtain ⟨⟨hReady, hOk⟩, hTarget⟩ := hpre
  rw [seqIssue_ready hReady, hFields _ hOk, if_pos rfl, hf s hOk hTarget]

/-- A branch leaves the registers: taken it goes to its destination, and else to the next instruction (R330). -/
theorem runs_branch (taken : SeqSt → Prop) [DecidablePred taken] (dest : SeqSt → Int)
    (hc : ∀ s, exec c s = act (fun s => s.seqIssue k (ok (s.seqOf k)) fun q s =>
      if taken q then s.seqGoto k (dest q) else s.seqNext k) s)
    (ht : ∀ q, t q = if taken q then dest q else q.after) : Runs c (goRule k ok id t) := by
  refine runs_goRule ok _ hc (fun _ h => h) fun s _ hTarget => ?_
  rw [ht] at hTarget ⊢
  split at hTarget
  · next hTaken => rw [if_pos hTaken, if_pos hTaken, seqGoto_in hTarget, id]
  · next hNot => rw [if_neg hNot, if_neg hNot, seqNext_in hTarget, id, SeqSt.next]

end targets

section branches
variable {k : Seq} {gd ga gb : GReg} {func : BitVec 11} {cond : BitVec 5} {off : BitVec 21} {gdhi : BitVec 4} {imm : Imm16}

theorem runs_seqBr : Runs (.seqBr k cond off) (seqBrRule k cond off) :=
  runs_branch (fun q => seqCond q cond.toNat = some true) (fun q => q.pc.toNat + off.toInt * 4) (fun _ => rfl) fun _ => rfl

/-- The target counts from the branch's own address, and the link is in g31 (R330). -/
theorem runs_seqBl : Runs (.seqBl k gd off) (seqBlRule k gd off) :=
  runs_goRule (fun _ => decide (gd = 0))
    (fun q s => (s.setSeq k.val (q.setG 31 (BitVec.ofNat 64 (q.pc.toNat + 4)))).seqGoto k.val (q.pc.toNat + off.toInt * 4))
    (fun _ => rfl) (fun _ h => h) fun _ _ hTarget => seqGoto_setSeq hTarget

/-- The target is read before the link is written: gd may be ga (R330). -/
theorem runs_seqJumpr : Runs (.seqJumpr k gd ga gb func) (seqJumprRule k gd ga gb func) := by
  refine runs_goRule (fun _ => gb = 0 && func = 0)
    (fun q s => if (q.reg ga).toNat % 4 ≠ 0 then s.seqFault k.val 2
      else (s.setSeq k.val (q.setG gd (BitVec.ofNat 64 (q.pc.toNat + 4)))).seqGoto k.val (q.reg ga).toNat)
    (fun _ => rfl) (fun _ h => (Bool.and_eq_true_iff.mp h).1) fun s hOk hTarget => ?_
  have hAligned : (((s.seqOf k.val).reg ga).toNat) % 4 = 0 := of_decide_eq_true (Bool.and_eq_true_iff.mp hOk).2
  rw [if_neg (not_not.mpr hAligned), seqGoto_setSeq hTarget]

theorem runs_seqRbz : Runs (.seqRbz k gdhi ga imm) (seqRbzRule k gdhi ga imm) :=
  runs_branch (fun q => decide (q.reg ga ≠ 0) = false) (fun q => q.pc.toNat + imm.toInt * 4) (fun _ => rfl) fun q => by
    simp only [decide_eq_false_iff_not, not_not]

theorem runs_seqRbnz : Runs (.seqRbnz k gdhi ga imm) (seqRbnzRule k gdhi ga imm) :=
  runs_branch (fun q => decide (q.reg ga ≠ 0) = true) (fun q => q.pc.toNat + imm.toInt * 4) (fun _ => rfl) fun q => by
    simp only [decide_eq_true_eq, ite_not]

end branches

/-- Settles O20: BR, RBZ and RBNZ are one branch, each by its own condition; BL and JUMPR link. -/
theorem sequencerBranches : Obligations.SequencerBranches := by
  unfold Obligations.SequencerBranches
  exact ⟨fun _ _ _ => runs_seqBr, fun _ _ _ => runs_seqBl, fun _ _ _ _ _ => runs_seqJumpr, fun _ _ _ _ => runs_seqRbz,
    fun _ _ _ _ => runs_seqRbnz⟩

end Sys2Proof.Machine
end

