-- ==== Sys2Proof/Proofs/VectorCoreSteps.lean ====
section
/-! PROOF. How a vector core that issues goes through a word: what begins a bundle, what an event leaves of the cores, and what
retires a bundle (R350, R351, R355, R362). -/

namespace Sys2Proof.Machine
open Sys2Proof

/-! ## Cores of the state -/

section cores
variable {s t u : State} {x y : VcSt} {n e k : Nat}

@[simp] theorem vcOf_setVc : (s.setVc n x).vcOf n = x := tget_tput

@[simp] theorem setVc_setVc : (s.setVc n x).setVc n y = s.setVc n y := by
  rw [State.setVc, State.setVc, tput_tput, State.setVc]

theorem vcOf_begun {dst : List VReg} : (s.begun n dst).vcOf n = (s.vcOf n).begin dst := vcOf_setVc

theorem vcs_ite {c : Prop} [Decidable c] (ht : t.vcs = s.vcs) (hu : u.vcs = s.vcs) : (if c then t else u).vcs = s.vcs := by
  split <;> assumption

theorem vcs_wakeSeq : (s.wakeSeq e k).vcs = s.vcs := by
  unfold State.wakeSeq
  dsimp only
  split
  · exact vcs_ite rfl rfl
  · rfl

theorem vcs_deliver {route : BitVec 32} {rep : Nat} : (s.deliver e route rep).vcs = s.vcs :=
  have hMsix : ∀ v : State, (v.msix (fld route 0 7)).vcs = v.vcs := fun _ => vcs_ite rfl rfl
  have hSent : ∀ (v : State) (b : Bytes), (v.sendOwn none 4 0 b).vcs = v.vcs := fun _ _ => vcs_ite rfl rfl
  List.foldlRecOn (motive := fun t : State => t.vcs = s.vcs) _ _
    ((vcs_ite (hSent _ _) rfl).trans (vcs_ite (hMsix s) rfl)) fun _ ht _ _ => vcs_wakeSeq.trans ht

/-- An event leaves every core (R516, R517). -/
theorem vcOf_signal : (s.signal e).vcOf n = s.vcOf n := by
  have hCores : (s.signal e).vcs = s.vcs := by
    by_cases hFlight : (s.evOf e).flight = none
    · rw [signal_idle hFlight, vcs_deliver]
      rfl
    · rw [signal_inFlight hFlight]
      rfl
  rw [State.vcOf, hCores, State.vcOf]

end cores

/-! ## The beginning of a bundle (R350): the record of word 0 alone changes. -/

section beginning
variable {x : VcSt} {w : List VReg} {r : Nat}

theorem begin_eq : x.begin w = { x with word0 := (x.begin w).word0 } := by
  rw [VcSt.begin]
  split <;> rfl

@[simp] theorem begin_pc : (x.begin w).pc = x.pc := by rw [begin_eq]
@[simp] theorem begin_staged : (x.begin w).staged = x.staged := by rw [begin_eq]
@[simp] theorem begin_f : (x.begin w).f = x.f := by rw [begin_eq]
@[simp] theorem begin_loops : (x.begin w).loops = x.loops := by rw [begin_eq]
@[simp] theorem begin_stores : (x.begin w).stores = x.stores := by rw [begin_eq]
@[simp] theorem begin_evcause : (x.begin w).evcause = x.evcause := by rw [begin_eq]
@[simp] theorem begin_sAddr : (x.begin w).sAddr = x.sAddr := by rw [VcSt.sAddr, begin_staged, begin_pc, VcSt.sAddr]
@[simp] theorem begin_vreg : (x.begin w).vreg r = x.vreg r := by rw [begin_eq]; rfl
@[simp] theorem begin_sreg : (x.begin w).sreg r = x.sreg r := by rw [begin_eq]; rfl
@[simp] theorem begin_addr {ax : SField} {disp : Int} {size : Nat} : (x.begin w).addr ax disp size = x.addr ax disp size := by
  rw [begin_eq]; rfl

@[simp] theorem clash_nil : x.clash [] = false := List.any_eq_false.mpr fun _ _ => Bool.false_ne_true

end beginning

/-! ## Writes of registers: they leave where the core stands in its bundle, and the V word that waits. -/

section writes
variable {c : VcSt} {r : Nat}

theorem setS_bundle {w : BitVec 64} : (c.setS r w).pc = c.pc ∧ (c.setS r w).staged = c.staged := by
  rw [VcSt.setS]
  split <;> exact ⟨rfl, rfl⟩

theorem setA_bundle {w : BitVec 40} : (c.setA r w).pc = c.pc ∧ (c.setA r w).staged = c.staged := ⟨rfl, rfl⟩

theorem setO_bundle {w : BitVec 32} : (c.setO r w).pc = c.pc ∧ (c.setO r w).staged = c.staged := by
  rw [VcSt.setO]
  split <;> exact ⟨rfl, rfl⟩

end writes

/-! ## The end of a bundle (R355, R362) -/

section ending
variable {s : State} {x y : VcSt} {n last : Nat} {r : VRes}

/-- The effect of a V word: its core takes the result, and an overflow raises the core's event where VCn_CFG asks (R355). -/
theorem vcApply_eq : s.vcApply n r =
    if r.ovf && (s.reg (rVcCfg n)).getLsbD 2 then (s.setVc n ((s.vcOf n).took r)).vcCause n 1
    else s.setVc n ((s.vcOf n).took r) := by
  unfold State.vcApply VcSt.took
  cases r.write <;> rfl

theorem took_nothing : y.took {} = y := by simp [VcSt.took]

/-- The V word takes effect, and the core moves on (R362). -/
theorem vcApply_next : (s.vcApply n r).setVc n (((s.vcApply n r).vcOf n).next last) = s.retire n (s.vcOf n) r last := by
  rw [vcApply_eq, State.retire]
  split
  · rfl
  · rw [vcOf_setVc, setVc_setVc]

/-- What retires a bundle replaces its core. -/
@[simp] theorem retire_setVc : (s.setVc n x).retire n y r last = s.retire n y r last := by
  simp only [State.retire, setVc_setVc, reg_setVc]

/-- An S word is done: its bundle retires with the V word that waits, if one does. -/
theorem vcDone_eq_retire : s.vcDone n = s.retire n (s.vcOf n) ((s.vcOf n).staged.getD {}) (s.vcOf n).sAddr := by
  simp only [State.vcDone]
  cases (s.vcOf n).staged with
  | none => simp only [State.retire, Option.getD_none, Bool.false_and, Bool.false_eq_true, if_false, took_nothing]
  | some r => exact vcApply_next

theorem vcDone_begun {dst : List VReg} :
    (s.begun n dst).vcDone n = s.retire n ((s.vcOf n).begin dst) ((s.vcOf n).staged.getD {}) (s.vcOf n).sAddr := by
  rw [vcDone_eq_retire, vcOf_begun, begin_staged, begin_sAddr, State.begun, retire_setVc]

end ending

/-! ## Words that issue (R350, R362) -/

section issue
variable {c : Instr} {n : Vc} {dual ok : Bool} {dst : List VReg} {r : Rule}

/-- A V word of a core that issues, with defined fields and no clash, waits or retires with its result (R362). -/
theorem runs_vIssue {f : State → VcSt → VRes} (hc : ∀ s, exec c s = act (fun s => s.vIssue n.val dual ok (f s)) s) :
    Runs c (vRule n dual ok f) := by
  refine runs_of_act _ rfl hc fun s hpre => ?_
  simp only [vRule, Bool.and_eq_true, Bool.not_eq_true', Option.isNone_iff_eq_none] at hpre
  obtain ⟨⟨⟨hReady, hStaged⟩, rfl⟩, hClash⟩ := hpre
  rw [vIssue_ready hReady hStaged hClash]
  dsimp only [vRule]
  rw [vcApply_next, vcOf_setVc, retire_setVc]

/-- An S word with defined fields that clashes with no word before it has its own effect, its bundle begun. -/
theorem runs_sIssue {ok : State → Bool} {f : State → State → State} (e : State → Host.Outcome State Fault Refusal)
    (he : e = act fun s => s.sIssue n.val (ok s) dst (f s)) (hc : ∀ s, exec c s = e s)
    (hf : ∀ s : State, r.pre s = true → s.bundleReady n.val = true ∧ ok s = true ∧ (s.vcOf n.val).clash dst = false ∧
      f s (s.begun n.val dst) = r.eff s) : Runs c r := by
  refine runs_of_act e he hc fun s hpre => ?_
  obtain ⟨hReady, hOk, hClash, hEffect⟩ := hf s hpre
  rw [hOk, sIssue_ready hReady hClash]
  exact hEffect

/-- An S word that changes its core's registers, and neither the program counter nor the waiting V word, follows the rule of
such. -/
theorem runs_sReg {f : State → VcSt → VcSt} (hc : ∀ s, exec c s = act (fun s => s.sReg n.val ok dst (f s)) s)
    (hBundle : ∀ s x, (f s x).pc = x.pc ∧ (f s x).staged = x.staged) : Runs c (sRule n (fun _ => ok) dst f) := by
  refine runs_sIssue (ok := fun _ => ok) (f := fun s t => (t.setVc n.val (f s (t.vcOf n.val))).vcDone n.val) _ rfl hc
    fun s hpre => ?_
  simp only [sRule, Bool.and_eq_true, Bool.not_eq_true'] at hpre ⊢
  obtain ⟨⟨hReady, hOk⟩, hClash⟩ := hpre
  obtain ⟨hPc, hStaged⟩ := hBundle s ((s.vcOf n.val).begin dst)
  have hAddr : (f s ((s.vcOf n.val).begin dst)).sAddr = (s.vcOf n.val).sAddr := by
    rw [VcSt.sAddr, hPc, hStaged, ← VcSt.sAddr, begin_sAddr]
  refine ⟨hReady, hOk, hClash, ?_⟩
  rw [vcDone_eq_retire, vcOf_setVc, vcOf_begun, hStaged, begin_staged, hAddr, retire_setVc, State.begun, retire_setVc]

end issue

end Sys2Proof.Machine
end

