-- ==== Sys2Proof/Proofs/VectorSlot.lean ====
section
/-! PROOF. The words of the vector slot (R353, R355-R362, R371, R372): what each computes from its operands is its rule's result, so
how a V word issues is all there is to show. -/

namespace Sys2Proof.Machine
open Sys2Proof

/-- Settles O24: each of the fourteen issues as a V word does, with the result of its rule. -/
theorem vectorSlot : Obligations.VectorSlot := by
  unfold Obligations.VectorSlot
  refine ⟨?nop, ?cmac, ?add, ?conj, ?norm, ?exp, ?rnd, ?rsq, ?splat, ?hadd, ?aclr, ?movs, ?ins, ?aovf⟩
  all_goals exact fun _ _ _ _ _ _ => runs_vIssue fun _ => rfl

end Sys2Proof.Machine
end

