-- ==== Sys2Proof/Proofs/ScalarAlu.lean ====
section
/-! PROOF. The ALU of the scalar slot (R354, R373): each result and flag as arithmetic of 64-bit numbers. -/

namespace Sys2Proof.Machine
open Sys2Proof

section words
variable {c : Instr} {n : Vc} {d x y : SField} {imm : BitVec 17}

/-- An ALU word writes the function's result and flags (R354). -/
theorem runs_sAlu {f : BitVec 64 → BitVec 64 → BitVec 64 × BitVec 4} {g : VcSt → VcSt}
    (hc : ∀ s, exec c s = act (fun s => s.sAlu n.val d x y f) s)
    (hg : ∀ q : VcSt, { q.setS d.toNat (f (q.sreg x.toNat) (q.sreg y.toNat)).1 with
      f := (f (q.sreg x.toNat) (q.sreg y.toNat)).2 } = g q) : Runs c (sRule n (fun _ => true) (sDest d) fun _ q => g q) := by
  obtain rfl := funext hg
  exact runs_sReg hc fun _ _ => setS_bundle

/-- One that clears C and V: its result alone is to be shown (R373). -/
theorem runs_sAluRule {r : BitVec 64 → BitVec 64 → BitVec 64} {v : VcSt → BitVec 64}
    (hc : ∀ s, exec c s = act (fun s => s.sAlu n.val d x y fun p q => aluFlags (r p q)) s)
    (hv : ∀ q : VcSt, v q = r (q.sreg x.toNat) (q.sreg y.toNat)) : Runs c (sAluRule n d v) :=
  runs_sAlu hc fun q => by rw [hv]; rfl

/-- A sum with a sign-extended immediate. -/
theorem runs_sAddi : Runs (.sAddi n d x imm) (sAddiRule n d x imm) := by
  have hImm : (imm.signExtend 64).toInt = imm.toInt := BitVec.toInt_signExtend_of_le (by decide)
  refine runs_sAlu (y := 0) (f := fun p _ => addFlags p (imm.signExtend 64)) (fun _ => rfl) fun q => ?_
  rw [addFlags_eq, hImm]
  rfl

end words

/-- Settles O25: ADD, SUB and ADDI by their flags, and the others by their results. -/
theorem scalarAlu : Obligations.ScalarAlu := by
  unfold Obligations.ScalarAlu
  refine ⟨fun n d x y => ?add, fun n d x y => ?sub, fun _ _ _ _ => runs_sAddi, fun n d x y => ?and, fun n d x y => ?or,
    fun n d x y => ?xor, fun n d x y => ?sll, fun n d x y => ?srl, fun n d x y => ?sra, fun n d x y => ?mul, fun n d x y => ?slt,
    fun n d x y => ?sltu, fun n d x y => ?min, fun n d x y => ?max⟩
  case add => exact runs_sAlu (f := addFlags) (fun _ => rfl) fun q => by rw [addFlags_eq]; rfl
  case sub => exact runs_sAlu (f := subFlags) (fun _ => rfl) fun q => by rw [subFlags_eq]; rfl
  case and => exact runs_sAluRule (r := fun p q => p &&& q) (fun _ => rfl) fun _ => rfl
  case or => exact runs_sAluRule (r := fun p q => p ||| q) (fun _ => rfl) fun _ => rfl
  case xor => exact runs_sAluRule (r := fun p q => p ^^^ q) (fun _ => rfl) fun _ => rfl
  case sll => exact runs_sAluRule (r := fun p q => p <<< fld q 0 6) (fun _ => rfl) fun _ => by rw [fld_shift]
  case srl => exact runs_sAluRule (r := fun p q => p >>> fld q 0 6) (fun _ => rfl) fun _ => by rw [fld_shift]
  case sra => exact runs_sAluRule (r := fun p q => p.sshiftRight (fld q 0 6)) (fun _ => rfl) fun _ => by rw [fld_shift]
  case mul => exact runs_sAluRule (r := fun p q => p * q) (fun _ => rfl) fun _ => (BitVec.mul_def ..).symm
  case slt => exact runs_sAluRule (r := fun p q => if p.toInt < q.toInt then 1 else 0) (fun _ => rfl) fun _ => rfl
  case sltu => exact runs_sAluRule (r := fun p q => if p.toNat < q.toNat then 1 else 0) (fun _ => rfl) fun _ => rfl
  case min => exact runs_sAluRule (r := fun p q => if p.toInt < q.toInt then p else q) (fun _ => rfl) fun _ => ofInt_min
  case max =>
    refine runs_sAluRule (r := fun p q => if p.toInt < q.toInt then q else p) (fun _ => rfl) fun _ => ?_
    rw [max_comm, ofInt_max]

end Sys2Proof.Machine
end

