-- ==== Sys2Proof/Proofs/ScalarMoves.lean ====
section
/-! PROOF. The moves of the scalar slot, between the scalar, address and offset registers (R352, R354, R373). -/

namespace Sys2Proof.Machine
open Sys2Proof

section moves
variable {s : State} {c : VcSt} {n : Vc} {d x y : SField} {imm : BitVec 17} {func : BitVec 13} {to_ from_ : Nat}

/-- MOV from file `from_` to file `to_`: 0 the scalar, 1 the address, else the offset registers (R373). -/
def VcSt.moved (c : VcSt) (to_ from_ : Nat) (d x : SField) : VcSt :=
  let v : BitVec 64 := if from_ = 0 then c.sreg x.toNat
    else if from_ = 1 then (c.areg x.toNat).zeroExtend 64 else (c.oreg x.toNat).signExtend 64
  if to_ = 0 then c.setS d.toNat v else if to_ = 1 then c.setA d.toNat (v.truncate 40) else c.setO d.toNat (v.truncate 32)

theorem moved_bundle : (c.moved to_ from_ d x).pc = c.pc ∧ (c.moved to_ from_ d x).staged = c.staged := by
  simp only [VcSt.moved]
  split
  · exact setS_bundle
  · split
    · exact setA_bundle
    · exact setO_bundle

theorem execSMov_eq : execSMov n d x y func s = act (fun s => s.sReg n.val
    (decide (y = 0) && decide (func.toNat < 16) && decide (fld func 0 2 ≠ 3) && decide (fld func 2 2 ≠ 3)) (movDest (fld func 0 2) d)
    fun c => c.moved (fld func 0 2) (fld func 2 2) d x) s := by
  unfold execSMov VcSt.moved
  dsimp only
  generalize fld func 0 2 = to_
  generalize fld func 2 2 = from_
  rcases to_ with _ | _ | _ <;> rcases from_ with _ | _ | _ <;> rfl

theorem sMovRule_eq : sMovRule n d x y func = sRule n
    (fun _ => decide (y = 0) && decide (func.toNat < 16) && decide (fld func 0 2 ≠ 3) && decide (fld func 2 2 ≠ 3))
    (movDest (fld func 0 2) d) fun _ c => c.moved (fld func 0 2) (fld func 2 2) d x := rfl

theorem runs_sMov : Runs (.sMov n d x y func) (sMovRule n d x y func) := by
  rw [sMovRule_eq]
  exact runs_sReg (fun _ => execSMov_eq) fun _ _ => moved_bundle

/-- What MFSR reads: NOW, the core's number, cycles since RUN, and the counts of the two loop levels (R373). -/
def State.special (s : State) (n : Nat) (c : VcSt) (sel : BitVec 17) : Nat :=
  if sel = 0 then s.now.toNat else if sel = 1 then n else if sel = 2 then cyclesOf (s.clock - c.runAt)
  else if sel = 3 then (c.loops[0]?.map VLoop.left).getD 0 else (c.loops[1]?.map VLoop.left).getD 0

theorem execSMfsr_eq : execSMfsr n d x imm s = act (fun s => s.sReg n.val (decide (imm.toNat ≤ 4)) (sDest d)
    fun c => c.setS d.toNat (BitVec.ofNat 64 (s.special n.val c imm))) s := by
  refine congrArg (act · s) (funext fun s => congrArg (s.sReg n.val (decide (imm.toNat ≤ 4)) (sDest d)) (funext fun c =>
    congrArg (fun v => c.setS d.toNat (BitVec.ofNat 64 v)) ?_))
  have hSel (k : BitVec 17) : imm = k ↔ imm.toNat = k.toNat := BitVec.toNat_eq
  simp only [State.special, hSel]
  rcases imm.toNat with _ | _ | _ | _ | sel
  case zero | succ.zero | succ.succ.zero => rfl
  case succ.succ.succ.zero => cases c.loops[0]? <;> rfl
  case succ.succ.succ.succ => cases c.loops[1]? <;> rfl

theorem runs_sMfsr : Runs (.sMfsr n d x imm) (sMfsrRule n d imm) :=
  runs_sReg (fun _ => execSMfsr_eq (x := x)) fun _ _ => setS_bundle

end moves

/-- Settles O26: MOV by what it moves, MFSR by what it reads, and the others at once. -/
theorem scalarMoves : Obligations.ScalarMoves := by
  unfold Obligations.ScalarMoves
  refine ⟨fun n d x y func => ?nop, fun n d x imm => ?li, fun n d x imm => ?lih, fun _ _ _ _ _ => runs_sMov,
    fun n d x imm => ?aaddi, fun _ _ _ _ => runs_sMfsr⟩
  case nop => exact runs_sReg (fun _ => rfl) fun _ _ => ⟨rfl, rfl⟩
  case li => exact runs_sReg (fun _ => rfl) fun _ _ => setS_bundle
  case lih => exact runs_sReg (fun _ => rfl) fun _ _ => setS_bundle
  case aaddi => exact runs_sReg (fun _ => rfl) fun _ _ => setA_bundle

end Sys2Proof.Machine
end

