-- ==== Sys2Proof/Proofs/VectorCoreMemory.lean ====
section
/-! PROOF. Loads and stores of a vector core and their responses (R363, R366-R369): an access that is done retires its bundle with
the post-modification, and one that waits stalls the core. -/

namespace Sys2Proof.Machine
open Sys2Proof

section accesses
variable {s u : State} {n : Vc} {k : Nat} {c : Instr} {t : VField} {ax oy : SField} {disp : BitVec 12} {a len i j : Nat} {d : VDest}
  {dst : List VReg} {b : Bytes} {y : VStore}

/-- The access is done: its bundle retires with the post-modification (R366). -/
theorem vcAccessDone_eq : s.vcAccessDone k i j = s.retire k ((s.vcOf k).postMod i j)
    (((s.vcOf k).postMod i j).staged.getD {}) ((s.vcOf k).postMod i j).sAddr := by
  rw [State.vcAccessDone, vcDone_eq_retire, vcOf_setVc, retire_setVc]

/-! ## Loads -/

/-- A load's data is written, and its access is done (R366, R368). -/
theorem vcLoaded_ok : vcLoaded k d i j (.ok b, u) = u.retire k (((u.vcOf k).writeLoad d b).postMod i j)
    ((((u.vcOf k).writeLoad d b).postMod i j).staged.getD {}) (((u.vcOf k).writeLoad d b).postMod i j).sAddr := by
  simp only [vcLoaded, vcAccessDone_eq, vcOf_setVc, retire_setVc]

/-- A load with defined fields, from an aligned address that word 0 leaves (R366, R368). -/
theorem runs_vcLoad {f : VcSt → Nat} (hf : ∀ x w, f (VcSt.begin x w) = f x)
    (hc : ∀ s, exec c s = act (fun s => s.sIssue n.val true (dst ++ postDest ax oy) fun s =>
      s.vcLoad n d (f (s.vcOf n.val)) len ax oy) s) : Runs c (vcLoadRule n d dst f len ax oy) := by
  refine runs_sIssue _ rfl hc fun s hpre => ?_
  simp only [vcLoadRule, Bool.and_eq_true, Bool.or_eq_true, Bool.not_eq_true', decide_eq_true_eq] at hpre
  obtain ⟨⟨⟨hReady, hClash⟩, hAligned⟩, hAnswer⟩ := hpre
  refine ⟨hReady, rfl, hClash, ?_⟩
  dsimp only [vcLoadRule]
  rw [vcOf_begun, hf, State.vcLoad, if_neg (not_not.mpr hAligned)]
  by_cases hLocal : vcLocal n.val (f (s.vcOf n.val)) len = true
  · rw [if_pos hLocal, if_pos hLocal]
    have hOk := hAnswer.resolve_left (by simp [hLocal])
    generalize (s.begun n.val (dst ++ postDest ax oy)).busRead (.vc n) (f (s.vcOf n.val)) len = r at hOk ⊢
    obtain ⟨_ | _ | _, u⟩ := r
    case ok b => exact vcLoaded_ok
    case error => cases hOk
    case poisoned => cases hOk
  · rw [if_neg hLocal, if_neg hLocal, State.begun, setVc_setVc, vcOf_setVc]

theorem runs_sVld : Runs (.sVld n t ax oy disp) (sVldRule n t ax oy disp) :=
  runs_vcLoad (fun _ _ => begin_addr) fun _ => rfl

theorem runs_sLd : Runs (.sLd n t ax oy disp) (sLdRule n t ax oy disp) :=
  runs_vcLoad (fun _ _ => begin_addr) fun _ => rfl

/-- The response delivers the data of the access, and answers nobody but the core (R368). -/
theorem runs_remoteLoadResponse : Runs (.remoteLoadResponse n) (remoteLoadResponseRule n) := by
  refine runs_mk (execRemoteLoadResponse n) rfl (fun _ => rfl) fun s hpre => ?_
  simp only [Bool.and_eq_true, decide_eq_true_eq] at hpre
  obtain ⟨⟨hStalled, hOn⟩, hAnswer⟩ := hpre
  dsimp only
  cases hStall : (s.vcOf n.val).stall
  case load d a len i j =>
    simp only [hStall, Bool.and_eq_true, Bool.not_eq_true'] at hAnswer ⊢
    obtain ⟨hFirst, hOk⟩ := hAnswer
    rw [if_neg (by simp [hStalled, hOn, hFirst])]
    generalize s.busRead (.vc n) a len = r at hOk ⊢
    obtain ⟨_ | _ | _, u⟩ := r
    case ok b => rw [vcLoaded_ok]
    case error => cases hOk
    case poisoned => cases hOk
  all_goals simp only [hStall, Bool.false_eq_true] at hAnswer

/-! ## Stores -/

/-- A store to the core's own data memory is done at once, and what it replaced is kept with word 0 (R350, R363). -/
theorem vcStoreLocal_eq {m : State} (hTry : y.try_ = false) (hWrite : s.memWrite y.addr y.data = some m) :
    s.vcStoreLocal k y i j = (m.setVc k ((m.vcOf k).keeping
      ((List.range y.data.length).map fun i => (y.addr + i, s.byteAt (y.addr + i))))).vcAccessDone k i j := by
  simp only [State.vcStoreLocal, hWrite, hTry, Bool.false_eq_true, if_false, Option.isNone_some]

/-- One to elsewhere becomes outstanding, and the core goes on (R363, R368). -/
theorem vcStoreRemote_eq (hTry : y.try_ = false) : s.vcStoreRemote k y i j =
    (s.setVc k { s.vcOf k with stores := (s.vcOf k).stores ++ [y] }).vcAccessDone k i j := by
  simp only [State.vcStoreRemote, hTry, Bool.false_eq_true, if_false]

/-- A store without TRY, to an aligned address that word 0 leaves, while fewer than 16 are outstanding (R363, R367, R368). -/
theorem runs_vcStore {plain : Bool} {f : VcSt → Nat} {data : VcSt → Bytes} (hf : ∀ x w, f (VcSt.begin x w) = f x)
    (hData : ∀ x w, data (VcSt.begin x w) = data x)
    (hc : ∀ s, exec c s = act (fun s => s.sIssue n.val true (postDest ax oy) fun s =>
      s.vcStore n.val ⟨f (s.vcOf n.val), data (s.vcOf n.val), !plain, (s.vcOf n.val).pc⟩ ax oy) s) :
    Runs c (vcStoreRule n plain f data ax oy) := by
  refine runs_sIssue _ rfl hc fun s hpre => ?_
  simp only [vcStoreRule, Bool.and_eq_true, Bool.or_eq_true, Bool.not_eq_true', decide_eq_true_eq] at hpre
  obtain ⟨⟨⟨⟨⟨hReady, rfl⟩, hClash⟩, hAligned⟩, hRoom⟩, hWrite⟩ := hpre
  refine ⟨hReady, rfl, hClash, ?_⟩
  have hStore : ({ addr := f ((s.begun n.val (postDest ax oy)).vcOf n.val), data := data ((s.begun n.val (postDest ax oy)).vcOf n.val)
                   try_ := !true, pc := ((s.begun n.val (postDest ax oy)).vcOf n.val).pc } : VStore) =
      ⟨f (s.vcOf n.val), data (s.vcOf n.val), false, (s.vcOf n.val).pc⟩ := by
    rw [vcOf_begun, hf, hData, begin_pc, Bool.not_true]
  have hStores : ((s.begun n.val (postDest ax oy)).vcOf n.val).stores = (s.vcOf n.val).stores := by rw [vcOf_begun, begin_stores]
  dsimp only [vcStoreRule]
  rw [hStore, State.vcStore, if_neg (not_not.mpr hAligned), State.vcStoreGo, hStores, if_neg (not_le.mpr hRoom), ← vcAccessDone_eq]
  by_cases hLocal : vcLocal n.val (f (s.vcOf n.val)) (data (s.vcOf n.val)).length = true
  · obtain ⟨m, hm⟩ := Option.isSome_iff_exists.mp (hWrite.resolve_left (by simp [hLocal]))
    rw [if_pos hLocal, if_pos hLocal, vcStoreLocal_eq rfl hm, hm, Option.getD_some]
    rfl
  · rw [if_neg hLocal, if_neg hLocal, vcStoreRemote_eq rfl, hStores]

theorem runs_sVst : Runs (.sVst n t ax oy disp) (sVstRule n t ax oy disp) :=
  runs_vcStore (fun _ _ => begin_addr) (fun _ _ => by rw [begin_vreg]) fun _ => rfl

theorem runs_sSt : Runs (.sSt n t ax oy disp) (sStRule n t ax oy disp) :=
  runs_vcStore (fun _ _ => begin_addr) (fun _ _ => by rw [begin_sreg]) fun _ => by rw [Bool.not_not]; rfl

theorem vcResume_running (h : (s.vcOf k).state ≠ .stalled) : s.vcResume k = s := if_pos h

/-- The answer to a store that is no error removes it, and nothing waits for it (R368, R369). -/
theorem runs_remoteStoreResponse : Runs (.remoteStoreResponse n) (remoteStoreResponseRule n) := by
  refine runs_of_act (execRemoteStoreResponse n) rfl (fun _ => rfl) fun s hpre => ?_
  simp only [remoteStoreResponseRule, Bool.and_eq_true, Bool.not_eq_true', decide_eq_true_eq] at hpre ⊢
  obtain ⟨⟨⟨hOn, hPlain⟩, hDone⟩, hRuns⟩ := hpre
  cases hStores : (s.vcOf n.val).stores with
  | nil =>
    rw [hStores] at hPlain
    cases hPlain
  | cons y ys =>
    simp only [hStores, Bool.not_eq_true'] at hPlain hDone hRuns ⊢
    simp only [hOn, hPlain, hDone, Bool.false_eq_true, if_false, decide_false]
    exact vcResume_running hRuns

end accesses

/-- Settles O27: VLD and SLD are one load, VST and SST one store; a response ends what it answers. -/
theorem vectorCoreMemory : Obligations.VectorCoreMemory := by
  unfold Obligations.VectorCoreMemory
  exact ⟨fun _ _ _ _ _ => runs_sVld, fun _ _ _ _ _ => runs_sLd, fun _ _ _ _ _ => runs_sVst, fun _ _ _ _ _ => runs_sSt,
    fun _ => runs_remoteLoadResponse, fun _ => runs_remoteStoreResponse⟩

end Sys2Proof.Machine
end

