-- ==== Sys2Proof/Proofs/VectorCoreControl.lean ====
section
/-! PROOF. Branches, loops and waits of the scalar slot, and the control of a core by its register (R349-R351, R364, R365, R369,
R374). -/

namespace Sys2Proof.Machine
open Sys2Proof

section words
variable {s : State} {n : Vc} {k : Nat} {x : VcSt} {t : Int} {cond : BitVec 5} {off : BitVec 20} {d a b : SField} {func : BitVec 13}
  {imm : BitVec 17} {w1 : Bool}

/-! ## Branches (R364, R365) -/

/-- A taken branch to a multiple of 4 in program memory. -/
theorem vcJump_good (h : goodTarget t = true) : (s.setVc k x).vcJump k t = s.branched k x t.toNat := by
  obtain ⟨hAligned, hInside⟩ : t % 4 = 0 ∧ 0 ≤ t ∧ t ≤ 0x3FFFC := by simpa [goodTarget] using h
  rw [State.vcJump, if_neg (not_not.mpr hAligned), if_neg (by omega), vcOf_setVc]
  rfl

theorem vcJump_begun {dst : List VReg} (h : goodTarget t = true) :
    (s.begun k dst).vcJump k t = s.branched k ((s.vcOf k).begin dst) t.toNat := vcJump_good h

theorem badTarget_of_good (h : goodTarget t = true) : badTarget t = false := by
  simp only [goodTarget, Bool.and_eq_true, decide_eq_true_eq] at h
  simp only [badTarget, Bool.or_eq_false_iff, decide_eq_false_iff_not]
  omega

theorem vcTarget_begun {dst : List VReg} : (s.begun k dst).vcTarget k off = ((s.vcOf k).sAddr : Int) + off.toInt * 4 := by
  rw [State.vcTarget, vcOf_begun, begin_sAddr]

theorem runs_sB : Runs (.sB n cond off) (sBRule n cond off) := by
  refine runs_sIssue (execSB n cond off) rfl (fun _ => rfl) fun s hpre => ?_
  simp only [sBRule, Bool.and_eq_true, Bool.or_eq_true, decide_eq_true_eq] at hpre
  obtain ⟨⟨hReady, hDefined⟩, hTarget⟩ := hpre
  refine ⟨hReady, hDefined, clash_nil, ?_⟩
  dsimp only [sBRule]
  rw [vcOf_begun, begin_f]
  by_cases hTaken : aluCond (s.vcOf n.val).f cond.toNat = some true
  · rw [if_pos hTaken, if_pos hTaken, vcTarget_begun, vcJump_begun (hTarget.resolve_left (not_not.mpr hTaken))]
  · rw [if_neg hTaken, if_neg hTaken, vcDone_begun]

/-- The link is the address of the first word after the bundle. -/
theorem runs_sBl : Runs (.sBl n cond off) (sBlRule n cond off) := by
  refine runs_sIssue (execSBl n cond off) rfl (fun _ => rfl) fun s hpre => ?_
  simp only [sBlRule, Bool.and_eq_true, Bool.not_eq_true'] at hpre
  obtain ⟨⟨⟨hReady, hCond⟩, hClash⟩, hTarget⟩ := hpre
  refine ⟨hReady, hCond, hClash, ?_⟩
  dsimp only [sBlRule]
  rw [vcTarget_begun, if_neg (by simp [badTarget_of_good hTarget]), vcOf_begun, begin_sAddr, State.begun, setVc_setVc,
    vcJump_good hTarget]

theorem runs_sJr : Runs (.sJr n d a b func) (sJrRule n d a b func) := by
  refine runs_sIssue (execSJr n d a b func) rfl (fun _ => rfl) fun s hpre => ?_
  simp only [sJrRule, Bool.and_eq_true] at hpre
  obtain ⟨⟨⟨⟨hReady, hD⟩, hB⟩, hFunc⟩, hTarget⟩ := hpre
  refine ⟨hReady, by rw [hD, hB, hFunc]; rfl, clash_nil, ?_⟩
  rw [vcOf_begun, begin_sreg, vcJump_begun hTarget]
  rfl

/-! ## Loops (R365) -/

theorem runs_sLoop : Runs (.sLoop n w1 d a imm) (sLoopRule n w1 d a imm) := by
  refine runs_sIssue (execSLoop n w1 d a imm) rfl (fun _ => rfl) fun s hpre => ?_
  simp only [sLoopRule, Bool.and_eq_true, Bool.or_eq_true, decide_eq_true_eq] at hpre
  obtain ⟨⟨⟨⟨⟨⟨hReady, rfl⟩, rfl⟩, hPlace⟩, hEven⟩, hBody⟩, hLevel⟩ := hpre
  refine ⟨hReady, rfl, clash_nil, ?_⟩
  dsimp only [sLoopRule]
  rw [vcOf_begun, begin_sAddr, begin_loops, begin_sreg, if_neg, vcDone_begun]
  rcases hLevel with hFew | hZero
  · simpa [hPlace, hEven, not_le.mpr hFew] using hBody
  · simpa [hPlace, hEven, hZero] using hBody

/-! ## Events and waits (R350, R351, R369, R374) -/

theorem vcRaises_begun {dst : List VReg} :
    (s.begun k dst).vcRaises k = (((s.vcOf k).staged.getD {}).ovf && (s.reg (rVcCfg k)).getLsbD 2) := by
  rw [State.vcRaises, vcOf_begun, begin_staged, State.begun, reg_setVc, Bool.and_comm]
  cases (s.vcOf k).staged <;> rfl

/-- The core keeps its place in the bundle and the V word that waits, when its cause is set and its event raised (R351). -/
theorem vcDone_caused {u : State} {w : List VReg} {v : BitVec 4} (h : u.vcOf k = { x.begin w with evcause := v }) :
    u.vcDone k = u.retire k (u.vcOf k) (x.staged.getD {}) x.sAddr := by
  have hStaged : (u.vcOf k).staged = x.staged := by rw [h]; exact begin_staged
  have hAddr : (u.vcOf k).sAddr = x.sAddr := by rw [h]; exact begin_sAddr
  rw [vcDone_eq_retire, hStaged, hAddr]

theorem runs_sSev : Runs (.sSev n d a b func) (sSevRule n d a b func) := by
  refine runs_sIssue (execSSev n d a b func) rfl (fun _ => rfl) fun s hpre => ?_
  simp only [sSevRule, Bool.and_eq_true] at hpre
  obtain ⟨⟨⟨⟨hReady, hD⟩, hA⟩, hB⟩, hFunc⟩ := hpre
  refine ⟨hReady, by rw [hD, hA, hB, hFunc]; rfl, clash_nil, ?_⟩
  dsimp only [sSevRule]
  rw [vcRaises_begun, vcOf_begun, begin_evcause]
  split
  · rw [vcDone_caused (x := s.vcOf n.val) vcOf_setVc, State.begun, setVc_setVc]
  · rw [State.vcCause, vcOf_begun, begin_evcause, vcDone_caused (x := s.vcOf n.val) (vcOf_signal.trans vcOf_setVc), State.begun,
      setVc_setVc]

theorem runs_sSleep : Runs (.sSleep n d a b func) (sSleepRule n a) := by
  refine runs_sIssue (execSSleep n d a b func) rfl (fun _ => rfl) fun s hReady => ⟨hReady, rfl, clash_nil, ?_⟩
  rw [vcDone_begun, vcOf_begun, begin_sreg]
  rfl

theorem runs_sleepEnd : Runs (.sleepEnd n) (sleepEndRule n) :=
  runs_of_act (execSleepEnd n) rfl (fun _ => rfl) fun _ hpre => if_pos hpre

theorem runs_sFence : Runs (.sFence n d a b func) (sFenceRule n d a b func) := by
  refine runs_sIssue (execSFence n d a b func) rfl (fun _ => rfl) fun s hpre => ?_
  simp only [sFenceRule, Bool.and_eq_true] at hpre
  obtain ⟨⟨⟨⟨hReady, hD⟩, hA⟩, hB⟩, hFunc⟩ := hpre
  refine ⟨hReady, by rw [hD, hA, hB, hFunc]; rfl, clash_nil, ?_⟩
  dsimp only [sFenceRule]
  rw [vcDone_begun, vcOf_begun, begin_stores, State.begun, setVc_setVc]

theorem runs_sHalt : Runs (.sHalt n d a b func) (sHaltRule n) := by
  refine runs_sIssue (execSHalt n d a b func) rfl (fun _ => rfl) fun s hReady => ⟨hReady, rfl, clash_nil, ?_⟩
  rw [vcDone_begun]
  rfl

end words

/-! ## Control of a core (R349, R350) -/

section control
variable {w : Initiator} {n : Vc}

/-- Bit 0 of VCn_CTRL is RUN, and bit 1 RESTART (R349, R375). -/
theorem runs_vcRun : Runs (.vcRun w n) (vcRunRule n) :=
  runs_unitWrite (w := w) (f := fun s => (s.writeVcCtrl n.val 1).done) (fun _ => rfl) fun _ => rfl

theorem runs_vcStop : Runs (.vcStop w n) (vcStopRule n) :=
  runs_unitWrite (w := w) (f := fun s => (s.writeVcCtrl n.val 0).done) (fun _ => rfl) fun _ => rfl

theorem runs_vcRestart : Runs (.vcRestart w n) (vcRestartRule n) :=
  runs_unitWrite (w := w) (f := fun s => (s.writeVcCtrl n.val 2).done) (fun _ => rfl) fun _ => rfl

end control

/-- Settles O28: each word that issues by its effect, and the writes of VCn_CTRL by the bit they set. -/
theorem vectorCoreControl : Obligations.VectorCoreControl := by
  unfold Obligations.VectorCoreControl
  exact ⟨fun _ _ _ => runs_sB, fun _ _ _ => runs_sBl, fun _ _ _ _ _ => runs_sJr, fun _ _ _ _ _ => runs_sLoop,
    fun _ _ _ _ _ => runs_sSev, fun _ _ _ _ _ => runs_sSleep, fun _ => runs_sleepEnd, fun _ _ _ _ _ => runs_sFence,
    fun _ _ _ _ _ => runs_sHalt, fun _ _ => runs_vcRun, fun _ _ => runs_vcStop, fun _ _ => runs_vcRestart⟩

end Sys2Proof.Machine
end

