-- ==== Sys2Proof/Proofs/EveryCommand.lean ====
section
/-! PROOF. What every command of the block does alike: it answers a next state, keeps memory in its one form, and leaves the queue of
the commands behind it (R452, R498). -/

namespace Sys2Proof.Machine
open Sys2Proof

/-! ## The frame of every command -/

/-- An effect in the frame of the running block, or in that of the pins, which count in every state (R456, R556, R558). -/
def Framed (s : State) (o : Host.Outcome State Fault Refusal) : Prop := ∃ f, o = act f s ∨ o = actAlways f s

section frames
variable {s : State} {w : Initiator} {off : Nat} {f : State → State}

theorem framed_act : Framed s (act f s) := ⟨f, .inl rfl⟩

theorem framed_actAlways : Framed s (actAlways f s) := ⟨f, .inr rfl⟩

theorem framed_regAct : Framed s (regAct w f s) := framed_act

theorem framed_unitAct : Framed s (unitAct w off f s) := framed_act

theorem framed_svcAct : Framed s (svcAct f s) := framed_act

theorem Framed.next {o : Host.Outcome State Fault Refusal} (h : Framed s o) : ∃ t, o = .next t := by
  obtain ⟨f, rfl | rfl⟩ := h
  · exact act_next f s
  · exact actAlways_next f s

end frames

/-- Every command stands in one of the frames: the pins in theirs, register writes of a unit, of a block and of the service SPI in
the running block's, and so does every other command. -/
theorem framed_exec (c : Instr) (s : State) : Framed s (exec c s) := by
  cases c <;> dsimp only [exec]
  case powerOn | powerLoss | resetPin | resetNRelease | pciePerst | pciePerstNRelease => exact framed_actAlways
  case beamEcqWrite | beamAlignWrite | feRffecmd | feMuteRelease | seqRun | seqStop | seqRestart | hiqPush | miqPush | vcRun | vcStop
    | vcRestart | laneGroupEnable | laneGroupDisable | laneIdleRequest | laneIdleExit | slotClaim | slotHandover | slotRelease
    | deviceSlotClaim | deviceSlotHandover | deviceSlotRelease | memWincbaseWrite | msixUnmask | dmaRing | dmaEnable | dmaDisable
    | dmaResume | dmaAbort | dmaHeadWrite | nvErase => exact framed_unitAct
  case syncalCommit => exact framed_regAct
  case svcWrite | svcRead | svcStatus => exact framed_svcAct
  all_goals exact framed_act

/-- Settles O48: either frame answers a next state from every state. -/
theorem everyCommandAnswers : Obligations.EveryCommandAnswers := by
  unfold Obligations.EveryCommandAnswers
  intro c s
  exact (framed_exec c s).next

/-! ## What every command keeps -/

/-- Each command keeps, by the lemma about its own meaning. -/
theorem kept_exec {q : List Instr × Bool} {s : State} (h : Kept q s) (c : Instr) : KeptOut q (exec c s) :=
  match c with
  | .fdData _ _ => kept_execFdData h
  | .tdData _ _ => kept_execTdData h
  | .sectionItem _ _ => kept_execSectionItem h
  | .ulPartial _ _ => kept_execUlPartial h
  | .beamSelDeclaration _ _ => kept_execBeamSelDeclaration h
  | .soundingWindow _ _ => kept_execSoundingWindow h
  | .beamCommit _ _ => kept_execBeamCommit h
  | .engineCommit => kept_execEngineCommit h
  | .fftCfg _ _ => kept_execFftCfg h
  | .wola _ _ => kept_execWola h
  | .carrierOn _ _ _ => kept_execCarrierOn h
  | .carrierOff _ _ _ => kept_execCarrierOff h
  | .carrierRetune _ _ _ => kept_execCarrierRetune h
  | .fltSwapTxfir _ _ _ => kept_execFltSwapTxfir h
  | .fltSwapRxfir _ _ _ => kept_execFltSwapRxfir h
  | .fltSwapRxiq _ _ _ => kept_execFltSwapRxiq h
  | .cfrCfg _ _ _ => kept_execCfrCfg h
  | .dpdSwapModel _ _ _ => kept_execDpdSwapModel h
  | .dpdSwapCorr _ _ _ => kept_execDpdSwapCorr h
  | .sicCtlOn _ _ _ => kept_execSicCtlOn h
  | .sicCtlOff _ _ _ => kept_execSicCtlOff h
  | .sicCtlSwap _ _ _ => kept_execSicCtlSwap h
  | .sicCtlSnap _ _ _ => kept_execSicCtlSnap h
  | .gainTx _ _ _ => kept_execGainTx h
  | .gainRx _ _ _ => kept_execGainRx h
  | .lnaStep _ _ _ => kept_execLnaStep h
  | .dcFreeze _ _ _ => kept_execDcFreeze h
  | .dcRelease _ _ _ => kept_execDcRelease h
  | .feRxon _ _ _ => kept_execFeRxon h
  | .feRxoff _ _ _ => kept_execFeRxoff h
  | .feLoopback _ _ _ => kept_execFeLoopback h
  | .feLbrel _ _ _ => kept_execFeLbrel h
  | .feRxcal _ _ _ => kept_execFeRxcal h
  | .feTune _ _ _ => kept_execFeTune h
  | .rffeGroup _ _ _ => kept_execRffeGroup h
  | .loPrep _ _ _ => kept_execLoPrep h
  | .loCal _ _ _ => kept_execLoCal h
  | .loSwitch _ _ _ => kept_execLoSwitch h
  | .pwrCtlActive _ _ => kept_execPwrCtlActive h
  | .pwrCtlReed _ _ => kept_execPwrCtlReed h
  | .pwrCtlSedge _ _ => kept_execPwrCtlSedge h
  | .pwrCtlFen _ _ => kept_execPwrCtlFen h
  | .captureStart _ _ => kept_execCaptureStart h
  | .captureStop _ _ => kept_execCaptureStop h
  | .playbackStart _ _ => kept_execPlaybackStart h
  | .playbackStop _ _ => kept_execPlaybackStop h
  | .marker _ _ _ _ => kept_execMarker h
  | .stop _ _ _ _ => kept_execStop h
  | .stopResume _ _ _ _ => kept_execStopResume h
  | .pathtxStop _ _ _ _ => kept_execPathtxStop h
  | .pathrxStop _ _ _ _ => kept_execPathrxStop h
  | .squashItem _ _ _ _ => kept_execSquashItem h
  | .coefPredistorter _ _ _ => kept_execCoefPredistorter h
  | .coefTxCorrector _ _ _ => kept_execCoefTxCorrector h
  | .coefRxCorrector _ _ _ => kept_execCoefRxCorrector h
  | .coefCanceller _ _ _ => kept_execCoefCanceller h
  | .coefFir _ _ _ => kept_execCoefFir h
  | .coefCfrPulse _ _ _ => kept_execCoefCfrPulse h
  | .syncReset _ _ _ => kept_execSyncReset h
  | .itemApply _ _ => kept_execItemApply h
  | .lateItemApply _ _ => kept_execLateItemApply h
  | .stopTimeReached _ _ => kept_execStopTimeReached h
  | .quiescence _ _ => kept_execQuiescence h
  | .pathPowerDown _ _ => kept_execPathPowerDown h
  | .missingDataDeadline _ _ => kept_execMissingDataDeadline h
  | .syncResetT0 _ => kept_execSyncResetT0 h
  | .cancellerOffTailEnd _ => kept_execCancellerOffTailEnd h
  | .fadeEnd _ => kept_execFadeEnd h
  | .recordLineFailure _ => kept_execRecordLineFailure h
  | .recordRebuild _ => kept_execRecordRebuild h
  | .dcServoStep _ _ => kept_execDcServoStep h
  | .ulBlockReady _ => kept_execUlBlockReady h
  | .holdExpiry _ => kept_execHoldExpiry h
  | .soundingBlocks _ _ _ => kept_execSoundingBlocks h
  | .obsEntryStart _ => kept_execObsEntryStart h
  | .obsSnapshotStart _ => kept_execObsSnapshotStart h
  | .obsSnapshotComplete _ _ _ => kept_execObsSnapshotComplete h
  | .obsPowerResult _ _ _ => kept_execObsPowerResult h
  | .sicSnapshotComplete _ => kept_execSicSnapshotComplete h
  | .beamTableWrite _ _ _ => kept_execBeamTableWrite h
  | .buildComplete _ => kept_execBuildComplete h
  | .buildOverrun _ => kept_execBuildOverrun h
  | .bankLive _ _ => kept_execBankLive h
  | .bankRelease _ _ => kept_execBankRelease h
  | .entryLineFailure _ _ _ => kept_execEntryLineFailure h
  | .entryRefetchComplete _ _ _ => kept_execEntryRefetchComplete h
  | .beamEcqWrite _ _ => kept_execBeamEcqWrite h
  | .beamAlignWrite _ _ _ _ => kept_execBeamAlignWrite h
  | .txReadinessTest _ _ _ => kept_execTxReadinessTest h
  | .prepComplete _ => kept_execPrepComplete h
  | .calComplete _ _ => kept_execCalComplete h
  | .calYield _ => kept_execCalYield h
  | .switchSpanStart _ => kept_execSwitchSpanStart h
  | .lockLoss _ => kept_execLockLoss h
  | .relockFailure _ => kept_execRelockFailure h
  | .refclkLoss => kept_execRefclkLoss h
  | .syncalCommit _ _ _ _ => kept_execSyncalCommit h
  | .feTxenOn _ _ _ => kept_execFeTxenOn h
  | .feTxenOff _ => kept_execFeTxenOff h
  | .feRxenSwitch _ _ => kept_execFeRxenSwitch h
  | .rffeGroupStart _ => kept_execRffeGroupStart h
  | .feRffecmd _ _ _ => kept_execFeRffecmd h
  | .rffecmdRun _ _ _ => kept_execRffecmdRun h
  | .feMuteRelease _ _ _ => kept_execFeMuteRelease h
  | .mutedPathResume _ => kept_execMutedPathResume h
  | .limiterWindow _ => kept_execLimiterWindow h
  | .limiterLevelExchange _ => kept_execLimiterLevelExchange h
  | .limiterGainRise _ => kept_execLimiterGainRise h
  | .dutyWindowStart => kept_execDutyWindowStart h
  | .dutyLimitReached _ => kept_execDutyLimitReached h
  | .rfSafeNFall => kept_execRfSafeNFall h
  | .rfSafeNRise => kept_execRfSafeNRise h
  | .rfSafeResume _ => kept_execRfSafeResume h
  | .coxRequestRise _ _ => kept_execCoxRequestRise h
  | .coxGrantWithdrawn _ => kept_execCoxGrantWithdrawn h
  | .regulatoryReadFailure => kept_execRegulatoryReadFailure h
  | .temperatureUpdate _ _ => kept_execTemperatureUpdate h
  | .thermAlertN => kept_execThermAlertN h
  | .seqAdd _ _ _ _ => kept_execSeqAdd h
  | .seqSub _ _ _ _ => kept_execSeqSub h
  | .seqAnd _ _ _ _ => kept_execSeqAnd h
  | .seqOr _ _ _ _ => kept_execSeqOr h
  | .seqXor _ _ _ _ => kept_execSeqXor h
  | .seqSll _ _ _ _ => kept_execSeqSll h
  | .seqSrl _ _ _ _ => kept_execSeqSrl h
  | .seqSra _ _ _ _ => kept_execSeqSra h
  | .seqMul _ _ _ _ => kept_execSeqMul h
  | .seqSlt _ _ _ _ => kept_execSeqSlt h
  | .seqSltu _ _ _ _ => kept_execSeqSltu h
  | .seqMin _ _ _ _ => kept_execSeqMin h
  | .seqMax _ _ _ _ => kept_execSeqMax h
  | .seqLead40 _ _ _ _ => kept_execSeqLead40 h
  | .seqAdd40 _ _ _ _ => kept_execSeqAdd40 h
  | .seqDivu _ _ _ _ => kept_execSeqDivu h
  | .seqAddi _ _ _ _ => kept_execSeqAddi h
  | .seqAndi _ _ _ _ => kept_execSeqAndi h
  | .seqOri _ _ _ _ => kept_execSeqOri h
  | .seqXori _ _ _ _ => kept_execSeqXori h
  | .seqShi _ _ _ _ => kept_execSeqShi h
  | .seqSetw _ _ _ _ => kept_execSeqSetw h
  | .seqShor _ _ _ _ => kept_execSeqShor h
  | .seqExt _ _ _ _ => kept_execSeqExt h
  | .seqIns _ _ _ _ => kept_execSeqIns h
  | .seqLd _ _ _ _ => kept_execSeqLd h
  | .seqLw _ _ _ _ => kept_execSeqLw h
  | .seqLh _ _ _ _ => kept_execSeqLh h
  | .seqLb _ _ _ _ => kept_execSeqLb h
  | .seqSd _ _ _ _ => kept_execSeqSd h
  | .seqSw _ _ _ _ => kept_execSeqSw h
  | .seqSh _ _ _ _ => kept_execSeqSh h
  | .seqSb _ _ _ _ => kept_execSeqSb h
  | .seqBr _ _ _ => kept_execSeqBr h
  | .seqBl _ _ _ => kept_execSeqBl h
  | .seqJumpr _ _ _ _ _ => kept_execSeqJumpr h
  | .seqRbz _ _ _ _ => kept_execSeqRbz h
  | .seqRbnz _ _ _ _ => kept_execSeqRbnz h
  | .seqAt _ _ _ _ _ => kept_execSeqAt h
  | .seqWaitt _ _ _ _ _ => kept_execSeqWaitt h
  | .seqMfs _ _ _ _ => kept_execSeqMfs h
  | .seqMts _ _ _ _ => kept_execSeqMts h
  | .seqEmit _ _ _ _ _ => kept_execSeqEmit h
  | .seqEmitTry _ _ _ _ _ => kept_execSeqEmitTry h
  | .seqBeamsel _ _ _ _ _ => kept_execSeqBeamsel h
  | .seqCommit _ _ _ _ _ => kept_execSeqCommit h
  | .seqPrep _ _ _ _ _ => kept_execSeqPrep h
  | .seqHop _ _ _ _ _ => kept_execSeqHop h
  | .seqPwr _ _ _ _ _ => kept_execSeqPwr h
  | .seqRecv _ _ _ _ _ => kept_execSeqRecv h
  | .seqRecvNb _ _ _ _ _ => kept_execSeqRecvNb h
  | .seqEvRaise _ _ _ _ _ => kept_execSeqEvRaise h
  | .seqEvWait _ _ _ _ _ => kept_execSeqEvWait h
  | .seqEvWaitTimeout _ => kept_execSeqEvWaitTimeout h
  | .seqStallEnd _ => kept_execSeqStallEnd h
  | .seqCkpt _ _ _ _ => kept_execSeqCkpt h
  | .seqSquash _ _ _ _ _ => kept_execSeqSquash h
  | .seqSquashStallEnd _ => kept_execSeqSquashStallEnd h
  | .seqSpecoff _ _ _ _ _ => kept_execSeqSpecoff h
  | .seqHalt _ _ _ _ _ => kept_execSeqHalt h
  | .refusalFault _ => kept_execRefusalFault h
  | .seqRun _ _ => kept_execSeqRun h
  | .seqStop _ _ => kept_execSeqStop h
  | .seqRestart _ _ => kept_execSeqRestart h
  | .hiqPush _ _ => kept_execHiqPush h
  | .miqPush _ _ => kept_execMiqPush h
  | .issueQueueIssue _ => kept_execIssueQueueIssue h
  | .lockstepMismatch _ => kept_execLockstepMismatch h
  | .vNop _ _ _ _ _ _ => kept_execVNop h
  | .vCmac _ _ _ _ _ _ => kept_execVCmac h
  | .vAdd _ _ _ _ _ _ => kept_execVAdd h
  | .vConj _ _ _ _ x _ => kept_execVConj (a4 := x) h
  | .vNorm _ _ _ _ _ _ => kept_execVNorm h
  | .vExp _ _ _ _ x _ => kept_execVExp (a4 := x) h
  | .vRnd _ _ _ _ _ _ => kept_execVRnd h
  | .vRsq _ _ _ _ x _ => kept_execVRsq (a4 := x) h
  | .vSplat _ _ _ _ x _ => kept_execVSplat (a4 := x) h
  | .vHadd _ _ _ _ x _ => kept_execVHadd (a4 := x) h
  | .vAclr _ _ _ x y _ => kept_execVAclr (a3 := x) (a4 := y) h
  | .vMovs _ _ _ _ x _ => kept_execVMovs (a4 := x) h
  | .vIns _ _ _ _ x _ => kept_execVIns (a4 := x) h
  | .vAovf _ _ _ _ x _ => kept_execVAovf (a4 := x) h
  | .sNop _ _ _ _ _ => kept_execSNop h
  | .sAdd _ _ _ _ => kept_execSAdd h
  | .sSub _ _ _ _ => kept_execSSub h
  | .sAnd _ _ _ _ => kept_execSAnd h
  | .sOr _ _ _ _ => kept_execSOr h
  | .sXor _ _ _ _ => kept_execSXor h
  | .sSll _ _ _ _ => kept_execSSll h
  | .sSrl _ _ _ _ => kept_execSSrl h
  | .sSra _ _ _ _ => kept_execSSra h
  | .sMul _ _ _ _ => kept_execSMul h
  | .sSlt _ _ _ _ => kept_execSSlt h
  | .sSltu _ _ _ _ => kept_execSSltu h
  | .sMin _ _ _ _ => kept_execSMin h
  | .sMax _ _ _ _ => kept_execSMax h
  | .sAddi _ _ _ _ => kept_execSAddi h
  | .sLi _ _ _ _ => kept_execSLi h
  | .sLih _ _ _ _ => kept_execSLih h
  | .sMov _ _ _ _ _ => kept_execSMov h
  | .sAaddi _ _ _ _ => kept_execSAaddi h
  | .sVld _ _ _ _ _ => kept_execSVld h
  | .sVst _ _ _ _ _ => kept_execSVst h
  | .sLd _ _ _ _ _ => kept_execSLd h
  | .sSt _ _ _ _ _ => kept_execSSt h
  | .remoteLoadResponse _ => kept_execRemoteLoadResponse h
  | .sB _ _ _ => kept_execSB h
  | .sBl _ _ _ => kept_execSBl h
  | .sJr _ _ _ _ _ => kept_execSJr h
  | .sLoop _ _ _ _ _ => kept_execSLoop h
  | .sMfsr _ _ x _ => kept_execSMfsr (a2 := x) h
  | .sSev _ _ _ _ _ => kept_execSSev h
  | .sSleep _ x _ y z => kept_execSSleep (a1 := x) (a3 := y) (a4 := z) h
  | .sleepEnd _ => kept_execSleepEnd h
  | .sFence _ _ _ _ _ => kept_execSFence h
  | .sHalt _ x y z u => kept_execSHalt (a1 := x) (a2 := y) (a3 := z) (a4 := u) h
  | .vcRun _ _ => kept_execVcRun h
  | .vcStop _ _ => kept_execVcStop h
  | .vcRestart _ _ => kept_execVcRestart h
  | .laneGroupEnable _ _ _ => kept_execLaneGroupEnable h
  | .laneGroupDisable _ _ _ => kept_execLaneGroupDisable h
  | .laneIdleRequest _ _ _ => kept_execLaneIdleRequest h
  | .pllLock _ => kept_execPllLock h
  | .idleEntry _ _ => kept_execIdleEntry h
  | .train _ _ => kept_execTrain h
  | .retrain _ _ => kept_execRetrain h
  | .signalDetect _ => kept_execSignalDetect h
  | .fastExitLock _ _ => kept_execFastExitLock h
  | .fastExitFail _ => kept_execFastExitFail h
  | .trainingEnd _ => kept_execTrainingEnd h
  | .blockLock _ _ => kept_execBlockLock h
  | .acquisitionRetry _ => kept_execAcquisitionRetry h
  | .lossOfSignal _ => kept_execLossOfSignal h
  | .lossOfLock _ _ _ => kept_execLossOfLock h
  | .portAligning _ => kept_execPortAligning h
  | .alignWord _ _ _ => kept_execAlignWord h
  | .alignSend _ => kept_execAlignSend h
  | .lresetWord _ _ _ => kept_execLresetWord h
  | .portUp _ => kept_execPortUp h
  | .creditWord _ _ _ => kept_execCreditWord h
  | .creditRefresh _ => kept_execCreditRefresh h
  | .ackWord _ _ _ => kept_execAckWord h
  | .nakWord _ _ _ => kept_execNakWord h
  | .ackTimeout _ _ => kept_execAckTimeout h
  | .creditTimeout _ _ => kept_execCreditTimeout h
  | .vc2WaitExpiry _ => kept_execVc2WaitExpiry h
  | .frameSend _ => kept_execFrameSend h
  | .taggedFrame _ _ => kept_execTaggedFrame h
  | .mgmtRead _ _ => kept_execMgmtRead h
  | .mgmtWrite _ _ => kept_execMgmtWrite h
  | .mgmtUpdate _ _ => kept_execMgmtUpdate h
  | .mgmtRsp _ _ => kept_execMgmtRsp h
  | .eventFrame _ _ => kept_execEventFrame h
  | .bulk _ _ => kept_execBulk h
  | .linkctl _ _ => kept_execLinkctl h
  | .ptpMessage _ _ _ _ => kept_execPtpMessage h
  | .tsyncAnnounce _ _ => kept_execTsyncAnnounce h
  | .ethernetFrame _ _ => kept_execEthernetFrame h
  | .pcsLinkChange _ _ => kept_execPcsLinkChange h
  | .timeStepWrite _ _ => kept_execTimeStepWrite h
  | .timeRearm x _ => kept_execTimeRearm (a0 := x) h
  | .timeSrcChange x _ => kept_execTimeSrcChange (a0 := x) h
  | .timeRateWrite _ _ => kept_execTimeRateWrite h
  | .steeringWordPeriodic => kept_execSteeringWordPeriodic h
  | .servoSample _ _ _ _ => kept_execServoSample h
  | .sourceLossTimeout => kept_execSourceLossTimeout h
  | .ptpDescriptor x _ => kept_execPtpDescriptor (a0 := x) h
  | .ptpLaunch _ => kept_execPtpLaunch h
  | .tsyncOutEdge => kept_execTsyncOutEdge h
  | .tsyncInEdge => kept_execTsyncInEdge h
  | .tsyncMissing => kept_execTsyncMissing h
  | .ppsOutEdge => kept_execPpsOutEdge h
  | .ppsInEdge => kept_execPpsInEdge h
  | .ppsMissing => kept_execPpsMissing h
  | .slowclkTick => kept_execSlowclkTick h
  | .hostRequest _ => kept_execHostRequest h
  | .pciePerst => kept_execPciePerst h
  | .slotClaim _ _ => kept_execSlotClaim h
  | .slotHandover _ _ => kept_execSlotHandover h
  | .slotRelease _ _ => kept_execSlotRelease h
  | .deviceSlotClaim _ _ _ => kept_execDeviceSlotClaim h
  | .deviceSlotHandover _ _ _ => kept_execDeviceSlotHandover h
  | .deviceSlotRelease _ _ _ => kept_execDeviceSlotRelease h
  | .headerRepoll _ => kept_execHeaderRepoll h
  | .leaseExpiry _ => kept_execLeaseExpiry h
  | .memWincbaseWrite _ _ => kept_execMemWincbaseWrite h
  | .msixUnmask _ => kept_execMsixUnmask h
  | .svcWrite _ => kept_execSvcWrite h
  | .svcRead _ => kept_execSvcRead h
  | .svcStatus => kept_execSvcStatus h
  | .dmaRing _ _ _ => kept_execDmaRing h
  | .dmaEnable _ _ _ => kept_execDmaEnable h
  | .dmaDisable _ _ _ => kept_execDmaDisable h
  | .dmaResume _ _ _ => kept_execDmaResume h
  | .dmaAbort _ _ _ => kept_execDmaAbort h
  | .dmaHeadWrite _ _ _ => kept_execDmaHeadWrite h
  | .burstGrant _ => kept_execBurstGrant h
  | .descriptorComplete _ => kept_execDescriptorComplete h
  | .waitevSignal _ _ => kept_execWaitevSignal h
  | .waitwordPoll _ => kept_execWaitwordPoll h
  | .dmaWaitTimeout _ => kept_execDmaWaitTimeout h
  | .dmaErrorHalt _ => kept_execDmaErrorHalt h
  | .scrubStep _ => kept_execScrubStep h
  | .privilegedLapOverdue => kept_execPrivilegedLapOverdue h
  | .nvWordWrite _ _ _ _ => kept_execNvWordWrite h
  | .nvErase _ _ => kept_execNvErase h
  | .captureRecord _ _ _ _ _ => kept_execCaptureRecord h
  | .playbackRecord _ => kept_execPlaybackRecord h
  | .eventRepeatMessage _ => kept_execEventRepeatMessage h
  | .evPendClear x _ _ _ => kept_execEvPendClear (a0 := x) h
  | .requestTimeout _ => kept_execRequestTimeout h
  | .clockMonitorTrip _ => kept_execClockMonitorTrip h
  | .selfCheckError _ => kept_execSelfCheckError h
  | .fenceRequest _ _ => kept_execFenceRequest h
  | .fenceRelease _ _ => kept_execFenceRelease h
  | .watchdogKick x _ => kept_execWatchdogKick (a0 := x) h
  | .watchdogExpiry => kept_execWatchdogExpiry h
  | .pwrReqActive _ _ => kept_execPwrReqActive h
  | .pwrReqFen _ _ => kept_execPwrReqFen h
  | .pwrReqBog _ _ => kept_execPwrReqBog h
  | .pwrReqPeat _ _ => kept_execPwrReqPeat h
  | .powerEntryStep _ => kept_execPowerEntryStep h
  | .entryRollback _ => kept_execEntryRollback h
  | .autoReedEntry _ => kept_execAutoReedEntry h
  | .autoReedExit _ => kept_execAutoReedExit h
  | .wakeTick => kept_execWakeTick h
  | .wakeN => kept_execWakeN h
  | .exitStepReady _ => kept_execExitStepReady h
  | .psGoodTimeout _ => kept_execPsGoodTimeout h
  | .transitionOverrun _ => kept_execTransitionOverrun h
  | .psGoodFall _ => kept_execPsGoodFall h
  | .psEnRaise _ => kept_execPsEnRaise h
  | .avsStep _ => kept_execAvsStep h
  | .modeReqService _ => kept_execModeReqService h
  | .modeReqMaintenance _ => kept_execModeReqMaintenance h
  | .modeReqTest _ => kept_execModeReqTest h
  | .modeReqWarmup _ => kept_execModeReqWarmup h
  | .modeReqTimeout _ => kept_execModeReqTimeout h
  | .settingsRead => kept_execSettingsRead h
  | .calibrationComplete => kept_execCalibrationComplete h
  | .powerOn => kept_execPowerOn h
  | .resetPin => kept_execResetPin h
  | .softwareReset _ _ => kept_execSoftwareReset h
  | .bootWatchdogExpiry => kept_execBootWatchdogExpiry h
  | .sessionOpen _ _ => kept_execSessionOpen h
  | .sessionWrite _ _ => kept_execSessionWrite h
  | .sessionFinish _ _ => kept_execSessionFinish h
  | .sessionActivate _ _ => kept_execSessionActivate h
  | .sessionConfirm _ _ => kept_execSessionConfirm h
  | .sessionAbort _ _ => kept_execSessionAbort h
  | .sessionStatus _ _ => kept_execSessionStatus h
  | .sessionRead _ _ => kept_execSessionRead h
  | .sessionFallback _ _ => kept_execSessionFallback h
  | .sessionLockExpiry => kept_execSessionLockExpiry h
  | .trialWindowExpiry => kept_execTrialWindowExpiry h
  | .counterReadClear _ _ _ => kept_execCounterReadClear h
  | .w1cWrite _ _ _ _ => kept_execW1cWrite h
  | .wideRegisterCommit _ _ _ => kept_execWideRegisterCommit h
  | .configRegisterWrite _ _ _ _ => kept_execConfigRegisterWrite h
  | .refclkReturn => kept_execRefclkReturn h
  | .resetNRelease _ => kept_execResetNRelease h
  | .powerLoss => kept_execPowerLoss h
  | .pciePerstNRelease => kept_execPciePerstNRelease h
  | .pcieEndpointReady => kept_execPcieEndpointReady h
  | .remoteStoreResponse _ => kept_execRemoteStoreResponse h
  | .loopbackReleaseByTraffic _ => kept_execLoopbackReleaseByTraffic h
  | .laneIdleExit _ _ _ => kept_execLaneIdleExit h
  | .tickCounterWrap => kept_execTickCounterWrap h

/-- Settles O49: what every command keeps, without asking for the form of memory. -/
theorem commandsLeaveTheQueue : Obligations.CommandsLeaveTheQueue := by
  unfold Obligations.CommandsLeaveTheQueue
  intro c s t hNext
  exact (kept_exec (kept_queue s) c t hNext).queue

/-- With no command waiting, a step is the idle tick (log entry 1). -/
theorem step_of_empty {s : State} (h : s.pending = []) : step s = .next s.idle := by
  simp only [step, h]

/-- A step keeps the form of memory: an idle tick, or the command at the front (R452, R498). -/
theorem step_keeps_memory_form {s t : State} (hWf : Memory.wf s) (hStep : step s = .next t) : Memory.wf t := by
  cases hPending : s.pending with
  | nil =>
    rw [step_of_empty hPending] at hStep
    cases hStep
    exact (kept_idle (kept_self hWf)).wf
  | cons c cs =>
    rw [step_of_pending hPending] at hStep
    exact (kept_exec (kept_self (s := { s with pending := cs }) hWf) c t hStep).wf

/-- Settles O50: the step lemma, for every state and whatever stands at the front of its queue. -/
theorem stepsKeepMemoryForm : Obligations.StepsKeepMemoryForm := by
  unfold Obligations.StepsKeepMemoryForm
  intro s t hWf hStep
  exact step_keeps_memory_form hWf hStep

/-- Settles O47: with nothing in front, a step is the idle tick. -/
theorem emptyQueueIdles : Obligations.EmptyQueueIdles := by
  unfold Obligations.EmptyQueueIdles
  intro s hPending
  exact step_of_empty hPending

/-- Settles O51: the memory of reset lists no byte, no valid bit and no error. -/
theorem resetMemoryForm : Obligations.ResetMemoryForm := by
  unfold Obligations.ResetMemoryForm
  exact ⟨rfl, rfl⟩

end Sys2Proof.Machine
end

