-- ==== Sys2Proof/Proofs/LaneGroups.lean ====
section
/-! PROOF. Lane groups and lanes: registers, PLLs, blocks received, training, acquisition and loss (R378, R379, R381-R389, R398). -/

namespace Sys2Proof.Machine
open Sys2Proof

section lanes
variable {w : Initiator} {g : Group} {l : Lane} {v : BitVec 32} {run : LineRun} {hdrs : List SyncHeader}

/-! ## The registers of a group and of a lane (R378, R379, R382) -/

theorem runs_laneGroupEnable : Runs (.laneGroupEnable w g v) (laneGroupEnableRule g v) := by
  refine runs_unitAct (w := w) (off := rLaneGcfg g.val) (f := fun s => s.writeGcfg g.val (setBit v 4 true)) (fun _ => rfl)
    (fun s hpre => ?_) fun s hpre => ?_
  all_goals
    simp only [laneGroupEnableRule, Bool.and_eq_true, Bool.not_eq_true'] at hpre
    obtain ⟨⟨⟨hTakes, hOff⟩, hOn⟩, hOk⟩ := hpre
  · exact hTakes
  · simp only [State.writeGcfg, laneGroupEnableRule, hOff, hOn, hOk, Bool.not_true, Bool.not_false, Bool.and_self,
      Bool.false_eq_true, if_false, if_true]

theorem runs_laneGroupDisable : Runs (.laneGroupDisable w g v) (laneGroupDisableRule g v) := by
  refine runs_unitAct (w := w) (off := rLaneGcfg g.val) (f := fun s => s.writeGcfg g.val (setBit v 4 false)) (fun _ => rfl)
    (fun s hpre => ?_) fun s hpre => ?_
  all_goals
    simp only [laneGroupDisableRule, Bool.and_eq_true, Bool.not_eq_true'] at hpre
    obtain ⟨⟨⟨hTakes, hOn⟩, hOff⟩, hOk⟩ := hpre
  · exact hTakes
  · simp only [State.writeGcfg, laneGroupDisableRule, hOff, hOn, hOk, Bool.not_true, Bool.not_false, Bool.and_self,
      Bool.false_eq_true, if_false, if_true]

/-- A lane that trains for a RETRAIN becomes idle when its data has begun; any other becomes idle at once (R382, R388). -/
theorem askIdle_training {s : State} {i t : Nat} (h : (s.laneOf i).tx = .training t) :
    s.askIdle i = if (s.laneOf i).retrain then s.setLane i { s.laneOf i with idlePend := true } else s.idleLane i := by
  unfold State.askIdle
  dsimp only
  split
  · rfl
  · next hOther => exact (hOther t h).elim

theorem askIdle_other {s : State} {i : Nat} (h : ∀ t, (s.laneOf i).tx = .training t → False) : s.askIdle i = s.idleLane i := by
  unfold State.askIdle
  dsimp only
  split
  · next t hTraining => exact (h t hTraining).elim
  · rfl

theorem runs_laneIdleRequest : Runs (.laneIdleRequest w l v) (laneIdleRequestRule l v) := by
  refine runs_unitAct (w := w) (off := rLaneCtrl l.val) (f := fun s => s.writeLaneCtrl l.val (setBit v 2 true)) (fun _ => rfl)
    (fun s hpre => ?_) fun s hpre => ?_
  all_goals
    simp only [laneIdleRequestRule, Bool.and_eq_true, Bool.not_eq_true'] at hpre
    obtain ⟨⟨hTakes, hOld⟩, hNew⟩ := hpre
  · exact hTakes
  · simp only [State.writeLaneCtrl, laneIdleRequestRule, hOld, hNew, Bool.not_false, Bool.and_self, if_true]
    split
    · rfl
    · split
      · next hTraining =>
        rw [askIdle_training hTraining]
        split <;> rfl
      · next hOther => rw [askIdle_other hOther]

theorem runs_laneIdleExit : Runs (.laneIdleExit w l v) (laneIdleExitRule l v) := by
  refine runs_unitAct (w := w) (off := rLaneCtrl l.val) (f := fun s => s.writeLaneCtrl l.val (setBit v 2 false)) (fun _ => rfl)
    (fun s hpre => ?_) fun s hpre => ?_
  all_goals
    simp only [laneIdleExitRule, Bool.and_eq_true, Bool.not_eq_true'] at hpre
    obtain ⟨⟨hTakes, hOld⟩, hNew⟩ := hpre
  · exact hTakes
  · simp only [State.writeLaneCtrl, laneIdleExitRule, hOld, hNew, Bool.not_false, Bool.and_self, Bool.false_and, Bool.false_eq_true,
      if_false, if_true]
    split <;> rfl

/-! ## The PLL and the blocks received (R379, R383, R384, R386) -/

theorem runs_pllLock : Runs (.pllLock g) (pllLockRule g) := by
  refine runs_of_act (execPllLock g) rfl (fun _ => rfl) fun s hpre => ?_
  simp only [pllLockRule, Bool.and_eq_true, Bool.not_eq_true'] at hpre
  obtain ⟨⟨hOn, hUnlocked⟩, hRail⟩ := hpre
  dsimp only [pllLockRule]
  rw [hOn, hUnlocked, hRail]
  rfl

theorem laneOf_emitOuts {s : State} {i : Nat} {α : Type} {f : α → Out} {xs : List α} :
    (xs.foldl (fun s b => s.emitOut (f b)) s).laneOf i = s.laneOf i := by
  induction xs generalizing s with
  | nil => rfl
  | cons b bs ih => exact ih

@[simp] theorem laneOf_setLane {s : State} {i : Nat} {x : LaneSt} : (s.setLane i x).laneOf i = x := tget_tput

/-- A run that comes in takes what a near-end loop holds, and leaves the lane's receiver (R390). -/
theorem blocklock_lineIn {s : State} {i : Nat} : ((s.lineIn i run).2.laneOf i).blocklock = (s.laneOf i).blocklock := by
  unfold State.lineIn
  dsimp only
  split
  · rfl
  · split
    · rw [laneOf_setLane]
    · rw [laneOf_emitOuts]

theorem runs_idleEntry : Runs (.idleEntry l run) (idleEntryRule l run) := by
  refine runs_of_act (execIdleEntry l run) rfl (fun _ => rfl) fun s hpre => ?_
  simp only [idleEntryRule, Bool.and_eq_true] at hpre
  obtain ⟨⟨hOpen, hLock⟩, hGot⟩ := hpre
  have hLockBefore : (s.laneOf l.val).blocklock = true := blocklock_lineIn.symm.trans hLock
  dsimp only [idleEntryRule]
  rw [hOpen, hLockBefore, hGot]
  rfl

theorem runs_train : Runs (.train l run) (trainRule l run) := by
  refine runs_of_act (execTrain l run) rfl (fun _ => rfl) fun s hpre => ?_
  simp only [trainRule, Bool.and_eq_true, Option.any_eq_true, decide_eq_true_eq] at hpre
  obtain ⟨hOpen, b, hGot, hLane⟩ := hpre
  dsimp only [trainRule]
  generalize s.gotBlock l.val 0xD2 run = p at hOpen hGot ⊢
  obtain ⟨_, u⟩ := p
  obtain rfl : _ = some b := hGot
  dsimp only at hOpen ⊢
  rw [if_neg (by simp [hOpen, hLane])]
  rfl

theorem runs_retrain : Runs (.retrain l run) (retrainRule l run) := by
  refine runs_of_act (execRetrain l run) rfl (fun _ => rfl) fun s hpre => ?_
  simp only [retrainRule, Bool.and_eq_true] at hpre
  obtain ⟨hOpen, hGot⟩ := hpre
  dsimp only [retrainRule]
  rw [hOpen, hGot]
  rfl

/-! ## Training again leaves the registers (R387, R388) -/

section training
variable {s : State} {i n ty : Nat}

theorem regs_ite {c : Prop} [Decidable c] {t u : State} (ht : t.regs = s.regs) (hu : u.regs = s.regs) :
    (if c then t else u).regs = s.regs := by
  split <;> assumption

theorem regs_laneBlock {b : Block66} : (s.laneBlock i b).regs = s.regs := regs_ite rfl rfl

theorem regs_laneBlocks {b : Block66} : ((List.range n).foldl (fun s _ => s.laneBlock i b) s).regs = s.regs :=
  foldl_keeps (P := fun u : State => u.regs = s.regs) rfl fun _ _ h => regs_laneBlock.trans h

theorem regs_sendBlock : (s.sendBlock i n ty).regs = s.regs :=
  regs_ite rfl (regs_ite regs_laneBlocks regs_laneBlocks)

theorem regs_trainLane : (s.trainLane i).regs = s.regs :=
  regs_ite (regs_sendBlock (s := s)) regs_sendBlock

theorem regs_trainAgain : (s.trainAgain i).regs = s.regs := by
  unfold State.trainAgain
  split
  · rfl
  · rfl
  · exact regs_ite regs_trainLane rfl

end training

/-! ## Signal, acquisition and training (R381, R385, R387, R388) -/

theorem runs_signalDetect : Runs (.signalDetect l) (signalDetectRule l) := by
  refine runs_of_act (execSignalDetect l) rfl (fun _ => rfl) fun s hpre => ?_
  simp only [signalDetectRule, Bool.and_eq_true, Bool.not_eq_true'] at hpre
  obtain ⟨⟨hOn, hQuiet⟩, hCan⟩ := hpre
  have hTrains : (s.groupOn (l.val / 8) && s.laneNative l.val && !(s.laneOf l.val).sigdet && (s.laneOf l.val).needFull &&
      !(s.laneOf l.val).acq && s.signalCan l.val) =
      (s.laneNative l.val && (s.laneOf l.val).needFull && !(s.laneOf l.val).acq) := by
    simp [hOn, hQuiet, hCan]
  have hRegs : (if s.laneNative l.val && (s.laneOf l.val).needFull && !(s.laneOf l.val).acq then s.trainAgain l.val else s).regs =
      s.regs := regs_ite regs_trainAgain rfl
  dsimp only [signalDetectRule, State.signalOn]
  rw [hTrains, hQuiet]
  generalize (if s.laneNative l.val && (s.laneOf l.val).needFull && !(s.laneOf l.val).acq then s.trainAgain l.val else s) = u at hRegs ⊢
  have hOnStill : u.groupOn (l.val / 8) = true := by
    rw [State.groupOn, State.reg, hRegs]
    exact hOn
  rw [hOnStill]
  rfl

theorem runs_fastExitLock : Runs (.fastExitLock l run) (fastExitLockRule l run) :=
  runs_of_act (execFastExitLock l run) rfl (fun _ => rfl) fun _ hpre => if_pos hpre

theorem runs_fastExitFail : Runs (.fastExitFail l) (fastExitFailRule l) := by
  refine runs_of_act (execFastExitFail l) rfl (fun _ => rfl) fun s hpre => ?_
  dsimp only [fastExitFailRule] at hpre ⊢
  cases hFast : (s.laneOf l.val).fastRx with
  | none => simp [hFast] at hpre
  | some t =>
    rw [hFast] at hpre
    exact if_neg (by simpa using hpre)

theorem runs_trainingEnd : Runs (.trainingEnd l) (trainingEndRule l) := 
  runs_of_act (execTrainingEnd l) rfl (fun _ => rfl) fun _ hpre => if_neg (ne_true_of_eq_false (congrArg not hpre))

theorem runs_blockLock : Runs (.blockLock l hdrs) (blockLockRule l hdrs) := by
  refine runs_of_act (execBlockLock l hdrs) rfl (fun _ => rfl) fun s hpre => ?_
  simp only [blockLockRule, Bool.and_eq_true, Bool.not_eq_true'] at hpre
  obtain ⟨⟨⟨hAcq, hSignal⟩, hOn⟩, hPrbs⟩ := hpre
  dsimp only [blockLockRule]
  rw [hAcq, hSignal, hOn, hPrbs]
  rfl

theorem runs_acquisitionRetry : Runs (.acquisitionRetry l) (acquisitionRetryRule l) :=
  runs_of_act (execAcquisitionRetry l) rfl (fun _ => rfl) fun _ hpre => if_pos hpre

theorem runs_lossOfSignal : Runs (.lossOfSignal l) (lossOfSignalRule l) := by
  refine runs_of_act (execLossOfSignal l) rfl (fun _ => rfl) fun s hpre => ?_
  simp only [lossOfSignalRule, Bool.and_eq_true] at hpre
  obtain ⟨hOn, hSignal⟩ := hpre
  dsimp only [lossOfSignalRule]
  rw [hOn, hSignal]
  rfl

theorem runs_lossOfLock {range : Bool} : Runs (.lossOfLock l range hdrs) (lossOfLockRule l range hdrs) := by
  refine runs_of_act (execLossOfLock l range hdrs) rfl (fun _ => rfl) fun s hpre => ?_
  dsimp only [lossOfLockRule] at hpre ⊢
  obtain ⟨hHeld, hLost⟩ := Bool.and_eq_true_iff.mp hpre
  obtain ⟨hOn, hLock⟩ := Bool.and_eq_true_iff.mp hHeld
  rw [hOn, hLock, if_neg (by decide), ← Bool.not_or, hLost]
  rfl

end lanes

/-- Settles O29: the registers by the bit that changes, the blocks received by what the lane was sent, the rest by the lane's state. -/
theorem laneGroups : Obligations.LaneGroups := by
  unfold Obligations.LaneGroups
  exact ⟨fun _ _ _ => runs_laneGroupEnable, fun _ _ _ => runs_laneGroupDisable, fun _ _ _ => runs_laneIdleRequest,
    fun _ _ _ => runs_laneIdleExit, fun _ => runs_pllLock, fun _ _ => runs_idleEntry, fun _ _ => runs_train, fun _ _ => runs_retrain,
    fun _ => runs_signalDetect, fun _ _ => runs_fastExitLock, fun _ => runs_fastExitFail, fun _ => runs_trainingEnd,
    fun _ _ => runs_blockLock, fun _ => runs_acquisitionRetry, fun _ => runs_lossOfSignal, fun _ _ _ => runs_lossOfLock⟩
end Sys2Proof.Machine
end

