-- ==== Sys2Proof/Proofs/LinkPorts.lean ====
section
/-! PROOF. Link ports: alignment and reset, credits, acknowledgements and timeouts, egress, and the PCS (R400-R402, R405, R407-R412,
R415, R429). -/

namespace Sys2Proof.Machine
open Sys2Proof

section ports
variable {p : LPort} {cut : Bool} {w : BitVec 64} {v : VChan} {s : State}

/-! ## What a port takes in (R390, R402) -/

/-- What comes in at a port is met on the state that has taken it: in a near-end loop, what the port itself sent (R390). -/
theorem runs_takenIn {c : Instr} {o : State → Out} {r : Rule} {f : State → State} (e : State → Host.Outcome State Fault Refusal)
    (he : e = act fun s => match s.portIn p.val (o s) with
      | some t => f t
      | none => s) (hc : ∀ s, exec c s = e s)
    (hf : ∀ t : State, r.pre t = true → f t = r.eff t) : Runs c (takenIn p o r) := by
  refine runs_of_act e he hc fun s hpre => ?_
  dsimp only [takenIn] at hpre ⊢
  obtain ⟨t, hTaken, hPre⟩ := Option.any_eq_true _ _ |>.mp hpre
  rw [hTaken]
  exact hf t hPre

theorem runs_wordTaken {c : Instr} {r : Rule} {f : State → State} (e : State → Host.Outcome State Fault Refusal)
    (he : e = act fun s => s.wordIn p.val w f) (hc : ∀ s, exec c s = e s) (hf : ∀ t : State, r.pre t = true → f t = r.eff t) :
    Runs c (wordTaken p w r) :=
  runs_takenIn e he hc hf

/-! ## Alignment and reset (R400, R401, R407) -/

theorem runs_portAligning : Runs (.portAligning p) (portAligningRule p) := by
  refine runs_of_act (execPortAligning p) rfl (fun _ => rfl) fun s hpre => ?_
  simp only [portAligningRule, Bool.and_eq_true, Bool.not_eq_true', decide_eq_true_eq] at hpre
  obtain ⟨⟨⟨hDown, hServed⟩, hLanes⟩, hReady⟩ := hpre
  dsimp only [portAligningRule]
  rw [if_neg (by simp [hDown, hServed, hLanes])]
  split
  · next hNative => exact if_pos (by simpa [hNative] using hReady)
  · next hEthernet => exact if_pos (by simpa [hEthernet] using hReady)

theorem runs_alignWord {seen : AlignSeen} : Runs (.alignWord p w seen) (alignWordRule p w seen) := by
  refine runs_wordTaken (execAlignWord p w seen) rfl (fun _ => rfl) fun s hpre => ?_
  simp only [Bool.and_eq_true, Bool.not_eq_true', decide_eq_true_eq, List.contains_eq_mem, decide_eq_false_iff_not] at hpre
  obtain ⟨⟨⟨⟨⟨⟨hNative, hLane⟩, hType⟩, hWord⟩, hAligning⟩, hSkew⟩, hNew⟩ := hpre
  dsimp only
  rw [if_neg (by simp [hLane, hNative]), if_neg (by simp [hType, hWord]), hAligning]
  dsimp only
  rw [if_neg (not_lt.mpr hSkew), if_neg hNew]
  split
  · rfl
  · by_cases hFirst : (s.portOf p.val).periods = 0
    · rw [if_pos (by omega), if_pos hFirst, hFirst]
    · rw [if_neg (by omega), if_neg hFirst]

theorem runs_alignSend : Runs (.alignSend p) (alignSendRule p) := by
  refine runs_of_act (execAlignSend p) rfl (fun _ => rfl) fun s hpre => ?_
  simp only [alignSendRule, Bool.and_eq_true, decide_eq_true_eq] at hpre
  obtain ⟨hNative, hOn⟩ := hpre
  exact if_neg (by simp [hNative, hOn])

theorem runs_lresetWord : Runs (.lresetWord p cut w) (lresetWordRule p cut w) := by
  refine runs_wordTaken (execLresetWord p cut w) rfl (fun _ => rfl) fun s hpre => ?_
  simp only [Bool.and_eq_true, decide_eq_true_eq] at hpre
  obtain ⟨⟨hType, hWord⟩, hOn⟩ := hpre
  dsimp only
  rw [if_neg hOn, if_neg (by simp [hType, hWord])]
  rfl

theorem runs_portUp : Runs (.portUp p) (portUpRule p) :=
  runs_of_act (execPortUp p) rfl (fun _ => rfl) fun _ hpre => if_pos hpre

/-! ## Credits (R408, R409) -/

theorem runs_creditWord : Runs (.creditWord p cut w) (creditWordRule p cut w) := by
  refine runs_wordTaken (execCreditWord p cut w) rfl (fun _ => rfl) fun s hpre => ?_
  simp only [Bool.and_eq_true, Bool.or_eq_true, decide_eq_true_eq] at hpre
  obtain ⟨⟨hOn, hType⟩, hWord⟩ := hpre
  have hForm : ¬ (decide (fld w 0 8 ≠ 0x55) || !wordOk w) = true := by simp [hType, hWord]
  dsimp only
  rcases hOn with hState | hState <;> rw [hState] <;> exact if_neg hForm

@[simp] theorem setPort_setPort {i : Nat} {x y : PortLink} : (s.setPort i x).setPort i y = s.setPort i y := by
  rw [State.setPort, State.setPort, State.setPort, tput_tput]

/-- CREDIT words for every VC, and the tick they were sent (R409). -/
theorem sendCredits_eq {i : Nat} : s.sendCredits i = s.setPort i { s.portOf i with
    words := (s.portOf i).words ++ (List.range 4).map fun v => creditWordOf v (s.vlOf i v).own, credSent := s.clock } := by
  rw [State.sendCredits, State.queueWords, portOf_setPort, setPort_setPort]
  rfl

theorem runs_creditRefresh : Runs (.creditRefresh p) (creditRefreshRule p) := by
  refine runs_of_act (execCreditRefresh p) rfl (fun _ => rfl) fun s hpre => ?_
  simp only [creditRefreshRule, Bool.or_eq_true, decide_eq_true_eq] at hpre
  dsimp only [creditRefreshRule]
  rcases hpre with hState | hState <;> rw [hState] <;> exact sendCredits_eq

theorem runs_creditTimeout : Runs (.creditTimeout p v) (creditTimeoutRule p v) := by
  refine runs_of_act (execCreditTimeout p v) rfl (fun _ => rfl) fun s hpre => ?_
  dsimp only [creditTimeoutRule] at hpre ⊢
  cases hFront : (s.vlOf p.val v.val).queue.head? with
  | none => simp [hFront] at hpre
  | some f =>
    rw [hFront] at hpre
    exact if_pos (by simpa [and_assoc] using hpre)

theorem runs_vc2WaitExpiry : Runs (.vc2WaitExpiry p) (vc2WaitExpiryRule p) := by
  refine runs_of_act (execVc2WaitExpiry p) rfl (fun _ => rfl) fun s hpre => ?_
  dsimp only [vc2WaitExpiryRule] at hpre ⊢
  cases hQueue : (s.vlOf p.val 2).queue with
  | nil => simp [hQueue] at hpre
  | cons f fs =>
    rw [hQueue] at hpre
    exact if_pos hpre

/-! ## Acknowledgements (R410, R411) -/

/-- Going back counts, and in place of the 16th time in a run the link is reset (R411). -/
theorem goBack_eq_backToOldest {i k : Nat} : s.goBack i k = s.backToOldest i k := by
  unfold State.goBack State.backToOldest
  by_cases h : 15 ≤ (s.vlOf i k).goback
  · exact (if_pos (by omega)).trans (if_pos h).symm
  · exact (if_neg (by omega)).trans (if_neg h).symm

theorem runs_ackWord : Runs (.ackWord p cut w) (ackWordRule p cut w) := by
  refine runs_wordTaken (execAckWord p cut w) rfl (fun _ => rfl) fun s hpre => ?_
  simp only [Bool.and_eq_true, Bool.not_eq_true', decide_eq_true_eq] at hpre
  obtain ⟨⟨⟨⟨hUp, hType⟩, hWord⟩, hAck⟩, hVc⟩ := hpre
  dsimp only
  rw [if_neg (by simp [hUp]), if_neg (by simp only [hType, hWord, hAck]; decide), State.takeAck, if_neg hVc, hAck]
  rfl

theorem runs_nakWord : Runs (.nakWord p cut w) (nakWordRule p cut w) := by
  refine runs_wordTaken (execNakWord p cut w) rfl (fun _ => rfl) fun s hpre => ?_
  simp only [Bool.and_eq_true, decide_eq_true_eq] at hpre
  obtain ⟨⟨⟨⟨hUp, hType⟩, hWord⟩, hNak⟩, hVc⟩ := hpre
  dsimp only
  rw [if_neg (by simp [hUp]), if_neg (by simp only [hType, hWord, hNak]; decide), State.takeAck, if_neg hVc, if_pos hNak,
    goBack_eq_backToOldest]

theorem runs_ackTimeout : Runs (.ackTimeout p v) (ackTimeoutRule p v) :=
  runs_of_act (execAckTimeout p v) rfl (fun _ => rfl) fun _ hpre => (if_pos hpre).trans goBack_eq_backToOldest

/-! ## Egress and the PCS (R405, R412, R429) -/

theorem runs_frameSend : Runs (.frameSend p) (frameSendRule p) := by
  refine runs_of_act (execFrameSend p) rfl (fun _ => rfl) fun s hpre => ?_
  simp only [frameSendRule, Bool.and_eq_true, Bool.or_eq_true, decide_eq_true_eq] at hpre
  obtain ⟨hOn, hWaits⟩ := hpre
  dsimp only [frameSendRule]
  rw [if_neg (by rcases hOn with h | h <;> simp [h])]
  by_cases hWords : (!(s.portOf p.val).words.isEmpty) = true
  · rw [if_pos hWords, if_pos hWords]
  · obtain ⟨hUp, -⟩ := hWaits.resolve_left hWords
    rw [if_neg hWords, if_neg hWords, if_neg (not_not.mpr hUp)]
    split
    · rfl
    · cases s.pickVc p.val <;> rfl

theorem runs_pcsLinkChange {up : Bool} : Runs (.pcsLinkChange p up) (pcsLinkChangeRule p up) := by
  refine runs_of_act (execPcsLinkChange p up) rfl (fun _ => rfl) fun s hpre => ?_
  simp only [pcsLinkChangeRule, Bool.and_eq_true, decide_eq_true_eq] at hpre
  obtain ⟨⟨hEthernet, hEnabled⟩, hChange⟩ := hpre
  exact if_neg (by simp [Nat.not_lt.mpr hEthernet, hEnabled, hChange])

end ports

/-- Settles O30: a word by the state that has taken it, a timeout by the frame that waits, egress by what waits to be sent. -/
theorem linkPorts : Obligations.LinkPorts := by
  unfold Obligations.LinkPorts
  exact ⟨fun _ => runs_portAligning, fun _ _ _ => runs_alignWord, fun _ => runs_alignSend, fun _ _ _ => runs_lresetWord,
    fun _ => runs_portUp, fun _ _ _ => runs_creditWord, fun _ => runs_creditRefresh, fun _ _ _ => runs_ackWord,
    fun _ _ _ => runs_nakWord, fun _ _ => runs_ackTimeout, fun _ _ => runs_creditTimeout, fun _ => runs_vc2WaitExpiry,
    fun _ => runs_frameSend, fun _ _ => runs_pcsLinkChange⟩

end Sys2Proof.Machine
end

