-- ==== Sys2Proof/Proofs/ReceivedFrames.lean ====
section
/-! PROOF. Frames received from a link: how a sound frame for this device alone is accepted, and what each type does (R402-R406, R408,
R413, R414, R416-R424, R427, R442, R448). -/

namespace Sys2Proof.Machine
open Sys2Proof

section frames
variable {p : LPort} {f : Frame} {s : State}

/-! ## Acceptance (R406, R413, R414, R417) -/

/-- A frame whose CRC is good is met on the state that has taken it (R390, R406). -/
theorem runs_frameTaken {c : Instr} {r : Rule} (hc : ∀ s, exec c s = act (fun s => s.frameRow p.val f) s)
    (hCrc : ∀ t : State, r.pre t = true → f.crcGood = true) (hf : ∀ t : State, r.pre t = true → t.frameIn p.val f = r.eff t) :
    Runs c (frameTaken p f r) := by
  refine runs_of_act _ rfl hc fun s hpre => ?_
  dsimp only [frameTaken, takenIn] at hpre ⊢
  obtain ⟨t, hTaken, hPre⟩ := Option.any_eq_true _ _ |>.mp hpre
  rw [State.frameRow, hTaken, hCrc t hPre]
  dsimp only
  rw [Bool.not_true, Bool.and_false]
  exact hf t hPre

theorem vlOf_queueWords {i j k : Nat} {ws : List (BitVec 64)} : (s.queueWords i ws).vlOf j k = s.vlOf j k := rfl

/-- Words that wait leave what the port is (R402). -/
theorem state_acceptedFrame {i : Nat} : ((s.acceptedFrame i f).portOf i).state = (s.portOf i).state := by
  unfold State.acceptedFrame
  dsimp only
  split
  · split <;> rfl
  · simp [State.queueWords]

/-- The counters of the ports lie apart from the device's index (R402, R585). -/
theorem devIdx_bump_cPort {i k : Nat} : (s.bump (cPort i k)).devIdx = s.devIdx := by
  have hApart : rLanePortcfg ≠ cPort i k := by
    unfold rLanePortcfg cPort
    omega
  rw [State.devIdx, State.bump, State.bumpBy, reg_setReg_ne hApart, State.devIdx]

theorem devIdx_setVl {i k : Nat} {x : VcLink} : (s.setVl i k x).devIdx = s.devIdx := rfl

theorem devIdx_queueWords {i : Nat} {ws : List (BitVec 64)} : (s.queueWords i ws).devIdx = s.devIdx := rfl

theorem devIdx_acceptedFrame {i : Nat} : (s.acceptedFrame i f).devIdx = s.devIdx := by
  unfold State.acceptedFrame
  dsimp only
  split
  · rw [devIdx_setVl]
    split
    · rfl
    · exact devIdx_bump_cPort
  · rw [devIdx_queueWords, devIdx_setVl, devIdx_queueWords, devIdx_setVl]

/-- A frame in sequence on its VC is accepted (R413, R414, R417). -/
theorem seqIn_accepted {i : Nat} (h : f.vc = 2 ∨ f.seq = (s.vlOf i f.vc).rxSeq) : s.seqIn i f = (true, s.acceptedFrame i f) := by
  unfold State.seqIn State.acceptedFrame
  dsimp only
  by_cases hVc : f.vc = 2
  · rw [if_pos hVc, if_pos hVc, hVc]
  · rw [if_neg hVc, if_neg hVc, if_pos (h.resolve_left hVc)]
    rw [State.freeUnits, vlOf_queueWords, vlOf_setVl]

/-- A sound frame from upstream for this device alone is accepted and consumed, and on VC2 its units are freed (R404, R406, R408,
R419). -/
theorem frameIn_toDevice {ty : Nat} (hDev : s.toDevice p.val f ty = true) (hType : ty ≠ 0x0F)
    (hSeq : f.vc = 2 ∨ f.seq = (s.vlOf p.val f.vc).rxSeq) :
    s.frameIn p.val f = if f.vc = 2 && ((s.acceptedFrame p.val f).consume p.val f).portUp p.val then
      ((s.acceptedFrame p.val f).consume p.val f).freeVc2 p.val (frameUnits f.body.length)
      else (s.acceptedFrame p.val f).consume p.val f := by
  simp only [State.toDevice, Bool.and_eq_true, Bool.not_eq_true', decide_eq_true_eq] at hDev
  obtain ⟨⟨⟨⟨⟨⟨⟨hUp, hCrc⟩, rfl⟩, hForm⟩, hPort⟩, hDown⟩, hAlone⟩, hDest⟩ := hDev
  have hState : (s.portOf p.val).state = .up := by simpa [State.portUp] using hUp
  have hIdx : f.dest = (s.acceptedFrame p.val f).devIdx := hDest.trans (devIdx_acceptedFrame).symm
  unfold State.frameIn
  dsimp only
  rw [hState, if_neg (by decide), if_neg (by simp [hCrc]), if_neg (by simp [hType]), if_neg (by decide), seqIn_accepted hSeq]
  have hDir : (s.acceptedFrame p.val f).dirOk p.val f = true := by
    rw [State.dirOk, if_neg hPort, hDown, hAlone, hIdx]
    simp
  have hFrom : (s.acceptedFrame p.val f).fromUp p.val f = (s.acceptedFrame p.val f).consume p.val f := by
    simp only [State.fromUp, hAlone, ← hIdx, lt_irrefl, decide_false, decide_true, Bool.or_self, Bool.false_or, Bool.false_eq_true,
      if_false, if_true]
  simp only [hForm, hDir, hFrom, Bool.and_self, Bool.not_true, Bool.false_eq_true, if_false, if_neg hPort]

theorem frameIn_addressed {ty : Nat} (hAddr : s.addressed p.val f ty = true) (hType : ty ≠ 0x0F) :
    s.frameIn p.val f = (s.acceptedFrame p.val f).consume p.val f := by
  simp only [State.addressed, Bool.and_eq_true, decide_eq_true_eq] at hAddr
  obtain ⟨⟨hDev, hVc⟩, hSeq⟩ := hAddr
  rw [frameIn_toDevice hDev hType (.inr hSeq), if_neg (by simp [hVc])]

theorem crcGood_of_toDevice {i ty : Nat} (h : s.toDevice i f ty = true) : f.crcGood = true := by
  simp only [State.toDevice, Bool.and_eq_true] at h
  obtain ⟨⟨⟨⟨⟨⟨⟨-, hCrc⟩, -⟩, -⟩, -⟩, -⟩, -⟩, -⟩ := h
  exact hCrc

theorem type_of_toDevice {i ty : Nat} (h : s.toDevice i f ty = true) : f.type = ty := by
  simp only [State.toDevice, Bool.and_eq_true, decide_eq_true_eq] at h
  obtain ⟨⟨⟨⟨⟨⟨-, hType⟩, -⟩, -⟩, -⟩, -⟩, -⟩ := h
  exact hType

theorem toDevice_of_addressed {i ty : Nat} (h : s.addressed i f ty = true) : s.toDevice i f ty = true := by
  simp only [State.addressed, Bool.and_eq_true] at h
  obtain ⟨⟨hDev, -⟩, -⟩ := h
  exact hDev

/-! ## Tagged frames, responses, events and bulk (R418, R419, R424) -/

theorem runs_taggedFrame : Runs (.taggedFrame p f) (taggedFrameRule p f) := by
  refine runs_frameTaken (fun _ => rfl) (fun s hpre => ?_) fun s hpre => ?_
  all_goals
    simp only [Bool.and_eq_true, Bool.or_eq_true, decide_eq_true_eq] at hpre
    obtain ⟨hDev, hSeq⟩ := hpre
  · exact crcGood_of_toDevice hDev
  · have hConsume : (s.acceptedFrame p.val f).consume p.val f = (s.acceptedFrame p.val f).consumeTagged p.val f.body := by
      rw [State.consume, type_of_toDevice hDev]
      rfl
    rw [frameIn_toDevice hDev (by decide) hSeq, hConsume]

/-- A frame that is addressed and whose type the device does not consume ends here (R419, R424). -/
theorem runs_addressed_ends {c : Instr} {ty : Nat} (hc : ∀ s, exec c s = act (fun s => s.frameRow p.val f) s)
    (hType : ty = 3 ∨ ty = 4 ∨ ty = 5) :
    Runs c (frameTaken p f ⟨fun s => s.addressed p.val f ty, fun s => s.acceptedFrame p.val f⟩) := by
  refine runs_frameTaken hc (fun s hpre => crcGood_of_toDevice (toDevice_of_addressed hpre)) fun s hpre => ?_
  have hFrame : f.type = ty := type_of_toDevice (toDevice_of_addressed hpre)
  rw [frameIn_addressed hpre (by omega), State.consume, hFrame]
  rcases hType with rfl | rfl | rfl <;> rfl

theorem runs_mgmtRsp : Runs (.mgmtRsp p f) (mgmtRspRule p f) := runs_addressed_ends (fun _ => rfl) (.inl rfl)

theorem runs_eventFrame : Runs (.eventFrame p f) (eventFrameRule p f) := runs_addressed_ends (fun _ => rfl) (.inr (.inl rfl))

theorem runs_bulk : Runs (.bulk p f) (bulkRule p f) := runs_addressed_ends (fun _ => rfl) (.inr (.inr rfl))

/-! ## Management requests (R420-R422) -/

/-- A request that is let through is done by its operation (R421, R422). -/
theorem mgmtReq_taken {op : Nat} (h : (s.signal 70).mgmtTakes f op = true) :
    s.mgmtReq f.body = if op = 2 then (s.signal 70).mgmtDoUpdate (leNat (f.body.take 16)) (f.body.drop 16)
      else if op = 0 then (s.signal 70).mgmtDoRead (leNat (f.body.take 16))
      else (s.signal 70).mgmtDoWrite (leNat (f.body.take 16)) (f.body.drop 16) := by
  simp only [State.mgmtTakes, Bool.and_eq_true, Bool.or_eq_true, Bool.not_eq_true', decide_eq_true_eq] at h
  obtain ⟨⟨⟨⟨hServed, hRoom⟩, hForm⟩, rfl⟩, hStore⟩ := h
  unfold State.mgmtReq
  dsimp only
  rw [if_neg (by simp [hServed, hRoom]), if_neg (by simp [hForm])]
  split
  · next hUpdate => rw [if_pos hUpdate]
  · next op hOther =>
    rw [if_neg hOther, if_neg (by simp [hStore.resolve_left hOther])]

theorem runs_mgmtRule {c : Instr} {op : Nat} {k : State → State} (hc : ∀ s, exec c s = act (fun s => s.frameRow p.val f) s)
    (hk : ∀ t : State, (t.signal 70).mgmtTakes f op = true → t.mgmtReq f.body = k (t.signal 70)) : Runs c (mgmtRule p f op k) := by
  refine runs_frameTaken hc (fun s hpre => ?_) fun s hpre => ?_
  all_goals
    simp only [Bool.and_eq_true] at hpre
    obtain ⟨hAddr, hTakes⟩ := hpre
  · exact crcGood_of_toDevice (toDevice_of_addressed hAddr)
  · rw [frameIn_addressed hAddr (by decide), State.consume, type_of_toDevice (toDevice_of_addressed hAddr)]
    exact hk _ hTakes

theorem runs_mgmtRead : Runs (.mgmtRead p f) (mgmtReadRule p f) := runs_mgmtRule (fun _ => rfl) fun _ => mgmtReq_taken

theorem runs_mgmtWrite : Runs (.mgmtWrite p f) (mgmtWriteRule p f) := runs_mgmtRule (fun _ => rfl) fun _ => mgmtReq_taken

theorem runs_mgmtUpdate : Runs (.mgmtUpdate p f) (mgmtUpdateRule p f) := runs_mgmtRule (fun _ => rfl) fun _ => mgmtReq_taken

/-! ## Link control words and time (R401, R404, R442, R448) -/

theorem runs_linkctl : Runs (.linkctl p f) (linkctlRule p f) := by
  refine runs_frameTaken (fun _ => rfl) (fun s hpre => ?_) fun s hpre => ?_
  all_goals
    simp only [Bool.and_eq_true, Bool.or_eq_true, decide_eq_true_eq] at hpre
    obtain ⟨⟨⟨⟨⟨⟨⟨⟨⟨⟨⟨hOn, hCrc⟩, hType⟩, hPort⟩, hVersion⟩, hSpare⟩, hTop⟩, hLength⟩, hVc⟩, hSeq⟩, hWhole⟩, hWords⟩ := hpre
  · exact hCrc
  · unfold State.frameIn
    dsimp only
    rw [if_neg (by rcases hOn with h | h <;> simp [h]), if_neg (by simp [hCrc]), if_pos (by simp [hType, hPort])]
    exact if_neg (by simp [hVersion, hSpare, hTop, hLength, hVc, hSeq, hWhole, hWords])

theorem consume_announcement {i : Nat} (hType : f.type = 6) (hAnnounce : pbits f.body 0 8 = 1) :
    s.consume i f = { s with time := { s.time with announced := some (pbits f.body 64 64) } } := by
  rw [State.consume, hType]
  exact if_pos hAnnounce

theorem runs_tsyncAnnounce : Runs (.tsyncAnnounce p f) (tsyncAnnounceRule p f) := by
  refine runs_frameTaken (fun _ => rfl) (fun s hpre => ?_) fun s hpre => ?_
  all_goals
    simp only [Bool.and_eq_true, Bool.not_eq_true', decide_eq_true_eq] at hpre
    obtain ⟨⟨⟨⟨⟨⟨⟨⟨⟨⟨hUp, hCrc⟩, hType⟩, hVc⟩, hSeq⟩, hForm⟩, hPort⟩, hDown⟩, hAlone⟩, hDest⟩, hAnnounce⟩ := hpre
  · exact hCrc
  · have hDev : s.toDevice p.val f 6 = true := by simp [State.toDevice, hUp, hCrc, hType, hForm, hPort, hDown, hAlone, hDest]
    have hAccepted : s.acceptedFrame p.val f = s.setVl p.val 2 { s.vlOf p.val 2 with rxSeq := f.seq + 1 } := by
      unfold State.acceptedFrame
      dsimp only
      rw [if_pos hVc, hVc, if_pos hSeq]
    rw [frameIn_toDevice hDev (by decide) (.inl hVc), consume_announcement hType hAnnounce, hAccepted]
    exact if_pos (Bool.and_eq_true_iff.mpr ⟨decide_eq_true hVc, hUp⟩)

/-! ## Ethernet (R427, R445-R447) -/

theorem runs_ethernetFrame {e : EthFrame} : Runs (.ethernetFrame p e) (ethernetFrameRule p e) := by
  refine runs_takenIn (execEthernetFrame p e) rfl (fun _ => rfl) fun s hpre => ?_
  simp only [Bool.and_eq_true, decide_eq_true_eq] at hpre
  obtain ⟨⟨⟨⟨⟨⟨⟨⟨hPort, hEnabled⟩, hPcs⟩, hFcs⟩, hShort⟩, hLong⟩, hDst⟩, hType⟩, hVlan⟩ := hpre
  dsimp only
  unfold State.etherIn
  rw [if_neg (by simp [Nat.not_lt.mpr hPort, hEnabled, hPcs]), if_neg (by simp [hFcs, hShort, hLong])]
  exact if_pos (by simp [hDst, hType, hVlan])

/-- What comes in leaves the registers and the link state of the port's PCS (R390). -/
theorem portIn_leaves {t : State} {i : Nat} {o : Out} (h : s.portIn i o = some t) :
    t.regs = s.regs ∧ (t.portOf i).pcs = (s.portOf i).pcs := by
  unfold State.portIn at h
  split at h
  · cases h
  split at h
  · cases h
    exact ⟨rfl, rfl⟩
  split at h
  · split at h
    · split at h
      · cases h
        exact ⟨rfl, by rw [portOf_setPort]⟩
      · cases h
    · cases h
  · cases h
    exact ⟨rfl, rfl⟩

theorem ethEnabled_of_regs {t : State} {i : Nat} (h : t.regs = s.regs) : t.ethEnabled i = s.ethEnabled i := by
  have hReg : t.reg = s.reg := funext fun _ => by rw [State.reg, h, State.reg]
  rw [State.ethEnabled, State.groupOn, State.groupRole, hReg]
  rfl

theorem runs_ptpMessage {native : Bool} {dst : BitVec 48} {m : Bytes} :
    Runs (.ptpMessage p native dst m) (ptpMessageRule p native dst m) := by
  refine runs_of_act (execPtpMessage p native dst m) rfl (fun _ => rfl) fun s hpre => ?_
  cases native with
  | false =>
    obtain ⟨t, hTaken, hPre⟩ := Option.any_eq_true _ _ |>.mp hpre
    simp only [Bool.and_eq_true, decide_eq_true_eq] at hPre
    obtain ⟨⟨hPort, hEnabled⟩, hPcs⟩ := hPre
    obtain ⟨hRegs, hSame⟩ := portIn_leaves hTaken
    rw [ethEnabled_of_regs hRegs] at hEnabled
    rw [hSame] at hPcs
    exact (if_pos rfl).trans (if_neg (by simp [Nat.not_lt.mpr hPort, hEnabled, hPcs]))
  | true =>
    obtain ⟨hUp, hTaken⟩ := Bool.and_eq_true_iff.mp hpre
    obtain ⟨t, hTaken⟩ := Option.isSome_iff_exists.mp hTaken
    simp only [ptpMessageRule, if_true]
    rw [if_neg (by decide), if_neg (by simp [hUp]), hTaken]

end frames

/-- Settles O31: a frame for the device alone is accepted and consumed by its type; words, announcements, Ethernet and PTP by theirs. -/
theorem receivedFrames : Obligations.ReceivedFrames := by
  unfold Obligations.ReceivedFrames
  exact ⟨fun _ _ => runs_taggedFrame, fun _ _ => runs_mgmtRead, fun _ _ => runs_mgmtWrite, fun _ _ => runs_mgmtUpdate,
    fun _ _ => runs_mgmtRsp, fun _ _ => runs_eventFrame, fun _ _ => runs_bulk, fun _ _ => runs_linkctl,
    fun _ _ => runs_tsyncAnnounce, fun _ _ => runs_ethernetFrame, fun _ _ _ _ => runs_ptpMessage⟩

end Sys2Proof.Machine
end

