-- ==== Sys2Proof/Proofs/EventFrame.lean ====
section
/-! PROOF. What an event and a read of memory leave of the state: they reach memory, the registers, the records and messages of events,
the outputs, the sequencers that wait and the queues of frames, and nothing else (R105, R491-R498, R516-R520). -/

namespace Sys2Proof.Machine
open Sys2Proof

/-- Nothing but memory, registers, records and pending bits of events, outputs, MSI-X, sequencers and queues of frames differs. -/
def OnlyTold (s t : State) : Prop := t = { s with
  mem := t.mem, regs := t.regs, events := t.events, evPend := t.evPend, out := t.out, pcie := t.pcie, seqs := t.seqs
  vlinks := t.vlinks }

section told
variable {s t u : State} {e k n a : Nat} {r : MRegion}

theorem OnlyTold.refl : OnlyTold s s := Eq.refl s

theorem OnlyTold.trans (h : OnlyTold s t) (h' : OnlyTold t u) : OnlyTold s u := by
  rw [OnlyTold] at h h' ⊢
  rw [h', h]

theorem OnlyTold.ite {c : Prop} [Decidable c] (ht : OnlyTold s t) (hu : OnlyTold s u) : OnlyTold s (if c then t else u) := by
  split <;> assumption

theorem OnlyTold.foldl {α : Type} {f : State → α → State} {l : List α} (hf : ∀ s a, OnlyTold s (f s a)) : OnlyTold s (l.foldl f s) :=
  foldl_keeps (P := OnlyTold s) .refl fun t a h => h.trans (hf t a)

theorem OnlyMem.onlyTold (h : OnlyMem s t) : OnlyTold s t := by
  rw [h]
  exact Eq.refl _

theorem onlyTold_bumpBy {off : Nat} : OnlyTold s (s.bumpBy off n) := Eq.refl (s.bumpBy off n)

/-! ## Events (R105, R516-R520) -/

theorem onlyTold_msix : OnlyTold s (s.msix n) := by
  unfold State.msix
  exact .ite (Eq.refl _) (Eq.refl _)

theorem onlyTold_egress {p : Nat} {hdr : BitVec 64} {b : Bytes} : OnlyTold s (s.egress p hdr b) := Eq.refl (s.egress p hdr b)

theorem onlyTold_sendOwn {car : Option Nat} {type vc : Nat} {b : Bytes} : OnlyTold s (s.sendOwn car type vc b) :=
  .ite onlyTold_egress onlyTold_bumpBy

theorem onlyTold_wakeSeq : OnlyTold s (s.wakeSeq e k) := by
  unfold State.wakeSeq
  dsimp only
  split
  · exact .ite .refl (Eq.refl _)
  · exact .refl

theorem onlyTold_deliver {route : BitVec 32} : OnlyTold s (s.deliver e route n) :=
  (OnlyTold.ite onlyTold_msix .refl).trans ((OnlyTold.ite onlyTold_sendOwn .refl).trans (.foldl fun _ _ => onlyTold_wakeSeq))

theorem onlyTold_signal : OnlyTold s (s.signal e) := by
  have hOccurred : OnlyTold s (s.occurred e) := Eq.refl (s.occurred e)
  by_cases hFlight : (s.evOf e).flight = none
  · rw [signal_idle hFlight]
    exact hOccurred.trans (OnlyTold.trans (Eq.refl (State.setEv ..)) onlyTold_deliver)
  · rw [signal_inFlight hFlight]
    exact hOccurred.trans (Eq.refl (State.setEv ..))

theorem OnlyTold.signal (h : OnlyTold s t) : OnlyTold s (t.signal e) := h.trans onlyTold_signal

/-- An event leaves the registers that lie below the link's, but its own counter (R105, R516). -/
theorem reg_signal_low {off : Nat} (he : e < 128) (hOff : off < 0x4400 ∨ 0x4600 ≤ off) (hLow : off < 0x14400) :
    (s.signal e).reg off = s.reg off :=
  (sameCounts_signal.2 off hLow).trans (reg_setReg_ne (by unfold rEvCnt; omega))

/-! ## Reads of memory (R491-R495, R498) -/

theorem onlyTold_latchAddr {off : Nat} : OnlyTold s (s.latchAddr off a) := Eq.refl (s.latchAddr off a)

theorem onlyTold_corrected : OnlyTold s (s.corrected a) := by
  unfold State.corrected
  extract_lets u thr
  have hCounted : OnlyTold s u := onlyTold_bumpBy.trans onlyTold_latchAddr
  exact hCounted.trans (.ite .refl (.ite (.signal (Eq.refl _)) (Eq.refl _)))

theorem onlyTold_poisonRead : OnlyTold s (s.poisonRead a) := .signal onlyTold_latchAddr

/-- The check of a unit corrects it, repairs it from its mirror, or leaves it. -/
theorem onlyTold_checkUnit {x : State × Bool} : OnlyTold x.1 (State.checkUnit r x a).1 := by
  obtain ⟨s, bad⟩ := x
  unfold State.checkUnit
  dsimp only
  split
  · exact .refl
  · split
    · exact onlyTold_corrected
    · exact .refl
  · split
    · have hMended : OnlyTold s (s.setErr a .good) := Eq.refl (s.setErr a .good)
      exact (hMended.trans onlyMem_setBytes.onlyTold).trans (.signal onlyTold_bumpBy)
    · exact .refl

theorem onlyTold_checkUnits {us : List Nat} {x : State × Bool} : OnlyTold x.1 (us.foldl (State.checkUnit r) x).1 :=
  foldl_keeps (P := fun y : State × Bool => OnlyTold x.1 y.1) .refl fun _ _ h => h.trans onlyTold_checkUnit

theorem onlyTold_flagged : OnlyTold s (s.flagged a n) := .ite (.signal onlyTold_latchAddr) .refl

theorem onlyTold_readUnits : OnlyTold s (s.readUnits r a n).2 := by
  have h := (onlyTold_flagged (s := s) (a := a) (n := n)).trans
    (onlyTold_checkUnits (us := checkedUnits r a n) (r := r) (x := (s.flagged a n, false)))
  unfold State.readUnits
  dsimp only
  split
  · exact h.trans onlyTold_poisonRead
  · exact h

theorem onlyTold_memRead : OnlyTold s (s.memRead a n).2 := by
  rw [memRead_eq]
  split
  · exact .refl
  · split
    · exact .refl
    · split
      · exact .refl
      · exact onlyTold_readUnits

/-! ## Writes of memory (R491, R498) -/

/-- A write that is taken changes memory, and tells of what it corrects. -/
theorem onlyTold_memWrite {b : Bytes} (h : s.memWrite a b = some t) : OnlyTold s t := by
  unfold State.memWrite at h
  split at h
  · cases h
  · split at h
    · cases h
    · dsimp only at h
      split at h
      · cases h
      · cases h
        refine OnlyTold.trans (.trans (.foldl fun u x => ?_) (.foldl fun u x => onlyMem_markValid.onlyTold)) onlyMem_setBytes.onlyTold
        refine .ite onlyMem_mendByte.onlyTold (.ite (OnlyTold.trans ?_ onlyTold_checkUnit) .refl)
        exact .ite (Eq.refl (u.setErr x .good)) .refl

theorem onlyTold_putBytes {b : Bytes} : OnlyTold s (s.putBytes a b) := by
  unfold State.putBytes
  cases h : s.memWrite a b with
  | none => exact .refl
  | some u => exact onlyTold_memWrite h

end told

end Sys2Proof.Machine
end

