-- ==== Sys2Proof/Proofs/TickCounter.lean ====
section
/-! PROOF. What the sample chains do in a tick leaves the tick counter, its wraps and the clock (R433, R452). -/

namespace Sys2Proof.Machine
open Sys2Proof

/-- The tick counter, its wraps, and the clock. -/
def State.clocks (s : State) : BitVec 56 × BitVec 32 × Nat := (s.now, s.wrap, s.clock)

/-- They stand in `t` as in `s`. -/
def SameTime (s t : State) : Prop := t.clocks = s.clocks

section clock
variable {s t u : State} {e n p c : Nat} {lo : Int}

theorem SameTime.refl : SameTime s s := Eq.refl s.clocks

theorem SameTime.fields (h : SameTime s t) : t.now = s.now ∧ t.wrap = s.wrap ∧ t.clock = s.clock := by
  obtain ⟨hNow, hRest⟩ := Prod.ext_iff.mp h
  exact ⟨hNow, Prod.ext_iff.mp hRest⟩

theorem SameTime.of_clocks (h : t.clocks = s.clocks) : SameTime s t := h

theorem SameTime.trans (h : SameTime s t) (h' : SameTime t u) : SameTime s u := Eq.trans h' h

theorem SameTime.ite {c : Prop} [Decidable c] (ht : SameTime s t) (hu : SameTime s u) : SameTime s (if c then t else u) := by
  split <;> assumption

theorem SameTime.foldl {α : Type} {f : State → α → State} {l : List α} (hf : ∀ s a, SameTime s (f s a)) : SameTime s (l.foldl f s) :=
  foldl_keeps (P := SameTime s) .refl fun t a h => h.trans (hf t a)

theorem sameTime_bumpBy {off : Nat} : SameTime s (s.bumpBy off n) := .of_clocks rfl

theorem sameTime_emitOut {o : Out} : SameTime s (s.emitOut o) := .of_clocks rfl

theorem OnlyTold.sameTime (h : OnlyTold s t) : SameTime s t := by
  rw [h]
  exact .of_clocks rfl

theorem sameTime_signal : SameTime s (s.signal e) := onlyTold_signal.sameTime

/-! ## Words that the chains lose (R86, R102, R104) -/

theorem sameTime_blankTd : SameTime s (s.blankTd n) := sameTime_bumpBy.trans sameTime_signal

theorem sameTime_blankTo {mask : BitVec 16} {from_ until_ : Int} {tiles : List Nat} {a : Air} :
    SameTime s (s.blankTo mask from_ until_ tiles c a) := by
  refine .foldl fun u t => .ite (.ite (.of_clocks rfl) (.of_clocks rfl)) ?_
  exact SameTime.trans (t := { u with blanked := _ }) (.of_clocks rfl) sameTime_blankTd

theorem sameTime_txWordLost : SameTime s (s.txWordLost p) := by
  unfold State.txWordLost
  extract_lets now u hit
  have hSyms : SameTime s u := .foldl fun _ _ => sameTime_blankTo
  exact hSyms.trans (SameTime.trans (.of_clocks rfl) (.foldl fun _ _ => sameTime_blankTd))

theorem sameTime_txWords : SameTime s s.txWords := .ite .refl (.foldl fun _ _ => sameTime_txWordLost)

/-! ## The parts of a tick (R149, R270, R286, R391) -/

theorem sameTime_noteSettings : SameTime s s.noteSettings := .ite .refl (.of_clocks rfl)

theorem sameTime_dcSample : SameTime s (s.dcSample p) := by
  unfold State.dcSample
  extract_lets _ _ _ u
  have hRaw : SameTime s u := .of_clocks rfl
  clear_value u
  refine .ite hRaw (hRaw.trans ?_)
  split
  split
  extract_lets v _ w
  have hServo : SameTime u v := .ite .refl (.of_clocks rfl)
  have hLine : SameTime v w := .of_clocks rfl
  exact hServo.trans (hLine.trans sameTime_bumpBy)

theorem sameTime_dcTick : SameTime s s.dcTick := .ite .refl (.foldl fun _ _ => .foldl fun _ _ => sameTime_dcSample)

theorem sameTime_dutyTick : SameTime s s.dutyTick := .of_clocks rfl

theorem sameTime_sendFrames {g : RffeGroup} : SameTime s (s.sendFrames n g).1 := by
  unfold State.sendFrames
  split
  · exact .refl
  · exact .foldl fun _ _ => sameTime_emitOut

theorem sameTime_sendBus : SameTime s (s.sendBus n) := by
  unfold State.sendBus
  split
  · exact .refl
  · refine .trans (t := ((s.groupsOf n).foldl (fun (a : State × List RffeGroup) g =>
      ((a.1.sendFrames n g).1, a.2 ++ [(a.1.sendFrames n g).2])) (s, [])).1) ?_ (.of_clocks rfl)
    exact foldl_keeps (P := fun a : State × List RffeGroup => SameTime s a.1) .refl fun _ _ h => h.trans sameTime_sendFrames

theorem sameTime_rffeTick : SameTime s s.rffeTick := .foldl fun _ _ => sameTime_sendBus

theorem sameTime_transformSyms : SameTime s s.transformSyms := .of_clocks rfl

theorem sameTime_sendTagged {car : Option Nat} {vc : Nat} {g : Tag} {b : Bytes} : SameTime s (s.sendTagged car vc g b) :=
  .ite sameTime_bumpBy onlyTold_sendOwn.sameTime

theorem sameTime_tdBlock : SameTime s (s.tdBlock p c) := by
  unfold State.tdBlock
  dsimp only
  split
  · exact .ite (.of_clocks rfl) .refl
  · refine .ite (.of_clocks rfl) (.ite .refl (.ite (.of_clocks rfl) ?_))
    exact SameTime.trans (.of_clocks rfl) sameTime_sendTagged

theorem sameTime_tdBlocks : SameTime s s.tdBlocks := .ite .refl (.foldl fun _ _ => .foldl fun _ _ => sameTime_tdBlock)

theorem sameTime_prbsChecks : SameTime s s.prbsChecks := 
  SameTime.trans (.foldl fun _ _ => sameTime_emitOut) (.foldl fun _ _ => sameTime_bumpBy)

/-! ## What settles (R86, R116, R151) -/

theorem sameTime_settleTx : SameTime s (s.settleTx lo p) := by
  unfold State.settleTx
  extract_lets _ _ _ _ u v w
  have hTx : SameTime s v := .ite .refl (sameTime_bumpBy.trans (sameTime_bumpBy.trans sameTime_bumpBy))
  have hOut : SameTime v w := sameTime_bumpBy
  exact hTx.trans (hOut.trans (.ite .refl sameTime_emitOut))

theorem sameTime_settleRx : SameTime s (s.settleRx lo p) := sameTime_bumpBy

theorem sameTime_settleCar : SameTime s (s.settleCar lo p c) := .ite .refl sameTime_bumpBy

theorem sameTime_settleTails : SameTime s (s.settleTails lo c) := .ite .refl sameTime_bumpBy

theorem sameTime_settleSym {a : Int} : SameTime s (s.settleSym c a) := SameTime.trans sameTime_bumpBy (.foldl fun _ _ => sameTime_bumpBy)

theorem sameTime_settle : SameTime s (s.settle lo) := by
  unfold State.settle
  extract_lets ps u v
  have hPaths : SameTime s u := .foldl fun _ _ => sameTime_settleTx.trans sameTime_settleRx
  have hCars : SameTime u v := .foldl fun _ _ => .foldl fun _ _ => sameTime_settleCar
  exact hPaths.trans (hCars.trans (.foldl fun _ _ => sameTime_settleTails.trans (.foldl fun _ _ => sameTime_settleSym)))

theorem sameTime_chainTick : SameTime s s.chainTick := by
  unfold State.chainTick
  extract_lets u v lo
  have hTick : SameTime s u :=
    sameTime_noteSettings.trans <| sameTime_txWords.trans <| sameTime_dcTick.trans <| sameTime_dutyTick.trans <|
      sameTime_rffeTick.trans <| sameTime_transformSyms.trans sameTime_tdBlocks
  have hPrbs : SameTime u v := .ite sameTime_prbsChecks .refl
  exact hTick.trans (hPrbs.trans (.ite sameTime_settle .refl))

end clock

end Sys2Proof.Machine
end

