-- ==== Sys2Proof/Proofs/TimeRegisters.lean ====
section
/-! PROOF. Time: steps, rates, sources, steering words and the counter; the servo's samples and the PPS edges (R433-R440, R450-R452,
R454). -/

namespace Sys2Proof.Machine
open Sys2Proof

/-! ## Steps, sources and rates (R434-R438) -/

section registers
variable {s : State} {w : Initiator} {v : BitVec 32}

/-- A step that no streaming stage hinders (R436, R437). -/
theorem stepTime_quiet {d : Int} (h : s.allQuiet = true) : s.stepTime d = (s.stepped d, true) := if_neg (by simp [h])

theorem stepTime_refused {d : Int} (h : s.allQuiet = false) : s.stepTime d = (s.signal 83, false) := if_pos (by simp [h])

theorem stepTime_eq_stepTo {d : Int} : (s.stepTime d).1 = s.stepTo d := by
  unfold State.stepTo
  cases h : s.allQuiet with
  | true => rw [stepTime_quiet h, if_pos rfl]
  | false => rw [stepTime_refused h, if_neg (by decide)]

theorem setRate_eq_rated {r : BitVec 40} : s.setRate r = s.rated r := rfl

theorem runs_timeStepWrite {d : BitVec 64} : Runs (.timeStepWrite w d) (timeStepWriteRule w d) := by
  refine runs_of_act (execTimeStepWrite w d) rfl (fun _ => rfl) fun s _ => ?_
  cases w with
  | mgmt => exact congrArg State.done stepTime_eq_stepTo
  | _ => rfl

theorem runs_timeRearm : Runs (.timeRearm w v) (timeRearmRule v) :=
  runs_of_act (execTimeRearm w v) rfl (fun _ => rfl) fun _ _ => rfl

theorem runs_timeSrcChange : Runs (.timeSrcChange w v) (timeSrcChangeRule v) :=
  runs_of_act (execTimeSrcChange w v) rfl (fun _ => rfl) fun _ _ => rfl

theorem runs_timeRateWrite {r : BitVec 64} : Runs (.timeRateWrite w r) (timeRateWriteRule w r) := by
  refine runs_of_act (execTimeRateWrite w r) rfl (fun _ => rfl) fun s _ => ?_
  cases w with
  | mgmt => exact congrArg State.done setRate_eq_rated
  | _ => rfl

end registers

/-! ## The steering word and the counter (R433, R438, R452, R454) -/

section counter
variable {s : State}

theorem runs_steeringWordPeriodic : Runs .steeringWordPeriodic steeringWordPeriodicRule := by
  refine runs_of_act execSteeringWordPeriodic rfl (fun _ => rfl) fun s hpre => ?_
  simp only [steeringWordPeriodicRule, steeringWordRule, Bool.and_eq_true, decide_eq_true_eq] at hpre
  obtain ⟨hDue, hEnabled⟩ := hpre
  exact (if_pos hDue).trans (if_pos hEnabled)

theorem runs_slowclkTick : Runs .slowclkTick slowclkTickRule :=
  runs_of_act execSlowclkTick rfl (fun _ => rfl) fun _ hpre => if_pos hpre

/-- The counter's last tick wraps it (R433). -/
theorem count_wraps (h : s.now = BitVec.allOnes 56) : s.count 1 = { s with now := 0, wrap := s.wrap + 1, clock := s.clock + 1 } := by
  have hX : s.x + 1 = 2 ^ 56 * (s.wrap.toNat + 1) := by
    rw [State.x, h, BitVec.toNat_allOnes]
    omega
  have hNow : BitVec.ofInt 56 ((s.x + 1 : Nat) : Int) = 0 := by
    rw [hX, BitVec.ofInt_natCast]
    exact BitVec.eq_of_toNat_eq (by simp)
  have hWrap : BitVec.ofInt 32 (((s.x + 1 : Nat) : Int) / 2 ^ 56) = s.wrap + 1 := by
    have hQuot : ((s.x + 1 : Nat) : Int) / 2 ^ 56 = (s.wrap.toNat + 1 : Nat) := by
      rw [hX]
      omega
    rw [hQuot, BitVec.ofInt_natCast]
    exact BitVec.eq_of_toNat_eq (by simp)
  rw [State.count, State.setX, hNow, hWrap]

theorem runs_tickCounterWrap : Runs .tickCounterWrap tickCounterWrapRule := by
  refine runs_of_act execTickCounterWrap rfl (fun _ => rfl) fun s hpre => ?_
  have hLast : s.now = BitVec.allOnes 56 := of_decide_eq_true hpre
  have hSame : SameTime s (if s.atOrBelow .bog then s else s.chainTick) := .ite .refl sameTime_chainTick
  dsimp only [tickCounterWrapRule, tickWrapRule]
  rw [if_pos hLast, State.tick]
  generalize (if s.atOrBelow .bog then s else s.chainTick) = t at hSame ⊢
  obtain ⟨hNow, hWrap, hClock⟩ := hSame.fields
  rw [count_wraps (hNow.trans hLast), hWrap, hClock]

end counter

/-- Settles O32: a step by its branches, a rate by its clamp, a tick that wraps by the arithmetic of the counter. -/
theorem timeRegisters : Obligations.TimeRegisters := by
  unfold Obligations.TimeRegisters
  exact ⟨fun _ _ => runs_timeStepWrite, fun _ _ => runs_timeRearm, fun _ _ => runs_timeSrcChange, fun _ _ => runs_timeRateWrite,
    runs_steeringWordPeriodic, runs_slowclkTick, runs_tickCounterWrap⟩

/-! ## The servo's samples (R439, R440) -/

section servo
variable {s : State} {theta extra : Int} {rate : BitVec 40}

/-- The samples are few, or one lies far from their median, exactly where they do not qualify (R440). -/
theorem unqualified_iff {l : List Int} :
    (decide (l.length < s.qual) || l.any fun x => decide (4 * (x - median l).natAbs > s.jump)) = !s.qualified l := by
  simp only [State.qualified, Bool.not_and, List.not_all_eq_any_not, ← decide_not, not_le]

/-- A step writes no register but its counters and pending events (R436). -/
theorem reg_stepped {d : Int} {off : Nat} (hOff : off < 0x4400 ∨ 0x4600 ≤ off) (hLow : off < 0x14400) (hCount : off ≠ cTime 2) :
    (s.stepped d).reg off = s.reg off :=
  foldl_keeps (P := fun u : State => u.reg off = s.reg off) rfl fun _ _ hu =>
    (reg_signal_low (by decide) hOff hLow).trans ((reg_setReg_ne hCount).trans hu)

/-- A step leaves the source of time (R436, R439). -/
theorem timeSrc_stepped_signal {d : Int} : ((s.stepped d).signal 80).timeSrc = s.timeSrc := by
  rw [State.timeSrc, reg_signal_low (by decide) (by decide) (by decide), reg_stepped (by decide) (by decide) (by decide),
    State.timeSrc]

/-- A sample of a source other than TSYNC (R439, R440). -/
theorem sample_eq_sampled (hSrc : s.timeSrc ≠ 3) : s.sample theta extra rate = s.sampled theta extra rate := by
  unfold State.sample State.sampled
  dsimp only
  cases hServo : s.time.servo with
  | unlocked =>
    change (if (_ || _ : Bool) then _ else _) = _
    rw [unqualified_iff]
    refine if_congr Iff.rfl rfl ?_
    cases hQuiet : s.allQuiet with
    | true =>
      rw [stepTime_quiet hQuiet, if_pos rfl, ← timeSrc_stepped_signal (d := extra - median (s.lastSamples theta))]
      rfl
    | false =>
      rw [stepTime_refused hQuiet]
      exact (if_neg (by decide)).symm
  | locked => rfl
  | holdover =>
    refine if_congr Iff.rfl ?_ rfl
    have hTsync : (decide (s.timeSrc = 3)) = false := decide_eq_false hSrc
    change (if (decide _ || decide (s.timeSrc = 3) : Bool) then _ else _) = _
    rw [hTsync, Bool.or_false]
    simp only [decide_eq_true_eq]
    refine if_congr Iff.rfl rfl ?_
    exact setRate_eq_rated

theorem runs_servoSample {gen : BitVec 4} {spansStep : Bool} :
    Runs (.servoSample theta gen spansStep rate) (servoSampleRule theta gen spansStep rate) := by
  refine runs_of_act (execServoSample theta gen spansStep rate) rfl (fun _ => rfl) fun s _ => ?_
  have hOthers : (decide (s.timeSrc = 0) || decide (s.timeSrc = 3)) = !decide (s.timeSrc = 1 ∨ s.timeSrc = 2) := by
    have hSrc : s.timeSrc < 4 := Nat.mod_lt _ (by decide)
    rcases (by omega : s.timeSrc = 0 ∨ s.timeSrc = 1 ∨ s.timeSrc = 2 ∨ s.timeSrc = 3) with h | h | h | h <;> simp [h]
  have hLeft : (spansStep || gen ≠ s.time.stepgen || s.timeSrc = 0 || s.timeSrc = 3) =
      !(!spansStep && gen = s.time.stepgen && decide (s.timeSrc = 1 ∨ s.timeSrc = 2)) := by
    simp [Bool.or_assoc, hOthers]
  dsimp only [servoSampleRule]
  rw [hLeft]
  cases hTaken : (!spansStep && gen = s.time.stepgen && decide (s.timeSrc = 1 ∨ s.timeSrc = 2)) with
  | false => rfl
  | true =>
    simp only [Bool.and_eq_true, decide_eq_true_eq] at hTaken
    obtain ⟨-, hSrc⟩ := hTaken
    exact sample_eq_sampled (by omega)

theorem runs_sourceLossTimeout : Runs .sourceLossTimeout sourceLossTimeoutRule :=
  runs_of_act execSourceLossTimeout rfl (fun _ => rfl) fun _ hpre => if_pos hpre

theorem runs_ppsOutEdge : Runs .ppsOutEdge ppsOutEdgeRule :=
  runs_of_act execPpsOutEdge rfl (fun _ => rfl) fun _ hpre => if_pos hpre

theorem reg_setReg64_ne {i off : Nat} {v : BitVec 64} (h : i ≠ off) (h' : i ≠ off + 4) : (s.setReg64 off v).reg i = s.reg i :=
  (reg_setReg_ne h').trans (reg_setReg_ne h)

theorem runs_ppsInEdge : Runs .ppsInEdge ppsInEdgeRule := by
  refine runs_of_act execPpsInEdge rfl (fun _ => rfl) fun s _ => ?_
  dsimp only [ppsInEdgeRule]
  generalize hLatched : s.setReg64 rTimePpsin ((BitVec.ofInt 56 ((s.x : Int) - (s.reg rTimePpsindly).toInt)).zeroExtend 64) = u
  have hCfg : u.reg rTimeCfg = s.reg rTimeCfg := by
    rw [← hLatched, reg_setReg64_ne (by decide) (by decide)]
  have hTod : u.reg64 rTimeTod = s.reg64 rTimeTod := by
    rw [← hLatched, State.reg64, reg_setReg64_ne (by decide) (by decide), reg_setReg64_ne (by decide) (by decide), State.reg64]
  have hTime : u.time = s.time := by rw [← hLatched]; rfl
  have hSrcEq : u.timeSrc = s.timeSrc := congrArg (fld · 0 2) hCfg
  by_cases hSrc : s.timeSrc = 2
  · rw [if_pos hSrc]
    refine (if_neg (not_not.mpr (hSrcEq.trans hSrc))).trans ?_
    refine (sample_eq_sampled ?_).trans ?_
    · exact ne_of_eq_of_ne (hSrcEq.trans hSrc) (by decide)
    · rw [← hTod, ← hTime]
      rfl
  · rw [if_neg hSrc]
    exact if_pos fun h => hSrc (hSrcEq.symm.trans h)

theorem runs_ppsMissing : Runs .ppsMissing ppsMissingRule :=
  runs_of_act execPpsMissing rfl (fun _ => rfl) fun _ hpre => if_pos hpre

end servo

/-- Settles O33: the servo's samples by its state, the edges by their conditions. -/
theorem timeServo : Obligations.TimeServo := by
  unfold Obligations.TimeServo
  exact ⟨fun _ _ _ _ => runs_servoSample, runs_sourceLossTimeout, runs_ppsOutEdge, runs_ppsInEdge, runs_ppsMissing⟩

end Sys2Proof.Machine
end

