-- ==== Sys2Proof/Proofs/PtpTsync.lean ====
section
/-! PROOF. PTP frames in and out, and TSYNC edges (R441-R449). -/

namespace Sys2Proof.Machine
open Sys2Proof

/-! ## Frames to send (R443, R445, R446) -/

section frames
variable {s : State} {w : Initiator} {v : BitVec 32} {d : Bytes}

/-- The forms that the device drops are those that are not well formed (R443). -/
theorem malformed_eq_not_wellFormed :
    (33 < pbits d 0 6 || pbits d 9 7 ≠ 0 || pbits d 32 9 < 44 || 256 < pbits d 32 9 || pbits d 41 23 ≠ 0 || pbits d 104 24 ≠ 0 ||
      pbits d 184 72 ≠ 0) = !ptpWellFormed d := by
  simp only [ptpWellFormed, Bool.not_and, ← decide_not, not_le, ne_eq]

/-- A descriptor is taken by its form and by how near its launch is (R443). -/
theorem readPtp_eq_ptpTook : s.readPtp d = s.ptpTook d := by
  have hNow : (s.memRead (pbits d 64 40) (pbits d 32 9)).2.now = s.now := onlyTold_memRead.sameTime.fields.1
  unfold State.readPtp State.ptpTook
  dsimp only
  generalize s.memRead (pbits d 64 40) (pbits d 32 9) = x at hNow ⊢
  obtain ⟨acc, u⟩ := x
  cases acc with
  | ok m =>
    dsimp only at hNow ⊢
    rw [malformed_eq_not_wellFormed, hNow]
    refine if_congr Iff.rfl rfl ?_
    cases hLaunch : pbit d 8 with
    | false => rfl
    | true =>
      have hTick : (BitVec.ofNat 56 (pbits d 128 56)).truncate 40 = BitVec.ofNat 40 (pbits d 128 56) :=
        BitVec.setWidth_ofNat_of_le (by decide) _
      simp only [if_true, Bool.true_and, hTick, ← Bool.decide_or]
      rfl
  | _ => rfl

theorem runs_ptpDescriptor : Runs (.ptpDescriptor w v) (ptpDescriptorRule v) := by
  refine runs_of_act (execPtpDescriptor w v) rfl (fun _ => rfl) fun s _ => ?_
  unfold State.writeTxwptr
  simp only [readPtp_eq_ptpTook]
  rfl

/-- A frame may leave as a TIME frame with credit, or on a PCS that is up (R443, R445). -/
theorem ptpReady_eq {p n : Nat} : (if decide (p ≤ 1) = true then s.portUp p && (s.vlOf p 2).hasCredit (frameUnits n)
    else s.ethEnabled (p - 2) && (s.portOf p).pcs) = s.ptpReady p n := by
  simp only [State.ptpReady, decide_eq_true_eq]

theorem runs_ptpLaunch {i : Nat} : Runs (.ptpLaunch i) (ptpLaunchRule i) := by
  refine runs_of_act (execPtpLaunch i) rfl (fun _ => rfl) fun s hpre => ?_
  dsimp only [ptpLaunchRule] at hpre ⊢
  cases hWaits : s.time.waits[i]? with
  | none => simp [hWaits] at hpre
  | some w =>
    rw [hWaits] at hpre
    dsimp only at hpre
    rw [ptpReady_eq] at hpre
    refine (if_neg ?_).trans ?_
    · cases hLaunch : w.launch <;> simp_all
    · cases hCredit : s.ptpReady w.port (8 + w.msg.length) with
      | false => exact (if_pos rfl).trans (if_pos (by rw [ptpReady_eq, hCredit]; rfl)).symm
      | true =>
        refine (if_neg (by decide)).trans (Eq.trans ?_ (if_neg (by rw [ptpReady_eq, hCredit]; decide)).symm)
        by_cases hCarried : w.port ≤ 1
        · simp only [hCarried, decide_true, if_true]
          rfl
        · simp only [hCarried, decide_false, Bool.false_eq_true, if_false]
          rfl

end frames

/-! ## TSYNC (R448, R449) -/

section tsync
variable {s : State}

theorem runs_tsyncOutEdge : Runs .tsyncOutEdge tsyncOutEdgeRule := by
  refine runs_of_act execTsyncOutEdge rfl (fun _ => rfl) fun s hpre => ?_
  simp only [tsyncOutEdgeRule, Bool.and_eq_true, decide_eq_true_eq] at hpre
  obtain ⟨⟨hOut, hPeriod⟩, hGrid⟩ := hpre
  refine (if_neg (by simp [hOut, hPeriod, hGrid])).trans ?_
  dsimp only [tsyncOutEdgeRule]
  rfl

/-- The state after an edge at tick `l` is latched (R448, R449). -/
def State.edgeLatched (s : State) (l : Int) : State :=
  let u := s.setReg64 rTimeTsynclat ((BitVec.ofInt 56 l).zeroExtend 64)
  { u with time := { u.time with tsyncV := true, edge := some l.toNat, edgeAt := s.clock, announced := none } }

theorem reg_edgeLatched {l : Int} {off : Nat} (h : off ≠ rTimeTsynclat) (h' : off ≠ rTimeTsynclat + 4) :
    (s.edgeLatched l).reg off = s.reg off := reg_setReg64_ne h h'

theorem timeSrc_edgeLatched {l : Int} : (s.edgeLatched l).timeSrc = s.timeSrc :=
  congrArg (fld · 0 2) (reg_edgeLatched (by decide) (by decide))

theorem tsyncPeriod_edgeLatched {l : Int} : (s.edgeLatched l).tsyncPeriod = s.tsyncPeriod := by
  rw [State.tsyncPeriod, State.reg64, reg_edgeLatched (by decide) (by decide), reg_edgeLatched (by decide) (by decide),
    State.tsyncPeriod, State.reg64]

theorem tsyncEdge_eq_edgeTaken : s.tsyncEdge = s.edgeTaken ((s.x : Int) - s.tsyncDly) := by
  unfold State.tsyncEdge State.edgeTaken
  generalize (s.x : Int) - s.tsyncDly = l
  extract_lets l' c ann prev s₁ t₁ u want s₂ t₂ u' want' bad time
  have hu : u = s.edgeLatched l := rfl
  have hu' : u' = s.edgeLatched l := rfl
  clear_value u u'
  subst hu hu' time bad want want' ann prev l'
  have hSrc : (s.edgeLatched l).timeSrc = s.timeSrc := timeSrc_edgeLatched
  have hPeriod : (s.edgeLatched l).tsyncPeriod = s.tsyncPeriod := tsyncPeriod_edgeLatched
  have hServo : (s.edgeLatched l).time.servo = s.time.servo := rfl
  generalize s.edgeLatched l = u at hSrc hPeriod hServo ⊢
  rw [hSrc, hServo, hPeriod]
  refine if_congr Iff.rfl rfl ?_
  cases s.time.servo with
  | unlocked =>
    cases s.time.announced with
    | some x =>
      cases hQuiet : u.allQuiet with
      | true => simp only [stepTime_quiet hQuiet, if_true]; rfl
      | false => simp only [stepTime_refused hQuiet, Bool.false_eq_true, if_false]
    | none => rfl
  | locked =>
    cases s.time.announced with
    | some x => rfl
    | none => cases s.time.edge <;> rfl
  | holdover => rfl

/-- An edge leaves the register of the wake sources (R449, R546). -/
theorem reg_wakecfg_edgeTaken {l : Int} : (s.edgeTaken l).reg rPwrWakecfg = s.reg rPwrWakecfg := by
  have hSignal : ∀ {u : State} {e : Nat}, e < 128 → (u.signal e).reg rPwrWakecfg = u.reg rPwrWakecfg := fun he =>
    reg_signal_low he (by decide) (by decide)
  have hLatch : (s.edgeLatched l).reg rPwrWakecfg = s.reg rPwrWakecfg := reg_edgeLatched (by decide) (by decide)
  by_cases hSrc : s.timeSrc = 3
  · refine (congrArg (State.reg · rPwrWakecfg) (if_neg (not_not.mpr hSrc))).trans ?_
    split
    · split
      · exact (hSignal (by decide)).trans ((reg_stepped (by decide) (by decide) (by decide)).trans hLatch)
      · exact (hSignal (by decide)).trans hLatch
    · split
      · exact (hSignal (by decide)).trans ((reg_setReg_ne (by decide)).trans hLatch)
      · exact hLatch
    · exact hLatch
  · exact (congrArg (State.reg · rPwrWakecfg) (if_pos hSrc)).trans hLatch

theorem runs_tsyncInEdge : Runs .tsyncInEdge tsyncInEdgeRule := by
  refine runs_of_act execTsyncInEdge rfl (fun _ => rfl) fun s _ => ?_
  dsimp only [tsyncInEdgeRule]
  rw [tsyncEdge_eq_edgeTaken, reg_wakecfg_edgeTaken]

theorem runs_tsyncMissing : Runs .tsyncMissing tsyncMissingRule :=
  runs_of_act execTsyncMissing rfl (fun _ => rfl) fun _ hpre => if_pos hpre

end tsync

/-- Settles O34: a descriptor by its form, a frame by its launch, an edge by what was announced. -/
theorem ptpAndTsync : Obligations.PtpAndTsync := by
  unfold Obligations.PtpAndTsync
  exact ⟨fun _ _ => runs_ptpDescriptor, fun _ => runs_ptpLaunch, runs_tsyncOutEdge, runs_tsyncInEdge, runs_tsyncMissing⟩

end Sys2Proof.Machine
end

