-- ==== Sys2Proof/Proofs/Pins.lean ====
section
/-! PROOF. The supply and reset pins, which count in every state of the block (R551-R559, R456). -/

namespace Sys2Proof.Machine
open Sys2Proof

/-- A command that acts in every state runs by its rule where its function is the rule's. -/
theorem runsAlways_of_actAlways {c : Instr} {f : State → State} {r : Rule} (e : State → Host.Outcome State Fault Refusal)
    (he : e = actAlways f) (hc : ∀ s, exec c s = e s) (hf : ∀ s : State, r.pre s = true → f s = r.eff s) : RunsAlways c r := by
  intro s hpre
  rw [hc, he]
  exact congrArg Host.Outcome.next (hf _ hpre)

theorem runsAlways_powerOn : RunsAlways .powerOn powerOnRule :=
  runsAlways_of_actAlways execPowerOn rfl (fun _ => rfl) fun _ hpre => if_neg (ne_true_of_eq_false (Bool.not_eq_true' _ ▸ hpre))

theorem runsAlways_resetPin : RunsAlways .resetPin resetPinRule :=
  runsAlways_of_actAlways execResetPin rfl (fun _ => rfl) fun _ hpre => if_pos hpre

theorem runsAlways_resetNRelease {recoverN : Bool} : RunsAlways (.resetNRelease recoverN) (resetNReleaseRule recoverN) :=
  runsAlways_of_actAlways (execResetNRelease recoverN) rfl (fun _ => rfl) fun _ hpre => if_pos hpre

/-- Settles O43: each pin acts whether or not the block is alive. -/
theorem pinsInEveryState : Obligations.PinsInEveryState := by
  unfold Obligations.PinsInEveryState
  exact ⟨runsAlways_powerOn, runsAlways_of_actAlways execPowerLoss rfl (fun _ => rfl) fun _ _ => rfl, runsAlways_resetPin,
    fun _ => runsAlways_resetNRelease, runsAlways_of_actAlways execPciePerst rfl (fun _ => rfl) fun _ _ => rfl,
    runsAlways_of_actAlways execPciePerstNRelease rfl (fun _ => rfl) fun _ _ => rfl⟩

end Sys2Proof.Machine
end

