-- ==== Sys2Proof/Proofs/HostService.lean ====
section
/-! PROOF. Requests of the host, its endpoint, and the service SPI (R456-R461, R471, R472). -/

namespace Sys2Proof.Machine
open Sys2Proof

section host
variable {s : State}

/-- A head that the form of a transaction allows names its address and length (R471). -/
theorem svcHead_eq {b : Bytes} {op : Nat} (h : svcForm b op (pbits b 8 40) (pbits b 48 16) = true) :
    svcHead b op = some (pbits b 8 40, pbits b 48 16) := by
  simp only [svcForm, decide_true, Bool.and_true] at h
  exact if_pos h

/-- A transaction of the SPI acts where its unit is not fenced (R471). -/
theorem runs_svcAct {c : Instr} {f : State → State} {r : Rule} (e : State → Host.Outcome State Fault Refusal)
    (he : e = svcAct f) (hc : ∀ s, exec c s = e s) (hf : ∀ s : State, r.pre s = true → s.isFenced 9 = false ∧ f s = r.eff s) : Runs c r :=
  runs_of_act e he hc fun s hpre => (if_neg (ne_true_of_eq_false (hf s hpre).1)).trans (hf s hpre).2

theorem runs_svcWrite {b : Bytes} : Runs (.svcWrite b) (svcWriteRule b) := by
  refine runs_svcAct (execSvcWrite b) rfl (fun _ => rfl) fun s hpre => ?_
  dsimp only [svcWriteRule] at hpre ⊢
  simp only [Bool.and_eq_true, Bool.not_eq_true', decide_eq_true_eq] at hpre
  obtain ⟨⟨⟨⟨⟨hFence, hServed⟩, hForm⟩, hLength⟩, hCrc⟩, hTaken⟩ := hpre
  refine ⟨hFence, ?_⟩
  have hEnd : (b.length ≠ 12 + pbits b 48 16 || (crc32c (b.take (8 + pbits b 48 16))).toNat ≠ leNat (b.drop (8 + pbits b 48 16))) = false := by
    simp [hLength, hCrc]
  simp only [hServed, svcHead_eq hForm, hEnd, hTaken, Bool.not_true, Bool.false_eq_true, if_false, if_true]
  rfl

theorem runs_svcRead {b : Bytes} : Runs (.svcRead b) (svcReadRule b) := by
  refine runs_svcAct (execSvcRead b) rfl (fun _ => rfl) fun s hpre => ?_
  dsimp only [svcReadRule] at hpre ⊢
  simp only [Bool.and_eq_true, Bool.not_eq_true'] at hpre
  obtain ⟨⟨⟨hFence, hServed⟩, hForm⟩, hTaken⟩ := hpre
  refine ⟨hFence, ?_⟩
  simp only [hServed, svcHead_eq hForm, Bool.not_true, Bool.false_eq_true, if_false]
  generalize s.piecesRead .spi (busPieces (pbits b 8 40) (pbits b 48 16)) = x at hTaken ⊢
  obtain ⟨d, u⟩ := x
  cases d with
  | none => cases hTaken
  | some d => rfl

theorem runs_svcStatus : Runs .svcStatus svcStatusRule :=
  runs_svcAct execSvcStatus rfl (fun _ => rfl) fun _ hpre => ⟨(Bool.not_eq_true' _).mp hpre, rfl⟩

theorem runs_hostRequest {r : HostReq} : Runs (.hostRequest r) (hostRequestRule r) := by
  refine runs_of_act (execHostRequest r) rfl (fun _ => rfl) fun s hpre => ?_
  simp only [hostRequestRule] at hpre ⊢
  obtain ⟨hUp, hDone⟩ := Bool.and_eq_true_iff.mp hpre
  simp only [inWindow, Bool.and_eq_true, Bool.or_eq_true, Bool.not_eq_true', decide_eq_true_eq] at hUp
  obtain ⟨⟨⟨hPerst, hOn⟩, hReady⟩, hWin, hIn⟩ := hUp
  have hConfig : r.win ≠ .config := by rintro h; simp [h] at hWin
  have hOutside : r.win ≠ .outside := by rintro h; simp [h] at hWin
  have hFits : (winSize r.win < r.off.toNat + (if r.write then r.data.length else r.len) || r.win = .outside) = false := by
    simp [hIn, hOutside]
  simp only [hPerst, hOn, hConfig, hReady, hFits, Bool.not_true, Bool.or_false, Bool.false_eq_true, if_false]
  cases hWrite : r.write with
  | true =>
    simp only [hWrite, if_true] at hDone ⊢
    unfold State.hostWrite
    generalize s.hostPut _ = x at hDone ⊢
    obtain ⟨bad, u⟩ := x
    cases bad with
    | none => rfl
    | some a => cases hDone
  | false =>
    simp only [hWrite, Bool.false_eq_true, if_false, Bool.and_eq_true, decide_eq_true_eq] at hDone ⊢
    obtain ⟨hLen, hRead⟩ := hDone
    refine (if_neg hLen).trans ?_
    generalize s.busRead .host _ _ = x at hRead ⊢
    obtain ⟨acc, u⟩ := x
    cases acc with
    | ok d => rfl
    | poisoned d => rfl
    | error => cases hRead

theorem runs_pcieEndpointReady : Runs .pcieEndpointReady pcieEndpointReadyRule :=
  runs_of_act execPcieEndpointReady rfl (fun _ => rfl) fun _ hpre => if_pos hpre

/-- A vector that is unmasked is sent, or nothing is (R457). -/
theorem runs_msixUnmask {v : MsixVec} : Runs (.msixUnmask v) (msixUnmaskRule v) :=
  runs_unitAct (w := .host) (off := rMsix v.val 0)
    (f := fun s => ((s.setReg (rMsix v.val 3) (setBit (s.reg (rMsix v.val 3)) 0 false)).flushVector v.val).done) (fun _ => rfl)
    (fun _ hpre => hpre) fun _ _ => apply_ite State.done _ _ _

theorem runs_memWincbaseWrite {w : Initiator} {v : BitVec 32} : Runs (.memWincbaseWrite w v) (memWincbaseWriteRule v) :=
  runs_unitAct (w := w) (off := rMemWincbase) (f := fun s => s.writeWincbase v) (fun _ => rfl)
    (fun _ hpre => (Bool.and_eq_true_iff.mp hpre).1)
    fun _ hpre => if_pos (of_decide_eq_true (Bool.and_eq_true_iff.mp hpre).2)

end host

/-- Settles O35: a request inside its window, and a well-formed transaction that every piece takes. -/
theorem hostAndService : Obligations.HostAndService := by
  unfold Obligations.HostAndService
  exact ⟨fun _ => runs_svcWrite, fun _ => runs_svcRead, runs_svcStatus, fun _ => runs_hostRequest, runs_pcieEndpointReady,
    fun _ => runs_msixUnmask, fun _ _ => runs_memWincbaseWrite⟩

end Sys2Proof.Machine
end

