-- ==== Sys2Proof/Proofs/SharedSlots.lean ====
section
/-! PROOF. Slots of the shared window: claims, hand-overs, releases and leases (R462-R467). -/

namespace Sys2Proof.Machine
open Sys2Proof

section slots
variable {s : State} {w : Initiator} {v : BitVec 64} {i : Nat}

@[simp] theorem slotOf_setSlot {x : SlotSt} : (s.setSlot i x).slotOf i = x := tget_tput
@[simp] theorem setSlot_setSlot {x y : SlotSt} : (s.setSlot i x).setSlot i y = s.setSlot i y := by
  rw [State.setSlot, State.setSlot, State.setSlot, tput_tput]

/-! ## The flag that a row writes: its owner is the row's, its SEQ and LENGTH are the operand's -/

theorem fld_owner_setFld {o : Nat} (h : o < 4) : fld (setFld v 0 2 o) 0 2 = o := by
  simp only [fld, setFld, nbits, BitVec.toNat_ofNat]
  omega

theorem fld_seq_setFld {o : Nat} (h : o < 4) : fld (setFld v 0 2 o) 16 16 = fld v 16 16 := by
  simp only [fld, setFld, nbits, BitVec.toNat_ofNat]
  omega

theorem fld_length_setFld {o : Nat} (h : o < 4) : fld (setFld v 0 2 o) 32 15 = fld v 32 15 := by
  simp only [fld, setFld, nbits, BitVec.toNat_ofNat]
  omega

/-- A flag row that the slots take, as the transition of its owner (R463). -/
theorem runs_slotRow {c : Instr} {o : Nat} {r : Rule} (hc : ∀ s, exec c s = unitAct w (0x10800 + 8 * i) (fun s => s.slotRow w i v o) s)
    (hf : ∀ s : State, r.pre s = true →
      s.unitTakes (0x10800 + 8 * i) = true ∧ s.slotsOn = true ∧ s.writeSlotFlag w i (setFld v 0 2 o) = r.eff s) : Runs c r :=
  runs_unitAct hc (fun s hpre => (hf s hpre).1) fun s hpre => (if_pos (hf s hpre).2.1).trans (hf s hpre).2.2

/-! ## The host (R463-R465) -/

theorem runs_slotClaim {i : Slot} : Runs (.slotClaim i v) (slotClaimRule i) := by
  refine runs_slotRow (w := .host) (i := i.val) (v := v) (o := 1) (fun _ => rfl) fun s hpre => ?_
  simp only [slotClaimRule, Bool.and_eq_true, decide_eq_true_eq] at hpre
  obtain ⟨⟨hUnit, hOn⟩, hOwner⟩ := hpre
  refine ⟨hUnit, hOn, ?_⟩
  simp only [State.writeSlotFlag, actsAsHost, if_true, hOwner, fld_owner_setFld (show 1 < 4 by decide)]
  rfl

theorem runs_slotHandover {i : Slot} : Runs (.slotHandover i v) (slotHandoverRule i v) := by
  refine runs_slotRow (w := .host) (i := i.val) (v := v) (o := 2) (fun _ => rfl) fun s hpre => ?_
  simp only [slotHandoverRule, Bool.and_eq_true, decide_eq_true_eq] at hpre
  obtain ⟨⟨⟨hUnit, hOn⟩, hOwner⟩, hSeq⟩ := hpre
  refine ⟨hUnit, hOn, ?_⟩
  have hLt : 2 < 4 := by decide
  simp only [State.writeSlotFlag, actsAsHost, if_true, hOwner, fld_owner_setFld hLt, fld_seq_setFld hLt, fld_length_setFld hLt]
  refine (if_neg hSeq).trans ((apply_ite State.done _ _ _).trans ?_)
  simp only [State.slotAccept, slotOf_setSlot, setSlot_setSlot]
  rfl

theorem runs_slotRelease {i : Slot} : Runs (.slotRelease i v) (slotReleaseRule i) := by
  refine runs_slotRow (w := .host) (i := i.val) (v := v) (o := 0) (fun _ => rfl) fun s hpre => ?_
  simp only [slotReleaseRule, Bool.and_eq_true, decide_eq_true_eq] at hpre
  obtain ⟨⟨hUnit, hOn⟩, hOwner⟩ := hpre
  refine ⟨hUnit, hOn, ?_⟩
  simp only [State.writeSlotFlag, actsAsHost, if_true, hOwner, fld_owner_setFld (show 0 < 4 by decide)]
  rfl

/-! ## A device initiator (R463) -/

/-- A device initiator does not act as the host. -/
theorem actsAsHost_of_device (h : isDeviceInit w = true) : actsAsHost w = false := by
  cases w <;> simp_all [isDeviceInit, actsAsHost]

/-- A row of a device initiator, as the transition of its owner (R463). -/
theorem runs_deviceRow {c : Instr} {o : Nat} {r : Rule}
    (hc : ∀ s, exec c s = unitAct w (0x10800 + 8 * i) (fun s => if isDeviceInit w then s.slotRow w i v o else s.ignoreSlot w) s)
    (hf : ∀ s : State, r.pre s = true → s.unitTakes (0x10800 + 8 * i) = true ∧ s.slotsOn = true ∧ isDeviceInit w = true ∧
      s.writeSlotFlag w i (setFld v 0 2 o) = r.eff s) : Runs c r :=
  runs_unitAct hc (fun s hpre => (hf s hpre).1) fun s hpre =>
    have ⟨_, hOn, hDevice, hFlag⟩ := hf s hpre
    (if_pos hDevice).trans ((if_pos hOn).trans hFlag)

theorem runs_deviceSlotClaim {i : Slot} : Runs (.deviceSlotClaim w i v) (deviceSlotClaimRule w i) := by
  refine runs_deviceRow (w := w) (i := i.val) (v := v) (o := 2) (fun _ => rfl) fun s hpre => ?_
  simp only [deviceSlotClaimRule, Bool.and_eq_true, decide_eq_true_eq] at hpre
  obtain ⟨⟨⟨hUnit, hOn⟩, hDevice⟩, hOwner⟩ := hpre
  refine ⟨hUnit, hOn, hDevice, ?_⟩
  simp only [State.writeSlotFlag, actsAsHost_of_device hDevice, hDevice, Bool.false_eq_true, if_false, if_true, hOwner,
    fld_owner_setFld (show 2 < 4 by decide)]
  rfl

theorem runs_deviceSlotHandover {i : Slot} : Runs (.deviceSlotHandover w i v) (deviceSlotHandoverRule w i v) := by
  refine runs_deviceRow (w := w) (i := i.val) (v := v) (o := 1) (fun _ => rfl) fun s hpre => ?_
  simp only [deviceSlotHandoverRule, State.deviceOwns, Bool.and_eq_true, Bool.not_eq_true', decide_eq_true_eq] at hpre
  obtain ⟨⟨⟨⟨⟨hUnit, hOn⟩, hDevice⟩, hOwner⟩, hPend⟩, hSeq⟩ := hpre
  refine ⟨hUnit, hOn, hDevice, ?_⟩
  have hLt : 1 < 4 := by decide
  simp only [State.writeSlotFlag, actsAsHost_of_device hDevice, hDevice, Bool.false_eq_true, if_false, if_true, hOwner,
    fld_owner_setFld hLt, fld_seq_setFld hLt, fld_length_setFld hLt]
  refine if_neg ?_
  rw [hPend, Bool.false_or, decide_eq_true_eq]
  exact not_not.mpr hSeq

theorem runs_deviceSlotRelease {i : Slot} : Runs (.deviceSlotRelease w i v) (deviceSlotReleaseRule w i) := by
  refine runs_deviceRow (w := w) (i := i.val) (v := v) (o := 0) (fun _ => rfl) fun s hpre => ?_
  simp only [deviceSlotReleaseRule, State.deviceOwns, Bool.and_eq_true, Bool.not_eq_true', decide_eq_true_eq] at hpre
  obtain ⟨⟨⟨⟨hUnit, hOn⟩, hDevice⟩, hOwner⟩, hPend⟩ := hpre
  refine ⟨hUnit, hOn, hDevice, ?_⟩
  simp only [State.writeSlotFlag, actsAsHost_of_device hDevice, hDevice, Bool.false_eq_true, if_false, if_true, hOwner,
    fld_owner_setFld (show 0 < 4 by decide)]
  exact if_neg (ne_true_of_eq_false hPend)

/-! ## Timers (R465-R467) -/

theorem runs_headerRepoll {i : Slot} : Runs (.headerRepoll i) (headerRepollRule i) := by
  refine runs_of_act (execHeaderRepoll i) rfl (fun _ => rfl) fun s hpre => ?_
  simp only [headerRepollRule, Bool.and_eq_true, decide_eq_true_eq] at hpre
  obtain ⟨hPend, hDue⟩ := hpre
  refine (if_neg (by simp [hPend, Nat.not_lt.mpr hDue])).trans (if_congr Iff.rfl rfl ?_)
  exact if_congr Nat.succ_lt_succ_iff rfl rfl

theorem runs_leaseExpiry {i : Slot} : Runs (.leaseExpiry i) (leaseExpiryRule i) := by
  refine runs_of_act (execLeaseExpiry i) rfl (fun _ => rfl) fun s hpre => ?_
  simp only [leaseExpiryRule, Bool.and_eq_true, Bool.not_eq_true', decide_eq_true_eq] at hpre
  obtain ⟨⟨hOwner, hDue⟩, hOn⟩ := hpre
  exact if_neg (by simp [hOwner, Nat.not_lt.mpr hDue, hOn])

end slots

/-- Settles O36: each transition of a slot by its owner, and the timers of its header and its lease. -/
theorem sharedSlots : Obligations.SharedSlots := by
  unfold Obligations.SharedSlots
  exact ⟨fun _ _ => runs_slotClaim, fun _ _ => runs_slotHandover, fun _ _ => runs_slotRelease, fun _ _ _ => runs_deviceSlotClaim,
    fun _ _ _ => runs_deviceSlotHandover, fun _ _ _ => runs_deviceSlotRelease, fun _ => runs_headerRepoll,
    fun _ => runs_leaseExpiry⟩

end Sys2Proof.Machine
end

