-- ==== Sys2Proof/Proofs/DmaChannels.lean ====
section
/-! PROOF. DMA channels: doorbells, control, bursts, waits and halts (R474, R479-R489). -/

namespace Sys2Proof.Machine
open Sys2Proof

section channels
variable {s : State} {c : Nat}

@[simp] theorem dmaOf_setDma {x : DmaSt} : (s.setDma c x).dmaOf c = x := tget_tput
@[simp] theorem setDma_setDma {x y : DmaSt} : (s.setDma c x).setDma c y = s.setDma c y := by
  rw [State.setDma, State.setDma, State.setDma, tput_tput]

/-! ## DMAn_CTRL as the rows write it: EN in bit 0, RESUME and ABORT above PRIO (R489) -/

section control
variable {v : BitVec 32} {b : Bool} {x : Nat}

/-- The low bits of a word are those of its number. -/
theorem and_seven_toNat : (v &&& 7).toNat = v.toNat % 8 :=
  (BitVec.toNat_and _ _).trans (Nat.and_two_pow_sub_one_eq_mod _ 3)

theorem setFld_resume_low : setFld v 3 2 x &&& 7 = v &&& 7 := by
  apply BitVec.eq_of_toNat_eq
  simp only [and_seven_toNat, setFld, fld, nbits, BitVec.toNat_ofNat]
  omega

theorem setBit_abort_low : setBit v 4 b &&& 7 = v &&& 7 := by
  apply BitVec.eq_of_toNat_eq
  simp only [and_seven_toNat, setBit, setFld, fld, nbits, BitVec.toNat_ofNat]
  omega

theorem enable_setFld_resume : (setFld v 3 2 x).getLsbD 0 = v.getLsbD 0 := by
  simp only [BitVec.getLsbD, Nat.testBit_eq_decide_div_mod_eq, fld, setFld, nbits, BitVec.toNat_ofNat, decide_eq_decide]
  omega

theorem enable_setBit_abort : (setBit v 4 b).getLsbD 0 = v.getLsbD 0 := by
  simp only [BitVec.getLsbD, Nat.testBit_eq_decide_div_mod_eq, fld, setBit, setFld, nbits, BitVec.toNat_ofNat, decide_eq_decide]
  omega

theorem enable_setBit : (setBit v 0 b).getLsbD 0 = b := by
  have hv := v.isLt
  cases b
  all_goals
    simp only [BitVec.getLsbD, Nat.testBit_eq_decide_div_mod_eq, fld, setBit, setFld, nbits, BitVec.toNat_ofNat, Bool.toNat_true,
      Bool.toNat_false, decide_eq_true_eq, decide_eq_false_iff_not]
    omega

theorem resume_of_setFld : (setFld v 3 2 1).getLsbD 3 = true ∧ (setFld v 3 2 1).getLsbD 4 = false := by
  simp only [BitVec.getLsbD, Nat.testBit_eq_decide_div_mod_eq, fld, setFld, nbits, BitVec.toNat_ofNat, decide_eq_true_eq,
    decide_eq_false_iff_not]
  omega

theorem abort_of_setBit : (setBit v 4 true).getLsbD 4 = true := by
  simp only [BitVec.getLsbD, Nat.testBit_eq_decide_div_mod_eq, fld, setBit, setFld, nbits, BitVec.toNat_ofNat, decide_eq_true_eq,
    Bool.toNat_true]
  omega

/-- EN as it stands is no write of it. -/
theorem setBit_enable : setBit v 0 (v.getLsbD 0) = v := by
  have hv := v.isLt
  apply BitVec.eq_of_toNat_eq
  cases hBit : v.getLsbD 0
  all_goals
    simp only [BitVec.getLsbD, Nat.testBit_eq_decide_div_mod_eq, decide_eq_true_eq, decide_eq_false_iff_not] at hBit
    simp only [setBit, setFld, fld, nbits, BitVec.toNat_ofNat, Bool.toNat_true, Bool.toNat_false]
    omega

end control

/-! ## Rows of DMAn_CTRL, DMAn_HEAD and the doorbell (R474, R481, R485, R489) -/

section rows
variable {w : Initiator} {v : BitVec 32} {c : DmaCh}

theorem runs_dmaRing : Runs (.dmaRing w c v) (dmaRingRule c) := by
  refine runs_unitAct (w := w) (off := 0xC100 + 0x40 * c.val) (f := fun s => (s.writeDoorbell c.val (setBit v 0 true)).done)
    (fun _ => rfl) (fun s hpre => ?_) fun s hpre => ?_
  all_goals
    simp only [dmaRingRule, Bool.and_eq_true, Bool.not_eq_true', decide_eq_true_eq] at hpre
    obtain ⟨⟨⟨hUnit, hSplit⟩, hIdle⟩, hOff⟩ := hpre
  · exact hUnit
  · have hRung : ((s.dmaOf c.val).rung || (s.dmaOf c.val).state = .idle) = true := by simp [hIdle]
    have hSame : ∀ x, ((s.setDma c.val x).dmaOrder c.val).dmaEn c.val = s.dmaEn c.val := fun x => by
      unfold State.dmaOrder; split <;> rfl
    refine congrArg State.done ((if_neg ?_).trans ?_)
    · rw [enable_setBit, hSplit]; decide
    · dsimp only
      rw [hRung]
      exact if_pos (by rw [hSame, hOff]; rfl)

/-- A write of DMAn_CTRL to a channel that is not halted stores PRIO and EN, and starts or stops it (R485, R489). -/
theorem writeDmaCtrl_unhalted {s : State} {c : Nat} (h : (s.dmaOf c).state ≠ .halted) : s.writeDmaCtrl c v =
    if v.getLsbD 0 then (if s.dmaEn c then s.setReg (rDma c 0) (v &&& 7) else (s.setReg (rDma c 0) (v &&& 7)).dmaGo c)
    else (s.setReg (rDma c 0) (v &&& 7)).dmaPause c := by
  have hState : ((s.setReg (rDma c 0) (v &&& 7)).dmaOf c).state ≠ .halted := h
  rw [State.writeDmaCtrl, if_neg hState]

theorem runs_dmaEnable : Runs (.dmaEnable w c v) (dmaEnableRule c v) := by
  refine runs_unitAct (w := w) (off := 0xC100 + 0x40 * c.val)
    (f := fun s => (s.writeDmaCtrl c.val (setFld (setBit v 0 true) 3 2 0)).done) (fun _ => rfl) (fun s hpre => ?_) fun s hpre => ?_
  all_goals
    simp only [dmaEnableRule, State.dmaIn, Bool.and_eq_true, Bool.not_eq_true', decide_eq_true_eq] at hpre
    obtain ⟨⟨⟨hUnit, hOn⟩, hPaused⟩, hOff⟩ := hpre
  · exact hUnit
  · refine congrArg State.done ?_
    rw [writeDmaCtrl_unhalted (by rw [hPaused]; decide), enable_setFld_resume, enable_setBit, if_pos rfl, hOff, setFld_resume_low]
    refine (if_neg (by decide)).trans (if_pos ?_)
    exact Bool.and_eq_true_iff.mpr ⟨decide_eq_true hPaused, hOn⟩

theorem runs_dmaDisable : Runs (.dmaDisable w c v) (dmaDisableRule c v) := by
  refine runs_unitAct (w := w) (off := 0xC100 + 0x40 * c.val)
    (f := fun s => (s.writeDmaCtrl c.val (setFld (setBit v 0 false) 3 2 0)).done) (fun _ => rfl) (fun s hpre => ?_) fun s hpre => ?_
  all_goals
    simp only [dmaDisableRule, Bool.and_eq_true, decide_eq_true_eq] at hpre
    obtain ⟨hUnit, hState⟩ := hpre
  · exact hUnit
  · refine congrArg State.done ?_
    have hRuns : (s.dmaOf c.val).state ≠ .halted := by rintro h; simp [h] at hState
    rw [writeDmaCtrl_unhalted hRuns, enable_setFld_resume, enable_setBit, setFld_resume_low]
    refine (if_neg (by decide)).trans (if_pos ?_)
    change (decide ((s.dmaOf c.val).state = .running) || decide ((s.dmaOf c.val).state = .waiting) : Bool) = true
    simpa using hState

/-- RESUME of a halted copy that stays enabled runs on (R485). -/
theorem dmaReissue_copy {s : State} {c : Nat} (hCopy : (s.dmaOf c).at_ = .copy) (hEn : s.dmaEn c = true) :
    s.dmaReissue c = s.setDma c { s.dmaOf c with state := .running, cause := 0, errHost := false } := by
  unfold State.dmaReissue
  dsimp only
  rw [hCopy]
  dsimp only
  rw [dmaOf_setDma, setDma_setDma]
  exact if_pos hEn

theorem runs_dmaResume : Runs (.dmaResume w c v) (dmaResumeRule c v) := by
  refine runs_unitAct (w := w) (off := 0xC100 + 0x40 * c.val)
    (f := fun s => (s.writeDmaCtrl c.val (setFld v 3 2 1)).done) (fun _ => rfl) (fun s hpre => ?_) fun s hpre => ?_
  all_goals
    simp only [dmaResumeRule, State.dmaIn, Bool.and_eq_true, decide_eq_true_eq] at hpre
    obtain ⟨⟨⟨⟨⟨hUnit, hOn⟩, hHalted⟩, hCopy⟩, hEn⟩, hWas⟩ := hpre
  · exact hUnit
  · refine congrArg State.done ?_
    obtain ⟨hResume, hAbort⟩ := resume_of_setFld (v := v)
    have hSame : setBit v 0 true = v := (congrArg (setBit v 0) hEn).symm.trans setBit_enable
    have hStays : (s.setReg (rDma c.val 0) (v &&& 7)).dmaEn c.val = true := by
      rw [State.dmaEn, reg_setReg]
      simpa using hEn
    have hState : ((s.setReg (rDma c.val 0) (v &&& 7)).dmaOf c.val).state = .halted := hHalted
    rw [State.writeDmaCtrl, setFld_resume_low, enable_setFld_resume, hEn, if_pos hState, hAbort, hResume, State.dmaCtrl, hSame]
    refine (if_pos rfl).trans ((if_pos hWas).trans ?_)
    exact dmaReissue_copy hCopy hStays

theorem runs_dmaAbort : Runs (.dmaAbort w c v) (dmaAbortRule c v) := by
  refine runs_unitAct (w := w) (off := 0xC100 + 0x40 * c.val)
    (f := fun s => (s.writeDmaCtrl c.val (setBit v 4 true)).done) (fun _ => rfl) (fun s hpre => ?_) fun s hpre => ?_
  all_goals
    simp only [dmaAbortRule, State.dmaIn, Bool.and_eq_true, Bool.not_eq_true', decide_eq_true_eq] at hpre
    obtain ⟨⟨⟨hUnit, hOn⟩, hHalted⟩, hEn⟩ := hpre
  · exact hUnit
  · refine congrArg State.done ?_
    have hSame : setBit v 0 false = v := (congrArg (setBit v 0) hEn).symm.trans setBit_enable
    have hState : ((s.setReg (rDma c.val 0) (v &&& 7)).dmaOf c.val).state = .halted := hHalted
    rw [State.writeDmaCtrl, setBit_abort_low, enable_setBit_abort, hEn, if_pos hState, abort_of_setBit, State.dmaCtrl, hSame]
    refine (if_neg (by decide)).trans (if_neg ?_)
    change ¬(decide (((State.setDma _ _ _).dmaOf c.val).state = .running) || decide (((State.setDma _ _ _).dmaOf c.val).state = .waiting)) = true
    rw [dmaOf_setDma]
    exact Bool.false_ne_true

theorem runs_dmaHeadWrite {v : BitVec 64} : Runs (.dmaHeadWrite w c v) (dmaHeadWriteRule c v) := by
  refine runs_unitAct (w := w) (off := 0xC100 + 0x40 * c.val) (f := fun s => s.writeDmaHead c.val v) (fun _ => rfl)
    (fun s hpre => ?_) fun s hpre => ?_
  all_goals
    simp only [dmaHeadWriteRule, Bool.and_eq_true, decide_eq_true_eq] at hpre
    obtain ⟨⟨hUnit, hAligned⟩, hIdle⟩ := hpre
  · exact hUnit
  · refine (if_neg (by simp [hAligned, hIdle])).trans (congrArg State.done (if_neg ?_))
    rw [hIdle]
    decide

end rows

/-! ## Bursts, polls and completions (R479, R481, R483, R484, R486) -/

section work
variable {c : DmaCh}

theorem runs_burstGrant {host : Bytes} : Runs (.burstGrant host) (burstGrantRule host) := by
  refine runs_of_act (execBurstGrant host) rfl (fun _ => rfl) fun s hpre => ?_
  simp only [burstGrantRule, Bool.and_eq_true, Bool.not_eq_true'] at hpre
  obtain ⟨⟨hOn, hSplit⟩, -⟩ := hpre
  dsimp only [burstGrantRule]
  rw [hOn, hSplit, if_neg (by decide), if_neg (by decide)]
  cases s.dmaGrant <;> rfl

theorem runs_waitwordPoll : Runs (.waitwordPoll c) (waitwordPollRule c) := by
  refine runs_of_act (execWaitwordPoll c) rfl (fun _ => rfl) fun s hpre => ?_
  dsimp only [waitwordPollRule] at hpre ⊢
  obtain ⟨hDue, hMiss⟩ := Bool.and_eq_true_iff.mp hpre
  rw [if_pos hDue, State.dmaPoll]
  dsimp only
  generalize s.busRead (.dma c) (dSrc (s.dmaOf c.val).desc) 4 = x at hMiss ⊢
  obtain ⟨acc, u⟩ := x
  cases acc with
  | ok b => exact if_neg (by simpa using hMiss)
  | _ => cases hMiss

/-- A chain whose tail still ends it rests there (R481). -/
theorem dmaComplete_of_tail {s t : State} {c : Nat} (hEnd : linkEnd (dLink (s.dmaOf c).desc) = true)
    (hTail : (s.dmaDone c).dmaTail c = some t) : s.dmaComplete c = t := by
  refine (if_pos hEnd).trans ?_
  change (s.dmaDone c).dmaAppend c = t
  unfold State.dmaTail at hTail
  unfold State.dmaAppend
  dsimp only at hTail ⊢
  generalize State.dmaRead _ _ _ = x at hTail ⊢
  obtain ⟨acc, u⟩ := x
  cases acc with
  | inl e => cases hTail
  | inr l =>
    dsimp only at hTail ⊢
    split at hTail
    · next h => rw [if_pos h]; exact Option.some.inj hTail
    · cases hTail

theorem runs_descriptorComplete : Runs (.descriptorComplete c) (descriptorCompleteRule c) := by
  refine runs_of_act (execDescriptorComplete c) rfl (fun _ => rfl) fun s hpre => ?_
  simp only [descriptorCompleteRule, Bool.and_eq_true, decide_eq_true_eq] at hpre ⊢
  obtain ⟨⟨⟨⟨hOn, hRuns⟩, hMoved⟩, hEnd⟩, hTail⟩ := hpre
  obtain ⟨t, ht⟩ := Option.isSome_iff_exists.mp hTail
  rw [ht, if_pos ⟨⟨hRuns, hMoved⟩, hOn⟩]
  exact dmaComplete_of_tail hEnd ht

theorem runs_waitevSignal {e : Event} : Runs (.waitevSignal c e) (waitevSignalRule c e) := by
  refine runs_of_act (execWaitevSignal c e) rfl (fun _ => rfl) fun s hpre => ?_
  simp only [waitevSignalRule, Bool.and_eq_true, decide_eq_true_eq] at hpre ⊢
  obtain ⟨⟨⟨⟨⟨hOn, hWaits⟩, hCame⟩, hEvent⟩, hEnd⟩, hTail⟩ := hpre
  obtain ⟨t, ht⟩ := Option.isSome_iff_exists.mp hTail
  rw [ht, if_pos ⟨⟨⟨hWaits, hCame⟩, hEvent⟩, hOn⟩]
  exact dmaComplete_of_tail hEnd ht

theorem runs_dmaWaitTimeout : Runs (.dmaWaitTimeout c) (dmaWaitTimeoutRule c) := by
  refine runs_of_act (execDmaWaitTimeout c) rfl (fun _ => rfl) fun s hpre => ?_
  simp only [dmaWaitTimeoutRule, Bool.and_eq_true, Bool.not_eq_true', decide_eq_true_eq] at hpre
  obtain ⟨⟨⟨⟨⟨hOn, hWaits⟩, hLength⟩, hDue⟩, hCame⟩, hHalt⟩ := hpre
  refine (if_neg ?_).trans ((if_neg (ne_true_of_eq_false hCame)).trans (if_pos hHalt))
  simp [hOn, hWaits, hLength, Nat.not_lt.mpr hDue]

/-- An event leaves the channels (R23). -/
theorem dma_signal {s : State} {e : Nat} : (s.signal e).dma = s.dma := by
  have hTold : OnlyTold s (s.signal e) := onlyTold_signal
  rw [hTold]

/-- A channel that halts stands in HALTED (R484). -/
theorem state_dmaHalt {s : State} {c cause addr : Nat} {at_ : DmaAt} {host : Bool} :
    ((s.dmaHalt c cause at_ addr host).dmaOf c).state = .halted := by
  have hRest : ∀ {u : State} {a : Nat} {x : BitVec 64} {e : Nat}, ((u.setReg64 a x).signal e).dmaOf c = u.dmaOf c := by
    intro u a x e
    rw [State.dmaOf, dma_signal]
    rfl
  rw [State.dmaHalt, hRest, dmaOf_setDma]

theorem runs_dmaErrorHalt : Runs (.dmaErrorHalt c) (dmaErrorHaltRule c) := by
  refine runs_of_act (execDmaErrorHalt c) rfl (fun _ => rfl) fun s hpre => ?_
  dsimp only [dmaErrorHaltRule] at hpre ⊢
  obtain ⟨hReady, hFails⟩ := Bool.and_eq_true_iff.mp hpre
  obtain ⟨hOn, hDue⟩ := Bool.and_eq_true_iff.mp hReady
  have hWaits : (s.dmaOf c.val).state ≠ .halted := by
    intro h
    simp [State.pollDue, h] at hDue
  simp only [hOn, hDue, Bool.not_true, Bool.false_eq_true, if_false, if_true, State.dmaPoll]
  generalize s.busRead (.dma c) (dSrc (s.dmaOf c.val).desc) 4 = x at hFails ⊢
  obtain ⟨acc, u⟩ := x
  cases acc with
  | error => exact if_pos (by simp [hWaits, state_dmaHalt])
  | _ => cases hFails

end work
end channels

/-- Settles O37: each row by what the channel's state lets it do. -/
theorem dmaChannels : Obligations.DmaChannels := by
  unfold Obligations.DmaChannels
  exact ⟨fun _ _ _ => runs_dmaRing, fun _ _ _ => runs_dmaEnable, fun _ _ _ => runs_dmaDisable, fun _ _ _ => runs_dmaResume,
    fun _ _ _ => runs_dmaAbort, fun _ _ _ => runs_dmaHeadWrite, fun _ => runs_burstGrant, fun _ => runs_waitwordPoll,
    fun _ => runs_descriptorComplete, fun _ _ => runs_waitevSignal, fun _ => runs_dmaWaitTimeout, fun _ => runs_dmaErrorHalt⟩

end Sys2Proof.Machine
end

