-- ==== Sys2Proof/Proofs/CaptureEngines.lean ====
section
/-! PROOF. Capture and playback: start, stop, and the records that pass (R505-R511). -/

namespace Sys2Proof.Machine
open Sys2Proof

section engines
variable {s t : State} {e : Nat} {g : Tag} {b : Bytes} {x : CapSt}

@[simp] theorem capOf_setCap : (s.setCap e x).capOf e = x := tget_tput

/-- What only tells leaves the engines. -/
theorem OnlyTold.capOf_eq (h : OnlyTold s t) : t.capOf e = s.capOf e := by
  rw [h]
  rfl

/-! ## Starts and stops (R505-R509) -/

/-- A start on time whose descriptor is read and fits arms a free engine (R507, R509). -/
theorem capStart_onTime {u : State} {d : Bytes} {play : Bool} {it : Item} {pc : BitVec 19} (hLate : s.onTime .cap 0 it = true)
    (hRead : s.readDesc (pbits it.body 64 40) = (some d, u)) (hFree : u.capBusy (pbits it.body 2 4) = false)
    (hDesc : descOk (pbits it.body 6 8) d = true) (hFits : u.capAdmits (pbits it.body 6 8) (descOf d) = true)
    (hPlays : (!play || tapPlays (pbits it.body 6 8) && (u.mode.mode = .test || u.mode.mode = .maintenance)) = true) :
    s.capStart play it pc = u.setCap (pbits it.body 2 4)
      { state := .armed, play := play, tap := BitVec.ofNat 8 (pbits it.body 6 8), desc := descOf d, tag := it.tag
        from_ := it.tag.air, late := false } := by
  obtain ⟨hTag, hLead⟩ := onTime_iff.mp hLate
  unfold State.capStart
  simp only [hTag, hLead, Option.isSome_none, Bool.not_false, Bool.true_and, Bool.false_eq_true, if_false, hRead, hFree, hDesc, hFits,
    Bool.not_true, Bool.false_or, Bool.or_false, Bool.false_and]
  generalize (tapPlays _ && _ : Bool) = plays at hPlays ⊢
  refine if_neg ?_
  cases play
  · exact Bool.false_ne_true
  · rw [show plays = true from hPlays]
    exact Bool.false_ne_true

theorem runs_capStarts {c : Instr} {play : Bool} {action : Nat} (hc : ∀ s, exec c s = act (fun s => s.arriveCap action g b) s)
    (hAction : action = if play then 2 else 0) : Runs c (capStarts play g b) := by
  subst hAction
  refine runs_of_act _ rfl hc fun s hpre => ?_
  dsimp only [capStarts] at hpre ⊢
  obtain ⟨hTimely, hDesc⟩ := Bool.and_eq_true_iff.mp hpre
  obtain ⟨hPasses, hLate⟩ := Bool.and_eq_true_iff.mp hTimely
  unfold State.arriveCap
  dsimp only
  have hLate' : (s.took .cap 0 (mkItem kCapCtl g (setPay b 0 2 (if play then 2 else 0)))).onTime .cap 0
      (mkItem kCapCtl g (setPay b 0 2 (if play then 2 else 0))) = true := hLate
  rw [arrive_taken hPasses, if_pos (by cases play <;> rfl)]
  have hPlay : decide ((if play then 2 else 0) = 2) = play := by cases play <;> rfl
  rw [hPlay]
  generalize hItem : mkItem kCapCtl g (setPay b 0 2 (if play then 2 else 0)) = it at *
  have hAir : it.tag.air = g.air := by rw [← hItem]; rfl
  generalize hRead : (s.took .cap 0 it).readDesc (pbits it.body 64 40) = y at hDesc ⊢
  obtain ⟨d, u⟩ := y
  cases d with
  | none => cases hDesc
  | some d =>
    simp only [Bool.and_eq_true, Bool.not_eq_true'] at hDesc
    obtain ⟨⟨⟨hFree, hForm⟩, hFits⟩, hPlays⟩ := hDesc
    exact (capStart_onTime hLate' hRead hFree hForm hFits hPlays).trans (by rw [hAir]; rfl)

theorem runs_capStops {c : Instr} {play : Bool} {action : Nat} (hc : ∀ s, exec c s = act (fun s => s.arriveCap action g b) s)
    (hAction : action = if play then 3 else 1) : Runs c (capStops play g b) := by
  subst hAction
  refine runs_of_act _ rfl hc fun s hpre => ?_
  simp only [capStops, Bool.and_eq_true, decide_eq_true_eq] at hpre ⊢
  obtain ⟨⟨⟨hPasses, hLate⟩, hKind⟩, hBusy⟩ := hpre
  obtain ⟨hTag, hLead⟩ := onTime_iff.mp hLate
  unfold State.arriveCap
  dsimp only
  rw [arrive_taken hPasses, if_neg (by cases play <;> decide), show decide ((if play then 3 else 1) = 3) = play by cases play <;> rfl]
  have hLead' : (s.took .cap 0 (mkItem kCapCtl g (setPay b 0 2 (if play then 3 else 1)))).lateBy .cap 0
      (mkItem kCapCtl g (setPay b 0 2 (if play then 3 else 1))) = none := hLead
  unfold State.capStop
  simp only [hLead', Option.isSome_none, Bool.and_false, Bool.false_eq_true, if_false]
  exact if_pos (Bool.and_eq_true_iff.mpr ⟨decide_eq_true hKind, hBusy⟩)

/-! ## Records (R508, R510) -/

/-- A record that is stored, or dropped, leaves the blocks that wait at its engine as they stood (R135, R508). -/
theorem blocks_capStore {pos : Nat} : (((s.setCap e x).capStore e x pos b).capOf e).blocks = x.blocks := by
  unfold State.capStore
  split
  · have hDrop : OnlyTold (s.setCap e x) (((s.setCap e x).bump (rMemCapDrop e)).signal 111) := .signal onlyTold_bumpBy
    rw [hDrop.capOf_eq, capOf_setCap]
  · dsimp only
    split
    · rw [capOf_setCap]
    · rw [onlyTold_putBytes.capOf_eq, capOf_setCap]

/-- A block that passes a receiver's tap is the first that waits there (R135). -/
theorem blocks_of_passing {rails : Rails} {k : Nat} {y : Tag × Nat × Rails} (h : x.passing g k rails = some y)
    (hTap : 0x20 ≤ x.tap.toNat) : x.blocks.drop 1 ≠ x.blocks := by
  rw [CapSt.passing, if_pos hTap] at h
  cases hBlocks : x.blocks with
  | nil => simp [hBlocks] at h
  | cons q qs => exact fun hSame => absurd (congrArg List.length hSame) (by simp)

/-- The block is taken: the record of R508 at its place in the buffer (R505, R508, R510). -/
theorem capTake_taken {x : CapSt} {k : Nat} {rails : Rails} (hState : (x.state = .armed || x.state = .running) = true)
    (hPlay : x.play = false) (hServes : x.serves g k = true) (hAhead : x.ahead g k = true) (hFrom : 0 ≤ airDiff g.air x.from_)
    (hReady : s.tapReady x g = true) (hStop : ∀ h, x.stop = some h → airDiff g.air h.air < 0) (hSize : recBytes x.desc ≤ x.desc.size)
    (hRoom : (x.desc.ring || x.period = some g.air || decide (x.pos + x.periodRecords g * recBytes x.desc ≤ x.desc.size)) = true) :
    s.capTake e x g k rails true =
      let y : CapSt := { x with state := .running, period := some g.air, unitAt := k + 1, blocks := x.blocks.drop 1 }
      let u := s.setCap e y
      u.capStore e y (if y.pos + recBytes y.desc > y.desc.size then 0 else y.pos)
        (capRecord y (u.tapBlock y g k rails).1 k (u.tapBlock y g k rails).2) := by
  have hFull : (!x.desc.ring && x.period ≠ some g.air && x.pos + x.periodRecords g * recBytes x.desc > x.desc.size : Bool) = false := by
    simp only [Bool.or_eq_true, decide_eq_true_eq] at hRoom
    simp only [Bool.and_eq_false_iff, Bool.not_eq_false', decide_eq_false_iff_not, not_not, gt_iff_lt, not_lt]
    exact hRoom
  have hTakes : (x.play || !(x.state = .armed || x.state = .running) || !x.serves g k || !x.ahead g k ||
      decide (airDiff g.air x.from_ < 0) || !s.tapReady x g) = false := by
    simp [hPlay, hState, hServes, hAhead, hReady, Int.not_lt.mpr hFrom]
  unfold State.capTake
  rw [hTakes, if_neg Bool.false_ne_true]
  refine (if_neg ?_).trans ?_
  · cases hs : x.stop with
    | none => exact Bool.false_ne_true
    | some h => simpa using hStop h hs
  · dsimp only
    rw [hFull, if_neg Bool.false_ne_true, if_neg (by simp [Nat.not_lt.mpr hSize])]

theorem runs_captureRecord {e : Cap} {unit : BitVec 6} {rails : Rails} {space : Bool} :
    Runs (.captureRecord e g unit rails space) (captureRecordRule e g unit rails space) := by
  refine runs_of_act (execCaptureRecord e g unit rails space) rfl (fun _ => rfl) fun s hpre => ?_
  dsimp only [captureRecordRule] at hpre ⊢
  generalize hPassing : (s.capOf e.val).passing g unit.toNat rails = y at hpre ⊢
  cases y with
  | none => rfl
  | some y =>
    obtain ⟨g, k, rails⟩ := y
    dsimp only at hpre ⊢
    obtain ⟨hpre, hRoom⟩ := Bool.and_eq_true_iff.mp hpre
    simp only [Bool.and_eq_true, Bool.not_eq_true', decide_eq_true_eq] at hpre
    obtain ⟨⟨⟨⟨⟨⟨⟨⟨hPlay, hState⟩, hServes⟩, hAhead⟩, hFrom⟩, hReady⟩, hStop⟩, hSpace⟩, hSize⟩ := hpre
    subst hSpace
    rw [capTake_taken hState hPlay hServes hAhead hFrom hReady (fun h hs => by simpa [hs] using hStop) hSize hRoom]
    refine if_neg ?_
    rw [blocks_capStore, Bool.and_eq_true, decide_eq_true_eq, decide_eq_true_eq]
    exact fun ⟨hTap, hSame⟩ => blocks_of_passing hPassing hTap hSame

/-! ## Playback (R511) -/

theorem runs_playbackRecord {e : Cap} : Runs (.playbackRecord e) (playbackRecordRule e) := by
  refine runs_of_act (execPlaybackRecord e) rfl (fun _ => rfl) fun s hpre => ?_
  simp only [playbackRecordRule, Bool.and_eq_true] at hpre ⊢
  obtain ⟨⟨hPlay, hState⟩, hRead⟩ := hpre
  refine (if_neg (by rw [hPlay, hState]; decide)).trans ?_
  generalize s.playRead (s.capOf e.val) = y at hRead ⊢
  obtain ⟨d, u⟩ := y
  cases d with
  | none => cases hRead
  | some d => rfl

end engines

/-- Settles O9: starts and stops as items that pass, and records by the state of their engine. -/
theorem captureAndPlayback : Obligations.CaptureAndPlayback := by
  unfold Obligations.CaptureAndPlayback
  exact ⟨fun _ _ => runs_capStarts (fun _ => rfl) rfl, fun _ _ => runs_capStops (fun _ => rfl) rfl,
    fun _ _ => runs_capStarts (fun _ => rfl) rfl, fun _ _ => runs_capStops (fun _ => rfl) rfl,
    fun _ _ _ _ _ => runs_captureRecord, fun _ => runs_playbackRecord⟩
end Sys2Proof.Machine
end

