-- ==== Sys2Proof/Proofs/Fences.lean ====
section
/-! PROOF. Faults, fences, releases and the watchdog (R521-R528, R535). -/

namespace Sys2Proof.Machine
open Sys2Proof

section fences
variable {s : State} {u cause : Nat}

/-- A unit that may be fenced is fenced for the cause (R521-R523). -/
theorem fence_eq_fencedFor (h : s.fenceable u = true) : s.fence u cause = s.fencedFor u cause := by
  simp only [State.fenceable, Bool.and_eq_true, Bool.not_eq_true'] at h
  exact if_neg (by simp [h])

theorem runs_watchdogExpiry : Runs .watchdogExpiry watchdogExpiryRule := by
  refine runs_of_act execWatchdogExpiry rfl (fun _ => rfl) fun s hpre => (if_pos hpre).trans ?_
  simp only [watchdogExpiryRule, watchdogRule, Bool.and_eq_true, Bool.not_eq_true'] at hpre
  obtain ⟨⟨-, hFenced⟩, -⟩ := hpre
  have hTold : OnlyTold s (s.signal 123) := onlyTold_signal
  have hSame : (s.signal 123).isFenced 10 = s.isFenced 10 := by rw [hTold]; rfl
  exact fence_eq_fencedFor (by rw [State.fenceable, hSame, hFenced]; rfl)

/-! ## EV_FENCE (R524, R535) -/

section register
variable {w : Initiator} {v : BitVec 32}

/-- The unit is named below the bits of a request and a release (R524). -/
theorem fld_unit_setBit {i : Nat} (h : i = 8 ∨ i = 9) : fld (setBit v i true) 0 5 = fld v 0 5 := by
  obtain rfl | rfl := h
  all_goals
    simp only [fld, setBit, setFld, nbits, BitVec.toNat_ofNat, Bool.toNat_true]
    omega

theorem fence_of_setBit : (setBit v 8 true).getLsbD 8 = true := by
  simp only [BitVec.getLsbD, Nat.testBit_eq_decide_div_mod_eq, fld, setBit, setFld, nbits, BitVec.toNat_ofNat, Bool.toNat_true,
    decide_eq_true_eq]
  omega

theorem release_of_setBit : (setBit v 9 true).getLsbD 9 = true ∧ (setBit v 9 true).getLsbD 8 = v.getLsbD 8 := by
  simp only [BitVec.getLsbD, Nat.testBit_eq_decide_div_mod_eq, fld, setBit, setFld, nbits, BitVec.toNat_ofNat, Bool.toNat_true,
    decide_eq_true_eq, decide_eq_decide]
  omega

theorem runs_fenceRequest : Runs (.fenceRequest w v) (fenceRequestRule w v) := by
  refine runs_of_act (execFenceRequest w v) rfl (fun _ => rfl) fun s _ => ?_
  simp only [State.writeEvFence, fld_unit_setBit (.inl rfl), fence_of_setBit, Bool.not_true, Bool.false_and, Bool.false_eq_true,
    if_false, if_true, fenceRequestRule]
  by_cases hParty : w = .mgmt
  · cases hReserved : unitReserved (fld v 0 5) with
    | true => simp
    | false =>
      cases hFenced : s.isFenced (fld v 0 5) with
      | true => simp [hParty, State.fence, hFenced]
      | false =>
        have hFence : s.fence (fld v 0 5) 5 = s.fencedFor (fld v 0 5) 5 :=
          fence_eq_fencedFor (by rw [State.fenceable, hReserved, hFenced]; rfl)
        simp [hParty, hFence]
  · simp [hParty]

theorem runs_fenceRelease : Runs (.fenceRelease w v) (fenceReleaseRule w v) := by
  refine runs_of_act (execFenceRelease w v) rfl (fun _ => rfl) fun s hpre => ?_
  have hBit : v.getLsbD 8 = false := (Bool.not_eq_true' _).mp hpre
  obtain ⟨hRelease, hNoFence⟩ := release_of_setBit (v := v)
  simp only [State.writeEvFence, fld_unit_setBit (.inr rfl), hNoFence, hRelease, hBit, Bool.not_true, Bool.and_false,
    Bool.false_eq_true, if_false, fenceReleaseRule]
  by_cases hParty : w = .mgmt
  · cases hReserved : unitReserved (fld v 0 5) with
    | true => simp
    | false => simp [hParty, or_assoc]
  · simp [hParty]

end register
end fences

/-- Settles O39: a unit is fenced where it may be, whoever finds the fault, and EV_FENCE takes its firmware alone. -/
theorem faultsAndFences : Obligations.FaultsAndFences := by
  unfold Obligations.FaultsAndFences
  exact ⟨runs_watchdogExpiry, fun u => runs_of_act (execRequestTimeout u) rfl (fun _ => rfl) fun _ => fence_eq_fencedFor,
    fun u => runs_of_act (execClockMonitorTrip u) rfl (fun _ => rfl) fun _ => fence_eq_fencedFor,
    fun u => runs_of_act (execSelfCheckError u) rfl (fun _ => rfl) fun _ => fence_eq_fencedFor,
    fun _ _ => runs_fenceRequest, fun _ _ => runs_fenceRelease⟩

end Sys2Proof.Machine
end

