-- ==== Sys2Proof/Proofs/PowerLadder.lean ====
section
/-! PROOF. Requests, entries, refusals, rollbacks and exits of the power ladder (R536-R549). -/

namespace Sys2Proof.Machine
open Sys2Proof

section ladder
variable {s t : State} {m : PMach} {x : PMachine}

@[simp] theorem pmOf_setPm : (s.setPm m x).pmOf m = x := by
  cases m with
  | device => rfl
  | tile k => exact tget_tput

/-- What only tells leaves the power machines. -/
theorem OnlyTold.pmOf_eq (h : OnlyTold s t) : t.pmOf m = s.pmOf m := by
  rw [h]
  rfl

/-! ## PWR_REQ (R538, R539, R552) -/

section requests
variable {w : Initiator} {v : BitVec 32} {target : PState} {n : Nat}

/-- STATE is as the row fixes it, and ARM as the operand gives it. -/
theorem fld_state_setFld (h : n < 8) : fld (setFld v 0 3 n) 0 3 = n ∧ (setFld v 0 3 n).getLsbD 3 = v.getLsbD 3 := by
  simp only [fld, setFld, nbits, BitVec.getLsbD, BitVec.toNat_ofNat, Nat.testBit_eq_decide_div_mod_eq, decide_eq_decide]
  omega

/-- A write of PWR_REQ whose row fixes one of the four states. -/
theorem runs_powerReq {c : Instr} (hc : ∀ s, exec c s = act (fun s => s.writePwrReq w (setFld v 0 3 n)) s)
    (hn : n ∈ [0, 3, 4, 5]) (hTarget : pwrTarget n = target) : Runs c (powerReq w v target) := by
  subst hTarget
  refine runs_of_act _ rfl hc fun s hpre => ?_
  have hSmall : n < 8 := by
    simp only [List.mem_cons, List.not_mem_nil, or_false] at hn
    omega
  obtain ⟨hState, hArm⟩ := fld_state_setFld (v := v) hSmall
  dsimp only [powerReq] at hpre ⊢
  obtain ⟨hParty, hNear⟩ := Bool.and_eq_true_iff.mp hpre
  unfold State.writePwrReq
  dsimp only
  rw [hState, hArm]
  cases hWho : initParty w with
  | none => simp [hWho] at hParty
  | some p =>
    simp only [hWho] at hParty
    refine (if_neg (by simp only [hn, hParty]; decide)).trans ((if_neg ?_).trans rfl)
    exact ne_true_of_eq_false ((Bool.not_eq_true' _).mp hNear)

end requests

/-! ## Entries and rollbacks (R542-R545) -/

/-- A step that is another, or whose wait is over, is not held (R542). -/
theorem not_held {step n : Nat} {wait : Bool} (h : step ≠ n ∨ wait = false) : ¬(decide (step = n) && wait) = true := by
  rw [Bool.and_eq_true, decide_eq_true_eq]
  rintro ⟨hStep, hWait⟩
  exact h.elim (· hStep) fun hOver => absurd (hOver.symm.trans hWait) Bool.false_ne_true

theorem runs_powerEntryStep : Runs (.powerEntryStep m) (powerEntryStepRule m) := by
  refine runs_of_act (execPowerEntryStep m) rfl (fun _ => rfl) fun s hpre => ?_
  dsimp only [powerEntryStepRule] at hpre ⊢
  cases hTrans : (s.pmOf m).trans with
  | entry target step =>
    simp only [hTrans, Bool.and_eq_true, Bool.or_eq_true, Bool.not_eq_true', decide_eq_true_eq, Option.isNone_iff_eq_none] at hpre
    obtain ⟨⟨⟨⟨⟨hLast, hTails⟩, hCores⟩, hCals⟩, hRefuser⟩, hAbort⟩ := hpre
    dsimp only
    rw [if_neg hLast, if_neg (not_held hTails), if_neg (not_held hCores),
      if_neg (not_held (hCals.imp_right fun h => congrArg not h)), hRefuser]
    refine if_neg ?_
    simp only [Bool.and_eq_true, decide_eq_true_eq, List.mem_cons, List.not_mem_nil, or_false, Option.isSome_iff_ne_none]
    rintro ⟨hStep, hSome⟩
    simp_all
  | _ => simp [hTrans] at hpre

/-- A transition that ends with nothing pending is followed by nothing (R545). -/
theorem pendGo_of_none (h : (s.pmOf m).pend = none) : s.pendGo m = s := by
  unfold State.pendGo
  dsimp only
  rw [h]

theorem runs_entryRollback : Runs (.entryRollback m) (entryRollbackRule m) := by
  refine runs_of_act (execEntryRollback m) rfl (fun _ => rfl) fun s hpre => ?_
  dsimp only [entryRollbackRule] at hpre ⊢
  obtain ⟨hpre, hPend⟩ := Bool.and_eq_true_iff.mp hpre
  obtain ⟨hpre, hAbort⟩ := Bool.and_eq_true_iff.mp hpre
  obtain ⟨hTrans, hAuto⟩ := Bool.and_eq_true_iff.mp hpre
  rw [Option.isNone_iff_eq_none] at hPend hAbort
  rw [Bool.not_eq_true'] at hAuto
  cases hRoll : (s.pmOf m).trans with
  | rollback b =>
    dsimp only
    rw [hAuto, hAbort]
    have hTold : ∀ u : State, OnlyTold u ((u.bump (cPwr 1)).signal 113) := fun _ => .signal onlyTold_bumpBy
    refine pendGo_of_none ?_
    rw [if_neg Bool.false_ne_true, (hTold _).pmOf_eq, pmOf_setPm]
    exact hPend
  | _ => simp [hRoll] at hTrans

/-! ## Automatic REED (R540) -/

theorem runs_autoReedEntry {t : Tile} : Runs (.autoReedEntry t) (autoReedEntryRule t) := by
  refine runs_of_act (execAutoReedEntry t) rfl (fun _ => rfl) fun s hpre => (if_pos hpre).trans ?_
  simp only [autoReedEntryRule, Bool.and_eq_true, decide_eq_true_eq] at hpre
  obtain ⟨⟨⟨⟨-, hActive⟩, -⟩, -⟩, -⟩ := hpre
  have hFirst : firstEntryStep (s.tilePower t.val).state = 1 := by rw [hActive]; rfl
  simp only [State.beginEntry, State.pmOf, hFirst]
  rfl

theorem runs_autoReedExit {t : Tile} : Runs (.autoReedExit t) (autoReedExitRule t) := by
  refine runs_of_act (execAutoReedExit t) rfl (fun _ => rfl) fun s hpre => ?_
  simp only [autoReedExitRule, Bool.and_eq_true, decide_eq_true_eq] at hpre ⊢
  obtain ⟨⟨⟨hAuto, hReed⟩, hTrans⟩, hNeeds⟩ := hpre
  rw [if_pos ⟨hAuto, hNeeds⟩]
  simp only [State.wakeOne, State.pmOf, hTrans, hReed, State.beginExit, hAuto, if_true]
  rfl

/-! ## Exits and bounds (R547, R549) -/

theorem runs_exitStepReady : Runs (.exitStepReady .device) exitStepReadyRule := by
  refine runs_of_act (execExitStepReady .device) rfl (fun _ => rfl) fun s hpre => ?_
  dsimp only [exitStepReadyRule, State.pmOf] at hpre ⊢
  cases hTrans : s.power.dev.trans with
  | exit step =>
    rw [hTrans] at hpre
    dsimp only at hpre ⊢
    obtain ⟨hpre, hTune⟩ := Bool.and_eq_true_iff.mp hpre
    obtain ⟨hReady, hStep⟩ := Bool.and_eq_true_iff.mp hpre
    rw [Bool.not_eq_true'] at hTune
    rw [hReady, if_neg (by decide), if_pos (of_decide_eq_true hStep), hTune]
    exact if_neg (by decide)
  | _ => simp [hTrans] at hpre

theorem runs_exitStepReadyTile {t : Tile} : Runs (.exitStepReady (.tile t)) (exitStepReadyTileRule t) := by
  refine runs_of_act (execExitStepReady (.tile t)) rfl (fun _ => rfl) fun s hpre => ?_
  dsimp only [exitStepReadyTileRule, State.pmOf] at hpre ⊢
  obtain ⟨hpre, hPend⟩ := Bool.and_eq_true_iff.mp hpre
  obtain ⟨hpre, hAuto⟩ := Bool.and_eq_true_iff.mp hpre
  obtain ⟨hTrans, hLow⟩ := Bool.and_eq_true_iff.mp hpre
  rw [Option.isNone_iff_eq_none] at hPend
  rw [Bool.not_eq_true'] at hAuto
  cases hExit : (s.tilePower t.val).trans with
  | exit step =>
    dsimp only
    have hStill : ∀ y, (s.setPm (.tile t) y).atOrBelow .sedge = true := fun _ => hLow
    unfold State.exited
    dsimp only
    rw [hStill, if_pos rfl]
    change (if (s.tilePower t.val).auto then _ else _ : State).pendGo (.tile t) = _
    rw [hAuto, if_neg Bool.false_ne_true]
    refine pendGo_of_none ?_
    rw [onlyTold_signal.pmOf_eq, pmOf_setPm]
    exact hPend
  | _ => simp [hExit] at hTrans

theorem runs_transitionOverrun : Runs (.transitionOverrun m) (transitionOverrunRule m) := by
  refine runs_of_act (execTransitionOverrun m) rfl (fun _ => rfl) fun s hpre => ?_
  dsimp only [transitionOverrunRule] at hpre ⊢
  obtain ⟨hLate, hOver⟩ := Bool.and_eq_true_iff.mp hpre
  rw [Bool.not_eq_true'] at hLate
  cases hTrans : (s.pmOf m).trans with
  | entry target step =>
    simp only [hTrans, decide_eq_true_eq] at hOver
    exact if_neg (by simp [hLate, hOver])
  | exit step =>
    simp only [hTrans, decide_eq_true_eq] at hOver
    exact if_neg (by simp [hLate, hOver])
  | _ => simp [hTrans] at hOver

end ladder

/-- Settles O40: requests by their party and their wake tick, and each transition by the machine's own state. -/
theorem powerLadder : Obligations.PowerLadder := by
  unfold Obligations.PowerLadder
  exact ⟨fun _ _ => runs_powerReq (fun _ => rfl) (by decide) rfl, fun _ _ => runs_powerReq (fun _ => rfl) (by decide) rfl,
    fun _ _ => runs_powerReq (fun _ => rfl) (by decide) rfl, fun _ _ => runs_powerReq (fun _ => rfl) (by decide) rfl,
    fun _ => runs_powerEntryStep, fun _ => runs_entryRollback, fun _ => runs_autoReedEntry, fun _ => runs_autoReedExit,
    runs_exitStepReady, fun _ => runs_exitStepReadyTile, fun _ => runs_transitionOverrun⟩

end Sys2Proof.Machine
end

