-- ==== Sys2Proof/Proofs/Supplies.lean ====
section
/-! PROOF. Wakes, supply rails and voltage scaling (R387, R537, R546-R550, R592, R596-R599). -/

namespace Sys2Proof.Machine
open Sys2Proof

section supplies
variable {s : State}

theorem runs_wakeTick : Runs .wakeTick wakeTickRule :=
  runs_of_act execWakeTick rfl (fun _ => rfl) fun _ hpre => if_pos hpre

/-- WAKE_N in a lower state begins the exit, and is recorded where the state was asked for (R546, R547). -/
theorem runs_wakeN : Runs .wakeN wakeNRule := by
  refine runs_of_act execWakeN rfl (fun _ => rfl) fun s hpre => ?_
  simp only [wakeNRule, Bool.and_eq_true, decide_eq_true_eq] at hpre ⊢
  obtain ⟨hTrans, hState⟩ := hpre
  unfold State.wake
  rw [if_pos (by simp [hState])]
  simp only [State.wakeOne, State.pmOf, hTrans, State.beginExit]
  refine (if_neg hState).trans ?_
  by_cases hAuto : s.power.dev.auto = true
  · simp only [hAuto, if_true]
    rfl
  · simp only [hAuto]
    rfl

/-- The supplies rise in their order once those before are good (R596). -/
theorem runs_psEnRaise {good : BitVec 8} : Runs (.psEnRaise good) (psEnRaiseRule good) := by
  refine runs_of_act (execPsEnRaise good) rfl (fun _ => rfl) fun s hpre => ?_
  simp only [psEnRaiseRule, Bool.and_eq_true, decide_eq_true_eq] at hpre ⊢
  obtain ⟨hRaising, hGood⟩ := hpre
  rw [if_pos hGood]
  refine (if_neg ?_).trans rfl
  rw [Bool.not_eq_true', Bool.not_eq_false]
  exact hRaising

/-- A tagged frame that leaves, or is discarded, leaves the supplies (R68, R416). -/
theorem samePower_sendTagged {c : Option Nat} {vc : Nat} {g : Tag} {body : Bytes} : SamePower s (s.sendTagged c vc g body) :=
  .ite samePower_bumpBy samePower_sendOwn

/-- A sum that leaves alone leaves the supplies (R178). -/
theorem samePower_sendAlone {k : UlBlock} : SamePower s (s.sendAlone k) := by
  have hUl : ∀ {u : State} {y : UlBlock} {n : Nat} {last : Bool}, SamePower u (u.sendUl y n last) := fun {u} _ _ _ =>
    SamePower.trans (t := u.bumpBy (cBeam 3) _) samePower_bumpBy samePower_sendTagged
  exact SamePower.trans (t := s.bump (cBeam 13)) ⟨rfl, rfl⟩ (.trans hUl ⟨rfl, rfl⟩)

theorem samePower_flushHolds : SamePower s s.flushHolds :=
  SamePower.trans (t := { s with rx := { s.rx with own := [] } }) ⟨rfl, rfl⟩ (.foldl fun _ _ => samePower_sendAlone)

/-- A port whose partner is lost leaves the supplies (R402, R422). -/
theorem samePower_partnerLost {p : Nat} {up was : Bool} : SamePower s (s.partnerLost p up was) := by
  unfold State.partnerLost
  extract_lets reqs port u v w
  have hRaised : SamePower s u := SamePower.trans (t := s.signal 73) (.signal .refl) ⟨rfl, rfl⟩
  have hAnswered : SamePower s v := hRaised.trans (.foldl fun _ _ => samePower_sendOwn)
  have hLost : SamePower s w := .ite (.ite (hAnswered.trans samePower_flushHolds) hAnswered) .refl
  exact .ite hLost.signal hLost

/-- A port that goes DOWN leaves the supplies (R402). -/
theorem samePower_portDown {p : Nat} : SamePower s (s.portDown p) := by
  unfold State.portDown
  extract_lets x up u v
  have hDown : SamePower s u := ⟨rfl, rfl⟩
  have hCleared : SamePower s v := hDown.trans (.foldl (f := fun s v => s.setVl p v {}) fun _ _ => ⟨rfl, rfl⟩)
  exact .ite .refl (hCleared.trans samePower_partnerLost)

/-- Lanes that are off leave the supplies (R383, R598). -/
theorem power_lanesOff : s.lanesOff.power = s.power := by
  have hDown : ∀ {u : State} {l : Nat}, (u.laneDown l).power = u.power := fun {u l} => by
    unfold State.laneDown
    split
    · exact samePower_portDown.1
    · rfl
  exact foldl_keeps (P := fun u : State => u.power = s.power) rfl fun _ _ h => hDown.trans h

/-- A PS_GOOD that falls is a fault where its PS_EN is high; that of VDD_LANE idles every lane (R598). -/
theorem runs_psGoodFall {b : RailBit} : Runs (.psGoodFall b) (psGoodFallRule b) := by
  refine runs_of_act (execPsGoodFall b) rfl (fun _ => rfl) fun s hpre => ?_
  have hGood : s.power.psGood.getLsbD b.val = true := hpre
  refine (if_neg (by rw [hGood]; decide)).trans ?_
  dsimp only [psGoodFallRule]
  by_cases hLanes : b.val = 6
  · simp only [hLanes, if_true, power_lanesOff]
  · simp only [hLanes, if_false]

theorem runs_psGoodTimeout {b : RailBit} : Runs (.psGoodTimeout b) (psGoodTimeoutRule b) := by
  refine runs_of_act (execPsGoodTimeout b) rfl (fun _ => rfl) fun s hpre => if_pos ?_
  simp only [psGoodTimeoutRule, Bool.and_eq_true] at hpre ⊢
  exact and_right_comm.mp hpre

theorem runs_avsStep {up : Bool} : Runs (.avsStep up) (avsStepRule up) := by
  refine runs_of_act (execAvsStep up) rfl (fun _ => rfl) fun s hpre => if_neg ?_
  dsimp only [avsStepRule] at hpre
  simp only [Bool.and_eq_true, Bool.not_eq_true', decide_eq_true_eq] at hpre
  obtain ⟨⟨hMoves, hDue⟩, hOn⟩ := hpre
  simp [hMoves, Nat.not_lt.mpr hDue, hOn]

end supplies

/-- Settles O41: wakes by the device's state, supplies by their order and their PS_GOOD. -/
theorem wakesAndSupplies : Obligations.WakesAndSupplies := by
  unfold Obligations.WakesAndSupplies
  exact ⟨runs_wakeTick, runs_wakeN, fun _ => runs_psEnRaise, fun _ => runs_psGoodFall, fun _ => runs_psGoodTimeout,
    fun _ => runs_avsStep⟩

end Sys2Proof.Machine
end

