-- ==== Sys2Proof/Proofs/Modes.lean ====
section
/-! PROOF. Operating modes, boot and resets (R553-R563). -/

namespace Sys2Proof.Machine
open Sys2Proof

section modes
variable {s : State} {w : Initiator} {m : Mode}

/-! ## Mode requests (R553-R555) -/

/-- A request that may be made is no error (R554, R555). -/
theorem modeReq_taken (h : s.mayChange w m = true) :
    ¬(!(w = .host || w = .mgmt) || s.power.dev.trans ≠ .none || !s.modeAllows m : Bool) = true := by
  simp only [State.mayChange, Bool.and_eq_true, decide_eq_true_eq] at h
  obtain ⟨⟨hParty, hTrans⟩, hAllowed⟩ := h
  simp [hParty, hTrans, hAllowed]

theorem runs_modeReqService : Runs (.modeReqService w) (modeReqServiceRule w) :=
  runs_of_act (execModeReqService w) rfl (fun _ => rfl) fun _ hpre => (if_neg (modeReq_taken hpre)).trans rfl

theorem runs_modeReqMaintenance : Runs (.modeReqMaintenance w) (modeReqMaintenanceRule w) :=
  runs_of_act (execModeReqMaintenance w) rfl (fun _ => rfl) fun _ hpre => (if_neg (modeReq_taken hpre)).trans rfl

theorem runs_modeReqTest : Runs (.modeReqTest w) (modeReqTestRule w) :=
  runs_of_act (execModeReqTest w) rfl (fun _ => rfl) fun _ hpre => (if_neg (modeReq_taken hpre)).trans rfl

theorem runs_modeReqWarmup : Runs (.modeReqWarmup w) (modeReqWarmupRule w) :=
  runs_of_act (execModeReqWarmup w) rfl (fun _ => rfl) fun _ hpre => (if_neg (modeReq_taken hpre)).trans rfl

/-- Outside BOOT and RECOVERY the receive and transmit enables go low with the mode (R530). -/
theorem enterTimeout_none (hBoot : s.mode.mode ≠ .boot) (hRecovery : s.mode.mode ≠ .recovery) : s.enterTimeout none =
    let u := (List.range 16).foldl (fun u q => u.setRxEn q false) ({ s with mode := { s.mode with mode := .timeout } } : State)
    { u with fe := { u.fe with txEn := 0 } } := by
  unfold State.enterTimeout
  cases hMode : s.mode.mode with
  | boot => exact absurd hMode hBoot
  | recovery => exact absurd hMode hRecovery
  | _ =>
    dsimp only
    rw [hMode]

theorem runs_modeReqTimeout : Runs (.modeReqTimeout w) (modeReqTimeoutRule w) := by
  refine runs_of_act (execModeReqTimeout w) rfl (fun _ => rfl) fun s hpre => (if_neg (modeReq_taken hpre)).trans ?_
  have hAllowed : s.modeAllows .timeout = true := (Bool.and_eq_true_iff.mp hpre).2
  have hBoot : s.mode.mode ≠ .boot := by rintro h; simp [State.modeAllows, h] at hAllowed
  have hRecovery : s.mode.mode ≠ .recovery := by rintro h; simp [State.modeAllows, h] at hAllowed
  exact congrArg State.done (enterTimeout_none hBoot hRecovery)

/-! ## Boot and calibration (R554, R561, R581) -/

/-- With no cause of R529 and no trial, BOOT goes on to WARMUP, and unreadable settings are told (R554, R581). -/
theorem settings_read {good : Bool} (hTrial : s.sess.trial = false) (hCauses : s.mode.causes = 0) :
    (let u := if good then (if s.sess.trial then s.convertSettings else s) else s.signal 120
     if u.mode.causes = 0 then u.setMode .warmup else (u.setMode .warmup).enterTimeout none) =
    (if good then s else s.signal 120).setMode .warmup := by
  cases good with
  | true =>
    simp only [if_true, hTrial, Bool.false_eq_true, if_false, hCauses]
  | false =>
    have hTold : OnlyTold s (s.signal 120) := onlyTold_signal
    have hSame : (s.signal 120).mode.causes = 0 := by rw [hTold]; exact hCauses
    simp only [Bool.false_eq_true, if_false, hSame, if_true]

theorem runs_settingsRead : Runs .settingsRead settingsReadRule := by
  refine runs_of_act execSettingsRead rfl (fun _ => rfl) fun s hpre => ?_
  simp only [settingsReadRule, Bool.and_eq_true, Bool.not_eq_true', decide_eq_true_eq] at hpre
  obtain ⟨⟨⟨hBoot, hOn⟩, hCauses⟩, hTrial⟩ := hpre
  refine (if_neg (by simp [hBoot, hOn])).trans ?_
  exact settings_read (s := { s with mode := { s.mode with bootcnt := 0 }, sess := { s.sess with unread := !_ } }) hTrial hCauses

theorem runs_calibrationComplete : Runs .calibrationComplete calibrationCompleteRule := by
  refine runs_of_act execCalibrationComplete rfl (fun _ => rfl) fun s hpre => ?_
  simp only [calibrationCompleteRule, Bool.and_eq_true, Bool.not_eq_true', decide_eq_true_eq] at hpre
  obtain ⟨⟨⟨hWarm, hRead⟩, hHeld⟩, hOn⟩ := hpre
  refine (if_neg (by simp [hWarm, hRead, hHeld, hOn])).trans ?_
  dsimp only [calibrationCompleteRule]
  cases hAuto : (s.reg rModeCfg).getLsbD 1 with
  | true => exact if_pos hAuto
  | false =>
    refine (if_neg (ne_true_of_eq_false hAuto)).trans ?_
    rw [if_neg Bool.false_ne_true, ← hWarm]

/-! ## Resets (R556, R559) -/

theorem runs_softwareReset {v : BitVec 32} : Runs (.softwareReset w v) (softwareResetRule w v) := by
  refine runs_of_act (execSoftwareReset w v) rfl (fun _ => rfl) fun s hpre => ?_
  simp only [softwareResetRule, Bool.and_eq_true, decide_eq_true_eq] at hpre
  obtain ⟨hKey, hParty⟩ := hpre
  dsimp only [softwareResetRule, State.writeRst]
  rw [if_neg (not_not.mpr hKey), if_pos (by simpa using hParty), State.selfReset]

theorem runs_bootWatchdogExpiry : Runs .bootWatchdogExpiry bootWatchdogExpiryRule :=
  runs_of_act execBootWatchdogExpiry rfl (fun _ => rfl) fun s hpre => by
    dsimp only [bootWatchdogExpiryRule] at hpre ⊢
    rw [if_pos hpre, State.selfReset]

end modes

/-- Settles O42: requests that R554 allows, boot by its settings, and resets by their key. -/
theorem modesAndResets : Obligations.ModesAndResets := by
  unfold Obligations.ModesAndResets
  exact ⟨fun _ => runs_modeReqService, fun _ => runs_modeReqMaintenance, fun _ => runs_modeReqTest, fun _ => runs_modeReqWarmup,
    fun _ => runs_modeReqTimeout, runs_settingsRead, runs_calibrationComplete, fun _ _ => runs_softwareReset,
    runs_bootWatchdogExpiry⟩

end Sys2Proof.Machine
end

