-- ==== Sys2Proof/Proofs/UpdateSessions.lean ====
section
/-! PROOF. Messages of update sessions, and their timers (R562, R565-R583). -/

namespace Sys2Proof.Machine
open Sys2Proof

/-- What a message of an operation does once its sender may send it (R570-R573). -/
def State.served (s : State) (r : Route) (m : SessMsg) (op : Nat) : State :=
  match op with
  | 1 => s.sessOpen r m
  | 2 => s.sessWrite r m
  | 3 => s.sessFinish r m
  | 4 => s.sessActivate r m
  | 5 => s.sessConfirm r m
  | 6 => s.sessAbort r m
  | 7 => s.sessStatus r m
  | 8 => s.sessRead r m
  | 9 => s.sessFallback r m
  | _ => s.answer r m 13 0 []

section sessions
variable {s t : State} {r : Route} {m : SessMsg} {op : Nat}

/-! ## Who is served (R571, R572) -/

/-- While no session is open, an operation that needs none is served. -/
theorem session_unheld (h : s.unheld m = true) (hOp : needsSession op = false) : s.session r m op = s.served r m op := by
  simp only [State.unheld, Bool.and_eq_true, decide_eq_true_eq] at h
  obtain ⟨⟨hOn, hZero⟩, hNone⟩ := h
  unfold State.session
  simp only [hOn, hZero, hNone, hOp, Bool.not_true, Bool.and_false, Bool.false_and, Bool.false_eq_true, if_false, ne_eq,
    not_true_eq_false, decide_false, Bool.not_false]
  rfl

/-- A message of the holder is served, and restarts the lock's time. -/
theorem session_fromHolder (h : s.fromHolder r m m.client = true) (hOp : op ≠ 1) : s.session r m op = s.heard.served r m op := by
  simp only [State.fromHolder, Bool.and_eq_true, decide_eq_true_eq] at h
  obtain ⟨⟨⟨⟨hOn, hZero⟩, hHeld⟩, hRoute⟩, hClient⟩ := h
  unfold State.session
  extract_lets client held mine sess u
  have hMine : mine = true := by
    simp only [mine, held, client, if_neg hOp, hRoute, hClient, hHeld, ne_eq, not_false_eq_true, decide_true, Bool.and_self]
  have hu : u = s.heard := if_pos hMine
  clear_value mine u
  subst hMine hu
  rw [hOn, if_neg (by decide), if_neg (not_not.mpr hZero), if_neg (by simp), if_neg (by simp [held, hHeld])]
  rfl

/-- From anyone while no session is open, else from the holder. -/
theorem session_byHolder (h : s.byHolder r m = some t) (hOp : op ≠ 1) (hFree : needsSession op = false) :
    s.session r m op = t.served r m op := by
  unfold State.byHolder at h
  split at h
  · next hUnheld =>
    cases h
    exact session_unheld hUnheld hFree
  · split at h
    · next hHolder =>
      cases h
      exact session_fromHolder hHolder hOp
    · cases h

/-- The sender's session changes at most the time of its last message. -/
theorem byHolder_cases (h : s.byHolder r m = some t) : t = s ∨ t = s.heard := by
  unfold State.byHolder at h
  split at h
  · exact .inl (Option.some.inj h).symm
  · split at h
    · exact .inr (Option.some.inj h).symm
    · cases h

/-- The holder's message leaves its session but for the time (R572). -/
theorem sess_heard : s.heard.sess = { s.sess with lastAt := s.clock } := rfl

/-- The time of the last message is no part of the boot record, nor of the settings areas (R564, R579). -/
theorem bytesAt_heard {a n : Nat} : s.heard.bytesAt a n = s.bytesAt a n := by
  induction n generalizing a with
  | zero => rfl
  | succ n ih => exact congrArg (s.byteAt a :: ·) ih

theorem bootCopy_heard : s.heard.bootCopy = s.bootCopy := by
  have hBytes : s.heard.bytesAt = s.bytesAt := funext fun _ => funext fun _ => bytesAt_heard
  unfold State.bootCopy
  rw [hBytes]

theorem bootRec_heard : s.heard.bootRec = s.bootRec := by
  unfold State.bootRec
  rw [bootCopy_heard]
  cases s.bootCopy with
  | none => rfl
  | some i => exact congrArg bootOf bytesAt_heard

theorem curArea_heard : s.heard.curArea = s.curArea := by
  rw [State.curArea, bootRec_heard, State.curArea]

theorem trialArea_heard : s.heard.trialArea = s.trialArea := by
  rw [State.trialArea, curArea_heard, State.trialArea]

theorem areaContent_heard {i : Nat} : s.heard.areaContent i = s.areaContent i := by
  rw [State.areaContent, bytesAt_heard, bytesAt_heard, State.areaContent]

/-! ## Messages (R570-R578) -/

theorem runs_sessionOpen : Runs (.sessionOpen r m) (sessionOpenRule r m) := by
  refine runs_of_act (execSessionOpen r m) rfl (fun _ => rfl) fun s hpre => ?_
  simp only [sessionOpenRule, Bool.and_eq_true, decide_eq_true_eq] at hpre
  obtain ⟨⟨⟨⟨⟨⟨hUnheld, hCrc⟩, hLength⟩, hKind⟩, hExport⟩, hZero⟩, hAllowed⟩ := hpre
  have hNone : s.sess.state = .none := of_decide_eq_true (Bool.and_eq_true_iff.mp hUnheld).2
  refine (session_unheld hUnheld rfl).trans ?_
  refine (if_neg (not_not.mpr hCrc)).trans ((if_neg ?_).trans ((if_neg (by simp [hNone, hAllowed])).trans rfl))
  cases hExp : pbit m.data 2 <;> simp_all

theorem runs_sessionWrite : Runs (.sessionWrite r m) (sessionWriteRule r m) := by
  refine runs_of_act (execSessionWrite r m) rfl (fun _ => rfl) fun s hpre => ?_
  simp only [sessionWriteRule, Bool.and_eq_true, Bool.not_eq_true', decide_eq_true_eq] at hpre
  obtain ⟨⟨⟨⟨⟨⟨⟨⟨⟨hHolder, hState⟩, hExport⟩, hOffset⟩, hWords⟩, hSome⟩, hMost⟩, hLength⟩, hFits⟩, hCrc⟩ := hpre
  refine (session_fromHolder hHolder (by decide)).trans ?_
  refine (if_neg (by simp [sess_heard, hState, hExport])).trans ((if_neg ?_).trans ((if_neg (not_not.mpr hCrc)).trans rfl))
  simp [hOffset, hWords, hSome, Nat.not_lt.mpr hMost, hLength, sess_heard, Nat.not_lt.mpr hFits]

theorem runs_sessionFinish : Runs (.sessionFinish r m) (sessionFinishRule r m) := by
  refine runs_of_act (execSessionFinish r m) rfl (fun _ => rfl) fun s hpre => ?_
  simp only [sessionFinishRule, Bool.and_eq_true, Bool.not_eq_true', decide_eq_true_eq] at hpre
  obtain ⟨⟨⟨⟨⟨hHolder, hState⟩, hExport⟩, hFits⟩, hReg⟩, hWhole⟩ := hpre
  refine (session_fromHolder hHolder (by decide)).trans ?_
  refine (if_neg (by simp [sess_heard, hState, hExport])).trans ((if_neg ?_).trans ((if_neg ?_).trans rfl))
  · simp only [Bool.or_eq_true, decide_eq_true_eq] at hReg
    simp only [sess_heard, Nat.not_lt.mpr hFits, decide_false, Bool.false_or, Bool.and_eq_true, decide_eq_true_eq, not_and, not_not]
    exact fun hKind => hReg.resolve_left (not_not.mpr (of_decide_eq_true hKind))
  · simp [sess_heard, hWhole]

theorem runs_sessionRead : Runs (.sessionRead r m) (sessionReadRule r m) := by
  refine runs_of_act (execSessionRead r m) rfl (fun _ => rfl) fun s hpre => ?_
  simp only [sessionReadRule, Bool.and_eq_true, decide_eq_true_eq] at hpre
  obtain ⟨⟨⟨⟨hHolder, hState⟩, hExport⟩, hMost⟩, hFits⟩ := hpre
  rw [session_fromHolder hHolder (by decide)]
  dsimp only [State.served, State.sessRead, sessionReadRule]
  rw [if_neg (by simp [sess_heard, hState, hExport]), if_neg (by simp [Nat.not_lt.mpr hMost, payLimit, Nat.not_lt.mpr hFits]),
    areaContent_heard, curArea_heard, trialArea_heard]
  rfl

theorem runs_sessionFallback : Runs (.sessionFallback r m) (sessionFallbackRule r m) := by
  refine runs_of_act (execSessionFallback r m) rfl (fun _ => rfl) fun s hpre => ?_
  dsimp only [sessionFallbackRule] at hpre ⊢
  obtain ⟨hSome, hTrial⟩ := Bool.and_eq_true_iff.mp hpre
  obtain ⟨t, ht⟩ := Option.isSome_iff_exists.mp hSome
  have hTrial' : t.sess.trial = true := by
    obtain rfl | rfl := byHolder_cases ht <;> exact hTrial
  rw [session_byHolder ht (by decide) rfl, ht]
  refine (if_neg ?_).trans rfl
  rw [hTrial']
  decide

/-! ### Activation and confirmation (R573, R577) -/

/-- Outside RECOVERY the verified image is marked for trial, and the device resets (R573). -/
theorem sessActivate_trial (hState : s.sess.state = .verified) (hKind : s.sess.kind = 0) (hMode : s.mode.mode ≠ .recovery) :
    s.sessActivate r m =
      let u := (s.putBoot { s.bootRec.setSt s.sess.target 2 with tried := false, src := routeCode r }).answer r m 0 0 []
      let u : State := { u with sess := { u.sess with trialSecs := max 1 (fld (u.reg rUpdTrial) 0 16) } }
      { (u.resetLogic 2).bootRom false with resp := u.resp } := by
  refine (if_neg (by simp [hState, hKind])).trans ?_
  simp only [hMode, decide_false, Bool.false_and, Bool.false_eq_true, if_false]
  rfl

theorem runs_sessionActivate : Runs (.sessionActivate r m) (sessionActivateRule r m) := by
  refine runs_of_act (execSessionActivate r m) rfl (fun _ => rfl) fun s hpre => ?_
  simp only [sessionActivateRule, Bool.and_eq_true, decide_eq_true_eq] at hpre
  obtain ⟨⟨⟨hHolder, hState⟩, hKind⟩, hMode⟩ := hpre
  have hTrial := sessActivate_trial (s := s.heard) (r := r) (m := m) hState hKind hMode
  rw [bootRec_heard] at hTrial
  exact (session_fromHolder hHolder (by decide)).trans hTrial

/-- Trial firmware whose settings stand in the current area becomes ACTIVE (R567, R577). -/
theorem sessConfirm_confirmed (hTrial : s.sess.trial = true)
    (hMode : (s.mode.mode = .warmup || s.mode.mode = .service || s.mode.mode = .maintenance) = true) (hRead : s.sess.unread = false)
    (hArea : nbits s.bootRec.area 1 1 = s.curArea) (hOther : s.bootRec.st (1 - s.mode.slot.toNat) ≠ 3) :
    s.sessConfirm r m =
      let u := s.putBoot { s.bootRec.setSt s.mode.slot.toNat 3 with tried := false, area := s.curArea }
      let ver := imgSecver (u.bytesAt (slotBase s.mode.slot.toNat) 32)
      let u := if fld (u.reg rUpdSecver) 0 16 < ver then u.setReg rUpdSecver (BitVec.ofNat 32 ver) else u
      let u : State := { u with sess := { u.sess with trial := false } }
      u.answer r m 0 (u.reg rUpdSecver).toNat [] := by
  unfold State.sessConfirm
  refine (if_neg ?_).trans ?_
  · rw [hTrial]
    cases h : s.mode.mode <;> simp_all
  · rw [if_neg (ne_true_of_eq_false hRead)]
    dsimp only
    rw [if_neg hOther, hArea, if_pos rfl]

theorem runs_sessionConfirm : Runs (.sessionConfirm r m) (sessionConfirmRule r m) := by
  refine runs_of_act (execSessionConfirm r m) rfl (fun _ => rfl) fun s hpre => ?_
  dsimp only [sessionConfirmRule] at hpre ⊢
  obtain ⟨hpre, hOther⟩ := Bool.and_eq_true_iff.mp hpre
  obtain ⟨hpre, hArea⟩ := Bool.and_eq_true_iff.mp hpre
  obtain ⟨hpre, hRead⟩ := Bool.and_eq_true_iff.mp hpre
  obtain ⟨hpre, hMode⟩ := Bool.and_eq_true_iff.mp hpre
  obtain ⟨hSome, hTrial⟩ := Bool.and_eq_true_iff.mp hpre
  rw [decide_eq_true_eq] at hOther hArea
  rw [Bool.not_eq_true'] at hRead
  obtain ⟨t, ht⟩ := Option.isSome_iff_exists.mp hSome
  rw [session_byHolder ht (by decide) rfl, ht]
  obtain rfl | rfl := byHolder_cases ht
  · exact sessConfirm_confirmed hTrial hMode hRead hArea hOther
  · have hConfirmed := sessConfirm_confirmed (s := s.heard) (r := r) (m := m) hTrial hMode hRead
    rw [bootRec_heard, curArea_heard] at hConfirmed
    exact hConfirmed hArea hOther

theorem runs_sessionAbort : Runs (.sessionAbort r m) (sessionAbortRule r m) :=
  runs_of_act (execSessionAbort r m) rfl (fun _ => rfl) fun _ hpre => session_fromHolder hpre (by decide)

theorem runs_sessionStatus : Runs (.sessionStatus r m) (sessionStatusRule r m) := by
  refine runs_of_act (execSessionStatus r m) rfl (fun _ => rfl) fun s hpre => ?_
  dsimp only [sessionStatusRule] at hpre ⊢
  rw [session_unheld hpre rfl]
  rfl

/-! ## Timers (R572, R578) -/

theorem runs_sessionLockExpiry : Runs .sessionLockExpiry sessionLockExpiryRule := by
  refine runs_of_act execSessionLockExpiry rfl (fun _ => rfl) fun s hpre => ?_
  simp only [sessionLockExpiryRule, Bool.and_eq_true, decide_eq_true_eq] at hpre
  obtain ⟨⟨hOpen, hDue⟩, hOn⟩ := hpre
  exact if_neg (by simp [hOpen, Nat.not_lt.mpr hDue, hOn])

theorem runs_trialWindowExpiry : Runs .trialWindowExpiry trialWindowExpiryRule := by
  refine runs_of_act execTrialWindowExpiry rfl (fun _ => rfl) fun s hpre => ?_
  simp only [trialWindowExpiryRule, Bool.and_eq_true, decide_eq_true_eq] at hpre
  obtain ⟨⟨hTrial, hDue⟩, hMode⟩ := hpre
  dsimp only [trialWindowExpiryRule]
  rw [if_neg (by simp [hTrial, Nat.not_lt.mpr hDue, hMode])]

end sessions

/-- Settles O44: each message that its session takes, and the timers of the lock and the trial. -/
theorem updateSessions : Obligations.UpdateSessions := by
  unfold Obligations.UpdateSessions
  exact ⟨fun _ _ => runs_sessionOpen, fun _ _ => runs_sessionWrite, fun _ _ => runs_sessionFinish, fun _ _ => runs_sessionActivate,
    fun _ _ => runs_sessionConfirm, fun _ _ => runs_sessionAbort, fun _ _ => runs_sessionStatus, fun _ _ => runs_sessionRead,
    fun _ _ => runs_sessionFallback, runs_sessionLockExpiry, runs_trialWindowExpiry⟩
end Sys2Proof.Machine
end
